-- ==== Sys2Proof/Word.lean ====
section
/-! DEFINITION. The word types of the GL-9100: register words of 64 and 32 bits, bytes, and the block of a cipher. -/

namespace Sys2Proof

/-- A unit register or a Yusil general register (R901, R326). -/
abbrev Word := BitVec 64

/-- A 32-bit half of a register access (R902). -/
abbrev Half := BitVec 32

/-- A byte of any memory of the module. -/
abbrev Byte := BitVec 8

/-- A block of the AES cipher (R690). -/
abbrev Block128 := BitVec 128

/-- A cipher key. -/
abbrev Key256 := BitVec 256

end Sys2Proof
end

