-- ==== Sys2Proof/Syntax.lean ====
section
/-! DEFINITION. The commands of the block: one constructor of `Instr` per row of spec/opcode_table.json, with their operands. -/

namespace Sys2Proof

/-- A command of a queue, named by its function, submission queue and command identifier. -/
structure CmdRef where
  fn : Nat
  sq : Nat
  cid : Nat
deriving DecidableEq, Repr

/-- What a command's SGL says (R570 to R572): the descriptor types met and the bytes its Data Blocks describe. -/
structure SglFacts where
  types : List Nat
  bytes : Nat
deriving DecidableEq, Repr

/-- A submission queue entry with the host data that its descriptors reach. A command with PRPs has no SGL facts (R575). -/
structure Sqe where
  opc : Nat
  fuse : Nat
  cid : Nat
  nsid : Nat
  cdw10 : Nat
  cdw11 : Nat
  cdw12 : Nat
  cdw13 : Nat
  cdw14 : Nat
  cdw15 : Nat
  /-- Bytes in the data buffer, for a transfer to the module. -/
  data : List (BitVec 8)
  /-- Bytes in the metadata buffer of a separate-metadata format. -/
  md : List (BitVec 8)
  /-- The data pointer is zero (R538). -/
  dptrZero : Bool
  /-- First pointer of the entry: the base address of a queue that is created. -/
  prp1 : Nat
  sgl : Option SglFacts
deriving DecidableEq, Repr

/-- Who writes a unit's register: the PF through BAR0, or the task running on a core through a door (R303, R904). -/
inductive Requester where
  | pf
  | core (k : Fin 256)
deriving DecidableEq, Repr

/-- What a die answers to a program or an erase. -/
inductive DieStatus where
  | pass
  /-- The plane whose part failed. -/
  | fail (plane : Fin 4)
  /-- The die reports an internal fault (R147). -/
  | fault
deriving DecidableEq, Repr

/-- The step of R109 at which a read decodes; `recovered` is the cross-station code of R112, `failed` no step. -/
inductive ReadOutcome where
  | hard
  | retry (steps : Nat)
  | soft
  | rebuilt
  | recovered
  | failed
deriving DecidableEq, Repr

/-- What the compressor returns for a packed grain (R105, R487). -/
inductive PackOutcome where
  | frame (bytes : Nat)
  | notSmaller
  | verifyFail
deriving DecidableEq, Repr

/-- A grain as stations exchange it: identity, written blocks, data and metadata. -/
structure GrainMsg where
  nsid : Nat
  bale : Nat
  grain : Nat
  bits : Nat
  data : List (BitVec 8)
  md : List (BitVec 8)
deriving DecidableEq, Repr

/-- What a HELLO says (R611): protocol versions, station, sending link, caravan identity, coordinates, capacity variant, firmware
set. -/
structure HelloMsg where
  versions : List Nat
  station : Fin 64
  link : Fin 4
  caravan : BitVec 64
  x : Nat
  y : Nat
  is200 : Bool
  fwSet : Nat
deriving DecidableEq, Repr

/-- What the decode of a DRAM line gives (R756 to R758): corrected symbols of a device, or uncorrectable; `line` is the line's
number in its page. -/
inductive DramOutcome where
  | clean
  | corrected (device symbols : Nat)
  | uncorrectable
deriving DecidableEq, Repr

/-- The commands of the block, in the order of the table of operations and events. -/
inductive Instr where
  /-- PWR_EN_ASSERTED, R31: PWR_EN is asserted with the supply in 9.0–60.0 V and a Dark module starts Kindling. -/
  | pwrEnAsserted
  /-- PWR_EN_DEASSERTED, R885: PWR_EN is deasserted: Kindling goes Dark, Lit runs the ember flush then goes Dark, and Extinguished goes Dark. -/
  | pwrEnDeasserted
  /-- INPUT_UNDERVOLTAGE, R33: The input stays below 8.0 V for 50 µs and the ember flush starts from the hold-up store. -/
  | inputUndervoltage
  /-- INPUT_OVERVOLTAGE, R813: The input stays above 60.0 V for 100 ms, or rises above 80 V; the module disconnects the input and flushes from the store. -/
  | inputOvervoltage
  /-- INPUT_RESTORED, R822: After a flush that ended in Dark, the input holds at or above 9.0 V for 10 ms with PWR_EN asserted and Kindling begins again. -/
  | inputRestored
  /-- EMBER_FLUSH_STEP_DONE, R161: A flush step ends (programs finished, reserve programs passed, journal durable) and the next step begins. -/
  | emberFlushStepDone
  /-- EMBER_FLUSH_END, R41: The flush ends; on entry to Extinguished the admitted commands are settled, otherwise the module goes Dark. -/
  | emberFlushEnd
  /-- ALARM, R731: An alarm cause (supply glitch, temperature, timing anomaly, enclosure switch) erases every key and extinguishes the module with reason 0x05. -/
  | alarm (causes : BitVec 8)
  /-- SENSOR_READ, R824: A sensor is read, each 64 ms round or every 2 ms near an edge; its band, broken state and vote are updated. -/
  | sensorRead (sensor : Fin 94) (tenths : Int) (selfTest : Bool)
  /-- SUPPLY_MEASUREMENT, R815: Every 100 µs on TD18 the input voltage, current and power are measured and the averages and maxima updated. -/
  | supplyMeasurement (vin iin deciwatt vstore : Nat)
  /-- HOLDUP_CHECK_DUE, R817: 24 h of operating seconds pass while Lit and an energy-margin check starts. -/
  | holdupCheckDue
  /-- CHECK_NOW, R817: A write of HK_HOLDUP_CTRL.CHECK_NOW starts an energy-margin check unless one is running. -/
  | checkNow
  /-- HOLDUP_CHECK_DONE, R818: A check's draw from 70 V to 68 V ends; the margin is computed and a failing pair of checks extinguishes the module with reason 0x09. -/
  | holdupCheckDone (capacitance energy : Nat)
  /-- HOLDUP_STORE_LOW, R819: The store stays below 65 V for 1 s outside a check, which counts as a failed check. -/
  | holdupStoreLow
  /-- HOLDUP_CHARGED, R820: The hold-up store reaches its charge during Kindling and the first check begins. -/
  | holdupCharged
  /-- PACE_WINDOW, R832: A 10 µs pace window ends; the wing regulator steps VCORE up, down or holds it. -/
  | paceWindow (wing : Fin 8) (m0 m1 m2 m3 : BitVec 16)
  /-- KEEPER_CORE_FAULT, R385: A keeper core faults; its firmware restarts, and a second fault in the wing within 1 s faults the compute part. -/
  | keeperCoreFault (wing : Fin 8) (kcore : BitVec 8) (code : BitVec 8) (pc : Word)
  /-- WING_RETURN_HOLD_DONE, R835: Every monitor of a returning wing has held its target for 100 ms and the return completes. -/
  | wingReturnHoldDone (wing : Fin 8)
  /-- KINDLING_STEP_DONE, R842: A Kindling step completes and the next step, or the final audit, begins. -/
  | kindlingStepDone (step : Fin 10) (bits : BitVec 8) (devices : List (Nat × Nat))
  /-- CONFIG_REQUEST, R34: A PCIe configuration request is answered, with Request Retry Status until the module is ready. -/
  | configRequest
  /-- PERST_ASSERTED, R39: PERST# is asserted; while Lit the module stops fetching, completes admitted commands and closes as in a clean shutdown. -/
  | perstAsserted
  /-- PERST_DEASSERTED, R34: PERST# deasserts; link training starts and Kindling begins or restarts. -/
  | perstDeasserted
  /-- NVM_SUBSYSTEM_RESET, R39: An NVM Subsystem Reset is taken as PERST# is: orderly shutdown, then Kindling. -/
  | nvmSubsystemReset
  /-- HOT_RESET, R507: A Hot Reset or DL_Down without PERST# acts as a controller reset on every function without Kindling. -/
  | hotReset
  /-- CONTROLLER_RESET, R588: CC.EN goes 1 to 0; uncommitted commands are discarded, committed ones run on without completions, and queues are deleted. -/
  | controllerReset (fn : Fin 1024)
  /-- CONTROLLER_ENABLE, R37: CC.EN goes 0 to 1 and CSTS.RDY is set within its bound for the state and CC.CRIME. -/
  | controllerEnable (fn : Fin 1024) (cc aqa : BitVec 32) (asq acq : Word)
  /-- SHUTDOWN_NOTIFICATION, R913: CC.SHN is written 01b or 10b; SHST goes to 01b and the controller or module stops fetching. -/
  | shutdownNotification (fn : Fin 1024) (shn : BitVec 2)
  /-- SHUTDOWN_PROCESSING_DONE, R913: Admitted commands have completed and the forecourt and journal are closed; SHST goes to 10b. -/
  | shutdownProcessingDone (fn : Fin 1024)
  /-- FUNCTION_LEVEL_RESET, R675: An FLR of a VF ends its tasks, discards uncommitted commands and deletes its queues, logging an unquiesced reset when needed. -/
  | functionLevelReset (fn : Fin 1024)
  /-- VF_ENABLE, R508: VF Enable is set and every VF up to NumVFs becomes ready. -/
  | vfEnable (num : Fin 1024)
  /-- VF_ENABLE_CLEARED, R675: VF Enable is cleared and each VF is reset as by an FLR. -/
  | vfEnableCleared
  /-- DEVICE_POWER_STATE_CHANGE, R506: A function moves between D0 and D3hot; in D3hot it initiates no DMA and posts completions on return to D0. -/
  | devicePowerStateChange (fn : Fin 1024) (d3 : Bool)
  /-- SQ_TAIL_DOORBELL, R671: A submission queue tail doorbell is written and the tail recorded. -/
  | sqTailDoorbell (fn : Fin 1024) (sq tail : BitVec 16)
  /-- CQ_HEAD_DOORBELL, R509: A completion queue head doorbell is written and the head recorded. -/
  | cqHeadDoorbell (fn : Fin 1024) (cq head : BitVec 16)
  /-- COMMAND_FETCH, R560: The front end fetches a command by arbitration, binds its charter generation and admits its parts. -/
  | commandFetch (fn : Fin 1024) (sq : BitVec 16) (sqe : Sqe)
  /-- PART_BEGIN, R568: Every earlier overlapping entry is released and a waiting part begins. -/
  | partBegin (station : Fin 64) (r : CmdRef) (part : Nat)
  /-- DELETE_IO_SQ, R915: Delete I/O Submission Queue settles the queue's entries, aborting uncommitted ones, and completes when all have completed. -/
  | deleteIoSq (r : CmdRef)
  /-- DELETE_IO_CQ, R528: Delete I/O Completion Queue removes a completion queue. -/
  | deleteIoCq (r : CmdRef)
  /-- CREATE_IO_SQ, R528: Create I/O Submission Queue creates a queue, refused with Media Not Ready in Kindling and Module Extinguished when Extinguished. -/
  | createIoSq (r : CmdRef)
  /-- CREATE_IO_CQ, R528: Create I/O Completion Queue creates a queue under the same state rules. -/
  | createIoCq (r : CmdRef)
  /-- GET_LOG_PAGE, R544: Get Log Page returns a standard log page at an offset that is a multiple of 4. -/
  | getLogPage (r : CmdRef)
  /-- SMART_HEALTH_LOG, R535: The SMART / Health log page is returned with the module's warnings, temperatures and life counts. -/
  | smartHealthLog (r : CmdRef)
  /-- TELEMETRY_HOST_INITIATED, R536: The Telemetry Host-Initiated log returns its data areas built from the vendor pages. -/
  | telemetryHostInitiated (r : CmdRef)
  /-- KEEPERS_LOG_PAGE, R807: Log page 0xC8 returns the Keeper's Log header, snapshot lists and every record slot. -/
  | keepersLogPage (r : CmdRef)
  /-- PLACEMENT_REPORT, R224: Log page 0xC9 returns the placement summary or the bale listing chosen by the Log Specific Parameter. -/
  | placementReport (r : CmdRef)
  /-- COUNTER_SNAPSHOT, R791: Log page 0xCA captures every counter at one instant at offset 0, or reads the last capture. -/
  | counterSnapshot (r : CmdRef)
  /-- CARAVAN_STATUS_PAGE, R649: Log page 0xCB returns the caravan header, station records and link records. -/
  | caravanStatusPage (r : CmdRef)
  /-- HEALTH_AND_RETIREMENT, R545: Log page 0xCC returns the health counters, DRAM totals, hold-up margin and die-port state. -/
  | healthAndRetirement (r : CmdRef)
  /-- THERMAL_AND_PACE, R838: Log page 0xCD returns supply, sensor and wing pace records. -/
  | thermalAndPace (r : CmdRef)
  /-- IDENTIFY, R521: Identify returns controller, namespace or command-set data, including the vendor area. -/
  | identify (r : CmdRef)
  /-- ABORT, R581: Abort ends an uncommitted I/O command or reports not aborted, decided in one arbiter with commitment. -/
  | abort (r : CmdRef)
  /-- SET_FEATURES, R531: Set Features sets a supported feature, refusing saves and unsupported identifiers. -/
  | setFeatures (r : CmdRef)
  /-- GET_FEATURES, R531: Get Features returns the current value of a supported feature. -/
  | getFeatures (r : CmdRef)
  /-- TIMESTAMP, R533: Set Features Timestamp sets the host-time offset at once and trims TD17's rate by at most 100 ppm. -/
  | timestamp (r : CmdRef)
  /-- PLACEMENT_HINT, R221: Set Features 0xC0 stores a namespace's placement hint and sends it to every Lit member before completing. -/
  | placementHint (r : CmdRef)
  /-- ASYNCHRONOUS_EVENT_REQUEST, R537: An Asynchronous Event Request is held until an event of R537 completes it. -/
  | asynchronousEventRequest (r : CmdRef)
  /-- NAMESPACE_MANAGEMENT, R523: Namespace Management creates a namespace at the lowest free identifier or deletes one, advancing its key generation. -/
  | namespaceManagement (r : CmdRef)
  /-- NAMESPACE_ATTACHMENT, R524: Namespace Attachment attaches or detaches a namespace, refusing SLM attachments to other stations. -/
  | namespaceAttachment (r : CmdRef)
  /-- FIRMWARE_IMAGE_DOWNLOAD, R845: Firmware Image Download takes a piece of an image at a 4 KiB multiple offset. -/
  | firmwareImageDownload (r : CmdRef)
  /-- FIRMWARE_COMMIT_REPLACE, R860: Firmware Commit action 000b checks the image and writes it to a slot without activation. -/
  | firmwareCommitReplace (r : CmdRef)
  /-- FIRMWARE_COMMIT_NEXT_RESET, R848: Firmware Commit action 001b writes the slot and sets NEXT for the next Kindling. -/
  | firmwareCommitNextReset (r : CmdRef)
  /-- FIRMWARE_COMMIT_ACTIVATE, R848: Firmware Commit action 010b checks an existing slot and sets NEXT for the next Kindling. -/
  | firmwareCommitActivate (r : CmdRef)
  /-- FIRMWARE_COMMIT_ROLL, R863: Firmware Commit action 011b checks cohabitation and starts a rolling activation wing by wing. -/
  | firmwareCommitRoll (r : CmdRef)
  /-- ROLL_WING_DONE, R863: A wing of a roll returns on the new image and the next wing, or the hub switch, begins. -/
  | rollWingDone
  /-- VIRTUALIZATION_MANAGEMENT, R516: Virtualization Management allocates flexible resources, assigns them to a secondary controller or brings it Online. -/
  | virtualizationManagement (r : CmdRef)
  /-- SECONDARY_OFFLINE, R674: Secondary Offline takes a VF's controller Offline, refused with Quiesce Required unless Quiesced or Frozen. -/
  | secondaryOffline (r : CmdRef)
  /-- NVME_MI_SEND, R553: NVMe-MI Send carries an MI request in-band. -/
  | nvmeMiSend (r : CmdRef)
  /-- NVME_MI_RECEIVE, R553: NVMe-MI Receive returns an MI response in-band. -/
  | nvmeMiReceive (r : CmdRef)
  /-- FORMAT_NVM, R590: Format NVM stops I/O to the namespace at every station and begins the format sequence. -/
  | formatNvm (r : CmdRef)
  /-- FORMAT_STEP_DONE, R590: A step of the format completes at every owner and the next begins, ending with completion. -/
  | formatStepDone
  /-- SANITIZE_BLOCK_ERASE, R593: Sanitize Block Erase advances every key generation, frees every map entry and erases every die block. -/
  | sanitizeBlockErase (r : CmdRef)
  /-- SANITIZE_CRYPTO_ERASE, R593: Sanitize Crypto Erase advances every key generation and frees every map and bale directory entry. -/
  | sanitizeCryptoErase (r : CmdRef)
  /-- SANITIZE_EXIT_FAILURE_MODE, R593: Sanitize Exit Failure Mode clears a failed sanitize status. -/
  | sanitizeExitFailureMode (r : CmdRef)
  /-- SANITIZE_OPERATION_END, R599: The sanitize operation ends at every station, or fails when a station leaves or is extinguished. -/
  | sanitizeOperationEnd
  /-- CHARTER_COMMIT, R664: Charter Commit checks the staging copy, replaces the active copy, increments the generation and redispatches running tasks. -/
  | charterCommit (r : CmdRef)
  /-- RETIRE_FLASH_BLOCK, R145: Retire KIND 1 relocates a die block's grains, retires it and remaps the plane block. -/
  | retireFlashBlock (r : CmdRef)
  /-- RETIRE_DRAM_PAGE, R767: Retire KIND 2 copies a DRAM page to a reserve page and remaps it. -/
  | retireDramPage (r : CmdRef)
  /-- RETIRE_DRAM_BANK, R768: Retire KIND 3 remaps a whole bank in both subchannels, or extinguishes the module when the reserve is short. -/
  | retireDramBank (r : CmdRef)
  /-- CARAVAN_FORM, R623: Form checks every member and writes the caravan record at each. -/
  | caravanForm (r : CmdRef) (identity : Word)
  /-- CARAVAN_JOIN, R624: Join asks the caravan to admit a lone station, which receives the directory and images and becomes a Lit member. -/
  | caravanJoin (r : CmdRef)
  /-- CARAVAN_LEAVE, R627: Leave marks a station leaving, moves its bales and pieces, and removes it when it holds nothing. -/
  | caravanLeave (r : CmdRef)
  /-- CARAVAN_DISSOLVE, R629: Dissolve makes every member lone while the subsystem holds no NVM namespace. -/
  | caravanDissolve (r : CmdRef)
  /-- QUIESCE_FUNCTION, R673: Quiesce action 0 stops fetching for a VF and completes when no command is outstanding. -/
  | quiesceFunction (r : CmdRef)
  /-- QUIESCE_ENDING_THREADS, R673: Quiesce action 1 stops fetching and also ends the function's Execute Program threads. -/
  | quiesceEndingThreads (r : CmdRef)
  /-- QUIESCE_RESUME, R673: Quiesce action 2 resumes fetching from Quiesced or Frozen and dispatches restored tasks. -/
  | quiesceResume (r : CmdRef)
  /-- FREEZE_FUNCTION, R677: Freeze stops fetching, freezes threads, lets legs end and releases the seal lock. -/
  | freezeFunction (r : CmdRef)
  /-- SAVE_FUNCTION_STATE, R678: Save Function State returns a Frozen function's state image from an offset. -/
  | saveFunctionState (r : CmdRef)
  /-- RESTORE_FUNCTION_STATE, R682: Restore Function State takes an image piece and, when whole, checks and applies it. -/
  | restoreFunctionState (r : CmdRef)
  /-- WING_WITHDRAW, R871: Wing Withdraw takes a wing's compute part out of service, moving its tasks, jobs and keeper duties. -/
  | wingWithdraw (r : CmdRef)
  /-- WING_RETURN, R872: Wing Return brings a wing's compute part back by raising VCORE and holding pace. -/
  | wingReturn (r : CmdRef)
  /-- LIGHT_LIST_WRITE, R857: Light List Write checks a copy, writes it over the older copy and reads it back. -/
  | lightListWrite (r : CmdRef) (readBack : Bool)
  /-- KEY_GEN_ADVANCE_SLOT, R707: Key Generation Advance of a slot increments its generation, derives the key again and takes a new epoch. -/
  | keyGenAdvanceSlot (r : CmdRef)
  /-- KEY_GEN_ADVANCE_FUNCTION, R707: Key Generation Advance of a function durably increments its wrap generation. -/
  | keyGenAdvanceFunction (r : CmdRef)
  /-- LOAD_PROGRAM, R282: Load Program takes an image piece, and when whole checks and stores it at every Lit station. -/
  | loadProgram (r : CmdRef)
  /-- PROGRAM_ACTIVATION_MANAGEMENT, R285: Program Activation Management activates or deactivates a slot at every station. -/
  | programActivationManagement (r : CmdRef)
  /-- MEMORY_RANGE_SET_MANAGEMENT, R288: Memory Range Set Management creates or deletes a range set, refusing deletion of a set in use. -/
  | memoryRangeSetManagement (r : CmdRef)
  /-- EXECUTE_PROGRAM, R292: Execute Program checks the slot right and queues a thread at the receiving station. -/
  | executeProgram (r : CmdRef)
  /-- THREAD_START, R292: A slot is free and an Execute Program thread is created, its hold loaded and started at ENTRY. -/
  | threadStart (r : CmdRef)
  /-- MEMORY_READ, R291: Memory Read returns bytes of subsystem local memory to the host. -/
  | memoryRead (r : CmdRef)
  /-- MEMORY_WRITE, R291: Memory Write stores host bytes into subsystem local memory. -/
  | memoryWrite (r : CmdRef)
  /-- MEMORY_COPY, R555: Memory Copy copies NVM or SLM source ranges into subsystem local memory. -/
  | memoryCopy (station : Fin 64) (r : CmdRef)
  /-- FLUSH, R530: Flush completes at once because every completed write is already committed. -/
  | flush (r : CmdRef)
  /-- WRITE, R74: Write lands data in the write cache, programs grains, journals MAP_SET and completes. -/
  | write (station : Fin 64) (r : CmdRef)
  /-- READ, R108: Read looks up the bale and map entry and returns data, or zeros for unwritten blocks. -/
  | read (station : Fin 64) (r : CmdRef)
  /-- COMPARE, R555: Compare reads a range under a read lock and compares it with host data. -/
  | compare (station : Fin 64) (r : CmdRef)
  /-- WRITE_ZEROES, R555: Write Zeroes deallocates a range under a write lock by MAP_TRIM. -/
  | writeZeroes (station : Fin 64) (r : CmdRef)
  /-- DATASET_MANAGEMENT, R79: Dataset Management deallocate clears PRESENT bits of each range by MAP_TRIM. -/
  | datasetManagement (station : Fin 64) (r : CmdRef)
  /-- VERIFY, R555: Verify checks a range under a read lock without transferring data. -/
  | verify (station : Fin 64) (r : CmdRef)
  /-- PROGRAM_STATUS, R74: A die returns program status for a program unit; passing grains are journaled, failures retire the block. -/
  | programStatus (port : Fin 1024) (st : DieStatus)
  /-- ERASE_STATUS, R133: A die returns erase status; the block goes Free with its count raised, or Retired on failure. -/
  | eraseStatus (port : Fin 1024) (block : Fin 1024) (st : DieStatus)
  /-- FLASH_READ_DONE, R109: A die read returns and decoding escalates through retry, soft decode and stripe rebuild. -/
  | flashReadDone (id : Nat) (outcome : ReadOutcome)
  /-- DIE_NOT_READY_TIMEOUT, R147: A die fails to return ready within 20 ms; a third in a row faults the die port. -/
  | dieNotReadyTimeout (port : Fin 1024)
  /-- DIE_BLOCK_SEAL, R119: A full die block's read-back decodes and the block is sealed, or retired on failure. -/
  | dieBlockSeal (port : Fin 1024) (block : Fin 1024) (decoded : Bool)
  /-- JOURNAL_RECORD_DURABLE, R73: A journal record and all before it are written to MRAM and the actions waiting on it proceed. -/
  | journalRecordDurable
  /-- CHECKPOINT_STEP_DONE, R84: A checkpoint step completes; after CKPT_MARK the replay start advances and journal space is freed. -/
  | checkpointStepDone
  /-- GATHER_UNIT_TIMEOUT, R90: A direct QLC program unit is still incomplete after 2 ms and is filled and issued. -/
  | gatherUnitTimeout (port : Fin 1024)
  /-- STRIPE_PAD_TIMEOUT, R153: A member wing has no data for its slots of a row within 2 ms and pads them. -/
  | stripePadTimeout (port : Fin 1024) (block : Fin 1024)
  /-- PACKED_PAGE_TIMEOUT, R106: 1 ms after its first grain a packed page is programmed with zero fill. -/
  | packedPageTimeout (wing : Fin 8)
  /-- FOLD_START, R101: A wing begins folding its oldest sealed forecourt block by occupancy or after 1 s without host writes. -/
  | foldStart (wing : Fin 8) (idle : Bool)
  /-- RECLAIM_START, R130: A wing's free QLC blocks per die port fall below START and it selects a reclaim source by score. -/
  | reclaimStart (wing : Fin 8)
  /-- FORECOURT_RECOMPUTE, R95: Each second the forecourt size and wear allowance are recomputed. -/
  | forecourtRecompute
  /-- LEDGER_AUDIT, R122: Once per second the die-block and other ledgers are audited, and a mismatch is acted on. -/
  | ledgerAudit
  /-- PACKED_GRAIN_FRAME, R487: The compressor returns a packed grain's frame, Not Smaller or verify failure, and the grain is stored packed or raw. -/
  | packedGrainFrame (nsid bale grain : Nat) (outcome : PackOutcome)
  /-- PLACEMENT_WINDOW_END, R176: A 1 s placement window ends; inputs are measured, a report sent and move triggers evaluated. -/
  | placementWindowEnd (load : List Nat)
  /-- MOVE_STALL_DONE, R198: A moving bale has no admitted command outstanding and the move copies its map block and commits. -/
  | moveStallDone (nsid bale : Nat)
  /-- PLACEMENT_REQUEST, R183: The drover lead takes a placement request for an Empty bale and chooses its station. -/
  | placementRequest (asker : Fin 64) (nsid bale : Nat)
  /-- PLACEMENT_ANSWER, R183: A receiving station gets the placement answer and forwards the held part to the owner. -/
  | placementAnswer (nsid bale : Nat) (owner : Fin 64)
  /-- DIRECTORY_ANNOUNCEMENT, R183: A member receives a new bale directory entry and records it. -/
  | directoryAnnouncement (nsid bale : Nat) (station : Fin 64) (wing : Fin 8) (state : Fin 4)
  /-- MOVE_ORDER, R200: Source and destination stations receive a move order and begin a cross-station move. -/
  | moveOrder (nsid bale : Nat) (src dst : Fin 64) (reason : Fin 8)
  /-- STATION_REPORT, R176: The drover lead receives a station's window report. -/
  | stationReport (station : Fin 64) (load wear heat owned debt held left moved : Nat) (excl : Fin 3)
  /-- MIRROR_GRAINS, R190: A partner receives mirrored grains, programs them into its forecourt and journals them. -/
  | mirrorGrains (owner : Fin 64) (tag : Nat) (grains : List GrainMsg)
  /-- MIRROR_ACKNOWLEDGEMENT, R190: An owner learns a mirror is durable at the partner and the write may complete. -/
  | mirrorAcknowledgement (tag : Nat)
  /-- MIRROR_DROP, R191: A partner is told a segment sealed and drops the mirror copy. -/
  | mirrorDrop (owner : Fin 64) (grains : List GrainMsg)
  /-- PARITY_CONTRIBUTION, R639: A parity holder receives a contribution and programs the parity grain once all present pieces contributed. -/
  | parityContribution (owner : Fin 64) (seg pos index : Nat) (q : Bool) (data md : List (BitVec 8))
  /-- PIECE_CLOSE, R636: A piece closes when full or 5 s after its first grain. -/
  | pieceClose (group : Fin 8)
  /-- SEGMENT_CLOSE, R637: A segment closes at k pieces or 5 s after its first piece opened. -/
  | segmentClose (seg : Nat)
  /-- BACKGROUND_REBUILD, R644: A new owner rebuilds an absent station's grains at up to REBUILD_GBPS. -/
  | backgroundRebuild (nsid bale : Nat) (grains : List GrainMsg) (rest : Bool)
  /-- FLIT_RECEIVE, R608: A flit arrives on a route link, is checked, acknowledged or dropped with a replay request. -/
  | flitReceive (link : Fin 4) (bytes : List (BitVec 8))
  /-- NAK, R609: A NAK arrives and the sender replays every flit after the named sequence. -/
  | nak (link : Fin 4) (seq : BitVec 12)
  /-- ACK_TIMER, R609: 1 µs passes and the receiver sends an acknowledgement. -/
  | ackTimer (link : Fin 4)
  /-- LINK_DOWN, R610: A lane loses block lock or replays stall, the link goes Down and retrains, and a third Down in 60 s makes it Failed. -/
  | linkDown (link : Fin 4)
  /-- HELLO, R611: A HELLO arrives on a coming-up link; the link goes Up at a common version or is Refused. -/
  | hello (link : Fin 4) (hello : HelloMsg)
  /-- LINK_SB_CHANGE, R888: LINK_SB of a link changes level; low holds the link Down, rising starts training within 10 ms. -/
  | linkSbChange (link : Fin 4) (level : Bool)
  /-- CREDIT_CENSUS, R615: Once per second a link end sends its credit census. -/
  | creditCensus (link : Fin 4)
  /-- CENSUS_RECEIVE, R615: A census arrives; a mismatch retrains the link and is logged. -/
  | censusReceive (link : Fin 4) (credits inFlight occupancy : List Nat)
  /-- HEARTBEAT_SEND, R630: Every 1 ms a member and the drover lead send heartbeats. -/
  | heartbeatSend
  /-- HEARTBEAT, R630: A heartbeat arrives and the sender's last-seen time is updated. -/
  | heartbeat (station : Fin 64)
  /-- ABSENCE_DECLARED, R630: 50 ms pass without a heartbeat, or an Extinguished announcement arrives, and the station is declared absent. -/
  | absenceDeclared (station : Fin 64) (announced : Bool)
  /-- CARAVAN_RESUMPTION, R632: 60 s after a restarted caravan resumes, members not yet rejoined are declared absent. -/
  | caravanResumption
  /-- FORWARDED_PART, R633: An owner receives a forwarded command part on the request channel and admits it. -/
  | forwardedPart (station : Fin 64) (r : CmdRef) (part slba nlb gen : Nat) (sqe : Sqe)
  /-- PART_STATUS, R633: A receiving station receives a forwarded part's status on the response channel. -/
  | partStatus (r : CmdRef) (part sct sc : Nat)
  /-- CHARTER_PROPAGATION, R666: A member receives changed charter entries and a generation from another station. -/
  | charterPropagation (station : Fin 64) (generation : Nat) (entries : List (Nat × List (BitVec 8)))
  /-- HINT_PROPAGATION, R221: A member receives a namespace's placement hint value. -/
  | hintPropagation (station : Fin 64) (nsid value : Nat)
  /-- WB_GO, R310: A WB_GO write reads the descriptor and plan, runs the launch checks and returns a handle or refusal. -/
  | wbGo (core : Fin 256)
  /-- WB_CANCEL, R323: A WB_CANCEL write cancels one of the thread's waybills at every station. -/
  | wbCancel (core : Fin 256) (handle : Word)
  /-- LEG_START, R313: Staging is free in the pool and a leg starts with one reduce task per queue. -/
  | legStart (wing : Fin 8)
  /-- SCAN_READ_ISSUE, R261: The sieve input buffer has room and the channel sequencer issues the leg's next scan read. -/
  | scanReadIssue (channel : Fin 128)
  /-- SIEVE_GRAIN_EVALUATION, R228: A scanned grain is decrypted, decompressed, framed into records and evaluated through the plan. -/
  | sieveGrainEvaluation (channel : Fin 128)
  /-- SIEVE_BEACON_RESULT, R259: A sieve's beacon search returns and the waiting record continues evaluation. -/
  | sieveBeaconResult (channel : Fin 128)
  /-- BT_NEXT, R316: A BT_NEXT read returns the oldest posted batch of the queue, each batch once. -/
  | btNext (core : Fin 256)
  /-- BT_DONE, R270: A BT_DONE write hands a batch back to the sieve. -/
  | btDone (core : Fin 256) (batch : Word)
  /-- BT_APP_LEN, R317: A BT_APP_LEN write appends bytes to the leg output up to LEG_OUT_MAX. -/
  | btAppLen (core : Fin 256) (len : Word)
  /-- BT_END, R318: A BT_END write ends a reduce task, and the leg ends when all tasks and sieves are done. -/
  | btEnd (core : Fin 256)
  /-- LEG_OUTPUT_RECEIVE, R319: The launching station writes a leg's output and completion record and posts FLAG_LEG. -/
  | legOutputReceive (station : Fin 64) (handle leg attempt : Nat) (record output : List (BitVec 8))
  /-- CTL_APP_LEN, R300: A CTL_APP_LEN write copies bytes from the data hold into output range 0 and advances CTL_OUT_POS. -/
  | ctlAppLen (core : Fin 256) (len : Word)
  /-- CTL_EXIT, R295: A CTL_EXIT write ends the thread, cancels its waybills and completes the Execute Program. -/
  | ctlExit (core : Fin 256) (status : Word)
  /-- CP_LEN, R308: A CP_LEN write copies bytes between ranges of the thread's set. -/
  | cpLen (core : Fin 256) (len : Word)
  /-- POST_ENTRY_APPLY, R433: The dispatcher applies the next post-queue entry, ORing flags into the target task. -/
  | postEntryApply (wing : Fin 8)
  /-- NEXT_SLOT_LOADED, R421: A task's state is loaded in a core's next slot and the core switches at its next boundary when needed. -/
  | nextSlotLoaded (core : Fin 256)
  /-- QUANTUM_EXPIRY, R424: A task has run for QUANTUM µs with an equal-priority task Ready and the core switches. -/
  | quantumExpiry (core : Fin 256)
  /-- HOLD_PAGE_FILL, R334: A hold page fill from the task's hold image completes and the waiting access proceeds. -/
  | holdPageFill (core : Fin 256) (page : Fin 64)
  /-- DOOR_POST, R438: A PST_MASK write posts a mask to PST_TARGET if granted, setting PST_RESULT. -/
  | doorPost (core : Fin 256) (mask : Word)
  /-- PST_PRIO, R428: A PST_PRIO write changes the task's own priority at once. -/
  | pstPrio (core : Fin 256) (prio : Word)
  /-- PST_AFFINITY, R428: A PST_AFFINITY write changes the task's affinity, ignoring 0. -/
  | pstAffinity (core : Fin 256) (mask : Word)
  /-- MOV, R397: MOV copies source to destination. -/
  | mov (core : Fin 256) (miss : Bool)
  /-- ADD, R397: ADD adds two operands and sets ADD flags. -/
  | add (core : Fin 256) (miss : Bool)
  /-- ADC, R397: ADC adds with carry-in C. -/
  | adc (core : Fin 256) (miss : Bool)
  /-- SUB, R397: SUB subtracts and sets SUB flags with C as borrow. -/
  | sub (core : Fin 256) (miss : Bool)
  /-- SBC, R397: SBC subtracts with borrow-in C. -/
  | sbc (core : Fin 256) (miss : Bool)
  /-- NEG, R397: NEG subtracts the source from 0. -/
  | neg (core : Fin 256) (miss : Bool)
  /-- MUL, R397: MUL writes the truncated product and sets MUL flags. -/
  | mul (core : Fin 256) (miss : Bool)
  /-- MULHU, R397: MULHU writes the high half of the unsigned product. -/
  | mulhu (core : Fin 256) (miss : Bool)
  /-- MULHS, R397: MULHS writes the high half of the signed product. -/
  | mulhs (core : Fin 256) (miss : Bool)
  /-- DIVU, R400: DIVU divides unsigned, faulting ARITH on divisor 0. -/
  | divu (core : Fin 256) (miss : Bool)
  /-- DIVS, R400: DIVS divides signed toward zero, faulting ARITH on divisor 0. -/
  | divs (core : Fin 256) (miss : Bool)
  /-- REMU, R400: REMU writes the unsigned remainder. -/
  | remu (core : Fin 256) (miss : Bool)
  /-- REMS, R400: REMS writes the signed remainder with the dividend's sign. -/
  | rems (core : Fin 256) (miss : Bool)
  /-- MINU, R397: MINU writes the unsigned minimum. -/
  | minu (core : Fin 256) (miss : Bool)
  /-- MAXU, R397: MAXU writes the unsigned maximum. -/
  | maxu (core : Fin 256) (miss : Bool)
  /-- MINS, R397: MINS writes the signed minimum. -/
  | mins (core : Fin 256) (miss : Bool)
  /-- MAXS, R397: MAXS writes the signed maximum. -/
  | maxs (core : Fin 256) (miss : Bool)
  /-- AND, R397: AND writes the bitwise and. -/
  | and (core : Fin 256) (miss : Bool)
  /-- OR, R397: OR writes the bitwise or. -/
  | or (core : Fin 256) (miss : Bool)
  /-- XOR, R397: XOR writes the bitwise exclusive or. -/
  | xor (core : Fin 256) (miss : Bool)
  /-- ANDN, R397: ANDN writes s1 and not s2. -/
  | andn (core : Fin 256) (miss : Bool)
  /-- NOT, R397: NOT writes the bitwise complement. -/
  | not (core : Fin 256) (miss : Bool)
  /-- SHL, R399: SHL shifts left by the count modulo w. -/
  | shl (core : Fin 256) (miss : Bool)
  /-- SHR, R399: SHR shifts right logically. -/
  | shr (core : Fin 256) (miss : Bool)
  /-- SAR, R399: SAR shifts right arithmetically. -/
  | sar (core : Fin 256) (miss : Bool)
  /-- ROL, R399: ROL rotates left. -/
  | rol (core : Fin 256) (miss : Bool)
  /-- ROR, R399: ROR rotates right. -/
  | ror (core : Fin 256) (miss : Bool)
  /-- POPC, R397: POPC counts 1 bits. -/
  | popc (core : Fin 256) (miss : Bool)
  /-- CLZ, R397: CLZ counts leading zero bits. -/
  | clz (core : Fin 256) (miss : Bool)
  /-- CTZ, R397: CTZ counts trailing zero bits. -/
  | ctz (core : Fin 256) (miss : Bool)
  /-- BSWAP, R397: BSWAP reverses the operand's bytes. -/
  | bswap (core : Fin 256) (miss : Bool)
  /-- SEXT, R397: SEXT sign-extends to 64 bits. -/
  | sext (core : Fin 256) (miss : Bool)
  /-- ZEXT, R397: ZEXT zero-extends to 64 bits. -/
  | zext (core : Fin 256) (miss : Bool)
  /-- CMP, R397: CMP subtracts and sets flags without writing. -/
  | cmp (core : Fin 256) (miss : Bool)
  /-- TST, R397: TST ands and sets flags without writing. -/
  | tst (core : Fin 256) (miss : Bool)
  /-- SET, R401: SET writes 1 or 0 by a condition code. -/
  | set (core : Fin 256) (miss : Bool)
  /-- CAS, R403: CAS atomically compares the destination with s1 and stores s2 on equality, setting Z. -/
  | cas (core : Fin 256) (miss : Bool)
  /-- MOVST, R411: MOVST writes st to the destination. -/
  | movst (core : Fin 256) (miss : Bool)
  /-- SETST, R411: SETST sets Z, N, C and V from the source. -/
  | setst (core : Fin 256) (miss : Bool)
  /-- BTST, R397: BTST sets Z from a bit of the operand. -/
  | btst (core : Fin 256) (miss : Bool)
  /-- BSET, R397: BSET sets a bit. -/
  | bset (core : Fin 256) (miss : Bool)
  /-- BCLR, R397: BCLR clears a bit. -/
  | bclr (core : Fin 256) (miss : Bool)
  /-- BR, R402: BR branches by condition to a pc-relative target. -/
  | br (core : Fin 256) (miss : Bool)
  /-- JMP, R402: JMP jumps to a computed target. -/
  | jmp (core : Fin 256) (miss : Bool)
  /-- CALL, R369: CALL pushes masked registers and a frame header and jumps to the target. -/
  | call (core : Fin 256) (miss : Bool)
  /-- RET, R372: RET pops the frame header, checks loop depth, restores registers and returns, or ends the task at the entry frame. -/
  | ret (core : Fin 256) (miss : Bool)
  /-- LOOP, R363: LOOP reads a count and opens a zero-overhead loop or skips the body. -/
  | loop (core : Fin 256) (miss : Bool)
  /-- LEAVE, R366: LEAVE closes the innermost open loop. -/
  | leave (core : Fin 256) (miss : Bool)
  /-- RDCNT, R410: RDCNT reads a core or unit counter after the charter check. -/
  | rdcnt (core : Fin 256) (miss : Bool)
  /-- WAIT, R404: WAIT consumes satisfying event flags or blocks the task. -/
  | wait (core : Fin 256) (miss : Bool)
  /-- POST, R406: POST places a post entry for a live task of the own function in the wing's post queue. -/
  | post (core : Fin 256) (miss : Bool)
  /-- YIELD, R409: YIELD moves the task to the tail of its ready list. -/
  | yield (core : Fin 256) (miss : Bool)
  /-- NOP, R398: NOP does nothing. -/
  | nop (core : Fin 256) (miss : Bool)
  /-- MOVI, R398: MOVI writes an unsigned 5-bit value. -/
  | movi (core : Fin 256) (miss : Bool)
  /-- ADDI, R398: ADDI adds an unsigned 5-bit value. -/
  | addi (core : Fin 256) (miss : Bool)
  /-- SUBI, R398: SUBI subtracts an unsigned 5-bit value. -/
  | subi (core : Fin 256) (miss : Bool)
  /-- CMPI, R398: CMPI compares with an unsigned 5-bit value. -/
  | cmpi (core : Fin 256) (miss : Bool)
  /-- SHLI, R398: SHLI shifts left by an immediate count. -/
  | shli (core : Fin 256) (miss : Bool)
  /-- SHRI, R398: SHRI shifts right logically by an immediate count. -/
  | shri (core : Fin 256) (miss : Bool)
  /-- SARI, R398: SARI shifts right arithmetically by an immediate count. -/
  | sari (core : Fin 256) (miss : Bool)
  /-- BCN_S_GO, R451: A BCN_S_GO write searches a table and returns hit, index, result, MULTI and COUNT. -/
  | bcnSGo (r : Requester)
  /-- BCN_WRITE, R455: BCN_U_CMD WRITE writes and validates an entry. -/
  | bcnWrite (r : Requester)
  /-- BCN_INVALIDATE, R453: BCN_U_CMD INVALIDATE makes an entry invalid. -/
  | bcnInvalidate (r : Requester)
  /-- BCN_READ, R453: BCN_U_CMD READ copies an entry into the update words. -/
  | bcnRead (r : Requester)
  /-- BCN_INSERT, R458: BCN_U_CMD INSERT places an entry in order by moving entries toward the nearest hole. -/
  | bcnInsert (r : Requester)
  /-- BCN_APPEND, R457: BCN_U_CMD APPEND writes at the append position, skipping hole indices. -/
  | bcnAppend (r : Requester)
  /-- BCN_CLEAR, R453: BCN_U_CMD CLEAR invalidates every entry of a table. -/
  | bcnClear (r : Requester)
  /-- BCN_CREATE, R453: BCN_U_CMD CREATE makes a table active with its banks, width and hole spacing. -/
  | bcnCreate (r : Requester)
  /-- BCN_GROW, R453: BCN_U_CMD GROW adds banks to a table. -/
  | bcnGrow (r : Requester)
  /-- BCN_DELETE, R453: BCN_U_CMD DELETE makes a table inactive and frees its banks. -/
  | bcnDelete (r : Requester)
  /-- BEACON_SCRUB_PASS, R462: Every 512 ms each beacon row is compared with its shadow and repaired or lost. -/
  | beaconScrubPass (decayed dead : List (Fin 524288))
  /-- JOB_OPEN, R488: CMP_J_SETUP with OPEN opens a compression job. -/
  | jobOpen (r : Requester) (wing : Fin 8) (value : Word)
  /-- JOB_CANCEL, R494: CMP_J_SETUP with CANCEL ends the open job with code 0 and zero-fills its output. -/
  | jobCancel (r : Requester) (wing : Fin 8) (value : Word)
  /-- CMP_J_LEN, R489: A CMP_J_LEN write feeds a piece to the compressor, ending a block on FLUSH. -/
  | cmpJLen (r : Requester) (wing : Fin 8) (value : Word) (verifyFail : Bool)
  /-- CMP_J_LEN_LAST, R491: A CMP_J_LEN write with LAST ends the input and completes the job with its outcome code. -/
  | cmpJLenLast (r : Requester) (wing : Fin 8) (value : Word) (verifyFail : Bool)
  /-- SEAL_ACQUIRE, R709: SEAL_LOCK.ACQUIRE makes the writer owner if free, else reads Engine Busy. -/
  | sealAcquire (r : Requester)
  /-- SEAL_RELEASE, R711: SEAL_LOCK.RELEASE by the owner ends any operation, wipes the context and frees the lock. -/
  | sealRelease (r : Requester)
  /-- SEAL_GO, R715: SEAL_MODE.GO checks and starts a seal operation. -/
  | sealGo (r : Requester) (value : Word)
  /-- SEAL_ABORT, R720: SEAL_MODE.ABORT ends the current operation as Aborted. -/
  | sealAbort (r : Requester) (value : Word)
  /-- SEAL_PIECE, R716: A SEAL_PIECE write streams a piece through the seal engine. -/
  | sealPiece (r : Requester) (value : Word)
  /-- SEAL_PIECE_LAST, R718: A SEAL_PIECE write with LAST ends the stream, releases held output and ends the operation. -/
  | sealPieceLast (r : Requester) (value : Word)
  /-- SEAL_BREAK, R712: The manager breaks the seal lock, wiping the engine and recording the former owner. -/
  | sealBreak
  /-- DIG_OPEN, R723: DIG_CTRL.OPEN claims the digest engine and begins a computation. -/
  | digOpen (r : Requester) (value : Word)
  /-- DIG_RELEASE, R723: DIG_CTRL.RELEASE frees the digest engine. -/
  | digRelease (r : Requester)
  /-- DIG_DATA, R724: A DIG_DATA write feeds 8 message bytes, held while BUSY. -/
  | digData (r : Requester) (value : Word)
  /-- DIG_LAST, R725: A DIG_LAST write appends the final bytes and finishes the digest into DIG_RESULT. -/
  | digLast (r : Requester) (value : Word)
  /-- DIG_CTX_EXPORT, R728: DIG_CTX_CMD 1 writes the open computation as a blob and frees the engine. -/
  | digCtxExport (r : Requester)
  /-- DIG_CTX_IMPORT, R729: DIG_CTX_CMD 2 imports a blob and claims the engine, or refuses it. -/
  | digCtxImport (r : Requester)
  /-- DIG_BREAK, R723: The manager takes the digest engine from its owner and wipes the context. -/
  | digBreak
  /-- KEY_DERIVE, R700: KEY_CMD DERIVE loads a slot with a key derived from a label and generation. -/
  | keyDerive (value : Word)
  /-- KEY_UNWRAP, R700: KEY_CMD UNWRAP loads a slot by unwrapping a blob under a KEK slot. -/
  | keyUnwrap (value : Word)
  /-- KEY_CLEAR_LOAD, R700: KEY_CMD CLEAR loads a slot with a key given in clear. -/
  | keyClearLoad (value : Word)
  /-- KEY_UNLOAD, R706: KEY_CMD UNLOAD empties a slot unless it is in use. -/
  | keyUnload (value : Word)
  /-- PATROL_SCRUB, R766: Patrol scrub reads the next line of a valid page and handles its decode outcome. -/
  | patrolScrub (wing : Fin 8) (line : Nat) (keeper : Option (Fin 8)) (outcome : DramOutcome)
  /-- SCRUB_NOW, R766: A DRM_CTRL.SCRUB_NOW write starts a scrub pass at once. -/
  | scrubNow (wing : Fin 8)
  /-- DEVICE_MARK, R759: A DRM_DEV_CTRL.MARK write marks a DRAM device failed. -/
  | deviceMark (wing : Fin 8) (device : Fin 64)
  /-- DRAM_CALIBRATION, R745: ZQ calibration every 128 ms and DQS tracking every 100 ms run on a channel. -/
  | dramCalibration (wing : Fin 8)
  /-- REFRESH_WINDOW, R762: A 32 ms refresh window ends and the activation tables empty. -/
  | refreshWindow (wing : Fin 8) (activations : List (Nat × Nat)) (coins : List Nat) (rfm : Nat)
  /-- DRAM_TEST_WRITE, R771: DRM_TEST_CTRL.WRITE stores a test line with computed or raw check bytes. -/
  | dramTestWrite (wing : Fin 8) (value : Word)
  /-- DRAM_TEST_READ, R772: DRM_TEST_CTRL.READ decodes the test line and reports its outcome. -/
  | dramTestRead (wing : Fin 8) (value : Word)
  /-- DRM_HASH_NEXT_WRITE, R750: A DRM_HASH_NEXT write is taken only when its mask is valid. -/
  | drmHashNextWrite (wing : Fin 8) (bit : Fin 5) (value : Word)
  /-- DRM_LAYOUT_NEXT_WRITE, R751: A DRM_LAYOUT_NEXT write sets the grain for the next Kindling, ignoring out-of-range values. -/
  | drmLayoutNextWrite (wing : Fin 8) (value : Word)
  /-- EVT_SRC_WRITE, R797: An EVT_SRC write sets a source's routing, ignored whole when inconsistent. -/
  | evtSrcWrite (index : Fin 1088) (value : Word)
  /-- MASK_ALL, R796: EVT_CTRL.MASK_ALL masks deliveries, and clearing it delivers every pending enabled source once. -/
  | maskAll (mask : Bool)
  /-- CLR_ALL, R810: EVT_CTRL.CLR_ALL clears every PENDING and OVERRUN. -/
  | clrAll
  /-- EVT_INJECT, R793: An EVT_INJECT write raises a source as an occurrence would. -/
  | evtInject (value : Word)
  /-- EVT_BULK_RANGE, R810: EVT_BULK_RANGE.GO copies EVT_BULK_VAL into a range of entries. -/
  | evtBulkRange (value : Word)
  /-- WINDOW_END, R781: A counter window ends; every die port's WINDOW is latched and SEQ advances. -/
  | windowEnd
  /-- CNT_WIN_CTRL_WRITE, R782: A CNT_WIN_CTRL write sets a new window length from the end of the current window. -/
  | cntWinCtrlWrite (value : Word)
  /-- CNT_SMP_CTRL_WRITE, R789: A CNT_SMP_CTRL write enables sampling or restarts every threshold. -/
  | cntSmpCtrlWrite (value : Word)
  /-- CNT_SMP_PERIOD_WRITE, R789: A CNT_SMP_PERIOD write sets the sampling period and restarts thresholds when enabled. -/
  | cntSmpPeriodWrite (value : Word)
  /-- TAIL_WRITE, R790: A write of CNT_SMP_RING.TAIL frees sample ring entries, ignored when it would pass HEAD. -/
  | tailWrite (value : Word)
  /-- CLR_WRAP, R783: CNT_CTRL.CLR_WRAP clears the whole wrap map. -/
  | clrWrap
  /-- OP_SECONDS_TICK, R785: A second passes on TD18 and CNT_OP_SECONDS advances, saved to MRAM every 16 s. -/
  | opSecondsTick
  /-- LOG_RECORD_WRITE, R804: The log writer writes the next pending occurrence as a new record or a repeat update. -/
  | logRecordWrite
  /-- LOG_MARK, R806: A LOG_MARK write appends a 0xB003 record carrying the value. -/
  | logMark (value : Word)
  /-- BASIC_MANAGEMENT_COMMAND, R554: The Basic Management Command returns status and releases SMB_ALERT#. -/
  | basicManagementCommand
  /-- READ_NVME_MI_DATA_STRUCTURE, R553: Read NVMe-MI Data Structure returns subsystem, port or controller information. -/
  | readNvmeMiDataStructure (kind : Fin 4) (index : Nat)
  /-- HEALTH_STATUS_POLL, R553: An NVM Subsystem or Controller Health Status Poll returns health status. -/
  | healthStatusPoll (controller : Option (Fin 1024))
  /-- CONFIGURATION_SET, R553: Configuration Set sets the SMBus frequency or MCTP transmission unit. -/
  | configurationSet (ident value : Nat)
  /-- CONFIGURATION_GET, R553: Configuration Get returns the SMBus frequency or MCTP transmission unit. -/
  | configurationGet (ident : Nat)
  /-- VPD_READ, R553: VPD Read returns the 256 bytes of product data. -/
  | vpdRead (offset count : Nat)
  /-- MI_RESET, R553: The MI Reset message performs an NVM Subsystem Reset. -/
  | miReset
  /-- TUNNELLED_ADMIN, R553: A tunnelled admin command over MCTP runs one of the allowed admin commands. -/
  | tunnelledAdmin (sqe : Sqe)
  /-- SPDM_REQUEST, R548: A CMA/SPDM request on the DOE mailbox is answered: certificates, challenge, measurements, key exchange. -/
  | spdmRequest (session : Nat) (request : List (BitVec 8))
  /-- IDE_KM, R550: IDE_KM in a secure session programs link or selective IDE stream keys. -/
  | ideKm (session stream : Nat) (key : BitVec 256)
  /-- DEBUG_UNLOCK, R551: A DEBUG_UNLOCK request in a mutually authenticated session unlocks the J4 debug port. -/
  | debugUnlock (session : Nat) (chain : List (BitVec 8))
  /-- SPDM_SESSION_END, R653: An SPDM session ends, relocking the debug port and ending an SPDM-bound manager role. -/
  | spdmSessionEnd (session : Nat)
  /-- CLAIM, R652: CHT_MGR.CLAIM grants the manager role when no holder exists and any required session is open. -/
  | claim
  /-- RELEASE, R653: CHT_MGR.RELEASE ends the manager role. -/
  | release
  /-- STAGE_CLEAR, R654: CHT_STAGE_CTRL.CLEAR zeroes the staging copy while a manager holds the role. -/
  | stageClear
  /-- STAGE_COPY, R654: CHT_STAGE_CTRL.COPY copies the active copy into staging while a manager holds the role. -/
  | stageCopy
  /-- CHARTER_STAGING_WRITE, R654: A write to the charter staging copy is stored only while a manager holds the role. -/
  | charterStagingWrite (offset : Fin 32768) (value : Word)
  /-- RESTORE_ABORT, R686: VFM_CTRL.RESTORE_ABORT discards a partly received state image. -/
  | restoreAbort
  /-- CLR_UNQ, R675: VFM_CTRL.CLR_UNQ clears VFM_UNQ_RESET. -/
  | clrUnq
  /-- CLR_MAX, R444: WNG_DSP_CTRL.CLR_MAX clears WNG_DSP_WAKE_MAX and WNG_DSP_PQ.HIGH. -/
  | clrMax (wing : Fin 8)
  /-- QUANTUM_WRITE, R424: A WNG_DSP_CTRL.QUANTUM write sets the time slice, ignoring out-of-range values. -/
  | quantumWrite (wing : Fin 8) (quantum : BitVec 16)
  /-- WNG_DSP_QUERY, R445: A WNG_DSP_QUERY write latches a snapshot of a task slot into the TASK registers. -/
  | wngDspQuery (wing : Fin 8) (value : BitVec 32)
  /-- RETRAIN, R610: RTE_LK_STATUS.RETRAIN retrains a link and clears Failed. -/
  | retrain (link : Fin 4)
  /-- CLR_MIN, R839: HK_WG_SHORT.CLR_MIN resets the pace MIN fields to the current pace. -/
  | clrMin (wing : Fin 8)
  /-- LOCATE, R890: A write of MSC_LED.LOCATE turns LOCATE_LED steady or releases it. -/
  | locate (value : BitVec 1)
  /-- MED_FC_CTRL_WRITE, R117: A MED_FC_CTRL write sets fold start and high water, ignored whole when out of range. -/
  | medFcCtrlWrite (value : Word)
  /-- MSC_RCL_WEIGHT_WRITE, R171: A MSC_RCL_WEIGHT write sets reclaim weights, ignored whole when out of range. -/
  | mscRclWeightWrite (value : Word)
  /-- MSC_RCL_CTRL_WRITE, R171: A MSC_RCL_CTRL write sets reclaim levels, ignored whole when out of range. -/
  | mscRclCtrlWrite (value : Word)
  /-- MSC_PLC_CTRL_WRITE, R227: A MSC_PLC_CTRL write sets migration controls, ignored whole when out of range. -/
  | mscPlcCtrlWrite (value : Word)
  /-- CMP_CTRL_WRITE, R501: A CMP_CTRL write sets compressor share and threshold, ignored when the threshold is out of range. -/
  | cmpCtrlWrite (wing : Fin 8) (value : Word)
  /-- RTE_CFG_WRITE, R651: A RTE_CFG write sets recode threshold and rebuild rate, ignored when out of range. -/
  | rteCfgWrite (value : Word)
  /-- LOW_HALF_READ, R9: A 32-bit read of a 64-bit register's low half latches its high half. -/
  | lowHalfRead (offset : Nat)
  /-- LOW_HALF_WRITE, R911: A 32-bit write of a 64-bit register's low half is held pending. -/
  | lowHalfWrite (offset : Nat) (value : BitVec 32)
  /-- HIGH_HALF_WRITE, R911: A 32-bit write of the high half applies the whole 64-bit value with the pending or current low half. -/
  | highHalfWrite (offset : Nat) (value : BitVec 32)
  /-- REGISTER_WRITE, R6: A write to a register with no row of its own acts by its field types. -/
  | registerWrite (fn : Fin 1024) (offset : Nat) (value : Word)
  /-- HOST_TRANSFER_DONE, R565: A DMA of command data or metadata to or from host memory ends, releasing a read's entry, or fails and ends the command with Data Transfer Error. -/
  | hostTransferDone (station : Fin 64) (r : CmdRef) (part : Nat) (good : Bool)
  /-- DL_UP, R507: The PCIe data link comes up again after a Hot Reset or DL_Down, with every controller at CC.EN 0 and deliveries possible again. -/
  | dlUp
  /-- LINK_POWER_STATE_CHANGE, R505: The PCIe link enters or leaves ASPM L1, or changes width under L0p, within the bounds of R508. -/
  | linkPowerStateChange (inL1 : Bool) (width : Fin 9)
  /-- LINK_TRAINED, R611: A route link's lanes gain block lock and training ends, and the end sends HELLO. -/
  | linkTrained (link : Fin 4)
  /-- LINK_STATE_NEWS, R617: News of another station's link-state or membership change arrives on the control channel and the route table is recomputed. -/
  | linkStateNews (station : Fin 64) (links : BitVec 4)
  /-- MOVE_GRAINS, R200: The destination of a cross-station move receives streamed grains on the bulk channel, programs, mirrors and journals them. -/
  | moveGrains (station : Fin 64) (grains : List GrainMsg)
  /-- REBUILD_READ, R643: A station holding a data or parity piece receives a reconstruction read and returns the piece's grain. -/
  | rebuildRead (station : Fin 64) (seg index tag : Nat)
  /-- JOIN_REQUEST, R624: The drover lead receives a lone station's Join request, checks it by R626 and sends the directory and program images. -/
  | joinRequest (station : Fin 64) (variant200 : Bool) (fwSet : Nat) (group : Fin 8) (identity : Nat)
  /-- FORWARDED_DATA, R633: Write or read data of a forwarded part arrives on the bulk channel at the owner or at the receiving station. -/
  | forwardedData (station : Fin 64) (r : CmdRef) (part : Nat) (atOwner : Bool) (data md : List (BitVec 8))
  /-- MEMBER_ACKNOWLEDGEMENT, R183: A Lit member's acknowledgement of an announced directory entry, charter change, move stage or caravan-wide order arrives and the waiting step proceeds when all have acknowledged. -/
  | memberAcknowledgement (station : Fin 64) (code a b result : Nat)
  /-- STATION_OPERATION_REQUEST, R590: A member receives a caravan-wide order (Format stop or progress record, Sanitize begin, program image or activation, caravan record) from the receiving station and applies it. -/
  | stationOperationRequest (station : Fin 64) (code : Nat) (nums : List Nat) (bytes : List (BitVec 8))
  /-- FIRMWARE_SLOT_WRITTEN, R862: The NOR write and read-back of a firmware slot ends and the Firmware Commit with action 000b to 010b completes. -/
  | firmwareSlotWritten (readBack : Bool)
deriving DecidableEq, Repr

end Sys2Proof
end

