-- ==== Sys2Proof/Machine/Tbl.lean ====
section
/-! DEFINITION. Sparse tables: every memory, ledger and array of the module as plain data in one canonical form. -/

namespace Sys2Proof.Machine

/-- A sparse table: key and value pairs, keys strictly rising. -/
abbrev Tbl (α : Type) := List (Nat × α)

/-- The entry listed under a key. -/
def Tbl.find {α : Type} (t : Tbl α) (k : Nat) : Option α :=
  match t with
  | [] => none
  | (j, v) :: r => if j = k then some v else Tbl.find r k

/-- Removes a key. -/
def Tbl.erase {α : Type} (t : Tbl α) (k : Nat) : Tbl α :=
  match t with
  | [] => []
  | (j, v) :: r => if j = k then r else if j < k then (j, v) :: Tbl.erase r k else (j, v) :: r

/-- Lists a value under a key, in the key's place. -/
def Tbl.insert {α : Type} (t : Tbl α) (k : Nat) (v : α) : Tbl α :=
  match t with
  | [] => [(k, v)]
  | (j, w) :: r => if j = k then (k, v) :: r else if j < k then (j, w) :: Tbl.insert r k v else (k, v) :: (j, w) :: r

/-- The value at a key; a key that is not listed reads as the default `d`. -/
def Tbl.get {α : Type} (d : α) (t : Tbl α) (k : Nat) : α := (Tbl.find t k).getD d

/-- Stores a value; storing the default removes the entry, so that equal tables are equal data. -/
def Tbl.put {α : Type} [DecidableEq α] (d : α) (t : Tbl α) (k : Nat) (v : α) : Tbl α :=
  if v = d then Tbl.erase t k else Tbl.insert t k v

/-- Applies a function to the value at a key. -/
def Tbl.upd {α : Type} [DecidableEq α] (d : α) (t : Tbl α) (k : Nat) (f : α → α) : Tbl α :=
  Tbl.put d t k (f (Tbl.get d t k))

/-- Every listed key is above `lo`, keys rise strictly. -/
def Tbl.risingFrom {α : Type} : Option Nat → Tbl α → Bool
  | _, [] => true
  | lo, (j, _) :: r => (match lo with | none => true | some b => decide (b < j)) && Tbl.risingFrom (some j) r

/-- The canonical form of a table of present entries: keys strictly rising. -/
def Tbl.rising {α : Type} (t : Tbl α) : Bool := Tbl.risingFrom none t

/-- The canonical form of a table with a default: keys strictly rising and no entry equal to the default. -/
def Tbl.wf {α : Type} [DecidableEq α] (d : α) (t : Tbl α) : Bool :=
  Tbl.rising t && t.all (fun e => decide (e.2 ≠ d))

/-- The values in key order. -/
def Tbl.vals {α : Type} (t : Tbl α) : List α := t.map Prod.snd

/-- The keys in order. -/
def Tbl.keys {α : Type} (t : Tbl α) : List Nat := t.map Prod.fst

/-- Keeps the entries that satisfy a test. -/
def Tbl.keep {α : Type} (t : Tbl α) (p : Nat → α → Bool) : Tbl α := t.filter (fun e => p e.1 e.2)

/-- Applies a function to every listed value. -/
def Tbl.mapVals {α β : Type} (t : Tbl α) (f : Nat → α → β) : Tbl β := t.map (fun e => (e.1, f e.1 e.2))

/-- A byte memory: what an address that is not listed reads as is 0 (R900: memory arrays of words). -/
abbrev Memory := List Host.Cell

/-- The byte at an address. -/
def Memory.read (m : Memory) (a : Nat) : Byte := Tbl.get (0 : Byte) m a

/-- Stores a byte. -/
def Memory.write (m : Memory) (a : Nat) (b : Byte) : Memory := Tbl.put (0 : Byte) m a b

/-- The canonical form of a byte memory. -/
def Memory.wf (m : Memory) : Bool := Tbl.wf (0 : Byte) m

/-- `n` bytes from an address. -/
def Memory.readBytes (m : Memory) (a : Nat) : Nat → List Byte
  | 0 => []
  | n + 1 => Memory.read m a :: Memory.readBytes m (a + 1) n

/-- Stores bytes at rising addresses. -/
def Memory.writeBytes (m : Memory) (a : Nat) : List Byte → Memory
  | [] => m
  | b :: r => Memory.writeBytes (Memory.write m a b) (a + 1) r

/-- The little-endian number of a list of bytes (the module's byte order). -/
def leNat : List Byte → Nat
  | [] => 0
  | b :: r => b.toNat + 256 * leNat r

/-- `n` little-endian bytes of a number. -/
def leBytes : Nat → Nat → List Byte
  | 0, _ => []
  | n + 1, v => BitVec.ofNat 8 v :: leBytes n (v / 256)

/-- `n` big-endian bytes of a number. -/
def beBytes (n v : Nat) : List Byte := (leBytes n v).reverse

/-- The big-endian number of a list of bytes. -/
def beNat (l : List Byte) : Nat := leNat l.reverse

/-- Pads or cuts a list of bytes to `n` bytes; the fill is zero. -/
def fitBytes : Nat → List Byte → List Byte
  | 0, _ => []
  | n + 1, [] => 0 :: fitBytes n []
  | n + 1, b :: r => b :: fitBytes n r

/-- Updates position `i` of a list; a position outside the list changes nothing. -/
def listSet {α : Type} : List α → Nat → α → List α
  | [], _, _ => []
  | _ :: r, 0, v => v :: r
  | a :: r, i + 1, v => a :: listSet r i v

/-- The element at position `i`, or the default. -/
def listGet {α : Type} (d : α) : List α → Nat → α
  | [], _ => d
  | a :: _, 0 => a
  | _ :: r, i + 1 => listGet d r i

/-- Addition that stops at a largest value (saturating counters). -/
def satAdd (cap a b : Nat) : Nat := min cap (a + b)

/-- The bits `hi` down to `lo` of a number. -/
def bitsOf (v hi lo : Nat) : Nat := (v / 2 ^ lo) % 2 ^ (hi + 1 - lo)

/-- Replaces the bits `hi` down to `lo` of a number. -/
def bitsSet (v hi lo x : Nat) : Nat :=
  (v / 2 ^ (hi + 1)) * 2 ^ (hi + 1) + (x % 2 ^ (hi + 1 - lo)) * 2 ^ lo + v % 2 ^ lo

/-- Bit `i` of a number. -/
def bitOf (v i : Nat) : Bool := (v / 2 ^ i) % 2 == 1

/-- A truth value as a bit. -/
def b2n (b : Bool) : Nat := if b then 1 else 0

/-- The largest value of a 64-bit count (the module's wide counters saturate or wrap there). -/
def max64 : Nat := 2 ^ 64 - 1

end Sys2Proof.Machine
end

