-- ==== Sys2Proof/Machine/Crypto.lean ====
section
/-! DEFINITION. The algorithms that chapter 16 names by their standards: AES-256 and its modes, SHA-2, SHA-3, HMAC, key wrap, key
derivation and ECDSA P-384 verification. -/

namespace Sys2Proof.Machine

/-- Byte-wise exclusive or, to the shorter length. -/
def xorBytes (a b : List Byte) : List Byte := List.zipWith (· ^^^ ·) a b

/-- Bytes in blocks of `n`, at most `fuel` of them; the last may be shorter. -/
def chunksGo : Nat → Nat → List Byte → List (List Byte)
  | 0, _, _ => []
  | f + 1, n, l => match l with | [] => [] | _ => l.take n :: chunksGo f n (l.drop n)

/-- Bytes in blocks of `n` bytes, `n` at least 1. -/
def chunks (n : Nat) (l : List Byte) : List (List Byte) := chunksGo l.length n l

/-! AES-256 (FIPS 197). -/

/-- Multiplication by x in the AES field. -/
def xtime (a : Byte) : Byte := if a.getLsbD 7 then (a <<< 1) ^^^ 0x1B#8 else a <<< 1

/-- The S-box (FIPS 197): row r holds the bytes for 16 r to 16 r + 15, the first lowest. -/
def sboxRows : List Nat :=
  [0x76abd7fe2b670130c56f6bf27b777c63, 0xc072a49cafa2d4adf04759fa7dc982ca, 0x1531d871f1e5a534ccf73f362693fdb7, 0x75b227ebe28012079a059618c323c704,
   0x842fe329b3d63b52a05a6e1b1a2c8309, 0xcf584c4a39becb6a5bb1fc20ed00d153, 0xa89f3c507f02f94585334d43fbaaefd0, 0xd2f3ff1021dab6bcf5389d928f40a351,
   0x73195d643d7ea7c41744975fec130ccd, 0xdb0b5ede14b8ee4688902a22dc4f8160, 0x79e4959162acd3c25c2406490a3a32e0, 0x08ae7a65eaf4566ca94ed58d6d37c8e7,
   0x8a8bbd4b1f74dde8c6b4a61c2e2578ba, 0x9e1dc186b95735610ef6034866b53e70, 0xdf2855cee9871e9b948ed9691198f8e1, 0x16bb54b00f2d99416842e6bf0d89a18c]

/-- The inverse S-box, held the same way. -/
def invSboxRows : List Nat :=
  [0xfbd7f3819ea340bf38a53630d56a0952, 0xcbe9dec444438e3487ff2f9b8239e37c, 0x4ec3fa420b954cee3d23c2a632947b54, 0x25d18b6d49a25b76b224d92866a12e08,
   0x92b6655dcc5ca4d41698688664f6f872, 0x849d8da75746155edab9edfd5048706c, 0x0645b3b80558e4f70ad3bc8c00abd890, 0x6b8a130103bdafc1020f3fca8f1e2cd0,
   0x73e6b4f0cecff297eadc674f4111913a, 0x6edf751ce837f9e28535ade72274ac96, 0x1bbe18aa0e62b76f89c5291d711af147, 0xf45acd78fec0db9a2079d2c64b3e56fc,
   0x5fec8027591012b131c7078833a8dd1f, 0xef9cc9939f7ae52d0d4ab519a97f5160, 0x619953833cbbebc8b0f52aae4d3be0a0, 0x7d0c2155631469e126d677ba7e042b17]

/-- A byte through a table of 16 rows. -/
def boxAt (t : List Nat) (b : Byte) : Byte := BitVec.ofNat 8 (listGet 0 t (b.toNat / 16) / 2 ^ (8 * (b.toNat % 16)))

/-- A byte through the S-box or its inverse. -/
def sub1 (b : Byte) : Byte := boxAt sboxRows b
def invSub1 (b : Byte) : Byte := boxAt invSboxRows b

/-- The round constant of step i. -/
def rconGo : Nat → Byte → Byte
  | 0, a => a
  | n + 1, a => rconGo n (xtime a)

/-- The next word of the AES-256 key schedule; `w` holds the words so far, newest first; i is its number. -/
def keyWord (w : List (List Byte)) (i : Nat) : List Byte :=
  let prev := w.headD []
  let old := listGet [] w 7
  let t :=
    if i % 8 = 0 then
      let r := (prev.drop 1 ++ prev.take 1).map sub1
      xorBytes r [rconGo (i / 8 - 1) 1, 0, 0, 0]
    else if i % 8 = 4 then prev.map sub1 else prev
  xorBytes old t

/-- The key schedule: words newest first. -/
def keySchedGo : Nat → Nat → List (List Byte) → List (List Byte)
  | 0, _, w => w
  | n + 1, i, w => keySchedGo n (i + 1) (keyWord w i :: w)

/-- The 15 round keys of a 32-byte key. -/
def roundKeys (key : List Byte) : List (List Byte) :=
  let w0 := (chunks 4 (fitBytes 32 key)).reverse
  chunks 16 (keySchedGo 52 8 w0).reverse.flatten

/-- Row shift of the state, columns of four bytes: byte r of column c comes from column c + r. -/
def shiftRows (s : List Byte) : List Byte :=
  (List.range 16).map (fun i => listGet 0 s ((4 * (i / 4 + i % 4) + i % 4) % 16))

/-- The inverse row shift. -/
def invShiftRows (s : List Byte) : List Byte :=
  (List.range 16).map (fun i => listGet 0 s ((4 * (i / 4 + 4 - i % 4) + i % 4) % 16))

/-- A column of MixColumns: byte i is 2 aᵢ + 3 aᵢ₊₁ + aᵢ₊₂ + aᵢ₊₃. -/
def mixCol (x : List Byte) : List Byte :=
  let g := fun i => listGet 0 x (i % 4)
  (List.range 4).map (fun i => xtime (g i ^^^ g (i + 1)) ^^^ g (i + 1) ^^^ g (i + 2) ^^^ g (i + 3))

/-- A column of InvMixColumns: byte i is 14 aᵢ + 11 aᵢ₊₁ + 13 aᵢ₊₂ + 9 aᵢ₊₃. -/
def invMixCol (x : List Byte) : List Byte :=
  let g := fun i => listGet 0 x (i % 4)
  (List.range 4).map (fun i =>
    xtime (xtime (xtime (g 0 ^^^ g 1 ^^^ g 2 ^^^ g 3) ^^^ g i ^^^ g (i + 2)) ^^^ g i ^^^ g (i + 1)) ^^^ g (i + 1) ^^^ g (i + 2) ^^^ g (i + 3))

/-- Column mixing and its inverse. -/
def mixCols (s : List Byte) : List Byte := (chunks 4 s).flatMap mixCol
def invMixCols (s : List Byte) : List Byte := (chunks 4 s).flatMap invMixCol

/-- Rounds of encryption with the round keys left. -/
def aesRounds : List (List Byte) → List Byte → List Byte
  | [], s => s
  | [k], s => xorBytes (shiftRows (s.map sub1)) k
  | k :: r, s => aesRounds r (xorBytes (mixCols (shiftRows (s.map sub1))) k)

/-- AES-256 of one block under expanded keys. -/
def aesEncK (ks : List (List Byte)) (b : List Byte) : List Byte := aesRounds (ks.drop 1) (xorBytes b (ks.headD []))

/-- Rounds of decryption with the round keys left, last first. -/
def aesInvRounds : List (List Byte) → List Byte → List Byte
  | [], s => s
  | [k], s => xorBytes ((invShiftRows s).map invSub1) k
  | k :: r, s => aesInvRounds r (invMixCols (xorBytes ((invShiftRows s).map invSub1) k))

/-- The inverse cipher under expanded keys. -/
def aesDecK (ks : List (List Byte)) (b : List Byte) : List Byte :=
  let r := ks.reverse
  aesInvRounds (r.drop 1) (xorBytes b (r.headD []))

/-- AES-256 of a block. -/
def aesEnc (key b : List Byte) : List Byte := aesEncK (roundKeys key) b

/-- The key check value: the first `n` bytes of AES-256 of a zero block (KEY_SLOT.KCV, R728). -/
def keyCheck (n : Nat) (key : List Byte) : List Byte := (aesEnc key (List.replicate 16 0)).take n

/-! CTR, CBC, CBC-CS3 (SP 800-38A and its addendum). -/

/-- The counter block after `n` steps of its low `w` bytes. -/
def ctrBlock (w : Nat) (b : List Byte) (n : Nat) : List Byte :=
  b.take (16 - w) ++ beBytes w ((beNat (b.drop (16 - w)) + n) % 2 ^ (8 * w))

/-- Key stream applied to data, from a counter block with a counter of `w` bytes. -/
def ctrMode (w : Nat) (ks : List (List Byte)) (b : List Byte) (data : List Byte) : List Byte :=
  ((chunks 16 data).zipIdx).flatMap (fun e => xorBytes e.1 (aesEncK ks (ctrBlock w b e.2)))

/-- CBC encryption of whole blocks. -/
def cbcEnc (ks : List (List Byte)) : List Byte → List (List Byte) → List (List Byte)
  | _, [] => []
  | iv, b :: r =>
    let c := aesEncK ks (xorBytes b iv)
    c :: cbcEnc ks c r

/-- CBC decryption of whole blocks. -/
def cbcDec (ks : List (List Byte)) : List Byte → List (List Byte) → List (List Byte)
  | _, [] => []
  | iv, c :: r => xorBytes (aesDecK ks c) iv :: cbcDec ks c r

/-- PKCS#7 padding to 16 bytes. -/
def pkcsPad (m : List Byte) : List Byte :=
  let n := 16 - m.length % 16
  m ++ List.replicate n (BitVec.ofNat 8 n)

/-- The data bytes of a last block with valid PKCS#7 padding. -/
def pkcsUnpad (b : List Byte) : Option (List Byte) :=
  let n := (listGet 0 b 15).toNat
  if 1 ≤ n ∧ n ≤ 16 ∧ (b.drop (16 - n)).all (· = BitVec.ofNat 8 n) then some (b.take (16 - n)) else none

/-- CBC encryption with CS3 ciphertext stealing, of 16 bytes or more. -/
def cs3Enc (ks : List (List Byte)) (iv m : List Byte) : List Byte :=
  let d := (m.length + 15) / 16
  if d ≤ 1 then aesEncK ks (xorBytes m iv)
  else
    let tail := m.length - 16 * (d - 1)
    let cs := cbcEnc ks iv (chunks 16 (m ++ List.replicate (16 * d - m.length) 0))
    (cs.take (d - 2)).flatten ++ listGet [] cs (d - 1) ++ (listGet [] cs (d - 2)).take tail

/-- CBC decryption with CS3 ciphertext stealing, of 16 bytes or more. -/
def cs3Dec (ks : List (List Byte)) (iv c : List Byte) : List Byte :=
  let d := (c.length + 15) / 16
  if d ≤ 1 then xorBytes (aesDecK ks c) iv
  else
    let tail := c.length - 16 * (d - 1)
    let front := chunks 16 (c.take (16 * (d - 2)))
    let cd := (c.drop (16 * (d - 2))).take 16
    let cs := c.drop (16 * (d - 1))
    let x := aesDecK ks cd
    let last := xorBytes (x.take tail) cs
    let prevC := cs ++ x.drop tail
    (cbcDec ks iv (front ++ [prevC])).flatten ++ last

/-! CMAC (SP 800-38B), CCM (SP 800-38C), GCM (SP 800-38D). -/

/-- Doubling in the 128-bit field. -/
def dbl (b : List Byte) : List Byte :=
  let v := beNat b
  let w := (2 * v) % 2 ^ 128
  beBytes 16 (if v / 2 ^ 127 = 1 then Nat.xor w 0x87 else w)

/-- The last chaining value of CBC-MAC over blocks. -/
def macChain (ks : List (List Byte)) (bs : List (List Byte)) : List Byte :=
  bs.foldl (fun x b => aesEncK ks (xorBytes x b)) (List.replicate 16 0)

/-- CMAC of a message. -/
def cmac (key m : List Byte) : List Byte :=
  let ks := roundKeys key
  let k1 := dbl (aesEncK ks (List.replicate 16 0))
  let bs := chunks 16 m
  let full := (bs.length - 1)
  let lastB := bs.getLastD []
  let fin := if lastB.length = 16 then xorBytes lastB k1 else xorBytes (fitBytes 16 (lastB ++ [0x80])) (dbl k1)
  macChain ks (bs.take full ++ [fin])

/-- Bytes padded with zeros to a multiple of 16. -/
def pad16 (l : List Byte) : List Byte := l ++ List.replicate ((16 - l.length % 16) % 16) 0

/-- The CCM tag before its encryption: 12-byte nonce, 16-byte tag, AAD below 65,280 bytes. -/
def ccmMac (ks : List (List Byte)) (nonce aad m : List Byte) : List Byte :=
  let flags : Byte := (if aad = [] then 0 else 0x40#8) ||| 0x3A#8
  let b0 := flags :: nonce ++ beBytes 3 m.length
  let a := if aad = [] then [] else pad16 (beBytes 2 aad.length ++ aad)
  macChain ks (chunks 16 (b0 ++ a ++ pad16 m))

/-- The first CCM counter block. -/
def ccmCtr (nonce : List Byte) : List Byte := (0x02#8 :: nonce) ++ [0, 0, 0]

/-- CCM: what the key stream makes of data, and the tag over the plain text. -/
def ccmCrypt (ks : List (List Byte)) (nonce data : List Byte) : List Byte := ctrMode 3 ks (ctrBlock 3 (ccmCtr nonce) 1) data
def ccmTag (ks : List (List Byte)) (nonce aad plain : List Byte) : List Byte :=
  xorBytes (ccmMac ks nonce aad plain) (aesEncK ks (ccmCtr nonce))

/-- Product in the GHASH field; bit 127 of a number is the first bit of its block. -/
def ghMulGo : Nat → Nat → Nat → Nat → Nat
  | 0, _, _, z => z
  | n + 1, x, v, z =>
    let z1 := if (x / 2 ^ n) % 2 = 1 then Nat.xor z v else z
    let v1 := if v % 2 = 1 then Nat.xor (v / 2) (0xE1 * 2 ^ 120) else v / 2
    ghMulGo n x v1 z1

/-- GHASH of whole blocks. -/
def ghash (h : Nat) (bs : List (List Byte)) : Nat := bs.foldl (fun y b => ghMulGo 128 (Nat.xor y (beNat b)) h 0) 0

/-- The first GCM counter block of a 96-bit IV. -/
def gcmJ0 (iv : List Byte) : List Byte := iv.take 12 ++ [0, 0, 0, 1]

/-- GCM: what the key stream makes of data, and the tag over the cipher text. -/
def gcmCrypt (ks : List (List Byte)) (iv data : List Byte) : List Byte := ctrMode 4 ks (ctrBlock 4 (gcmJ0 iv) 1) data
def gcmTag (ks : List (List Byte)) (iv aad cipher : List Byte) : List Byte :=
  let h := beNat (aesEncK ks (List.replicate 16 0))
  let s := ghash h (chunks 16 (pad16 aad ++ pad16 cipher ++ beBytes 8 (8 * aad.length) ++ beBytes 8 (8 * cipher.length)))
  xorBytes (beBytes 16 s) (aesEncK ks (gcmJ0 iv))

/-! Key derivation (R690) and key wrap with padding (RFC 5649). -/

/-- Key derivation in counter mode with CMAC: label, generation, bits. -/
def kdf (root label : List Byte) (gen bits : Nat) : List Byte :=
  (List.range (bits / 128)).flatMap (fun i => cmac root (beBytes 4 (i + 1) ++ label ++ [0] ++ beBytes 8 gen ++ beBytes 4 bits))

/-! XTS (IEEE 1619, R696): data units of whole blocks. -/

/-- The tweak of the next block: a multiplication by the primitive element, little-endian. -/
def xtsNext (t : Nat) : Nat := if t / 2 ^ 127 = 1 then Nat.xor (2 * t % 2 ^ 128) 0x87 else 2 * t

/-- The blocks of a data unit under their tweaks; `f` is the cipher's one direction. -/
def xtsBlocks (f : List Byte → List Byte) : Nat → List (List Byte) → List Byte
  | _, [] => []
  | t, b :: r => xorBytes (f (xorBytes b (leBytes 16 t))) (leBytes 16 t) ++ xtsBlocks f (xtsNext t) r

/-- XTS of a data unit: the data key and the tweak key, 32 bytes each, and the tweak value. -/
def xtsTweak (keys : List Byte) (j : Nat) : Nat := leNat (aesEnc (keys.drop 32) (leBytes 16 j))
def xtsEnc (keys : List Byte) (j : Nat) (m : List Byte) : List Byte := xtsBlocks (aesEncK (roundKeys (keys.take 32))) (xtsTweak keys j) (chunks 16 m)
def xtsDec (keys : List Byte) (j : Nat) (m : List Byte) : List Byte := xtsBlocks (aesDecK (roundKeys (keys.take 32))) (xtsTweak keys j) (chunks 16 m)

/-- One step of the wrap: A and the registers, the first in front. -/
def wrapStep (ks : List (List Byte)) (s : List Byte × List (List Byte)) (t : Nat) : List Byte × List (List Byte) :=
  let b := aesEncK ks (s.1 ++ s.2.headD [])
  (xorBytes (b.take 8) (beBytes 8 t), s.2.drop 1 ++ [b.drop 8])

/-- One step of the unwrap: A and the registers, the last at the end. -/
def unwrapStep (ks : List (List Byte)) (s : List Byte × List (List Byte)) (t : Nat) : List Byte × List (List Byte) :=
  let b := aesDecK ks (xorBytes s.1 (beBytes 8 t) ++ s.2.getLastD [])
  (b.take 8, b.drop 8 :: s.2.dropLast)

/-- Wraps key data under a key. -/
def keyWrap (key data : List Byte) : List Byte :=
  let ks := roundKeys key
  let aiv : List Byte := [0xA6, 0x59, 0x59, 0xA6] ++ beBytes 4 data.length
  let p := chunks 8 (data ++ List.replicate ((8 - data.length % 8) % 8) 0)
  if p.length = 1 then aesEncK ks (aiv ++ p.flatten)
  else
    let r := ((List.range (6 * p.length)).map (· + 1)).foldl (wrapStep ks) (aiv, p)
    r.1 ++ r.2.flatten

/-- Unwraps a blob; none where its integrity check fails. -/
def keyUnwrap (key blob : List Byte) : Option (List Byte) :=
  let ks := roundKeys key
  let n := blob.length / 8 - 1
  let r := if n = 1 then
      let b := aesDecK ks blob
      (b.take 8, [b.drop 8])
    else ((List.range (6 * n)).map (fun i => 6 * n - i)).foldl (unwrapStep ks) (blob.take 8, chunks 8 (blob.drop 8))
  let len := beNat (r.1.drop 4)
  let p := r.2.flatten
  if r.1.take 4 = [0xA6, 0x59, 0x59, 0xA6] ∧ 8 * (n - 1) < len ∧ len ≤ 8 * n ∧ (p.drop len).all (· = 0) then some (p.take len) else none

/-! SHA-2 (FIPS 180-4). -/

/-- The first 80 primes. -/
def primes80 : List Nat :=
  [2, 3, 5, 7, 11, 13, 17, 19, 23, 29, 31, 37, 41, 43, 47, 53, 59, 61, 67, 71] ++
  [73, 79, 83, 89, 97, 101, 103, 107, 109, 113, 127, 131, 137, 139, 149, 151, 157, 163, 167, 173] ++
  [179, 181, 191, 193, 197, 199, 211, 223, 227, 229, 233, 239, 241, 251, 257, 263, 269, 271, 277, 281] ++
  [283, 293, 307, 311, 313, 317, 331, 337, 347, 349, 353, 359, 367, 373, 379, 383, 389, 397, 401, 409]

/-- The integer k-th root of v from its bits n - 1 down. -/
def rootGo (k v : Nat) : Nat → Nat → Nat
  | 0, r => r
  | n + 1, r => rootGo k v n (if (r + 2 ^ n) ^ k ≤ v then r + 2 ^ n else r)

/-- The first 64 bits of the fraction of a prime's square root and cube root. -/
def sqrtFrac (p : Nat) : Nat := rootGo 2 (p * 2 ^ 128) 70 0 % 2 ^ 64
def cbrtFrac (p : Nat) : Nat := rootGo 3 (p * 2 ^ 192) 70 0 % 2 ^ 64

/-- Round constants of the 64-bit hashes; the 32-bit hash takes the high halves of the first 64. -/
def sha64K : List Nat := primes80.map cbrtFrac
def sha32K : List Nat := (sha64K.take 64).map (fun x => x / 2 ^ 32)

/-- Rotation right of a w-bit number. -/
def rotr (w n x : Nat) : Nat := (x / 2 ^ n + (x % 2 ^ n) * 2 ^ (w - n)) % 2 ^ w

/-- What the two word sizes differ in: width, rotations of the four functions, round constants. -/
structure ShaKind where
  w : Nat
  s0 : Nat × Nat × Nat
  s1 : Nat × Nat × Nat
  g0 : Nat × Nat × Nat
  g1 : Nat × Nat × Nat
  k : List Nat
deriving DecidableEq, Repr

/-- The kinds. -/
def shaKind32 : ShaKind :=
  { w := 32, s0 := (2, 13, 22), s1 := (6, 11, 25), g0 := (7, 18, 3), g1 := (17, 19, 10), k := sha32K }
def shaKind64 : ShaKind :=
  { w := 64, s0 := (28, 34, 39), s1 := (14, 18, 41), g0 := (1, 8, 7), g1 := (19, 61, 6), k := sha64K }

/-- Three rotations combined, and two rotations with a shift. -/
def rot3 (w : Nat) (r : Nat × Nat × Nat) (x : Nat) : Nat := Nat.xor (Nat.xor (rotr w r.1 x) (rotr w r.2.1 x)) (rotr w r.2.2 x)
def rotShift (w : Nat) (r : Nat × Nat × Nat) (x : Nat) : Nat := Nat.xor (Nat.xor (rotr w r.1 x) (rotr w r.2.1 x)) (x / 2 ^ r.2.2)

/-- The message schedule, newest word first. -/
def shaSched (kd : ShaKind) : Nat → List Nat → List Nat
  | 0, ws => ws
  | n + 1, ws =>
    let g := fun i => listGet 0 ws i
    let x := (rotShift kd.w kd.g1 (g 1) + g 6 + rotShift kd.w kd.g0 (g 14) + g 15) % 2 ^ kd.w
    shaSched kd n (x :: ws)

/-- One round on the eight working words. -/
def shaRound (kd : ShaKind) (v : List Nat) (kw : Nat × Nat) : List Nat :=
  match v with
  | [a, b, c, d, e, f, g, h] =>
    let m := 2 ^ kd.w
    let ch := Nat.xor (Nat.land e f) (Nat.land (m - 1 - e) g)
    let t1 := h + rot3 kd.w kd.s1 e + ch + kw.1 + kw.2
    let maj := Nat.xor (Nat.xor (Nat.land a b) (Nat.land a c)) (Nat.land b c)
    let t2 := rot3 kd.w kd.s0 a + maj
    [(t1 + t2) % m, a, b, c, (d + t1) % m, e, f, g]
  | _ => v

/-- The compression of one block of 16 words. -/
def shaBlock (kd : ShaKind) (h : List Nat) (block : List Byte) : List Nat :=
  let ws := (chunks (kd.w / 8) block).map beNat
  let all := (shaSched kd (kd.k.length - 16) ws.reverse).reverse
  let r := (kd.k.zip all).foldl (shaRound kd) h
  List.zipWith (fun a b => (a + b) % 2 ^ kd.w) h r

/-- The four algorithms of the digest engine (DIG_CTRL.ALG): 0 SHA-256, 1 SHA-384, 2 SHA-512, 3 SHA3-256. -/
def hashInit (alg : Nat) : List Nat :=
  match alg with
  | 0 => (primes80.take 8).map (fun p => sqrtFrac p / 2 ^ 32)
  | 1 => ((primes80.drop 8).take 8).map sqrtFrac
  | 2 => (primes80.take 8).map sqrtFrac
  | _ => List.replicate 25 0

/-- Block bytes and digest bytes. -/
def hashBlockLen (alg : Nat) : Nat := match alg with | 0 => 64 | 1 => 128 | 2 => 128 | _ => 136
def hashLen (alg : Nat) : Nat := match alg with | 0 => 32 | 1 => 48 | 2 => 64 | _ => 32

/-! SHA-3 (FIPS 202). -/

/-- A bit of the round-constant register after t steps. -/
def keccakBit : Nat → Nat → Nat
  | 0, r => r % 2
  | n + 1, r =>
    let r2 := 2 * r
    keccakBit n (if r2 / 256 = 1 then Nat.xor r2 0x171 else r2)

/-- The round constant of round i. -/
def keccakRC (i : Nat) : Nat := ((List.range 7).map (fun j => keccakBit (j + 7 * i) 1 * 2 ^ (2 ^ j - 1))).foldl (· + ·) 0

/-- The lane offsets walk: place x, y and step t give the rotation of a lane. -/
def rhoGo : Nat → Nat → Nat → Nat → List (Nat × Nat)
  | 0, _, _, _ => []
  | n + 1, t, x, y => (x + 5 * y, ((t + 1) * (t + 2) / 2) % 64) :: rhoGo n (t + 1) y ((2 * x + 3 * y) % 5)

/-- Rotation of each lane. -/
def rhoOf (lane : Nat) : Nat := ((rhoGo 24 0 1 0).find? (fun e => e.1 = lane)).elim 0 (·.2)

/-- The rotations as a table. -/
def rhoTab : List Nat := (List.range 25).map rhoOf

/-- Rotation left of a 64-bit lane. -/
def rotl64 (n x : Nat) : Nat := rotr 64 ((64 - n) % 64) x

/-- One round of Keccak-f[1600]. -/
def keccakRound (a : List Nat) (i : Nat) : List Nat :=
  let g := fun x y => listGet 0 a (x % 5 + 5 * (y % 5))
  let c := (List.range 5).map (fun x => Nat.xor (Nat.xor (Nat.xor (Nat.xor (g x 0) (g x 1)) (g x 2)) (g x 3)) (g x 4))
  let d := (List.range 5).map (fun x => Nat.xor (listGet 0 c ((x + 4) % 5)) (rotl64 1 (listGet 0 c ((x + 1) % 5))))
  let t := (List.range 25).map (fun k => Nat.xor (listGet 0 a k) (listGet 0 d (k % 5)))
  let b := (List.range 25).map (fun k =>
    let x := k % 5
    let y := k / 5
    let sx := (x + 3 * y) % 5
    let src := sx + 5 * x
    rotl64 (listGet 0 rhoTab src) (listGet 0 t src))
  let h := fun x y => listGet 0 b (x % 5 + 5 * y)
  let e := (List.range 25).map (fun k =>
    let x := k % 5
    let y := k / 5
    Nat.xor (h x y) (Nat.land (2 ^ 64 - 1 - h (x + 1) y) (h (x + 2) y)))
  match e with
  | f :: r => Nat.xor f (keccakRC i) :: r
  | [] => []

/-- A block of 136 bytes into the sponge. -/
def keccakBlock (a : List Nat) (block : List Byte) : List Nat :=
  let ls := (chunks 8 block).map leNat
  let x := (a.zip (ls ++ List.replicate 8 0)).map (fun e => Nat.xor e.1 e.2)
  (List.range 24).foldl keccakRound x

/-! Hashes over pieces, HMAC. -/

/-- One block into a chaining state. -/
def hashBlock (alg : Nat) (st : List Nat) (block : List Byte) : List Nat :=
  match alg with
  | 0 => shaBlock shaKind32 st block
  | 1 => shaBlock shaKind64 st block
  | 2 => shaBlock shaKind64 st block
  | _ => keccakBlock st block

/-- Whole blocks of bytes into a state; what is left over. -/
def hashFeedGo (alg : Nat) : Nat → List Nat → List Byte → List Nat × List Byte
  | 0, st, l => (st, l)
  | n + 1, st, l =>
    if l.length < hashBlockLen alg then (st, l)
    else hashFeedGo alg n (hashBlock alg st (l.take (hashBlockLen alg))) (l.drop (hashBlockLen alg))

/-- Bytes into a state with a partial block. -/
def hashFeed (alg : Nat) (st : List Nat) (part bs : List Byte) : List Nat × List Byte :=
  hashFeedGo alg ((part ++ bs).length / hashBlockLen alg) st (part ++ bs)

/-- The padding of a message whose last partial block is `part` and whose length is `n` bytes. -/
def hashPad (alg : Nat) (part : List Byte) (n : Nat) : List Byte :=
  if alg = 3 then
    let z := 136 - part.length % 136
    if z = 1 then part ++ [0x86] else part ++ [0x06] ++ List.replicate (z - 2) 0 ++ [0x80]
  else
    let b := hashBlockLen alg
    let lf := b / 8
    let z := (2 * b - (part.length + 1 + lf) % b) % b
    part ++ [0x80] ++ List.replicate z 0 ++ beBytes lf (8 * n)

/-- The digest of a state after its last block. -/
def hashOut (alg : Nat) (st : List Nat) : List Byte :=
  match alg with
  | 0 => st.flatMap (beBytes 4)
  | 3 => ((st.take 4).flatMap (leBytes 8))
  | _ => (st.flatMap (beBytes 8)).take (hashLen alg)

/-- The digest of a state with a partial block, `n` bytes fed in all. -/
def hashFinish (alg : Nat) (st : List Nat) (part : List Byte) (n : Nat) : List Byte :=
  hashOut alg (hashFeed alg st [] (hashPad alg part n)).1

/-- The hash of a message. -/
def hashOf (alg : Nat) (m : List Byte) : List Byte :=
  let r := hashFeed alg (hashInit alg) [] m
  hashFinish alg r.1 r.2 m.length

/-- The HMAC key block with a byte folded in; keys are no longer than a block. -/
def hmacBlock (alg : Nat) (key : List Byte) (b : Byte) : List Byte := (fitBytes (hashBlockLen alg) key).map (· ^^^ b)

/-- The outer pass of HMAC. -/
def hmacOuter (alg : Nat) (key inner : List Byte) : List Byte := hashOf alg (hmacBlock alg key 0x5C ++ inner)

/-! ECDSA P-384 verification (FIPS 186). -/

/-- Field prime, order, coefficient b and base point of P-384. -/
def p384P : Nat := 2 ^ 384 - 2 ^ 128 - 2 ^ 96 + 2 ^ 32 - 1
def p384N : Nat := 0xffffffffffffffffffffffffffffffffffffffffffffffffc7634d81f4372ddf581a0db248b0a77aecec196accc52973
def p384B : Nat := 0xb3312fa7e23ee7e4988e056be3f82d19181d9c6efe8141120314088f5013875ac656398d8a2ed19d2a85c8edd3ec2aef
def p384Gx : Nat := 0xaa87ca22be8b05378eb1c71ef320ad746e1d3b628ba79b9859f741e082542a385502f25dbf55296c3a545e3872760ab7
def p384Gy : Nat := 0x3617de4a96262c6f5d9e98bf9292dc29f8f41dbd289a147ce9da3113b5f0b8c00a60b1ce1d7e819d7a431d7c90ea0e5f

/-- Power modulo m, exponent bits n - 1 down. -/
def powModGo (b e m : Nat) : Nat → Nat → Nat
  | 0, acc => acc
  | n + 1, acc =>
    let sq := acc * acc % m
    powModGo b e m n (if (e / 2 ^ n) % 2 = 1 then sq * b % m else sq)

/-- Inverse modulo a prime. -/
def invMod (a m : Nat) : Nat := powModGo (a % m) (m - 2) m 384 1

/-- A point X / Z², Y / Z³; Z = 0 is the point at infinity. -/
structure EcPoint where
  x : Nat
  y : Nat
  z : Nat
deriving DecidableEq, Repr

/-- A point twice. -/
def ecDouble (p : EcPoint) : EcPoint :=
  let m := p384P
  let y2 := p.y * p.y % m
  let z2 := p.z * p.z % m
  let s := 4 * p.x * y2 % m
  let l := (3 * p.x * p.x + (m - 3) * (z2 * z2 % m)) % m
  let x := (l * l + 2 * (m - s)) % m
  { x := x, y := (l * (s + (m - x)) + 8 * (m - y2 * y2 % m)) % m, z := 2 * p.y * p.z % m }

/-- Sum of two points. -/
def ecAdd (p q : EcPoint) : EcPoint :=
  if p.z = 0 then q
  else if q.z = 0 then p
  else
    let m := p384P
    let pz := p.z * p.z % m
    let qz := q.z * q.z % m
    let u1 := p.x * qz % m
    let u2 := q.x * pz % m
    let s1 := p.y * qz % m * q.z % m
    let s2 := q.y * pz % m * p.z % m
    if u1 = u2 then (if s1 = s2 then ecDouble p else { x := 1, y := 1, z := 0 })
    else
      let h := (u2 + (m - u1)) % m
      let r := (s2 + (m - s1)) % m
      let h2 := h * h % m
      let h3 := h2 * h % m
      let v := u1 * h2 % m
      let x := (r * r + (m - h3) + 2 * (m - v)) % m
      { x := x, y := (r * (v + (m - x)) + (m - s1) * h3) % m, z := h * p.z % m * q.z % m }

/-- Multiple of a point, scalar bits n - 1 down. -/
def ecMulGo (p : EcPoint) (k : Nat) : Nat → EcPoint → EcPoint
  | 0, acc => acc
  | n + 1, acc =>
    let d := ecDouble acc
    ecMulGo p k n (if (k / 2 ^ n) % 2 = 1 then ecAdd d p else d)

/-- Multiple of a point given by its two coordinates. -/
def ecMul (x y k : Nat) : EcPoint := ecMulGo { x := x, y := y, z := 1 } k 384 { x := 1, y := 1, z := 0 }

/-- The signature r, s of a 48-byte hash under an uncompressed public key of 97 bytes. -/
def ecdsaVerify (pub hash sig : List Byte) : Bool :=
  let x := beNat ((pub.drop 1).take 48)
  let y := beNat ((pub.drop 49).take 48)
  let r := beNat (sig.take 48)
  let s := beNat ((sig.drop 48).take 48)
  if pub.headD 0 ≠ 0x04 ∨ p384P ≤ x ∨ p384P ≤ y ∨ (y * y) % p384P ≠ (x * x * x + (p384P - 3) * x + p384B) % p384P ∨
      r = 0 ∨ p384N ≤ r ∨ s = 0 ∨ p384N ≤ s then false
  else
    let w := invMod s p384N
    let u1 := beNat hash * w % p384N
    let u2 := r * w % p384N
    let p := ecAdd (ecMul p384Gx p384Gy u1) (ecMul x y u2)
    decide (p.z ≠ 0 ∧ p.x * invMod (p.z * p.z) p384P % p384P % p384N = r)

end Sys2Proof.Machine
end

