-- ==== Sys2Proof/Machine/StBcn.lean ====
section
/-! DEFINITION. State of the beacon array (chapter 10). -/

namespace Sys2Proof.Machine

/-- A row: key, care mask, result, lane-valid bits (R446). -/
structure BcnRow where
  key : BitVec 160
  mask : BitVec 160
  res : BitVec 32
  valid : BitVec 4
deriving DecidableEq, Repr

/-- A row with no valid entry and nothing in it. -/
def BcnRow.empty : BcnRow := { key := 0, mask := 0, res := 0, valid := 0 }

/-- A table: configuration registers, and what CREATE fixed (R447, R453). -/
structure BcnTable where
  /-- BCN_TBL_CFG: BANKS, PROG_SHARE, HOLE, WIDTH. -/
  cfgBanks : BitVec 16
  progShare : Nat
  cfgHole : Nat
  cfgWidth : Nat
  active : Bool
  banks : BitVec 16
  /-- Width code of the active table, 1 to 3; hole spacing code. -/
  width : Nat
  hole : Nat
  append : Nat
deriving DecidableEq, Repr

/-- A table at Kindling (R460, R476). -/
def BcnTable.reset : BcnTable :=
  { cfgBanks := 0, progShare := 1, cfgHole := 1, cfgWidth := 0, active := false, banks := 0, width := 0, hole := 1, append := 0 }

/-- Search and update words of the PF (key 0) or of a task (key + 1) (R474). -/
structure BcnCtx where
  sTable : Nat
  sKey0 : Word
  sKey1 : Word
  sKey2 : Word
  sResult : Word
  uTable : Nat
  uIndex : Nat
  uKey0 : Word
  uKey1 : Word
  uKey2 : Word
  uMask0 : Word
  uMask1 : Word
  uMask2 : Word
  uRes : BitVec 32
  uStatus : Word
deriving DecidableEq, Repr

/-- A context of zeros. -/
def BcnCtx.zero : BcnCtx :=
  { sTable := 0, sKey0 := 0, sKey1 := 0, sKey2 := 0, sResult := 0, uTable := 0, uIndex := 0, uKey0 := 0, uKey1 := 0,
    uKey2 := 0, uMask0 := 0, uMask1 := 0, uMask2 := 0, uRes := 0, uStatus := 0 }

/-- Registers of a bank: slots served in the window in progress, its number, those of the last completed one, waits, scrub counts
(R476). -/
structure BcnBank where
  sieve : Nat
  program : Nat
  update : Nat
  window : Nat
  sieveLast : Nat
  programLast : Nat
  updateLast : Nat
  sieveWait : Bool
  progWait : Bool
  sat : Nat
  mismatch : Bool
  lost : Bool
  repaired : Nat
  lostCnt : Nat
  lastRow : Nat
deriving DecidableEq, Repr

/-- A bank at Kindling. -/
def BcnBank.reset : BcnBank :=
  { sieve := 0, program := 0, update := 0, window := 0, sieveLast := 0, programLast := 0, updateLast := 0, sieveWait := false, progWait := false, sat := 0, mismatch := false, lost := false,
    repaired := 0, lostCnt := 0, lastRow := 0 }

/-- The beacon array. Rows and their shadow have key 32,768 × bank + row (R446, R461). -/
structure BcnState where
  rows : Tbl BcnRow
  shadow : Tbl BcnRow
  tables : Tbl BcnTable
  ctxs : Tbl BcnCtx
  banks : Tbl BcnBank
deriving DecidableEq, Repr

/-- The array at Kindling (R460). -/
def BcnState.reset : BcnState := { rows := [], shadow := [], tables := [], ctxs := [], banks := [] }

end Sys2Proof.Machine
end

