-- ==== Sys2Proof/Machine/StEvt.lean ====
section
/-! DEFINITION. State of the counters, the event sources, the Keeper's Log and what leaves the module as messages (chapter 18). -/

namespace Sys2Proof.Machine

/-- One MSI-X message: function 0 is the PF (R793). -/
structure Msix where
  fn : Nat
  vector : Nat
deriving DecidableEq, Repr

/-- The counter values that one Counter Snapshot request captured at one instant (R791). -/
structure CntCapture where
  stamp : Nat
  winStatus : Word
  opSeconds : Nat
  powerCycles : Nat
  slots : Tbl Nat
  keeper : Tbl Nat
  wrap : Tbl Bool
  fns : Tbl Nat
deriving DecidableEq, Repr

/-- A sample that a switch-out may still change (R390): core, task handle, ring entry, instructions left, pc of the last one retired. -/
structure SmpLive where
  core : Nat
  handle : Nat
  entry : Nat
  left : Nat
  pc : Nat
deriving DecidableEq, Repr

/-- The CNT unit (R776 to R791). -/
structure CntState where
  /-- Counter registers by slot number k of R777, 64 bits each; reset 0 (R778). -/
  slots : Tbl Nat
  /-- Core counters of the keeper cores, key 6q + j (R780); reset 0. -/
  keeper : Tbl Nat
  /-- The wrap map, one bit a slot (R776, R783); reset 0. -/
  wrap : Tbl Bool
  /-- CNT_FN, key 4f + j (R778); saturating; reset 0. -/
  fns : Tbl Nat
  /-- BYTES of each die port at the start of the window in progress (R781). -/
  portMark : Tbl Nat
  /-- CNT_OP_SECONDS, 40 bits (R785), and the value last written to MRAM. -/
  opSeconds : Nat
  opSecondsMram : Nat
  /-- CNT_POWER_CYCLES, 24 bits (R786), held in MRAM. -/
  powerCycles : Nat
  /-- CNT_WIN_CTRL.STEPS and the length the window in progress runs at (R782). -/
  winSteps : Nat
  winCurrent : Nat
  /-- CNT_WIN_STATUS (R781). -/
  winSeq : Nat
  winEndUs : Nat
  /-- CNT_SMP_CTRL, CNT_SMP_PERIOD (R788, R789). -/
  smpCores : BitVec 32
  smpEnable : Bool
  smpWing : Nat
  smpCounter : Nat
  smpPeriod : Nat
  /-- Counter value of each sampled core at the last restart of the thresholds (R788, R789). -/
  smpBase : Tbl Nat
  /-- CNT_SMP_RING and the ring's entries (R790). -/
  smpHead : Nat
  smpTail : Nat
  smpOverflow : Bool
  ring : Tbl (BitVec 128)
  /-- Samples whose task has not yet retired 6 more instructions, and the last instruction retired on each core while sampling (R390). -/
  smpLive : List SmpLive
  smpLast : Tbl Nat
  /-- The captures of log page 0xCA by controller (R791). -/
  captures : Tbl CntCapture
deriving DecidableEq, Repr

/-- The EVT unit (R792 to R797, R810). -/
structure EvtState where
  /-- EVT_SRC, 1,088 entries of 64 bits; reset 0 (R797). -/
  src : Tbl Word
  /-- EVT_CTRL.MASK_ALL (R796). -/
  maskAll : Bool
  /-- EVT_STATUS: ROUTE_FAIL, FAIL_SRC, the sources waiting on a full post queue, LAST_SRC (R795, R435). -/
  routeFail : Bool
  failSrc : Nat
  postWait : List Nat
  lastSrc : Nat
  /-- EVT_PEND_SEL.GROUP. -/
  pendSel : Nat
  /-- EVT_BULK_VAL and EVT_BULK_RANGE. -/
  bulkVal : Word
  bulkFirst : Nat
  bulkCount : Nat
  /-- EVT_LAST_TIME, ns. -/
  lastTime : Nat
  /-- EVT_TALLY, 7 saturating counts. -/
  tally : Tbl Nat
  /-- MSI-X messages sent, oldest first. -/
  msix : List Msix
deriving DecidableEq, Repr

/-- A record slot of the Keeper's Log (R801); `crc` is the stored check value. -/
structure LogRec where
  typ : Nat
  source : Nat
  repeats : Nat
  repeatSat : Bool
  inFlush : Bool
  restored : Bool
  seq : Nat
  opSeconds : Nat
  powerCycles : Nat
  lastSeen : Nat
  listVer : Nat
  stamp : Nat
  detail : List Byte
  snapshot : List Nat
  crc : Nat
deriving DecidableEq, Repr

/-- An occurrence waiting for the log writer (R804), with the snapshot captured at the occurrence (R803). -/
structure LogOcc where
  typ : Nat
  source : Nat
  detail : List Byte
  stamp : Nat
  opSeconds : Nat
  powerCycles : Nat
  listVer : Nat
  snapshot : List Nat
deriving DecidableEq, Repr

/-- A snapshot list of a trigger class: version and PF BAR0 offsets (R802). -/
structure SnapList where
  version : Nat
  offsets : List Nat
deriving DecidableEq, Repr

/-- The LOG unit and the log's MRAM (R798 to R807, R811). -/
structure LogState where
  /-- Record slots 0-16,383; a slot never written is not listed (R798, R807). -/
  slots : Tbl LogRec
  /-- The two update slots: home slot and record (R800), and which was used last. -/
  upd0 : Option (Nat × LogRec)
  upd1 : Option (Nat × LogRec)
  updLast : Nat
  /-- Newest SEQ, slot of the next new record, forever slots used, slot of the last record (R798, R811). -/
  seq : Nat
  head : Nat
  foreverUsed : Nat
  lastSlot : Option Nat
  /-- Pending occurrences, oldest first (R804), HIGH, LOST. -/
  queue : List LogOcc
  high : Nat
  lost : Nat
  lostSeen : Bool
  /-- Occurrences lost since the last 0xB002 record (R804). -/
  lostUnlogged : Nat
  /-- LOG_BAD.COUNT and LOG_STATUS.READY (R800). -/
  bad : Nat
  ready : Bool
  /-- TD17 time of the newest occurrence (LOG_TIME). -/
  lastTime : Nat
  /-- LOG_LIST_SEL.CLASS. -/
  listSel : Nat
  /-- Snapshot lists by trigger class taken up at Kindling; a class not listed uses the default list (R802). -/
  lists : Tbl SnapList
  /-- An ember flush is writing the queue (R801 FLAGS bit 1). -/
  flushing : Bool
deriving DecidableEq, Repr

/-- CNT at the start of Kindling, the values in MRAM kept (R778, R785, R786). -/
def CntState.kindle (c : CntState) : CntState :=
  { slots := [], keeper := [], wrap := [], fns := [], portMark := [], opSeconds := c.opSecondsMram,
    opSecondsMram := c.opSecondsMram, powerCycles := c.powerCycles, winSteps := 10000, winCurrent := 10000,
    winSeq := 0, winEndUs := 0, smpCores := 0, smpEnable := false, smpWing := 0, smpCounter := 0,
    smpPeriod := 1000000, smpBase := [], smpHead := 0, smpTail := 0, smpOverflow := false, ring := [], smpLive := [], smpLast := [],
    captures := [] }

/-- CNT of a module that left manufacture and was never powered. -/
def CntState.reset : CntState :=
  { slots := [], keeper := [], wrap := [], fns := [], portMark := [], opSeconds := 0,
    opSecondsMram := 0, powerCycles := 0, winSteps := 10000, winCurrent := 10000,
    winSeq := 0, winEndUs := 0, smpCores := 0, smpEnable := false, smpWing := 0, smpCounter := 0,
    smpPeriod := 1000000, smpBase := [], smpHead := 0, smpTail := 0, smpOverflow := false, ring := [], smpLive := [], smpLast := [],
    captures := [] }

/-- EVT at reset and at every Kindling (R797, R810). -/
def EvtState.reset : EvtState :=
  { src := [], maskAll := false, routeFail := false, failSrc := 0, postWait := [], lastSrc := 0, pendSel := 0,
    bulkVal := 0, bulkFirst := 0, bulkCount := 0, lastTime := 0, tally := [], msix := [] }

/-- The log of a module that left manufacture: no record written. -/
def LogState.reset : LogState :=
  { slots := [], upd0 := none, upd1 := none, updLast := 1, seq := 0, head := 0, foreverUsed := 0, lastSlot := none,
    queue := [], high := 0, lost := 0, lostSeen := false, lostUnlogged := 0, bad := 0, ready := false, lastTime := 0,
    listSel := 0, lists := [], flushing := false }

/-- The log at the start of Kindling: MRAM kept, the queue and the counts of R811 cleared (R778, R811); a state change captured before it is
still written (R54). -/
def LogState.kindle (l : LogState) : LogState :=
  { l with queue := l.queue.filter (fun o => o.typ = 0x0001), high := 0, lost := 0, lostSeen := false, lostUnlogged := 0, bad := 0, ready := false,
           listSel := 0, lists := [], flushing := false }

end Sys2Proof.Machine
end

