-- ==== Sys2Proof/Machine/StChr.lean ====
section
/-! DEFINITION. State of the charter table, the manager role and the functions' states (chapter 15). -/

namespace Sys2Proof.Machine

/-- States of a function (R670). -/
inductive FnMode where
  | running | quiescing | quiesced | freezing | frozen | restoring
deriving DecidableEq, Repr

/-- The code of a function state (R670). -/
def FnMode.code : FnMode → Nat
  | .running => 0 | .quiescing => 1 | .quiesced => 2 | .freezing => 3 | .frozen => 4 | .restoring => 5

/-- A Charter Commit between its admission and its completion (R662 to R665): the staging copy taken at admission. -/
structure CommitReq where
  cmd : CmdRef
  copy : Memory
deriving DecidableEq, Repr

/-- A state image that is arriving (R682): bytes and the function's state before. -/
structure RestoreImage where
  fn : Nat
  bytes : List Byte
  prior : FnMode
deriving DecidableEq, Repr

/-- What a Quiesce or Freeze waits for (R673, R677). -/
structure FnWait where
  cmd : CmdRef
  freeze : Bool
deriving DecidableEq, Repr

/-- The CHT and VFM units (chapter 15). -/
structure ChrState where
  /-- Staging and active copies, 256 KiB each, entry f at 0x100 × f (R655). -/
  staging : Memory
  active : Memory
  /-- CHT_GENERATION and the generation at which each entry last changed, default 1 (R661, R664). -/
  generation : Nat
  entryGen : Tbl Nat
  /-- Generations and active entries of other stations (R666). -/
  peerGen : Tbl Nat
  peerEntries : Tbl Memory
  /-- CHT_MGR.HELD and SPDM_REQ (R652). -/
  mgrHeld : Bool
  spdmReq : Bool
  /-- The commit in progress, members yet to acknowledge, commits that wait (R664, R665). -/
  commit : Option CommitReq
  commitAcks : List Nat
  commitWait : List CommitReq
  /-- CHT_STATUS, CHT_COMMIT_TIME, CHT_DENY, CHT_FAULT_PC. -/
  refused : Bool
  errFn : Nat
  errCode : Nat
  commitTime : Nat
  denied : Bool
  denyFn : Nat
  denyKind : Nat
  faultFn : Nat
  faultPc : Nat
  /-- CHT_PEER_SEL, CHT_ENTRY_SEL, VFM_SEL. -/
  peerSel : Nat
  entrySel : Nat
  vfmSel : Nat
  /-- Function states, default Running (R670), and the Quiesce and Freeze commands that wait. -/
  fnMode : Tbl FnMode
  fnWait : Tbl FnWait
  /-- Images: charter generation and TD17 time at the Freeze (R679). -/
  freezeGen : Tbl Nat
  freezeStamp : Tbl Nat
  restore : Option RestoreImage
  /-- VFM_UNQ_RESET. -/
  unqCount : Nat
  unqLast : Nat
deriving DecidableEq, Repr

/-- The 256 bytes of entry 0 at Kindling (R661). -/
def pfEntry : List Byte :=
  leBytes 1 0x3F ++ leBytes 1 0x04 ++ leBytes 2 0 ++ leBytes 4 0x3FF ++ leBytes 8 max64 ++ leBytes 2 0xFFFF ++
  leBytes 2 0xFFFF ++ leBytes 4 0 ++ leBytes 8 max64 ++ leBytes 2 0xFFFE ++ leBytes 14 (2 ^ 112 - 1) ++ leBytes 16 0 ++
  leBytes 4 0xFFFFFFFF ++ leBytes 60 0 ++ leBytes 128 0

/-- The charter at Kindling (R661); `spdm` is CHT_MGR.SPDM_REQ from the Light List. -/
def ChrState.kindle (spdm : Bool) : ChrState :=
  { staging := Memory.writeBytes [] 0 pfEntry, active := Memory.writeBytes [] 0 pfEntry, generation := 1, entryGen := [],
    peerGen := [], peerEntries := [], mgrHeld := false, spdmReq := spdm, commit := none, commitAcks := [],
    commitWait := [], refused := false, errFn := 0, errCode := 0, commitTime := 0, denied := false, denyFn := 0,
    denyKind := 0, faultFn := 0, faultPc := 0, peerSel := 0, entrySel := 0, vfmSel := 0, fnMode := [], fnWait := [],
    freezeGen := [], freezeStamp := [], restore := none, unqCount := 0, unqLast := 0 }

end Sys2Proof.Machine
end

