-- ==== Sys2Proof/Machine/StCmp.lean ====
section
/-! DEFINITION. State of the compressors (chapter 11). -/

namespace Sys2Proof.Machine

/-- A job context: the CMP_J words of the PF on a wing, or of a task (R488, R500). -/
structure CmpJob where
  checksum : Bool
  thresh : Nat
  total : Nat
  dst : Nat
  cap : Nat
  src : Nat
  code : Nat
  inBytes : Nat
  outBytes : Nat
  /-- The wing whose compressor holds the job while it is open. -/
  wing : Nat
  /-- Taken at OPEN: threshold, total, checksum, destination and capacity (R484, R488, R501). -/
  limitPct : Nat
  jTotal : Nat
  jCheck : Bool
  jDst : Nat
  jCap : Nat
  /-- Content of the blocks that are closed, oldest first, and of the block in progress (R480, R489). -/
  blocks : List (List Byte)
  cur : List Byte
  /-- Frame bytes released to the destination. -/
  written : Nat
  /-- The frame passed its threshold, or its capacity; its verify failed: pieces are discarded until LAST (R485, R491, R482). -/
  passed : Bool
  tooBig : Bool
deriving DecidableEq, Repr

/-- A context of zeros. -/
def CmpJob.zero : CmpJob :=
  { checksum := false, thresh := 0, total := 0, dst := 0, cap := 0, src := 0, code := 0, inBytes := 0, outBytes := 0, wing := 0,
    limitPct := 0, jTotal := 0, jCheck := false, jDst := 0, jCap := 0, blocks := [], cur := [], written := 0, passed := false, tooBig := false }

/-- A wing's compressor. -/
structure CmpWing where
  progShare : Nat
  threshPct : Nat
  failSeen : Bool
  fails : Nat
  packed : Nat
  raw : Nat
  doneJobs : Nat
  notSmaller : Nat
  /-- Input and released output bytes of the window in progress and its number; CMP_RATE of the last completed window. -/
  inNow : Nat
  outNow : Nat
  window : Nat
  inKib : Nat
  outKib : Nat
deriving DecidableEq, Repr

/-- A compressor at Kindling. -/
def CmpWing.reset : CmpWing :=
  { progShare := 2, threshPct := 97, failSeen := false, fails := 0, packed := 0, raw := 0, doneJobs := 0, notSmaller := 0, inNow := 0,
    outNow := 0, window := 0, inKib := 0, outKib := 0 }

/-- The compressors. Contexts have key wing for the PF and 8 + task key for a task. -/
structure CmpState where
  wings : Tbl CmpWing
  jobs : Tbl CmpJob
deriving DecidableEq, Repr

/-- The compressors at Kindling. -/
def CmpState.reset : CmpState := { wings := [], jobs := [] }

end Sys2Proof.Machine
end

