-- ==== Sys2Proof/Machine/StDisp.lean ====
section
/-! DEFINITION. State of the pilot cores, their tasks and the hardware task dispatchers (chapters 7 and 9). -/

namespace Sys2Proof.Machine

/-- Registers of a Yusil core for the task in its run slot (R326); the fields of st stand apart, every other bit of st is zero. -/
structure YRegs where
  p : Vector Word 16
  pc : Word
  z : Bool
  n : Bool
  c : Bool
  v : Bool
  /-- st.LD, open loops 0-4. -/
  ld : Nat
  /-- st.FAULT. -/
  fault : BitVec 8
  lb : Vector Word 4
  le : Vector Word 4
  lc : Vector Word 4
deriving DecidableEq, Repr

/-- All registers zero. -/
def YRegs.zero : YRegs :=
  { p := Vector.replicate 16 0, pc := 0, z := false, n := false, c := false, v := false, ld := 0, fault := 0,
    lb := Vector.replicate 4 0, le := Vector.replicate 4 0, lc := Vector.replicate 4 0 }

/-- States of a task slot (R416). -/
inductive TaskState where
  | free | ready | staged | running | waiting | stalled | frozen | ending
deriving DecidableEq, Repr

/-- The code of a slot state (R416). -/
def TaskState.code : TaskState → Nat
  | .free => 0 | .ready => 1 | .staged => 2 | .running => 3 | .waiting => 4 | .stalled => 5 | .frozen => 6 | .ending => 7

/-- The two kinds of task (R414, WNG_DSP_TASK_A.KIND). -/
inductive TaskKind where
  | thread | reduce
deriving DecidableEq, Repr

/-- What a reduce task belongs to: launching station, waybill handle, leg number, attempt, queue (R314). -/
structure LegRef where
  station : Nat
  handle : Nat
  leg : Nat
  attempt : Nat
  queue : Nat
deriving DecidableEq, Repr

/-- A task of a wing's task table (R413 to R419) with its hold image (R333) and its door contexts (chapter 6). -/
structure Task where
  incarn : Nat
  fn : Nat
  kind : TaskKind
  progSlot : Nat
  prio : Nat
  affinity : BitVec 32
  state : TaskState
  core : Nat
  flags : BitVec 32
  waitMask : BitVec 32
  waitAll : Bool
  regs : YRegs
  /-- The image it runs (R292, R314). -/
  image : List Byte
  /-- Code hold, 64 KiB, and data hold, 192 KiB (R330). -/
  code : Memory
  data : Memory
  /-- Charter generation taken up at the last dispatch (R305). -/
  gen : Nat
  doorMask : BitVec 32
  /-- Core it last ran on and the pages present there (R337, R338). -/
  lastCore : Option Nat
  lastPages : List Nat
  /-- The Execute Program command of a thread. -/
  cmd : Option CmdRef
  /-- Memory range set and its ranges, offset and length in the SLM namespace (R288). -/
  rset : Nat
  ranges : List (Nat × Nat)
  /-- CTL door: CTL_OUT_POS, CTL_APP_SRC (R299, R300). -/
  outPos : Word
  appSrc : Word
  /-- WAYBILL door: WB_DESC, WB_RESULT (R310, R311). -/
  wbDesc : Word
  wbResult : Word
  /-- COPY door: CP_SRC, CP_DST, CP_DONE (R308). -/
  cpSrc : Word
  cpDst : Word
  cpDone : Word
  /-- POST door: PST_TARGET, PST_RESULT (R438). -/
  pstTarget : Word
  pstResult : Word
  /-- BATCH door: BT_APP_SRC; the leg; the batches held, staging address and length (R331). -/
  btSrc : Word
  leg : Option LegRef
  held : List (Nat × Nat)
  /-- PST_PARENT. -/
  parent : Nat
  /-- Start of the current stretch of running, TD17 ns (R424, CORE_NS of R778). -/
  runStart : Nat
  /-- Wing whose full post queue a Stalled task waits on (R435). -/
  stallWing : Nat
  /-- TD17 time its flags were applied, until its first instruction (WNG_DSP_WAKE_MAX). -/
  wokenAt : Option Nat
deriving DecidableEq, Repr

/-- A page frame of a core's hold store (R334, R335); page 0-15 code, 16-63 data. A data page is its task's; a code page is its program slot's,
`task` being 16,384 + the slot (R336). -/
structure HoldFrame where
  task : Nat
  page : Nat
  modified : Bool
deriving DecidableEq, Repr

/-- A pilot core: run slot, next slot, hold frames most recently used first (R334, R375). -/
structure Core where
  run : Option Nat
  next : Option Nat
  /-- The next slot's state is in the shadow bank (R437). -/
  nextLoaded : Bool
  frames : List HoldFrame
deriving DecidableEq, Repr

/-- A core with nothing in it. -/
def Core.empty : Core := { run := none, next := none, nextLoaded := false, frames := [] }

/-- An entry of a post queue (R432). -/
structure PostEntry where
  key : Nat
  incarn : Nat
  mask : BitVec 32
  cls : Nat
deriving DecidableEq, Repr

/-- One wing's dispatcher (R413 to R445). -/
structure WingDisp where
  /-- Ready lists by priority, holding Ready and Staged tasks in FIFO order (R421); key = priority. -/
  ready : Tbl (List Nat)
  postQ : List PostEntry
  /-- The ledgers of R420. -/
  slotsFree : Nat
  slotsLive : Nat
  pqFree : Nat
  pqUsed : Nat
  /-- WNG_DSP_CTRL.QUANTUM, µs. -/
  quantum : Nat
  /-- WNG_DSP_PQ: FULL_SEEN, HIGH. -/
  fullSeen : Bool
  pqHigh : Nat
  /-- WNG_DSP_STALL.CLASS bits; WNG_DSP_DROP. -/
  stallCls : BitVec 6
  dropped : Bool
  dropCls : Nat
  dropHandle : Nat
  /-- WNG_DSP_QUERY and the latched TASK_A, B, C. -/
  query : Nat
  taskA : Word
  taskB : Word
  taskC : Word
  /-- WNG_DSP_WAKE_MAX, ns; WNG_DSP_AUDIT; WNG_DSP_FN_SEL. -/
  wakeMax : Nat
  auditFail : Bool
  auditPasses : Nat
  fnSel : Nat
deriving DecidableEq, Repr

/-- A dispatcher at Kindling (R444). -/
def WingDisp.reset : WingDisp :=
  { ready := [], postQ := [], slotsFree := 2048, slotsLive := 0, pqFree := 64, pqUsed := 0, quantum := 200,
    fullSeen := false, pqHigh := 0, stallCls := 0, dropped := false, dropCls := 0, dropHandle := 0, query := 0,
    taskA := 0, taskB := 0, taskC := 0, wakeMax := 0, auditFail := false, auditPasses := 0, fnSel := 0 }

/-- Tasks, cores and dispatchers. A task's key is 2,048 × wing + slot (R414). -/
structure DispState where
  tasks : Tbl Task
  /-- Last incarnation of each slot (R415). -/
  incarn : Tbl Nat
  cores : Tbl Core
  wings : Tbl WingDisp
  /-- Pilot-core load of the wings in the last placement window and in the present one, ns (R218). -/
  loadLast : Tbl Nat
  loadNow : Tbl Nat
  /-- TD17 time at which the present window began. -/
  loadMark : Nat
  /-- TD17 times of the last keeper-core fault by wing (R385). -/
  keeperFault : Tbl Nat
deriving DecidableEq, Repr

/-- The dispatchers at Kindling; the incarnations run on (R415). -/
def DispState.reset : DispState :=
  { tasks := [], incarn := [], cores := [], wings := [], loadLast := [], loadNow := [], loadMark := 0, keeperFault := [] }

end Sys2Proof.Machine
end

