-- ==== Sys2Proof/Machine/StDrm.lean ====
section
/-! DEFINITION. State of the DRAM channels (chapter 17). -/

namespace Sys2Proof.Machine

/-- A DRAM device (R759, DRM_DEV): lines with errors by offset and the TD17 time of the last. -/
structure DramDev where
  failed : Bool
  byHost : Bool
  symbols : Nat
  lines : Tbl Nat
deriving DecidableEq, Repr

/-- A device with no error. -/
def DramDev.fresh : DramDev := { failed := false, byHost := false, symbols := 0, lines := [] }

/-- A remapped page (R767, R768). -/
structure DramRemap where
  target : Nat
  bank : Bool
deriving DecidableEq, Repr

/-- A line of the test page: 64 data bytes and 16 check bytes (R771). -/
structure TestLine where
  data : List Byte
  check : List Byte
deriving DecidableEq, Repr

/-- A DRAM channel. -/
structure DramCh where
  uncorrSeen : Bool
  corrSeen : Bool
  devFailedSeen : Bool
  /-- Banks in in-order mode, and times one entered it (R752). -/
  inorder : Bool
  inorderCount : Nat
  trainDone : Bool
  trainFail : Nat
  trainMs : Nat
  /-- Band whose refresh and timing set is in force (R765). -/
  timingBand : Nat
  corr : Nat
  uncorr : Nat
  /-- DRM_ERR_LAST as a word, DRM_ERR_TIME. -/
  errLast : Nat
  errTime : Nat
  devs : Tbl DramDev
  scrubHours : Nat
  scrubPasses : Nat
  /-- Next line of the pass in progress; none between passes (R766). -/
  scrubPos : Option Nat
  rhProb : Bool
  rhThresh : Nat
  targeted : Nat
  probCount : Nat
  rfm : Nat
  /-- DRM_RESERVE; remapped pages; retired banks; reserve pages in use. -/
  left : Nat
  pages : Nat
  banks : Nat
  retireSel : Nat
  remap : Tbl DramRemap
  bankRetired : BitVec 32
  reserveUsed : List Nat
  testEnable : Bool
  testRaw : Bool
  testPattern : Nat
  testLine : Nat
  testCheck : List Byte
  testStatus : Nat
  testPage : Tbl TestLine
  /-- Poisoned lines by offset, and the last (R758). -/
  poison : List Nat
  poisonLast : Nat
  /-- Pages that hold data since Kindling, by their offset before any remap, where the spec says where data lies (R754, R755). -/
  written : List Nat
deriving DecidableEq, Repr

/-- A channel at the start of Kindling. -/
def DramCh.reset : DramCh :=
  { uncorrSeen := false, corrSeen := false, devFailedSeen := false, inorder := false, inorderCount := 0, trainDone := false,
    trainFail := 0, trainMs := 0, timingBand := 1, corr := 0, uncorr := 0, errLast := 0, errTime := 0, devs := [], scrubHours := 24,
    scrubPasses := 0, scrubPos := none, rhProb := true, rhThresh := 2048, targeted := 0, probCount := 0, rfm := 0, left := 251658,
    pages := 0, banks := 0, retireSel := 0, remap := [], bankRetired := 0, reserveUsed := [], testEnable := false,
    testRaw := false, testPattern := 0, testLine := 0, testCheck := List.replicate 16 0, testStatus := 0, testPage := [], poison := [],
    poisonLast := 0, written := [] }

/-- Layout and hash settings of a channel, in force and for the next Kindling (R749 to R751). -/
structure DramCfg where
  grain : Nat
  grainNext : Nat
  hash : List Nat
  hashNext : List Nat
deriving DecidableEq, Repr

/-- The reset masks of DRM_HASH. -/
def hashDefault : List Nat := (List.range 5).map (fun k => 2 ^ (13 + k) + 2 ^ (18 + k) + 2 ^ (23 + k) + 2 ^ (28 + k))

/-- The settings in Dark. -/
def DramCfg.reset : DramCfg := { grain := 12, grainNext := 12, hash := hashDefault, hashNext := hashDefault }

/-- The eight channels. -/
structure DrmState where
  chans : Tbl DramCh
  cfgs : Tbl DramCfg
deriving DecidableEq, Repr

/-- No channel used yet. -/
def DrmState.reset : DrmState := { chans := [], cfgs := [] }

end Sys2Proof.Machine
end

