-- ==== Sys2Proof/Machine/StHost.lean ====
section
/-! DEFINITION. State of the PCI Express and NVMe interface, the outstanding commands and the range-lock table (chapters 12, 13). -/

namespace Sys2Proof.Machine

/-- An NVMe status: status code type, status code, Do Not Retry. -/
structure Status where
  sct : Nat
  sc : Nat
  dnr : Bool
deriving DecidableEq, Repr

/-- A completion entry that was posted, with the data the command returned. -/
structure Completion where
  cmd : CmdRef
  status : Status
  dw0 : Nat
  dw1 : Nat
  data : List Byte
deriving DecidableEq, Repr

/-- A submission queue: size, completion queue, tail written by the host, head fetched up to; `deleting` by R915. -/
structure SubQ where
  size : Nat
  cq : Nat
  prio : Nat
  base : Nat
  tail : Nat
  head : Nat
  deleting : Option CmdRef
deriving DecidableEq, Repr

/-- A completion queue: size, vector, interrupts enabled, head written by the host, tail, phase. -/
structure ComplQ where
  size : Nat
  base : Nat
  vector : Nat
  ien : Bool
  head : Nat
  tail : Nat
  phase : Bool
deriving DecidableEq, Repr

/-- An NVMe controller, one of each function. -/
structure Ctrl where
  /-- CC: EN, CSS, MPS, AMS, SHN, CRIME. -/
  en : Bool
  css : Nat
  mps : Nat
  ams : Nat
  shn : Nat
  crime : Bool
  /-- CSTS: RDY, CFS, SHST. -/
  rdy : Bool
  shst : Nat
  /-- A shutdown notification while Lit has stopped fetching, until the controller is enabled again (R913). -/
  shut : Bool
  /-- AQA, ASQ, ACQ; INTMS mask. -/
  aqa : Nat
  asq : Nat
  acq : Nat
  intms : Nat
  /-- Device power state D3hot (R506). -/
  d3 : Bool
  sqs : Tbl SubQ
  cqs : Tbl ComplQ
  /-- Current values of the features (R531), key feature × 2^16 + selector (sensor or vector); not listed: default. -/
  features : Tbl Nat
  /-- Asynchronous Event Requests held, oldest first; event types masked until their log is read; events waiting. -/
  aers : List CmdRef
  aenMasked : List Nat
  aenPending : List Nat
  /-- Changed namespaces not yet read (0x04), and the Error Information log, newest first. -/
  changedNs : List Nat
  /-- MSI-X table entries, 128 bits each, masked bit included, and the pending bits (R509). -/
  msix : Tbl (BitVec 128)
  pba : Tbl Bool
  /-- I/O queue pairs in effect for this controller (R515, R518). -/
  vqNow : Nat
deriving DecidableEq, Repr

/-- A controller at its reset: CC.EN 0. -/
def Ctrl.reset : Ctrl :=
  { en := false, css := 0, mps := 0, ams := 0, shn := 0, crime := false, rdy := false, shst := 0, shut := false, aqa := 0, asq := 0,
    acq := 0, intms := 0, d3 := false, sqs := [], cqs := [], features := [], aers := [], aenMasked := [], aenPending := [],
    changedNs := [], msix := [], pba := [], vqNow := 0 }

/-- An entry of the Error Information log (R510, R534). -/
structure ErrEntry where
  count : Nat
  fn : Nat
  sqid : Nat
  cid : Nat
  status : Status
  loc : Nat
  lba : Nat
  nsid : Nat
deriving DecidableEq, Repr

/-- An NVM namespace (R523 to R527). -/
structure NsInfo where
  size : Nat
  cap : Nat
  /-- LBA format 0-2, extended metadata, protection type, protection in the first bytes, 64-bit guard (R526). -/
  lbaf : Nat
  extended : Bool
  pit : Nat
  pil : Bool
  guard64 : Bool
  packed : Bool
  /-- More than one controller may be attached (NMIC bit 0). -/
  shared : Bool
deriving DecidableEq, Repr

/-- A part of a locking command (R556): blocks of one range at one owner. -/
inductive PartState where
  | placing | waiting | running | forwarded | done
deriving DecidableEq, Repr

/-- A part: range index, first block, blocks, owner, state, status when failed. -/
structure Part where
  index : Nat
  nsid : Nat
  slba : Nat
  nlb : Nat
  owner : Nat
  state : PartState
  status : Option Status
  /-- Journal records of this part that are still to become durable (R565). -/
  records : Nat
  /-- The part's media work was started. -/
  begun : Bool
  /-- Mirror acknowledgements still awaited (R565). -/
  mirrors : Nat
  /-- Place of its data in the command's: blocks, for a Memory Copy bytes. -/
  off : Nat
deriving DecidableEq, Repr

/-- A command fetched and not completed. -/
structure OutCmd where
  cmd : CmdRef
  sqe : Sqe
  /-- Charter generation bound at the fetch (R667). -/
  gen : Nat
  admin : Bool
  /-- Read kind false, write kind true, for a locking command (R555). -/
  write : Bool
  parts : List Part
  committed : Bool
  /-- Its controller was reset: it runs on without a completion (R588). -/
  silent : Bool
  /-- Held by a Format in progress or by a sanitize (R590). -/
  held : Bool
  data : List Byte
  /-- The SLM sources of a Memory Copy are copied. -/
  copied : Bool
deriving DecidableEq, Repr

/-- An entry of the range-lock table (R559 to R568), in order of admission. -/
structure LockEntry where
  station : Nat
  cmd : CmdRef
  part : Nat
  write : Bool
  nsid : Nat
  slba : Nat
  nlb : Nat
  running : Bool
deriving DecidableEq, Repr

/-- A part forwarded to this owner by another station (R633). -/
structure ForeignPart where
  station : Nat
  cmd : CmdRef
  sqe : Sqe
  gen : Nat
  write : Bool
  part : Part
  admitted : Bool
  /-- A journal record of the part is durable (R580). -/
  committed : Bool
  data : List Byte
deriving DecidableEq, Repr

/-- A progress record of Format or Sanitize (R601). -/
structure ProgressRec where
  kind : Nat
  action : Nat
  phase : Nat
  nsid : Nat
  seq : Nat
  sanseq : Nat
  start : Nat
  doneBlocks : Nat
deriving DecidableEq, Repr

/-- A Format in progress at its receiving station: command, step, members yet to acknowledge (R590). -/
structure FormatOp where
  cmd : CmdRef
  nsid : Nat
  ses : Nat
  lbaf : Nat
  extended : Bool
  pit : Nat
  pil : Bool
  step : Nat
  acks : List Nat
deriving DecidableEq, Repr

/-- A sanitize in progress (R595). -/
structure SanitizeOp where
  action : Nat
  begun : List Nat
  ended : List Nat
  localDone : Bool
deriving DecidableEq, Repr

/-- Life counts of the SMART / Health page (R535), held in MRAM. -/
structure SmartLife where
  dataRead : Nat
  dataWritten : Nat
  hostReads : Nat
  hostWrites : Nat
  busySeconds : Nat
  unsafeShutdowns : Nat
  integrityErrors : Nat
deriving DecidableEq, Repr

/-- The host side of the module. -/
structure HostState where
  ctrls : Tbl Ctrl
  /-- SR-IOV: NumVFs and VF Enable (R508, R511). -/
  numVfs : Nat
  vfEnable : Bool
  /-- PERST# asserted, link up, width, ASPM L1 state (R504 to R508). -/
  perst : Bool
  linkUp : Bool
  linkWidth : Nat
  inL1 : Bool
  /-- Configuration requests answered: the last value (R34). -/
  cfgReady : Bool
  /-- Flexible resources assigned by controller: VQ and VI; the PF's next VQ allocation; Online secondaries (R514 to R516). -/
  vq : Tbl Nat
  vi : Tbl Nat
  pfVqNext : Nat
  /-- Secondary controllers that are Online (R514 to R516). -/
  online : Tbl Bool
  /-- The ledger of R517. -/
  poolFree : Nat
  poolAssigned : Nat
  /-- Completions posted, oldest first, and those a function in D3hot posts on its return to D0 (R506). -/
  completions : List Completion
  deferred : List Completion
  /-- Commands outstanding, in order of fetch. -/
  out : List OutCmd
  /-- The range-lock table and its ledger (R563). -/
  locks : List LockEntry
  lockFree : Nat
  lockHeld : Nat
  fullSeen : Bool
  /-- The queue whose command R564 stalls and the entries it needs: function, queue, need. While it is set FETCH_STALL reads 1. -/
  stallFor : Option (Nat × Nat × Nat)
  /-- Parts of other stations, in order of arrival (R562, R633). -/
  foreign : List ForeignPart
  /-- NVM namespaces 1-1,024, attached controllers by namespace identifier. -/
  namespaces : Tbl NsInfo
  attached : Tbl (List Nat)
  /-- The error log, newest first, and its count (R534). -/
  errors : List ErrEntry
  errorCount : Nat
  /-- SMART life counts of MRAM (R535). -/
  life : SmartLife
  /-- Critical Warning bits now, and SMB_ALERT# asserted (R535, R554). -/
  critWarn : BitVec 8
  smbAlert : Bool
  /-- Host time: SET, OFFSET_MS, rate trim of TD17 in ppm × 1000, host value and TD17 at the last set (R533). -/
  tsSet : Bool
  tsOffset : Int
  tsTrim : Int
  tsHost : Nat
  tsTd17 : Nat
  /-- Progress records: the two slots of MRAM (R601). -/
  prog0 : Option ProgressRec
  prog1 : Option ProgressRec
  /-- A Format or a Sanitize under way (R590, R593). -/
  format : Option FormatOp
  sanitize : Option SanitizeOp
  /-- Sequence of the last sanitize, and its status (R593, R596). -/
  sanSeq : Nat
  sanStatus : Nat
  /-- Namespaces whose admission a Format stops at this station (R590). -/
  stoppedNs : List Nat
  /-- Responses of MI messages, oldest first (R553). -/
  miOut : List (List Byte)
  /-- NVMe-MI configuration: SMBus frequency, MTU and what is pending (R553). -/
  miFreq : Nat
  miMtu : Nat
  miPending : Tbl (List Byte)
  /-- SPDM sessions: identifier, mutual authentication (R548 to R550). -/
  sessions : Tbl Bool
  /-- Sessions whose key exchange is not finished. -/
  shaking : List Nat
  /-- IDE streams keyed (R550). -/
  ideKeys : Tbl Key256
  /-- Certificate chains by slot (R548). -/
  certSlots : Tbl (List Byte)
  /-- The session that unlocked the debug port (R551). -/
  debugBy : Option Nat
  /-- SPDM responses, oldest first (R548). -/
  spdmOut : List (List Byte)
  /-- The telemetry data that the host last had captured: areas 1 to 3 (R536). -/
  telemetry : List Byte
deriving DecidableEq, Repr

/-- Life counts of a new module. -/
def SmartLife.zero : SmartLife :=
  { dataRead := 0, dataWritten := 0, hostReads := 0, hostWrites := 0, busySeconds := 0, unsafeShutdowns := 0, integrityErrors := 0 }

/-- The host side of a module that was never powered. -/
def HostState.reset : HostState :=
  { ctrls := [], numVfs := 0, vfEnable := false, perst := true, linkUp := false, linkWidth := 8, inL1 := false,
    cfgReady := false, vq := [], vi := [], pfVqNext := 0, online := [], poolFree := 8128, poolAssigned := 64,
    completions := [], deferred := [], out := [], locks := [], lockFree := 4096, lockHeld := 0, fullSeen := false, stallFor := none,
    foreign := [], namespaces := [], attached := [], errors := [], errorCount := 0, life := SmartLife.zero, critWarn := 0,
    smbAlert := false, tsSet := false, tsOffset := 0, tsTrim := 0, tsHost := 0, tsTd17 := 0, prog0 := none,
    prog1 := none, format := none, sanitize := none, sanSeq := 0, sanStatus := 0, stoppedNs := [], miOut := [],
    miFreq := 100, miMtu := 64, miPending := [], sessions := [], shaking := [], ideKeys := [], certSlots := [], debugBy := none,
    spdmOut := [], telemetry := [] }

end Sys2Proof.Machine
end

