-- ==== Sys2Proof/Machine/StKin.lean ====
section
/-! DEFINITION. State of Kindling, the image slots, the boot record and the Light List (chapter 20). -/

namespace Sys2Proof.Machine

/-- The boot record (R847). -/
structure BootRec where
  seq : Nat
  active : Nat
  next : Nat
  previous : Nat
  rollPhase : Nat
  rollWing : Nat
deriving DecidableEq, Repr

/-- What MSC_FW_SLOT shows of a slot (R850). -/
structure SlotView where
  pass : Bool
  cause : Nat
  svn : Nat
  version : Nat
deriving DecidableEq, Repr

/-- An empty slot. -/
def SlotView.empty : SlotView := { pass := false, cause := 1, svn := 0, version := 0 }

/-- A Firmware Commit under way (R862): slot, action, image to write, or the roll's place (R863). -/
structure CommitOp where
  cmd : CmdRef
  slot : Nat
  action : Nat
  image : List Byte
  /-- 0 the slot is being written; 1 to 4 the steps of R863. -/
  phase : Nat
  wing : Nat
deriving DecidableEq, Repr

/-- A Light List Write admitted and not complete (R857, R859). -/
structure LlWrite where
  cmd : CmdRef
  data : List Byte
deriving DecidableEq, Repr

/-- A Wing Return under way (R835, R872). -/
structure ReturnOp where
  wing : Nat
  cmd : Option CmdRef
deriving DecidableEq, Repr

/-- Kindling, images and the Light List. -/
structure KinState where
  /-- MSC_KINDLE: steps that are done, UNCLEAN, duration of the last completed Kindling, ms; its start, TD17 ns (R842, R843). -/
  done : List Nat
  unclean : Bool
  lastMs : Nat
  startNs : Nat
  /-- The straps as sampled at step 1 (R879). -/
  straps : Nat
  /-- Image slots 1-4 of the NOR (R841); a slot never written is not listed. -/
  images : Tbl (List Byte)
  slots : Tbl SlotView
  boot : BootRec
  /-- The image the module runs, MSC_FW fields (R849): slot, FALLBACK, STOPPED; the image itself. -/
  running : Nat
  image : List Byte
  fallback : Bool
  stopped : Bool
  /-- Bytes of Firmware Image Download, by offset, and the pieces received: offset and length (R845). -/
  download : Memory
  pieces : List (Nat × Nat)
  /-- The Firmware Commit that runs, and those that wait (R862). -/
  commit : Option CommitOp
  commitWait : List CommitOp
  /-- The version and image of the keeper firmware of each wing during a roll; not listed: the running image (R863, R866). -/
  wingVersion : Tbl Nat
  /-- The two copies of the Light List as stored (R852); none: never written. -/
  copyA : Option (List Byte)
  copyB : Option (List Byte)
  /-- LL_COPY causes of the copies, 0 when valid (R854). -/
  causeA : Nat
  causeB : Nat
  /-- LL_STATUS.ACTIVE, LL_SEQ, LL_TIME, and the records in use: type and body (R855, R856). -/
  llActive : Nat
  llSeq : Nat
  llStamp : Nat
  llRecs : List (Nat × List Byte)
  /-- LL_WRITE fields, LL_PENDING, the writes admitted. -/
  llDone : Bool
  llFail : Bool
  llCause : Nat
  llCopy : Nat
  llPending : Bool
  /-- A Wing Return under way (R835, R872). -/
  returning : Option ReturnOp
  /-- PERST# was asserted, or an NVM Subsystem Reset taken, since Kindling began: fetching stops and Kindling follows (R39). -/
  resetPending : Bool
deriving DecidableEq, Repr

/-- Kindling begins: what MRAM and NOR hold stays (R840, R841). -/
def KinState.kindle (k : KinState) (now straps : Nat) (clean : Bool) : KinState :=
  { k with done := [], unclean := !clean, startNs := now, straps := straps, running := 0, image := [], fallback := false, stopped := false,
           download := [], pieces := [], commit := none, commitWait := [], wingVersion := [], llActive := 3, llSeq := 0, llStamp := 0,
           llRecs := [], llDone := false, llFail := false, llCause := 0, llCopy := 0, llPending := false, returning := none, resetPending := false }

/-- The first 288 bytes of the image in slot 1 as the model has it (R845, R846; log entry 50): header, one tested-set entry, payload. -/
def madeBody : List Byte :=
  ([0x59, 0x46, 0x57, 0x49] : List Byte) ++ leBytes 4 1 ++ ([0x31, 0x2E, 0x30, 0x30, 0x2E, 0x30, 0x30, 0x31] : List Byte) ++
  leBytes 4 0x01000001 ++ leBytes 4 1 ++ leBytes 4 544 ++ leBytes 2 1 ++ leBytes 2 0 ++ leBytes 2 0 ++ leBytes 2 1 ++
  List.replicate 220 0 ++ beBytes 16 0x21210001010001000100010000000000 ++ List.replicate 16 0

/-- The public key of that image. -/
def madePub : List Byte :=
  0x04 :: beBytes 48 0xd9e599410a780cd535a56cbb7ff16c44f56d0e9026632872f3c966d9715bd1a7b232c29dc8d8e00a38258de6a2e5d58d ++
    beBytes 48 0xdc33772651347d9ff034933b84701e7ada340cb8e0da2992877519d0647751c4f3dfd67de245217cf086c02f243ef6e3

/-- The image with its signature trailer (R735). -/
def madeImage : List Byte :=
  madeBody ++ ([0x59, 0x53, 0x49, 0x47, 0, 0, 0, 0] : List Byte) ++ madePub ++ List.replicate 55 0 ++
    beBytes 48 0x4e47a237cc608f03d38bf953c2c25c8cb99de4bbada9288a6b43656520b2559143f1fd344dde210802bbc630315996be ++
    beBytes 48 0xd09ff0c2f9252797b95f0d8a37d833f5d5f66d16e816bfccfbcc11d7e7d7733727fa3bd8fab73ffaad433e78d5916a08

/-- Light List copy A as it leaves manufacture (R852, R912). -/
def madeList : List Byte :=
  ([0x59, 0x4C, 0x4C, 0x54] : List Byte) ++ leBytes 4 1 ++ leBytes 4 64 ++ leBytes 4 0x36069bd9 ++ leBytes 8 1 ++ List.replicate 40 0

/-- A module that left manufacture: image in slot 1, which is ACTIVE (log entry 50); copy A valid, copy B never written (R912). -/
def KinState.reset : KinState :=
  { done := [], unclean := false, lastMs := 0, startNs := 0, straps := 0, images := [(1, madeImage)], slots := [],
    boot := { seq := 1, active := 1, next := 0, previous := 0, rollPhase := 0, rollWing := 0 }, running := 0, image := [],
    fallback := false, stopped := false, download := [], pieces := [], commit := none, commitWait := [], wingVersion := [],
    copyA := some madeList, copyB := none, causeA := 0, causeB := 1, llActive := 3, llSeq := 0, llStamp := 0, llRecs := [],
    llDone := false, llFail := false, llCause := 0, llCopy := 0, llPending := false, returning := none, resetPending := false }

end Sys2Proof.Machine
end

