-- ==== Sys2Proof/Machine/StMode.lean ====
section
/-! DEFINITION. What a module is made as, and its module state (chapters 0, 1, 21 and 22). -/

namespace Sys2Proof.Machine

/-- The four ordering codes (R1). -/
inductive Variant where
  | v200A | v200C | v100A | v100C
deriving DecidableEq, Repr

/-- Module states (01): Dark, Kindling, Lit, Extinguished. -/
inductive Mode where
  | dark | kindling | lit | extinguished
deriving DecidableEq, Repr

/-- Facts of this module that no command changes: ordering code, serial, module identity, straps, hardware set (R1, R521, R553, R861). -/
structure ModuleCfg where
  variant : Variant
  serial : List Byte
  moduleId : Nat
  /-- STN_ID straps (R879). -/
  straps : Nat
  /-- The hardware set identifier of the tested sets (20). -/
  hwSet : List Byte
  madeDate : Nat
deriving DecidableEq, Repr

/-- MSC_STATE (R52) and what belongs to it. -/
structure ModeState where
  mode : Mode
  reason : Nat
  wingOut : BitVec 8
  wingFault : BitVec 8
  /-- MSC_SCRATCH (R907). -/
  scratch : Tbl Word
  /-- MSC_LED.LOCATE (R890). -/
  locate : Nat
deriving DecidableEq, Repr

/-- Pending low halves and latched high halves of unit registers by slot offset (R9, R10, R911). -/
structure RegAccess where
  lowPending : Tbl (BitVec 32)
  highLatch : Tbl (BitVec 32)
deriving DecidableEq, Repr

/-- The module the model describes. DESIGN CHOICE (log entry 90): the spec names four ordering codes (R1) and does not say which one a module is,
nor its serial number and straps; the model takes GL-9100-200-A, twenty zeros as the serial number, and straps 0. -/
def ModuleCfg.made : ModuleCfg :=
  { variant := .v200A, serial := List.replicate 20 0x30, moduleId := 1, straps := 0, hwSet := beBytes 16 0x21210001010001000100010000000000, madeDate := 0 }

/-- The state before any power. -/
def ModeState.reset : ModeState :=
  { mode := .dark, reason := 0, wingOut := 0, wingFault := 0, scratch := [], locate := 0 }

/-- No access pending. -/
def RegAccess.reset : RegAccess := { lowPending := [], highLatch := [] }

end Sys2Proof.Machine
end

