-- ==== Sys2Proof/Machine/StProg.lean ====
section
/-! DEFINITION. State of computational programs, waybills, legs and channel sieves (chapters 5 and 6). -/

namespace Sys2Proof.Machine

/-- A program slot of the compute namespace (R277, R282 to R285). -/
structure ProgSlot where
  /-- Bytes of an image that is arriving, from offset 0. -/
  arriving : List Byte
  /-- The stored image; none while the slot is empty. -/
  image : Option (List Byte)
  activated : Bool
deriving DecidableEq, Repr

/-- An empty slot. -/
def ProgSlot.empty : ProgSlot := { arriving := [], image := none, activated := false }

/-- An Execute Program admitted and waiting for a thread (R294, R417). -/
structure ThreadReq where
  cmd : CmdRef
  prog : Nat
  rset : Nat
  param : List Byte
  /-- The slot's image at admission (R286). -/
  image : List Byte
deriving DecidableEq, Repr

/-- A sieve plan after its checks (R237, R238): micro-ops and constants as 64-bit words. -/
structure Plan where
  framing : Nat
  frames : Bool
  skipZero : Bool
  pfxBe : Bool
  delim : Nat
  reclen : Nat
  queues : Nat
  ops : List Nat
  consts : List Nat
deriving DecidableEq, Repr

/-- A record locator (R246). -/
structure Locator where
  lba : Nat
  off : Nat
  len : Nat
  nsid : Nat
deriving DecidableEq, Repr

/-- The counts of a leg (R271). -/
structure LegSummary where
  grains : Nat
  records : Nat
  emitted : Nat
  malformed : Nat
  shortField : Nat
  unreadable : Nat
  searches : Nat
  multi : Nat
  counts : Tbl Nat
  bytesIn : Nat
  bytesOut : Nat
  firstMalformed : Option Locator
  firstUnreadable : Option Locator
deriving DecidableEq, Repr

/-- No counts. -/
def LegSummary.zero : LegSummary :=
  { grains := 0, records := 0, emitted := 0, malformed := 0, shortField := 0, unreadable := 0, searches := 0, multi := 0,
    counts := [], bytesIn := 0, bytesOut := 0, firstMalformed := none, firstUnreadable := none }

/-- States of a batch buffer of a ring (R266 to R270). -/
inductive BatchState where
  | free | filling | posted | held
deriving DecidableEq, Repr

/-- A batch buffer: its ring (channel and queue), place in the ring, staging offset, header counts (R267). -/
structure Batch where
  channel : Nat
  queue : Nat
  index : Nat
  state : BatchState
  seq : Nat
  entries : Nat
  used : Nat
  /-- Place in posting order (R316). -/
  posted : Nat
deriving DecidableEq, Repr

/-- States of a leg at the station that runs it. -/
inductive LegState where
  | waiting | running | ended
deriving DecidableEq, Repr

/-- A leg at the station that runs it (R212 to R217, R312 to R318). -/
structure RunLeg where
  station : Nat
  handle : Nat
  leg : Nat
  attempt : Nat
  wing : Nat
  /-- Wing whose table and pool hold the leg's tasks and staging (R214, R313). -/
  pool : Nat
  state : LegState
  /-- Plan slot of its sieves while it runs. -/
  slot : Nat
  nsid : Nat
  /-- Bales of the leg in rising order (R212). -/
  bales : List Nat
  /-- First and last grain of the waybill's range. -/
  firstGrain : Nat
  lastGrain : Nat
  plan : Plan
  fn : Nat
  gen : Nat
  progSlot : Nat
  image : List Byte
  doorMask : BitVec 32
  /-- Handle of the launching thread when it runs at this station, else 0. -/
  parent : Nat
  prio : Nat
  flagBatch : Nat
  redEntry : Nat
  descAddr : Nat
  batchBytes : Nat
  depth : Nat
  legOutMax : Nat
  /-- Offset and length of the staging area in the wing's pool (R313). -/
  base : Nat
  size : Nat
  /-- Place in arrival order. -/
  arrival : Nat
  /-- For each channel, the number of (bale, grain) places already passed. -/
  progress : Tbl Nat
  /-- Channels on which the leg's last grain is evaluated. -/
  doneCh : List Nat
  batches : List Batch
  nextSeq : Tbl Nat
  nextPost : Nat
  /-- Leg output (R317): bytes appended, bytes required, truncated. -/
  outBytes : Nat
  outRequired : Nat
  outTrunc : Bool
  /-- Queues whose task wrote BT_END or never started. -/
  ended : List Nat
  summary : LegSummary
deriving DecidableEq, Repr

/-- A leg as its launching station sees it. -/
structure LegEntry where
  leg : Nat
  station : Nat
  wing : Nat
  bales : List Nat
  attempt : Nat
  done : Option Nat
deriving DecidableEq, Repr

/-- A waybill in flight at its launching station (R309 to R325). -/
structure Waybill where
  handle : Nat
  task : Nat
  incarn : Nat
  nsid : Nat
  flagLeg : Nat
  resBase : Nat
  resLen : Nat
  recBase : Nat
  recLen : Nat
  resPos : Nat
  recPos : Nat
  /-- A leg output did not fit (R320). -/
  resFull : Bool
  maxStatus : Nat
  legs : List LegEntry
  cancelled : Bool
  totalOut : Nat
  totalReq : Nat
  summary : LegSummary
  /-- What a leg at another station is told, as of leg 0: its numbers, then its plan and program images (R312, R217). -/
  launch : List Nat × List Byte
deriving DecidableEq, Repr

/-- What this station sends other stations about legs: a leg to run, with its plan and image (R312), a cancel (R323), a leg's output
with its completion record (R319). -/
inductive LegMsg where
  | launch (dest : Nat) (nums : List Nat) (bytes : List Byte)
  | cancel (dest handle leg : Nat)
  | output (dest handle leg attempt : Nat) (record out : List Byte)
deriving DecidableEq, Repr

/-- Programs, range sets, SLM, staging, waybills and legs (chapter 6). -/
structure ProgState where
  slots : Tbl ProgSlot
  /-- Memory range sets 0-255 (R288). -/
  rsets : Tbl (List (Nat × Nat))
  /-- The station's SLM namespace, 8 GiB (R278). -/
  slm : Memory
  /-- Staging pools, key wing × 128 MiB + offset (R313). -/
  staging : Memory
  /-- Execute Programs waiting for a thread, in admission order (R294). -/
  waiting : List ThreadReq
  /-- Waybills at this station by handle, and the next handle (R212). -/
  waybills : Tbl Waybill
  nextHandle : Nat
  /-- Legs that run or wait here, and the number of the next arrival (R217). -/
  legs : List RunLeg
  nextArrival : Nat
  /-- Messages about legs to other stations, oldest first. -/
  outbox : List LegMsg
  /-- Posts of classes 0 and 1 that wait for room in a post queue: handle, mask, class (R435). -/
  backlog : List (Nat × BitVec 32 × Nat)
deriving DecidableEq, Repr

/-- Programs of a module with none loaded. -/
def ProgState.reset : ProgState :=
  { slots := [], rsets := [], slm := [], staging := [], waiting := [], waybills := [], nextHandle := 1, legs := [],
    nextArrival := 0, outbox := [], backlog := [] }

/-- A scan read issued for a leg and not yet evaluated (R261): the clear content of the grain, none when it cannot be
recovered (R234). -/
structure ScanRead where
  station : Nat
  handle : Nat
  leg : Nat
  attempt : Nat
  nsid : Nat
  grain : Nat
  content : Option (List Byte)
deriving DecidableEq, Repr

/-- How far a record's evaluation has come (R239, R259). -/
inductive RecPhase where
  | ready | wantSearch | searching | emitting | ended
deriving DecidableEq, Repr

/-- A record in evaluation (R241). -/
structure RecEval where
  bytes : List Byte
  off : Nat
  grain : Nat
  pc : Nat
  phase : RecPhase
  stack : List Bool
  key : List Byte
  keyAbsent : Bool
  latches : Tbl Nat
  multi : Bool
  out : List Byte
  queue : Nat
  short : Bool
deriving DecidableEq, Repr

/-- One sieve (R228 to R275). -/
structure SivCh where
  malWrapped : Bool
  lastCause : Nat
  malformed : Nat
  /-- Reads issued, oldest first. -/
  reads : List ScanRead
  /-- Records in evaluation, at most 32, in framing order (R259). -/
  recs : List RecEval
  /-- Records of the grain in evaluation that are framed and not yet started: offset and bytes. -/
  framed : List (Nat × List Byte)
  /-- The grain in evaluation met malformed content after its framed records (R256): cause. -/
  badAfter : Option Nat
  /-- A grain is in evaluation. -/
  active : Bool
  /-- Plan slot whose leg was served last (R215). -/
  turn : Nat
  bcnStall : Bool
  outStall : Bool
  postStall : Bool
deriving DecidableEq, Repr

/-- A sieve with nothing in it. -/
def SivCh.reset : SivCh :=
  { malWrapped := false, lastCause := 0, malformed := 0, reads := [], recs := [], framed := [], badAfter := none,
    active := false, turn := 15, bcnStall := false, outStall := false, postStall := false }

end Sys2Proof.Machine
end

