-- ==== Sys2Proof/Machine/StPwr.lean ====
section
/-! DEFINITION. State of the supply, the hold-up store, the sensors and the wings' VCORE (chapter 19). -/

namespace Sys2Proof.Machine

/-- One of the 94 sensors (R823 to R829), temperatures in 0.1 °C. -/
structure Sensor where
  temp : Int
  maxTemp : Int
  /-- A reading has been made since Kindling began. -/
  seen : Bool
  band : Nat
  /-- R825 cause; 0 while not broken. -/
  cause : Nat
  vote : Bool
  /-- The last reading lay at or above the limit (R829). -/
  above : Bool
  /-- Read every 2 ms (R824). -/
  fast : Bool
  /-- TD17 time at which the reading last changed by 0.1 °C, and readings of the last 60 s by time, newest first (R825). -/
  changed : Nat
  hist : List (Nat × Int)
deriving DecidableEq, Repr

/-- A sensor not read since Kindling began. -/
def Sensor.fresh : Sensor :=
  { temp := 0, maxTemp := 0, seen := false, band := 1, cause := 0, vote := false, above := false, fast := false, changed := 0, hist := [] }

/-- A pace monitor of a wing (R831, R833). -/
structure PaceMon where
  pace : Nat
  minPace : Nat
  seen : Bool
  /-- Windows in a row below target at the ceiling, and windows in a row below 75 % of it. -/
  lowRun : Nat
  deepRun : Nat
deriving DecidableEq, Repr

/-- A monitor with no window measured. -/
def PaceMon.fresh : PaceMon := { pace := 0, minPace := 0, seen := false, lowRun := 0, deepRun := 0 }

/-- The supply of a wing's compute part (R832 to R835). -/
structure WingPwr where
  /-- VCORE, mV; 0 when off. -/
  vcore : Nat
  mons : List PaceMon
  /-- Windows in a row in which every monitor read 102 % or more. -/
  goodRun : Nat
  shortSeen : Bool
  shortMon : Nat
  shortEvents : Nat
  /-- A return under way: windows in a row in which every monitor held its target (R835). -/
  holdRun : Nat
deriving DecidableEq, Repr

/-- A wing at bring-up: 0.62 V (R832). -/
def WingPwr.up : WingPwr :=
  { vcore := 620, mons := List.replicate 4 PaceMon.fresh, goodRun := 0, shortSeen := false, shortMon := 0, shortEvents := 0, holdRun := 0 }

/-- A wing without power. -/
def WingPwr.off : WingPwr := { WingPwr.up with vcore := 0 }

/-- Averages of one kind of window (R815), 0.1 W. -/
structure PowerAvg where
  sum : Nat
  count : Nat
  last : Nat
  high : Nat
deriving DecidableEq, Repr

/-- No window yet. -/
def PowerAvg.zero : PowerAvg := { sum := 0, count := 0, last := 0, high := 0 }

/-- The HK unit and the supply. -/
structure PwrState where
  /-- PWR_EN asserted; the main input connected and in range; a flush that ended in Dark requires the 10 ms of R822. -/
  pwrEn : Bool
  mainIn : Bool
  needHold : Bool
  /-- HK_SUPPLY, HK_POWER (R815). -/
  vin : Nat
  iin : Nat
  underSeen : Bool
  overSeen : Bool
  avg10 : PowerAvg
  avg1 : PowerAvg
  /-- HK_HOLDUP (R816 to R820): store voltage, mV; charger at work; check running; this is the second reading; failure; margin
  × 1,000; operating seconds at the last check; a check has passed since Kindling began. -/
  vstore : Nat
  charged : Bool
  checking : Bool
  second : Bool
  fail : Bool
  margin : Nat
  checkedAt : Nat
  passed : Bool
  /-- Margin and time of the last check, held in MRAM (R545, R546). -/
  marginKept : Nat
  checkedKept : Nat
  /-- Sensors, and HK_STATUS, HK_VOTE. -/
  sensors : Tbl Sensor
  /-- HK_STATUS sticky bits and HK_VOTE (R826, R829, R839). -/
  voteSeen : Bool
  brokenSeen : Bool
  voteSensor : Nat
  voteTemp : Int
  voteSeconds : Nat
  /-- Supply of the wings (R831 to R835). -/
  wings : Tbl WingPwr
  /-- HK_FLUSH, held in MRAM (R839); TD17 time at which the flush under way started; grains it saved. -/
  flushTrigger : Nat
  flushLast : Nat
  flushMax : Nat
  flushStart : Nat
  flushSaved : Nat
  /-- A thermal shutdown, or any entry to Extinguished, whose flush has lost main power (R822). -/
  lostMain : Bool
  /-- A flush has run since the last Kindling began (R535). -/
  flushed : Bool
deriving DecidableEq, Repr

/-- HK at the start of Kindling; HK_FLUSH is kept in MRAM (R839). -/
def PwrState.kindle (p : PwrState) : PwrState :=
  { p with needHold := false, vin := 0, iin := 0, underSeen := false, overSeen := false, avg10 := PowerAvg.zero, avg1 := PowerAvg.zero,
           checking := false, second := false, fail := false, margin := 0, checkedAt := 0, passed := false,
           sensors := [], voteSeen := false, brokenSeen := false, voteSensor := 0, voteTemp := 0, voteSeconds := 0,
           wings := (List.range 8).map (fun w => (w, WingPwr.up)), lostMain := false }

/-- A module that left manufacture, without supply. -/
def PwrState.reset : PwrState :=
  { pwrEn := false, mainIn := false, needHold := false, vin := 0, iin := 0, underSeen := false, overSeen := false, avg10 := PowerAvg.zero,
    avg1 := PowerAvg.zero, vstore := 0, charged := false, checking := false, second := false, fail := false, margin := 0, checkedAt := 0,
    passed := false, marginKept := 0, checkedKept := 0, sensors := [], voteSeen := false, brokenSeen := false, voteSensor := 0, voteTemp := 0, voteSeconds := 0,
    wings := [], flushTrigger := 0, flushLast := 0, flushMax := 0, flushStart := 0, flushSaved := 0, lostMain := false, flushed := false }

end Sys2Proof.Machine
end

