-- ==== Sys2Proof/Machine/StMed.lean ====
section
/-! DEFINITION. State of the flash array, the map, the journal, the forecourt and relocation (chapters 2 and 3). -/

namespace Sys2Proof.Machine

/-- The content of a grain: which blocks are written, 16,384 data bytes and 4 × 64 metadata bytes, in clear (R60, R63). `gen`
is the namespace key generation it was encrypted under (R691). -/
structure GrainImg where
  present : Nat
  data : Memory
  md : Memory
  gen : Nat
deriving DecidableEq, Repr

/-- A grain with nothing written. -/
def GrainImg.zero : GrainImg := { present := 0, data := [], md := [], gen := 0 }

/-- The identity of a grain (R62). -/
structure GrainId where
  nsid : Nat
  bale : Nat
  grain : Nat
deriving DecidableEq, Repr

/-- States of a die block (R118). -/
inductive BlkState where
  | free | opened | sealed | pending | retired
deriving DecidableEq, Repr

/-- The code of a die block state (R118). -/
def BlkState.code : BlkState → Nat
  | .free => 0 | .opened => 1 | .sealed => 2 | .pending => 3 | .retired => 4

/-- Roles of a die block (R77 BLOCK_STATE). -/
inductive BlkRole where
  | qlc | forecourt | mapLog
deriving DecidableEq, Repr

/-- The code of a role (R77). -/
def BlkRole.code : BlkRole → Nat
  | .qlc => 0 | .forecourt => 1 | .mapLog => 2

/-- A die block, key 1,024 × die port + die block (R57, R118, R128). -/
structure DieBlock where
  state : BlkState
  role : BlkRole
  erases : Nat
  /-- Band of the package when it was opened (R61, R110). -/
  band : Nat
  /-- Stripe set number plus 1, or 0, and member position (R149). -/
  set : Nat
  pos : Nat
  /-- Next slot to fill, and the slots skipped after a power loss (R139, R150). -/
  next : Nat
  skipped : List Nat
  /-- TD17 time and order of its seal (R96, R126). -/
  sealedAt : Nat
  sealOrder : Nat
  /-- Target die blocks that received its grains (R135). -/
  targets : List Nat
  /-- An erase of it is running. -/
  erasing : Bool
  /-- Planes whose plane block failed and is to be remapped (R140, R143). -/
  failed : List Nat
  /-- A sealed block that R138 holds back until the blocks open at the power loss have sealed. -/
  heldBy : List Nat
deriving DecidableEq, Repr

/-- A die block never used: Free. -/
def DieBlock.fresh : DieBlock :=
  { state := .free, role := .qlc, erases := 0, band := 0, set := 0, pos := 0, next := 0, skipped := [], sealedAt := 0,
    sealOrder := 0, targets := [], erasing := false, failed := [], heldBy := [] }

/-- A map segment as a checkpoint page holds it: key, capture sequence, entries by place (R83, R87). Directory segments have
`dir` set and hold entry words. -/
structure SegCopy where
  dir : Bool
  nsid : Nat
  bale : Nat
  seg : Nat
  cap : Nat
  entries : Tbl Nat
deriving DecidableEq, Repr

/-- A packed grain in a packed page: offset and length in KiB, and the bytes that the compressor took (R104, R106). -/
structure PackedItem where
  id : GrainId
  off : Nat
  len : Nat
  bytes : Nat
  img : GrainImg
deriving DecidableEq, Repr

/-- What a slot adds to the XOR of its stripe row: a grain, a packed page, or nothing but a header (R152). -/
inductive TermBody where
  | raw (id : GrainId) (img : GrainImg)
  | packed (items : List PackedItem)
  | pad
deriving DecidableEq, Repr

/-- A programmed page: header fields and content (R60, R61). The content of a parity page is the XOR of the other slots of its row,
held as the terms that were summed, by member position (R152). A page that a power loss cut short has no readable header (R139). -/
inductive PageBody where
  | raw (id : GrainId) (img : GrainImg)
  | packed (items : List PackedItem)
  | ckpt (segs : List SegCopy)
  | parity (terms : List (Nat × TermBody))
  | pad
  | torn
deriving DecidableEq, Repr

/-- A page, key (4 × die port + plane) × 2^23 + physical plane block × 2^12 + page (R63). -/
structure Page where
  body : PageBody
  band : Nat
  stamp : Nat
deriving DecidableEq, Repr

/-- The part of a command that a grain's write belongs to: station, command, part index. -/
structure PartRef where
  station : Nat
  cmd : CmdRef
  index : Nat
deriving DecidableEq, Repr

/-- Why a grain is relocated (R78, R111, R140, R145, R198). -/
inductive MoveWhy where
  | fold | reclaim | refresh | retire | rebuild | baleMove
deriving DecidableEq, Repr

/-- Who asked for a grain to be programmed. -/
inductive ItemWhy where
  /-- A host write: the parts merged into it and the bits they write (R102, R103). -/
  | host (parts : List PartRef) (bits : Nat)
  /-- A relocation from an entry (R78). -/
  | move (old : Nat) (why : MoveWhy)
  /-- A mirror copy of another station's grain: the owner and the write it belongs to (R190). -/
  | mirror (station tag : Nat)
  /-- A grain received in a move between stations: the source (R200). -/
  | moveIn (station : Nat)
  /-- A parity grain of a segment: segment, index, P or Q (R639). -/
  | parity (seg idx : Nat) (q : Bool)
deriving DecidableEq, Repr

/-- A grain that is to be programmed. -/
structure GrainItem where
  id : GrainId
  img : GrainImg
  why : ItemWhy
deriving DecidableEq, Repr

/-- What a slot of a program unit is to hold. -/
inductive SlotItem where
  | raw (g : GrainItem)
  | packed (gs : List (GrainItem × Nat × Nat))
  | ckpt (segs : List SegCopy)
  | parity
  | pad
deriving DecidableEq, Repr

/-- A program unit: 16 slots in QLC, one slot in one-bit mode (R55, R90; log entry 40). -/
structure ProgUnit where
  port : Nat
  block : Nat
  slot : Nat
  oneBit : Bool
  issued : Bool
  /-- It was with the die when the port got its next unit. -/
  held : Bool
  items : List SlotItem
deriving DecidableEq, Repr

/-- A grain in the write cache that has no slot yet: waiting for the compressor, for the earlier write of its grain, for the read of
the blocks it does not write, or for a die block to place it in, raw or as a frame of some KiB (R102, R103, R105). -/
inductive CacheWait where
  | frame | earlier | read | room | pack (len : Nat)
deriving DecidableEq, Repr

/-- A grain of the write cache without a slot. `over` holds the blocks to overlay and `bits` names them. -/
structure CacheGrain where
  item : GrainItem
  wait : CacheWait
  wing : Nat
  /-- Wing of the compressor that it was sent to (R486). -/
  cmp : Nat
deriving DecidableEq, Repr

/-- What a die read is for. -/
inductive ReadWhy where
  | host (part : PartRef)
  | scan (station handle leg : Nat)
  | reloc (wing : Nat) (why : MoveWhy)
  | rebuild (station tag : Nat)
  | moveOut (nsid bale : Nat)
  /-- The present blocks of a grain that is written in part (R102). -/
  | overlay
deriving DecidableEq, Repr

/-- A die read that is outstanding (R108, R109, R113). `old` is the entry that a relocation is to replace: it differs from the place
read where a committed copy failed and is copied again from its source (R140). -/
structure DieRead where
  id : Nat
  grain : GrainId
  entry : Nat
  old : Nat
  why : ReadWhy
  /-- Other stations were asked for the grain's code (R643). -/
  asked : Bool
deriving DecidableEq, Repr

/-- The payload of a journal record (R77). Entries are words of R63; directory entries words of R70. -/
inductive JBody where
  | mapSet (nsid bale : Nat) (items : List (Nat × Nat))
  | mapMove (nsid bale : Nat) (items : List (Nat × Nat × Nat))
  | mapTrim (nsid bale first count : Nat)
  | blockState (port block : Nat) (role : BlkRole) (old new : BlkState) (erases : Nat)
  | baleDir (entry : Nat)
  | ckptBegin (n : Nat)
  | ckptMark (n start : Nat)
  | planeRemap (port plane block phys : Nat)
deriving DecidableEq, Repr

/-- What proceeds when a record is durable. -/
inductive JAct where
  | nothing
  | parts (l : List PartRef)
  | mirrorAck (station tag : Nat)
  | moveIn (station : Nat)
  | moved (why : MoveWhy)
  | placed (nsid bale : Nat)
  | parityDone (seg idx : Nat)
  /-- A PLANE_REMAP; the plane block that served before it. -/
  | remapped (old : Nat)
deriving DecidableEq, Repr

/-- A journal record (R76). -/
structure JRec where
  seq : Nat
  source : Nat
  body : JBody
  act : JAct
  /-- Power went before the record was whole: its CRC fails (R82). -/
  torn : Bool
deriving DecidableEq, Repr

/-- A relocation at work in a wing: fold, reclaim or a host Retire (R96, R124, R145). -/
structure Reloc where
  source : Nat
  why : MoveWhy
  /-- Grains still to copy. -/
  todo : List GrainId
deriving DecidableEq, Repr

/-- A host Retire of KIND 1 that is under way (R145). -/
structure RetireOp where
  cmd : CmdRef
  block : Nat
  plane : Nat
  /-- 1 relocating, 2 remapping. -/
  stage : Nat
deriving DecidableEq, Repr

/-- A stripe set: role, members by position, and the positions whose member dropped out (R149, R154). -/
structure StripeSet where
  role : BlkRole
  members : List (Option Nat)
  dropped : List Nat
deriving DecidableEq, Repr

/-- An ember flush under way (R161): its step, trigger, and whether it ends in Dark. -/
structure Flush where
  step : Nat
  trigger : Nat
  toDark : Bool
  /-- Drive of FAULT_LED and LOCATE_LED when it began, which both keep (R890). -/
  led : Nat × Nat
  /-- Die ports whose program was started before the flush and has not ended (R161 step 3). -/
  wait : List Nat
deriving DecidableEq, Repr

/-- A bale directory entry (R70): station, wing, state 0-3, and the index of the map block plus 1, 0 for none. -/
structure DirEntry where
  station : Nat
  wing : Nat
  state : Nat
  blockIx : Nat
deriving DecidableEq, Repr

/-- An Empty bale. -/
def DirEntry.empty : DirEntry := { station := 0, wing := 0, state := 0, blockIx := 0 }

/-- The media of the module. -/
structure MedState where
  blocks : Tbl DieBlock
  pages : Tbl Page
  /-- Plane block that serves a die block of a plane: key (4 × die port + plane) × 1,024 + die block (R57). -/
  remap : Tbl Nat
  /-- Spare plane blocks used, key 4 × die port + plane; plane blocks remapped by channel (MED_CH_SPARE). -/
  sparesUsed : Tbl Nat
  remapped : Tbl Nat
  /-- Die ports faulted; times in a row a port was not ready (R147). -/
  faulted : List Nat
  notReady : Tbl Nat
  /-- Stripe sets by number; sets opened so far. -/
  sets : Tbl StripeSet
  /-- Sets opened so far (R149). -/
  nextSet : Nat
  /-- Order of sealing (R96). -/
  sealCount : Nat
  /-- Program units, oldest first (R188). -/
  units : List ProgUnit
  /-- Host grains programmed, with their entries, whose MAP_SET waits for the rest of their parts (R164). -/
  landed : List (GrainItem × Nat)
  /-- Die blocks that are or were relocation sources and still have to reach pending-erase (R135), in order of choice. -/
  sources : List Nat
  /-- Reads of the dies at work, and the number of the next (R108, R109). -/
  reads : List DieRead
  nextRead : Nat
  /-- The write cache: grains that wait for a die block or a buffer (R102, R103). -/
  cache : List CacheGrain
  /-- Open packed page of each wing, key wing, and the one for its relocations, key 8 + wing: grains with offset and length in KiB
  (R97, R106). -/
  packing : Tbl (List (GrainItem × Nat × Nat))
  /-- The map: key (2^32 × NSID + bale) × 4,096 + grain, entries of R63. -/
  map : Tbl Nat
  /-- The bale directory, key 2^32 × NSID + bale (R70). -/
  dir : Tbl DirEntry
  /-- The bale directory as the durable records have it (R83). -/
  dirDur : Tbl DirEntry
  /-- Segments dirty since their last capture: directory or map, NSID, bale, segment. -/
  dirty : List (Bool × Nat × Nat × Nat)
  /-- Journal records from MED_CKPT_SEQ to the head, oldest first; last sequence issued; last durable; replay start (R72, R82). -/
  journal : List JRec
  seq : Nat
  durSeq : Nat
  ckptSeq : Nat
  /-- Checkpoint number and step, 0 idle (R84); sequence of its CKPT_BEGIN. -/
  ckptNum : Nat
  ckptStep : Nat
  ckptBegin : Nat
  /-- Segments that step 2 has still to write, and the map-log die blocks chosen for release (R84). -/
  ckptTodo : List (Bool × Nat × Nat × Nat)
  ckptGone : List Nat
  /-- MED_JRN_STATUS.STALLED and the stall itself (R86). -/
  jrnSticky : Bool
  jrnStall : Bool
  /-- Forecourt mode taken at Kindling: true is compatibility (R91); MED_FC_CTRL fields; blocks, allowance, bypass (R89 to R95). -/
  compat : Bool
  foldStart : Nat
  highWater : Nat
  fcBlocks : Nat
  allowance : Nat
  /-- MED_FC_WEAR.AVG_ERASE (R95). -/
  avgErase : Nat
  /-- MED_FC_STATUS.BYPASS (R89, R90). -/
  bypass : Bool
  /-- Ember reserve block of each die port (R160). -/
  reserve : Tbl Nat
  /-- Relocations at work, by wing: folds and reclaims; a Retire by block. -/
  folds : Tbl Reloc
  /-- Where a wing's fold placed its last grain: bale key and die block (R99). -/
  foldRun : Tbl (Nat × Nat)
  /-- TD17 of the last host write to a wing (R101). -/
  lastWrite : Tbl Nat
  /-- Committed copies whose source still stands: map key, old entry, new entry (R135, R140). -/
  copied : List (Nat × Nat × Nat)
  /-- Reads that suspended the present program or erase of a die port (R114). -/
  suspends : Tbl Nat
  /-- Time that TD17 counted before the last power-up, ns: ages run over it (R126). -/
  epoch : Nat
  /-- Reclaims at work by wing; Retires under way; relocations out of retired blocks and faulted ports by block (R124, R140, R145, R158). -/
  reclaims : Tbl Reloc
  retires : List RetireOp
  retireRelocs : Tbl Reloc
  /-- MSC_RCL_WEIGHT and MSC_RCL_CTRL fields (R126, R130). -/
  rclAref : Nat
  rclWw : Nat
  rclWa : Nat
  rclWv : Nat
  rclUrgent : Nat
  rclStart : Nat
  /-- Grains that no read can recover (R140, R159), keyed as in the map; the blocks that a lost grain without an entry holds, where
  they are known (R65). -/
  lost : List Nat
  lostBits : Tbl Nat
  /-- Bales that something held back from returning to Empty (R68). -/
  emptyWait : List (Nat × Nat)
  /-- Health counters of R170 in the order of R545, held in MRAM; MED_CH_FAIL, key 4 × channel + field (R172). -/
  health : Tbl Nat
  chFail : Tbl Nat
  /-- The ember flush that runs (R161). -/
  flush : Option Flush
  /-- Health values that outlive power with the DRAM and hold-up fields of R545. -/
  dramPagesRet : Nat
  dramBanksRet : Nat
  dramCorr : Nat
  dramUncorr : Nat
  /-- The next Kindling is clean (R843, R913). -/
  clean : Bool
  /-- Ledger counts, key 8 × channel + state code; a channel's Free count that is not listed is TOTAL (R120). -/
  ledger : Tbl Nat
  /-- LEDGER audits: the last that passed (TD17). -/
  lastAudit : Nat
  /-- An audit that waits for BLOCK_STATE records to be durable (R122). -/
  auditDue : Bool
deriving DecidableEq, Repr

/-- The media as manufactured: every die block Free, nothing mapped, the journal empty. -/
def MedState.reset : MedState :=
  { blocks := [], pages := [], remap := [], sparesUsed := [], remapped := [], faulted := [], notReady := [], sets := [], nextSet := 0,
    sealCount := 0, units := [], landed := [], sources := [], reads := [], nextRead := 0, cache := [], packing := [], map := [], dir := [], dirDur := [], dirty := [], journal := [],
    seq := 0, durSeq := 0, ckptSeq := 0, ckptNum := 0, ckptStep := 0, ckptBegin := 0, ckptTodo := [], ckptGone := [], jrnSticky := false, jrnStall := false,
    compat := false, foldStart := 10, highWater := 95, fcBlocks := 0, allowance := 2000, avgErase := 0, bypass := false, reserve := [],
    folds := [], foldRun := [], lastWrite := [], copied := [], suspends := [], epoch := 0, reclaims := [], retires := [], retireRelocs := [], rclAref := 30, rclWw := 16, rclWa := 40, rclWv := 200, rclUrgent := 4,
    rclStart := 12, lost := [], lostBits := [], emptyWait := [], health := [], chFail := [], flush := none, dramPagesRet := 0, dramBanksRet := 0, dramCorr := 0,
    dramUncorr := 0, clean := true, ledger := [], lastAudit := 0, auditDue := false }

end Sys2Proof.Machine
end

