-- ==== Sys2Proof/Machine/StRte.lean ====
section
/-! DEFINITION. State of placement by the Drover, of the caravan and of the route links (chapters 4 and 14). -/

namespace Sys2Proof.Machine

/-- What a message between stations is about; the doc of each kind says what its numbers are. -/
inductive MsgKind where
  /-- NSID, bale: asks the drover lead to place a bale (R183). -/
  | placeRequest
  /-- NSID, bale, owner: the answer to a placement request (R183). -/
  | placeAnswer
  /-- NSID, bale: the owner that was chosen is to choose the wing (R183 step 4). -/
  | placeOwner
  /-- NSID, bale, station, wing, state: a directory entry to record (R183, R186, R200). -/
  | dirEntry
  /-- Code of what is acknowledged, two numbers that name it. -/
  | ack
  /-- NSID, bale, source, destination, reason (R200). -/
  | moveOrder
  /-- NSID, bale; grains (R200 step 4). -/
  | moveGrains
  /-- NSID, bale, 0 all sent 1 durable 2 committed 3 abandoned (R200). -/
  | moveStage
  /-- Load, wear, heat, owned bales, debt, held bytes, rebuild left, moved bytes, exclusion (R176). -/
  | report
  /-- Tag; grains (R190). -/
  | mirror
  /-- Tag (R190). -/
  | mirrorAck
  /-- NSID, bale, grain triples (R191). -/
  | mirrorDrop
  /-- Segment, position, index, 1 for Q, owner; grains hold the contribution (R639). -/
  | parity
  /-- Piece, versions: a piece closed (R636). -/
  | pieceOpen
  | pieceClosed
  /-- Segment, piece, position, P holder, Q holder or 0xFF: a piece is bound (R637, R638). -/
  | pieceBound
  /-- Segment (R637). -/
  | segClosed
  /-- Segment (R640). -/
  | segSealed
  /-- Part index, first block, blocks, function, queue, command identifier (R633). -/
  | part
  /-- Part index, function, queue, command identifier; bytes (R633). -/
  | partData
  /-- Part index, function, queue, command identifier, status code type, status code (R633). -/
  | partStatus
  /-- Generation; bytes of changed entries (R666). -/
  | charter
  /-- NSID, value (R221). -/
  | hint
  /-- Operation code and its numbers: a caravan-wide order (R590, R593, R623, R629). -/
  | order
  /-- The joining station's number, variant, set, members (R624). -/
  | joinRequest
  /-- Membership record: identity, epoch, topology, code, members (R621). -/
  | record
  | heartbeat
  | leave
  /-- Segment, index, who asks and its tag (R643). -/
  | rebuildRead
  /-- Tag; grains (R643). -/
  | rebuildData
  /-- Station, link states (R617). -/
  | linkNews
deriving DecidableEq, Repr

/-- A message to another station. -/
structure StMsg where
  dest : Nat
  kind : MsgKind
  nums : List Nat
  bytes : List Byte
  grains : List (GrainId × GrainImg)
deriving DecidableEq, Repr

/-- The figures of a station's window report, fractions × 65,536 (R176, R225). -/
structure StReport where
  load : Nat
  wear : Nat
  heat : Nat
  owned : Nat
  debt : Nat
  held : Nat
  left : Nat
  moved : Nat
  stamp : Nat
  /-- 0 takes new bales; 1 every wing excluded by URGENT or B4 only; 2 excluded (R180, R181). -/
  excl : Nat
  /-- Bytes moved and written in the last window by bale key (R195). -/
  bales : List (Nat × Nat × Nat)
deriving DecidableEq, Repr

/-- No report. -/
def StReport.zero : StReport :=
  { load := 0, wear := 0, heat := 0, owned := 0, debt := 0, held := 0, left := 0, moved := 0, stamp := 0, excl := 0, bales := [] }

/-- A move of a bale (R198, R200). -/
structure Move where
  nsid : Nat
  bale : Nat
  srcStation : Nat
  srcWing : Nat
  dstStation : Nat
  /-- 0xFF while not chosen. -/
  dstWing : Nat
  reason : Nat
  /-- Step of R198 (within the station) or R200. -/
  step : Nat
  /-- Grains still to relocate or send, grains rewritten after they were sent, passes run. -/
  todo : List Nat
  marked : List Nat
  passes : Nat
  start : Nat
  /-- Admission of the bale is stalled (R198 step 3, R200 step 6). -/
  stalled : Bool
  /-- Grains sent to the destination and not yet durable there (R200 steps 4 to 6). -/
  out : Nat
  /-- The bale's admitted commands have finished and the last marked grains are on their way (R200 step 6). -/
  drained : Bool
  /-- Map block that the destination has allocated, index plus 1, 0 for none (R200 step 3). -/
  block : Nat
deriving DecidableEq, Repr

/-- A placement that the drover lead serves (R183): who asked, the owner chosen, members yet to acknowledge. -/
structure PlaceOp where
  asker : Nat
  nsid : Nat
  bale : Nat
  owner : Nat
  acks : List Nat
deriving DecidableEq, Repr

/-- A write whose mirror is on its way to the partner, or whose bytes are mirror debt (R190, R191). -/
structure MirrorItem where
  tag : Nat
  parts : List PartRef
  grains : List GrainId
  bytes : Nat
  acked : Bool
deriving DecidableEq, Repr

/-- The Drover (chapter 4). -/
structure PlcState where
  /-- MSC_PLC_WEIGHT and MSC_PLC_CTRL fields (R223). -/
  wl : Nat
  ww : Nat
  wh : Nat
  wo : Nat
  wn : Nat
  wp : Nat
  maxActive : Nat
  dwellMin : Nat
  skewPct : Nat
  migrEn : Bool
  /-- Placement hints by namespace (R221). -/
  hints : Tbl Nat
  /-- Load of each wing in the last window × 65,536, as measured; windows in a row of load skew; TD17 since which a flash package is in B4, by
package 8 × wing + number (R195). -/
  load : Tbl Nat
  skewRuns : Tbl Nat
  hotSince : Tbl Nat
  /-- Bytes moved and written in the window, by bale key, now and in the last window; bytes by wing in the last window. -/
  bytesNow : Tbl Nat
  bytesLast : Tbl Nat
  wingBytes : Tbl Nat
  /-- The last report of each station (R176). -/
  reports : Tbl StReport
  /-- Placement requests waiting at the drover lead in arrival order, and the one being served (R183). -/
  requests : List (Nat × Nat × Nat)
  serving : Option PlaceOp
  moves : List Move
  /-- TD17 time of the last move of a bale (R196). -/
  movedAt : Tbl Nat
  movedBytes : Nat
  /-- Mirrors: partner plus 1, items in flight or in debt, DEBT_STALL, mirrors held for owners (R189 to R193). -/
  partner : Nat
  mirrors : List MirrorItem
  /-- Tag of the next mirror. -/
  nextTag : Nat
  debtStall : Bool
  held : Tbl (List (GrainId × GrainImg))
  /-- MSC_PLC_STATUS.RECONCILE (R210). -/
  reconcile : Bool
  /-- Bales of an absent station that this station took over and that are not yet rebuilt, with that station (R207, R644). -/
  rebuilding : List (Nat × Nat × Nat)
  /-- Grains of such bales that are rebuilt or written anew, by bale key. -/
  rebuilt : Tbl (List Nat)
  /-- Members that joined and are still being filled (R195). -/
  newMembers : BitVec 64
  /-- Legs completed since Kindling by wing (R225). -/
  legsDone : Tbl Nat
deriving DecidableEq, Repr

/-- The Drover at Kindling. -/
def PlcState.reset : PlcState :=
  { wl := 128, ww := 32, wh := 64, wo := 96, wn := 64, wp := 64, maxActive := 4, dwellMin := 60, skewPct := 25, migrEn := true,
    hints := [], load := [], skewRuns := [], hotSince := [], bytesNow := [], bytesLast := [], wingBytes := [], reports := [],
    requests := [], serving := none, moves := [], movedAt := [], movedBytes := 0, partner := 0, mirrors := [], nextTag := 1,
    debtStall := false, held := [], reconcile := false, rebuilding := [], rebuilt := [], newMembers := 0, legsDone := [] }

/-- A flit (R607), payload padded to 232 bytes by the sender; `mac` stands for bytes 7 and 248 to 251, which are zero. -/
structure Flit where
  kind : Nat
  flags : Nat
  len : Nat
  src : Nat
  dst : Nat
  hops : Nat
  seq : Nat
  ack : Nat
  crd : Nat
  msgId : Nat
  payload : List Byte
deriving DecidableEq, Repr

/-- States of a route link (RTE_LK_STATUS.STATE). -/
inductive LinkSt where
  | down | training | up | failed | refused | unused
deriving DecidableEq, Repr

/-- The code of a link state. -/
def LinkSt.code : LinkSt → Nat
  | .down => 0 | .training => 1 | .up => 2 | .failed => 3 | .refused => 4 | .unused => 5

/-- A route link (R604 to R615, R888). -/
structure Link where
  state : LinkSt
  refuse : Nat
  peer : Nat
  peerLink : Nat
  version : Nat
  downs : Nat
  /-- TD17 times of its last Downs (R610). -/
  downTimes : List Nat
  lock : Nat
  /-- LINK_SB reads low (R888). -/
  sideband : Bool
  /-- Sequence of the last flit sent and of the last received good; flits kept for replay (R609). -/
  txSeq : Nat
  rxSeq : Nat
  replay : List Flit
  /-- A replay was asked for; replays in a row from one sequence, and that sequence (R610). -/
  nakSent : Bool
  stuck : Nat
  stuckSeq : Nat
  /-- Flits received since the last acknowledgement. -/
  unacked : Nat
  /-- Credits held and occupancy by 2 × channel + class; only used credits are listed (R614). -/
  used : Tbl Nat
  occ : Tbl Nat
  uncorr : Nat
  crcDrop : Nat
  lenDrop : Nat
  replays : Nat
  flits : Nat
  /-- Flits that wait for a credit of the next station, oldest first, with 2 × channel + class of the buffer of the link they came in by,
  plus 8 × that link (R614). -/
  queue : List (Nat × Flit)
deriving DecidableEq, Repr

/-- A link at Kindling. -/
def Link.reset : Link :=
  { state := .down, refuse := 0, peer := 0xFF, peerLink := 0, version := 0, downs := 0, downTimes := [], lock := 0, sideband := false,
    txSeq := 0, rxSeq := 0, replay := [], nakSent := false, stuck := 0, stuckSeq := 0, unacked := 0, used := [], occ := [],
    uncorr := 0, crcDrop := 0, lenDrop := 0, replays := 0, flits := 0, queue := [] }

/-- The caravan record of MRAM (R621). -/
structure CarRecord where
  id : Nat
  epoch : Nat
  topo : Nat
  code : Nat
  members : BitVec 64
  /-- Group of each member. -/
  groups : Tbl Nat
  station : Nat
deriving DecidableEq, Repr

/-- A lone module's record. -/
def CarRecord.lone : CarRecord := { id := 0, epoch := 0, topo := 0, code := 0, members := 0, groups := [], station := 0 }

/-- A change of membership that a station carries through the members (R623 to R629): its command, 0 Form 1 Join 3 Dissolve, 0 the check
1 the records 2 the sets, the record to write, the station a Join takes in, and the causes found so far: station and code. -/
structure CarOp where
  cmd : Option CmdRef
  kind : Nat
  phase : Nat
  record : CarRecord
  joiner : Nat
  found : List (Nat × Nat)
deriving DecidableEq, Repr

/-- A route table entry (R617). -/
structure Route where
  reach : Bool
  hops : Nat
  first : Nat
deriving DecidableEq, Repr

/-- No route. -/
def Route.none : Route := { reach := false, hops := 0, first := 0 }

/-- A piece of this owner (R636): versions in commit order with the entry each was committed at. -/
structure Piece where
  id : Nat
  group : Nat
  versions : List (GrainId × GrainImg × Nat)
  opened : Nat
  closed : Bool
  /-- Segment plus 1 and position; P holder and Q holder plus 1 (R637, R638). -/
  seg : Nat
  pos : Nat
  pHolder : Nat
  qHolder : Nat
  /-- Versions whose contributions were sent. -/
  sent : Nat
  sealed : Bool
  recoding : Bool
  /-- First piece after those that hold the grains entered anew (R642). -/
  recodeTo : Nat
deriving DecidableEq, Repr

/-- A segment as the drover lead knows it (R637): owner and piece by position. -/
structure Segment where
  group : Nat
  pieces : List (Nat × Nat)
  holders : List Nat
  opened : Nat
  closed : Bool
  /-- Pieces closed and parity parts journaled so far. -/
  piecesDone : List Nat
  holdersDone : List Nat
  sealed : Bool
  /-- Versions of the closed pieces, and those still current, by position (R639, R642). -/
  lens : Tbl Nat
  current : Tbl Nat
  /-- The segment is being recoded; positions whose grains are sealed anew (R642). -/
  recoding : Bool
  recoded : List Nat
deriving DecidableEq, Repr

/-- Parity of one grain index that this holder accumulates (R639): positions that contributed, the sum, journaled. -/
structure ParityGrain where
  seg : Nat
  idx : Nat
  q : Bool
  got : List Nat
  sum : GrainImg
  /-- It has gone to the media; its record is durable, and its entry. -/
  placed : Bool
  programmed : Bool
  entry : Nat
deriving DecidableEq, Repr

/-- What a command waits for at the members: an order's code, two numbers that name it, the command, members yet to acknowledge. -/
structure AckWait where
  code : Nat
  a : Nat
  b : Nat
  cmd : Option CmdRef
  left : List Nat
  /-- Members that answered with a result other than 0, and the results. -/
  fails : List (Nat × Nat)
deriving DecidableEq, Repr

/-- A message whose flits arrive (R634): source, channel, message number, bytes so far. -/
structure Partial where
  src : Nat
  vc : Nat
  msgId : Nat
  bytes : List Byte
deriving DecidableEq, Repr

/-- The caravan and the route links. -/
structure RteState where
  /-- RTE_STATION: number, from the Light List, straps as sampled (R619). -/
  station : Nat
  overridden : Bool
  straps : Nat
  /-- The caravan record of MRAM (R621). -/
  record : CarRecord
  /-- The record's station differs from the present one (R620). -/
  mismatched : Bool
  /-- Station states by R649, not listed: 0. -/
  states : Tbl Nat
  /-- TD17 time of the last heartbeat of each station (R649). -/
  lastSeen : Tbl Nat
  /-- Firmware sets of the stations, and variants of those that said HELLO (R611, R649). -/
  fwSets : Tbl Nat
  variants : Tbl Nat
  /-- RTE_ABSENT (R630). -/
  absent : BitVec 64
  /-- RTE_STATUS.PARTITION (R631). -/
  partition : Bool
  /-- TD17 time at which the caravan resumed service (R632). -/
  resumedAt : Option Nat
  /-- RTE_STATUS: the last refusal of R626. -/
  refuseSeen : Bool
  refuseStn : Nat
  refuseCode : Nat
  /-- RTE_CFG (R642, R644, R651). -/
  recodePct : Nat
  rebuildGbps : Nat
  /-- The four route links (R604 to R615). -/
  links : Tbl Link
  /-- Up links of every station, bit l (R617). -/
  linkMap : Tbl Nat
  /-- RTE_STN: the route table (R617). -/
  routes : Tbl Route
  /-- Messages to other stations, oldest first (R633, R634). -/
  outbox : List StMsg
  /-- Messages whose flits are arriving (R634). -/
  partials : List Partial
  /-- Messages received whole, oldest first: their bytes. -/
  inbox : List (Nat × Nat × List Byte)
  /-- Owners whose route changed while parts sent to them were not acknowledged, and what is held for them since (R562). -/
  rerouted : List Nat
  heldMsgs : List StMsg
  /-- Pieces of this owner that are open or whose segment lives, and the number of the next (R636). -/
  pieces : List Piece
  nextPiece : Nat
  /-- Segments that this drover lead has bound, by number, and the number of the next (R637). -/
  segments : Tbl Segment
  nextSeg : Nat
  /-- Parity that this holder accumulates or holds (R639). -/
  parity : List ParityGrain
  /-- Positions and versions of the pieces of a closed segment, as a parity holder was told them. -/
  segPieces : Tbl (List (Nat × Nat))
  /-- Answers of members that commands and orders wait for (R623, R666). -/
  waits : List AckWait
  /-- A Leave under way: the command and the station that leaves (R627). -/
  leaving : Option (CmdRef × Nat)
  /-- A Join that this lone station has asked for (R624). -/
  joining : Option CmdRef
  /-- A Form or Dissolve that runs at this station, or the Join that this drover lead serves. -/
  forming : Option CarOp
deriving DecidableEq, Repr

/-- A lone module that never had power. -/
def RteState.reset : RteState :=
  { station := 0, overridden := false, straps := 0, record := CarRecord.lone, mismatched := false, states := [], lastSeen := [],
    fwSets := [], variants := [], absent := 0, partition := false, resumedAt := none, refuseSeen := false, refuseStn := 0xFF, refuseCode := 0,
    recodePct := 50, rebuildGbps := 2, links := [], linkMap := [], routes := [], outbox := [], partials := [], inbox := [],
    rerouted := [], heldMsgs := [], pieces := [], nextPiece := 1, segments := [], nextSeg := 1, parity := [], segPieces := [], waits := [], leaving := none,
    joining := none, forming := none }

end Sys2Proof.Machine
end

