-- ==== Sys2Proof/Config.lean ====
section
/-! DEFINITION. What the spec leaves open: constants without a body, of which nothing can be proved. -/

namespace Sys2Proof

/-- The n-th free 64-bit value: one value for each value that the spec leaves open, numbered by `State.free` (log entry 3). -/
opaque Config.freeValue : Nat → BitVec 64

/-- The n-th draw of 256 random bits (R695). -/
opaque Config.random256 : Nat → BitVec 256

/-- The root key of the module as it left manufacture (R689). -/
opaque Config.rootKey : BitVec 256

/-- The content of a Compressed block that the compressor makes of a block, after the blocks before it (R477 to R479). -/
opaque Config.zstdBlock : List Byte → List Byte → List Byte

/-- The content of a Compressed block of RFC 8878, after the bytes of its frame before it; none when the block is corrupt (R258). -/
opaque Config.zstdUnblock : List Byte → List Byte → Option (List Byte)

/-- The power of the field's generator that is the first root of the code over DRAM lines (R756), which is not stated. -/
opaque Config.rsRoot : Nat

/-- The device identity chain of certificate slot 0, and the boot ROM (R548, R549): their content is not given. -/
opaque Config.deviceChain : List Byte
opaque Config.bootRom : List Byte

/-- What the requester sends to finish a key exchange is good, by session number; a certificate chain ends in the fused service root
(R548, R551): the keys that decide are not given. -/
opaque Config.finishGood : Nat → List Byte → Bool
opaque Config.serviceChain : List Byte → Bool

/-- The place of a bale's entry in the bale directory, and the header of a segment on a checkpoint page: neither is given (R60, R70). -/
opaque Config.dirIndex : Nat → Nat → Nat
opaque Config.segHeader : Bool → Nat → Nat → Nat → Nat → List Byte

/-- The LDPC parity of a page: its data, spare content and header (R60): the code is not given. -/
opaque Config.ldpc : List Byte → List Byte

end Sys2Proof
end

