-- ==== Sys2Proof/Machine/StSec.lean ====
section
/-! DEFINITION. State of the root key, the key slots, the seal engine and the digest engine (chapter 16). -/

namespace Sys2Proof.Machine

/-- A copy of the wrapped root-key blob in MRAM (R689, R733): it holds a key, an erased marker, or is damaged. -/
inductive RootBlob where
  | good (key : BitVec 256)
  | erased
  | damaged
deriving DecidableEq, Repr

/-- Kinds of load of a key slot (R700). -/
inductive KeyKind where
  | derive | unwrap | clear
deriving DecidableEq, Repr

/-- The code of a kind (KEY_SLOT.KIND). -/
def KeyKind.code : KeyKind → Nat
  | .derive => 0 | .unwrap => 1 | .clear => 2

/-- A loaded key slot (R699 to R704): key as 32 bytes, fixed field, epoch of its load, encryptions since. -/
structure KeySlot where
  key : List Byte
  kind : KeyKind
  fixed : Nat
  epoch : Nat
  used : Nat
  /-- Label and generation of a DERIVE load. -/
  label : List Byte
  gen : Nat
deriving DecidableEq, Repr

/-- Who holds an engine: function, task handle (0 for the PF), context key (0 for the PF, task key + 1), and TD17 time of the
claim (R709). -/
structure EngOwner where
  fn : Nat
  handle : Nat
  ctx : Nat
  since : Nat
deriving DecidableEq, Repr

/-- What a requester that does not own an engine sees in its STATUS (R710, R712). -/
inductive EngView where
  | notOwner | busy | lost
deriving DecidableEq, Repr

/-- A seal operation in progress (R713 to R720): stream bytes taken, output bytes written at the destination. -/
structure SealOp where
  mode : Nat
  dir : Nat
  slot : Nat
  key : List Byte
  iv : List Byte
  tag : List Byte
  len : Nat
  aadLen : Nat
  dst : Nat
  stream : List Byte
  /-- The declared length was passed in a mode that discards the excess (R717). -/
  trunc : Bool
  out : Nat
deriving DecidableEq, Repr

/-- The seal engine's words and its operation. -/
structure SealState where
  owner : Option EngOwner
  views : Tbl EngView
  slot : Nat
  mode : Nat
  dir : Nat
  len : Nat
  aadLen : Nat
  /-- SEAL_IV and SEAL_TAG as 16 bytes each. -/
  iv : List Byte
  tag : List Byte
  src : Nat
  dst : Nat
  /-- The owner's view of SEAL_STATUS, and SEAL_OUT. -/
  code : Nat
  trunc : Bool
  short : Bool
  badPad : Bool
  inBytes : Nat
  out : Nat
  op : Option SealOp
  brokenFn : Nat
  brokenTask : Nat
  holdMax : Nat
  counts : Tbl Nat
  /-- Bytes processed since the last whole MiB (SEAL_COUNT 1). -/
  partBytes : Nat
deriving DecidableEq, Repr

/-- Sixteen zero bytes. -/
def zero16 : List Byte := List.replicate 16 0

/-- The seal engine at Kindling. -/
def SealState.reset : SealState :=
  { owner := none, views := [], slot := 0, mode := 0, dir := 0, len := 0, aadLen := 0, iv := zero16, tag := zero16, src := 0, dst := 0,
    code := 0, trunc := false, short := false, badPad := false, inBytes := 0, out := 0, op := none, brokenFn := 0, brokenTask := 0,
    holdMax := 0, counts := [], partBytes := 0 }

/-- An open digest computation (R722 to R726): algorithm, HMAC slot, chaining state words, partial block, message bytes taken. -/
structure DigCtx where
  alg : Nat
  keyed : Bool
  slot : Nat
  state : List Nat
  part : List Byte
  /-- Bytes compressed into the state or held in the partial block, the HMAC key block included. -/
  fed : Nat
  bytes : Nat
  declared : Nat
  trunc : Bool
deriving DecidableEq, Repr

/-- The digest engine's words. -/
structure DigState where
  owner : Option EngOwner
  views : Tbl EngView
  slot : Nat
  keyed : Bool
  alg : Nat
  declared : Nat
  lastBytes : Nat
  ctxAddr : Nat
  result : List Byte
  code : Nat
  trunc : Bool
  short : Bool
  bytes : Nat
  ctx : Option DigCtx
  brokenFn : Nat
  brokenTask : Nat
  counts : Tbl Nat
deriving DecidableEq, Repr

/-- The digest engine at Kindling. -/
def DigState.reset : DigState :=
  { owner := none, views := [], slot := 0, keyed := false, alg := 0, declared := max64, lastBytes := 0, ctxAddr := 0,
    result := List.replicate 64 0, code := 0, trunc := false, short := false, bytes := 0, ctx := none, brokenFn := 0, brokenTask := 0,
    counts := [] }

/-- Keys and engines. -/
structure SecState where
  /-- Both copies of the root-key blob in MRAM, and the root key unwrapped in the hub (R689). -/
  blobA : RootBlob
  blobB : RootBlob
  root : Option (List Byte)
  /-- The load epoch, and the generations of namespaces and function wrap keys, default 1 (R692, R703), in MRAM. -/
  epoch : Nat
  nsGen : Tbl Nat
  fnGen : Tbl Nat
  /-- Namespace keys are derived into the XTS engines; false after an alarm (R731). -/
  xts : Bool
  /-- Key slots 0 to 63 (R699). -/
  slots : Tbl KeySlot
  /-- The ledger of R702. -/
  free : Nat
  loaded : Nat
  /-- KEY_DATA 0-4 and KEY_STATUS.CODE. -/
  data : List Nat
  code : Nat
  /-- A new root key was made at this Kindling (R734). -/
  newRoot : Bool
  /-- KEY_STATUS: causes of the alarm (R730). -/
  alarm : Nat
  /-- Fuses: security version, revoked public keys, SHA-384 of the four public keys (R736, R738). -/
  svn : Nat
  revoked : Nat
  keyHash : List (List Byte)
  /-- The seal engine and the digest engine (R709, R722). -/
  sealEng : SealState
  dig : DigState
deriving DecidableEq, Repr

/-- Keys at the start of Kindling: slots are empty; what MRAM and fuses hold stays (R699). -/
def SecState.kindle (s : SecState) : SecState :=
  { s with root := none, xts := false, slots := [], free := 64, loaded := 0, data := List.replicate 5 0, code := 0, newRoot := false,
           alarm := 0, sealEng := SealState.reset, dig := DigState.reset }

/-- Keys of a module that left manufacture: good blobs of a root key that no one knows, generations at 1, no fuse blown but the hash
of one public key (log entry 50). -/
def SecState.reset : SecState :=
  { blobA := .good Config.rootKey, blobB := .good Config.rootKey, root := none, epoch := 0, nsGen := [], fnGen := [], xts := false,
    slots := [], free := 64, loaded := 0, data := List.replicate 5 0, code := 0, newRoot := false, alarm := 0, svn := 0, revoked := 0,
    keyHash := [beBytes 48 0x5c8a312b89c2105f85dcd516bf5f129dc5da142be3f9c32712975b281bbb22985e2f764a33ee802cfacce9508e34c79c,
                List.replicate 48 0, List.replicate 48 0, List.replicate 48 0],
    sealEng := SealState.reset, dig := DigState.reset }

end Sys2Proof.Machine
end

