-- ==== Sys2Proof/Machine/State.lean ====
section
/-! DEFINITION. The state of the module, its faults and refusals, and the state after reset. -/

namespace Sys2Proof.Machine

/-- The whole state of a GL-9100 and the queue of commands that wait. -/
structure State where
  /-- Commands waiting, first in, first out. -/
  pending : List Instr
  cfg : ModuleCfg
  /-- TD17 time, ns (R17). -/
  td17 : Nat
  mode : ModeState
  regs : RegAccess
  cnt : CntState
  evt : EvtState
  log : LogState
  disp : DispState
  prog : ProgState
  siv : Tbl SivCh
  bcn : BcnState
  chr : ChrState
  host : HostState
  med : MedState
  plc : PlcState
  rte : RteState
  pwr : PwrState
  kin : KinState
  sec : SecState
  drm : DrmState
  cmp : CmpState
  /-- The model's own: how many free values have been taken. -/
  free : Nat
deriving DecidableEq, Repr

/-- Why the model stops. No command of the table does. -/
inductive Fault where
  /-- Raised by nothing: every event of the table has an effect the spec gives. Safe. -/
  | never
deriving DecidableEq, Repr

/-- Why the model gives no meaning. -/
inductive Refusal where
  /-- A command without a meaning, by its mnemonic. Safe. -/
  | notModelled (mnemonic : String)
deriving DecidableEq, Repr

/-- The module as it left manufacture, without power. -/
def State.reset : State :=
  { pending := [], cfg := ModuleCfg.made, td17 := 0, mode := ModeState.reset, regs := RegAccess.reset, cnt := CntState.reset,
    evt := EvtState.reset, log := LogState.reset, disp := DispState.reset, prog := ProgState.reset, siv := [], bcn := BcnState.reset,
    chr := ChrState.kindle false, host := HostState.reset, med := MedState.reset, plc := PlcState.reset,
    rte := RteState.reset, pwr := PwrState.reset, kin := KinState.reset, sec := SecState.reset, drm := DrmState.reset,
    cmp := CmpState.reset, free := 0 }

end Sys2Proof.Machine
end

