-- ==== Sys2Proof/Machine/Views.lean ====
section
/-! DEFINITION. What other units read of the state: lookups and derived figures that change nothing. -/

namespace Sys2Proof.Machine

/-- The controller of a function. -/
def getCtrl (s : State) (fn : Nat) : Ctrl := Tbl.get Ctrl.reset s.host.ctrls fn

/-- One wing's dispatcher. -/
def getWing (s : State) (w : Nat) : WingDisp := Tbl.get WingDisp.reset s.disp.wings w

/-- EVT_SRC fields (R810). -/
def evtSrc (s : State) (i : Nat) : Word := Tbl.get 0 s.evt.src i

/-- The task under a key. -/
def getTask (s : State) (key : Nat) : Option Task := Tbl.find s.disp.tasks key

/-- A pilot core. -/
def getCore (s : State) (k : Nat) : Core := Tbl.get Core.empty s.disp.cores k

/-- A task's handle (R414). -/
def handleOf (key : Nat) (t : Task) : Nat := t.incarn * 2 ^ 16 + key

/-- The wing whose dispatcher serves a wing's task table (R439). -/
def servingWing (s : State) (w : Nat) : Nat := if s.mode.wingOut.getLsbD w then w ^^^ 1 else w

/-- The state of a function (R670). -/
def fnMode (s : State) (f : Nat) : FnMode := Tbl.get .running s.chr.fnMode f

/-- The module is a -200 (R1, R55). -/
def is200 (s : State) : Bool := decide (s.cfg.variant = .v200A ∨ s.cfg.variant = .v200C)

/-- Die blocks of a die, spare plane blocks of a plane, forecourt die blocks of a die in native mode (R55, R92). -/
def dieBlocks (s : State) : Nat := if is200 s then 1024 else 512
def sparesPerPlane (s : State) : Nat := if is200 s then 56 else 28
def nativeFc (s : State) : Nat := if is200 s then 31 else 15

/-- Wing and channel of a die port (R11). -/
def portChannel (p : Nat) : Nat := p / 8
def portWing (p : Nat) : Nat := p / 128

/-- The key of a die block, and its port. -/
def blkKey (port block : Nat) : Nat := 1024 * port + block
def blkPort (bk : Nat) : Nat := bk / 1024

/-- A die block. -/
def getBlk (s : State) (bk : Nat) : DieBlock := Tbl.get DieBlock.fresh s.med.blocks bk

/-- The port is in service. -/
def portOk (s : State) (p : Nat) : Bool := !s.med.faulted.contains p

/-- Die block totals of a channel (R120). -/
def chTotal (s : State) : Nat := 8 * dieBlocks s

/-- A count of the ledger (R120). -/
def ledgerOf (s : State) (ch code : Nat) : Nat := Tbl.get (if code = 0 then chTotal s else 0) s.med.ledger (8 * ch + code)

/-- Bytes of a record: header and payload in units of 16 (R76, R77). -/
def jrnSize (b : JBody) : Nat :=
  match b with
  | .mapSet _ _ items => 32 + 16 * ((items.length + 1) / 2)
  | .mapMove _ _ items => 32 + 16 * items.length
  | .mapTrim _ _ _ _ => 32
  | .blockState _ _ _ _ _ _ => 32
  | .baleDir _ => 32
  | .ckptBegin _ => 32
  | .ckptMark _ _ => 32
  | .planeRemap _ _ _ _ => 32

/-- Bytes of the live journal. -/
def liveBytes (s : State) : Nat := (s.med.journal.map (fun r => jrnSize r.body)).sum

/-- Forecourt die blocks open or sealed (FC_USED). -/
def fcUsed (s : State) : Nat :=
  (s.med.blocks.filter (fun e => e.2.role = .forecourt ∧ (e.2.state = .opened ∨ e.2.state = .sealed))).length

/-- Forecourt die blocks at present (R92). -/
def fcBlocks (s : State) : Nat := if s.med.compat then s.med.fcBlocks else nativeFc s * 1024

/-- Occupancy, %. -/
def occPct (s : State) : Nat := if fcBlocks s = 0 then 100 else fcUsed s * 100 / fcBlocks s

/-- The grain items of a slot. -/
def slotGrains (i : SlotItem) : List GrainItem :=
  match i with
  | .raw g => [g]
  | .packed gs => gs.map (·.1)
  | _ => []

/-- Grains that a wing holds in its write cache, those of open packed pages and of units among them (MED_WG_CACHE). -/
def cacheGrains (s : State) (w : Nat) : Nat :=
  (s.med.cache.filter (fun c => c.wing = w)).length + (Tbl.get [] s.med.packing w).length + (Tbl.get [] s.med.packing (8 + w)).length +
    ((s.med.units.filter (fun u => portWing u.port = w)).map (fun u => (u.items.flatMap slotGrains).length)).sum

/-- This station's number (R619). -/
def ownStation (s : State) : Nat := s.rte.station

/-- Controller identifier of a function (R513). -/
def cntlid (s : State) (fn : Nat) : Nat := 1024 * ownStation s + fn

/-- The module is a member of a caravan (R621). -/
def inCaravan (s : State) : Bool := decide (s.rte.record.members ≠ 0)

/-- Member stations of the caravan record, this one for a lone module. -/
def members (s : State) : List Nat :=
  if inCaravan s then (List.range 64).filter (fun i => s.rte.record.members.getLsbD i) else [ownStation s]

/-- State of a station as log page 0xCB gives it (R649). -/
def stationState (s : State) (i : Nat) : Nat := Tbl.get 0 s.rte.states i

/-- Members that are Lit, this station among them while it is Lit; one that has announced its leave is Lit still (R181). -/
def litStations (s : State) : List Nat :=
  if inCaravan s then (members s).filter (fun i => i = ownStation s ∨ stationState s i = 1 ∨ stationState s i = 3) else [ownStation s]

/-- Lit members; 1 for a lone module. -/
def litMembers (s : State) : Nat := (litStations s).length

/-- The drover lead: the lowest Lit member (R173). -/
def droverLead (s : State) : Nat := (litStations s).headD (ownStation s)

/-- The other Lit members. -/
def otherLit (s : State) : List Nat := (litStations s).filter (· ≠ ownStation s)

/-- Fields of a Yusil image's header (R280). -/
def imgField (img : List Byte) (off n : Nat) : Nat := leNat ((img.drop off).take n)
def imgCodeLen (img : List Byte) : Nat := imgField img 8 4
def imgDataLen (img : List Byte) : Nat := imgField img 12 4
def imgBssLen (img : List Byte) : Nat := imgField img 16 4
def imgStackLen (img : List Byte) : Nat := imgField img 20 4
def imgEntry (img : List Byte) : Nat := imgField img 24 4
def imgParamOff (img : List Byte) : Nat := imgField img 28 4
def imgDoorMask (img : List Byte) : Nat := imgField img 32 4
def imgLen (img : List Byte) : Nat := imgField img 40 8
def imgCrc (img : List Byte) : Nat := imgField img 48 4

/-- Fields of a firmware image's header (R845). -/
def imgRevision (img : List Byte) : List Byte := (img.drop 8).take 8
def imgVersion (img : List Byte) : Nat := imgField img 16 4
def imgSetId (img : List Byte) : Nat := imgField img 20 4
def imgTested (img : List Byte) : Nat := imgField img 28 2
def imgCohab (img : List Byte) : Nat := imgField img 30 2
def imgPeers (img : List Byte) : Nat := imgField img 32 2
def imgLayouts (img : List Byte) : Nat := imgField img 34 2

/-- Header fields of a copy. -/
def llLength (c : List Byte) : Nat := imgField c 8 4
def llSeqOf (c : List Byte) : Nat := imgField c 16 8
def llStampOf (c : List Byte) : Nat := imgField c 24 8

/-- Fields of a micro-op (R238). -/
def opCode (w : Nat) : Nat := bitsOf w 63 58
def opSgn (w : Nat) : Bool := bitOf w 57
def opBe (w : Nat) : Bool := bitOf w 56
def opOff (w : Nat) : Nat := bitsOf w 55 44
def opLen (w : Nat) : Nat := bitsOf w 43 32 + 1
def opArg (w : Nat) : Nat := w % 2 ^ 32

/-- The beacon tables a plan names (R249, R250). -/
def planTables (p : Plan) : List Nat := (p.ops.filter (fun w => opCode w = 0x19)).map (fun w => opArg w % 16)

/-- A table of the array. -/
def bcnTable (s : State) (t : Nat) : BcnTable := Tbl.get BcnTable.reset s.bcn.tables t

/-- Width in bits of a width code (R447, R476). -/
def bcnBits (code : Nat) : Nat := if code = 1 then 40 else if code = 2 then 80 else 160

/-- Lanes of a row (R448). -/
def bcnLanes (code : Nat) : Nat := 160 / bcnBits code

/-- The banks of a table in rising order. -/
def bankList (m : BitVec 16) : List Nat := (List.range 16).filter (fun b => m.getLsbD b)

/-- Running legs at this station whose plan names a table (R250). -/
def legsNaming (s : State) (t : Nat) : Nat :=
  (s.prog.legs.filter (fun l => l.state = .running && (planTables l.plan).contains t)).length

/-- The context of a requester: 0 the PF, key + 1 a task (R474). -/
def bcnCtx (s : State) (q : Nat) : BcnCtx := Tbl.get BcnCtx.zero s.bcn.ctxs q

/-- A word of a beacon context (R476). -/
def bcnWord (c : BcnCtx) (off : Nat) : Nat :=
  match off with
  | 0x00 => c.sTable
  | 0x08 => c.sKey0.toNat
  | 0x10 => c.sKey1.toNat
  | 0x18 => c.sKey2.toNat
  | 0x28 => c.sResult.toNat
  | 0x100 => c.uTable * 2 ^ 60 + c.uIndex
  | 0x108 => c.uKey0.toNat
  | 0x110 => c.uKey1.toNat
  | 0x118 => c.uKey2.toNat
  | 0x120 => c.uMask0.toNat
  | 0x128 => c.uMask1.toNat
  | 0x130 => c.uMask2.toNat
  | 0x138 => c.uRes.toNat
  | 0x148 => c.uStatus.toNat
  | _ => 0

/-- The key of a slot. -/
def keySlot (s : State) (n : Nat) : Option KeySlot := Tbl.find s.sec.slots n

/-- A seal operation or an open digest computation uses the slot (R706). -/
def slotInUse (s : State) (n : Nat) : Bool :=
  (match s.sec.sealEng.op with | some o => decide (o.slot = n) | none => false) ||
  (match s.sec.dig.ctx with | some c => c.keyed && decide (c.slot = n) | none => false)

/-- The slot is exhausted (R704). -/
def slotExhausted (k : KeySlot) : Bool := decide (2 ^ 32 ≤ k.used)

/-- The requester owns the engine. -/
def ownsSeal (s : State) (ctx : Nat) : Bool := match s.sec.sealEng.owner with | some o => decide (o.ctx = ctx) | none => false

/-- The code in a requester's view of SEAL_STATUS (R710). -/
def sealCode (s : State) (ctx : Nat) : Nat :=
  if ownsSeal s ctx then s.sec.sealEng.code
  else match Tbl.find s.sec.sealEng.views ctx with
    | some .lost => 0xCB
    | some .busy => 0xC3
    | _ => if s.sec.sealEng.owner.isSome then 0x05 else 0x00

/-- The requester owns the digest engine. -/
def ownsDig (s : State) (ctx : Nat) : Bool := match s.sec.dig.owner with | some o => decide (o.ctx = ctx) | none => false

/-- The code in a requester's view of DIG_STATUS. -/
def digCode (s : State) (ctx : Nat) : Nat :=
  if ownsDig s ctx then s.sec.dig.code
  else match Tbl.find s.sec.dig.views ctx with
    | some .lost => 0xCB
    | some .busy => 0xC3
    | _ => if s.sec.dig.owner.isSome then 0x05 else s.sec.dig.code

/-- The registers of a wing's compressor. -/
def getCmp (s : State) (w : Nat) : CmpWing := Tbl.get CmpWing.reset s.cmp.wings w
def setCmp (w : Nat) (c : CmpWing) (s : State) : State :=
  { s with cmp := { s.cmp with wings := Tbl.put CmpWing.reset s.cmp.wings w c } }

/-- The rate registers brought to the present 1 ms window of TD17 (CMP_RATE). -/
def cmpRoll (now : Nat) (c : CmpWing) : CmpWing :=
  let w := now / 1000000
  if w = c.window then c
  else { c with window := w, inNow := 0, outNow := 0, inKib := if w = c.window + 1 then c.inNow / 1024 else 0,
                outKib := if w = c.window + 1 then c.outNow / 1024 else 0 }

/-- The job context of the PF on a wing, or of a task. -/
def jobKey (ctx w : Nat) : Nat := if ctx = 0 then w else 8 + (ctx - 1)
def getJob (s : State) (k : Nat) : CmpJob := Tbl.get CmpJob.zero s.cmp.jobs k
def setJob (k : Nat) (j : CmpJob) (s : State) : State :=
  { s with cmp := { s.cmp with jobs := Tbl.put CmpJob.zero s.cmp.jobs k j } }

/-- Open jobs of a compressor (CMP_STATUS.OPEN_JOBS). -/
def openJobs (s : State) (w : Nat) : Nat := (s.cmp.jobs.filter (fun e => e.2.code = 1 ∧ e.2.wing = w)).length

/-- The oldest sequence of the circulating area, 0 when it is empty. -/
def logOldest (s : State) : Nat :=
  ((s.log.slots.filter (fun e => 2048 ≤ e.1)).map (fun e => e.2.seq)).foldl (fun a x => if a = 0 ∨ x < a then x else a) 0

/-- A byte of the Light List record of a type in use, or its default (R853). -/
def llByte (s : State) (t i d : Nat) : Nat :=
  match s.kin.llRecs.find? (fun r => r.1 = t) with
  | some r => (listGet 0 r.2 i).toNat
  | none => d

/-- Region of a sensor (R823). -/
def sensorRegion (n : Nat) : Nat :=
  if n < 16 then n / 2 else if n < 80 then (n - 16) / 8 else if n < 88 then n - 80 else 8 + (n - 88) / 2

/-- Limit of a sensor, °C (R823). -/
def sensorLimit (s : State) (n : Nat) : Nat :=
  if n < 16 then llByte s 5 1 110
  else if n < 80 then llByte s 5 0 95
  else if n < 88 then llByte s 5 2 95
  else if n < 90 then llByte s 5 3 (if s.cfg.variant = .v200A ∨ s.cfg.variant = .v100A then 75 else 55)
  else if n < 92 then 85 else 125

/-- A sensor. -/
def getSensor (s : State) (n : Nat) : Sensor := Tbl.get Sensor.fresh s.pwr.sensors n

/-- Votes that a region holds. -/
def regionVotes (s : State) (r : Nat) : Nat := ((List.range 94).filter (fun m => sensorRegion m = r ∧ (getSensor s m).vote)).length

/-- VCORE ceiling of a wing, mV: by the higher band of its two junction sensors (R832). -/
def ceilingOf (s : State) (w : Nat) : Nat :=
  let b := max (getSensor s (2 * w)).band (getSensor s (2 * w + 1)).band
  if b ≤ 1 then 880 else if b = 2 then 860 else if b = 3 then 840 else 820

/-- The power state of a wing. -/
def wingPwr (s : State) (w : Nat) : WingPwr := Tbl.get WingPwr.off s.pwr.wings w
def setWingPwr (w : Nat) (p : WingPwr) (s : State) : State :=
  { s with pwr := { s.pwr with wings := Tbl.put WingPwr.off s.pwr.wings w p } }

/-- A firmware roll is under way (MSC_FW.ROLLING). -/
def rollActive (s : State) : Bool := match s.kin.commit with | some c => decide (c.action = 3) | none => false

/-- A channel of DRAM. -/
def getDram (s : State) (w : Nat) : DramCh := Tbl.get DramCh.reset s.drm.chans w

/-- Replaces a channel. -/
def setDram (w : Nat) (c : DramCh) (s : State) : State := { s with drm := { s.drm with chans := Tbl.put DramCh.reset s.drm.chans w c } }

/-- The 4 KiB pages that a run of bytes touches. -/
def runPages (off n : Nat) : List Nat := if n = 0 then [] else (List.range ((off + n - 1) / 4096 - off / 4096 + 1)).map (fun i => off / 4096 + i)

/-- The first write to a page sets its valid bit (R754). -/
def writePage (w p : Nat) (s : State) : State :=
  let c := getDram s w
  if c.written.contains p then s else setDram w { c with written := c.written ++ [p] } s

/-- A write of `n` bytes at an offset of a channel. -/
def touchRun (w off n : Nat) (s : State) : State := (runPages off n).foldl (fun s p => writePage w p s) s

/-- The valid bits of the pages that pass a test are cleared (R755). -/
def clearPages (w : Nat) (gone : Nat → Bool) (s : State) : State :=
  let c := getDram s w
  if c.written.any gone then setDram w { c with written := c.written.filter (fun p => !gone p) } s else s

/-- The channel offset of a map block, by its index plus 1 (R69, R70, R747). -/
def mapBlockAddr (ix : Nat) : Nat := 2 ^ 32 + 24576 * (ix - 1)

/-- Devices of a subchannel that are marked failed. -/
def failedDevs (c : DramCh) (sub : Nat) : List Nat := ((List.range 5).map (fun i => 5 * sub + i)).filter (fun d => (Tbl.get DramDev.fresh c.devs d).failed)

/-- Mirror debt, bytes (R191). -/
def mirrorDebt (s : State) : Nat := ((s.plc.mirrors.filter (fun m => m.acked && m.parts.isEmpty)).map (·.bytes)).sum

/-- The wing's dispatcher serves the table of the other wing of its pair (R439). -/
def servingOther (s : State) (w : Nat) : Bool := s.mode.wingOut.getLsbD (w ^^^ 1) && !s.mode.wingOut.getLsbD w

/-- TotalVFs (R511). -/
def totalVfs (s : State) : Nat := if ownStation s = 63 then 1007 else 1023
/-- The valid progress record with the higher sequence. -/
def progLast (s : State) : Option ProgressRec :=
  match s.host.prog0, s.host.prog1 with
  | some a, some b => if a.seq < b.seq then some b else some a
  | some a, none => some a
  | none, b => b

/-- A bank brought to the present 1 ms window of TD17 (BCN_BANK_RATE). -/
def bankRoll (now : Nat) (b : BcnBank) : BcnBank :=
  let w := now / 1000000
  if w = b.window then b
  else
    let next := decide (w = b.window + 1)
    { b with window := w, sieve := 0, program := 0, update := 0, sieveLast := if next then b.sieve else 0,
             programLast := if next then b.program else 0, updateLast := if next then b.update else 0 }

/-- A subchannel of a channel is in erasure mode (R759). -/
def erasure (c : DramCh) (sub : Nat) : Bool := !(failedDevs c sub).isEmpty

/-- Drive of FAULT_LED (0 off, 1 blinking, 2 steady) and of LOCATE_LED outside a flush (R890). -/
def ledDrive (s : State) : Nat × Nat :=
  let sick := decide (s.mode.wingFault ≠ 0) || (List.range 94).any (fun n => decide ((getSensor s n).cause ≠ 0)) ||
    (List.range 8).any (fun w => erasure (getDram s w) 0 || erasure (getDram s w) 1) || s.host.critWarn.getLsbD 0
  (match s.mode.mode with | .extinguished => 2 | .lit => b2n sick | _ => 0,
   if s.mode.mode = .dark then 0 else if s.mode.locate = 1 then 2 else if s.mode.mode = .kindling then 1 else 0)

/-- Drive of the two LEDs (R890). -/
def leds (s : State) : Nat × Nat := match s.med.flush with | some f => f.led | none => ledDrive s

/-- In-service die ports of a wing. -/
def wingPorts (s : State) (w : Nat) : List Nat := ((List.range 128).map (fun i => 128 * w + i)).filter (portOk s)

/-- Die blocks of a die that serve as QLC data blocks. -/
def qlcPerDie (s : State) : Nat := if s.med.compat then dieBlocks s else dieBlocks s - nativeFc s

/-- Free QLC data die blocks of a wing. -/
def freeQlc (s : State) (w : Nat) : Nat :=
  (wingPorts s w).length * qlcPerDie s -
    (s.med.blocks.filter (fun e => portWing (blkPort e.1) = w ∧ portOk s (blkPort e.1) ∧ e.2.state ≠ .free ∧
      (s.med.compat ∨ nativeFc s ≤ e.1 % 1024))).length

/-- The wing's free blocks lie below a level per die port (R130, R131, R180). -/
def belowLevel (s : State) (w level : Nat) : Bool := decide (freeQlc s w < level * (wingPorts s w).length)

end Sys2Proof.Machine
end

