-- ==== Sys2Proof/Machine/RegView.lean ====
section
/-! DEFINITION. Unit registers as they read (chapter 22): each register of a unit by its offset in PF BAR0. A read here has no
side effect. -/

namespace Sys2Proof.Machine

/-- MSC_STATE as a word (R52). -/
def mscState (s : State) : Nat :=
  s.mode.wingFault.toNat * 2 ^ 24 + s.mode.wingOut.toNat * 2 ^ 16 + s.mode.reason * 2 ^ 8 +
    (match s.mode.mode with | .dark => 0 | .kindling => 1 | .lit => 2 | .extinguished => 3)

/-- The PF reaches its BAR0: the module has power, the link is up and the PF is in D0 (R506, R508). -/
def pfReach (s : State) : Bool :=
  decide (s.mode.mode ≠ .dark) && s.host.linkUp && !(Tbl.get Ctrl.reset s.host.ctrls 0).d3

/-- The PF's writes to ordinary unit registers take effect (R905). -/
def pfWrites (s : State) : Bool := pfReach s && decide (s.mode.mode ≠ .extinguished)

/-- A word of its fields: value, lowest bit, width. -/
def pack (fs : List (Nat × Nat × Nat)) : Nat := (fs.map (fun f => (f.1 % 2 ^ f.2.2) * 2 ^ f.2.1)).sum

/-- A field that Kindling step `n` sets reads 0 until the step is done (R904). -/
def kinAt (s : State) (n v : Nat) : Nat := if s.mode.mode = .kindling ∧ ¬ s.kin.done.contains n then 0 else v

/-- A set of numbers as bits. -/
def bitSet (l : List Nat) : Nat := l.foldl (fun a i => Nat.lor a (2 ^ i)) 0

/-- A signed number of `n` bits. -/
def twos (n : Nat) (v : Int) : Nat := (BitVec.ofInt n v).toNat

/-! MSC (R907). -/

/-- The Kindling step in progress: the lowest that is not done (R842). -/
def kindleStep (s : State) : Nat :=
  if s.mode.mode = .kindling then ((List.range 10).find? (fun n => n ≠ 0 ∧ ¬ s.kin.done.contains n)).getD 9 else 0

/-- Progress of Format or Sanitize over 65,536 (R598, MSC_PROGRESS). -/
def progFraction (s : State) (p : ProgressRec) : Nat :=
  if p.phase = 1 then
    let total := if p.kind = 1 then (s.med.dir.filter (fun e => e.1 / 2 ^ 32 = p.nsid)).length else 1024 * dieBlocks s
    min 65535 (p.doneBlocks * 65536 / max total 1)
  else if p.phase = 0 then 0 else 65535

/-- MSC_PROGRESS. -/
def mscProgress (s : State) : Nat :=
  match progLast s with
  | none => 0
  | some p =>
    if p.phase = 0 then 0
    else pack [(if p.kind = 1 then 1 else if p.action = 4 then 3 else 2, 60, 4), (p.phase, 58, 2), (progFraction s p, 32, 16), (p.nsid, 0, 32)]

/-- Moves in progress with this station as source. -/
def movesOut (s : State) : Nat := (s.plc.moves.filter (fun m => m.srcStation = ownStation s)).length

/-- MSC_FW. -/
def mscFw (s : State) : Nat :=
  let b := s.kin.boot
  let rolling := rollActive s
  let wing := match s.kin.commit with | some c => if c.action = 3 then c.wing else 0 | none => 0
  pack [(kinAt s 2 (imgSetId s.kin.image), 32, 32), (kinAt s 2 (b2n s.kin.fallback), 31, 1), (b2n rolling, 30, 1), (b2n s.kin.stopped, 29, 1),
    (wing, 24, 3), (kinAt s 2 s.kin.running, 16, 3), (kinAt s 2 b.next, 8, 3), (kinAt s 2 b.previous, 4, 3), (kinAt s 2 b.active, 0, 3)]

/-- The VERSION being rolled in, 0 for none. -/
def fwNew (s : State) : Nat :=
  match s.kin.commit with
  | some c => if c.action = 3 then imgVersion c.image else 0
  | none => 0

/-- Base offset and register count of unit u (R899, R908). -/
def unitRow (u : Nat) : Nat × Nat :=
  listGet (0, 0) [(0x100000, 48), (0x200000, 16), (0x300000, 1104), (0x400000, 4816), (0x500000, 12), (0x600000, 134), (0x700000, 16),
    (0x800000, 24), (0x810000, 20), (0x820000, 72), (0x900000, 112), (0xA00000, 384), (0xB00000, 544), (0xB80000, 256), (0xC00000, 256),
    (0xD00000, 96), (0xE00000, 120), (0xF00000, 32)] u

/-- The unit that holds an offset of PF BAR0. -/
def unitOf (off : Nat) : Option Nat :=
  if off < 0x100000 ∨ 0x1000000 ≤ off then none
  else some (((List.range 18).filter (fun u => (unitRow u).1 ≤ off)).getLastD 0)

/-- Die density in Tbit, and the Subsystem ID, by variant (R1, R502). -/
def dieTbit (s : State) : Nat := if is200 s then 2 else 1
def subsysId (s : State) : Nat := match s.cfg.variant with | .v200A => 0x0200 | .v200C => 0x0201 | .v100A => 0x0100 | .v100C => 0x0101

/-- MSC registers. -/
def readMsc (s : State) (o : Nat) : Nat :=
  if o = 0x00 then mscState s
  else if o = 0x08 then pack [(kindleStep s, 60, 4), (b2n s.kin.unclean, 59, 1), (s.kin.lastMs, 0, 32)]
  else if o = 0x10 then mscFw s
  else if o = 0x18 then pack [(fwNew s, 32, 32), (kinAt s 2 (imgVersion s.kin.image), 0, 32)]
  else if 0x20 ≤ o ∧ o < 0x40 then
    let v := Tbl.get SlotView.empty s.kin.slots (1 + (o - 0x20) / 8)
    kinAt s 2 (pack [(b2n v.pass, 63, 1), (v.cause, 56, 3), (v.svn, 32, 8), (v.version, 0, 32)])
  else if o = 0x40 then kinAt s 3 (pack [(s.med.rclAref, 32, 16), (s.med.rclWw, 16, 8), (s.med.rclWa, 8, 8), (s.med.rclWv, 0, 8)])
  else if o = 0x48 then
    let urgent := (List.range 8).filter (fun w => belowLevel s w s.med.rclUrgent)
    pack [(bitSet (Tbl.keys s.med.reclaims), 24, 8), (bitSet urgent, 16, 8), (s.med.rclUrgent, 8, 8), (s.med.rclStart, 0, 8)]
  else if o = 0x50 then
    pack [(s.plc.wp, 40, 8), (s.plc.wn, 32, 8), (s.plc.wo, 24, 8), (s.plc.wh, 16, 8), (s.plc.ww, 8, 8), (s.plc.wl, 0, 8)]
  else if o = 0x58 then pack [(s.plc.maxActive, 24, 8), (s.plc.dwellMin, 16, 8), (s.plc.skewPct, 8, 8), (b2n s.plc.migrEn, 0, 1)]
  else if o = 0x60 then
    pack [(droverLead s, 58, 6), (movesOut s, 44, 8), (b2n s.plc.debtStall, 43, 1), (b2n (!s.plc.rebuilding.isEmpty), 42, 1),
      (b2n s.plc.reconcile, 41, 1), (b2n (decide (droverLead s = ownStation s)), 40, 1), (mirrorDebt s / 1024, 0, 40)]
  else if o = 0x68 then
    let waiting := (s.host.foreign.filter (fun f => !f.admitted)).length
    pack [(b2n s.host.fullSeen, 63, 1), (b2n s.host.stallFor.isSome, 62, 1), (min 65535 waiting, 32, 16), (s.host.lockHeld, 16, 13), (s.host.lockFree, 0, 13)]
  else if o = 0x70 then kinAt s 7 (mscProgress s)
  else if o = 0x78 then pack [((leds s).1, 2, 2), (s.mode.locate, 0, 1)]
  else if o = 0x80 then
    pack [(0x9100, 48, 16), (0x21, 40, 8), (subsysId s, 16, 16), (b2n (decide (s.cfg.variant = .v200C ∨ s.cfg.variant = .v100C)), 4, 1), (dieTbit s, 0, 4)]
  else if 0x88 ≤ o ∧ o < 0xA0 then kinAt s 1 (leNat ((s.cfg.serial.drop (o - 0x88)).take 8))
  else if o = 0xA0 then s.td17 % 2 ^ 64
  else if o = 0xA8 then pack [(b2n s.host.tsSet, 63, 1), (twos 63 s.host.tsOffset, 0, 63)]
  else if 0xB0 ≤ o ∧ o < 0xF0 then (Tbl.get 0 s.mode.scratch ((o - 0xB0) / 8)).toNat
  else if 0xF0 ≤ o ∧ o < 0x180 then
    let u := (o - 0xF0) / 8
    pack [((unitRow u).1, 32, 32), ((unitRow u).2, 16, 16), (u, 0, 5)]
  else 0

/-! CHT and VFM (chapter 15). -/

/-- Entries of the staging copy that differ from the active copy. -/
def stageDiff (s : State) : Nat :=
  let part := fun (m : Memory) (f : Nat) => m.filter (fun c => c.1 / 256 = f)
  ((List.range 1024).filter (fun f => decide (part s.chr.staging f ≠ part s.chr.active f))).length

/-- The charter generation that this station holds for a station (CHT_PEER_GEN). -/
def peerGen (s : State) (i : Nat) : Nat := if i = ownStation s then s.chr.generation else Tbl.get 0 s.chr.peerGen i

/-- CHT registers. -/
def readCht (s : State) (o : Nat) : Nat :=
  let c := s.chr
  if o = 0x00 then c.generation
  else if o = 0x08 then pack [(b2n c.mgrHeld, 31, 1), (kinAt s 3 (b2n c.spdmReq), 2, 1)]
  else if o = 0x10 then pack [(b2n c.commit.isSome, 63, 1), (b2n c.refused, 62, 1), (c.errFn, 32, 10), (c.errCode, 0, 8)]
  else if o = 0x18 then c.commitTime
  else if o = 0x28 then pack [(totalVfs s + 1, 16, 16), (16, 8, 8), (8, 0, 8)]
  else if o = 0x30 then pack [(b2n c.denied, 63, 1), (c.denyFn, 32, 10), (c.denyKind, 0, 8)]
  else if o = 0x38 then
    pack [((s.host.out.filter (fun x => x.gen < c.generation)).length, 32, 32), ((s.disp.tasks.filter (fun e => e.2.gen < c.generation)).length, 0, 32)]
  else if o = 0x40 then c.peerSel
  else if o = 0x48 then peerGen s c.peerSel
  else if o = 0x50 then c.entrySel
  else if o = 0x58 then Tbl.get 1 c.entryGen c.entrySel
  else if o = 0x60 then stageDiff s
  else if o = 0x68 then c.commitAcks.length
  else if o = 0x70 then pack [(0x240000, 32, 32), (0x280000, 0, 32)]
  else if o = 0x78 then pack [(c.faultFn, 54, 10), (c.faultPc, 0, 32)]
  else 0

/-- A VF is enabled (R511). -/
def vfEnabled (s : State) (f : Nat) : Bool := s.host.vfEnable && decide (1 ≤ f ∧ f ≤ s.host.numVfs)

/-- The function's state lets it fetch: the PF always; a VF while Running with its controller Online (R670, R674). -/
def fnFetches (s : State) (fn : Nat) : Bool :=
  decide (fn = 0) || (decide (fnMode s fn = .running) && Tbl.get false s.host.online fn)

/-- The threads of a function, and the memory range sets that they use. -/
def threadsOf (s : State) (f : Nat) : List (Nat × Task) := s.disp.tasks.filter (fun e => e.2.fn = f ∧ e.2.kind = .thread)
def setsOf (s : State) (f : Nat) : List Nat := (List.range 256).filter (fun i => (threadsOf s f).any (fun e => decide (e.2.rset = i)) && (Tbl.find s.prog.rsets i).isSome)

/-- Vectors and I/O queue pairs assigned to a function (R514). -/
def assignedVi (s : State) (f : Nat) : Nat := if f = 0 then 2048 else Tbl.get 0 s.host.vi f
def assignedVq (s : State) (f : Nat) : Nat := if f = 0 then (getCtrl s 0).vqNow else Tbl.get 0 s.host.vq f

/-- Length of a function's state image (R679 to R681). -/
def imageLen (s : State) (f : Nat) : Nat :=
  let sets := ((setsOf s f).map (fun i =>
    let r := Tbl.get [] s.prog.rsets i
    16 + 16 * r.length + (r.map (·.2)).sum)).sum
  64 + 7 * 16 + 512 + 64 * (getCtrl s f).sqs.length + 16 * assignedVi s f + 256 + 512 + sets + 262400 * (threadsOf s f).length

/-- VFM registers. -/
def readVfm (s : State) (o : Nat) : Nat :=
  let f := s.chr.vfmSel
  let vfs := (List.range 1024).filter (fun i => vfEnabled s i)
  if o = 0x08 then
    pack [(vfs.length, 48, 10), ((vfs.filter (fun i => !fnFetches s i)).length, 32, 10), ((vfs.filter (fun i => fnMode s i = .frozen)).length, 16, 10),
      ((s.host.online.filter (fun e => e.2)).length, 0, 10)]
  else if o = 0x10 then f
  else if o = 0x18 then
    pack [(b2n (decide (f = 0) || vfEnabled s f), 31, 1), (b2n (Tbl.get false s.host.online f), 30, 1), ((fnMode s f).code, 0, 3)]
  else if o = 0x20 then
    let legs := ((Tbl.vals s.prog.waybills).filter (fun w => (getTask s w.task).elim false (fun t => decide (t.fn = f)))).map
      (fun w => (w.legs.filter (fun l => l.done.isNone)).length)
    pack [((threadsOf s f).length, 48, 16), (legs.sum, 32, 16), ((s.host.out.filter (fun c => c.cmd.fn = f)).length, 0, 32)]
  else if o = 0x28 then pack [(assignedVq s f, 16, 14), (assignedVi s f, 0, 16)]
  else if o = 0x30 then if fnMode s f = .frozen then imageLen s f else 0
  else if o = 0x38 then pack [(s.chr.unqCount, 48, 16), (s.chr.unqLast, 32, 10)]
  else if 0x100 ≤ o ∧ o < 0x180 then
    bitSet ((List.range 64).filter (fun i => let v := 64 * ((o - 0x100) / 8) + i; vfEnabled s v && !fnFetches s v))
  else if 0x200 ≤ o ∧ o < 0x240 then
    (s.disp.tasks.filter (fun e => e.1 / 2048 = (o - 0x200) / 8 ∧ e.2.state = .frozen)).length
  else 0

/-! EVT, CNT and LOG (chapter 18). -/

/-- A source is pending. -/
def evtPending (s : State) (i : Nat) : Bool := (evtSrc s i).getLsbD 63

/-- EVT registers. -/
def readEvt (s : State) (o : Nat) : Nat :=
  let e := s.evt
  if o < 0x2200 then (evtSrc s (o / 8)).toNat
  else if o = 0x4000 then 2 * b2n e.maskAll
  else if o = 0x4008 then pack [(b2n e.routeFail, 63, 1), (e.failSrc, 32, 11), (e.postWait.length, 16, 11), (e.lastSrc, 0, 11)]
  else if o = 0x4010 then bitSet ((List.range 17).filter (fun g => (List.range 64).any (fun i => evtPending s (64 * g + i))))
  else if o = 0x4018 then e.pendSel
  else if o = 0x4020 then bitSet ((List.range 64).filter (fun i => evtPending s (64 * e.pendSel + i)))
  else if o = 0x4030 then e.bulkVal.toNat
  else if o = 0x4038 then pack [(e.bulkCount, 32, 11), (e.bulkFirst, 0, 11)]
  else if o = 0x4040 then e.lastTime
  else if 0x4080 ≤ o ∧ o < 0x40B8 then Tbl.get 0 e.tally ((o - 0x4080) / 8)
  else 0

/-- A register of the CNT unit by its slot number (R777). -/
def cntSlot (s : State) (k : Nat) : Nat :=
  if k = 7 then kinAt s 1 s.cnt.opSeconds else if k = 8 then kinAt s 1 s.cnt.powerCycles else Tbl.get 0 s.cnt.slots k

/-- CNT registers. -/
def readCnt (s : State) (o : Nat) : Nat :=
  let c := s.cnt
  if o = 0x00 then 2 ^ 31 * b2n (!c.wrap.isEmpty)
  else if o = 0x08 then c.winSteps
  else if o = 0x10 then pack [(c.winSeq, 32, 32), (c.winEndUs, 0, 32)]
  else if o = 0x18 then pack [(c.smpCores.toNat, 32, 32), (b2n c.smpEnable, 31, 1), (c.smpWing, 8, 3), (c.smpCounter, 0, 3)]
  else if o = 0x20 then c.smpPeriod
  else if o = 0x28 then pack [(b2n c.smpOverflow, 63, 1), (c.smpTail, 32, 13), (c.smpHead, 0, 13)]
  else if o < 0xE000 then cntSlot s (o / 8)
  else 0

/-- The record that the log wrote last. -/
def lastRec (s : State) : Option (Nat × LogRec) :=
  match s.log.lastSlot with
  | some n => (Tbl.find s.log.slots n).map (fun r => (n, r))
  | none => none

/-- The snapshot list of a trigger class (R802). -/
def defaultSnap : SnapList :=
  { version := 0, offsets := [0x100000, 0xB00028, 0x100068, 0x10006C, 0x200000, 0x200004] }
def snapList (s : State) (cls : Nat) : SnapList := Tbl.get defaultSnap s.log.lists cls

/-- LOG registers: what MRAM holds reads 0 until the scan of R800 is done (R904). -/
def readLog (s : State) (o : Nat) : Nat :=
  let l := s.log
  let up := fun (v : Nat) => if l.ready then v else 0
  if o = 0x00 then pack [(up (b2n (decide (2048 ≤ l.foreverUsed))), 31, 1), (b2n l.ready, 30, 1), (up l.head, 0, 14)]
  else if o = 0x08 then up l.seq
  else if o = 0x10 then up (logOldest s)
  else if o = 0x18 then up l.foreverUsed
  else if o = 0x20 then
    match lastRec s with
    | some (n, r) => up (pack [(r.typ, 48, 16), (r.source, 32, 16), (r.repeats, 16, 16), (n, 0, 14)])
    | none => 0
  else if o = 0x28 then up l.lastTime
  else if o = 0x30 then pack [(l.high, 16, 9), (l.queue.length, 0, 9)]
  else if o = 0x38 then pack [(b2n l.lostSeen, 63, 1), (l.lost, 0, 32)]
  else if o = 0x40 then up l.bad
  else if o = 0x48 then l.listSel
  else if o = 0x50 then kinAt s 3 (pack [((snapList s l.listSel).version, 16, 16), ((snapList s l.listSel).offsets.length, 0, 6)])
  else 0

/-! HK and LL (chapters 19 and 20). -/

/-- State of a wing's compute part: 0 in service, 1 withdrawn, 2 faulted. -/
def wingState (s : State) (w : Nat) : Nat := if s.mode.wingFault.getLsbD w then 2 else if s.mode.wingOut.getLsbD w then 1 else 0

/-- HK_SENSOR n. -/
def hkSensor (s : State) (n : Nat) : Nat :=
  let x := getSensor s n
  pack [(b2n (decide (x.cause ≠ 0)), 31, 1), (b2n x.vote, 30, 1), (b2n x.fast, 29, 1), (if x.seen then x.band else 0, 26, 3), (x.cause, 24, 2),
    (sensorRegion n, 16, 8), (twos 16 x.temp, 0, 16)]

/-- HK registers; all are current during Kindling (R904). -/
def readHk (s : State) (o : Nat) : Nat :=
  let p := s.pwr
  if o = 0x00 then
    let votes := (List.range 11).filter (fun r => decide (regionVotes s r ≠ 0))
    let broken := ((List.range 94).filter (fun n => (getSensor s n).cause ≠ 0)).length
    pack [(b2n p.voteSeen, 31, 1), (b2n p.brokenSeen, 30, 1), (bitSet votes, 16, 11), (broken, 0, 7)]
  else if o = 0x08 then pack [(b2n p.underSeen, 63, 1), (b2n p.overSeen, 62, 1), (p.vin, 40, 17), (p.iin, 24, 16)]
  else if o = 0x10 then pack [(p.avg10.high, 48, 16), (p.avg1.high, 32, 16), (p.avg10.last, 16, 16), (p.avg1.last, 0, 16)]
  else if o = 0x18 then
    pack [(b2n p.fail, 63, 1), (b2n (decide (69000 ≤ p.vstore)), 62, 1), (b2n p.checking, 61, 1), (p.margin, 32, 16), (p.vstore, 0, 17)]
  else if o = 0x28 then
    kinAt s 3 (pack [(sensorLimit s 16, 24, 8), (sensorLimit s 0, 16, 8), (sensorLimit s 80, 8, 8), (sensorLimit s 88, 0, 8)])
  else if o = 0x30 then
    pack [(p.voteSensor, 56, 8), (sensorRegion p.voteSensor, 48, 8), (twos 16 p.voteTemp, 32, 16), (p.voteSeconds, 0, 32)]
  else if o = 0x38 then pack [(p.flushTrigger, 60, 4), (p.flushLast, 16, 16), (p.flushMax, 0, 16)]
  else if 0x100 ≤ o ∧ o < 0x3F0 then hkSensor s ((o - 0x100) / 8)
  else if 0x800 ≤ o ∧ o < 0x900 then
    let w := (o - 0x800) / 32
    let x := wingPwr s w
    let mon := fun (i : Nat) => listGet PaceMon.fresh x.mons i
    let two := fun (i : Nat) => pack [((mon (i + 1)).minPace, 48, 16), ((mon (i + 1)).pace, 32, 16), ((mon i).minPace, 16, 16), ((mon i).pace, 0, 16)]
    if o % 32 = 0 then pack [(wingState s w, 30, 2), (ceilingOf s w, 16, 10), (x.vcore, 0, 10)]
    else if o % 32 = 8 then two 0
    else if o % 32 = 16 then two 2
    else pack [(b2n x.shortSeen, 31, 1), (x.shortMon, 28, 2), (x.shortEvents, 0, 16)]
  else 0

/-- The default body of a record type when it is absent (R853). -/
def llDefault (s : State) (t : Nat) : List Byte :=
  fitBytes 8 (match t with
    | 2 => ([50, 2] : List Byte)
    | 4 => [200, 40, 16, 0, 30, 0]
    | 5 => [95, 110, 95, BitVec.ofNat 8 (if s.cfg.variant = .v200A ∨ s.cfg.variant = .v100A then 75 else 55)]
    | 7 => [0x1D]
    | _ => [])

/-- Opcode of Light List Write (R538). -/
def opLightList : Nat := 0xC8

/-- A copy of the Light List as LL_COPY shows it. -/
def llCopyWord (copy : Option (List Byte)) (cause : Nat) : Nat :=
  match copy with
  | some c => pack [(b2n (decide (cause = 0)), 63, 1), (cause, 60, 3), (llLength c, 43, 13), (llSeqOf c, 0, 40)]
  | none => pack [(cause, 60, 3)]

/-- LL registers. -/
def readLl (s : State) (o : Nat) : Nat :=
  let k := s.kin
  if o = 0x00 then
    let busy := s.host.out.any (fun c => c.admin && decide (c.sqe.opc = opLightList))
    pack [(b2n busy, 31, 1), (kinAt s 3 (bitSet ((k.llRecs.map (·.1)).filterMap (fun t => if 1 ≤ t ∧ t ≤ 8 then some (t - 1) else none))), 8, 9),
      (kinAt s 3 k.llActive, 0, 2)]
  else if o = 0x08 then kinAt s 3 (llCopyWord k.copyA k.causeA)
  else if o = 0x10 then kinAt s 3 (llCopyWord k.copyB k.causeB)
  else if o = 0x18 then kinAt s 3 k.llSeq
  else if o = 0x20 then pack [(b2n k.llDone, 63, 1), (b2n k.llFail, 62, 1), (k.llCause, 59, 3), (k.llCopy, 58, 1)]
  else if o = 0x28 then
    kinAt s 3 (bitSet ((k.llRecs.filter (fun (r : Nat × List Byte) => r.1 = 0x10)).map (fun (r : Nat × List Byte) => (listGet 0 r.2 0).toNat)))
  else if o = 0x30 then kinAt s 3 k.llStamp
  else if o = 0x38 then 2 ^ 31 * b2n k.llPending
  else if 0x40 ≤ o ∧ o < 0x80 then
    let t := 1 + (o - 0x40) / 8
    kinAt s 3 (leNat ((match k.llRecs.find? (fun (r : Nat × List Byte) => r.1 = t) with | some r => r.2 | none => llDefault s t).take 8))
  else 0

/-! SEAL, DIG and KEY (chapter 16), as the PF (context 0) or a task sees them. -/

/-- Eight bytes of a list as a word. -/
def word8 (l : List Byte) (i : Nat) : Nat := leNat ((l.drop (8 * i)).take 8)

/-- SEAL words for a requester's context; a requester that is not the owner reads 0 in IV, TAG and OUT (R710). -/
def readSeal (s : State) (ctx o : Nat) : Nat :=
  let e := s.sec.sealEng
  let mine := ownsSeal s ctx
  let own := fun (v : Nat) => if mine then v else 0
  if o = 0x00 then
    match e.owner with
    | some x => pack [(1, 63, 1), (b2n mine, 60, 1), (x.fn, 32, 10), (x.handle, 0, 32)]
    | none => 0
  else if o = 0x08 then pack [(e.slot, 16, 6), (e.mode, 8, 3), (e.dir, 0, 1)]
  else if o = 0x10 then pack [(e.aadLen, 32, 16), (e.len, 0, 32)]
  else if o = 0x18 ∨ o = 0x20 then own (word8 e.iv ((o - 0x18) / 8))
  else if o = 0x28 ∨ o = 0x30 then own (word8 e.tag ((o - 0x28) / 8))
  else if o = 0x38 then e.src
  else if o = 0x40 then e.dst
  else if o = 0x50 then
    pack [(sealCode s ctx, 56, 8), (own (b2n e.trunc), 55, 1), (own (b2n e.short), 54, 1), (own (b2n e.badPad), 53, 1), (own e.inBytes, 0, 48)]
  else if o = 0x58 then own e.out
  else if ctx ≠ 0 then 0
  else if o = 0x108 then pack [(e.brokenFn, 32, 10), (e.brokenTask, 0, 32)]
  else if o = 0x110 then e.holdMax
  else if 0x140 ≤ o ∧ o < 0x188 then Tbl.get 0 e.counts ((o - 0x140) / 8)
  else 0

/-- DIG words for a requester's context: DIG_RESULT is the owner's alone, as SEAL_OUT is (R710, R723). -/
def readDig (s : State) (ctx o : Nat) : Nat :=
  let d := s.sec.dig
  let mine := ownsDig s ctx
  let own := fun (v : Nat) => if mine then v else 0
  if o = 0x00 then pack [(d.slot, 16, 6), (b2n d.keyed, 9, 1), (d.alg, 0, 2)]
  else if o = 0x08 then
    pack [(own (b2n d.trunc), 62, 1), (own (b2n d.short), 61, 1), (b2n mine, 60, 1), (digCode s ctx, 52, 8), (own d.bytes, 0, 48)]
  else if o = 0x10 then d.declared
  else if o = 0x20 then d.lastBytes
  else if o = 0x30 then d.ctxAddr
  else if 0x40 ≤ o ∧ o < 0x80 then own (word8 d.result ((o - 0x40) / 8))
  else if ctx ≠ 0 then 0
  else if o = 0x108 then pack [(d.brokenFn, 32, 10), (d.brokenTask, 0, 32)]
  else if o = 0x140 ∨ o = 0x148 then Tbl.get 0 d.counts ((o - 0x140) / 8)
  else 0

/-- KEY registers. -/
def readKey (s : State) (o : Nat) : Nat :=
  let k := s.sec
  if o = 0x30 then pack [(k.code, 56, 8), (kinAt s 3 k.epoch, 0, 32)]
  else if o = 0x38 then
    pack [(k.svn, 56, 8), (k.revoked, 52, 4), (kinAt s 3 (b2n (bitOf (llByte s 6 0 0) 0)), 47, 1), (kinAt s 3 (b2n k.newRoot), 46, 1),
      (kinAt s 3 k.alarm, 32, 4), (k.loaded, 7, 7), (k.free, 0, 7)]
  else if 0x100 ≤ o ∧ o < 0x300 then
    let n := (o - 0x100) / 8
    match keySlot s n with
    | some x =>
      pack [(1, 63, 1), (x.kind.code, 61, 2), (b2n (slotInUse s n), 60, 1), (b2n (slotExhausted x), 59, 1), (leNat (keyCheck 3 x.key), 32, 24), (x.fixed, 0, 32)]
    | none => 0
  else 0

/-! BCN and CMP (chapters 10 and 11). -/

/-- Valid lanes of the rows of a bank at a width, or of all rows. -/
def bankValid (s : State) (b : Nat) : Nat :=
  ((s.bcn.rows.filter (fun e => e.1 / 32768 = b)).map (fun e => ((List.range 4).filter (fun j => e.2.valid.getLsbD j)).length)).sum

/-- The active table that owns a bank. -/
def bankOwner (s : State) (b : Nat) : Option Nat := (List.range 16).find? (fun t => (bcnTable s t).active && (bcnTable s t).banks.getLsbD b)

/-- BCN registers. -/
def readBcn (s : State) (o : Nat) : Nat :=
  if o < 0x400 then bcnWord (bcnCtx s 0) o
  else if o < 0x500 then
    let t := (o - 0x400) / 16
    let b := bcnTable s t
    if o % 16 = 0 then pack [(b.cfgBanks.toNat, 16, 16), (b.progShare, 12, 3), (b.cfgHole, 10, 2), (b.cfgWidth, 8, 2), (b2n b.active, 0, 1)]
    else pack [(b.append, 42, 22), (if b.active then ((bankList b.banks).map (bankValid s)).sum else 0, 20, 22), (legsNaming s t, 0, 8)]
  else if 0x800 ≤ o ∧ o < 0xA00 then
    let i := (o - 0x800) / 32
    let b := bankRoll s.td17 (Tbl.get BcnBank.reset s.bcn.banks i)
    if o % 32 = 0 then
      pack [(b2n (bankOwner s i).isSome, 31, 1), ((bankOwner s i).getD 0, 24, 4), (bankValid s i, 0, 18)]
    else if o % 32 = 8 then pack [(b.sieveLast, 42, 22), (b.programLast, 20, 22), (b.updateLast, 0, 20)]
    else if o % 32 = 16 then pack [(b2n b.sieveWait, 31, 1), (b2n b.progWait, 30, 1), (b.sat, 0, 10)]
    else pack [(b2n b.mismatch, 63, 1), (b2n b.lost, 62, 1), (b.repaired, 32, 16), (b.lostCnt, 16, 16), (b.lastRow, 0, 15)]
  else 0

/-- The CMP_J words of a context. -/
def jobWord (j : CmpJob) (o : Nat) : Nat :=
  if o = 0x00 then pack [(b2n j.checksum, 40, 1), (j.thresh, 32, 7), (j.total, 0, 24)]
  else if o = 0x08 then j.dst
  else if o = 0x10 then j.cap
  else if o = 0x18 then j.src
  else if o = 0x28 then pack [(j.code, 56, 4), (j.inBytes, 32, 24), (j.outBytes, 0, 32)]
  else 0

/-- CMP registers of wing w. -/
def readCmp (s : State) (w o : Nat) : Nat :=
  let c := cmpRoll s.td17 (getCmp s w)
  if o < 0x100 then jobWord (getJob s (jobKey 0 w)) o
  else if o = 0x100 then pack [(c.progShare, 8, 3), (c.threshPct, 0, 7)]
  else if o = 0x108 then pack [(b2n (!s.mode.wingOut.getLsbD w), 31, 1), (b2n (s.med.cache.any (fun g => decide (g.wait = .frame ∧ g.cmp = w ∧ g.wing ≠ w))), 30, 1), (openJobs s w, 0, 4)]
  else if o = 0x110 then pack [(b2n c.failSeen, 31, 1), (c.fails, 0, 16)]
  else if o = 0x118 then pack [(c.inKib, 32, 32), (c.outKib, 0, 32)]
  else if o = 0x120 then pack [(c.packed, 32, 32), (c.raw, 0, 32)]
  else if o = 0x128 then pack [(c.doneJobs, 32, 32), (c.notSmaller, 0, 32)]
  else 0

/-! DRM (chapter 17). -/

/-- Hash masks and layout of a channel. -/
def dramCfg (s : State) (w : Nat) : DramCfg := Tbl.get DramCfg.reset s.drm.cfgs w

/-- Timing set of a band (R765). -/
def timingSet (b : Nat) : Nat := if b = 0 then 0 else if b ≤ 2 then 1 else b - 1

/-- The pages of a region in which the spec does not say where data lies: the write cache, a task's hold image, the directory share, and the
keeper area beyond its test page (R747; log entry 80). -/
def openPage (s : State) (w p : Nat) : Bool :=
  decide (0x40000 ≤ p ∧ p < 0x60000) || (decide (0x60000 ≤ p ∧ p < 0x80000) && (getTask s (2048 * w + (p - 0x60000) / 64)).isSome) ||
    decide (0x88000 ≤ p ∧ p < 0xA0000) || decide (0xA0401 ≤ p ∧ p < 0xC28F6)

/-- A page of a channel's own offsets holds data; one of the map partition only while its map block is allocated (R754, R755). -/
def pageHolds (s : State) (w p : Nat) : Bool :=
  (getDram s w).written.contains p && (decide (p < 2 ^ 20) || (s.med.dir.any (fun e =>
    decide (e.2.station = ownStation s ∧ e.2.wing = w ∧ e.2.blockIx ≠ 0 ∧ mapBlockAddr e.2.blockIx / 4096 ≤ p ∧ p < mapBlockAddr e.2.blockIx / 4096 + 6))))

/-- The valid bit of a page (R754): that of a page moved by a retirement is carried to its reserve page (R755). In a region where the spec does
not say where data lies it is a free value (log entry 80). -/
def validBit (s : State) (w page : Nat) : Nat :=
  let c := getDram s w
  let own := fun (p : Nat) => if openPage s w p then (Config.freeValue (2 ^ 75 * (w + 1) + 2 ^ 90 * p + s.td17)).toNat % 2 else b2n (pageHolds s w p)
  if (Tbl.find c.remap page).isSome then 0
  else match c.remap.find? (fun e => e.2.target = page) with
    | some e => own e.1
    | none => own page

/-- DRM_VALID.PAGES: the valid bits that are set; of the pages in regions where the spec does not say where data lies, a free number (log
entry 80). -/
def validPages (s : State) (w : Nat) : Nat :=
  let tasks := (s.disp.tasks.filter (fun e => e.1 / 2048 = w)).length
  ((getDram s w).written.filter (pageHolds s w)).length +
    (Config.freeValue (2 ^ 70 * (w + 1) + s.td17)).toNat % (0x20000 + 64 * tasks + 0x18000 + 0x224F5 + 1)

/-- DRM registers of wing w. -/
def readDrm (s : State) (w o : Nat) : Nat :=
  let c := getDram s w
  let g := dramCfg s w
  let x := getSensor s (80 + w)
  if o = 0x08 then
    pack [(b2n c.uncorrSeen, 63, 1), (b2n c.corrSeen, 62, 1), (b2n c.devFailedSeen, 61, 1), (b2n c.inorder, 60, 1),
      (b2n (erasure c 0) + 2 * b2n (erasure c 1), 40, 2)]
  else if o = 0x10 then pack [(b2n c.trainDone, 63, 1), (c.trainFail, 50, 10), (c.trainMs, 0, 32)]
  else if o = 0x18 then kinAt s 4 (pack [(twos 8 (x.temp / 10), 8, 8), (x.band, 0, 3)])
  else if o = 0x20 then pack [(kinAt s 4 (timingSet c.timingBand), 8, 2), (if c.timingBand = 4 then 2 else 1, 0, 2)]
  else if o = 0x28 then g.grain
  else if o = 0x30 then g.grainNext
  else if 0x38 ≤ o ∧ o < 0x60 then listGet 0 g.hash ((o - 0x38) / 8)
  else if 0x60 ≤ o ∧ o < 0x88 then listGet 0 g.hashNext ((o - 0x60) / 8)
  else if o = 0x88 then c.corr
  else if o = 0x90 then c.uncorr
  else if o = 0x98 then c.errLast
  else if o = 0xA0 then c.errTime
  else if 0xA8 ≤ o ∧ o < 0xF8 then
    let d := Tbl.get DramDev.fresh c.devs ((o - 0xA8) / 8)
    pack [(b2n d.failed, 63, 1), (b2n d.byHost, 62, 1), (min 65535 d.lines.length, 32, 16), (d.symbols, 0, 32)]
  else if o = 0x100 then c.scrubHours
  else if o = 0x108 then pack [(c.scrubPasses, 32, 32), ((c.scrubPos.getD 0) * 65536 / 2 ^ 28, 0, 16)]
  else if o = 0x110 then pack [(b2n c.rhProb, 16, 1), (c.rhThresh, 0, 14)]
  else if o = 0x118 then pack [(c.targeted, 32, 32), (min 65535 c.probCount, 16, 16), (min 65535 (c.rfm / 1000), 0, 16)]
  else if o = 0x120 then c.inorderCount
  else if o = 0x128 then pack [(c.left, 40, 24), (c.pages, 16, 24), (c.banks, 0, 6)]
  else if o = 0x130 then c.retireSel
  else if o = 0x138 then
    match Tbl.find c.remap c.retireSel with
    | some r => pack [(1, 63, 1), (b2n r.bank, 62, 1), (validBit s w c.retireSel, 61, 1), (r.target, 0, 22)]
    | none => pack [(validBit s w c.retireSel, 61, 1)]
  else if o = 0x140 then c.bankRetired.toNat
  else if o = 0x148 then validPages s w
  else if o = 0x150 then pack [(b2n c.testEnable, 31, 1), (b2n c.testRaw, 28, 1)]
  else if o = 0x158 then pack [(c.testPattern, 32, 32), (c.testLine, 0, 6)]
  else if o = 0x160 ∨ o = 0x168 then word8 c.testCheck ((o - 0x160) / 8)
  else if o = 0x170 then c.testStatus
  else if o = 0x178 then pack [(c.poison.length, 40, 24), (c.poisonLast, 0, 34)]
  else 0

/-! MED, SIV and WNG (chapters 2, 3, 5 and 9). -/

/-- Forecourt die blocks of a wing in a state. -/
def wingFc (s : State) (w : Nat) (st : BlkState) : Nat :=
  (s.med.blocks.filter (fun e => portWing (blkPort e.1) = w ∧ e.2.role = .forecourt ∧ e.2.state = st)).length

/-- Map blocks allocated in a wing. -/
def wingMapBlocks (s : State) (w : Nat) : Nat :=
  (s.med.dir.filter (fun e => e.2.station = ownStation s ∧ e.2.wing = w ∧ e.2.blockIx ≠ 0)).length

/-- Fewest spare plane blocks left in a plane of a channel (MED_CH_SPARE). -/
def spareMin (s : State) (ch : Nat) : Nat :=
  sparesPerPlane s - ((s.med.sparesUsed.filter (fun e => e.1 / 32 = ch)).map (·.2)).foldl max 0

/-- MED registers. DESIGN CHOICE (log entry 89): the spec does not say how a part of a MiB counts in MED_WG_CACHE.USED_MIB; the model rounds
up. -/
def readMed (s : State) (o : Nat) : Nat :=
  let m := s.med
  if o = 0x00 then pack [(if is200 s then 1080 else 540, 20, 12), (dieBlocks s, 8, 12), (dieTbit s, 0, 4)]
  else if o = 0x08 then if is200 s then 48828125000 else 24414062500
  else if o = 0x10 then pack [(m.foldStart, 16, 8), (m.highWater, 8, 8), (kinAt s 3 (b2n m.compat), 0, 1)]
  else if o = 0x18 then pack [(fcBlocks s, 40, 24), (fcUsed s, 16, 24), (if fcBlocks s = 0 then 0 else occPct s, 8, 8), (b2n m.bypass, 0, 1)]
  else if o = 0x20 then pack [(min 65535 m.avgErase, 16, 16), (m.allowance, 0, 16)]
  else if o = 0x28 then pack [(b2n m.jrnSticky, 31, 1), (b2n (decide (m.ckptStep ≠ 0 ∧ m.ckptStep ≠ 4)), 30, 1), (liveBytes s / 1024, 0, 28)]
  else if o = 0x30 then kinAt s 6 m.durSeq
  else if o = 0x38 then kinAt s 6 m.ckptSeq
  else if 0x100 ≤ o ∧ o < 0x200 then
    let w := (o - 0x100) / 32
    if o % 32 = 0 then kinAt s 6 (wingMapBlocks s w)
    else if o % 32 = 8 then kinAt s 7 (pack [(wingFc s w .sealed, 16, 16), (wingFc s w .opened, 0, 16)])
    else if o % 32 = 16 then min 512 ((cacheGrains s w + 63) / 64)
    else 0
  else if 0x1000 ≤ o ∧ o < 0x2000 then
    let ch := (o - 0x1000) / 32
    if o % 32 = 0 then kinAt s 7 (pack [(ledgerOf s ch 2, 32, 16), (ledgerOf s ch 1, 16, 16), (ledgerOf s ch 0, 0, 16)])
    else if o % 32 = 8 then pack [(chTotal s, 48, 16), (kinAt s 7 (ledgerOf s ch 4), 32, 16), (kinAt s 7 (ledgerOf s ch 3), 16, 16)]
    else if o % 32 = 16 then
      kinAt s 7 (pack [(bitSet ((List.range 8).filter (fun i => !portOk s (8 * ch + i))), 24, 8), (spareMin s ch, 16, 8), (Tbl.get 0 m.remapped ch, 0, 16)])
    else
      let f := fun (i : Nat) => Tbl.get 0 m.chFail (4 * ch + i)
      pack [(f 0, 48, 16), (f 1, 32, 16), (f 2, 16, 16), (f 3, 0, 16)]
  else 0

/-- A sieve. -/
def getSiv (s : State) (ch : Nat) : SivCh := Tbl.get SivCh.reset s.siv ch

/-- Running legs of a wing. -/
def runningLegs (s : State) (w : Nat) : List RunLeg := s.prog.legs.filter (fun l => l.state = .running ∧ l.wing = w)

/-- SIV registers of a channel. -/
def readSiv (s : State) (ch o : Nat) : Nat :=
  let c := getSiv s ch
  if o = 0 then
    pack [(b2n c.malWrapped, 31, 1), (b2n c.bcnStall, 30, 1), (b2n c.outStall, 29, 1), (b2n c.postStall, 28, 1), (b2n (decide (16 ≤ c.reads.length)), 27, 1),
      (bitSet ((runningLegs s (ch / 16)).map (·.slot)), 8, 16), (c.lastCause, 0, 4)]
  else c.malformed

/-- Tasks of the tables that a wing's dispatcher serves. -/
def servedTasks (s : State) (w : Nat) : List (Nat × Task) := s.disp.tasks.filter (fun e => servingWing s (e.1 / 2048) = w)

/-- Half of WNG_CORE_SLOTS for a core. -/
def coreWord (s : State) (k : Nat) : Nat :=
  let c := getCore s k
  let other := fun (key : Nat) => b2n (decide (key / 2048 ≠ k / 32))
  (match c.next with
   | some n => pack [(b2n c.nextLoaded, 31, 1), (other n, 30, 1), (n % 2048, 19, 11)]
   | none => 0) +
  (match c.run with
   | some r => pack [((getTask s r).elim 0 (·.prio), 16, 3), (1, 15, 1), (other r, 14, 1), (r % 2048, 0, 11)]
   | none => 0)

/-- WNG registers of wing w. -/
def readWng (s : State) (w o : Nat) : Nat :=
  let d := getWing s w
  let ts := servedTasks s w
  let inState := fun (st : TaskState) => (ts.filter (fun e => e.2.state = st)).length
  let atPrio := fun (n : Nat) => (ts.filter (fun e => (e.2.state = .ready ∨ e.2.state = .staged) ∧ e.2.prio = n)).length
  if o = 0x00 then d.quantum
  else if o = 0x08 then
    pack [(b2n (servingOther s w), 59, 1), (b2n (s.mode.wingOut.getLsbD w), 58, 1), (inState .stalled, 36, 12), (inState .waiting, 24, 12),
      (inState .ready + inState .staged, 12, 12), (((List.range 32).filter (fun i => (getCore s (32 * w + i)).run.isSome)).length, 0, 6)]
  else if o = 0x10 then pack [(d.slotsFree, 16, 12), (d.slotsLive, 0, 12)]
  else if o = 0x18 then pack [(b2n d.fullSeen, 31, 1), (d.pqHigh, 16, 8), (d.pqFree, 8, 8), (d.pqUsed, 0, 8)]
  else if o = 0x20 then pack ((List.range 8).map (fun n => (min 255 (atPrio n), 8 * n, 8)))
  else if o = 0x28 then d.stallCls.toNat
  else if o = 0x30 then pack [(b2n d.dropped, 63, 1), (d.dropCls, 32, 3), (d.dropHandle, 0, 32)]
  else if o = 0x38 then d.query
  else if o = 0x40 then d.taskA.toNat
  else if o = 0x48 then d.taskB.toNat
  else if o = 0x50 then d.taskC.toNat
  else if o = 0x58 then d.wakeMax
  else if o = 0x60 then pack [(b2n d.auditFail, 31, 1), (d.auditPasses, 0, 24)]
  else if o = 0x68 then d.fnSel
  else if o = 0x70 then (ts.filter (fun e => e.2.fn = d.fnSel)).length
  else if o = 0x78 then
    (s.prog.legs.filter (fun l => l.state = .waiting ∧ l.pool = w)).length + (if w = 0 then s.prog.waiting.length else 0)
  else if 0x100 ≤ o ∧ o < 0x180 then
    let i := (o - 0x100) / 8
    coreWord s (32 * w + 2 * i) + 2 ^ 32 * coreWord s (32 * w + 2 * i + 1)
  else 0

/-! RTE (chapter 14). -/

/-- Buffer of a virtual channel, flits per class (R613). -/
def vcBuffer (v : Nat) : Nat := if v = 0 then 16 else if v = 3 then 256 else 64

/-- A route link. -/
def getLink (s : State) (l : Nat) : Link := Tbl.get Link.reset s.rte.links l

/-- Live segments this station takes part in: its pieces' and those it holds parity of; and those not sealed, and being recoded. -/
def liveSegs (s : State) : List Nat :=
  ((s.rte.pieces.filter (fun (p : Piece) => p.seg ≠ 0)).map (fun (p : Piece) => p.seg - 1) ++ s.rte.parity.map (fun (p : ParityGrain) => p.seg)).dedup
def segSealed (s : State) (g : Nat) : Bool :=
  (Tbl.find s.rte.segments g).elim false (·.sealed) || s.rte.pieces.any (fun p => decide (p.seg = g + 1) && p.sealed)

/-- RTE registers. -/
def readRte (s : State) (o : Nat) : Nat :=
  let r := s.rte
  if o = 0x00 then pack [(kinAt s 3 (b2n r.overridden), 31, 1), (r.straps, 8, 6), (kinAt s 3 r.station, 0, 6)]
  else if o = 0x08 then kinAt s 8 r.record.id
  else if o = 0x10 then
    let groups := if inCaravan s then ((members s).map (Tbl.get 0 r.record.groups)).dedup.length else 0
    pack [(r.recodePct, 16, 8), (r.rebuildGbps, 12, 4), (kinAt s 8 r.record.code, 8, 2), (kinAt s 8 groups, 4, 4), (kinAt s 8 r.record.topo, 0, 1)]
  else if o = 0x18 then
    pack [(b2n r.partition, 63, 1), (kinAt s 8 (b2n (inCaravan s)), 62, 1), (b2n r.refuseSeen, 61, 1),
      (if inCaravan s then litMembers s else 0, 48, 7), (r.refuseStn, 40, 8), (r.refuseCode, 32, 8)]
  else if o = 0x20 then kinAt s 8 r.record.members.toNat
  else if o = 0x28 then r.absent.toNat
  else if o = 0x30 then kinAt s 8 r.record.epoch
  else if o = 0x38 then
    let live := liveSegs s
    pack [(live.length, 32, 32), ((live.filter (fun g => !segSealed s g)).length, 16, 16),
      (((r.pieces.filter (fun (p : Piece) => p.recoding)).map (fun (p : Piece) => p.seg)).dedup.length, 0, 16)]
  else if 0x40 ≤ o ∧ o < 0x80 then kinAt s 8 (bitSet ((List.range 64).filter (fun m => r.record.members.getLsbD m ∧ Tbl.get 0 r.record.groups m = (o - 0x40) / 8)))
  else if 0x100 ≤ o ∧ o < 0x300 then
    let k := getLink s ((o - 0x100) / 128)
    let i := (o - 0x100) % 128
    if i = 0 then
      pack [(k.state.code, 60, 3), (k.refuse, 56, 4), (k.peer, 48, 8), (k.peerLink, 46, 2), (k.version, 32, 8), (min 65535 k.downs, 16, 16), (k.lock, 0, 2)]
    else if i = 8 then pack [(k.uncorr, 48, 16), (k.crcDrop, 32, 16), (k.lenDrop, 16, 16), (min 65535 k.replays, 0, 16)]
    else if 64 ≤ i then
      let vc := (i - 64) / 8
      let buf := vcBuffer (vc / 2)
      pack [(buf, 20, 10), (buf - Tbl.get 0 k.used vc, 10, 10), (Tbl.get 0 k.occ vc, 0, 10)]
    else 0
  else if 0x400 ≤ o ∧ o < 0x600 then
    let d := (o - 0x400) / 8
    let t := Tbl.get Route.none r.routes d
    pack [(Tbl.get 0 r.fwSets d, 32, 32), (t.hops, 24, 5), (t.first, 20, 2), (b2n t.reach, 19, 1), (Tbl.get 0 r.record.groups d, 16, 3),
      (stationState s d, 8, 3), (d, 0, 6)]
  else 0

/-! The NVMe controller registers (R36, R48, R509, R519, R520), at the places that NVMe Base 2.1 gives them (log entry 23). -/

/-- CAP: MQES, CQR, AMS, TO, NSSRS, CSS, MPSMAX and CRMS as R520 gives them; DSTRD, BPS, PMRS, CMBS and MPSMIN are 0. -/
def nvmeCap : Nat :=
  pack [(16383, 0, 16), (1, 16, 1), (1, 17, 2), (120, 24, 8), (1, 36, 1), (0x41, 37, 8), (4, 52, 4), (3, 59, 2)]

/-- CC as software wrote it; the entry sizes are the only ones that Identify reports. -/
def nvmeCc (c : Ctrl) : Nat :=
  pack [(b2n c.en, 0, 1), (c.css, 4, 3), (c.mps, 7, 4), (c.ams, 11, 3), (c.shn, 14, 2), (if c.en then 6 else 0, 16, 4), (if c.en then 4 else 0, 20, 4),
    (b2n c.crime, 24, 1)]

/-- A 32-bit word of a function's NVMe controller registers. CSTS.CFS is never set (R48); CRTO.CRWMT is 120 and CRIMT 4 (R36). -/
def nvmeReg (s : State) (fn o : Nat) : Nat :=
  let c := getCtrl s fn
  match o with
  | 0x00 => nvmeCap % 2 ^ 32
  | 0x04 => nvmeCap / 2 ^ 32
  | 0x08 => 0x00020100
  | 0x0C => c.intms
  | 0x10 => c.intms
  | 0x14 => nvmeCc c
  | 0x1C => pack [(b2n c.rdy, 0, 1), (c.shst, 2, 2)]
  | 0x24 => c.aqa
  | 0x28 => c.asq % 2 ^ 32
  | 0x2C => c.asq / 2 ^ 32
  | 0x30 => c.acq % 2 ^ 32
  | 0x34 => c.acq / 2 ^ 32
  | 0x68 => pack [(120, 0, 16), (4, 16, 16)]
  | _ => 0

/-- A 32-bit word of a function's MSI-X table or pending bit array; `table` and `pending`: where they start, `n`: entries (R509). -/
def msixReg (s : State) (fn table pending n o : Nat) : Nat :=
  let c := getCtrl s fn
  if table ≤ o ∧ o < table + 16 * n then (Tbl.get 0 c.msix ((o - table) / 16)).toNat / 2 ^ (32 * ((o - table) % 16 / 4)) % 2 ^ 32
  else if pending ≤ o ∧ o < pending + n / 8 then
    bitSet ((List.range 32).filter (fun i => Tbl.get false c.pba (8 * (o - pending) + i)))
  else 0

/-- A 32-bit word of BAR0 below the unit registers and the status window: a doorbell reads 0 (R509, R510). -/
def lowReg (s : State) (fn o : Nat) : Nat :=
  if o < 0x1000 then nvmeReg s fn o
  else if fn = 0 then msixReg s 0 0xC0000 0xC8000 2048 o
  else msixReg s fn 0x4000 0x5000 64 o

/-- A register of PF BAR0 by its slot offset, a multiple of 8. Offsets that name none read 0 (R901, R902). -/
def regRead (s : State) (off : Nat) : Nat :=
  match unitOf off with
  | none => if off < 0x100000 then lowReg s 0 off + 2 ^ 32 * lowReg s 0 (off + 4) else 0
  | some u =>
    let o := off - (unitRow u).1
    match u with
    | 0 => readMsc s o
    | 1 => readCht s o
    | 2 => readEvt s o
    | 3 => readCnt s o
    | 4 => readLog s o
    | 5 => readHk s o
    | 6 => readLl s o
    | 7 => readSeal s 0 o
    | 8 => readDig s 0 o
    | 9 => readKey s o
    | 10 => readBcn s o
    | 11 => if o / 0x10000 < 8 then readDrm s (o / 0x10000) (o % 0x10000) else 0
    | 12 => readMed s o
    | 13 => if o / 16 < 128 then readSiv s (o / 16) (o % 16) else 0
    | 14 => if o / 0x10000 < 8 then readWng s (o / 0x10000) (o % 0x10000) else 0
    | 15 => if o / 0x1000 < 8 then readCmp s (o / 0x1000) (o % 0x1000) else 0
    | 16 => readRte s o
    | _ => readVfm s o

/-- A snapshot word of a PF BAR0 offset, a multiple of 4: a read with no side effect (R803). -/
def snapRead (s : State) (off : Nat) : Nat :=
  let v := regRead s (off / 8 * 8)
  if off % 8 = 0 then v % 2 ^ 32 else v / 2 ^ 32 % 2 ^ 32

end Sys2Proof.Machine
end

