-- ==== Sys2Proof/Machine/Ops.lean ====
section
/-! DEFINITION. Counting, raising event sources, posting to tasks and the occurrences of the Keeper's Log (chapter 18, R432 to R436). -/

namespace Sys2Proof.Machine

/-- A nanosecond of TD17 passes while the module has power (R17; log entry 1). -/
def tick (s : State) : State := if s.mode.mode = .dark then s else { s with td17 := s.td17 + 1 }

/-- The largest number of notices that one happening sets off (log entry 12). -/
def noteFuel : Nat := 16

/-- Something to tell: a raise of an event source, or an occurrence for the Keeper's Log. -/
inductive Note where
  | raise (src : Nat)
  | occ (typ src : Nat) (detail : List Byte)
deriving DecidableEq, Repr

/-- Adds to a performance counter slot; 64 bits, wrapping with its sticky bit (R783). The flag says that it wrapped. -/
def cntAdd (slot n : Nat) (s : State) : State × Bool :=
  let v := Tbl.get 0 s.cnt.slots slot + n
  if v ≤ max64 then ({ s with cnt := { s.cnt with slots := Tbl.put 0 s.cnt.slots slot v } }, false)
  else ({ s with cnt := { s.cnt with slots := Tbl.put 0 s.cnt.slots slot (v % 2 ^ 64)
                                     wrap := Tbl.put false s.cnt.wrap slot true } }, true)

/-- The event source that a wrap of a counter slot raises (R784). -/
def wrapSource (slot : Nat) : Nat :=
  if 4096 ≤ slot ∧ slot ≤ 7167 then (slot - 4096) / 3 else 1081

/-- Adds to a CNT_FN word, saturating (R783). -/
def cntFnAdd (f j n : Nat) (s : State) : State :=
  { s with cnt := { s.cnt with fns := Tbl.upd 0 s.cnt.fns (4 * f + j) (fun v => satAdd max64 v n) } }

/-- Adds to EVT_TALLY, saturating (R810). -/
def tallyAdd (i : Nat) (s : State) : State :=
  { s with evt := { s.evt with tally := Tbl.upd 0 s.evt.tally i (fun v => satAdd max64 v 1) } }

/-- Replaces a controller. -/
def setCtrl (fn : Nat) (c : Ctrl) (s : State) : State :=
  { s with host := { s.host with ctrls := Tbl.put Ctrl.reset s.host.ctrls fn c } }

/-- The MSI-X vector exists for the function: 2,048 for the PF, the assigned VI for an enabled VF (R514, R795). -/
def vectorOk (s : State) (fn v : Nat) : Bool :=
  if fn = 0 then decide (v < 2048)
  else s.host.vfEnable && decide (fn ≤ s.host.numVfs) && decide (v < Tbl.get 0 s.host.vi fn)

/-- Sends an MSI-X message; a masked vector sets its pending bit, a function in D3hot or behind a link that is down
sends nothing (R506, R507, R509). -/
def sendMsix (fn v : Nat) (s : State) : State :=
  let c := getCtrl s fn
  if (Tbl.get 0 c.msix v).getLsbD 96 then setCtrl fn { c with pba := Tbl.put false c.pba v true } s
  else if c.d3 || !s.host.linkUp then s
  else { s with evt := { s.evt with msix := s.evt.msix ++ [{ fn := fn, vector := v }] } }

/-- Replaces a wing's dispatcher. -/
def setWing (w : Nat) (d : WingDisp) (s : State) : State :=
  { s with disp := { s.disp with wings := Tbl.put WingDisp.reset s.disp.wings w d } }

/-- The task a handle names while it is live (R414, R436): its key. -/
def liveTask (s : State) (handle : Nat) : Option Nat :=
  let inc := handle / 2 ^ 16
  let low := handle % 2 ^ 16
  if inc = 0 ∨ low / 2 ^ 14 ≠ 0 then none
  else match Tbl.find s.disp.tasks low with
    | some t => if t.incarn = inc ∧ t.state ≠ .ending ∧ t.state ≠ .free then some low else none
    | none => none

/-- What became of a post (R435, R436). -/
inductive PostResult where
  | posted | full | dead
deriving DecidableEq, Repr

/-- Puts a post entry in the post queue of the target's wing, or stalls the poster's class, or records the refusal of a
hardware post (R432 to R436). The flag says that FULL_SEEN became set. -/
def postTo (handle : Nat) (mask : BitVec 32) (cls : Nat) (s : State) : State × PostResult × Bool :=
  match liveTask s handle with
  | none =>
    let w := (handle / 2 ^ 11) % 8
    let d := getWing s w
    if cls = 3 ∨ cls = 4 then (s, .dead, false)
    else (setWing w { d with dropped := true, dropCls := cls, dropHandle := handle } s, .dead, false)
  | some key =>
    let w := key / 2048
    let d := getWing s w
    if 64 ≤ d.postQ.length then
      (setWing w { d with stallCls := d.stallCls ||| (1#6 <<< cls) } s, .full, false)
    else
      let q := d.postQ ++ [{ key := key, incarn := handle / 2 ^ 16, mask := mask, cls := cls }]
      let full := decide (q.length = 64)
      (setWing w { d with postQ := q, pqFree := d.pqFree - 1, pqUsed := d.pqUsed + 1, pqHigh := max d.pqHigh q.length,
                          fullSeen := d.fullSeen || full } s,
        .posted, full && !d.fullSeen)

/-- Replaces an EVT_SRC entry. -/
def setEvtSrc (i : Nat) (v : Word) (s : State) : State :=
  { s with evt := { s.evt with src := Tbl.put 0 s.evt.src i v } }

/-- A bit of an entry set or cleared. -/
def wordBit (v : Word) (i : Nat) (b : Bool) : Word := if b then v ||| (1#64 <<< i) else v &&& ~~~(1#64 <<< i)

/-- A failed delivery (R795). -/
def routeFailed (i : Nat) (s : State) : State :=
  tallyAdd 6 { s with evt := { s.evt with routeFail := true, failSrc := i } }

/-- Delivers a raise by ROUTE (R793 to R795). -/
def deliver (i : Nat) (s : State) : State × List Note :=
  let e := evtSrc s i
  let route := (e >>> 58).toNat % 4
  let vec := (e >>> 32).toNat % 2048
  let fn := (e >>> 48).toNat % 1024
  let flag := (e >>> 43).toNat % 32
  let handle := e.toNat % 2 ^ 32
  let clear := fun (s : State) => setEvtSrc i (wordBit (evtSrc s i) 63 false) s
  let logs : List Note := if e.getLsbD 61 then [Note.occ 0xB001 i (leBytes 8 e.toNat)] else []
  let t5 := fun (s : State) => if e.getLsbD 61 then tallyAdd 5 s else s
  match route with
  | 1 => (t5 (tallyAdd 2 (sendMsix 0 vec s)), logs)
  | 2 =>
    if vectorOk s fn vec && decide (fn ≠ 0) then (t5 (tallyAdd 3 (clear (sendMsix fn vec s))), logs)
    else (t5 (clear (routeFailed i s)), logs)
  | 3 =>
    match postTo handle (1#32 <<< flag) 2 s with
    | (s1, .posted, ev) =>
      (t5 (tallyAdd 4 (clear { s1 with evt := { s1.evt with postWait := s1.evt.postWait.filter (· ≠ i) } })),
        logs ++ (if ev then [.raise (1048 + (handle / 2 ^ 11) % 8)] else []))
    | (s1, .full, _) =>
      ({ s1 with evt := { s1.evt with postWait := if s1.evt.postWait.contains i then s1.evt.postWait
                                                  else s1.evt.postWait ++ [i] } }, [])
    | (s1, .dead, _) =>
    (t5 (clear (routeFailed i { s1 with evt := { s1.evt with postWait := s1.evt.postWait.filter (· ≠ i) } })), logs ++ [.raise (1048 + (handle / 2 ^ 11) % 8)])
  | _ => (t5 s, logs)

/-- A raise of a source (R793, R796, R810); sources above 1,087 do not exist. -/
def raiseOne (i : Nat) (s : State) : State × List Note :=
  if 1088 ≤ i then (s, [])
  else
    let s1 := tallyAdd 0 { s with evt := { s.evt with lastSrc := i, lastTime := s.td17 } }
    let (s2, wrapped) := if 1024 ≤ i then cntAdd (64 + (i - 1024)) 1 s1 else (s1, false)
    let more : List Note := if wrapped then [.raise 1081] else []
    let e := evtSrc s2 i
    if e.getLsbD 63 then (tallyAdd 1 (setEvtSrc i (wordBit e 60 true) s2), more)
    else
      let s3 := setEvtSrc i (wordBit e 63 true) s2
      if e.getLsbD 62 && !s3.evt.maskAll then
        let (s4, ns) := deliver i s3
        (s4, ns ++ more)
      else (s3, more)

/-- An occurrence arrives at the log writer (R803, R804); it counts in CNT_MOD 6. -/
def occOne (typ src : Nat) (detail : List Byte) (s : State) : State × List Note :=
  let (s1, wrapped) := cntAdd 15 1 s
  let more : List Note := if wrapped then [.raise 1081] else []
  let lst := snapList s (typ / 2 ^ 12)
  let o : LogOcc := { typ := typ, source := src, detail := detail, stamp := s.td17, opSeconds := s.cnt.opSeconds,
                      powerCycles := s.cnt.powerCycles, listVer := lst.version, snapshot := lst.offsets.map (fun a => snapRead s a) }
  if s1.log.queue.length < 256 then
    ({ s1 with log := { s1.log with queue := s1.log.queue ++ [o], lastTime := s.td17,
                                    high := max s1.log.high (s1.log.queue.length + 1) } }, more)
  else
    ({ s1 with log := { s1.log with lost := satAdd (2 ^ 32 - 1) s1.log.lost 1, lostSeen := true, lastTime := s.td17,
                                    lostUnlogged := s1.log.lostUnlogged + 1 } }, .raise 1087 :: more)

/-- One notice. -/
def noteOne : Note → State → State × List Note
  | .raise i, s => raiseOne i s
  | .occ t src d, s => occOne t src d s

/-- Notices in turn, with those they set off. -/
def runNotes : Nat → List Note → State → State
  | 0, _, s => s
  | _, [], s => s
  | n + 1, x :: r, s =>
    let (s1, more) := noteOne x s
    runNotes n (r ++ more) s1

/-- Raises an event source as an occurrence would (R793). -/
def raise (i : Nat) (s : State) : State := runNotes noteFuel [.raise i] s

/-- Hands an occurrence to the log writer (R804). -/
def logOcc (typ src : Nat) (detail : List Byte) (s : State) : State := runNotes noteFuel [.occ typ src detail] s

/-- Counts in a performance counter slot and raises what a wrap raises (R783, R784). -/
def count (slot n : Nat) (s : State) : State :=
  let (s1, wrapped) := cntAdd slot n s
  if wrapped then raise (wrapSource slot) s1 else s1

/-- CNT_MOD i (R778). -/
def cntMod (i n : Nat) (s : State) : State := count (9 + i) n s

/-- CNT_CORE k, j (R386, R776). -/
def cntCore (k j n : Nat) (s : State) : State := count (512 + 6 * k + j) n s

/-- The core and counter are the ones CNT_SMP_CTRL samples (R788). -/
def isSampled (s : State) (k j : Nat) : Bool :=
  s.cnt.smpEnable && decide (k / 32 = s.cnt.smpWing) && s.cnt.smpCores.getLsbD (k % 32) && decide (j = s.cnt.smpCounter)

/-- An entry of the sample ring (R790). -/
def sampleEntry (k j handle pc : Nat) : BitVec 128 :=
  BitVec.ofNat 128 (pc % 2 ^ 64 + handle * 2 ^ 64 + k * 2 ^ 96 + j * 2 ^ 104)

/-- An instruction of a task retires on a core: samples of the six before it end, and the others have it as their last (R389, R390). -/
def noteRetired (k handle pc : Nat) (s : State) : State :=
  if ¬ s.cnt.smpEnable ∧ s.cnt.smpLive = [] then s
  else
    let live := s.cnt.smpLive.filterMap (fun x =>
      if x.core = k ∧ x.handle = handle then (if x.left ≤ 1 then none else some { x with left := x.left - 1, pc := pc }) else some x)
    { s with cnt := { s.cnt with smpLive := live, smpLast := Tbl.insert s.cnt.smpLast k pc } }

/-- The task of a core is switched out: its samples of the last six instructions carry the pc of the last it retired, and say so (R390). -/
def switchSamples (k : Nat) (s : State) : State :=
  let c := s.cnt
  let unread := fun (i : Nat) => decide ((i + 4096 - c.smpTail % 4096) % 4096 < (c.smpHead + 8192 - c.smpTail) % 8192)
  let fix := fun (t : Tbl (BitVec 128)) (x : SmpLive) =>
    if x.core = k ∧ unread x.entry then
      Tbl.put 0 t x.entry (BitVec.ofNat 128 (bitsSet ((Tbl.get 0 t x.entry).toNat / 2 ^ 64 * 2 ^ 64 + x.pc % 2 ^ 64) 107 107 1))
    else t
  if c.smpLive.all (fun x => decide (x.core ≠ k)) ∧ (Tbl.find c.smpLast k).isNone then s
  else { s with cnt := { c with ring := c.smpLive.foldl fix c.ring, smpLive := c.smpLive.filter (fun x => x.core ≠ k),
                                smpLast := Tbl.erase c.smpLast k } }

/-- Writes a sample to the ring, or sets OVERFLOW while it is full (R790). The sample raises source 1,082. A fault's instruction is not
retired (R386). -/
def putSample (k j handle pc : Nat) (s : State) : State :=
  let c := s.cnt
  if (c.smpHead + 8192 - c.smpTail) % 8192 = 4096 then { s with cnt := { c with smpOverflow := true } }
  else raise 1082 { s with cnt := { c with ring := Tbl.put 0 c.ring (c.smpHead % 4096) (sampleEntry k j handle pc)
                                           smpHead := (c.smpHead + 1) % 8192
                                           smpLive := c.smpLive ++ [{ core := k, handle := handle, entry := c.smpHead % 4096, left := 6,
                                                                      pc := if j = 4 then (Tbl.find c.smpLast k).getD pc else pc }] } }

/-- Core counter j of core k counts n for a task at an instruction, which is sampled when the counter reaches a threshold
(R386, R788, R789). The sample carries the pc of the instruction that crosses it, unless a switch-out changes it (R389, R390; log entry 30). -/
def cntCoreAt (k j n handle pc : Nat) (s : State) : State :=
  let before := Tbl.get 0 s.cnt.slots (512 + 6 * k + j)
  let s1 := cntCore k j n s
  let base := Tbl.get 0 s.cnt.smpBase k
  let since := fun (v : Nat) => (v + 2 ^ 64 - base) % 2 ^ 64
  if isSampled s k j ∧ since before / s.cnt.smpPeriod < (since before + n) / s.cnt.smpPeriod then putSample k j handle pc s1 else s1

/-- CNT_PORT p, j (R776). -/
def cntPort (p j n : Nat) (s : State) : State := count (4096 + 3 * p + j) n s

end Sys2Proof.Machine
end

