-- ==== Sys2Proof/Machine/Tasks.lean ====
section
/-! DEFINITION. The hardware task dispatcher: slots, ready lists, run and next slots, switches, posts, ends (chapter 9, R375 to R378). -/

namespace Sys2Proof.Machine

/-- Replaces a task. -/
def setTask (key : Nat) (t : Task) (s : State) : State :=
  { s with disp := { s.disp with tasks := Tbl.insert s.disp.tasks key t } }

/-- Applies a function to a task, if it lives. -/
def updTask (key : Nat) (f : Task → Task) (s : State) : State :=
  match getTask s key with
  | some t => setTask key (f t) s
  | none => s

/-- Replaces a pilot core. -/
def setCore (k : Nat) (c : Core) (s : State) : State :=
  { s with disp := { s.disp with cores := Tbl.put Core.empty s.disp.cores k c } }

/-- The function's freeze or restore keeps the task out of dispatch (R427, R670). -/
def keptOut (s : State) (t : Task) : Bool :=
  match fnMode s t.fn with
  | .frozen | .restoring => true
  | .freezing => t.kind = .thread
  | _ => false

/-- Replaces the ready list of a priority at a wing's dispatcher. -/
def setReady (w prio : Nat) (l : List Nat) (s : State) : State :=
  let d := getWing s w
  setWing w { d with ready := Tbl.put [] d.ready prio l } s

/-- The ready list of a priority. -/
def readyList (s : State) (w prio : Nat) : List Nat := Tbl.get [] (getWing s w).ready prio

/-- Takes a task off every ready list of a wing's dispatcher. -/
def unready (w key : Nat) (s : State) : State :=
  let d := getWing s w
  let r := (d.ready.map (fun e => (e.1, e.2.filter (· ≠ key)))).filter (fun e => e.2 ≠ [])
  setWing w { d with ready := r } s

/-- The task may run on core i of its serving wing (R419). -/
def mayRun (t : Task) (i : Nat) : Bool := t.affinity.getLsbD i

/-- The priority of the task in a core's run slot. -/
def runPrio (s : State) (k : Nat) : Option Nat :=
  match (getCore s k).run with
  | some key => (getTask s key).map (·.prio)
  | none => none

/-- The priority of the task staged for a core. -/
def nextPrio (s : State) (k : Nat) : Option Nat :=
  match (getCore s k).next with
  | some key => (getTask s key).map (·.prio)
  | none => none

/-- Marks a task Staged for a core; the task it replaces is Ready again at its old place in its list (R425). -/
def stage (k key : Nat) (s : State) : State :=
  let c := getCore s k
  let s1 := match c.next with
    | some old => updTask old (fun t => { t with state := .ready }) s
    | none => s
  let s2 := updTask key (fun t => { t with state := .staged, core := k }) s1
  setCore k { c with next := some key, nextLoaded := false } s2

/-- The first task, highest priority first and FIFO in a priority, that is Ready and may run on the core (R421). -/
def pickFor (s : State) (w i : Nat) : Option Nat :=
  ((List.range 8).flatMap (fun p => readyList s w p)).find? (fun key =>
    match getTask s key with
    | some t => t.state = .ready && mayRun t i
    | none => false)

/-- Loads the next slot of core i of wing w (R421). -/
def refill (w i : Nat) (s : State) : State :=
  match (getCore s (32 * w + i)).next with
  | some _ => s
  | none =>
    match pickFor s w i with
    | some key => stage (32 * w + i) key s
    | none => s

/-- The better of two preemption candidates: the numerically highest running priority, the lowest core (R422). -/
def betterCore (a b : Option (Nat × Nat)) : Option (Nat × Nat) :=
  match a, b with
  | some x, some y => if y.1 > x.1 then some y else some x
  | none, y => y
  | x, none => x

/-- Finds a core for a task that became Ready: an idle core, else the core running the lowest-ranking task below it, else a
next slot that is empty or holds a lower-ranking task (R421, R422, R425). -/
def place (w key : Nat) (s : State) : State :=
  match getTask s key with
  | none => s
  | some t =>
    let may := (List.range 32).filter (fun i => mayRun t i)
    match may.find? (fun i => (getCore s (32 * w + i)).run = none ∧ (getCore s (32 * w + i)).next = none) with
    | some i => stage (32 * w + i) key s
    | none =>
      let cand := may.map (fun i =>
        match runPrio s (32 * w + i), nextPrio s (32 * w + i) with
        | some rp, none => if t.prio < rp then some (rp, i) else none
        | some rp, some np => if t.prio < rp ∧ t.prio < np then some (rp, i) else none
        | _, _ => none)
      match cand.foldl betterCore none with
      | some (_, i) => stage (32 * w + i) key s
      | none =>
        match may.find? (fun i => (getCore s (32 * w + i)).next = none) with
        | some i => stage (32 * w + i) key s
        | none =>
          match (may.map (fun i => match nextPrio s (32 * w + i) with
            | some np => if t.prio < np then some (np, i) else none
            | none => none)).foldl betterCore none with
          | some (_, i) => stage (32 * w + i) key s
          | none => s

/-- Makes a task Ready at the head or the tail of its list, or Frozen while its function is frozen (R423, R427). -/
def makeReady (key : Nat) (head : Bool) (s : State) : State :=
  match getTask s key with
  | none => s
  | some t =>
    if keptOut s t then setTask key { t with state := .frozen } s
    else
      let w := servingWing s (key / 2048)
      let l := readyList s w t.prio
      place w key (setReady w t.prio (if head then key :: l else l ++ [key]) (setTask key { t with state := .ready } s))

/-- A frame of a task after its write-back (R338). -/
def cleanFrame (key : Nat) (f : HoldFrame) : HoldFrame := if f.task = key then { f with modified := false } else f

/-- What a task's page is held under in a core's store: code pages are shared among the tasks of a program slot (R336). -/
def frameOwner (s : State) (key page : Nat) : Nat :=
  match getTask s key with
  | some t => if page < 16 then 16384 + t.progSlot else key
  | none => key

/-- The pages of a task that a core holds. -/
def pagesOf (who : Nat → Nat → Nat) (c : Core) (key : Nat) : List Nat := (c.frames.filter (fun f => f.task = who key f.page)).map (·.page)

/-- Code frames are 16 and data frames 48; a full kind gives up a victim (R334, R335): the least recently used frame of a task
in neither slot, else the least recently used frame of the run-slot task, else of the next-slot task. -/
def victim (who : Nat → Nat → Nat) (c : Core) (fs : List HoldFrame) : List HoldFrame :=
  let of := fun (k : Option Nat) (f : HoldFrame) => decide (k.map (fun x => who x f.page) = some f.task)
  let pick := match fs.reverse.find? (fun f => !of c.run f && !of c.next f) with
    | some f => some f
    | none => match fs.reverse.find? (of c.run) with
      | some f => some f
      | none => fs.getLast?
  match pick with
  | some f => fs.filter (fun x => !(x.task = f.task && x.page = f.page))
  | none => fs

/-- Brings a page to the front of a core's frames, filling it when absent (R334). The flag says it was absent. -/
def touchPage (who : Nat → Nat → Nat) (key page : Nat) (wr : Bool) (c : Core) : Core × Bool :=
  let code := decide (page < 16)
  match c.frames.find? (fun f => f.task = who key page ∧ f.page = page) with
  | some f =>
    let rest := c.frames.filter (fun x => !(x.task = who key page && x.page = page))
    ({ c with frames := { f with modified := f.modified || wr } :: rest }, false)
  | none =>
    let same := c.frames.filter (fun f => decide (f.page < 16) == code)
    let others := c.frames.filter (fun f => decide (f.page < 16) != code)
    let room := if code then 16 else 48
    let kept := if same.length < room then same else victim who c same
    ({ c with frames := { task := who key page, page := page, modified := wr } :: (kept ++ others) }, true)

/-- Touches pages in turn; the flag says that some page was filled. -/
def touchPages (who : Nat → Nat → Nat) (key : Nat) : List (Nat × Bool) → Core → Core × Bool
  | [], c => (c, false)
  | (p, w) :: r, c =>
    let (c1, f1) := touchPage who key p w c
    let (c2, f2) := touchPages who key r c1
    (c2, f1 || f2)

/-- Takes the task out of a core's run slot: its time is counted, in the placement window from the window's
start on, and its pages are remembered (R376, R778, R218). -/
def switchOut (k : Nat) (s : State) : State :=
  let c := getCore s k
  match c.run with
  | none => s
  | some key =>
    match getTask s key with
    | none => setCore k { c with run := none } s
    | some t =>
      let ns := s.td17 - t.runStart
      let s1 := setTask key { t with lastCore := some k, lastPages := pagesOf (frameOwner s) c key } s
      let s2 := cntFnAdd t.fn 3 ns s1
      let s3 := { s2 with disp := { s2.disp with loadNow := Tbl.upd 0 s2.disp.loadNow (k / 32) (fun x => x + (s.td17 - max t.runStart s.disp.loadMark)) } }
      setCore k { c with run := none } (switchSamples k s3)

/-- Charter generation in force. -/
def chrGen (s : State) : Nat := s.chr.generation

/-- The staged task enters the run slot: it takes the charter generation, DISPATCH counts, and the pages it left on another core are written
back (R305, R338, R386). -/
def switchIn (k : Nat) (s : State) : State :=
  let c := getCore s k
  match c.run, c.next with
  | none, some key =>
    match getTask s key with
    | none => setCore k { c with next := none, nextLoaded := false } s
    | some t =>
      let wake := match t.wokenAt with | some n => s.td17 - n | none => 0
      let s0 := match t.lastCore with
        | some j =>
          if j = k then s
          else
            let cj := getCore s j
            setCore j { cj with frames := cj.frames.map (fun f => if f.task = key then { f with modified := false } else f) } s
        | none => s
      let s1 := setTask key { t with state := .running, core := k, gen := chrGen s, runStart := s.td17, wokenAt := none } s0
      let c1 := getCore s1 k
      let s2 := setCore k { c1 with run := some key, next := none, nextLoaded := false } s1
      let w := k / 32
      let s3 := unready w key s2
      let d := getWing s3 w
      let s4 := setWing w { d with wakeMax := max d.wakeMax (min wake (2 ^ 32 - 1)) } s3
      refill w (k % 32) (cntCoreAt k 3 1 (handleOf key t) t.regs.pc.toNat s4)
  | _, _ => s

/-- A core's run slot became free: the loaded next task runs, otherwise the next slot is filled (R421). -/
def runNext (k : Nat) (s : State) : State :=
  let c := getCore s k
  if c.nextLoaded then switchIn k s else refill (k / 32) (k % 32) s

/-- The frames of a core without those of some owners. -/
def dropFrames (owners : List Nat) (c : Core) : Core := { c with frames := c.frames.filter (fun f => !owners.contains f.task) }

/-- Drops a task's pages from every core, the code pages too when no other task of its program slot is on the wing (R336, R339). -/
def dropPages (key : Nat) (s : State) : State :=
  let code := frameOwner s key 0
  let shared := s.disp.tasks.any (fun e => decide (e.1 ≠ key ∧ e.1 / 2048 = key / 2048 ∧ frameOwner s e.1 0 = code))
  let gone := if shared then [key] else [key, code]
  let mine := fun (k : Nat) => decide (k / 32 = servingWing s (key / 2048))
  let cs := (s.disp.cores.map (fun e => (e.1, dropFrames (if mine e.1 then gone else [key]) e.2))).filter (fun e => e.2 ≠ Core.empty)
  { s with disp := { s.disp with cores := cs } }

/-- Ends a task: it leaves its core and the lists, its pages are dropped and its slot is free (R339, R416, R420). -/
def endTask (key : Nat) (s : State) : State :=
  match getTask s key with
  | none => s
  | some t =>
    let k := t.core
    let s1 := if t.state = .running then switchOut k s else s
    let s2 := if t.state = .staged then
        let c := getCore s1 k
        setCore k { c with next := none, nextLoaded := false } s1
      else s1
    let s3 := unready (servingWing s2 (key / 2048)) key s2
    let s3 := dropPages key s3
    let s4 := { s3 with disp := { s3.disp with tasks := Tbl.erase s3.disp.tasks key } }
    let d := getWing s4 (key / 2048)
    let s5 := setWing (key / 2048) { d with slotsFree := d.slotsFree + 1, slotsLive := d.slotsLive - 1 } s4
    if t.state = .running then runNext k s5 else if t.state = .staged then refill (k / 32) (k % 32) s5 else s5

/-- The lowest free slot of a wing's table. -/
def freeSlot (s : State) (w : Nat) : Option Nat :=
  (List.range 2048).find? (fun i => (Tbl.find s.disp.tasks (2048 * w + i)).isNone)

/-- The incarnation after one (R415). -/
def nextIncarn (n : Nat) : Nat := if n = 65535 then 1 else n + 1

/-- Creates a task in a given free slot: next incarnation, ledger, Ready (R415, R419, R420). -/
def createAt (key : Nat) (t : Task) (s : State) : State :=
  let inc := nextIncarn (Tbl.get 0 s.disp.incarn key)
  let w := key / 2048
  let d := getWing s w
  let s1 := setWing w { d with slotsFree := d.slotsFree - 1, slotsLive := d.slotsLive + 1 } s
  let s2 := { s1 with disp := { s1.disp with incarn := Tbl.put 0 s1.disp.incarn key inc } }
  makeReady key false (setTask key { t with incarn := inc } s2)

/-- The flags satisfy a WAIT's mask and mode (R404). -/
def waitMet (flags mask : BitVec 32) (all : Bool) : Bool :=
  if all then flags &&& mask = mask else flags &&& mask ≠ 0

/-- ORs flags into a task; a Waiting task whose wait they satisfy becomes Ready (R429, R430). -/
def applyFlags (key : Nat) (mask : BitVec 32) (s : State) : State :=
  match getTask s key with
  | none => s
  | some t =>
    let t1 := { t with flags := t.flags ||| mask }
    if t.state = .waiting ∧ waitMet t1.flags t.waitMask t.waitAll then
      makeReady key false (setTask key { t1 with wokenAt := some s.td17 } s)
    else setTask key t1 s

/-- Tasks Stalled on a wing's post queue. -/
def stalledOn (s : State) (w : Nat) : List Nat :=
  (s.disp.tasks.filter (fun e => e.2.state = .stalled ∧ e.2.stallWing = w)).map (·.1)

/-- A running task blocks: the core switches (R405, R408). -/
def blockTask (key : Nat) (st : TaskState) (f : Task → Task) (s : State) : State :=
  match getTask s key with
  | none => s
  | some t =>
    let s1 := switchOut t.core s
    runNext t.core (updTask key (fun t => { f t with state := st }) s1)

/-- Switches a running task out and makes it Ready again, at the head or tail of its list. -/
def yieldCore (k : Nat) (head : Bool) (s : State) : State :=
  match (getCore s k).run with
  | none => s
  | some key =>
    let s1 := switchOut k s
    let c := getCore s1 k
    let s2 := if c.nextLoaded then switchIn k s1 else s1
    makeReady key head s2

/-- The core of a task's next slot fills up to 16 of the pages that the task had when it last ran there (R337). -/
def fillNext (who : Nat → Nat → Nat) (k key : Nat) (t : Option Task) (c : Core) : Core :=
  match t with
  | some t => if t.lastCore = some k then
      (touchPages who key ((((t.lastPages.filter (fun p => !(pagesOf who c key).contains p)).take 16).reverse).map (fun p => (p, false))) c).1 else c
  | none => c

/-- The next slot of a core is loaded: the core switches when its run slot is empty or holds a lower-ranking task
(R337, R375, R421, R422). -/
def nextLoadedAt (k : Nat) (s : State) : State :=
  let c := getCore s k
  match c.next with
  | none => refill (k / 32) (k % 32) s
  | some key =>
    let s1 := setCore k { fillNext (frameOwner s) k key (getTask s key) c with nextLoaded := true } s
    match c.run, getTask s key with
    | none, _ => switchIn k s1
    | some r, some t =>
      match getTask s r with
      | some tr => if t.prio < tr.prio then yieldCore k true s1 else s1
      | none => s1
    | _, none => s1

end Sys2Proof.Machine
end

