-- ==== Sys2Proof/Machine/Complete.lean ====
section
/-! DEFINITION. Statuses, completions and asynchronous events (R43, R537, R547, R566, R587, R914). -/

namespace Sys2Proof.Machine

/-- The statuses of R914 that come back with DNR cleared. -/
def dnrClear (sct sc : Nat) : Bool :=
  (sct = 0 ∧ (sc = 0x00 ∨ sc = 0x04 ∨ sc = 0x06 ∨ sc = 0x07 ∨ sc = 0x08 ∨ sc = 0x1D ∨ sc = 0x24 ∨ sc = 0x82 ∨ sc = 0x84)) ∨
  (sct = 1 ∧ sc = 0x03) ∨ (sct = 3 ∧ (sc = 0x02 ∨ sc = 0x03)) ∨ (sct = 7 ∧ sc = 0xC3)

/-- A status with the DNR that R914 gives it. -/
def mkStatus (sct sc : Nat) : Status := { sct := sct, sc := sc, dnr := !dnrClear sct sc }

/-- Successful Completion. -/
def stOk : Status := mkStatus 0 0x00
/-- Invalid Command Opcode. -/
def stOpcode : Status := mkStatus 0 0x01
/-- Invalid Field in Command. -/
def stField : Status := mkStatus 0 0x02
/-- Data Transfer Error. -/
def stTransfer : Status := mkStatus 0 0x04
/-- Internal Error with DNR cleared (R914). -/
def stInternal : Status := mkStatus 0 0x06
/-- Internal Error with DNR set (R296). -/
def stInternalDnr : Status := { sct := 0, sc := 0x06, dnr := true }
/-- Command Abort Requested. -/
def stAborted : Status := mkStatus 0 0x07
/-- Command Aborted due to SQ Deletion. -/
def stSqDeleted : Status := mkStatus 0 0x08
/-- Invalid Namespace or Format. -/
def stNamespace : Status := mkStatus 0 0x0B
/-- Command Sequence Error. -/
def stSequence : Status := mkStatus 0 0x0C
/-- Data SGL Length Invalid. -/
def stSglLength : Status := mkStatus 0 0x0F
/-- SGL Descriptor Type Invalid. -/
def stSglType : Status := mkStatus 0 0x11
/-- Sanitize Failed. -/
def stSanFailed : Status := mkStatus 0 0x1C
/-- Sanitize In Progress. -/
def stSanitize : Status := mkStatus 0 0x1D
/-- Admin Command Media Not Ready. -/
def stMediaNotReady : Status := mkStatus 0 0x24
/-- LBA Out of Range. -/
def stRange : Status := mkStatus 0 0x80
/-- Namespace Not Ready. -/
def stNotReady : Status := mkStatus 0 0x82
/-- Charter Denied (R547). -/
def stDenied : Status := mkStatus 7 0xC2
/-- Output Truncated (R547). -/
def stTruncated : Status := mkStatus 7 0xC0
/-- Engine Busy (R547). -/
def stBusy : Status := mkStatus 7 0xC3
/-- Version Untested (R547). -/
def stUntested : Status := mkStatus 7 0xC8
/-- Quiesce Required (R547). -/
def stQuiesce : Status := mkStatus 7 0xC9
/-- Module Extinguished at a lone module (R44). -/
def stExtinguished : Status := mkStatus 7 0xCA
/-- Module Extinguished at a caravan station, DNR cleared (R46). -/
def stExtinguishedStation : Status := { sct := 7, sc := 0xCA, dnr := false }
/-- Unrecovered Read Error. -/
def stUnrecovered : Status := mkStatus 2 0x81
/-- Compare Failure. -/
def stCompare : Status := mkStatus 2 0x85

/-- Advances a completion queue by one entry (tail and phase). -/
def cqPush (q : ComplQ) : ComplQ :=
  if q.tail + 1 < q.size then { q with tail := q.tail + 1 } else { q with tail := 0, phase := !q.phase }

/-- Posts a completion entry on its completion queue, or keeps it for the return to D0 or the end of the ember flush, or drops it where it
cannot be delivered (R163, R506, R507, R588). -/
def postCpl (c : Completion) (s : State) : State :=
  let ct := getCtrl s c.cmd.fn
  if !ct.en || !s.host.linkUp then s
  else if ct.d3 || s.med.flush.isSome then { s with host := { s.host with deferred := s.host.deferred ++ [c] } }
  else
    let s1 := { s with host := { s.host with completions := s.host.completions ++ [c] } }
    let cqid := if c.cmd.sq = 0 then 0 else (Tbl.find ct.sqs c.cmd.sq).elim 0 (·.cq)
    match Tbl.find ct.cqs cqid with
    | none => s1
    | some q =>
      let s2 := setCtrl c.cmd.fn { ct with cqs := Tbl.insert ct.cqs cqid (cqPush q) } s1
      if q.ien then sendMsix c.cmd.fn q.vector s2 else s2

/-- Posts what was kept of a function that has returned to D0, or of all once the ember flush has ended (R163, R506). -/
def postDeferred (mine : Completion → Bool) (s : State) : State :=
  (s.host.deferred.filter mine).foldl (fun s d => postCpl d s)
    { s with host := { s.host with deferred := s.host.deferred.filter (fun d => !mine d) } }

/-- The outstanding command a reference names. -/
def findCmd (s : State) (r : CmdRef) : Option OutCmd := s.host.out.find? (fun c => c.cmd = r)

/-- Replaces an outstanding command. -/
def updCmd (r : CmdRef) (f : OutCmd → OutCmd) (s : State) : State :=
  { s with host := { s.host with out := s.host.out.map (fun c => if c.cmd = r then f c else c) } }

/-- Outstanding commands of a function. -/
def cmdsOf (s : State) (fn : Nat) : List OutCmd := s.host.out.filter (fun c => c.cmd.fn = fn)

/-- The queue number of commands that came over MCTP; they are answered there (R553). -/
def miQueue : Nat := 2 ^ 16

/-- A message to the requester over SMBus or MCTP. -/
def miSend (b : List Byte) (s : State) : State := { s with host := { s.host with miOut := s.host.miOut ++ [b] } }

/-- The answer to a tunnelled admin command: success of the MI message, then completion dwords 0, 1 and 3, then data (log entry 23). -/
def miReply (st : Status) (dw0 dw1 : Nat) (data : List Byte) : List Byte :=
  leBytes 4 0 ++ leBytes 4 dw0 ++ leBytes 4 dw1 ++ leBytes 4 (2 ^ 17 * (st.sc + 256 * st.sct + 2 ^ 14 * b2n st.dnr)) ++ data

/-- Removes a command and posts its completion; a silent command posts none (R588). Commands are counted (R778). -/
def completeCore (r : CmdRef) (st : Status) (dw0 dw1 : Nat) (data : List Byte) (s : State) : State :=
  match findCmd s r with
  | none => s
  | some c =>
    let life := if st.sct = 2 ∧ st.sc = 0x81 then
        { s.host.life with integrityErrors := satAdd max64 s.host.life.integrityErrors 1 } else s.host.life
    let s1 := { s with host := { s.host with out := s.host.out.filter (fun x => x.cmd ≠ r), life := life } }
    if c.silent then s1
    else if r.sq = miQueue then miSend (miReply st dw0 dw1 data) s1
    else
      let s2 := cntFnAdd r.fn 0 1 (cntMod 0 1 s1)
      postCpl { cmd := r, status := st, dw0 := dw0, dw1 := dw1, data := data } s2

/-- Opcode of Execute Program in the model's table of opcodes (log entry 21). -/
def opExecute : Nat := 0x01

/-- The namespace identifier of the compute namespace (R523). -/
def computeNsid : Nat := 1025

/-- The command is an Execute Program. -/
def isExecute (c : OutCmd) : Bool := !c.admin && decide (c.sqe.nsid = computeNsid) && decide (c.sqe.opc = opExecute)

/-- An Asynchronous Event Request: held until an event, it does not count as work of its function (log entry 73). -/
def isEventRequest (c : OutCmd) : Bool := c.admin && decide (c.sqe.opc = 0x0C)

/-- A function's Quiesce or Freeze has nothing left to wait for (R673, R677). -/
def fnSettled (s : State) (fn : Nat) (freeze : Bool) : Bool :=
  if freeze then
    (cmdsOf s fn).all (fun c => isExecute c || isEventRequest c) && s.prog.legs.all (fun l => l.fn ≠ fn) &&
      s.disp.tasks.all (fun e => e.2.fn ≠ fn ∨ e.2.state = .frozen)
  else (cmdsOf s fn).all isEventRequest

/-- Completes a Quiesce or Freeze whose wait is over (R673, R677). -/
def settleFn (fn : Nat) (s : State) : State :=
  match Tbl.find s.chr.fnWait fn with
  | none => s
  | some w =>
    if fnSettled s fn w.freeze then
      let s1 := { s with chr := { s.chr with
        fnWait := Tbl.erase s.chr.fnWait fn
        fnMode := Tbl.put .running s.chr.fnMode fn (if w.freeze then .frozen else .quiesced)
        freezeGen := if w.freeze then Tbl.insert s.chr.freezeGen fn s.chr.generation else s.chr.freezeGen
        freezeStamp := if w.freeze then Tbl.insert s.chr.freezeStamp fn s.td17 else s.chr.freezeStamp } }
      completeCore w.cmd stOk 0 0 [] s1
    else s

/-- Completes a Delete I/O Submission Queue when every command of the queue has completed, and removes the queue (R915). -/
def settleSq (fn sq : Nat) (s : State) : State :=
  let ct := getCtrl s fn
  match Tbl.find ct.sqs sq with
  | none => s
  | some q =>
    match q.deleting with
    | none => s
    | some r =>
      if (cmdsOf s fn).any (fun c => c.cmd.sq = sq) ∨ q.head ≠ q.tail then s
      else completeCore r stOk 0 0 [] (setCtrl fn { ct with sqs := Tbl.erase ct.sqs sq } s)

/-- Completes a command, and then what waited on it (R566, R673, R677, R915). -/
def completeCmd (r : CmdRef) (st : Status) (dw0 dw1 : Nat) (data : List Byte) (s : State) : State :=
  settleFn r.fn (settleSq r.fn r.sq (completeCore r st dw0 dw1 data s))

/-- The type of an event, and the log page that clears it, from its completion dword 0. -/
def evType (code : Nat) : Nat := code % 8
def evPage (code : Nat) : Nat := bitsOf code 23 16

/-- Reports events that wait while requests are held: the first whose type is not masked, which masks its type until its log page is
read. -/
def deliverEvents (fn : Nat) : Nat → State → State
  | 0, s => s
  | n + 1, s =>
    let c := getCtrl s fn
    match c.aers, c.aenPending.find? (fun e => !(c.aenMasked.any (fun m => evType m = evType e))) with
    | r :: rest, some e =>
      let s1 := setCtrl fn { c with aers := rest, aenPending := c.aenPending.erase e, aenMasked := c.aenMasked ++ [e] } s
      deliverEvents fn n (completeCmd r stOk e 0 [] s1)
    | _, _ => s

/-- An asynchronous event for one controller: it waits until a request is held and its type is not masked. -/
def asyncEventFn (fn code : Nat) (s : State) : State :=
  let c := getCtrl s fn
  if !c.en then s
  else deliverEvents fn 16 (if c.aenPending.contains code then s else setCtrl fn { c with aenPending := c.aenPending ++ [code] } s)

/-- Controllers that are enabled. -/
def liveCtrls (s : State) : List Nat := (s.host.ctrls.filter (fun e => e.2.en)).map (·.1)

/-- The Asynchronous Event Configuration of a controller: its reset value enables Critical Warning bits 0, 1, 2 and 4 (R537). -/
def aenConfig (s : State) (fn : Nat) : Nat := Tbl.get 0x17 (getCtrl s fn).features (0x0B * 2 ^ 16)

/-- An asynchronous event for every enabled controller whose configuration has bit `bit` set (R537). -/
def asyncEventAll (bit code : Nat) (s : State) : State :=
  (liveCtrls s).foldl (fun s f => if bitOf (aenConfig s f) bit then asyncEventFn f code s else s) s

/-- The vendor-specific events 0xC0 and 0xC1: they complete the oldest request held by the PF, which alone reads the pages; with no
request held they are not kept (R537, R543). -/
def asyncVendor (info : Nat) (s : State) : State :=
  let c := getCtrl s 0
  match c.aers with
  | [] => s
  | r :: rest => completeCmd r stOk (7 + info * 2 ^ 8 + (if info = 0xC0 then 0xCB else 0xC8) * 2 ^ 16) 0 [] (setCtrl 0 { c with aers := rest } s)

/-- Notices of OAES: Namespace Attribute (for a controller), Firmware Activation, ANA Change (R521, R537). -/
def noticeNs (fn nsid : Nat) (s : State) : State :=
  let c := getCtrl s fn
  let s1 := if c.changedNs.contains nsid then s else setCtrl fn { c with changedNs := c.changedNs ++ [nsid] } s
  if bitOf (aenConfig s fn) 8 then asyncEventFn fn (2 + 0x04 * 2 ^ 16) s1 else s1
def noticeFirmware (s : State) : State := asyncEventAll 9 (2 + 1 * 2 ^ 8 + 0x03 * 2 ^ 16) s
def noticeAna (s : State) : State := asyncEventAll 11 (2 + 3 * 2 ^ 8 + 0x0C * 2 ^ 16) s

/-- Sets or clears a Critical Warning bit: a change asserts SMB_ALERT#, a bit newly set is an asynchronous event (R535, R537, R554). -/
def setCritWarn (bit : Nat) (v : Bool) (s : State) : State :=
  if s.host.critWarn.getLsbD bit = v then s
  else
    let w := if v then s.host.critWarn ||| (1#8 <<< bit) else s.host.critWarn &&& ~~~(1#8 <<< bit)
    let s1 := { s with host := { s.host with critWarn := w, smbAlert := true } }
    let info := if bit = 1 then 1 else if bit = 0 then 2 else 0
    if v then asyncEventAll bit (1 + info * 2 ^ 8 + 0x02 * 2 ^ 16) s1 else s1

end Sys2Proof.Machine
end

