-- ==== Sys2Proof/Machine/Charter.lean ====
section
/-! DEFINITION. Rights of the charter table (R655 to R660) and what a denial records. -/

namespace Sys2Proof.Machine

/-- A little-endian field of a function's active charter entry (R655). -/
def chrField (s : State) (f off n : Nat) : Nat := leNat (Memory.readBytes s.chr.active (256 * f + off) n)

/-- The function's entry is enabled (R656). -/
def chrEnabled (s : State) (f : Nat) : Bool := bitOf (chrField s f 0 1) 0

/-- A FLAGS right: 1 LOAD, 2 SLM, 3 HINT, 4 CNT_OWN, 5 CNT_ALL. -/
def chrFlag (s : State) (f bit : Nat) : Bool := chrEnabled s f && bitOf (chrField s f 0 1) bit

/-- Thread priority and priority floor (R418). -/
def chrPrio (s : State) (f : Nat) : Nat := chrField s f 1 1 % 8
def chrFloor (s : State) (f : Nat) : Nat := (chrField s f 1 1 / 16) % 8

/-- THREAD_MAX, 0 for no limit (R660). -/
def chrThreadMax (s : State) (f : Nat) : Nat := chrField s f 2 2

/-- Door n is granted (R304). -/
def chrDoor (s : State) (f n : Nat) : Bool := chrEnabled s f && bitOf (chrField s f 4 4) n

/-- Execution of program slot n is granted (R657). -/
def chrExec (s : State) (f n : Nat) : Bool := chrEnabled s f && bitOf (chrField s f 8 8) n

/-- Search and update of beacon table t (R471). -/
def chrSearch (s : State) (f t : Nat) : Bool := chrEnabled s f && bitOf (chrField s f 16 2) t
def chrUpdate (s : State) (f t : Nat) : Bool := chrEnabled s f && bitOf (chrField s f 18 2) t

/-- Use of key slot n (R658). -/
def chrKey (s : State) (f n : Nat) : Bool := chrEnabled s f && bitOf (chrField s f 24 8) n

/-- A post right that names a function (R438, R655). -/
def chrPost (s : State) (f target : Nat) : Bool :=
  chrEnabled s f && (List.range 8).any (fun i =>
    let v := chrField s f (32 + 2 * i) 2
    v = target || v = 0xFFFE)

/-- Scan of a namespace (R658). -/
def chrScan (s : State) (f nsid : Nat) : Bool :=
  chrEnabled s f && (List.range 16).any (fun i =>
    let v := chrField s f (64 + 4 * i) 4
    v ≠ 0 && (v = nsid || v = 0xFFFFFFFF))

/-- The counter right of RDCNT n (R658). -/
def chrCounter (s : State) (f n : Nat) : Bool := if n ≤ 5 then chrFlag s f 4 || chrFlag s f 5 else chrFlag s f 5

/-- Records a denial: CHT_DENY, and event source 1,079 when DENIED becomes set (R792). Kinds by CHT_DENY.KIND. -/
def denied (f kind : Nat) (s : State) : State :=
  let s1 := { s with chr := { s.chr with denied := true, denyFn := f, denyKind := kind } }
  if s.chr.denied then s1 else raise 1079 s1

/-- A partly received state image is discarded, and its function returns to its prior state (R683, R686, R688). -/
def dropImage (s : State) : State :=
  match s.chr.restore with
  | some i => { s with chr := { s.chr with restore := none, fnMode := Tbl.put .running s.chr.fnMode i.fn i.prior } }
  | none => s

/-- The manager role ends (R653, R688). -/
def roleEnds (s : State) : State := dropImage { s with chr := { s.chr with mgrHeld := false } }

/-- A thread priority raised to the floor (R418). -/
def floorPrio (s : State) (f p : Nat) : Nat := max p (chrFloor s f)

end Sys2Proof.Machine
end

