-- ==== Sys2Proof/Machine/Space.lean ====
section
/-! DEFINITION. The program address space: regions, reach, and the bytes behind an address (R330 to R333, R346 to R349). -/

namespace Sys2Proof.Machine

/-- Where a program address lies (R330). -/
inductive Region where
  | none
  | code (off : Nat)
  | data (off : Nat)
  | door (n off : Nat)
  | slm (off : Nat)
  | staging (off : Nat)
deriving DecidableEq, Repr

/-- The region of an address (R330). -/
def regionOf (a : Nat) : Region :=
  if 0x10000 ≤ a ∧ a < 0x20000 then .code (a - 0x10000)
  else if 0x20000 ≤ a ∧ a < 0x50000 then .data (a - 0x20000)
  else if 0x100000 ≤ a ∧ a < 0x120000 then .door ((a - 0x100000) / 0x1000) ((a - 0x100000) % 0x1000)
  else if 0x100000000 ≤ a ∧ a < 0x300000000 then .slm (a - 0x100000000)
  else if 0x300000000 ≤ a ∧ a < 0x308000000 then .staging (a - 0x300000000)
  else .none

/-- A run of bytes lies within one of the ranges. -/
def inRanges (rs : List (Nat × Nat)) (off n : Nat) : Bool := rs.any (fun r => decide (r.1 ≤ off ∧ off + n ≤ r.1 + r.2))

/-- Every byte of a run lies within some range: the run is covered piece by piece, at most one piece a range. -/
def coveredBy : Nat → List (Nat × Nat) → Nat → Nat → Bool
  | _, _, _, 0 => true
  | 0, _, _, _ + 1 => false
  | fuel + 1, rs, off, n + 1 =>
    match rs.find? (fun r => decide (r.1 ≤ off ∧ off < r.1 + r.2)) with
    | some r => coveredBy fuel rs (r.1 + r.2) (n + 1 - (r.1 + r.2 - off))
    | none => false

/-- The task may read, or write, `n` bytes at an address outside the doors (R330 to R332). -/
def mayAccess (t : Task) (a n : Nat) (wr : Bool) : Bool :=
  match regionOf a with
  | .none => false
  | .code off => !wr && decide (off + n ≤ 0x10000)
  | .data off => decide (off + n ≤ 0x30000)
  | .door _ _ => false
  | .slm off => coveredBy 17 t.ranges off n
  | .staging off => inRanges t.held off n

/-- Staging of a wing's pool starts here in the staging memory (R313). -/
def poolBase (wing : Nat) : Nat := wing * 2 ^ 27

/-- `n` bytes behind an address, for a task under a key whose staging pool is that of its table's wing. -/
def readSpace (s : State) (key : Nat) (t : Task) (a n : Nat) : List Byte :=
  match regionOf a with
  | .code off => Memory.readBytes t.code off n
  | .data off => Memory.readBytes t.data off n
  | .slm off => Memory.readBytes s.prog.slm off n
  | .staging off => Memory.readBytes s.prog.staging (poolBase (key / 2048) + off) n
  | _ => List.replicate n 0

/-- Writes bytes at a place in a list. -/
def spliceAt (l : List Byte) (off : Nat) (b : List Byte) : List Byte := l.take off ++ b ++ l.drop (off + b.length)

/-- The offset that a channel decodes for an offset: the reserve page in use (R767). -/
def physOff (c : DramCh) (off : Nat) : Nat :=
  match Tbl.find c.remap (off / 4096) with
  | some r => r.target * 4096 + off % 4096
  | none => off

/-- The offset whose content lies at a physical offset. -/
def contentOff (c : DramCh) (p : Nat) : Nat :=
  match c.remap.find? (fun e => e.2.target = p / 4096) with
  | some e => e.1 * 4096 + p % 4096
  | none => p

/-- SLM offsets of the poisoned lines of a wing (R278, R747, R758). -/
def slmBadOf (s : State) (w : Nat) : List Nat :=
  (((getDram s w).poison.map (contentOff (getDram s w))).filter (fun a => a < 2 ^ 30)).map (fun a => 2 ^ 30 * w + a)

/-- SLM offsets of the poisoned lines that a run of bytes touches. -/
def slmBad (s : State) (off n : Nat) : List Nat :=
  ((List.range 8).flatMap (slmBadOf s)).filter (fun a => a < off + n ∧ off < a + 64)

/-- A run of SLM bytes touches a poisoned line. -/
def slmPoisoned (s : State) (off n : Nat) : Bool := !(slmBad s off n).isEmpty

/-- One poisoned line under a store: a whole-line store clears the poison, a narrower one does not apply (R753, R758). -/
def slmBadLine (off : Nat) (s : State) (x : List Byte) (a : Nat) : State × List Byte :=
  if off ≤ a ∧ a + 64 ≤ off + x.length then
    let w := a / 2 ^ 30
    let c := getDram s w
    (setDram w { c with poison := c.poison.filter (· ≠ physOff c (a % 2 ^ 30)) } s, x)
  else
    let lo := max a off
    let hi := min (a + 64) (off + x.length)
    (s, spliceAt x (lo - off) (Memory.readBytes s.prog.slm lo (hi - lo)))

/-- Stores bytes in the SLM namespace. -/
def slmWrite (off : Nat) (bs : List Byte) (s : State) : State :=
  let r := (slmBad s off bs.length).foldl (fun (a : State × List Byte) l => slmBadLine off a.1 a.2 l) (s, bs)
  let s1 := { r.1 with prog := { r.1.prog with slm := Memory.writeBytes r.1.prog.slm off r.2 } }
  (runPages off bs.length).foldl (fun s p => writePage (p / 2 ^ 18) (p % 2 ^ 18) s) s1

/-- Stores bytes in a wing's staging pool (R313). -/
def stagingWrite (pool off : Nat) (b : List Byte) (s : State) : State :=
  touchRun pool (0x80000000 + off) b.length { s with prog := { s.prog with staging := Memory.writeBytes s.prog.staging (poolBase pool + off) b } }

/-- A task's read of `n` bytes meets a poisoned line of SLM (R761). -/
def readPoisoned (s : State) (a n : Nat) : Bool :=
  match regionOf a with
  | .slm off => slmPoisoned s off n
  | _ => false

/-- Stores bytes behind an address. -/
def writeSpace (key : Nat) (a : Nat) (bs : List Byte) (s : State) : State :=
  match regionOf a with
  | .data off => updTask key (fun t => { t with data := Memory.writeBytes t.data off bs }) s
  | .slm off => slmWrite off bs s
  | .staging off => stagingWrite (key / 2048) off bs s
  | _ => s

/-- The address lies in the wing window (R330). -/
def inWingWindow (a : Nat) : Bool :=
  match regionOf a with
  | .slm _ => true
  | .staging _ => true
  | _ => false

/-- One step of CRC-32C (Castagnoli, reflected). -/
def crcBit (c : BitVec 32) : BitVec 32 := if c.getLsbD 0 then (c >>> 1) ^^^ 0x82F63B78#32 else c >>> 1

/-- A byte into the running CRC. -/
def crcByte (c : BitVec 32) (b : Byte) : BitVec 32 :=
  let x := c ^^^ b.setWidth 32
  crcBit (crcBit (crcBit (crcBit (crcBit (crcBit (crcBit (crcBit x)))))))

/-- CRC-32C of bytes: initial value and final exclusive-or 0xFFFF_FFFF (R245). -/
def crc32c (bs : List Byte) : Nat := ((bs.foldl crcByte 0xFFFFFFFF#32) ^^^ 0xFFFFFFFF#32).toNat

/-- Bytes with a run of them taken as zero. -/
def zeroRun (bs : List Byte) (off n : Nat) : List Byte := bs.take off ++ List.replicate n 0 ++ bs.drop (off + n)

/-- All bytes of a run are zero. -/
def zeros (bs : List Byte) (off n : Nat) : Bool := ((bs.drop off).take n).all (· = 0)

/-- The hold image at a task's start: code, then initialised data with zeros after it (R292, R333). -/
def holdCode (img : List Byte) : Memory := Memory.writeBytes [] 0 ((img.drop 256).take (imgCodeLen img))
def holdData (img : List Byte) : Memory := Memory.writeBytes [] 0 ((img.drop (256 + imgCodeLen img)).take (imgDataLen img))

/-- The top of the stack (R333). -/
def stackTop (img : List Byte) : Nat := 0x20000 + imgDataLen img + imgBssLen img + imgStackLen img

end Sys2Proof.Machine
end

