-- ==== Sys2Proof/Machine/Seal.lean ====
section
/-! DEFINITION. The seal engine, the digest engine and the key slots (chapter 16). A requester is a context: 0 for the PF, task key
plus 1 for a task. -/

namespace Sys2Proof.Machine

/-- The task of a context. -/
def ctxTask (s : State) (ctx : Nat) : Option Task := if ctx = 0 then none else getTask s (ctx - 1)

/-- Function and task handle of a context. -/
def ctxFn (s : State) (ctx : Nat) : Nat := match ctxTask s ctx with | some t => t.fn | none => 0
def ctxHandle (s : State) (ctx : Nat) : Nat := match ctxTask s ctx with | some t => handleOf (ctx - 1) t | none => 0

/-- The requester may reach `n` bytes at an address: a task by R330 to R332, the PF by offset in the station's SLM (R728). -/
def ctxReach (s : State) (ctx a n : Nat) (wr : Bool) : Bool :=
  if n = 0 then true
  else match ctxTask s ctx with
    | some t => mayAccess t a n wr
    | none => decide (a + n ≤ 2 ^ 33)

/-- Reads and writes bytes for a requester. -/
def ctxRead (s : State) (ctx a n : Nat) : List Byte :=
  match ctxTask s ctx with
  | some t => readSpace s (ctx - 1) t a n
  | none => Memory.readBytes s.prog.slm a n
def ctxWrite (ctx a : Nat) (bs : List Byte) (s : State) : State :=
  match ctxTask s ctx with
  | some _ => writeSpace (ctx - 1) a bs s
  | none => slmWrite a bs s

/-! Key slots (R699 to R708). -/

/-- Stores a key in a slot under a new epoch; the ledger moves with it (R702, R703). -/
def slotLoad (n : Nat) (key : List Byte) (kind : KeyKind) (fixed : Nat) (label : List Byte) (gen : Nat) (s : State) : State :=
  let c := s.sec
  let wasFree := (Tbl.find c.slots n).isNone
  raise 1067 { s with sec := { c with
    slots := Tbl.insert c.slots n { key := key, kind := kind, fixed := fixed, epoch := c.epoch + 1, used := 0, label := label, gen := gen }
    epoch := c.epoch + 1
    free := if wasFree then c.free - 1 else c.free
    loaded := if wasFree then c.loaded + 1 else c.loaded } }

/-- KEY_CMD ends: its code is shown and KEY_DATA is zeroed (R700). -/
def keyDone (code : Nat) (s : State) : State :=
  { s with sec := { s.sec with code := code, data := List.replicate 5 0 } }

/-- KEY_DATA as bytes in address order. -/
def keyDataBytes (s : State) : List Byte := s.sec.data.flatMap (leBytes 8)

/-- Why a load into a slot is refused, whatever its kind: in use, or epochs used up (R705, R706). -/
def loadRefusal (s : State) (n : Nat) : Option Nat :=
  if slotInUse s n then some 0xC3 else if 2 ^ 32 - 1 ≤ s.sec.epoch then some 0xC4 else none

/-- KEY_CMD DERIVE (R690, R700, R701). -/
def keyDerive (n fixed : Nat) (s : State) : State :=
  let label := (keyDataBytes s).take 32
  let gen := listGet 0 s.sec.data 4
  if label.headD 0 = 0 then keyDone 0x06 s
  else match loadRefusal s n, s.sec.root with
    | some c, _ => keyDone c s
    | none, none => keyDone 0x06 s
    | none, some root => keyDone 0x00 (slotLoad n (kdf root label gen 256) .derive fixed label gen s)

/-- KEY_CMD UNWRAP (R700). -/
def keyUnwrapCmd (n kek fixed : Nat) (s : State) : State :=
  match keySlot s kek with
  | none => keyDone 0x05 s
  | some k =>
    match loadRefusal s n with
    | some c => keyDone c s
    | none =>
      match keyUnwrap k.key (keyDataBytes s) with
      | none => keyDone 0xC6 s
      | some key => if key.length = 32 then keyDone 0x00 (slotLoad n key .unwrap fixed [] 0 s) else keyDone 0x06 s

/-- KEY_CMD CLEAR (R700). -/
def keyClear (n fixed : Nat) (s : State) : State :=
  match loadRefusal s n with
  | some c => keyDone c s
  | none => keyDone 0x00 (slotLoad n ((keyDataBytes s).take 32) .clear fixed [] 0 s)

/-- KEY_CMD UNLOAD (R699, R706). -/
def keyUnload (n : Nat) (s : State) : State :=
  match keySlot s n with
  | none => keyDone 0x05 s
  | some _ =>
    if slotInUse s n then keyDone 0xC3 s
    else keyDone 0x00 (raise 1067 { s with sec := { s.sec with slots := Tbl.erase s.sec.slots n, free := s.sec.free + 1,
                                                               loaded := s.sec.loaded - 1 } })

/-! Ownership (R709 to R712). -/

/-- The seal engine's state replaced, and a count of SEAL_COUNT raised. -/
def setSeal (e : SealState) (s : State) : State := { s with sec := { s.sec with sealEng := e } }
def sealCount (i : Nat) (s : State) : State :=
  setSeal { s.sec.sealEng with counts := Tbl.upd 0 s.sec.sealEng.counts i (fun v => satAdd (2 ^ 32 - 1) v 1) } s

/-- The mode is authenticated: GCM, CCM, CMAC. -/
def authMode (m : Nat) : Bool := decide (m = 0 ∨ m = 1 ∨ m = 5)

/-- Zero-fills what an operation wrote at its destination (R717). -/
def zeroOut (ctx : Nat) (o : SealOp) (s : State) : State := ctxWrite ctx o.dst (List.replicate o.out 0) s

/-- Ends an operation as ABORT does: an authenticated mode releases nothing (R720). -/
def sealAbortOp (s : State) : State :=
  match s.sec.sealEng.op, s.sec.sealEng.owner with
  | some o, some w =>
    let s1 := if authMode o.mode then zeroOut w.ctx o s else s
    setSeal { s1.sec.sealEng with op := none, out := if authMode o.mode then 0 else s1.sec.sealEng.out } s1
  | _, _ => s

/-- Wipes the context and frees the lock; the longest hold is kept (R711). -/
def sealWipe (s : State) : State :=
  let e := s.sec.sealEng
  let held := match e.owner with | some o => min (2 ^ 32 - 1) ((s.td17 - o.since) / 1000) | none => 0
  setSeal { SealState.reset with views := e.views, brokenFn := e.brokenFn, brokenTask := e.brokenTask, holdMax := max e.holdMax held,
                                 counts := e.counts, partBytes := e.partBytes } s

/-- SEAL_LOCK.RELEASE, and what ends ownership (R711). -/
def sealRelease (s : State) : State := sealWipe (sealAbortOp s)

/-- The lock is broken: the former owner is recorded and sees Lock Lost (R712). -/
def sealBreak (s : State) : State :=
  match s.sec.sealEng.owner with
  | none => s
  | some o =>
    let s1 := sealRelease s
    let e := s1.sec.sealEng
    let s2 := setSeal { e with brokenFn := o.fn, brokenTask := o.handle, views := Tbl.insert e.views o.ctx .lost } s1
    raise 1065 (logOcc 0x5005 1065 (leBytes 2 o.fn ++ leBytes 4 o.handle) (sealCount 7 s2))

/-- SEAL_LOCK.ACQUIRE (R709). -/
def sealAcquire (ctx : Nat) (s : State) : State :=
  let e := s.sec.sealEng
  match e.owner with
  | none =>
    setSeal { e with owner := some { fn := ctxFn s ctx, handle := ctxHandle s ctx, ctx := ctx, since := s.td17 }
                     views := Tbl.erase e.views ctx, code := 0x01 } s
  | some o => if o.ctx = ctx then s else sealCount 6 (setSeal { e with views := Tbl.insert e.views ctx .busy } s)

/-! Seal operations (R713 to R720). -/

/-- Output bytes of an operation (R713). -/
def sealOutLen (mode dir len : Nat) : Nat :=
  match mode with
  | 3 => if dir = 0 then 16 * (len / 16 + 1) else len
  | 5 => 0
  | _ => len

/-- The refusal code of a GO whose writer owns the engine: checks 2, 3, 5 and 6 of R715. -/
def sealGoCode (s : State) (mode dir slot len aad : Nat) : Option Nat :=
  if 6 ≤ mode ∨ (mode = 5 ∧ dir = 1) then some 0x06
  else match keySlot s slot with
    | none => some 0x06
    | some k =>
      let aadOk := if mode ≤ 1 then decide (aad ≤ 65279) else decide (aad = 0)
      if ¬ aadOk then some 0x06
      else if mode ≤ 1 ∧ dir = 1 ∧ 262144 < len then some 0xC7
      else if mode = 1 ∧ 16777215 < len then some 0x06
      else if mode = 3 ∧ dir = 1 ∧ (len = 0 ∨ len % 16 ≠ 0) then some 0x06
      else if mode = 4 ∧ len < 16 then some 0x06
      else if mode ≤ 1 ∧ dir = 0 ∧ slotExhausted k then some 0xC4
      else none

/-- The fault of a GO by a task that owns the engine: checks 4 and 7 of R715 in their order; 2 CHARTER, 1 ADDR, 0 none. -/
def sealGoFault (s : State) (ctx mode dir slot len aad dst : Nat) : Nat :=
  match ctxTask s ctx with
  | none => 0
  | some t =>
    if ¬ ownsSeal s ctx ∨ s.sec.sealEng.op.isSome ∨ 6 ≤ mode ∨ (mode = 5 ∧ dir = 1) ∨ (keySlot s slot).isNone then 0
    else if ¬ chrKey s t.fn slot then 2
    else if (sealGoCode s mode dir slot len aad).isSome then 0
    else if ctxReach s ctx dst (sealOutLen mode dir len) true then 0 else 1

/-- The IV that GCM and CCM encryption takes (R714). -/
def sealIv (k : KeySlot) : List Byte := beBytes 4 k.fixed ++ beBytes 8 (k.epoch * 2 ^ 32 + k.used) ++ [0, 0, 0, 0]

/-- SEAL_MODE with GO by the owner. A GO while an operation runs stores the fields (R6) and starts nothing (log entry 60). -/
def sealGo (ctx mode dir slot : Nat) (s : State) : State :=
  let e := s.sec.sealEng
  let s0 := setSeal { e with mode := mode, dir := dir, slot := slot } s
  if ¬ ownsSeal s ctx then s
  else if e.op.isSome then s0
  else match sealGoCode s mode dir slot e.len e.aadLen, keySlot s slot with
    | some c, _ =>
      let s1 := setSeal { s0.sec.sealEng with code := c } s0
      if c = 0xC4 then raise 1065 (sealCount 5 s1) else if c = 0xC7 then sealCount 3 s1 else s1
    | none, none => s0
    | none, some k =>
      if ¬ ctxReach s ctx e.dst (sealOutLen mode dir e.len) true then setSeal { s0.sec.sealEng with code := 0x06 } s0
      else
        let fresh := decide (mode ≤ 1 ∧ dir = 0)
        let iv := if fresh then sealIv k else e.iv
        let o : SealOp := { mode := mode, dir := dir, slot := slot, key := k.key, iv := iv, tag := e.tag, len := e.len,
                            aadLen := e.aadLen, dst := e.dst, stream := [], trunc := false, out := 0 }
        let s1 := setSeal { s0.sec.sealEng with op := some o, iv := iv, code := 0x02, trunc := false, short := false, badPad := false,
                                                inBytes := 0, out := 0 } s0
        if fresh then { s1 with sec := { s1.sec with slots := Tbl.insert s1.sec.slots slot { k with used := k.used + 1 } } } else s1

/-- The output that may be released after the bytes of the stream so far, before LAST (R718). -/
def sealReleased (o : SealOp) : List Byte :=
  let ks := roundKeys o.key
  let data := o.stream.drop o.aadLen
  let whole := chunks 16 (data.take (16 * (data.length / 16)))
  match o.mode, o.dir with
  | 0, 0 => gcmCrypt ks o.iv data
  | 1, 0 => ccmCrypt ks (o.iv.take 12) data
  | 2, _ => ctrMode 16 ks o.iv data
  | 3, 0 => (cbcEnc ks o.iv whole).flatten
  | 3, _ => (cbcDec ks o.iv (whole.take (whole.length - 1))).flatten
  | 4, 0 => (cbcEnc ks o.iv (whole.take ((data.length + 15) / 16 - 2))).flatten
  | 4, _ => (cbcDec ks o.iv (whole.take ((data.length + 15) / 16 - 2))).flatten
  | _, _ => []

/-- The whole output at LAST of an unauthenticated mode, and whether its padding is bad (R718, R719). -/
def sealFinal (o : SealOp) : List Byte × Bool :=
  let ks := roundKeys o.key
  match o.mode, o.dir with
  | 3, 0 => ((cbcEnc ks o.iv (chunks 16 (pkcsPad o.stream))).flatten, false)
  | 3, _ =>
    let bs := cbcDec ks o.iv (chunks 16 o.stream)
    (match pkcsUnpad (bs.getLastD []) with
     | some l => (bs.dropLast.flatten ++ l, false)
     | none => (bs.dropLast.flatten, true))
  | 4, 0 => (cs3Enc ks o.iv o.stream, false)
  | 4, _ => (cs3Dec ks o.iv o.stream, false)
  | _, _ => (sealReleased o, false)

/-- Writes the output that is new. -/
def sealPut (ctx : Nat) (o : SealOp) (total : List Byte) (s : State) : State :=
  let s1 := ctxWrite ctx (o.dst + o.out) (total.drop o.out) s
  setSeal { s1.sec.sealEng with op := some { o with out := total.length }, out := total.length } s1

/-- Ends the operation with a code; output of an authenticated mode is withheld when it failed. -/
def sealEnd (ctx : Nat) (code : Nat) (s : State) : State :=
  match s.sec.sealEng.op with
  | none => s
  | some o =>
    let bad := decide (code ≠ 0x03)
    let s1 := if bad && authMode o.mode then zeroOut ctx o s else s
    let e := s1.sec.sealEng
    let s2 := setSeal { e with op := none, code := code, out := if bad && authMode o.mode then 0 else e.out } s1
    let mib := (e.partBytes + o.stream.length) / 2 ^ 20
    let s3 := setSeal { s2.sec.sealEng with
      partBytes := (e.partBytes + o.stream.length) % 2 ^ 20
      counts := Tbl.upd 0 s2.sec.sealEng.counts 1 (fun v => satAdd (2 ^ 32 - 1) v mib) } s2
    match code with
    | 0x03 => sealCount 0 s3
    | 0xC6 => sealCount 2 s3
    | 0xC7 => sealCount 3 s3
    | 0x07 => sealCount 4 s3
    | _ => s3

/-- LAST: the operation ends (R717 to R719). -/
def sealFinish (ctx : Nat) (s : State) : State :=
  match s.sec.sealEng.op with
  | none => s
  | some o =>
    let ks := roundKeys o.key
    let isShort := decide (o.stream.length < o.aadLen + o.len)
    let aad := o.stream.take o.aadLen
    let data := o.stream.drop o.aadLen
    if authMode o.mode then
      if isShort then sealEnd ctx 0x07 s
      else if o.mode = 5 then sealEnd ctx 0x03 (setSeal { s.sec.sealEng with tag := cmac o.key o.stream } s)
      else if o.dir = 0 then
        let tag := if o.mode = 0 then gcmTag ks o.iv aad (gcmCrypt ks o.iv data) else ccmTag ks (o.iv.take 12) aad data
        sealEnd ctx 0x03 (setSeal { s.sec.sealEng with tag := tag } s)
      else
        let plain := if o.mode = 0 then gcmCrypt ks o.iv data else ccmCrypt ks (o.iv.take 12) data
        let tag := if o.mode = 0 then gcmTag ks o.iv aad data else ccmTag ks (o.iv.take 12) aad plain
        if tag = o.tag then sealEnd ctx 0x03 (sealPut ctx o plain s) else sealEnd ctx 0xC6 s
    else
      let n := o.stream.length
      let notOk := decide ((o.mode = 4 ∧ n < 16) ∨ (o.mode = 3 ∧ o.dir = 1 ∧ (n = 0 ∨ n % 16 ≠ 0)))
      let s0 := setSeal { s.sec.sealEng with short := isShort, trunc := o.trunc } s
      if isShort && notOk then sealEnd ctx 0x07 s0
      else
        let r := sealFinal o
        let s1 := sealPut ctx o r.1 s0
        let s2 := if r.2 then sealCount 8 (setSeal { s1.sec.sealEng with badPad := true } s1) else s1
        sealEnd ctx 0x03 s2

/-- SEAL_PIECE by the owner: a piece of `n` bytes at SEAL_SRC (R716, R717). A piece above 262,144 bytes, or with no operation
running, changes nothing (log entry 60). -/
def sealPiece (ctx n : Nat) (last : Bool) (s : State) : State :=
  if ¬ ownsSeal s ctx ∨ 262144 < n then s
  else match s.sec.sealEng.op with
    | none => s
    | some o =>
      if ¬ ctxReach s ctx s.sec.sealEng.src n false then s
      else
        let declared := o.aadLen + o.len
        if authMode o.mode ∧ declared < o.stream.length + n then sealEnd ctx 0xC7 s
        else
          let room := declared - o.stream.length
          let piece := (ctxRead s ctx s.sec.sealEng.src n).take room
          let o1 : SealOp := { o with stream := o.stream ++ piece, trunc := o.trunc || decide (room < n) }
          let s1 := setSeal { s.sec.sealEng with op := some o1, inBytes := o1.stream.length } s
          let s2 := sealPut ctx o1 (sealReleased o1) s1
          if last then sealFinish ctx s2 else s2

/-- SEAL_MODE.ABORT by the owner (R720). -/
def sealAbort (ctx : Nat) (s : State) : State :=
  if ¬ ownsSeal s ctx ∨ s.sec.sealEng.op.isNone then s
  else
    let s1 := sealAbortOp s
    setSeal { s1.sec.sealEng with code := 0x04 } s1

/-! The digest engine (R722 to R729). -/

/-- The digest engine's state replaced. -/
def setDig (d : DigState) (s : State) : State := { s with sec := { s.sec with dig := d } }

/-- The engine is freed and its words are wiped; the code of a refusal stays readable. -/
def digFree (code : Nat) (s : State) : State :=
  let d := s.sec.dig
  setDig { DigState.reset with views := d.views, brokenFn := d.brokenFn, brokenTask := d.brokenTask, counts := d.counts, code := code } s

/-- The owner is recorded as broken and sees Lock Lost (R712). -/
def digBreak (s : State) : State :=
  match s.sec.dig.owner with
  | none => s
  | some o =>
    let s1 := digFree 0 s
    let s2 := setDig { s1.sec.dig with brokenFn := o.fn, brokenTask := o.handle, views := Tbl.insert s1.sec.dig.views o.ctx .lost } s1
    raise 1066 (logOcc 0x5005 1066 (leBytes 2 o.fn ++ leBytes 4 o.handle) s2)

/-- Another requester holds the digest engine. -/
def digHeldByOther (s : State) (ctx : Nat) : Bool := match s.sec.dig.owner with | some o => decide (o.ctx ≠ ctx) | none => false

/-- A new computation (R722): HMAC starts with the key block. -/
def digStart (alg slot : Nat) (keyed : Bool) (key : List Byte) : DigCtx :=
  let r := if keyed then hashFeed alg (hashInit alg) [] (hmacBlock alg key 0x36) else (hashInit alg, [])
  { alg := alg, keyed := keyed, slot := slot, state := r.1, part := r.2, fed := if keyed then hashBlockLen alg else 0, bytes := 0,
    declared := max64, trunc := false }

/-- The claim of the engine by a requester. -/
def digClaim (ctx : Nat) (s : State) : State :=
  let d := s.sec.dig
  let o : EngOwner := { fn := ctxFn s ctx, handle := ctxHandle s ctx, ctx := ctx, since := s.td17 }
  setDig { d with owner := some (match d.owner with | some x => x | none => o), views := Tbl.erase d.views ctx } s

/-- The fault of an OPEN by a task: CHARTER (2) where the slot of an HMAC is not granted (R658, R722). -/
def digOpenFault (s : State) (ctx slot : Nat) (keyed : Bool) : Nat :=
  match ctxTask s ctx with
  | some t => if keyed ∧ ¬ digHeldByOther s ctx ∧ ¬ chrKey s t.fn slot then 2 else 0
  | none => 0

/-- DIG_CTRL.OPEN (R722, R723). -/
def digOpen (ctx slot : Nat) (keyed : Bool) (alg : Nat) (s : State) : State :=
  if digHeldByOther s ctx then setDig { s.sec.dig with views := Tbl.insert s.sec.dig.views ctx .busy } s
  else
    match (if keyed then (keySlot s slot).map (·.key) else some []) with
    | none =>
      let s1 := digClaim ctx s
      setDig { s1.sec.dig with slot := slot, keyed := keyed, alg := alg, code := 0x06, ctx := none } s1
    | some key =>
      let s1 := digClaim ctx s
      setDig { s1.sec.dig with slot := slot, keyed := keyed, alg := alg, code := 0x01, trunc := false, short := false, bytes := 0,
                               ctx := some (digStart alg slot keyed key) } s1

/-- Message bytes into the computation; bytes past the declared length are dropped (R726). -/
def digTake (bs : List Byte) (s : State) : State :=
  match s.sec.dig.ctx with
  | none => s
  | some c =>
    let d := s.sec.dig
    let room := if d.declared = max64 then bs.length else d.declared - c.bytes
    let use := bs.take room
    let r := hashFeed c.alg c.state c.part use
    let tr := c.trunc || decide (room < bs.length)
    setDig { d with ctx := some { c with state := r.1, part := r.2, fed := c.fed + use.length, bytes := c.bytes + use.length, trunc := tr }
                    bytes := c.bytes + use.length, trunc := tr, code := 0x02 } s

/-- DIG_DATA by the owner (R724). -/
def digData (ctx w : Nat) (s : State) : State := if ownsDig s ctx then digTake (leBytes 8 w) s else s

/-- The digest of a computation: the outer pass of HMAC is run (R722). -/
def digOutput (s : State) (c : DigCtx) : List Byte :=
  let inner := hashFinish c.alg c.state c.part c.fed
  if c.keyed then match keySlot s c.slot with | some k => hmacOuter c.alg k.key inner | none => inner else inner

/-- DIG_LAST by the owner (R725, R726). -/
def digLast (ctx w : Nat) (s : State) : State :=
  if ¬ ownsDig s ctx then s
  else match s.sec.dig.ctx with
    | none => s
    | some _ =>
      let n := s.sec.dig.lastBytes
      if 8 < n then setDig { s.sec.dig with ctx := none, code := 0x06 } s
      else
        let s1 := digTake ((leBytes 8 w).take n) s
        match s1.sec.dig.ctx with
        | none => s1
        | some c =>
          let d := s1.sec.dig
          let isShort := decide (d.declared ≠ max64 ∧ c.bytes < d.declared)
          let up := fun (t : Tbl Nat) (i : Nat) => Tbl.upd 0 t i (fun v => satAdd (2 ^ 32 - 1) v 1)
          let cnt := if isShort || c.trunc then up (up d.counts 0) 1 else up d.counts 0
          setDig { d with ctx := none, code := 0x03, short := isShort, trunc := c.trunc, result := fitBytes 64 (digOutput s1 c),
                          counts := cnt } s1

/-- The label of a function's wrap key (R691). -/
def fnLabel (fn : Nat) : List Byte := fitBytes 32 ([0, 2] ++ beBytes 2 fn)

/-- A function's wrap key; none without a root key. -/
def fnWrapKey (s : State) (fn : Nat) : Option (List Byte) :=
  s.sec.root.map (fun r => kdf r (fnLabel fn) (Tbl.get 1 s.sec.fnGen fn) 256)

/-- Chaining state as 200 bytes: hash words big-endian, lanes of SHA-3 little-endian (log entry 61). -/
def stateBytes (alg : Nat) (st : List Nat) : List Byte :=
  fitBytes 200 (match alg with | 0 => st.flatMap (beBytes 4) | 3 => st.flatMap (leBytes 8) | _ => st.flatMap (beBytes 8))
def stateOf (alg : Nat) (b : List Byte) : List Nat :=
  match alg with
  | 0 => (chunks 4 (b.take 32)).map beNat
  | 3 => (chunks 8 b).map leNat
  | _ => (chunks 8 (b.take 64)).map beNat

/-- The 384 bytes that a context is (R728); `kcv` extends a keyed one. -/
def ctxPlain (c : DigCtx) (kcv : List Byte) : List Byte :=
  fitBytes 384 (stateBytes c.alg c.state ++ fitBytes 144 c.part ++ leBytes 2 c.part.length ++ kcv)

/-- The exported blob without its CRC, 508 bytes (R728). -/
def ctxBlob (c : DigCtx) (fn declared : Nat) (payload : List Byte) : List Byte :=
  fitBytes 508 (([0x59, 0x44, 0x47, 0x58, 1] : List Byte) ++ leBytes 1 c.alg ++ leBytes 1 (b2n c.keyed + 2 * b2n c.trunc) ++
    leBytes 1 (if c.keyed then c.slot else 0) ++ leBytes 2 fn ++ List.replicate 6 0 ++ leBytes 8 c.bytes ++ leBytes 8 declared ++
    List.replicate 32 0 ++ fitBytes 392 payload)

/-- Export of the open computation: none where a keyed one has no key (R728). -/
def exportBlob (s : State) (ctx : Nat) (c : DigCtx) : Option (List Byte) :=
  let fn := ctxFn s ctx
  let fin := fun (p : List Byte) => let b := ctxBlob c fn s.sec.dig.declared p; b ++ leBytes 4 (crc32c b)
  if c.keyed then
    match keySlot s c.slot, fnWrapKey s fn with
    | some k, some w => some (fin (keyWrap w (ctxPlain c (keyCheck 4 k.key))))
    | _, _ => none
  else some (fin (ctxPlain c []))

/-- DIG_CTX_CMD 1 by the owner with a computation open (R728). -/
def digExport (ctx : Nat) (s : State) : State :=
  if ¬ ownsDig s ctx then s
  else match s.sec.dig.ctx with
    | none => setDig { s.sec.dig with code := 0x06 } s
    | some c =>
      if s.sec.dig.ctxAddr % 8 ≠ 0 ∨ ¬ ctxReach s ctx s.sec.dig.ctxAddr 512 true then setDig { s.sec.dig with code := 0x06 } s
      else match exportBlob s ctx c with
        | none => setDig { s.sec.dig with code := 0x06 } s
        | some b => digFree 0 (ctxWrite ctx s.sec.dig.ctxAddr b s)

/-- What an import finds: a code of R729, or the computation and its declared length. -/
inductive Imported where
  | code (c : Nat)
  | ok (c : DigCtx) (declared : Nat)
deriving DecidableEq, Repr

/-- The checks of an import but the charter right (R729). -/
def importCheck (s : State) (ctx : Nat) (b : List Byte) : Imported :=
  let f := fun (off n : Nat) => leNat ((b.drop off).take n)
  let alg := f 5 1
  let flags := f 6 1
  let keyed := bitOf flags 0
  let slot := f 7 1
  let fn := f 8 2
  if b.take 4 ≠ [0x59, 0x44, 0x47, 0x58] ∨ f 4 1 ≠ 1 ∨ 4 ≤ alg ∨ 4 ≤ flags ∨ 64 ≤ slot ∨ ¬ zeros b 10 6 ∨ ¬ zeros b 32 32 ∨
      ¬ zeros b 456 52 ∨ f 508 4 ≠ crc32c (b.take 508) ∨ (¬ keyed ∧ ¬ zeros b 410 46) then .code 0x06
  else
    let mk := fun (p : List Byte) =>
      let n := leNat ((p.drop 344).take 2)
      ({ alg := alg, keyed := keyed, slot := slot, state := stateOf alg (p.take 200), part := ((p.drop 200).take 144).take n,
         fed := f 16 8 + (if keyed then hashBlockLen alg else 0), bytes := f 16 8, declared := max64, trunc := bitOf flags 1 } : DigCtx)
    let payload := (b.drop 64).take 392
    if keyed then
      if fn ≠ ctxFn s ctx then .code 0xC6
      else match fnWrapKey s fn with
        | none => .code 0xC6
        | some w =>
          match keyUnwrap w payload with
          | none => .code 0xC6
          | some p =>
            match keySlot s slot with
            | none => .code 0x09
            | some k => if (p.drop 346).take 4 = keyCheck 4 k.key then .ok (mk p) (f 24 8) else .code 0x09
    else .ok (mk payload) (f 24 8)

/-- The fault of a DIG_CTX_CMD by a task: 1 ADDR, 2 CHARTER, 0 none (R728, R729). -/
def digCmdFault (s : State) (ctx cmd : Nat) : Nat :=
  match ctxTask s ctx with
  | none => 0
  | some t =>
    let a := s.sec.dig.ctxAddr
    if cmd = 1 ∧ ownsDig s ctx then if ctxReach s ctx a 512 true then 0 else 1
    else if cmd = 2 ∧ ¬ digHeldByOther s ctx then
      if ¬ ctxReach s ctx a 512 false then 1
      else match importCheck s ctx (ctxRead s ctx a 512) with
        | .ok c _ => if c.keyed ∧ ¬ chrKey s t.fn c.slot then 2 else 0
        | .code _ => 0
    else 0

/-- DIG_CTX_CMD 2 (R729). The address is the owner's word, or that of a free engine. -/
def digImport (ctx : Nat) (s : State) : State :=
  if digHeldByOther s ctx then setDig { s.sec.dig with views := Tbl.insert s.sec.dig.views ctx .busy } s
  else
    let a := s.sec.dig.ctxAddr
    if a % 8 ≠ 0 ∨ ¬ ctxReach s ctx a 512 false then digFree 0x06 s
    else match importCheck s ctx (ctxRead s ctx a 512) with
      | .code c => digFree c s
      | .ok c declared =>
        let s1 := digClaim ctx s
        setDig { s1.sec.dig with slot := c.slot, keyed := c.keyed, alg := c.alg, declared := declared, code := 0x01, trunc := c.trunc,
                                 short := false, bytes := c.bytes, ctx := some c } s1

/-- DIG_CTRL.RELEASE by the owner. -/
def digRelease (ctx : Nat) (s : State) : State := if ownsDig s ctx then digFree 0 s else s

/-- A task of the function owns an engine. -/
def ownedByFn (o : Option EngOwner) (f : Nat) : Bool := match o with | some w => decide (w.fn = f ∧ w.ctx ≠ 0) | none => false

/-- A requester sees Lock Lost in an engine's status until it claims the engine again (R712). -/
def sealLost (o : Option EngOwner) (s : State) : State :=
  match o with | some w => setSeal { s.sec.sealEng with views := Tbl.insert s.sec.sealEng.views w.ctx .lost } s | none => s
def digLost (o : Option EngOwner) (s : State) : State :=
  match o with | some w => setDig { s.sec.dig with views := Tbl.insert s.sec.dig.views w.ctx .lost } s | none => s

/-- What a Freeze of a function does to the engines that its tasks own: it counts as a break for them (R677, R711, R712, R723). -/
def engineFreeze (f : Nat) (s : State) : State :=
  let s1 := if ownedByFn s.sec.sealEng.owner f then sealLost s.sec.sealEng.owner (sealRelease s) else s
  if ownedByFn s1.sec.dig.owner f then digLost s1.sec.dig.owner (digFree 0 s1) else s1

/-- What the end of a task does to the engines it owns (R711, R723). -/
def engineTaskEnd (key : Nat) (s : State) : State :=
  let s1 := if ownsSeal s (key + 1) then sealRelease s else s
  let s2 := if ownsDig s1 (key + 1) then digFree 0 s1 else s1
  { s2 with sec := { s2.sec with
    sealEng := { s2.sec.sealEng with views := Tbl.erase s2.sec.sealEng.views (key + 1) }
    dig := { s2.sec.dig with views := Tbl.erase s2.sec.dig.views (key + 1) } } }

end Sys2Proof.Machine
end

