-- ==== Sys2Proof/Machine/Cmp.lean ====
section
/-! DEFINITION. The wing compressors: frames and program jobs (chapter 11). -/

namespace Sys2Proof.Machine

/-! XXH64, the content checksum of RFC 8878. -/

/-- The five primes of XXH64. -/
def xxP1 : Nat := 0x9E3779B185EBCA87
def xxP2 : Nat := 0xC2B2AE3D27D4EB4F
def xxP3 : Nat := 0x165667B19E3779F9
def xxP4 : Nat := 0x85EBCA77C2B2AE63
def xxP5 : Nat := 0x27D4EB2F165667C5

/-- One lane step, and the merge of a lane. -/
def xxRound (acc lane : Nat) : Nat := (rotl64 31 ((acc + lane * xxP2) % 2 ^ 64) * xxP1) % 2 ^ 64
def xxMerge (acc v : Nat) : Nat := (Nat.xor acc (xxRound 0 v) * xxP1 + xxP4) % 2 ^ 64

/-- The four accumulators over stripes of 32 bytes. -/
def xxStripe (v : List Nat) (st : List Byte) : List Nat := List.zipWith xxRound v ((chunks 8 st).map leNat)

/-- The last bytes, by eight, four and one. -/
def xxTail : Nat → Nat → List Byte → Nat
  | 0, h, _ => h
  | n + 1, h, l =>
    if 8 ≤ l.length then
      xxTail n ((rotl64 27 (Nat.xor h (xxRound 0 (leNat (l.take 8)))) * xxP1 + xxP4) % 2 ^ 64) (l.drop 8)
    else if 4 ≤ l.length then
      xxTail n ((rotl64 23 (Nat.xor h ((leNat (l.take 4) * xxP1) % 2 ^ 64)) * xxP2 + xxP3) % 2 ^ 64) (l.drop 4)
    else match l with
      | [] => h
      | b :: r => xxTail n ((rotl64 11 (Nat.xor h ((b.toNat * xxP5) % 2 ^ 64)) * xxP1) % 2 ^ 64) r

/-- The 64-bit hash with seed 0. -/
def xxh64 (m : List Byte) : Nat :=
  let n := m.length
  let big := 32 * (n / 32)
  let h0 := if 32 ≤ n then
      let v := (chunks 32 (m.take big)).foldl xxStripe [(xxP1 + xxP2) % 2 ^ 64, xxP2, 0, 2 ^ 64 - xxP1]
      let g := fun i => listGet 0 v i
      v.foldl xxMerge ((rotl64 1 (g 0) + rotl64 7 (g 1) + rotl64 12 (g 2) + rotl64 18 (g 3)) % 2 ^ 64)
    else xxP5
  let h1 := xxTail (n + 1) ((h0 + n) % 2 ^ 64) (m.drop big)
  let h2 := (Nat.xor h1 (h1 / 2 ^ 33) * xxP2) % 2 ^ 64
  let h3 := (Nat.xor h2 (h2 / 2 ^ 29) * xxP3) % 2 ^ 64
  Nat.xor h3 (h3 / 2 ^ 32)

/-! Frames (R477 to R480). -/

/-- The frame header for an input length. -/
def frameHeader (n : Nat) (checksum : Bool) : List Byte :=
  let flag := if n < 256 then 0 else if n < 65792 then 1 else 2
  ([0x28, 0xB5, 0x2F, 0xFD] : List Byte) ++ leBytes 1 (flag * 64 + 32 + 4 * b2n checksum) ++
    (if flag = 0 then leBytes 1 n else if flag = 1 then leBytes 2 (n - 256) else leBytes 4 n)

/-- A block: RLE where its content is one repeated byte, Raw where it would not shrink, else Compressed (R477). -/
def frameBlock (before content : List Byte) (last : Bool) : List Byte :=
  let hdr := fun (typ size : Nat) => leBytes 3 (b2n last + 2 * typ + 8 * size)
  match content with
  | [] => hdr 0 0
  | b :: r =>
    if r.all (· = b) then hdr 1 content.length ++ [b]
    else
      let c := Config.zstdBlock before content
      if c.length < content.length then hdr 2 c.length ++ c else hdr 0 content.length ++ content

/-- The blocks of a frame, each after those before it; `n` is the input length. -/
def frameBlocks (n : Nat) : List Byte → List (List Byte) → List Byte
  | _, [] => []
  | before, b :: r =>
    let all := before ++ b
    frameBlock before b (decide (all.length = n)) ++ frameBlocks n all r

/-- The frame of an input that is whole, or of the blocks of it that are closed. -/
def frameOf (n : Nat) (checksum : Bool) (blocks : List (List Byte)) : List Byte :=
  let all := blocks.flatten
  frameHeader n checksum ++ frameBlocks n [] blocks ++
    (if checksum && decide (all.length = n) then leBytes 4 (xxh64 all) else [])

/-- The frame is not smaller than the threshold allows (R484). -/
def notSmaller (frame input pct : Nat) : Bool := decide (pct * input < 100 * frame)

/-! A wing's compressor. -/

/-- Input and released output of a compressor are counted. -/
def cmpCount (w inB outB : Nat) (s : State) : State :=
  let c := cmpRoll s.td17 (getCmp s w)
  setCmp w { c with inNow := c.inNow + inB, outNow := c.outNow + outB } s

/-- A verify failure (R482): user 0 a packed grain, 1 a job. -/
def verifyFailed (w user : Nat) (s : State) : State :=
  let c := getCmp s w
  logOcc 0x8003 (1032 + w) (leBytes 1 user)
    (raise (1032 + w) (setCmp w { c with fails := satAdd 65535 c.fails 1, failSeen := true } s))

/-- Ends a job without a frame: its destination bytes are zero-filled (R492). -/
def jobFail (ctx k code out : Nat) (s : State) : State :=
  let j := getJob s k
  let s1 := ctxWrite ctx j.jDst (List.replicate j.written 0) s
  setJob k { j with code := code, outBytes := out, blocks := [], cur := [], written := 0 } s1

/-- CMP_J_SETUP with OPEN (R488, R490, R493); an ADDR fault of a task was taken before. -/
def jobOpen (ctx w : Nat) (checksum : Bool) (thresh total : Nat) (s : State) : State :=
  let k := jobKey ctx w
  let j := getJob s k
  let j1 := { j with checksum := checksum, thresh := thresh, total := total }
  if j.code = 1 then jobFail ctx k 9 0 (setJob k j1 s)
  else if total = 0 ∨ 8388608 < total ∨ (thresh ≠ 0 ∧ (thresh < 50 ∨ 100 < thresh)) ∨ ¬ ctxReach s ctx j.dst j.cap true then
    setJob k { j1 with code := 9, inBytes := 0, outBytes := 0 } s
  else if s.mode.wingOut.getLsbD w then setJob k { j1 with code := 8, inBytes := 0, outBytes := 0 } s
  else if 8 ≤ openJobs s w then setJob k { j1 with code := 10, inBytes := 0, outBytes := 0 } s
  else setJob k { j1 with code := 1, inBytes := 0, outBytes := 0, wing := w, blocks := [], cur := [], written := 0, passed := false,
                          tooBig := false, limitPct := if thresh = 0 then (getCmp s w).threshPct else thresh, jTotal := total,
                          jCheck := checksum, jDst := j.dst, jCap := j.cap } s

/-- CMP_J_SETUP with CANCEL (R494). -/
def jobCancel (ctx w : Nat) (s : State) : State :=
  let k := jobKey ctx w
  if (getJob s k).code = 1 then jobFail ctx k 0 0 s else s

/-- Closes blocks of 131,072 bytes; what is left is the block in progress (R480). -/
def closeBlocks : Nat → List (List Byte) → List Byte → List (List Byte) × List Byte
  | 0, bs, cur => (bs, cur)
  | n + 1, bs, cur => if 131072 ≤ cur.length then closeBlocks n (bs ++ [cur.take 131072]) (cur.drop 131072) else (bs, cur)

/-- Releases the frame bytes of the closed blocks to the destination, never beyond CAP (R481, R485, R491). -/
def jobRelease (ctx k : Nat) (s : State) : State :=
  let j := getJob s k
  if j.blocks = [] ∨ j.passed then s
  else
    let f := frameOf j.jTotal j.jCheck j.blocks
    if notSmaller f.length j.jTotal j.limitPct then
      setJob k { j with passed := true, written := 0 } (ctxWrite ctx j.jDst (List.replicate j.written 0) s)
    else if j.jCap < f.length then setJob k { j with tooBig := true, outBytes := f.length } s
    else
      let s1 := ctxWrite ctx (j.jDst + j.written) (f.drop j.written) s
      cmpCount j.wing 0 (f.length - j.written) (setJob k { j with written := f.length, outBytes := f.length } s1)

/-- The job's outcome at LAST (R491, R493). -/
def jobLast (ctx k : Nat) (s : State) : State :=
  let j := getJob s k
  if j.inBytes < j.jTotal then jobFail ctx k 7 0 s
  else if j.passed then
    let c := getCmp s j.wing
    setCmp j.wing { c with notSmaller := satAdd (2 ^ 32 - 1) c.notSmaller 1 } (jobFail ctx k 3 0 s)
  else if j.tooBig then jobFail ctx k 5 j.outBytes s
  else
    let c := getCmp s j.wing
    setCmp j.wing { c with doneJobs := satAdd (2 ^ 32 - 1) c.doneJobs 1 }
      (setJob k { j with code := 2, blocks := [], cur := [] } s)

/-- CMP_J_LEN: a piece of `n` bytes at CMP_J_SRC (R489 to R493). `bad`: the comparison of a block of it fails (R482). -/
def jobPiece (ctx w n : Nat) (flush last bad : Bool) (s : State) : State :=
  let k := jobKey ctx w
  let j := getJob s k
  if j.code ≠ 1 then setJob k { j with code := 9 } s
  else if 262144 < n then jobFail ctx k 9 0 s
  else if ¬ ctxReach s ctx j.src n false ∨ ¬ ctxReach s ctx j.jDst j.jCap true then s
  else if j.jTotal < j.inBytes + n then jobFail ctx k 6 0 s
  else
    let piece := ctxRead s ctx j.src n
    let r := closeBlocks 3 j.blocks (j.cur ++ piece)
    let done := decide (j.inBytes + n = j.jTotal)
    let close := (flush || done || last) && decide (r.2 ≠ [])
    let blocks := if close then r.1 ++ [r.2] else r.1
    let s1 := cmpCount j.wing n 0 (setJob k { j with inBytes := j.inBytes + n, blocks := blocks, cur := if close then [] else r.2 } s)
    if bad then verifyFailed j.wing 1 (jobFail ctx k 4 0 s1)
    else
      let s2 := jobRelease ctx k s1
      if last then jobLast ctx k s2 else s2

/-- The fault of a job write by a task: 1 ADDR, 0 none (R490). -/
def jobFault (s : State) (ctx w off v : Nat) : Nat :=
  let j := getJob s (jobKey ctx w)
  if off = 0x00 ∧ bitOf v 63 ∧ j.code ≠ 1 then if ctxReach s ctx j.dst j.cap true then 0 else 1
  else if off = 0x20 ∧ j.code = 1 ∧ v % 2 ^ 24 ≤ 262144 then
    if ctxReach s ctx j.src (v % 2 ^ 24) false && ctxReach s ctx j.jDst j.jCap true then 0 else 1
  else 0

/-- A task ends: its open job is discarded and its context is gone (R488, R496). -/
def jobTaskEnd (key : Nat) (s : State) : State := { s with cmp := { s.cmp with jobs := Tbl.erase s.cmp.jobs (8 + key) } }

/-- A task moved to another compressor, or restored, loses its open job (R495). -/
def jobLost (key : Nat) (s : State) : State :=
  if (getJob s (8 + key)).code = 1 then jobFail (key + 1) (8 + key) 8 0 s else s

/-- Ends a task: engines and jobs it holds are released first (R496, R711, R723). -/
def retireTask (key : Nat) (s : State) : State := endTask key (jobTaskEnd key (engineTaskEnd key s))

end Sys2Proof.Machine
end

