-- ==== Sys2Proof/Machine/Plan.lean ====
section
/-! DEFINITION. Sieve plans: the image, its checks at launch and its fields (R237 to R250, R916). -/

namespace Sys2Proof.Machine

/-- The op takes a field of the record. -/
def opHasField (c : Nat) : Bool := [0x01, 0x02, 0x03, 0x04, 0x18, 0x20, 0x28].contains c

/-- The op is one of R239. -/
def opKnown (c : Nat) : Bool :=
  [0x00, 0x01, 0x02, 0x03, 0x04, 0x08, 0x09, 0x0A, 0x0B, 0x0C, 0x10, 0x11, 0x18, 0x19, 0x20, 0x21, 0x22, 0x23, 0x28, 0x29,
   0x30, 0x3E, 0x3F].contains c

/-- The bits of ARG that the op uses (R239). -/
def opArgMask (c : Nat) : Nat :=
  match c with
  | 0x01 => 0x7007F
  | 0x02 => 0x7F7F
  | 0x03 => 0x7F7F
  | 0x04 => 0x3070000
  | 0x08 => 1
  | 0x10 => 0xFF
  | 0x11 => 0xFF
  | 0x19 => 0x30F
  | 0x21 => 3
  | 0x23 => 0x7F
  | 0x29 => 0x3F
  | 0x30 => 7
  | _ => 0

/-- Check 0x04 of one op: known, no unused field set, condition and length allowed (R239, R240, R916). -/
def opShapeOk (w : Nat) : Bool :=
  let c := opCode w
  let beOk := [0x01, 0x02, 0x03, 0x04, 0x18].contains c || !opBe w
  let sgnOk := [0x01, 0x03, 0x04].contains c || !opSgn w
  let fieldOk := opHasField c || (bitsOf w 55 32 = 0)
  let lenOk :=
    if [0x01, 0x02, 0x03, 0x04].contains c then [1, 2, 4, 8].contains (opLen w)
    else if c = 0x18 then decide (opLen w ≤ 20) else true
  let condOk := if c = 0x01 ∨ c = 0x04 then decide (bitsOf w 18 16 ≤ 5) else true
  let skipOk := if c = 0x10 ∨ c = 0x11 then decide (1 ≤ opArg w % 256) else true
  opKnown c && beOk && sgnOk && fieldOk && lenOk && condOk && skipOk && (opArg w &&& opArgMask c == opArg w)

/-- Check 0x05: constant indices below CONSTS. -/
def opConstOk (consts w : Nat) : Bool :=
  match opCode w with
  | 0x01 => decide (opArg w % 128 < consts)
  | 0x02 => decide (opArg w % 128 < consts ∧ bitsOf w 14 8 < consts)
  | 0x03 => decide (opArg w % 128 < consts ∧ bitsOf w 14 8 < consts)
  | 0x23 => decide (opArg w % 128 < consts)
  | _ => true

/-- Check 0x06: fields within 4,096 bytes and, for FIXED, within RECLEN. -/
def opFieldOk (fixed : Bool) (reclen w : Nat) : Bool :=
  if opHasField (opCode w) then decide (opOff w + opLen w ≤ 4096) && (!fixed || decide (opOff w + opLen w ≤ reclen)) else true

/-- Stack effect of an op: values it needs and the depth after (R239). -/
def opStack (w d : Nat) : Option Nat :=
  match opCode w with
  | 0x01 => some (d + 1)
  | 0x02 => some (d + 1)
  | 0x03 => some (d + 1)
  | 0x04 => some (d + 1)
  | 0x08 => some (d + 1)
  | 0x19 => some (d + 1)
  | 0x09 => if 2 ≤ d then some (d - 1) else none
  | 0x0A => if 2 ≤ d then some (d - 1) else none
  | 0x0B => if 1 ≤ d then some d else none
  | 0x0C => if 1 ≤ d then some (d - 1) else none
  | 0x10 => if 1 ≤ d then some d else none
  | 0x11 => if 1 ≤ d then some d else none
  | 0x30 => if 1 ≤ d then some d else none
  | 0x3E => if 1 ≤ d then some (d - 1) else none
  | _ => some d

/-- What holds on the paths that reach a position: stack depth, and the possible pairs of pending KEYF fields and key
bytes, and the longest output record so far. -/
structure PathFacts where
  depth : Nat
  keys : List (Nat × Nat)
  out : Nat
deriving DecidableEq, Repr

/-- Adds a path's facts to those of a position. `false` when the depths differ (check 0x07). -/
def mergeFacts (old : Option PathFacts) (f : PathFacts) : Option PathFacts × Bool :=
  match old with
  | none => (some f, true)
  | some g => (some { depth := g.depth, keys := g.keys ++ f.keys.filter (fun k => !g.keys.contains k), out := max g.out f.out },
      g.depth = f.depth)

/-- Output bytes an op appends. -/
def opOutBytes (w : Nat) : Nat :=
  match opCode w with
  | 0x20 => opLen w
  | 0x21 => 4
  | 0x22 => 16
  | 0x23 => 8
  | _ => 0

/-- Failure flags of the walk over the paths: 0x07, 0x08 and 0x0A. -/
structure PathFails where
  stack : Bool
  key : Bool
  out : Bool
deriving DecidableEq, Repr

/-- One op on every path that reaches it (checks 0x07, 0x08, 0x0A). `width t` is the key width of table t in bytes. -/
def pathStep (width : Nat → Nat) (n : Nat) (acc : Tbl PathFacts × PathFails) (iw : Nat × Nat) : Tbl PathFacts × PathFails :=
  let (tbl, fl) := acc
  match Tbl.find tbl iw.1 with
  | none => acc
  | some f =>
    let w := iw.2
    let c := opCode w
    match opStack w f.depth with
    | none => (tbl, { fl with stack := true })
    | some d =>
      let keyBad :=
        (c = 0x18 ∧ f.keys.any (fun k => 4 ≤ k.1 ∨ 20 < k.2 + opLen w)) ∨
        (c = 0x19 ∧ f.keys.any (fun k => k.1 = 0 ∨ width (opArg w % 16) < k.2)) ∨
        ((c = 0x3E ∨ c = 0x3F) ∧ f.keys.any (fun k => k.1 ≠ 0))
      let keys := if c = 0x18 then f.keys.map (fun k => (k.1 + 1, k.2 + opLen w)) else if c = 0x19 then [(0, 0)] else f.keys
      let o := f.out + opOutBytes w
      let f1 : PathFacts := { depth := d, keys := keys, out := o }
      let fl1 := { stack := fl.stack || decide (16 < d), key := fl.key || decide keyBad, out := fl.out || decide (4096 < o) }
      let targets := if c = 0x3E ∨ c = 0x3F then [] else
        if c = 0x10 ∨ c = 0x11 then [iw.1 + 1, iw.1 + 1 + opArg w % 256] else [iw.1 + 1]
      targets.foldl (fun (a : Tbl PathFacts × PathFails) j =>
        if n < j then (a.1, { a.2 with stack := true })
        else
          match mergeFacts (Tbl.find a.1 j) f1 with
          | (some g, same) => (Tbl.insert a.1 j g, { a.2 with stack := a.2.stack || !same })
          | (none, _) => a) (tbl, fl1)

/-- Walks every path of a plan: its backward-branch-free positions in order. -/
def pathWalk (width : Nat → Nat) (ops : List Nat) : PathFails :=
  let n := ops.length
  let start : Tbl PathFacts := [(0, { depth := 0, keys := [(0, 0)], out := 0 })]
  let r := ((List.range n).zip ops).foldl (pathStep width n) (start, { stack := false, key := false, out := false })
  match Tbl.find r.1 n with
  | some f => { r.2 with key := r.2.key || f.keys.any (fun k => k.1 ≠ 0) }
  | none => r.2

/-- 8-byte words of a plan image from an offset. -/
def planWords (img : List Byte) (off : Nat) : Nat → List Nat
  | 0 => []
  | n + 1 => imgField img off 8 :: planWords img (off + 8) n

/-- A plan image's fields (R237). -/
def parsePlan (img : List Byte) : Plan :=
  let fl := imgField img 2 1
  let ops := imgField img 8 2
  { framing := imgField img 1 1, frames := bitOf fl 0, skipZero := bitOf fl 1, pfxBe := bitOf fl 2, delim := imgField img 3 1,
    reclen := imgField img 4 2, queues := imgField img 6 1, ops := planWords img 64 ops,
    consts := planWords img (64 + 8 * ops) (imgField img 10 2) }

/-- The first check of R248 that a plan image fails; 0 when it passes. `configured t` and `width t` describe beacon table t. -/
def planCheck (configured : Nat → Bool) (width : Nat → Nat) (img : List Byte) : Nat :=
  let p := parsePlan img
  let fl := imgField img 2 1
  let nOps := imgField img 8 2
  let nConsts := imgField img 10 2
  let paths := pathWalk width p.ops
  if imgField img 0 1 ≠ 1 ∨ !zeros img 7 1 ∨ !zeros img 12 52 then 0x01
  else if 3 < p.framing ∨ 8 ≤ fl ∨ (p.skipZero ∧ (p.framing = 1 ∨ p.framing = 2)) ∨
      (p.pfxBe ∧ (p.framing = 0 ∨ p.framing = 3)) ∨ (p.framing ≠ 3 ∧ p.delim ≠ 0) ∨
      (p.framing = 0 ∧ (p.reclen < 8 ∨ 4096 < p.reclen)) ∨ (p.framing ≠ 0 ∧ (p.reclen < 1 ∨ 4096 < p.reclen)) ∨
      p.queues < 1 ∨ 64 < p.queues then 0x02
  else if nOps < 1 ∨ 256 < nOps ∨ 128 < nConsts ∨ img.length ≠ 64 + 8 * (nOps + nConsts) then 0x03
  else if !p.ops.all opShapeOk then 0x04
  else if !p.ops.all (opConstOk nConsts) then 0x05
  else if !p.ops.all (opFieldOk (p.framing = 0) p.reclen) then 0x06
  else if paths.stack then 0x07
  else if paths.key then 0x08
  else if !p.ops.all (fun w => opCode w ≠ 0x19 || configured (opArg w % 16)) then 0x09
  else if paths.out then 0x0A
  else if !p.ops.all (fun w => opCode w ≠ 0x29 || decide (opArg w % 64 < p.queues)) then 0x0B
  else 0

end Sys2Proof.Machine
end

