-- ==== Sys2Proof/Machine/Beacon.lean ====
section
/-! DEFINITION. The beacon array: searches, entry and table commands, scrub (chapter 10). -/

namespace Sys2Proof.Machine

/-- Replaces a table. -/
def setBcnTable (t : Nat) (b : BcnTable) (s : State) : State :=
  { s with bcn := { s.bcn with tables := Tbl.put BcnTable.reset s.bcn.tables t b } }

/-- Entries of a table (R448, R449). -/
def bcnEntries (b : BcnTable) : Nat := (bankList b.banks).length * 32768 * bcnLanes b.width

/-- The table is active with a width (R248 code 0x09). -/
def bcnConfigured (s : State) (t : Nat) : Bool := (bcnTable s t).active

/-- Key width in bytes (R243). -/
def bcnKeyBytes (s : State) (t : Nat) : Nat := bcnBits (bcnTable s t).width / 8

/-- Bank, row and lane of an index (R449). -/
def bcnPlace (b : BcnTable) (i : Nat) : Nat × Nat × Nat :=
  let per := 32768 * bcnLanes b.width
  (listGet 0 (bankList b.banks) (i / per), (i % per) / bcnLanes b.width, i % bcnLanes b.width)

/-- A row of the array and of the shadow. -/
def bcnRow (s : State) (bank row : Nat) : BcnRow := Tbl.get BcnRow.empty s.bcn.rows (32768 * bank + row)

/-- Writes a row and its shadow (R455, R461). -/
def setBcnRow (bank row : Nat) (r : BcnRow) (s0 : State) : State :=
  let s := (runPages (48 * (32768 * bank + row)) 48).foldl (fun s p => writePage (p % 8) (0xA0000 + p / 8) s) s0
  { s with bcn := { s.bcn with rows := Tbl.put BcnRow.empty s.bcn.rows (32768 * bank + row) r
                               shadow := Tbl.put BcnRow.empty s.bcn.shadow (32768 * bank + row) r } }

/-- An entry: one lane of a row. -/
structure BcnEntry where
  key : Nat
  mask : Nat
  res : Nat
  valid : Bool
deriving DecidableEq, Repr

/-- Lane j of a row at width code c (R448). -/
def laneOf (c : Nat) (r : BcnRow) (j : Nat) : BcnEntry :=
  let w := bcnBits c
  let rb := 32 / bcnLanes c
  { key := bitsOf r.key.toNat (w * (j + 1) - 1) (w * j), mask := bitsOf r.mask.toNat (w * (j + 1) - 1) (w * j),
    res := bitsOf r.res.toNat (rb * (j + 1) - 1) (rb * j), valid := r.valid.getLsbD j }

/-- Puts an entry in lane j of a row. -/
def setLane (c : Nat) (r : BcnRow) (j : Nat) (e : BcnEntry) : BcnRow :=
  let w := bcnBits c
  let rb := 32 / bcnLanes c
  { key := BitVec.ofNat 160 (bitsSet r.key.toNat (w * (j + 1) - 1) (w * j) e.key)
    mask := BitVec.ofNat 160 (bitsSet r.mask.toNat (w * (j + 1) - 1) (w * j) e.mask)
    res := BitVec.ofNat 32 (bitsSet r.res.toNat (rb * (j + 1) - 1) (rb * j) e.res)
    valid := if e.valid then r.valid ||| (1#4 <<< j) else r.valid &&& ~~~(1#4 <<< j) }

/-- The entry of a table at an index. -/
def bcnGet (s : State) (b : BcnTable) (i : Nat) : BcnEntry :=
  let (bank, row, lane) := bcnPlace b i
  laneOf b.width (bcnRow s bank row) lane

/-- Stores an entry at an index (R455). -/
def bcnPut (b : BcnTable) (i : Nat) (e : BcnEntry) (s : State) : State :=
  let (bank, row, lane) := bcnPlace b i
  setBcnRow bank row (setLane b.width (bcnRow s bank row) lane e) s

/-- A valid entry matches a key (R450). -/
def entryMatches (e : BcnEntry) (k : Nat) : Bool := e.valid && ((Nat.xor k e.key) &&& e.mask) == 0

/-- The indices of the matching entries of a table, from the rows that hold anything, in rising order (R449 to R451). -/
def bcnHits (s : State) (b : BcnTable) (key : Nat) : List Nat :=
  let k := key % 2 ^ bcnBits b.width
  let banks := bankList b.banks
  s.bcn.rows.flatMap (fun (a, r) =>
    let bank := a / 32768
    if banks.contains bank then
      let pos := (banks.takeWhile (· ≠ bank)).length
      ((List.range (bcnLanes b.width)).filter (fun j => entryMatches (laneOf b.width r j) k)).map
        (fun j => (pos * 32768 + a % 32768) * bcnLanes b.width + j)
    else [])

/-- What a search answers (R451). -/
structure BcnHit where
  hit : Bool
  index : Nat
  res : Nat
  multi : Bool
  count : Nat
deriving DecidableEq, Repr

/-- A search of an active table (R450, R451). -/
def bcnSearch (s : State) (t key : Nat) : BcnHit :=
  let b := bcnTable s t
  match bcnHits s b key with
  | [] => { hit := false, index := 0, res := 0, multi := false, count := 0 }
  | i :: r => { hit := true, index := i, res := (bcnGet s b i).res, multi := !r.isEmpty, count := min 255 (r.length + 1) }

/-- Counts a slot on every bank of a table: 0 sieve, 1 program, 2 update (R465, BCN_BANK_RATE). -/
def bcnSlot (cls : Nat) (banks : BitVec 16) (s : State) : State :=
  (bankList banks).foldl (fun s i =>
    let b := bankRoll s.td17 (Tbl.get BcnBank.reset s.bcn.banks i)
    let b1 := if cls = 0 then { b with sieve := satAdd (2 ^ 22 - 1) b.sieve 1 }
      else if cls = 1 then { b with program := satAdd (2 ^ 22 - 1) b.program 1 }
      else { b with update := satAdd (2 ^ 20 - 1) b.update 1 }
    { s with bcn := { s.bcn with banks := Tbl.put BcnBank.reset s.bcn.banks i b1 } }) s

/-- Replaces a context. -/
def setBcnCtx (q : Nat) (c : BcnCtx) (s : State) : State :=
  { s with bcn := { s.bcn with ctxs := Tbl.put BcnCtx.zero s.bcn.ctxs q c } }

/-- The search key of a context. -/
def ctxKey (c : BcnCtx) : Nat := c.sKey0.toNat + 2 ^ 64 * c.sKey1.toNat + 2 ^ 128 * (c.sKey2.toNat % 2 ^ 32)

/-- A row found differing from its shadow: rewritten from it, counted, told (R452, R462). -/
def bcnRepair (bank row : Nat) (s : State) : State :=
  let b := Tbl.get BcnBank.reset s.bcn.banks bank
  let sh := Tbl.get BcnRow.empty s.bcn.shadow (32768 * bank + row)
  let s1 := { s with bcn := { s.bcn with
    rows := Tbl.put BcnRow.empty s.bcn.rows (32768 * bank + row) sh
    banks := Tbl.put BcnBank.reset s.bcn.banks bank
      { b with mismatch := true, repaired := satAdd 65535 b.repaired 1, lastRow := row } } }
  logOcc 0x8001 1064 (leBytes 1 bank ++ leBytes 1 0 ++ leBytes 2 row) (raise 1064 s1)

/-- Rows of a table that hold a match and differ from their shadow: their check code fails (R452). -/
def bcnBadRows (s : State) (b : BcnTable) (key : Nat) : List Nat :=
  let k := key % 2 ^ bcnBits b.width
  (s.bcn.rows.filter (fun e => (bankList b.banks).contains (e.1 / 32768) && decide (e.2 ≠ Tbl.get BcnRow.empty s.bcn.shadow e.1) &&
    (List.range (bcnLanes b.width)).any (fun j => entryMatches (laneOf b.width e.2 j) k))).map (·.1)

/-- Repairs the rows that a search finds bad; the search then runs again (R452). -/
def bcnFix (t key : Nat) (s : State) : State :=
  (bcnBadRows s (bcnTable s t) key).foldl (fun s a => bcnRepair (a / 32768) (a % 32768) s) s

/-- BCN_S_GO: the search and BCN_S_RESULT (R451, R472, R476). -/
def bcnGo (q : Nat) (s : State) : State :=
  let c := bcnCtx s q
  let b := bcnTable s c.sTable
  if !b.active then setBcnCtx q { c with sResult := BitVec.ofNat 64 (2 ^ 63) } s
  else
    let s1 := bcnFix c.sTable (ctxKey c) s
    let h := bcnSearch s1 c.sTable (ctxKey c)
    let v := b2n h.multi * 2 ^ 62 + b2n h.hit * 2 ^ 61 + h.count * 2 ^ 53 + h.index * 2 ^ 32 + h.res
    setBcnCtx q { c with sResult := BitVec.ofNat 64 v } (bcnSlot 1 b.banks s1)

/-- A hole: an invalid entry. -/
def isHole (s : State) (b : BcnTable) (i : Nat) : Bool := !(bcnGet s b i).valid

/-- The nearest hole at or above an index. -/
def holeUp (s : State) (b : BcnTable) : Nat → Nat → Option Nat
  | 0, _ => none
  | n + 1, i => if isHole s b i then some i else holeUp s b n (i + 1)

/-- The nearest hole below an index. -/
def holeDown (s : State) (b : BcnTable) : Nat → Option Nat
  | 0 => none
  | i + 1 => if isHole s b i then some i else holeDown s b i

/-- Moves `n` entries each one place up, the highest first: from `i + n - 1` down to `i` (R458 step 2). -/
def moveUp (b : BcnTable) (i : Nat) : Nat → State → State
  | 0, s => s
  | n + 1, s => moveUp b i n (bcnPut b (i + n + 1) (bcnGet s b (i + n)) s)

/-- Moves `n` entries each one place down, the lowest first, into the place `g` (R458 step 3). -/
def moveDown (b : BcnTable) (g : Nat) : Nat → State → State
  | 0, s => s
  | n + 1, s =>
    let s1 := moveDown b g n s
    bcnPut b (g + n) (bcnGet s1 b (g + n + 1)) s1

/-- Hole spacing N of a code (R457). -/
def holeN (code : Nat) : Nat := if code = 0 then 8 else if code = 1 then 16 else 32

/-- The append position passed over the indices that stay holes (R457). -/
def skipHoles (n p : Nat) : Nat := if p % n = n - 1 then p + 1 else p

/-- The outcome of an update command: code, index, whether BCN_U_STATUS.INDEX and VALID are set, new context. -/
structure BcnOut where
  code : Nat
  index : Nat
  valid : Bool
  ctx : BcnCtx
  st : State

/-- Key, mask and result fit the widths (R454 code 6). -/
def bcnFits (b : BcnTable) (c : BcnCtx) : Bool :=
  let key := c.uKey0.toNat + 2 ^ 64 * c.uKey1.toNat + 2 ^ 128 * c.uKey2.toNat
  let mask := c.uMask0.toNat + 2 ^ 64 * c.uMask1.toNat + 2 ^ 128 * c.uMask2.toNat
  decide (key < 2 ^ bcnBits b.width) && decide (mask < 2 ^ bcnBits b.width) && decide (c.uRes.toNat < 2 ^ (32 / bcnLanes b.width))

/-- The entry that a context's words describe. -/
def ctxEntry (c : BcnCtx) : BcnEntry :=
  { key := c.uKey0.toNat + 2 ^ 64 * c.uKey1.toNat + 2 ^ 128 * c.uKey2.toNat
    mask := c.uMask0.toNat + 2 ^ 64 * c.uMask1.toNat + 2 ^ 128 * c.uMask2.toNat, res := c.uRes.toNat, valid := true }

/-- Invalidates every entry of the rows of some banks. -/
def clearBanks (banks : BitVec 16) (s : State) : State :=
  { s with bcn := { s.bcn with rows := s.bcn.rows.filter (fun e => !banks.getLsbD (e.1 / 32768))
                               shadow := s.bcn.shadow.filter (fun e => !banks.getLsbD (e.1 / 32768)) } }

/-- Banks owned by the other tables. -/
def otherBanks (s : State) (t : Nat) : BitVec 16 :=
  (List.range 16).foldl (fun m u => if u = t then m else m ||| (bcnTable s u).banks) 0

/-- Bits of one code and index. -/
def bcnDone (code : Nat) (c : BcnCtx) (s : State) : BcnOut := { code := code, index := 0, valid := false, ctx := c, st := s }

/-- WRITE (R453, R455). -/
def bcnWrite (b : BcnTable) (c : BcnCtx) (s : State) : BcnOut :=
  if !b.active then bcnDone 2 c s
  else if bcnEntries b ≤ c.uIndex then bcnDone 1 c s
  else if !bcnFits b c then bcnDone 6 c s
  else bcnDone 0 c (bcnPut b c.uIndex (ctxEntry c) s)

/-- INVALIDATE (R453). -/
def bcnInvalidate (b : BcnTable) (c : BcnCtx) (s : State) : BcnOut :=
  if !b.active then bcnDone 2 c s
  else if bcnEntries b ≤ c.uIndex then bcnDone 1 c s
  else bcnDone 0 c (bcnPut b c.uIndex { bcnGet s b c.uIndex with valid := false } s)

/-- READ (R453). -/
def bcnRead (b : BcnTable) (c : BcnCtx) (s : State) : BcnOut :=
  if !b.active then bcnDone 2 c s
  else if bcnEntries b ≤ c.uIndex then bcnDone 1 c s
  else
    let e := bcnGet s b c.uIndex
    { code := 0, index := 0, valid := e.valid, st := s,
      ctx := { c with uKey0 := BitVec.ofNat 64 e.key, uKey1 := BitVec.ofNat 64 (e.key / 2 ^ 64), uKey2 := BitVec.ofNat 64 (e.key / 2 ^ 128),
                      uMask0 := BitVec.ofNat 64 e.mask, uMask1 := BitVec.ofNat 64 (e.mask / 2 ^ 64),
                      uMask2 := BitVec.ofNat 64 (e.mask / 2 ^ 128), uRes := BitVec.ofNat 32 e.res } }

/-- INSERT (R458). -/
def bcnInsert (t : Nat) (b : BcnTable) (c : BcnCtx) (s : State) : BcnOut :=
  let n := bcnEntries b
  let i := c.uIndex
  if !b.active then bcnDone 2 c s
  else if n ≤ i then bcnDone 1 c s
  else if !bcnFits b c then bcnDone 6 c s
  else
    let up := fun h =>
      let s1 := bcnPut b i (ctxEntry c) (moveUp b i (h - i) s)
      let s2 := if b.append ≤ h then setBcnTable t { b with append := h + 1 } s1 else s1
      { code := 0, index := i, valid := false, ctx := c, st := s2 : BcnOut }
    let down := fun g =>
      let s1 := bcnPut b (i - 1) (ctxEntry c) (moveDown b g (i - 1 - g) s)
      { code := 0, index := i - 1, valid := false, ctx := c, st := s1 : BcnOut }
    match holeUp s b (n - i) i, holeDown s b i with
    | some h, some g => if h - i ≤ i - g then up h else down g
    | some h, none => up h
    | none, some g => down g
    | none, none => bcnDone 3 c s

/-- APPEND (R457). -/
def bcnAppend (t : Nat) (b : BcnTable) (c : BcnCtx) (s : State) : BcnOut :=
  let n := holeN b.hole
  let p := skipHoles n b.append
  if !b.active then bcnDone 2 c s
  else if !bcnFits b c then bcnDone 6 c s
  else if bcnEntries b ≤ p then bcnDone 3 c s
  else
    { code := 0, index := p, valid := false, ctx := c,
      st := setBcnTable t { b with append := skipHoles n (p + 1) } (bcnPut b p (ctxEntry c) s) }

/-- CLEAR (R453). -/
def bcnClear (t : Nat) (b : BcnTable) (c : BcnCtx) (s : State) : BcnOut :=
  if !b.active then bcnDone 2 c s
  else bcnDone 0 c (setBcnTable t { b with append := 0 } (clearBanks b.banks s))

/-- CREATE, from the PF only (R453, R454). -/
def bcnCreate (pf : Bool) (t : Nat) (b : BcnTable) (c : BcnCtx) (s : State) : BcnOut :=
  if !pf then bcnDone 4 c s
  else if b.cfgWidth = 0 ∨ b.cfgHole = 3 ∨ b.cfgBanks = 0 then bcnDone 6 c s
  else if b.active ∨ otherBanks s t &&& b.cfgBanks ≠ 0 then bcnDone 7 c s
  else bcnDone 0 c (setBcnTable t { b with active := true, banks := b.cfgBanks, width := b.cfgWidth, hole := b.cfgHole, append := 0 }
      (clearBanks b.cfgBanks s))

/-- GROW, from the PF only (R453, R454). -/
def bcnGrow (pf : Bool) (t : Nat) (b : BcnTable) (c : BcnCtx) (s : State) : BcnOut :=
  let add := b.cfgBanks &&& ~~~b.banks
  if !pf then bcnDone 4 c s
  else if !b.active then bcnDone 2 c s
  else if b.cfgBanks = 0 then bcnDone 6 c s
  else if legsNaming s t ≠ 0 then bcnDone 5 c s
  else if otherBanks s t &&& add ≠ 0 ∨ (bankList add).any (fun x => (bankList b.banks).any (fun y => decide (x < y))) then bcnDone 7 c s
  else bcnDone 0 c (setBcnTable t { b with banks := b.banks ||| add } (clearBanks add s))

/-- DELETE, from the PF only (R453, R454). -/
def bcnDelete (pf : Bool) (t : Nat) (b : BcnTable) (c : BcnCtx) (s : State) : BcnOut :=
  if !pf then bcnDone 4 c s
  else if !b.active then bcnDone 2 c s
  else if legsNaming s t ≠ 0 then bcnDone 5 c s
  else bcnDone 0 c (setBcnTable t { b with active := false, banks := 0, append := 0 } (clearBanks b.banks s))

/-- Stores an update command's outcome in the requester's context (R454, R476). -/
def bcnFinish (q : Nat) (o : BcnOut) : State :=
  setBcnCtx q { o.ctx with uStatus := BitVec.ofNat 64 (o.index * 2 ^ 32 + b2n o.valid * 2 ^ 8 + o.code) } o.st

/-- A BCN_U_CMD write by a requester: 0 the PF, key + 1 a task (R453). -/
def bcnCommand (q cmd : Nat) (s : State) : State :=
  let c := bcnCtx s q
  let t := c.uTable
  let b := bcnTable s t
  let pf := decide (q = 0)
  let s0 := bcnSlot 2 b.banks s
  match cmd with
  | 0x1 => bcnFinish q (bcnWrite b c s0)
  | 0x2 => bcnFinish q (bcnInvalidate b c s0)
  | 0x3 => bcnFinish q (bcnRead b c s0)
  | 0x4 => bcnFinish q (bcnInsert t b c s0)
  | 0x5 => bcnFinish q (bcnAppend t b c s0)
  | 0x6 => bcnFinish q (bcnClear t b c s0)
  | 0x8 => bcnFinish q (bcnCreate pf t b c s0)
  | 0x9 => bcnFinish q (bcnGrow pf t b c s0)
  | 0xA => bcnFinish q (bcnDelete pf t b c s0)
  | _ => bcnFinish q (bcnDone 6 c s)

/-- A row whose shadow is uncorrectable: its entries and its shadow are lost (R464). -/
def bcnLose (bank row : Nat) (s : State) : State :=
  let b := Tbl.get BcnBank.reset s.bcn.banks bank
  let k := 32768 * bank + row
  let s1 := { s with bcn := { s.bcn with
    rows := Tbl.put BcnRow.empty s.bcn.rows k { Tbl.get BcnRow.empty s.bcn.rows k with valid := 0 }
    shadow := Tbl.put BcnRow.empty s.bcn.shadow k { Tbl.get BcnRow.empty s.bcn.shadow k with valid := 0 }
    banks := Tbl.put BcnBank.reset s.bcn.banks bank
      { b with lost := true, lostCnt := satAdd 65535 b.lostCnt 1, lastRow := row } } }
  logOcc 0x8002 1064 (leBytes 1 bank ++ leBytes 1 0 ++ leBytes 2 row) (raise 1064 s1)

/-- Rows listed in the array or the shadow that differ. -/
def bcnDiffer (s : State) : List Nat :=
  ((s.bcn.rows ++ s.bcn.shadow).map (·.1)).dedup.filter (fun k =>
    Tbl.get BcnRow.empty s.bcn.rows k ≠ Tbl.get BcnRow.empty s.bcn.shadow k)

/-- A scrub pass: rows that differ from their shadow, in the state or as the array reads now (`decayed`), are repaired; rows
whose shadow reads uncorrectable (`dead`) are lost (R462, R464). Keys are 32,768 × bank + row. -/
def execBeaconScrubPass (decayed dead : List (Fin 524288)) (s : State) : Host.Outcome State Fault Refusal :=
  let bad := ((bcnDiffer s) ++ decayed.map (·.val)).dedup.filter (fun k => !(dead.map (·.val)).contains k)
  let s1 := bad.foldl (fun s k => bcnRepair (k / 32768) (k % 32768) s) s
  .next ((dead.map (·.val)).dedup.foldl (fun s k => bcnLose (k / 32768) (k % 32768) s) s1)

end Sys2Proof.Machine
end

