-- ==== Sys2Proof/Machine/Media.lean ====
section
/-! DEFINITION. The flash array, its ledger, the journal, slots and program units (chapters 2 and 3). -/

namespace Sys2Proof.Machine

/-! Map entries (R63). -/

/-- Fields of a map entry. -/
def enPort (e : Nat) : Nat := bitsOf e 47 38
def enPlane (e : Nat) : Nat := bitsOf e 37 36
def enBlock (e : Nat) : Nat := bitsOf e 35 25
def enPage (e : Nat) : Nat := bitsOf e 24 13
def enOneBit (e : Nat) : Bool := bitOf e 12
def enOff (e : Nat) : Nat := bitsOf e 11 8
def enLen (e : Nat) : Nat := bitsOf e 7 4
def enPresent (e : Nat) : Nat := bitsOf e 3 0

/-- An entry of its fields. -/
def mkEntry (port plane block page : Nat) (oneBit : Bool) (off len present : Nat) : Nat :=
  port * 2 ^ 38 + plane * 2 ^ 36 + block * 2 ^ 25 + page * 2 ^ 13 + b2n oneBit * 2 ^ 12 + off * 2 ^ 8 + len * 2 ^ 4 + present

/-- An entry with other PRESENT bits; all zero when none is set (R64). -/
def withPresent (e p : Nat) : Nat := if p % 16 = 0 then 0 else (e / 16) * 16 + p % 16

/-- Keys of the map and the directory. -/
def baleKey (nsid bale : Nat) : Nat := 2 ^ 32 * nsid + bale
def mapKey (nsid bale grain : Nat) : Nat := baleKey nsid bale * 4096 + grain
def idKey (g : GrainId) : Nat := mapKey g.nsid g.bale g.grain

/-- The map entry of a grain, 0 while unmapped. -/
def mapEntry (s : State) (k : Nat) : Nat := Tbl.get 0 s.med.map k

/-- The page key of an entry's physical place. -/
def pageKey (port plane phys page : Nat) : Nat := (4 * port + plane) * 2 ^ 23 + phys * 2 ^ 12 + page
def entryPage (e : Nat) : Nat := pageKey (enPort e) (enPlane e) (enBlock e) (enPage e)

/-- The plane block that serves a die block in a plane (R57). -/
def physOf (s : State) (port plane block : Nat) : Nat := Tbl.get block s.med.remap ((4 * port + plane) * 1024 + block)

/-- The die block that a plane block serves in a plane. -/
def blockOf (s : State) (port plane phys : Nat) : Nat :=
  match s.med.remap.find? (fun e => e.1 / 1024 = 4 * port + plane ∧ e.2 = phys) with
  | some e => e.1 % 1024
  | none => phys

/-- Drops the pages of a die block. -/
def wipePages (bk : Nat) (s : State) : State :=
  let p := blkPort bk
  let keys := (List.range 4).map (fun pl => (4 * p + pl) * 2 ^ 11 + physOf s p pl (bk % 1024))
  { s with med := { s.med with pages := s.med.pages.filter (fun e => !keys.contains (e.1 / 2 ^ 12)) } }

/-- The die block that an entry points into. -/
def entryBlk (s : State) (e : Nat) : Nat := blkKey (enPort e) (blockOf s (enPort e) (enPlane e) (enBlock e))

/-- Replaces a die block. -/
def setBlk (bk : Nat) (b : DieBlock) (s : State) : State :=
  { s with med := { s.med with blocks := Tbl.put DieBlock.fresh s.med.blocks bk b } }

/-- Adds to or takes from a ledger count. -/
def ledgerSet (ch code v : Nat) (s : State) : State :=
  { s with med := { s.med with ledger := Tbl.put (if code = 0 then chTotal s else 0) s.med.ledger (8 * ch + code) v } }

/-- Moves one die block from a state to a state in its channel's ledger (R120, R121). -/
def ledgerMove (ch a b : Nat) (s : State) : State :=
  let s1 := ledgerSet ch a (ledgerOf s ch a - 1) s
  ledgerSet ch b (ledgerOf s1 ch b + 1) s1

/-! The journal (R72 to R77, R84, R86). -/

/-- Appends a record; reaching 128 MiB begins a checkpoint, reaching 256 MiB stalls admission (R72, R84, R86). -/
def jrn (source : Nat) (body : JBody) (act : JAct) (s : State) : State :=
  let m := s.med
  let seq := m.seq + 1
  let s1 := { s with med := { m with seq := seq, journal := m.journal ++ [{ seq := seq, source := source, body := body, act := act, torn := false }] } }
  let live := liveBytes s1
  let s2 := if m.ckptStep = 0 ∧ 2 ^ 27 ≤ live then
      { s1 with med := { s1.med with seq := seq + 1, ckptStep := 1, ckptNum := m.ckptNum + 1, ckptBegin := seq + 1,
                                     journal := s1.med.journal ++ [{ seq := seq + 1, source := 8, body := .ckptBegin (m.ckptNum + 1),
                                                                     act := .nothing, torn := false }] } }
    else s1
  if 2 ^ 28 ≤ live ∧ ¬ m.jrnStall then
    raise 1075 { s2 with med := { s2.med with jrnStall := true, jrnSticky := true } }
  else s2

/-- Changes a die block's state: ledger at once, journal record (R118, R121). -/
def blkState (bk : Nat) (new : BlkState) (s : State) : State :=
  let b := getBlk s bk
  if b.state = new then s
  else
    let p := blkPort bk
    let s1 := ledgerMove (portChannel p) b.state.code new.code s
    let s2 := setBlk bk { b with state := new } s1
    jrn (portWing p) (.blockState p (bk % 1024) b.role b.state new b.erases) .nothing s2

/-- The entry of a grain as every record already issued will leave it (R102). -/
def projStep (k : Nat) (e : Nat) (r : JRec) : Nat :=
  match r.body with
  | .mapSet n b items => ((items.filter (fun i => mapKey n b i.1 = k)).map (·.2)).getLastD e
  | .mapMove n b items =>
    (items.filter (fun i => mapKey n b i.1 = k)).foldl (fun e i =>
      if e / 16 = i.2.1 / 16 then withPresent i.2.2 (enPresent e) else e) e
  | .mapTrim n b first count =>
    if k / 4096 = baleKey n b then
      let g := k % 4096
      let keep := ((List.range 4).map (fun i => if first ≤ 4 * g + i ∧ 4 * g + i < first + count then 0 else 2 ^ i)).sum
      withPresent e (Nat.land (enPresent e) keep)
    else e
  | _ => e

/-- The projected entry of a grain. -/
def projEntry (s : State) (k : Nat) : Nat :=
  (s.med.journal.filter (fun r => s.med.durSeq < r.seq)).foldl (projStep k) (mapEntry s k)

/-! Grain content. -/

/-- The page under a key. -/
def getPage (s : State) (k : Nat) : Option Page := Tbl.find s.med.pages k

/-- What a page adds to the XOR of its row; nothing for a parity page, a checkpoint page or one cut short. -/
def pageTerm : PageBody → Option TermBody
  | .raw id img => some (.raw id img)
  | .packed items => some (.packed items)
  | .pad => some .pad
  | _ => none

/-- The content of a slot that an entry points to: a packed grain is the item at its offset. -/
def termImg (e : Nat) : Option TermBody → GrainImg
  | some (.raw _ img) => img
  | some (.packed items) => ((items.find? (fun i => i.off = enOff e)).map (·.img)).getD GrainImg.zero
  | _ => GrainImg.zero

/-- The content that an entry points to. -/
def imgAt (s : State) (e : Nat) : GrainImg :=
  if enPresent e = 0 then GrainImg.zero else termImg e ((getPage s (entryPage e)).bind (fun p => pageTerm p.body))

/-- Issues a die read (R108, R109). -/
def addRead (g : GrainId) (entry old : Nat) (why : ReadWhy) (s : State) : State :=
  { s with med := { s.med with reads := s.med.reads ++ [{ id := s.med.nextRead, grain := g, entry := entry, old := old, why := why, asked := false }],
                               nextRead := s.med.nextRead + 1 } }

/-- The content of a grain as its entry has it. -/
def grainImg (s : State) (k : Nat) : GrainImg := { imgAt s (mapEntry s k) with present := enPresent (mapEntry s k) }

/-- The grain's data can be had: it is not lost, and its key generation is the namespace's (R140, R159, R693). -/
def grainLost (s : State) (k : Nat) : Bool := s.med.lost.contains k

/-- The generation of a namespace's keys (R692). -/
def nsGeneration (s : State) (nsid : Nat) : Nat := Tbl.get 1 s.sec.nsGen nsid

/-- The XTS data key and tweak key of a namespace at a generation (R691). -/
def nsKeys (s : State) (nsid gen : Nat) : List Byte := kdf (s.sec.root.getD []) (fitBytes 32 ([0x00, 0x01] ++ beBytes 4 nsid)) gen 512

/-- A data unit that was encrypted under a generation as the wing's XTS engine gives it, under the namespace's present one (R107, R693, R696). -/
def unitRead (s : State) (nsid gen tweak : Nat) (m : List Byte) : List Byte :=
  if gen = nsGeneration s nsid then m
  else xtsDec (nsKeys s nsid (nsGeneration s nsid)) tweak (xtsEnc (nsKeys s nsid gen) tweak m)

/-- A block of a grain as a read returns it: zeros where its PRESENT bit is clear (R65). `lba`: the first block of the grain. -/
def blockBytes (s : State) (nsid lba : Nat) (img : GrainImg) (present i : Nat) : List Byte :=
  if ¬ bitOf present i then List.replicate 4096 0 else unitRead s nsid img.gen (lba + i) (Memory.readBytes img.data (4096 * i) 4096)

/-- The metadata of a block of a grain, `n` bytes. -/
def blockMd (s : State) (nsid lba : Nat) (img : GrainImg) (present i n : Nat) : List Byte :=
  if bitOf present i then ((unitRead s nsid img.gen (2 ^ 64 + lba) (Memory.readBytes img.md 0 256)).drop (64 * i)).take n else List.replicate n 0

/-- Overlays a block on a grain. -/
def putBlock (img : GrainImg) (i : Nat) (data md : List Byte) : GrainImg :=
  { img with present := Nat.lor img.present (2 ^ i), data := Memory.writeBytes img.data (4096 * i) data,
             md := Memory.writeBytes (Memory.writeBytes img.md (64 * i) (List.replicate 64 0)) (64 * i) md }

/-! Slots and program units (R149 to R154, R187, R188). -/

/-- Slots of a die block in its mode (R150). -/
def slotsOf (role : BlkRole) : Nat := if role = .qlc then 16384 else 4096

/-- Position of a port in its stripe sets (R149, log entry 41): four channels of each wing at one die position form a group. -/
def portPos (p : Nat) : Nat := 4 * portWing p + portChannel p % 4
def portGroup (p : Nat) : Nat := 4 * (p % 8) + (portChannel p % 16) / 4

/-- The port at a position of a group. -/
def groupPort (g j : Nat) : Nat := 8 * (16 * (j / 4) + 4 * (g % 4) + j % 4) + g / 4

/-- The die block of a role that is open and not full on a port, that of the oldest stripe set first; map-log blocks are in no stripe
set. -/
def openBlk (s : State) (p : Nat) (role : BlkRole) : Option Nat :=
  ((s.med.blocks.filter (fun e => blkPort e.1 = p ∧ e.2.state = .opened ∧ e.2.role = role ∧ e.2.next < slotsOf role)).foldl
    (fun (a : Option (Nat × Nat)) e => match a with
      | some x => if e.2.set < x.1 then some (e.2.set, e.1) else a
      | none => some (e.2.set, e.1)) none).map (·.2)

/-- The ember reserve block of a port (R160). DESIGN CHOICE (log entry 93): the spec does not say which block that is; a port begins with the last
of its native forecourt blocks, and the lowest Free block that may serve the forecourt replaces a used one. -/
def reserveOf (s : State) (p : Nat) : Nat := Tbl.get (nativeFc s - 1) s.med.reserve p

/-- A die block may serve a role: native forecourt blocks are the fixed set, and data blocks the others (R92, R93, R160). -/
def mayServe (s : State) (p n : Nat) (role : BlkRole) : Bool :=
  if n = reserveOf s p then false
  else if s.med.compat then true
  else if role = .forecourt then decide (n < nativeFc s) else decide (nativeFc s ≤ n)

/-- The lowest Free die block of a port that may serve a role. -/
def freeBlk (s : State) (p : Nat) (role : BlkRole) : Option Nat :=
  ((List.range (dieBlocks s)).find? (fun n => (getBlk s (blkKey p n)).state = .free && mayServe s p n role)).map (fun n => blkKey p n)

/-- Temperature band of the package of a port (R56, R827). -/
def portBand (s : State) (p : Nat) : Nat := (Tbl.get Sensor.fresh s.pwr.sensors (16 + p / 16)).band

/-- Opens a die block as a member of a stripe set. -/
def openMember (set pos : Nat) (role : BlkRole) (bk : Nat) (s : State) : State :=
  let b := getBlk s bk
  let s1 := setBlk bk { b with role := role, set := set + 1, pos := pos, next := 0, skipped := [], targets := [],
                               band := portBand s (blkPort bk) } s
  blkState bk .opened s1

/-- The die block that a stripe set gets on the channel of a position: on the group's port, else on the lowest port of that channel that
is in service and has a Free block of the role (R149). -/
def setMember (s : State) (g j : Nat) (role : BlkRole) : Option Nat :=
  let p := groupPort g j
  (p :: (List.range 8).map (fun i => 8 * portChannel p + i)).findSome? (fun q => if portOk s q then freeBlk s q role else none)

/-- Opens a stripe set of a role in a group: a member on each of the 32 channels of the group. A channel with no Free block of the role
left on any port has none: it counts as dropped out from the start (R149, R154). -/
def openSet (g : Nat) (role : BlkRole) (s : State) : State :=
  let members := (List.range 32).map (fun j => setMember s g j role)
  let n := s.med.nextSet
  let s1 := { s with med := { s.med with nextSet := n + 1, sets := Tbl.insert s.med.sets n { role := role, members := members, dropped := [] } } }
  (members.zipIdx).foldl (fun s e => match e.1 with | some bk => openMember n e.2 role bk s | none => s) s1

/-- Bytes queued for programming on a port (R187): 16 KiB for each placed grain. -/
def queuedBytes (s : State) (p : Nat) : Nat :=
  16384 * ((s.med.units.filter (fun u => u.port = p)).map (fun u => (u.items.flatMap slotGrains).length)).sum

/-- The candidate block of a port for a role: its open block or the one that would open. -/
def candBlk (s : State) (p : Nat) (role : BlkRole) : Option Nat :=
  if ¬ portOk s p then none
  else match openBlk s p role with
    | some b => some b
    | none => freeBlk s p role

/-- R187's order of two candidates: queued bytes, erase count, band, port. -/
def betterPort (s : State) (a b : Nat × Nat) : Nat × Nat :=
  let key := fun (x : Nat × Nat) => (queuedBytes s x.1, (getBlk s x.2).erases, portBand s x.1, x.1)
  let ka := key a
  let kb := key b
  if kb.1 < ka.1 then b else if ka.1 < kb.1 then a
  else if kb.2.1 < ka.2.1 then b else if ka.2.1 < kb.2.1 then a
  else if kb.2.2.1 < ka.2.2.1 then b else if ka.2.2.1 < kb.2.2.1 then a
  else if kb.2.2.2 < ka.2.2.2 then b else a

/-- The die port that R187 gives the next grain of a role in a wing. -/
def choosePort (s : State) (w : Nat) (role : BlkRole) : Option (Nat × Nat) :=
  match (List.range 128).filterMap (fun i => (candBlk s (128 * w + i) role).map (fun b => (128 * w + i, b))) with
  | [] => none
  | c :: r => some (r.foldl (betterPort s) c)

/-- The open block of a port after opening a set where needed. -/
def ensureOpen (p : Nat) (role : BlkRole) (s : State) : State :=
  match openBlk s p role with
  | some _ => s
  | none => openSet (portGroup p) role s

/-- The BLOCK_STATE record of a block's present state is durable. -/
def stateDurable (s : State) (bk : Nat) : Bool :=
  !s.med.journal.any (fun r => decide (s.med.durSeq < r.seq) && match r.body with
    | .blockState p b _ _ _ _ => decide (blkKey p b = bk)
    | _ => false)

/-- The members of a stripe set that have not dropped out, with their positions; an erased block is no member any more. -/
def liveMembers (s : State) (set : Nat) : List (Nat × Nat) :=
  match Tbl.find s.med.sets set with
  | none => []
  | some t => (t.members.zipIdx).filterMap (fun x => match x.1 with
    | some m => if (getBlk s m).set = set + 1 ∧ ¬ t.dropped.contains x.2 then some (m, x.2) else none
    | none => none)

/-- A unit's parity slots may be programmed: every other member has sent its slot of the row (R152). -/
def parityReady (s : State) (u : ProgUnit) : Bool :=
  let b := getBlk s u.block
  (u.items.zipIdx).all (fun x => match x.1 with
    | .parity => (liveMembers s (b.set - 1)).all (fun m => m.1 = u.block || decide (u.slot + x.2 < (getBlk s m.1).next))
    | _ => true)

/-- Relocations below the priority of host commands: folds below the high-water mark, reclaim at or above the urgent level (R101, R130,
R131). -/
def lowWhy (s : State) (w : Nat) : MoveWhy → Bool
  | .fold => decide (occPct s < s.med.highWater)
  | .reclaim => !belowLevel s w s.med.rclUrgent
  | _ => false

/-- The grain is a relocation. -/
def isMove (g : GrainItem) : Bool := match g.why with | .move _ _ => true | _ => false

/-- A unit of nothing but relocations below the priority of host commands. -/
def unitLow (s : State) (u : ProgUnit) : Bool :=
  let gs := u.items.flatMap slotGrains
  !gs.isEmpty && gs.all (fun g => match g.why with | .move _ why => lowWhy s (portWing u.port) why | _ => false)

/-- A unit may be programmed: it is the oldest of its die block, its parity slots have what they sum, and a relocation's target has its
Open record durable (R133 step 1, R150). -/
def unitReady (s : State) (u : ProgUnit) : Bool :=
  decide (s.med.units.find? (fun x => x.block = u.block) = some u) &&
    (s.med.flush.isSome || (parityReady s u && (!(u.items.flatMap slotGrains).any isMove || stateDurable s u.block)))

/-- The unit that a die port programs: one at a time, that it has already, else the oldest that is ready, host work first (R101, R130,
R188). -/
def nextUnit (s : State) (p : Nat) : Option ProgUnit :=
  let us := s.med.units.filter (fun u => decide (u.port = p) && u.issued && unitReady s u)
  match us.find? (·.held) with
  | some u => some u
  | none => (match us.find? (fun u => !unitLow s u) with
    | some u => some u
    | none => us.head?)

/-- The unit's program is with the die. -/
def unitStarted (s : State) (u : ProgUnit) : Bool := decide (nextUnit s u.port = some u)

/-- The unit that a port programs stays with the die, whatever comes after it. -/
def holdNext (p : Nat) (s : State) : State :=
  match nextUnit s p with
  | none => s
  | some u => { s with med := { s.med with units := s.med.units.map (fun x => if x = u then { x with held := true } else x) } }

/-- Adds an item to the next slot of a die block; a one-bit slot is a program unit of its own, a QLC unit gathers 16 slots
(R55, R90; log entry 40). -/
def pushSlot (bk : Nat) (item : SlotItem) (s : State) : State :=
  let b := getBlk s bk
  let p := blkPort bk
  let oneBit := decide (b.role ≠ .qlc)
  let s1 := setBlk bk { b with next := b.next + 1 } (holdNext p s)
  if oneBit then
    { s1 with med := { s1.med with units := s1.med.units ++ [{ port := p, block := bk, slot := b.next, oneBit := true, issued := true, held := false,
                                                                items := [item] }] } }
  else if b.next % 16 = 0 then
    { s1 with med := { s1.med with units := s1.med.units ++ [{ port := p, block := bk, slot := b.next, oneBit := false, issued := false, held := false,
                                                                items := [item] }] } }
  else
    let full := decide (b.next % 16 = 15)
    { s1 with med := { s1.med with units := s1.med.units.map (fun u =>
        if u.block = bk ∧ ¬ u.issued then { u with items := u.items ++ [item], issued := full } else u) } }

/-- The next slot of a striped block is its parity slot (R151). -/
def atParity (b : DieBlock) : Bool := decide (b.set ≠ 0 ∧ b.next % 32 = b.pos)

/-- Fills parity slots that stand next, and skips none else (R151, R152). -/
def pushParity (bk : Nat) (s : State) : State :=
  let b := getBlk s bk
  if atParity b ∧ b.next < slotsOf b.role then pushSlot bk .parity s else s

/-- Fills the next slot of a die block with an item, and the parity slots that stand next before and after it. -/
def placeOn (bk : Nat) (item : SlotItem) (s : State) : State := pushParity bk (pushSlot bk item (pushParity bk s))

/-- Places an item in a wing under a role; the die block that took it, none where the wing has no block left. -/
def placeItem (w : Nat) (role : BlkRole) (item : SlotItem) (s : State) : State × Option Nat :=
  match choosePort s w role with
  | none => (s, none)
  | some (p, _) =>
    let s1 := ensureOpen p role s
    match openBlk s1 p role with
    | none => (s, none)
    | some bk => (placeOn bk item s1, some bk)

/-! The forecourt (R89 to R95). -/

/-- A host grain goes to the forecourt (R89). -/
def toForecourt (s : State) : Bool := decide (occPct s < s.med.highWater ∧ 0 < s.med.allowance)

/-- The role that takes host grains now (R89). -/
def hostRole (s : State) : BlkRole := if toForecourt s then .forecourt else .qlc

/-- Places host data in a wing by R89. -/
def routeItem (w : Nat) (item : SlotItem) (s : State) : State :=
  (placeItem w (hostRole s) item { s with med := { s.med with bypass := !toForecourt s } }).1

/-! Stripe rows (R151, R152, R154, R157). -/

/-- The page key of slot r of a die block (R150). -/
def slotKey (s : State) (bk r : Nat) : Nat :=
  pageKey (blkPort bk) (r % 4) (physOf s (blkPort bk) (r % 4) (bk % 1024)) (r / 4)

/-- Metadata bytes of a block in a format (R526). -/
def mdSize (n : NsInfo) : Nat := if n.lbaf = 0 then 0 else if n.lbaf = 1 then 8 else 64

/-- Bytes of a grain as the compressor takes them: its data, then its metadata (R104). -/
def inputBytes (s : State) (nsid : Nat) : Nat := 16384 + 4 * ((Tbl.find s.host.namespaces nsid).map mdSize).getD 0

/-- The items of a packed page. -/
def packedItems (s : State) (gs : List (GrainItem × Nat × Nat)) : List PackedItem :=
  gs.map (fun x => { id := x.1.id, off := x.2.1, len := x.2.2, bytes := inputBytes s x.1.id.nsid, img := x.1.img })

/-- What a slot item adds to the XOR of its row as it is sent to program. -/
def itemTerm (s : State) : SlotItem → Option TermBody
  | .raw g => some (.raw g.id g.img)
  | .packed gs => some (.packed (packedItems s gs))
  | .pad => some .pad
  | _ => none

/-- What slot r of a die block adds to the XOR of its row: a page programmed, or an item sent to program; a slot skipped or never sent
adds zero. -/
def slotTerm (s : State) (bk r : Nat) : Option TermBody :=
  match getPage s (slotKey s bk r) with
  | some p => pageTerm p.body
  | none => (s.med.units.find? (fun u => u.block = bk ∧ u.slot ≤ r ∧ r < u.slot + u.items.length)).bind
      (fun u => (u.items[r - u.slot]?).bind (itemTerm s))

/-- The terms of the parity of a row: the other members' slots, by position (R152). -/
def rowTerms (s : State) (bk r : Nat) : List (Nat × TermBody) :=
  let b := getBlk s bk
  match Tbl.find s.med.sets (b.set - 1) with
  | none => []
  | some t => (t.members.zipIdx).filterMap (fun x => match x.1 with
    | some m => if m = bk ∨ (getBlk s m).set ≠ b.set then none else (slotTerm s m r).map (fun c => (x.2, c))
    | none => none)

/-- The content of a slot as the XOR of the other 31 of its row gives it: the term that is left when every other slot cancels its own.
None where another slot of the row is not to be had (R157, R159). -/
def rebuildSlot (s : State) (bk r : Nat) : Option TermBody :=
  let b := getBlk s bk
  let there := fun (m : Nat) => decide ((getBlk s m).set = b.set) && portOk s (blkPort m)
  match Tbl.find s.med.sets (b.set - 1) with
  | none => none
  | some t =>
    match (t.members[r % 32]?).bind id with
    | none => none
    | some pk =>
      if b.set = 0 ∨ pk = bk ∨ ¬ there pk then none
      else match getPage s (slotKey s pk r) with
        | some { body := .parity terms, .. } =>
          let term := fun (j : Nat) => (terms.find? (fun x => x.1 = j)).map (·.2)
          if (t.members.zipIdx).all (fun x => decide (x.2 = r % 32) || decide (x.2 = b.pos) || match term x.2, x.1 with
              | none, _ => true
              | some c, some m => there m && decide (slotTerm s m r = some c)
              | some _, none => false) then term b.pos
          else none
        | _ => none

/-! Directory and namespaces. -/

/-- The directory entry of a bale. -/
def dirEntry (s : State) (nsid bale : Nat) : DirEntry := Tbl.get DirEntry.empty s.med.dir (baleKey nsid bale)

/-- The word of a directory entry (R70); MAPADDR is that of the map block in the wing's map partition (R748). -/
def dirWord (nsid bale : Nat) (d : DirEntry) : Nat :=
  nsid + bale * 2 ^ 32 + (if d.blockIx = 0 then 0 else 0x400000000 * d.wing + 0x100000000 + 24576 * (d.blockIx - 1)) * 2 ^ 64 +
    d.station * 2 ^ 104 + d.wing * 2 ^ 110 + d.state * 2 ^ 113

/-- The parts that an item's host write belongs to. -/
def itemParts (g : GrainItem) : List PartRef := match g.why with | .host ps _ => ps | _ => []

/-- Every grain item not yet programmed: in the cache, in open packed pages, in units. -/
def pendingItems (s : State) : List GrainItem :=
  s.med.cache.map (·.item) ++ (s.med.packing.flatMap (fun e => e.2.map (·.1))) ++
    s.med.units.flatMap (fun u => u.items.flatMap slotGrains)

/-- Health counter i of R170, saturating. -/
def healthAdd (i n : Nat) (s : State) : State :=
  { s with med := { s.med with health := Tbl.upd 0 s.med.health i (fun v => satAdd max64 v n) } }

/-- A field of MED_CH_FAIL (R172), saturating at a cap. -/
def chFailAdd (ch field cap : Nat) (s : State) : State :=
  { s with med := { s.med with chFail := Tbl.upd 0 s.med.chFail (4 * ch + field) (fun v => satAdd cap v 1) } }

/-- Spare plane blocks left in a plane. -/
def sparesLeft (s : State) (port plane : Nat) : Nat := sparesPerPlane s - Tbl.get 0 s.med.sparesUsed (4 * port + plane)

/-- Retired die blocks of a port that wait for a spare in a plane (R143). -/
def sparesClaimed (s : State) (port plane : Nat) : Nat :=
  (s.med.blocks.filter (fun e => blkPort e.1 = port ∧ e.2.state = .retired ∧ e.2.failed.contains plane)).length

/-- A directory entry from its word (R70). -/
def wordDir (w : Nat) : DirEntry :=
  let wing := bitsOf w 112 110
  let a := bitsOf w 103 64
  { station := bitsOf w 109 104, wing := wing, state := bitsOf w 115 113
    blockIx := if a = 0 then 0 else (a - 0x400000000 * wing - 0x100000000) / 24576 + 1 }

/-- Marks the segment of a grain dirty (R84). -/
def markDirty (nsid bale grain : Nat) (s : State) : State :=
  let d := (false, nsid, bale, grain / 512)
  if s.med.dirty.contains d then s else { s with med := { s.med with dirty := s.med.dirty ++ [d] } }

end Sys2Proof.Machine
end

