-- ==== Sys2Proof/Machine/MapView.lean ====
section
/-! DEFINITION. What other units ask of the map, the directory and the caravan (R62, R70, R619, R621, R649). -/

namespace Sys2Proof.Machine

/-- The namespace is attached to the function's controller. -/
def isAttached (s : State) (fn nsid : Nat) : Bool := (Tbl.get [] s.host.attached nsid).contains (cntlid s fn)

/-- The bales of a block range that have data, with owning station and wing (R62, R212). -/
def balesOfRange (s : State) (nsid slba nlb : Nat) : List (Nat × Nat × Nat) :=
  if nlb = 0 then []
  else
    (s.med.dir.filter (fun e => e.1 / 2 ^ 32 = nsid ∧ e.2.state ≠ 0 ∧ slba / 16384 ≤ e.1 % 2 ^ 32 ∧
      e.1 % 2 ^ 32 ≤ (slba + nlb - 1) / 16384)).map (fun e => (e.1 % 2 ^ 32, e.2.station, e.2.wing))

/-- A message to a station joins those that are sent. -/
def send (dest : Nat) (kind : MsgKind) (nums : List Nat) (bytes : List Byte) (grains : List (GrainId × GrainImg)) (s : State) : State :=
  { s with rte := { s.rte with outbox := s.rte.outbox ++ [{ dest := dest, kind := kind, nums := nums, bytes := bytes, grains := grains }] } }

/-- A message to every other Lit member. -/
def sendAll (kind : MsgKind) (nums : List Nat) (bytes : List Byte) (s : State) : State :=
  (otherLit s).foldl (fun s d => send d kind nums bytes [] s) s

end Sys2Proof.Machine
end

