-- ==== Sys2Proof/Machine/Log.lean ====
section
/-! DEFINITION. The Keeper's Log writer (R798 to R807, R811). -/

namespace Sys2Proof.Machine

/-- Bytes 0-251 of a record (R801). -/
def recBody (r : LogRec) : List Byte :=
  leBytes 2 r.typ ++ leBytes 2 r.source ++ leBytes 2 r.repeats ++
    leBytes 1 (b2n r.repeatSat + 2 * b2n r.inFlush + 4 * b2n r.restored) ++ leBytes 1 r.snapshot.length ++ leBytes 8 r.seq ++
    leBytes 5 r.opSeconds ++ leBytes 3 r.powerCycles ++ leBytes 5 r.lastSeen ++ [0] ++ leBytes 2 r.listVer ++ leBytes 8 r.stamp ++
    fitBytes 20 r.detail ++ fitBytes 192 (r.snapshot.flatMap (leBytes 4))

/-- A record as its 256 stored bytes. -/
def recImage (r : LogRec) : List Byte := recBody r ++ leBytes 4 r.crc

/-- A record with its CRC. -/
def recSealed (r : LogRec) : LogRec := { r with crc := crc32c (recBody r) }

/-- The slot after one: the forever area runs on into the circulating area, which wraps (R798). -/
def nextSlot (n : Nat) : Nat := if n = 16383 then 2048 else n + 1

/-- Writes an occurrence as a new record (R798). -/
def logNew (o : LogOcc) (s : State) : State :=
  let l := s.log
  let r := recSealed { typ := o.typ, source := o.source, repeats := 1, repeatSat := false, inFlush := l.flushing, restored := false,
                       seq := l.seq + 1, opSeconds := o.opSeconds, powerCycles := o.powerCycles, lastSeen := o.opSeconds,
                       listVer := o.listVer, stamp := o.stamp, detail := o.detail, snapshot := o.snapshot, crc := 0 }
  let fv := decide (l.foreverUsed < 2048)
  let s1 := { s with log := { l with slots := Tbl.insert l.slots l.head r, seq := l.seq + 1, head := nextSlot l.head,
                                     lastSlot := some l.head, foreverUsed := if fv then l.foreverUsed + 1 else l.foreverUsed } }
  if fv then asyncVendor 0xC1 (raise 1083 s1) else s1

/-- Repeats the last record: first in the update slot not used last, then in its home slot (R799, R800). -/
def logRepeat (slot : Nat) (r : LogRec) (o : LogOcc) (s : State) : State :=
  let n := r.repeats + 1
  let r1 := recSealed { r with repeats := n, lastSeen := o.opSeconds, repeatSat := decide (n = 65535) }
  let l := s.log
  let l1 := if l.updLast = 1 then { l with upd0 := some (slot, r1), updLast := 0 } else { l with upd1 := some (slot, r1), updLast := 1 }
  { s with log := { l1 with slots := Tbl.insert l1.slots slot r1 } }

/-- Writes one occurrence (R799). -/
def logWriteOcc (o : LogOcc) (s : State) : State :=
  match s.log.lastSlot with
  | none => logNew o s
  | some n =>
    match Tbl.find s.log.slots n with
    | some r => if r.typ = o.typ ∧ r.source = o.source ∧ r.repeats < 65535 then logRepeat n r o s else logNew o s
    | none => logNew o s

/-- Writes the oldest pending occurrence; at 128 pending, the losses are recorded (R804). -/
def logWriteNext (s : State) : State :=
  match s.log.queue with
  | [] => s
  | o :: r =>
    let s1 := logWriteOcc o { s with log := { s.log with queue := r } }
    if r.length = 128 ∧ 0 < s.log.lostUnlogged then
      logOcc 0xB002 1087 (leBytes 4 s.log.lostUnlogged) { s1 with log := { s1.log with lostUnlogged := 0 } }
    else s1

/-- Writes every pending occurrence, at most `n` (R804, R161 step 6). -/
def logDrain : Nat → State → State
  | 0, s => s
  | n + 1, s => match s.log.queue with | [] => s | _ => logDrain n (logWriteNext s)

/-- The scan of Kindling: a home slot whose CRC fails is restored from an update slot with the same SEQ and a good CRC (R800). -/
def logScan (s : State) : State :=
  let good := fun (r : LogRec) => decide (r.crc = crc32c (recBody r))
  let fix := fun (k : Nat) (r : LogRec) =>
    if good r then (r, 0)
    else
      let from1 := fun (u : Option (Nat × LogRec)) => match u with
        | some (h, x) => if h = k ∧ x.seq = r.seq ∧ good x then some (recSealed { x with restored := true }) else none
        | none => none
      match from1 s.log.upd0, from1 s.log.upd1 with
      | some x, _ => (x, 0)
      | none, some x => (x, 0)
      | none, none => (r, 1)
  let slots := s.log.slots.map (fun e => (e.1, (fix e.1 e.2).1))
  let bad := (s.log.slots.map (fun e => (fix e.1 e.2).2)).sum
  { s with log := { s.log with slots := slots, bad := bad, ready := true } }

/-- LOG_RECORD_WRITE (R804). -/
def execLogRecordWrite (s : State) : Host.Outcome State Fault Refusal :=
  .next (if s.mode.mode = .dark then s else logWriteNext s)

/-- A write of LOG_MARK (R806). -/
def logMark (v : Nat) (s : State) : State := logOcc 0xB003 0xFFFF (leBytes 8 v) s

/-- LOG_MARK. -/
def execLogMark (value : Word) (s : State) : Host.Outcome State Fault Refusal := .next (if pfReach s then logMark value.toNat s else s)

end Sys2Proof.Machine
end

