-- ==== Sys2Proof/Machine/Waybill.lean ====
section
/-! DEFINITION. Waybills and legs: launch, staging, results, cancels, and the end of threads and reduce tasks (R292 to R325, R212 to R217). -/

namespace Sys2Proof.Machine

/-- A locator as bytes (R246). -/
def locBytes : Option Locator → List Byte
  | none => List.replicate 16 0
  | some l => leBytes 8 l.lba ++ leBytes 2 l.off ++ leBytes 2 l.len ++ leBytes 4 l.nsid

/-- A leg summary as its 256 bytes (R271). -/
def summaryBytes (m : LegSummary) : List Byte :=
  leBytes 8 m.grains ++ leBytes 8 m.records ++ leBytes 8 m.emitted ++ leBytes 8 m.malformed ++ leBytes 8 m.shortField ++
  leBytes 8 m.unreadable ++ leBytes 8 m.searches ++ leBytes 8 m.multi ++
  (List.range 8).flatMap (fun i => leBytes 8 (Tbl.get 0 m.counts i)) ++ leBytes 8 m.bytesIn ++ leBytes 8 m.bytesOut ++
  locBytes m.firstMalformed ++ locBytes m.firstUnreadable ++ List.replicate 80 0

/-- The sum of two summaries, the first locators kept (R271, R322). -/
def addSummary (a b : LegSummary) : LegSummary :=
  { grains := satAdd max64 a.grains b.grains, records := satAdd max64 a.records b.records, emitted := satAdd max64 a.emitted b.emitted,
    malformed := satAdd max64 a.malformed b.malformed, shortField := satAdd max64 a.shortField b.shortField,
    unreadable := satAdd max64 a.unreadable b.unreadable, searches := satAdd max64 a.searches b.searches,
    multi := satAdd max64 a.multi b.multi,
    counts := (List.range 8).foldl (fun c i => Tbl.put 0 c i (satAdd max64 (Tbl.get 0 a.counts i) (Tbl.get 0 b.counts i))) [],
    bytesIn := satAdd max64 a.bytesIn b.bytesIn, bytesOut := satAdd max64 a.bytesOut b.bytesOut,
    firstMalformed := a.firstMalformed.orElse (fun _ => b.firstMalformed),
    firstUnreadable := a.firstUnreadable.orElse (fun _ => b.firstUnreadable) }

/-- The fields of a completion record (R319). -/
structure LegRecord where
  handle : Nat
  station : Nat
  wing : Nat
  leg : Nat
  attempt : Nat
  status : Nat
  outOff : Nat
  outBytes : Nat
  outRequired : Nat
  stamp : Nat
  summary : LegSummary
deriving DecidableEq, Repr

/-- The first 64 bytes of a completion record and its summary: 320 bytes (R319). -/
def recordBytes (r : LegRecord) : List Byte :=
  leBytes 4 r.handle ++ leBytes 1 r.station ++ leBytes 1 r.wing ++ leBytes 2 r.leg ++ leBytes 2 r.attempt ++ leBytes 1 r.status ++
  List.replicate 5 0 ++ leBytes 8 r.outOff ++ leBytes 8 r.outBytes ++ leBytes 8 r.outRequired ++ leBytes 8 r.stamp ++
  List.replicate 16 0 ++ summaryBytes r.summary

/-- Posts for keeper hardware; a full queue holds the post until room appears (R432, R435). -/
def postOrWait (handle flag cls : Nat) (s : State) : State :=
  match postTo handle (1#32 <<< flag) cls s with
  | (s1, .full, _) => { s1 with prog := { s1.prog with backlog := s1.prog.backlog ++ [(handle, 1#32 <<< flag, cls)] } }
  | (s1, .posted, ev) => if ev then raise (1048 + (handle / 2 ^ 11) % 8) s1 else s1
  | (s1, .dead, _) => raise (1048 + (handle / 2 ^ 11) % 8) s1

/-- Writes a completion record at the next free slot and posts FLAG_LEG (R319, R322). -/
def putRecord (wb : Waybill) (r : LegRecord) (s : State) : State × Waybill :=
  let s1 := if wb.recPos + 320 ≤ wb.recLen then slmWrite (wb.recBase + wb.recPos) (recordBytes r) s else s
  (postOrWait (wb.incarn * 2 ^ 16 + wb.task) wb.flagLeg 1 s1, { wb with recPos := wb.recPos + 320 })

/-- The bales of a waybill by owner: one leg for each owning station and wing, stations and wings rising (R212). -/
def legGroups (bales : List (Nat × Nat × Nat)) : List (Nat × Nat × List Nat) :=
  (List.range 64).flatMap (fun st => (List.range 8).filterMap (fun w =>
    match (bales.filter (fun b => b.2.1 = st ∧ b.2.2 = w)).map (·.1) with
    | [] => none
    | l => some (st, w, l)))

/-- What a leg at another station is told: its numbers, then its bales; its plan image and its program image (R312). -/
def legNums (l : RunLeg) (planLen : Nat) : List Nat :=
  [l.handle, l.leg, l.attempt, l.wing, l.nsid, l.firstGrain, l.lastGrain, l.fn, l.gen, l.progSlot, l.doorMask.toNat, l.prio, l.flagBatch,
   l.redEntry, l.descAddr, l.batchBytes, l.depth, l.legOutMax, planLen] ++ l.bales

/-- Every leg of a waybill is done. -/
def wbDone (wb : Waybill) : Bool := wb.legs.all (fun l => l.done.isSome)

/-- After the last leg: the final record, and the handle is freed (R322). -/
def wbFinish (wb : Waybill) (s : State) : State :=
  if wbDone wb then
    let r : LegRecord := { handle := wb.handle, station := ownStation s, wing := 0xFF, leg := 0xFFFF, attempt := 0, status := wb.maxStatus,
                           outOff := 0, outBytes := wb.totalOut, outRequired := wb.totalReq, stamp := s.td17, summary := wb.summary }
    let (s1, _) := putRecord wb r s
    { s1 with prog := { s1.prog with waybills := Tbl.erase s1.prog.waybills wb.handle } }
  else { s with prog := { s.prog with waybills := Tbl.insert s.prog.waybills wb.handle wb } }

/-- A leg's output and record arrive at the launching station (R319 to R322). A leg that is not awaited or an attempt before the one known here
is discarded; the station that runs it may have issued it again (R27, R217). -/
def legDeliver (handle leg attempt status stamp : Nat) (out : List Byte) (required : Nat) (summary : LegSummary) (s : State) : State :=
  match Tbl.find s.prog.waybills handle with
  | none => s
  | some wb =>
    match wb.legs.find? (fun l => l.leg = leg ∧ l.attempt ≤ attempt ∧ l.done.isNone) with
    | none => s
    | some e =>
      let room := wb.resLen - wb.resPos
      let n := min out.length room
      let cut := wb.resFull || decide (room < out.length)
      let st := if cut then max status 1 else status
      let s1 := slmWrite (wb.resBase + wb.resPos) (out.take n) s
      let r : LegRecord := { handle := handle, station := e.station, wing := e.wing, leg := leg, attempt := attempt, status := st,
                             outOff := wb.resPos, outBytes := n, outRequired := required, stamp := stamp, summary := summary }
      let (s2, wb1) := putRecord wb r s1
      wbFinish { wb1 with resPos := wb.resPos + n, resFull := cut, maxStatus := max wb.maxStatus st,
                          legs := wb1.legs.map (fun l => if l.leg = leg then { l with done := some st } else l),
                          totalOut := wb.totalOut + n, totalReq := wb.totalReq + required,
                          summary := addSummary wb.summary summary } s2

/-- The reduce tasks of a leg: those whose leg reference names it. -/
def legTasks (s : State) (l : RunLeg) : List Nat :=
  (s.disp.tasks.filter (fun e => match e.2.leg with
    | some r => r.station = l.station ∧ r.handle = l.handle ∧ r.leg = l.leg
    | none => false)).map (·.1)

/-- A leg is the one a reference names. -/
def isLeg (station handle leg : Nat) (l : RunLeg) : Bool := decide (l.station = station ∧ l.handle = handle ∧ l.leg = leg)

/-- The pages of a leg's staging that no other leg of the pool has are freed, and read as zeros (R313, R755). -/
def freeStaging (rest : List RunLeg) (l : RunLeg) (s : State) : State :=
  let has := fun (x : RunLeg) (p : Nat) => decide (x.base / 4096 ≤ p ∧ 4096 * p < x.base + x.size)
  let gone := fun (p : Nat) => has l p && !rest.any (fun x => decide (x.state = .running ∧ x.pool = l.pool) && has x p)
  let s1 := clearPages l.pool (fun p => decide (0x80000 ≤ p) && gone (p - 0x80000)) s
  { s1 with prog := { s1.prog with staging := s1.prog.staging.filter (fun e => !(decide (e.1 / 2 ^ 27 = l.pool) && gone (e.1 % 2 ^ 27 / 4096))) } }

/-- Takes a leg off this station: its tasks end, its reads and records leave the sieves, its staging is free (R272, R313). -/
def legRemove (l : RunLeg) (s : State) : State :=
  let s1 := (legTasks s l).foldl (fun s k => retireTask k s) s
  let clean := fun (c : SivCh) =>
    let mine := match c.reads.head? with | some r => isLeg r.station r.handle r.leg l | none => false
    let c1 := { c with reads := c.reads.filter (fun r => !isLeg r.station r.handle r.leg l) }
    if mine && c.active then { c1 with recs := [], framed := [], badAfter := none, active := false, bcnStall := false, outStall := false, postStall := false } else c1
  let rest := s1.prog.legs.filter (fun x => !isLeg l.station l.handle l.leg x)
  let s2 := if l.state = .running then freeStaging rest l s1 else s1
  { s2 with prog := { s2.prog with legs := rest }
            siv := s2.siv.map (fun e => (e.1, clean e.2)) }

/-- A leg ends at this station: its output goes to the launching station (R318, R319). -/
def legEnd (l : RunLeg) (status : Nat) (s : State) : State :=
  let out := Memory.readBytes s.prog.staging (poolBase l.pool + l.base + l.size - l.legOutMax) l.outBytes
  let st := if l.outTrunc then max status 1 else status
  let s1 := cntMod 5 1 (legRemove l s)
  let r : LegRecord := { handle := l.handle, station := ownStation s, wing := l.wing, leg := l.leg, attempt := l.attempt, status := st,
                         outOff := 0, outBytes := out.length, outRequired := l.outRequired, stamp := s.td17, summary := l.summary }
  let s2 := if l.station = ownStation s then legDeliver l.handle l.leg l.attempt st s.td17 out l.outRequired l.summary s1
    else { s1 with prog := { s1.prog with outbox := s1.prog.outbox ++ [.output l.station l.handle l.leg l.attempt (recordBytes r) out] } }
  settleFn l.fn s2

/-- A leg of another station that is cancelled before it starts: that station learns of it by an output without a record (R323). -/
def legUnstarted (l : RunLeg) (s : State) : State :=
  { s with prog := { s.prog with outbox := s.prog.outbox ++ [.output l.station l.handle l.leg l.attempt [] []] } }

/-- A cancelled leg that had not started at another station writes no record; the final record follows when no leg is left (R323). -/
def legDropped (handle leg : Nat) (s : State) : State :=
  match Tbl.find s.prog.waybills handle with
  | none => s
  | some wb => wbFinish { wb with legs := wb.legs.filter (fun l => l.leg ≠ leg) } s

/-- The leg of this station that a reduce task belongs to. -/
def findLeg (s : State) (r : LegRef) : Option RunLeg := s.prog.legs.find? (isLeg r.station r.handle r.leg)

/-- Replaces a leg. -/
def updLeg (station handle leg : Nat) (f : RunLeg → RunLeg) (s : State) : State :=
  { s with prog := { s.prog with legs := s.prog.legs.map (fun l => if isLeg station handle leg l then f l else l) } }

/-- The sieves are done on a leg (BT_STATE bit 0). -/
def sievesDone (l : RunLeg) : Bool := (List.range 16).all (fun i => l.doneCh.contains (16 * l.wing + i))

/-- A leg ends when its sieves are done and every reduce task has written BT_END (R318). -/
def legCheckEnd (station handle leg : Nat) (s : State) : State :=
  match s.prog.legs.find? (isLeg station handle leg) with
  | none => s
  | some l =>
    if l.state = .running ∧ sievesDone l ∧ (List.range l.plan.queues).all (fun q => l.ended.contains q) then legEnd l 0 s else s

/-- Cancels a waybill. A cancel writes a record with STATUS 2 for each leg running here, tells the other stations and, when no
leg is left, writes the final record (R323); a discard writes nothing (R295, R324). -/
def wbCancel (handle : Nat) (discard : Bool) (s : State) : State :=
  match Tbl.find s.prog.waybills handle with
  | none => s
  | some wb =>
    let own := ownStation s
    let mine := s.prog.legs.filter (fun l => l.station = own ∧ l.handle = handle)
    let remote := wb.legs.filter (fun l => l.station ≠ own ∧ l.done.isNone)
    let s0 := { s with prog := { s.prog with outbox := s.prog.outbox ++ remote.map (fun l => .cancel l.station handle l.leg) } }
    if discard then
      let s1 := mine.foldl (fun s l => legRemove l s) s0
      { s1 with prog := { s1.prog with waybills := Tbl.erase s1.prog.waybills handle } }
    else
      let waiting := (mine.filter (fun l => l.state = .waiting)).map (·.leg)
      let s1 := { s0 with prog := { s0.prog with
        waybills := Tbl.insert s0.prog.waybills handle
          { wb with cancelled := true, legs := wb.legs.filter (fun l => !waiting.contains l.leg) }
        legs := s0.prog.legs.filter (fun l => !(l.station = own ∧ l.handle = handle ∧ l.state = .waiting)) } }
      let s2 := (mine.filter (fun l => l.state = .running)).foldl (fun s l => legEnd l 2 s) s1
      match Tbl.find s2.prog.waybills handle with
      | some w2 => wbFinish { w2 with maxStatus := max w2.maxStatus 2 } s2
      | none => s2

/-- Waybills in flight of a thread. -/
def wbOf (s : State) (key : Nat) : List Waybill := s.prog.waybills.vals.filter (fun w => w.task = key)

/-- Ends a thread: its waybills are cancelled and discarded, its slot is free, and then the completion is posted (R295, R296). -/
def endThread (key : Nat) (st : Status) (dw0 dw1 : Nat) (s : State) : State :=
  match getTask s key with
  | none => s
  | some t =>
    let s1 := (wbOf s key).foldl (fun s w => wbCancel w.handle true s) s
    let s2 := retireTask key s1
    match t.cmd with
    | some r => completeCmd r st dw0 dw1 [] s2
    | none => s2

/-- Length of range 0. -/
def range0Len (t : Task) : Nat := (t.ranges.head?).elim 0 (·.2)

/-- CTL_EXIT with a program status (R295, R296, R302). -/
def threadExit (key status : Nat) (s : State) : State :=
  match getTask s key with
  | none => s
  | some t =>
    if t.outPos.toNat ≤ range0Len t then endThread key stOk (min t.outPos.toNat 0xFFFFFFFF) status s
    else endThread key stTruncated (min t.outPos.toNat 0xFFFFFFFF) status s

/-- BT_END of a reduce task: the task ends; its leg may end with it (R318). -/
def reduceEnd (key : Nat) (s : State) : State :=
  match getTask s key with
  | none => s
  | some t =>
    match t.leg with
    | none => retireTask key s
    | some r =>
      let s1 := updLeg r.station r.handle r.leg (fun l =>
        { l with ended := r.queue :: l.ended
                 batches := l.batches.map (fun b => if b.queue = r.queue ∧ (b.state = .posted ∨ b.state = .held) then { b with state := .free } else b) }) s
      legCheckEnd r.station r.handle r.leg (retireTask key s1)

/-- A leg is issued again from its first bale with a new attempt number, on a wing that computes (R27, R217). -/
def reissueLeg (l : RunLeg) (w : Nat) (s : State) : State :=
  let s1 := legRemove l s
  let att := l.attempt + 1
  let l1 : RunLeg := { l with attempt := att, wing := l.wing, pool := w, state := .waiting, progress := [], doneCh := [], batches := [],
                              nextSeq := [], nextPost := 0, outBytes := 0, outRequired := 0, outTrunc := false, ended := [],
                              summary := LegSummary.zero, base := 0, arrival := s1.prog.nextArrival }
  let wbs := s1.prog.waybills.map (fun e => (e.1,
    if e.1 = l.handle ∧ l.station = ownStation s then
      { e.2 with legs := e.2.legs.map (fun x => if x.leg = l.leg then { x with attempt := att } else x) } else e.2))
  { s1 with prog := { s1.prog with legs := s1.prog.legs ++ [l1], waybills := wbs, nextArrival := s1.prog.nextArrival + 1 } }

/-- A task that reads an uncorrectable line of SLM, or loses its hold image (R761): a thread ends with Internal Error, a reduce task's
leg is issued again. -/
def taskLost (key : Nat) (s : State) : State :=
  match getTask s key with
  | none => s
  | some t =>
    match t.kind with
    | .thread => endThread key stInternal 0 0 s
    | .reduce =>
      match t.leg.bind (findLeg s) with
      | some l => reissueLeg l l.pool s
      | none => retireTask key s

/-- A task's fault: the log record, the counter, and the end of the thread or of the leg (R379 to R384, R296). -/
def taskFault (key code pc : Nat) (s : State) : State :=
  match getTask s key with
  | none => s
  | some t =>
    let w := servingWing s (key / 2048)
    let detail := leBytes 1 code ++ leBytes 1 t.core ++ leBytes 2 t.fn ++ leBytes 1 t.progSlot ++ leBytes 3 0 ++ leBytes 8 pc
    let s1 := logOcc 0x6001 (1056 + w) detail (cntCoreAt t.core 4 1 (handleOf key t) pc s)
    let s2 := if code = 0x06 then { s1 with chr := { s1.chr with faultFn := t.fn, faultPc := pc % 2 ^ 32 } } else s1
    let s3 := updTask key (fun t => { t with regs := { t.regs with fault := BitVec.ofNat 8 code } }) s2
    match t.kind with
    | .thread => endThread key (if code = 0x06 then stDenied else stInternalDnr) code (pc % 2 ^ 32) s3
    | .reduce =>
      match t.leg.bind (findLeg s3) with
      | some l => legEnd l 2 s3
      | none => retireTask key s3

end Sys2Proof.Machine
end

