-- ==== Sys2Proof/Machine/Modes.lean ====
section
/-! DEFINITION. Module states, Extinguished, the start of the ember flush, and wings leaving and entering service (chapters 1, 9, 19,
20). -/

namespace Sys2Proof.Machine

/-- The record of R54 with MSC_STATE before, captured in the update that changed it. -/
def noteState (before : Nat) (s : State) : State :=
  raise 1084 (logOcc 0x0001 1084 (leBytes 4 before ++ leBytes 4 (mscState s)) s)

/-- Changes MSC_STATE.STATE and REASON in one update (R53, R54). -/
def setMode (m : Mode) (reason : Nat) (s : State) : State :=
  noteState (mscState s) { s with mode := { s.mode with mode := m, reason := reason } }

/-- Changes WING_OUT and WING_FAULT in one update; a change of WING_OUT is recorded (R54). -/
def setWingBits (out fault : BitVec 8) (s : State) : State :=
  let s1 := { s with mode := { s.mode with wingOut := out, wingFault := fault } }
  if out = s.mode.wingOut then s1 else noteState (mscState s) s1

/-- Host data of these items has fully arrived and is saved by a flush: grains of host writes, and mirrors of other owners
(R161 step 4). -/
def flushSaves (g : GrainItem) : Bool := match g.why with | .host _ _ => true | .mirror _ _ => true | _ => false

/-- Ports whose program has been started (R188). -/
def startedPorts (s : State) : List Nat := ((s.med.units.filter (unitStarted s)).map (·.port)).dedup

/-- Starts the ember flush with its steps 1 and 2: admission stops, running erases are reset and their blocks stay
Pending-erase; step 3 begins (R161, R821). An ember flush already under way goes on (R822). -/
def startFlush (trigger : Nat) (toDark : Bool) (s : State) : State :=
  match s.med.flush with
  | some f => { s with med := { s.med with flush := some { f with toDark := f.toDark || toDark } } }
  | none =>
    let blocks := s.med.blocks.map (fun e => (e.1, { e.2 with erasing := false }))
    let units := s.med.units.map (fun u => { u with held := u.held || unitStarted s u })
    raise 1078 { s with
      med := { s.med with flush := some { led := leds s, step := 3, trigger := trigger, toDark := toDark, wait := startedPorts s }, blocks := blocks
                          units := units }
      pwr := { s.pwr with flushTrigger := trigger, flushStart := s.td17, flushSaved := 0, lostMain := !s.pwr.mainIn } }

/-- A firmware roll stops: updated wings keep the new image (R866). -/
def rollStop (st : Status) (s : State) : State :=
  match s.kin.commit with
  | some c =>
    if c.action = 3 then
      completeCmd c.cmd st 0 0 [] { s with kin := { s.kin with commit := none, stopped := true } }
    else s
  | none => s

/-- Firmware Activation Requires NVM Subsystem Reset. -/
def stFwSubsystem : Status := mkStatus 1 0x10

/-- The status of a command ended by Extinguished: DNR by R46. -/
def stExt (s : State) : Status := if inCaravan s then stExtinguishedStation else stExtinguished

/-! Progress records (R601). -/

/-- Writes a progress record over the older slot. -/
def progWrite (kind action phase nsid start blocks : Nat) (s : State) : State :=
  let n := ((progLast s).map (·.seq)).getD 0 + 1
  let p : ProgressRec := { kind := kind, action := action, phase := phase, nsid := nsid, seq := n, sanseq := s.host.sanSeq, start := start,
                           doneBlocks := blocks }
  if n % 2 = 1 then { s with host := { s.host with prog0 := some p } } else { s with host := { s.host with prog1 := some p } }

/-- The operation of a kind that the record shows as Started. -/
def progStarted (s : State) (kind : Nat) : Option ProgressRec :=
  (progLast s).filter (fun p => p.kind = kind ∧ p.phase = 1)

/-- The sanitize fails (R599). -/
def sanitizeFail (s : State) : State :=
  match s.host.sanitize with
  | some o => progWrite 2 o.action 3 0xFFFFFFFF (((progStarted s 2).map (·.start)).getD 0) 0
      { s with host := { s.host with sanitize := none, sanStatus := 3 } }
  | none => s

/-- Kindling ends: controllers that were enabled with CC.CRIME clear become ready, and its duration is noted (R38, R49, R842). -/
def kindlingEnds (s : State) : State :=
  { s with
    host := { s.host with ctrls := s.host.ctrls.map (fun e => (e.1, { e.2 with rdy := e.2.rdy || e.2.en })) }
    kin := { s.kin with lastMs := (s.td17 - s.kin.startNs) / 1000000 } }

/-- A cause extinguishes the module: fetching stops, STATE and REASON change together, the ember flush runs; a later cause is
recorded only (R40, R42, R52, R53, R821). -/
def extinguishBy (reason trigger : Nat) (s : State) : State :=
  match s.mode.mode with
  | .dark => s
  | .extinguished => logOcc 0x0002 1084 (leBytes 1 reason) s
  | _ =>
    let s0 := sanitizeFail (if s.mode.mode = .kindling then kindlingEnds s else s)
    let s1 := setMode .extinguished reason s0
    startFlush trigger false { s1 with kin := { s1.kin with done := [], stopped := s1.kin.stopped || rollActive s1, commit := if rollActive s1 then none else s1.kin.commit } }

/-- Extinguishing with the trigger of any cause but a thermal shutdown. -/
def extinguish (reason : Nat) (s : State) : State := extinguishBy reason 5 s

/-! Wings (R25 to R30, R439 to R442, R834, R871, R872). -/

/-- Tasks of a wing's table. -/
def wingTasks (s : State) (w : Nat) : List Nat := (s.disp.tasks.filter (fun e => e.1 / 2048 = w)).map (·.1)

/-- A wing's cores with nothing in them. -/
def clearCores (w : Nat) (s : State) : State :=
  { s with disp := { s.disp with cores := Tbl.keep s.disp.cores (fun k _ => decide (k / 32 ≠ w)) } }

/-- The compute part of a wing faults (R25 to R30, R441, R833 and the other causes of record 0x0003): its threads end, its legs are
issued again on wing w XOR 1, a roll stops, and a second wing out extinguishes the module. -/
def wingFault (w cause : Nat) (s : State) : State :=
  if s.mode.mode = .dark ∨ s.mode.wingFault.getLsbD w then s
  else
    let other := decide ((s.mode.wingOut &&& ~~~(1#8 <<< w)) ≠ 0)
    let s1 := setWingBits (s.mode.wingOut ||| (1#8 <<< w)) (s.mode.wingFault ||| (1#8 <<< w)) s
    let s2 := raise (1056 + w) (logOcc 0x0003 (1056 + w) (leBytes 1 cause) s1)
    let s3 := setWingPwr w { wingPwr s2 w with vcore := 0, goodRun := 0, holdRun := 0 } s2
    let threads := (wingTasks s3 w).filter (fun k => match getTask s3 k with | some t => t.kind = .thread | none => false)
    let s4 := threads.foldl (fun s k => endThread k stInternal 0 0 s) s3
    let legs := s4.prog.legs.filter (fun l => l.pool = w ∧ l.state = .running)
    let s5 := legs.foldl (fun s l => reissueLeg l (w ^^^ 1) s) s4
    let s6 := (wingTasks s5 w).foldl (fun s k => retireTask k s) s5
    let d := getWing s6 w
    let s7 := clearCores w (setWing w { d with ready := [], postQ := [], pqFree := 64, pqUsed := 0 } s6)
    let s8 := match s7.kin.returning with
      | some r => if r.wing = w then
          let s0 := { s7 with kin := { s7.kin with returning := none } }
          (match r.cmd with | some c => completeCmd c stInternalDnr 0 0 [] s0 | none => s0)
        else s7
      | none => s7
    let s9 := rollStop stFwSubsystem s8
    if other then extinguish 0x03 s9 else s9

/-- A task leaves its core and the lists, Ready again in the dispatcher that serves its wing (R440, R442). -/
def moveTask (key : Nat) (s : State) : State :=
  match getTask s key with
  | none => s
  | some t =>
    let s1 := if t.state = .running then switchOut t.core s else s
    let s2 := if t.state = .staged then setCore t.core { getCore s1 t.core with next := none, nextLoaded := false } s1 else s1
    match t.state with
    | .running | .staged | .ready =>
      let s3 := unready (key / 2048 ^^^ 1) key (unready (key / 2048) key s2)
      makeReady key false s3
    | _ => s2

/-- Tasks of a wing in the order of their lists: staged and running first, then Ready in list order. -/
def tasksInOrder (s : State) (w : Nat) : List Nat :=
  let at1 := (wingTasks s w).filter (fun k => match getTask s k with | some t => t.state = .running | none => false)
  let lists := (List.range 8).flatMap (fun p => readyList s w p ++ readyList s (w ^^^ 1) p)
  at1 ++ (lists.filter (fun k => k / 2048 = w))

/-- Withdraws a wing: the bits and their record, its tasks and jobs, VCORE off, the record of cause 1 (R871, R440, R495). -/
def withdrawWing (w : Nat) (s : State) : State :=
  let order := tasksInOrder s w
  let s1 := setWingBits (s.mode.wingOut ||| (1#8 <<< w)) s.mode.wingFault s
  let s2 := (wingTasks s1 w).foldl (fun s k => jobLost k s) s1
  let s3 := order.foldl (fun s k => moveTask k s) s2
  let s4 := clearCores w s3
  let s5 := (wingTasks s4 w).foldl (fun s k => updTask k (fun t => { t with lastCore := none, lastPages := [] }) s) s4
  let s6 := setWingPwr w { wingPwr s5 w with vcore := 0, goodRun := 0, holdRun := 0 } s5
  raise (1056 + w) (logOcc 0x0003 (1056 + w) (leBytes 1 1) s6)

/-- Completes the return of a wing: the bits and their record, its tasks in its own dispatcher (R442, R872). -/
def returnWing (w : Nat) (s : State) : State :=
  let order := tasksInOrder s w
  let s1 := setWingBits (s.mode.wingOut &&& ~~~(1#8 <<< w)) (s.mode.wingFault &&& ~~~(1#8 <<< w)) s
  let s2 := order.foldl (fun s k => moveTask k s) s1
  raise (1056 + w) (logOcc 0x0003 (1056 + w) (leBytes 1 2) s2)

/-! Dark. -/

/-- Takes back what a record that is not durable did to a die block. An erase counts no more: the block is erased again, with the last
durable count plus 1. A plane block remapped is free again, and its plane stays to be remapped (R121, R137, R143). -/
def undoRecord (s : State) (r : JRec) : State :=
  match r.body, r.act with
  | .blockState p b _ old new n, _ =>
    let s1 := ledgerMove (portChannel p) new.code old.code s
    let d := getBlk s1 (blkKey p b)
    let s2 := setBlk (blkKey p b) { d with state := old, erases := if new = .free then (if n = 65535 then n else n - 1) else d.erases } s1
    if old = .free then wipePages (blkKey p b) s2 else s2
  | .planeRemap p pl b _, .remapped old =>
    let k := 4 * p + pl
    let d := getBlk s (blkKey p b)
    let s1 := setBlk (blkKey p b) { d with failed := if d.failed.contains pl then d.failed else d.failed ++ [pl] } s
    let remap := if old = b then Tbl.erase s.med.remap (1024 * k + b) else Tbl.insert s.med.remap (1024 * k + b) old
    { s1 with med := { s1.med with remap := remap
                                   sparesUsed := Tbl.upd 0 s.med.sparesUsed k (· - 1)
                                   remapped := Tbl.upd 0 s.med.remapped (portChannel p) (· - 1) } }
  | _, _ => s

/-- Takes back what is not durable, newest first. -/
def undoBlocks (l : List JRec) (s : State) : State := l.reverse.foldl undoRecord s

/-- A program that power cuts short leaves pages that no read decodes (R139). -/
def tearUnits (s : State) : State :=
  (s.med.units.filter (unitStarted s)).foldl (fun s u =>
    (List.range u.items.length).foldl (fun s i =>
      { s with med := { s.med with pages := Tbl.insert s.med.pages (slotKey s u.block (u.slot + i)) { body := .torn, band := 0, stamp := 0 } } }) s) s

/-- The media without power: what lies in DRAM is gone, programs under way are cut short, and of the journal records that are not durable the
CRC fails (R73, R82). Registers are at their reset values (R903). -/
def mediaDark (s : State) : State :=
  let cut := s.med.journal.filter (fun r => s.med.durSeq < r.seq)
  let s1 := undoBlocks cut (tearUnits s)
  let m := s1.med
  let blocks := m.blocks.map (fun e => (e.1, { e.2 with targets := [], erasing := false }))
  { s1 with med := { m with blocks := blocks, units := [], landed := [], sources := [], reads := [], cache := [], packing := [], map := [],
                            dir := [], dirDur := [], dirty := [], journal := m.journal.map (fun r => { r with torn := r.torn || decide (m.durSeq < r.seq) })
                            durSeq := m.seq, ckptStep := 0, ckptTodo := [], ckptGone := [], jrnStall := false, jrnSticky := false
                            folds := [], foldRun := [], lastWrite := [], copied := [], suspends := [], reclaims := [], retires := [], retireRelocs := []
                            lost := [], lostBits := [], emptyWait := [], auditDue := false, flush := none, foldStart := 10, highWater := 95, avgErase := 0
                            allowance := 2000, bypass := false, rclUrgent := 4, rclStart := 12 } }

/-- What every function forgets when power or the fundamental reset goes: controllers, queues, commands. -/
def hostDown (s : State) : State :=
  let h := s.host
  { s with host := { HostState.reset with
      perst := h.perst, linkWidth := h.linkWidth, completions := h.completions, namespaces := h.namespaces, attached := h.attached,
      life := h.life, prog0 := h.prog0, prog1 := h.prog1, sanSeq := h.sanSeq, sanStatus := h.sanStatus, miOut := h.miOut,
      spdmOut := h.spdmOut, certSlots := h.certSlots, miFreq := h.miFreq, miMtu := h.miMtu, errorCount := h.errorCount, format := h.format } }

/-- The module goes Dark: everything that is not MRAM, NOR, flash or fuse is gone; no record is written (R39, R41, R770, R751). -/
def enterDark (hold : Bool) (s : State) : State :=
  let s1 := hostDown (mediaDark s)
  { s1 with
    mode := { s1.mode with mode := .dark, reason := 0, wingOut := 0, wingFault := 0, locate := 0, scratch := [] }
    regs := RegAccess.reset, cnt := CntState.kindle s1.cnt, evt := { EvtState.reset with msix := s1.evt.msix }
    log := LogState.kindle s1.log
    disp := { DispState.reset with incarn := s1.disp.incarn }
    prog := { ProgState.reset with nextHandle := s1.prog.nextHandle, outbox := s1.prog.outbox }
    siv := [], bcn := BcnState.reset, chr := ChrState.kindle false
    plc := { PlcState.reset with partner := s1.plc.partner }
    rte := { RteState.reset with record := s1.rte.record, straps := 0, outbox := s1.rte.outbox, pieces := s1.rte.pieces, nextPiece := s1.rte.nextPiece,
                                 segments := s1.rte.segments, nextSeg := s1.rte.nextSeg, parity := s1.rte.parity, segPieces := s1.rte.segPieces }
    pwr := { PwrState.kindle s1.pwr with needHold := hold, vstore := s1.pwr.vstore, wings := [] }
    kin := { KinState.kindle s1.kin 0 0 (!s1.kin.unclean) with lastMs := s1.kin.lastMs }
    sec := SecState.kindle s1.sec, drm := DrmState.reset, cmp := CmpState.reset }

end Sys2Proof.Machine
end

