-- ==== Sys2Proof/Machine/Parts.lean ====
section
/-! DEFINITION. Parts of locking commands, the range-lock table and its ledger, forwarding, release and completion (chapter 13). -/

namespace Sys2Proof.Machine

/-- An NVM namespace. -/
def nsInfo (s : State) (nsid : Nat) : Option NsInfo := Tbl.find s.host.namespaces nsid

/-- Bytes of a block in the data buffer (R573). -/
def blockLen (n : NsInfo) : Nat := 4096 + (if n.extended then mdSize n else 0)

/-- Bytes of a block in the metadata buffer (R574). -/
def sepLen (n : NsInfo) : Nat := if n.extended then 0 else mdSize n

/-- A forwarded part at this owner. -/
def findForeign (s : State) (r : PartRef) : Option ForeignPart :=
  s.host.foreign.find? (fun f => f.station = r.station ∧ f.cmd = r.cmd ∧ f.part.index = r.index)

/-- The part that a reference names. -/
def partOf (s : State) (r : PartRef) : Option Part :=
  if r.station = ownStation s then (findCmd s r.cmd).bind (fun c => c.parts.find? (fun p => p.index = r.index))
  else (findForeign s r).map (·.part)

/-- Applies a function to the part with an index. -/
def mapPart (i : Nat) (f : Part → Part) (p : Part) : Part := if p.index = i then f p else p

/-- Applies a function to a forwarded part. -/
def updForeign (r : PartRef) (f : ForeignPart → ForeignPart) (s : State) : State :=
  { s with host := { s.host with foreign := s.host.foreign.map (fun x =>
      if x.station = r.station ∧ x.cmd = r.cmd ∧ x.part.index = r.index then f x else x) } }

/-- Applies a function to a part. -/
def updPart (r : PartRef) (f : Part → Part) (s : State) : State :=
  if r.station = ownStation s then updCmd r.cmd (fun c => { c with parts := c.parts.map (mapPart r.index f) }) s
  else updForeign r (fun x => { x with part := f x.part }) s

/-- The submission entry of a part's command. -/
def sqeOf (s : State) (r : PartRef) : Option Sqe :=
  if r.station = ownStation s then (findCmd s r.cmd).map (·.sqe) else (findForeign s r).map (·.sqe)

/-- Little-endian value of two dwords. -/
def dw2 (lo hi : Nat) : Nat := lo % 2 ^ 32 + 2 ^ 32 * (hi % 2 ^ 32)

/-- First block named by a command. -/
def sqeSlba (q : Sqe) : Nat := dw2 q.cdw10 q.cdw11

/-- Blocks named by a command. -/
def sqeNlb (q : Sqe) : Nat := q.cdw12 % 2 ^ 16 + 1

/-! The range-lock table (R559 to R568). -/

/-- The entry belongs to a part. -/
def lockIs (r : PartRef) (e : LockEntry) : Bool := decide (e.station = r.station ∧ e.cmd = r.cmd ∧ e.part = r.index)

/-- Two entries name a common block (R567). -/
def locksOverlap (a b : LockEntry) : Bool :=
  decide (a.nsid = b.nsid ∧ a.slba < b.slba + b.nlb ∧ b.slba < a.slba + a.nlb)

/-- An earlier overlapping entry, one of the two of write kind, is not released (R567). -/
def lockWaits (s : State) (r : PartRef) : Bool :=
  match s.host.locks.find? (lockIs r) with
  | none => false
  | some e => (s.host.locks.takeWhile (fun x => !lockIs r x)).any (fun x => locksOverlap x e && (x.write || e.write))

/-- A bale of the part is in the stall step of a move (R198, R200). -/
def moveStalls (s : State) (nsid slba nlb : Nat) : Bool :=
  s.plc.moves.any (fun m => m.stalled && decide (m.nsid = nsid ∧ slba / 16384 ≤ m.bale ∧ m.bale ≤ (slba + nlb - 1) / 16384))

/-! Grains of a range (R62). -/

/-- The grains of a block range: bale, grain, bits of the blocks within it. -/
def rangeGrains (slba nlb : Nat) : List (Nat × Nat × Nat) :=
  if nlb = 0 then []
  else (List.range ((slba + nlb - 1) / 4 - slba / 4 + 1)).map (fun i =>
    let g := slba / 4 + i
    (g / 4096, g % 4096, ((List.range 4).map (fun b => if slba ≤ 4 * g + b ∧ 4 * g + b < slba + nlb then 2 ^ b else 0)).sum))

/-- Bales of an absent station that are not yet rebuilt here: a part waits until its grains are rebuilt, or, when it writes, until those
that it writes in part are (R207, R644). -/
def rebuildHolds (s : State) (write : Bool) (nsid slba nlb : Nat) : Bool :=
  decide (s.plc.rebuilding ≠ []) && (rangeGrains slba nlb).any (fun g =>
    s.plc.rebuilding.any (fun b => decide (b.1 = nsid ∧ b.2.1 = g.1)) &&
      !((Tbl.get [] s.plc.rebuilt (2 ^ 32 * nsid + g.1)).contains g.2.1) &&
      !(write && decide (g.2.2 = 15) && !(pendingItems s ++ s.med.landed.map (·.1)).any (fun i => decide (i.id = { nsid := nsid, bale := g.1, grain := g.2.1 }))))

/-- The grains of a range count as rebuilt: a write takes them over. -/
def markRebuilt (nsid slba nlb : Nat) (s : State) : State :=
  if s.plc.rebuilding = [] then s
  else
    (rangeGrains slba nlb).foldl (fun s g =>
      let k := 2 ^ 32 * nsid + g.1
      let l := Tbl.get [] s.plc.rebuilt k
      if s.plc.rebuilding.any (fun b => decide (b.1 = nsid ∧ b.2.1 = g.1)) ∧ ¬ l.contains g.2.1
      then { s with plc := { s.plc with rebuilt := Tbl.insert s.plc.rebuilt k (l ++ [g.2.1]) } } else s) s

/-- A part may not begin because admission is stalled (R86, R161, R193, R198, R200), or its grains are not
rebuilt. -/
def partStalled (s : State) (write : Bool) (nsid slba nlb : Nat) : Bool :=
  moveStalls s nsid slba nlb || s.med.flush.isSome || (write && (s.med.jrnStall || s.plc.debtStall)) || rebuildHolds s write nsid slba nlb

/-- An entry is taken; the ledger moves with it (R563). -/
def takeLock (e : LockEntry) (s : State) : State :=
  { s with host := { s.host with locks := s.host.locks ++ [e], lockFree := s.host.lockFree - 1, lockHeld := s.host.lockHeld + 1,
                                 fullSeen := s.host.fullSeen || decide (s.host.lockFree ≤ 1) } }

/-- The entry of a part is released; a fetch stall ends when enough entries are free (R564). -/
def dropLock (r : PartRef) (s : State) : State :=
  if s.host.locks.any (lockIs r) then
    let free := s.host.lockFree + 1
    { s with host := { s.host with locks := s.host.locks.filter (fun e => !lockIs r e), lockFree := free, lockHeld := s.host.lockHeld - 1,
                                   stallFor := match s.host.stallFor with
                                     | some x => if x.2.2 ≤ free then none else some x
                                     | none => none } }
  else s

/-- Takes the entry of a part and sets its state: running when nothing holds it back (R559, R567). -/
def admitPart (r : PartRef) (write : Bool) (s : State) : State :=
  match partOf s r with
  | none => s
  | some p =>
    let s1 := takeLock { station := r.station, cmd := r.cmd, part := r.index, write := write, nsid := p.nsid, slba := p.slba,
                         nlb := p.nlb, running := false } s
    let go := !lockWaits s1 r && !partStalled s1 write p.nsid p.slba p.nlb
    updPart r (fun p => { p with state := if go then .running else .waiting }) s1

/-! Parts of a range (R556, R561). -/

/-- A range cut at bale boundaries: first block and blocks. -/
def splitRange (slba nlb : Nat) : List (Nat × Nat) :=
  if nlb = 0 then []
  else
    let b0 := slba / 16384
    (List.range ((slba + nlb - 1) / 16384 - b0 + 1)).map (fun i =>
      let lo := max slba (16384 * (b0 + i))
      (lo, min (slba + nlb) (16384 * (b0 + i + 1)) - lo))

/-- Order codes: where a bale that is Moving goes; a part whose bales have several owners is to be cut anew (log entry 43). -/
def ordMoveTo : Nat := 32
def ordRecut : Nat := 34

/-- Owner of a bale by this station's directory; none while it is Empty. A Moving bale whose source is absent is looked for at the other end of its
move (R202). -/
def baleOwner (s : State) (nsid bale : Nat) : Option Nat :=
  let d := dirEntry s nsid bale
  let away := s.plc.moves.find? (fun m => m.nsid = nsid ∧ m.bale = bale ∧ m.dstStation ≠ m.srcStation ∧ m.dstStation ≠ ownStation s ∧ stationState s m.dstStation ≠ 4)
  if d.state = 0 then none
  else if d.state = 3 ∧ stationState s d.station = 4 then some ((away.map (·.dstStation)).getD d.station)
  else some d.station

/-- Owner, still to be placed, first block and blocks of the parts of a range; `place` for a command whose first write places a
bale. -/
def rangeParts (s : State) (place : Bool) (nsid slba nlb : Nat) : List (Nat × Bool × Nat × Nat) :=
  (splitRange slba nlb).foldr (fun x acc =>
    let y : Nat × Bool × Nat × Nat := match baleOwner s nsid (x.1 / 16384) with
      | some o => (o, false, x.1, x.2)
      | none => (ownStation s, place && inCaravan s, x.1, x.2)
    match acc with
    | z :: rest => if y.1 = z.1 ∧ ¬ y.2.1 ∧ ¬ z.2.1 then (y.1, false, y.2.2.1, y.2.2.2 + z.2.2.2) :: rest else y :: acc
    | [] => [y]) []

/-- The parts of a command over its ranges: namespace, first block, blocks, place in the data, bytes of place for each block. -/
def mkParts (s : State) (place : Bool) (unit : Nat) (ranges : List (Nat × Nat × Nat × Nat)) : List Part :=
  ((ranges.flatMap (fun x => (rangeParts s place x.1 x.2.1 x.2.2.1).map (fun y => (x, y)))).zipIdx).map (fun e =>
    let x := e.1.1
    let y := e.1.2
    { index := e.2, nsid := x.1, slba := y.2.2.1, nlb := y.2.2.2, owner := y.1, state := if y.2.1 then .placing else .waiting,
      status := none, records := 0, begun := false, mirrors := 0, off := x.2.2.2 + unit * (y.2.2.1 - x.2.1) })

/-- The 64 bytes of a submission entry; its pointers are not carried. -/
def sqeBytes (q : Sqe) : List Byte :=
  leBytes 1 q.opc ++ leBytes 1 q.fuse ++ leBytes 2 q.cid ++ leBytes 4 q.nsid ++ List.replicate 32 0 ++ leBytes 4 q.cdw10 ++
  leBytes 4 q.cdw11 ++ leBytes 4 q.cdw12 ++ leBytes 4 q.cdw13 ++ leBytes 4 q.cdw14 ++ leBytes 4 q.cdw15

/-- Bytes of a command's data that belong to a part: data, metadata. -/
def partBytes (s : State) (c : OutCmd) (p : Part) : List Byte × List Byte :=
  match nsInfo s p.nsid with
  | none => ([], [])
  | some n =>
    let k := p.off
    ((c.sqe.data.drop (k * blockLen n)).take (p.nlb * blockLen n), (c.sqe.md.drop (k * sepLen n)).take (p.nlb * sepLen n))

/-- The .part message of a part of this station's command is still held. -/
def partIsHeld (s : State) (c : OutCmd) (p : Part) : Bool :=
  s.rte.heldMsgs.any (fun m => decide (m.kind = .part ∧ m.dest = p.owner ∧ m.nums.take 1 = [p.index] ∧ (m.nums.drop 3).take 3 = [c.cmd.fn, c.cmd.sq, c.cmd.cid]))

/-- A part that was sent to an owner is not acknowledged: its status has not come back (R562, R633; log entry 193). -/
def partsOut (s : State) (o : Nat) : Bool :=
  s.host.out.any (fun c => c.parts.any (fun p => decide (p.state = .forwarded ∧ p.owner = o) && !partIsHeld s c p))

/-- A message about parts for an owner; it is held while parts sent on the owner's former route are not acknowledged (R562). -/
def sendParts (dest : Nat) (kind : MsgKind) (nums : List Nat) (bytes : List Byte) (s : State) : State :=
  if s.rte.rerouted.contains dest then
    { s with rte := { s.rte with heldMsgs := s.rte.heldMsgs ++ [{ dest := dest, kind := kind, nums := nums, bytes := bytes, grains := [] }] } }
  else send dest kind nums bytes [] s

/-- What was held for the owners that have acknowledged every part goes out, in order (R562). -/
def releaseRouted (s : State) : State :=
  if s.rte.rerouted = [] then s
  else
    let stay := s.rte.rerouted.filter (partsOut s)
    { s with rte := { s.rte with rerouted := stay, outbox := s.rte.outbox ++ s.rte.heldMsgs.filter (fun m => !stay.contains m.dest)
                                 heldMsgs := s.rte.heldMsgs.filter (fun m => stay.contains m.dest) } }

/-- Sends a part of a command to its owner, a write's data with it (R562, R633). -/
def forwardPart (c : OutCmd) (p : Part) (owner : Nat) (s : State) : State :=
  let s1 := sendParts owner .part [p.index, p.slba, p.nlb, c.cmd.fn, c.cmd.sq, c.cmd.cid, c.gen] (sqeBytes c.sqe) s
  let s2 := if c.sqe.data = [] then s1
    else
      let b := partBytes s c p
      let n := b.1.length + b.2.length
      cntFnAdd c.cmd.fn 2 n (cntMod 2 n (sendParts owner .partData [p.index, c.cmd.fn, c.cmd.sq, c.cmd.cid] (b.1 ++ b.2) s1))
  cntMod 3 1 s2

/-- Asks the drover lead to place a bale; the lead asks itself (R183 step 1). -/
def askPlacement (nsid bale : Nat) (s : State) : State :=
  if droverLead s = ownStation s then
    { s with plc := { s.plc with requests := s.plc.requests ++ [(ownStation s, nsid, bale)] } }
  else send (droverLead s) .placeRequest [nsid, bale] [] [] s

/-- Admits one part of a command at the receiving station, or sends it to its owner (R561). -/
def admitOne (c : OutCmd) (s : State) (p : Part) : State :=
  let r : PartRef := { station := ownStation s, cmd := c.cmd, index := p.index }
  if p.state = .placing then
    askPlacement p.nsid (p.slba / 16384) (updPart r (fun p => { p with state := .placing }) (admitPart r c.write s))
  else if p.owner = ownStation s then admitPart r c.write s
  else
    let multi := c.parts.any (fun x => x.owner ≠ p.owner ∨ x.state = .placing)
    let s1 := updPart r (fun p => { p with state := .forwarded }) (forwardPart c p p.owner s)
    if multi then updCmd c.cmd (fun c => { c with committed := true }) s1 else s1

/-- Admits every part of a command in one step (R561). -/
def admitCmd (r : CmdRef) (s : State) : State :=
  match findCmd s r with
  | none => s
  | some c => c.parts.foldl (admitOne c) s

/-! Release and completion (R565, R566). -/

/-- Every part has released its entry. -/
def cmdDone (c : OutCmd) : Bool := c.parts.all (fun p => p.state = .done)

/-- The status of the failing part with the lowest starting block (R566). -/
def partsStatus (c : OutCmd) : Status :=
  let f := c.parts.filterMap (fun p => p.status.map (fun st => (p.slba, st)))
  match f with
  | [] => stOk
  | x :: rest => (rest.foldl (fun a b => if b.1 < a.1 then b else a) x).2

/-- Data units of 512 bytes that a command moved. -/
def unitsOf (c : OutCmd) : Nat := 8 * (c.parts.map (·.nlb)).sum

/-- Life counts of a command that completes (R535). -/
def lifeDone (c : OutCmd) (s : State) : State :=
  let l := s.host.life
  let rd := decide (¬ c.admin ∧ (c.sqe.opc = 0x02 ∨ c.sqe.opc = 0x05) ∧ c.sqe.nsid ≤ 1024)
  let wr := decide (¬ c.admin ∧ c.sqe.opc = 0x01 ∧ c.sqe.nsid ≤ 1024)
  { s with host := { s.host with life := { l with
      hostReads := l.hostReads + b2n rd, dataRead := l.dataRead + (if rd then unitsOf c else 0)
      hostWrites := l.hostWrites + b2n wr, dataWritten := l.dataWritten + (if wr then unitsOf c else 0) } } }

/-- Completes a locking command once all its parts have released their entries; a flush posts no completion (R163, R566). -/
def finishCmd (r : CmdRef) (s : State) : State :=
  match findCmd s r with
  | none => s
  | some c =>
    if cmdDone c ∧ s.med.flush.isNone then
      let st := partsStatus c
      completeCmd r st 0 0 (if st = stOk then c.data else []) (lifeDone c s)
    else s

/-- A part of another station's command is settled: its status goes back on the response channel (R633). -/
def returnPart (r : PartRef) (st : Status) (s : State) : State :=
  let s1 := { s with host := { s.host with foreign := s.host.foreign.filter (fun f =>
    ¬ (f.station = r.station ∧ f.cmd = r.cmd ∧ f.part.index = r.index)) } }
  send r.station .partStatus [r.index, r.cmd.fn, r.cmd.sq, r.cmd.cid, st.sct, st.sc] [] [] s1

/-- The command writes to the media by placing a bale when it is Empty. -/
def placesBale (q : Sqe) : Bool := decide (q.opc = 0x01)

/-- Sends a foreign part on to the bale's present owner, in the name of its receiving station (R202). A part whose bales have several owners, and
one whose bale is its receiving station's now, goes back there with the owners (R204). -/
def passOn (f : ForeignPart) (owner : Nat) (s : State) : State :=
  let p := f.part
  let ys := rangeParts s (placesBale f.sqe) p.nsid p.slba p.nlb
  let s1 := { s with host := { s.host with foreign := s.host.foreign.filter (fun x =>
    ¬ (x.station = f.station ∧ x.cmd = f.cmd ∧ x.part.index = p.index)) } }
  if owner = f.station ∨ 1 < ys.length then
    send f.station .order ([ordRecut, p.index, f.cmd.fn, f.cmd.sq, f.cmd.cid, p.nsid] ++ ys.flatMap (fun y => [y.2.2.1 / 16384, y.1])) [] [] s1
  else
  let s2 := sendParts owner .part [p.index, p.slba, p.nlb, f.cmd.fn, f.cmd.sq, f.cmd.cid, f.gen, f.station] (sqeBytes f.sqe) s1
  if f.sqe.data = [] then s2 else sendParts owner .partData [p.index, f.cmd.fn, f.cmd.sq, f.cmd.cid, f.station] (f.sqe.data ++ f.sqe.md) s2

/-- Admits a forwarded part at its owner: a bale that is elsewhere sends it on, or it waits while that station is absent, an Empty one is placed or
read as zeros (R186, R202, R560). -/
def admitForeign1 (s : State) (f : ForeignPart) : State :=
  let r : PartRef := { station := f.station, cmd := f.cmd, index := f.part.index }
  let own := ownStation s
  let parts := rangeParts s (placesBale f.sqe) f.part.nsid f.part.slba f.part.nlb
  match parts.find? (fun x => x.1 ≠ own) with
  | some x => if stationState s x.1 = 4 then s else passOn f x.1 s
  | none =>
    let s1 := updForeign r (fun x => { x with admitted := true }) s
    let s2 := admitPart r f.write s1
    if parts.any (fun x => x.2.1) then
      askPlacement f.part.nsid (f.part.slba / 16384) (updPart r (fun p => { p with state := .placing }) s2)
    else s2

/-- Admits forwarded parts that wait, in order of arrival, while entries are free (R564, R590). -/
def admitForeign (s : State) : State :=
  s.host.foreign.foldl (fun s f =>
    if f.admitted ∨ s.host.lockFree = 0 ∨ s.med.flush.isSome ∨ s.host.stoppedNs.contains f.part.nsid then s else admitForeign1 s f) s

/-! Mirror debt (R191, R193, R194). -/

/-- Admission of writes stalls while the mirror debt has reached 128 GB and not fallen below 96 GB again (R193). -/
def debtCheck (s : State) : State :=
  let d := mirrorDebt s
  if ¬ s.plc.debtStall ∧ 128000000000 ≤ d then raise 1073 { s with plc := { s.plc with debtStall := true } }
  else if s.plc.debtStall ∧ d < 96000000000 then { s with plc := { s.plc with debtStall := false } }
  else s

/-- A part is complete: the bytes of its mirrors are debt, and mirrored deallocations owe nothing (R191). -/
def mirrorsDone (r : PartRef) (s : State) : State :=
  if s.plc.mirrors.any (fun m => m.parts.contains r) then
    let l := s.plc.mirrors.map (fun m => { m with parts := m.parts.filter (· ≠ r) })
    debtCheck { s with plc := { s.plc with mirrors := l.filter (fun m => ¬ (m.parts = [] ∧ m.acked ∧ m.bytes = 0)) } }
  else s

/-- Names grains to the partner whose mirror copy it is to drop (R191). -/
def dropMirrors (gs : List GrainId) (s : State) : State :=
  if gs = [] ∨ s.plc.partner = 0 then s else send (s.plc.partner - 1) .mirrorDrop [] [] (gs.map (fun g => (g, GrainImg.zero))) s

/-- A part that ends without an effect takes its mirrors back: the partner gets what the grains hold, or drops them. -/
def mirrorsBack (r : PartRef) (s : State) : State :=
  let mine := s.plc.mirrors.filter (fun m => decide (m.parts = [r]))
  if mine = [] ∨ s.plc.partner = 0 then s
  else
    let ids := (mine.flatMap (·.grains)).dedup
    let kept := ids.filter (fun g => decide (mapEntry s (idKey g) ≠ 0))
    let s1 := dropMirrors (ids.filter (fun g => !kept.contains g)) { s with plc := { s.plc with mirrors := s.plc.mirrors.filter (fun m => !mine.contains m) } }
    if kept = [] then s1
    else
      let tag := s1.plc.nextTag
      let m : MirrorItem := { tag := tag, parts := [], grains := kept, bytes := (mine.map (·.bytes)).sum, acked := false }
      send (s1.plc.partner - 1) .mirror [tag] [] (kept.map (fun g => (g, grainImg s1 (idKey g))))
        { s1 with plc := { s1.plc with nextTag := tag + 1, mirrors := s1.plc.mirrors ++ [m] } }

/-- A part's entry is released with a status (none: success), and what waited on it goes on (R565, R566). -/
def releasePart (r : PartRef) (st : Option Status) (s : State) : State :=
  let s1 := mirrorsDone r (dropLock r s)
  let s2 := if r.station = ownStation s then
      finishCmd r.cmd (updPart r (fun p => { p with state := .done, status := if st.isSome then st else p.status }) s1)
    else
      let st0 := (partOf s1 r).bind (·.status)
      returnPart r ((if st.isSome then st else st0).getD stOk) s1
  admitForeign s2

/-- Marks the command of a part committed (R580). -/
def commitCmd (r : PartRef) (s : State) : State :=
  if r.station = ownStation s then updCmd r.cmd (fun c => { c with committed := true }) s else updForeign r (fun f => { f with committed := true }) s

/-- Takes every item of a part out of the write cache, the gather units that have not started and the packed pages; grains merged
with other parts keep the others' blocks (R581, R584). A bale that nothing is written in returns to Empty (R68). -/
def dropPart (r : PartRef) (s0 : State) : State :=
  let s := mirrorsBack r s0
  let strip := fun (g : GrainItem) => match g.why with
    | .host ps bits => { g with why := .host (ps.filter (fun p => p ≠ r)) bits }
    | _ => g
  let dead := fun (g : GrainItem) => match g.why with | .host [] _ => true | _ => false
  let m := s.med
  let slot := fun (i : SlotItem) => match i with
    | .raw g => if dead (strip g) then SlotItem.pad else .raw (strip g)
    | .packed gs => .packed ((gs.map (fun x => (strip x.1, x.2))).filter (fun x => !dead x.1))
    | i => i
  let unit := fun (u : ProgUnit) => { u with items := u.items.map slot }
  let cache := (m.cache.map (fun c => { c with item := strip c.item })).filter (fun c => !dead c.item)
  let packing := m.packing.map (fun e => (e.1, (e.2.map (fun x => (strip x.1, x.2))).filter (fun x => !dead x.1)))
  let landed := (m.landed.map (fun x => (strip x.1, x.2))).filter (fun x => !dead x.1)
  let reads := m.reads.filter (fun d => match d.why with | .host p => decide (p ≠ r) | _ => true)
  let bales := match partOf s0 r with
    | some p => ((splitRange p.slba p.nlb).map (fun x => (p.nsid, x.1 / 16384))).filter (fun x => !m.emptyWait.contains x)
    | none => []
  { s with med := { m with cache := cache, packing := packing, landed := landed, units := m.units.map unit, reads := reads,
                            emptyWait := m.emptyWait ++ bales } }

/-- Discards an uncommitted command with its entries and its media work; no completion is posted (R581, R588). -/
def dropCmd (r : CmdRef) (s : State) : State :=
  match findCmd s r with
  | none => s
  | some c =>
    let s1 := c.parts.foldl (fun s p =>
      let pr : PartRef := { station := ownStation s, cmd := r, index := p.index }
      dropLock pr (dropPart pr s)) s
    releaseRouted (admitForeign { s1 with host := { s1.host with out := s1.host.out.filter (fun x => x.cmd ≠ r) } })

/-- Ends an uncommitted command with a status: no media change, entries released (R581, R595, R915). -/
def endCmd (r : CmdRef) (st : Status) (s : State) : State :=
  match findCmd s r with
  | none => s
  | some c =>
    let s1 := c.parts.foldl (fun s p =>
      let pr : PartRef := { station := ownStation s, cmd := r, index := p.index }
      dropLock pr (dropPart pr s)) s
    releaseRouted (admitForeign (completeCmd r st 0 0 [] s1))

/-- Admits the commands that a Format held, in order of fetch (R590, R591). -/
def releaseHeld (nsid : Nat) (s : State) : State :=
  let held := s.host.out.filter (fun c => c.held ∧ c.sqe.nsid = nsid)
  held.foldl (fun s c =>
    let ranges := c.parts.map (fun p => (p.nsid, p.slba, p.nlb, p.off))
    admitCmd c.cmd (updCmd c.cmd (fun x => { x with held := false, parts := mkParts s (placesBale c.sqe) (if c.sqe.nsid ≤ 1024 then 1 else 4096) ranges }) s)) s

/-- PART_BEGIN (R568): a waiting part begins once every earlier overlapping entry is released; parts begin in order of
admission. -/
def execPartBegin (station : Fin 64) (r : CmdRef) (part : Nat) (s : State) : Host.Outcome State Fault Refusal :=
  let pr : PartRef := { station := station, cmd := r, index := part }
  let ready := fun (e : LockEntry) =>
    let q : PartRef := { station := e.station, cmd := e.cmd, index := e.part }
    match partOf s q with
    | some p => decide (p.state = .waiting) && !lockWaits s q && !partStalled s e.write e.nsid e.slba e.nlb
    | none => false
  .next (match s.host.locks.find? ready with
    | some e => if lockIs pr e then updPart pr (fun p => { p with state := .running }) s else s
    | none => s)

end Sys2Proof.Machine
end

