-- ==== Sys2Proof/Machine/Segments.lean ====
section
/-! DEFINITION. The cross-station code: pieces, segments, parity and recoding (R635 to R644). What the drover lead and the members tell
each other about a segment is an order of code 21 with a part number before its numbers (log entry 43). -/

namespace Sys2Proof.Machine

/-! The code's field (R639). -/

/-- g · b in GF(2⁸) with polynomial 0x11D and g = 2. -/
def codeDouble (b : Byte) : Byte := if b.getLsbD 7 then (b <<< 1) ^^^ 0x1D else b <<< 1

/-- gʲ · b. -/
def codeMul (j : Nat) (b : Byte) : Byte := (List.range j).foldl (fun x _ => codeDouble x) b

/-- Every byte of a memory times gʲ; a byte that is not listed is 0, and stays it. -/
def memScale (j : Nat) (m : Memory) : Memory := m.map (fun e => (e.1, codeMul j e.2))

/-- The sum of two memories, byte by byte. -/
def memXor (a b : Memory) : Memory := b.foldl (fun m e => Memory.write m e.1 (Memory.read m e.1 ^^^ e.2)) a

/-- What a piece at position j contributes to P, or to Q. -/
def contribution (j : Nat) (q : Bool) (img : GrainImg) : GrainImg :=
  if q then { img with data := memScale j img.data, md := memScale j img.md } else img

/-- The sum of a parity grain and a contribution. -/
def imgXor (a b : GrainImg) : GrainImg := { a with data := memXor a.data b.data, md := memXor a.md b.md }

/-- Data pieces k and parity pieces m of a code (R622). -/
def codeK (code : Nat) : Nat := if code = 0 then 8 else if code = 1 then 4 else 12
def codeM (code : Nat) : Nat := if code = 1 then 1 else 2

/-- Code of an order about segments. -/
def ordSegment : Nat := 21

/-! Owners. -/

/-- The group of this station (R635). -/
def ownGroup (s : State) : Nat := Tbl.get 0 s.rte.record.groups (ownStation s)

/-- Replaces a piece. -/
def setPiece (p : Piece) (s : State) : State :=
  { s with rte := { s.rte with pieces := s.rte.pieces.map (fun x => if x.id = p.id then p else x) } }

/-- An owner sends the contributions of its piece's versions that have not gone to the parity holders (R639). -/
def sendPiece (id : Nat) (s : State) : State :=
  match s.rte.pieces.find? (fun p => p.id = id) with
  | none => s
  | some p =>
    if p.seg = 0 then s
    else
      let out := fun (h : Nat) (q : Bool) (s : State) (v : (GrainId × GrainImg × Nat) × Nat) =>
        if h = 0 then s
        else send (h - 1) .parity [p.seg - 1, p.pos, v.2, b2n q, ownStation s] [] [(v.1.1, contribution p.pos q v.1.2.1)] s
      let new := (p.versions.zipIdx).drop p.sent
      new.foldl (fun s v => out p.qHolder true (out p.pHolder false s v) v) (setPiece { p with sent := p.versions.length } s)

/-- Grains of unsealed pieces, and grains whose write is on its way: their mirrors stay (R191; log entry 85). -/
def unsealedGrain (s : State) (g : GrainId) : Bool :=
  s.rte.pieces.any (fun p => !p.sealed && p.versions.any (fun v => decide (v.1 = g))) ||
    (pendingItems s ++ s.med.landed.map (·.1)).any (fun i => decide (i.id = g))

/-- A segment is sealed: the mirror debt of its versions is released, and the partner drops the copies (R191, R640). -/
def releaseDebt (ids : List GrainId) (s : State) : State :=
  let free := ids.filter (fun g => !unsealedGrain s g)
  let cut := fun (m : MirrorItem) =>
    let l := m.grains.filter (fun g => !free.contains g)
    { m with grains := l, bytes := if m.grains = [] then 0 else m.bytes * l.length / m.grains.length }
  let gone := (s.plc.mirrors.filter (fun m => m.acked ∧ m.parts = [])).flatMap (·.grains)
  let l := s.plc.mirrors.map (fun m => if m.acked ∧ m.parts = [] then cut m else m)
  let s1 := { s with plc := { s.plc with mirrors := l.filter (fun m => ¬ (m.acked ∧ m.parts = [] ∧ m.grains = [])) } }
  let left := s1.plc.mirrors.flatMap (·.grains)
  debtCheck (dropMirrors ((free.filter (fun g => gone.contains g ∧ ¬ left.contains g)).dedup) s1)

/-- Versions of a piece that are their grain's current content. -/
def currentVersions (s : State) (p : Piece) : List (GrainId × GrainImg × Nat) :=
  p.versions.filter (fun v => decide (mapEntry s (idKey v.1) / 16 = v.2.2 / 16 ∧ v.2.2 ≠ 0))

/-- A grain version joins this owner's open piece; a full piece closes (R636). -/
def pieceAdd (g : GrainId) (img : GrainImg) (e : Nat) (s : State) : State :=
  if ¬ inCaravan s then s
  else
    match s.rte.pieces.find? (fun p => ¬ p.closed ∧ p.group = ownGroup s) with
    | some p =>
      let n := p.versions.length + 1
      let s1 := sendPiece p.id (setPiece { p with versions := p.versions ++ [(g, img, e)], closed := decide (16384 ≤ n) } s)
      if 16384 ≤ n then send (droverLead s) .pieceClosed [p.id, n] [] [] s1 else s1
    | none =>
      let p : Piece := { id := s.rte.nextPiece, group := ownGroup s, versions := [(g, img, e)], opened := s.td17, closed := false,
                         seg := 0, pos := 0, pHolder := 0, qHolder := 0, sent := 0, sealed := false, recoding := false, recodeTo := 0 }
      send (droverLead s) .pieceOpen [p.id, p.group] [] [] { s with rte := { s.rte with pieces := s.rte.pieces ++ [p], nextPiece := p.id + 1 } }

/-- This owner's piece of a segment is recoded: its current grains join new pieces (R642). -/
def recodePiece (seg : Nat) (s : State) : State :=
  match s.rte.pieces.find? (fun p => p.seg = seg + 1 ∧ ¬ p.recoding) with
  | none => s
  | some p =>
    let s1 := (currentVersions s p).foldl (fun s v => pieceAdd v.1 v.2.1 v.2.2 s) (setPiece { p with recoding := true } s)
    setPiece { p with recoding := true, recodeTo := s1.rte.nextPiece } s1

/-- Pieces whose grains are sealed anew: the drover lead is told (R642). -/
def recodeDone (s : State) : State :=
  (s.rte.pieces.filter (fun p => p.recoding ∧ p.recodeTo ≠ 0)).foldl (fun s p =>
    if s.rte.pieces.all (fun x => decide (p.recodeTo ≤ x.id) || x.recoding || x.sealed) then
      send (droverLead s) .order [ordSegment, 9, p.seg - 1, p.pos] [] [] (setPiece { p with recodeTo := 0 } s)
    else s) s

/-- What a member does on an order about a segment: 2 its piece is bound (segment, piece, position, P holder, Q holder plus 1), 4 the
segment is sealed, 6 the versions of each position, 8 it is recoded, 10 it is released (R637 to R642). -/
def segMember (nums : List Nat) (s : State) : State :=
  let n := listGet 0 nums
  let seg := n 1
  match n 0 with
  | 2 =>
    (match s.rte.pieces.find? (fun p => p.id = n 2) with
     | some p =>
       let same := p.seg = seg + 1 ∧ p.pHolder = n 4 + 1 ∧ p.qHolder = n 5
       sendPiece p.id (setPiece { p with seg := seg + 1, pos := n 3, pHolder := n 4 + 1, qHolder := n 5, sent := if same then p.sent else 0 } s)
     | none => s)
  | 4 =>
    let mine := s.rte.pieces.filter (fun p => p.seg = seg + 1 ∧ ¬ p.sealed)
    let s1 := mine.foldl (fun s p => setPiece { p with sealed := true } s) s
    releaseDebt (mine.flatMap (fun p => p.versions.map (·.1))) s1
  | 6 =>
    let l := nums.drop 2
    { s with rte := { s.rte with segPieces := Tbl.insert s.rte.segPieces seg ((List.range (l.length / 2)).map (fun i => (listGet 0 l (2 * i), listGet 0 l (2 * i + 1)))) } }
  | 8 => recodePiece seg s
  | 10 =>
    { s with rte := { s.rte with pieces := s.rte.pieces.filter (fun p => p.seg ≠ seg + 1), parity := s.rte.parity.filter (fun p => p.seg ≠ seg)
                                 segPieces := Tbl.erase s.rte.segPieces seg } }
  | _ => s

/-! The drover lead. -/

/-- A segment as the lead has it. -/
def getSeg (s : State) (g : Nat) : Option Segment := Tbl.find s.rte.segments g
def setSeg (g : Nat) (x : Segment) (s : State) : State := { s with rte := { s.rte with segments := Tbl.insert s.rte.segments g x } }

/-- Stations that a segment is told to: its owners and its holders. -/
def segStations (x : Segment) : List Nat := (x.pieces.map (·.1) ++ x.holders).dedup

/-- An order about a segment to some stations. -/
def tellSeg (ms : List Nat) (nums : List Nat) (s : State) : State := ms.foldl (fun s m => send m .order (ordSegment :: nums) [] [] s) s

/-- Parity pieces of live segments that a station holds. -/
def parityLoad (s : State) (m : Nat) : Nat := (s.rte.segments.filter (fun e => e.2.holders.contains m)).length

/-- The holder with the fewest parity pieces among the Lit members of a group outside some stations, the lowest at a tie (R638). -/
def pickHolder (s : State) (group : Nat) (out : List Nat) : Option Nat :=
  (((litStations s).filter (fun m => stationState s m ≠ 3 ∧ Tbl.get 0 s.rte.record.groups m = group ∧ ¬ out.contains m)).foldl
    (fun (a : Option (Nat × Nat)) m =>
      let c := parityLoad s m
      match a with
      | some b => if c < b.1 then some (c, m) else a
      | none => some (c, m)) none).map (·.2)

/-- Tells every owner of a segment where its piece stands and who holds P and Q. -/
def tellBound (g : Nat) (s : State) : State :=
  match getSeg s g with
  | none => s
  | some x =>
    (x.pieces.zipIdx).foldl (fun s p =>
      send p.1.1 .order [ordSegment, 2, g, p.1.2, p.2, listGet 0 x.holders 0, (if x.holders.length < 2 then 0 else listGet 0 x.holders 1 + 1)] [] [] s) s

/-- A segment closes: its parity holders are chosen (R637, R638). -/
def closeSeg (g : Nat) (s : State) : State :=
  match getSeg s g with
  | none => s
  | some x =>
    if x.closed then s
    else
      let owners := x.pieces.map (·.1)
      let hs := (List.range (codeM s.rte.record.code)).foldl (fun l _ => match pickHolder s x.group (owners ++ l) with | some h => l ++ [h] | none => l) []
      tellBound g (setSeg g { x with closed := true, holders := hs } s)

/-- A new piece joins the group's open segment without a piece of its owner, or opens one; the segment that then has k pieces closes
(R637). -/
def bindPiece (owner piece group : Nat) (s : State) : State :=
  let k := codeK s.rte.record.code
  let open1 := s.rte.segments.find? (fun e => ¬ e.2.closed ∧ e.2.group = group ∧ ¬ e.2.pieces.any (fun p => p.1 = owner))
  if s.rte.segments.any (fun e => e.2.pieces.contains (owner, piece)) then s
  else
    match open1 with
    | some e =>
      let s1 := setSeg e.1 { e.2 with pieces := e.2.pieces ++ [(owner, piece)] } s
      if k ≤ e.2.pieces.length + 1 then closeSeg e.1 s1 else s1
    | none =>
      let g := 2 ^ 32 * ownStation s + s.rte.nextSeg
      setSeg g { group := group, pieces := [(owner, piece)], holders := [], opened := s.td17, closed := false, piecesDone := [], holdersDone := [],
                 sealed := false, lens := [], current := [], recoding := false, recoded := [] }
        { s with rte := { s.rte with nextSeg := s.rte.nextSeg + 1 } }

/-- Every piece of a closed segment is closed: the holders learn how many versions each position has; once they have journaled every
parity grain, the segment is sealed (R639, R640). -/
def checkSeg (g : Nat) (s : State) : State :=
  match getSeg s g with
  | none => s
  | some x =>
    let n := x.pieces.length
    let len := ((List.range n).map (Tbl.get 0 x.lens)).foldl max 0
    let codes := (List.range len).flatMap (fun i => (List.range x.holders.length).map (fun q => 2 * i + q))
    if x.closed ∧ ¬ x.sealed ∧ (List.range n).all (fun j => x.piecesDone.contains j) ∧ codes.all (fun c => x.holdersDone.contains c) then
      tellSeg (segStations x) [4, g] (setSeg g { x with sealed := true } s)
    else s

/-- The lengths of a segment go to its holders once every piece is closed. -/
def tellLens (g : Nat) (s : State) : State :=
  match getSeg s g with
  | none => s
  | some x =>
    if x.closed ∧ (List.range x.pieces.length).all (fun j => x.piecesDone.contains j) then
      checkSeg g (tellSeg x.holders (6 :: g :: (List.range x.pieces.length).flatMap (fun j => [j, Tbl.get 0 x.lens j])) s)
    else s

/-- A piece is closed with some versions (R636). -/
def pieceEnds (owner piece n : Nat) (s : State) : State :=
  match s.rte.segments.find? (fun e => e.2.pieces.contains (owner, piece)) with
  | none => s
  | some e =>
    let j := e.2.pieces.findIdx (fun p => p = (owner, piece))
    tellLens e.1 (setSeg e.1 { e.2 with piecesDone := e.2.piecesDone ++ [j], lens := Tbl.insert e.2.lens j n } s)

/-- A sealed segment of which fewer than RECODE_PCT of the versions are current is recoded (R642). -/
def checkRecode (g : Nat) (s : State) : State :=
  match getSeg s g with
  | none => s
  | some x =>
    let n := List.range x.pieces.length
    let all := (n.map (Tbl.get 0 x.lens)).sum
    let cur := (n.map (Tbl.get 0 x.current)).sum
    if x.sealed ∧ ¬ x.recoding ∧ n.all (fun j => (Tbl.find x.current j).isSome) ∧ 100 * cur < s.rte.recodePct * all then
      tellSeg (x.pieces.map (·.1)) [8, g] (setSeg g { x with recoding := true } s)
    else s

/-- A recoded segment is released once every owner that is not absent has sealed its grains anew (R642). -/
def checkRelease (g : Nat) (s : State) : State :=
  match getSeg s g with
  | none => s
  | some x =>
    let open1 := (x.pieces.zipIdx).filter (fun p => !x.recoded.contains p.2 && decide (stationState s p.1.1 ≠ 4) && (members s).contains p.1.1)
    if x.recoding ∧ open1 = [] then
      tellSeg (segStations x) [10, g] { s with rte := { s.rte with segments := Tbl.erase s.rte.segments g } }
    else s

/-- Recodes every segment with a piece of a station. -/
def recodeOf (m : Nat) (s : State) : State :=
  s.rte.segments.foldl (fun s e =>
    if e.2.sealed ∧ ¬ e.2.recoding ∧ e.2.pieces.any (fun p => p.1 = m) then
      checkRelease e.1 (tellSeg ((e.2.pieces.map (·.1)).filter (fun x => stationState s x ≠ 4)) [8, e.1] (setSeg e.1 { e.2 with recoding := true } s))
    else s) s

/-- A new holder takes over the parity pieces of a station; the owners send their contributions again (R638, R644, R648). -/
def replaceHolder (m : Nat) (s : State) : State :=
  s.rte.segments.foldl (fun s e =>
    if e.2.holders.contains m then
      (match pickHolder s e.2.group (e.2.pieces.map (·.1) ++ e.2.holders) with
       | some h =>
         let i := e.2.holders.findIdx (· = m)
         tellLens e.1 (tellBound e.1 (setSeg e.1 { e.2 with holders := listSet e.2.holders i h, sealed := false,
                                                             holdersDone := e.2.holdersDone.filter (fun c => c % 2 ≠ i) } s))
       | none => s)
    else s) s

/-- What the drover lead does on a member's word about a piece or a segment: 5 a parity grain is journaled, 7 how many versions of a
position are current, 9 a position's grains are sealed anew (R640, R642). -/
def segLead (nums : List Nat) (s : State) : State :=
  let n := listGet 0 nums
  match getSeg s (n 1) with
  | none => s
  | some x =>
    match n 0 with
    | 5 => checkSeg (n 1) (setSeg (n 1) { x with holdersDone := if x.holdersDone.contains (n 2) then x.holdersDone else x.holdersDone ++ [n 2] } s)
    | 7 => checkRecode (n 1) (setSeg (n 1) { x with current := Tbl.insert x.current (n 2) (n 3) } s)
    | 9 => checkRelease (n 1) (setSeg (n 1) { x with recoded := if x.recoded.contains (n 2) then x.recoded else x.recoded ++ [n 2] } s)
    | _ => s

/-- A message about pieces or segments, from a member. -/
def segMessage (station : Nat) (m : StMsg) (s : State) : State :=
  let n := listGet 0 m.nums
  match m.kind with
  | .pieceOpen => bindPiece station (n 0) (n 1) s
  | .pieceClosed => pieceEnds station (n 0) (n 1) s
  | .segSealed => segLead (5 :: m.nums) s
  | .order => if n 0 = ordSegment then (if n 1 % 2 = 0 then segMember (m.nums.drop 1) s else segLead (m.nums.drop 1) s) else s
  | _ => s

/-- The message is one about pieces or segments. -/
def isSegMessage (m : StMsg) : Bool :=
  match m.kind with
  | .pieceOpen => true
  | .pieceClosed => true
  | .segSealed => true
  | .order => decide (listGet 0 m.nums 0 = ordSegment)
  | _ => false

/-- What the drover lead says to itself takes effect at once. -/
def drainSelf : Nat → State → State
  | 0, s => s
  | n + 1, s =>
    match s.rte.outbox.find? (fun m => decide (m.dest = ownStation s) && isSegMessage m) with
    | none => s
    | some m => drainSelf n (segMessage (ownStation s) m { s with rte := { s.rte with outbox := s.rte.outbox.erase m } })

end Sys2Proof.Machine
end

