-- ==== Sys2Proof/Machine/Land.lean ====
section
/-! DEFINITION. Host grains from the write cache to the journal, and the effect of journal records (chapters 2 and 3). -/

namespace Sys2Proof.Machine

/-- Data and metadata of block L of a command whose buffers start at block `base`. -/
def blkData (n : NsInfo) (q : Sqe) (base L : Nat) : List Byte × List Byte :=
  let o := (L - base) * blockLen n
  (fitBytes 4096 (q.data.drop o),
   if n.extended then fitBytes (mdSize n) (q.data.drop (o + 4096)) else fitBytes (mdSize n) (q.md.drop ((L - base) * mdSize n)))

/-- The blocks of `top` named by `bits` over `base` (R102). -/
def overlayImg (base top : GrainImg) (bits : Nat) : GrainImg :=
  (List.range 4).foldl (fun img i =>
    if bitOf bits i then putBlock img i (Memory.readBytes top.data (4096 * i) 4096) (Memory.readBytes top.md (64 * i) 64) else img)
    { base with gen := top.gen }

/-- A grain holding the blocks `bits` of a command. -/
def writtenImg (s : State) (n : NsInfo) (q : Sqe) (base bale grain bits : Nat) : GrainImg :=
  (List.range 4).foldl (fun img i =>
    if bitOf bits i then
      let d := blkData n q base (16384 * bale + 4 * grain + i)
      putBlock img i d.1 d.2
    else img) { GrainImg.zero with gen := nsGeneration s q.nsid }

/-! The write cache (R102, R103). -/

/-- The wing that host writes to a bale go to: the bale's, or the destination of its move within the station (R198). -/
def writeWing (s : State) (nsid bale : Nat) : Nat :=
  match s.plc.moves.find? (fun m => m.nsid = nsid ∧ m.bale = bale ∧ m.srcStation = m.dstStation ∧ 2 ≤ m.step) with
  | some m => m.dstWing
  | none => (dirEntry s nsid bale).wing

/-- The item is a host write of a grain. -/
def isHostOf (k : Nat) (g : GrainItem) : Bool := (match g.why with | .host _ _ => true | _ => false) && decide (idKey g.id = k)

/-- Merges a later write into an item that has not started programming (R103). -/
def mergeItem (new : GrainItem) (g : GrainItem) : GrainItem :=
  match new.why, g.why with
  | .host ps bits, .host qs old => { g with img := overlayImg g.img new.img bits, why := .host (qs ++ ps) (Nat.lor old bits) }
  | _, _ => g

/-- Input bytes queued at a wing's compressor (R486). -/
def cmpQueued (s : State) (v : Nat) : Nat := ((s.med.cache.filter (fun c => c.wait = .frame ∧ c.cmp = v)).map (fun c => inputBytes s c.item.id.nsid)).sum

/-- The compressor that takes a wing's packed grains: its own while its compute part is in service, else the one in service with the fewest
input bytes queued, the lowest at a tie (R26, R486). -/
def cmpFor (s : State) (w : Nat) : Nat :=
  if ¬ s.mode.wingOut.getLsbD w then w
  else
    let free := (List.range 8).filter (fun v => !s.mode.wingOut.getLsbD v)
    (free.find? (fun v => free.all (fun u => decide (cmpQueued s v ≤ cmpQueued s u)))).getD w

/-- Keeps a grain in the cache. -/
def cacheAdd (g : GrainItem) (wait : CacheWait) (w : Nat) (s : State) : State :=
  { s with med := { s.med with cache := s.med.cache ++ [{ item := g, wait := wait, wing := w, cmp := cmpFor s w }] } }

/-- The host item of a grain in a packed page that has not started programming, with its wing. -/
def packedHost (s : State) (k : Nat) : Option (GrainItem × Nat) :=
  (s.med.packing.flatMap (fun e => e.2.map (fun x => (x.1, e.1 % 8))) ++
    (s.med.units.filter (fun u => !unitStarted s u)).flatMap (fun u => u.items.flatMap (fun i => match i with
      | .packed gs => gs.map (fun x => (x.1, portWing u.port))
      | _ => []))).find? (fun x => isHostOf k x.1)

/-- Merges into the host item of a grain that has not started programming. One that is a frame in a packed page leaves the page and goes
to the compressor again. -/
def mergeInto (k : Nat) (new : GrainItem) (s : State) : State :=
  let m := s.med
  match packedHost s k with
  | some (g, w) =>
    let out := fun (l : List (GrainItem × Nat × Nat)) => l.filter (fun x => !isHostOf k x.1)
    let slot := fun (i : SlotItem) => match i with | .packed gs => SlotItem.packed (out gs) | i => i
    cacheAdd (mergeItem new g) .frame w { s with med := { m with
      packing := (m.packing.map (fun e => (e.1, out e.2))).filter (fun e => e.2 ≠ [])
      units := m.units.map (fun u => if unitStarted s u then u else { u with items := u.items.map slot }) } }
  | none =>
    let f := fun (g : GrainItem) => if isHostOf k g then mergeItem new g else g
    let slot := fun (i : SlotItem) => match i with | .raw g => SlotItem.raw (f g) | i => i
    { s with med := { m with cache := m.cache.map (fun c => { c with item := f c.item })
                             units := m.units.map (fun u => if unitStarted s u then u else { u with items := u.items.map slot }) } }

/-- A host item of the grain has not started programming: it is in the cache without a slot, in an open packed page, or in a unit that
has not started. -/
def canMerge (s : State) (k : Nat) : Bool :=
  s.med.cache.any (fun c => isHostOf k c.item) || (packedHost s k).isSome ||
    s.med.units.any (fun u => !unitStarted s u && u.items.any (fun i => match i with | .raw g => isHostOf k g | _ => false))

/-- An earlier write of the grain is being programmed, or its MAP_SET is not durable (R103). -/
def earlierWrite (s : State) (k : Nat) : Bool :=
  (pendingItems s).any (isHostOf k) || s.med.landed.any (fun x => isHostOf k x.1) ||
    s.med.journal.any (fun r => decide (s.med.durSeq < r.seq) && match r.body with
      | .mapSet n b items => items.any (fun i => mapKey n b i.1 = k)
      | _ => false)

/-- The present blocks of the current grain that a write leaves as they are. -/
def keptBlocks (s : State) (g : GrainItem) : Nat :=
  match g.why with
  | .host _ bits => Nat.land (enPresent (projEntry s (idKey g.id))) (15 - bits % 16)
  | _ => 0

/-- The present blocks of the current grain beside the new ones; absent blocks are zero (R102). -/
def overCurrent (s : State) (k : Nat) (g : GrainItem) : GrainItem :=
  match g.why with
  | .host _ bits =>
    let kept := keptBlocks s g
    if kept = 0 then g else { g with img := overlayImg (overlayImg GrainImg.zero (imgAt s (projEntry s k)) kept) g.img bits }
  | _ => g

/-- The namespace is packed (R104, R527). -/
def isPacked (s : State) (nsid : Nat) : Bool := match nsInfo s nsid with | some n => n.packed | none => false

/-- The grain is a mirror copy of another station's. -/
def isMirror (g : GrainItem) : Bool := match g.why with | .mirror _ _ => true | _ => false

/-- Routes a raw grain: host data by R89, a mirror copy to the forecourt (R190). While no die block of that role can take it, it stays in
the cache. -/
def routeRaw (w : Nat) (g : GrainItem) (s : State) : State :=
  if (choosePort s w (if isMirror g then .forecourt else hostRole s)).isNone then cacheAdd g .room w s
  else if isMirror g then (placeItem w .forecourt (.raw g) s).1
  else routeItem w (.raw g) s

/-- A host grain with its content whole: to the compressor in a packed namespace, else to a slot (R104). -/
def startGrain (w : Nat) (g : GrainItem) (s : State) : State :=
  if isPacked s g.id.nsid then cacheAdd g .frame w s else routeRaw w g s

/-- A host grain whose turn it is: a write that leaves present blocks as they are waits for their read (R102). -/
def beginGrain (w : Nat) (g : GrainItem) (s : State) : State :=
  let e := projEntry s (idKey g.id)
  if keptBlocks s g = 0 then startGrain w g s else addRead g.id e e .overlay (cacheAdd g .read w s)

/-- A host grain arrives in the write cache (R101 to R103). -/
def landGrain (g : GrainItem) (s : State) : State :=
  let k := idKey g.id
  let w := writeWing s g.id.nsid g.id.bale
  let s1 := { s with med := { s.med with lastWrite := Tbl.insert s.med.lastWrite w s.td17 } }
  if canMerge s1 k then mergeInto k g s1
  else if earlierWrite s1 k then cacheAdd g .earlier w s1
  else beginGrain w g s1

/-- Writes that waited for the earlier write of a grain go on, merged over its new location (R103). -/
def freeEarlier (k : Nat) (s : State) : State :=
  match s.med.cache.find? (fun c => c.wait = .earlier ∧ idKey c.item.id = k) with
  | none => s
  | some c =>
    let s1 := { s with med := { s.med with cache := s.med.cache.filter (fun x => x ≠ c) } }
    if earlierWrite s1 k then s
    else beginGrain (writeWing s1 c.item.id.nsid c.item.id.bale) c.item s1

/-- The blocks that a grain's write leaves as they are have been read: it goes on over them (R102). -/
def overlayRead (id : GrainId) (s : State) : State :=
  match s.med.cache.find? (fun c => c.wait = .read ∧ c.item.id = id) with
  | none => s
  | some c =>
    startGrain c.wing (overCurrent s (idKey id) c.item) { s with med := { s.med with cache := s.med.cache.filter (fun x => x ≠ c) } }

/-- The die block that a wing's fold goes on in with another grain of the same bale (R99). -/
def foldBlock (s : State) (w : Nat) (g : GrainItem) : Option Nat :=
  match g.why, Tbl.find s.med.foldRun w with
  | .move _ .fold, some (b, bk) =>
    let d := getBlk s bk
    if b = baleKey g.id.nsid g.id.bale ∧ d.state = .opened ∧ d.role = .qlc ∧ d.next + 1 < slotsOf .qlc ∧ portOk s (blkPort bk) then some bk else none
  | _, _ => none

/-- A relocated or parity grain goes to QLC in the wing, a folded one after the grain of its bale before it; while no die block can take it,
it stays in the cache (R97, R99, R124). -/
def routeMove (w : Nat) (g : GrainItem) (s : State) : State :=
  match foldBlock s w g with
  | some bk => placeOn bk (.raw g) s
  | none =>
    if (choosePort s w .qlc).isNone then cacheAdd g .room w s
    else
      let r := placeItem w .qlc (.raw g) s
      match g.why, r.2 with
      | .move _ .fold, some bk =>
        { r.1 with med := { r.1.med with foldRun := Tbl.insert r.1.med.foldRun w (baleKey g.id.nsid g.id.bale, bk) } }
      | _, _ => r.1

/-- The grain goes to QLC only. -/
def qlcOnly (g : GrainItem) : Bool := match g.why with | .move _ _ => true | .parity _ _ _ => true | .moveIn _ => true | _ => false

/-- Places a whole raw grain by what it is for. -/
def placeGrain (w : Nat) (g : GrainItem) (s : State) : State := if qlcOnly g then routeMove w g s else routeRaw w g s

/-! Packed pages (R106). -/

/-- KiB used in a wing's open packed page. -/
def packedUsed (l : List (GrainItem × Nat × Nat)) : Nat := (l.map (fun x => x.2.2)).sum

/-- Programs an open packed page: a page of relocations in QLC, one of host data by R89 (R89, R97, R124). While no die block of the role can
take it, it stays open. -/
def closePage (k : Nat) (s : State) : State :=
  match Tbl.get [] s.med.packing k with
  | [] => s
  | l =>
    if (choosePort s (k % 8) (if 8 ≤ k then .qlc else hostRole s)).isNone then s
    else
      let s1 := { s with med := { s.med with packing := Tbl.put [] s.med.packing k [] } }
      if 8 ≤ k then (placeItem (k % 8) .qlc (.packed l) s1).1 else routeItem (k % 8) (.packed l) s1

/-- The open packed page of a wing has waited long enough: the page of host data, or with none that of relocations (R106). -/
def closePacked (w : Nat) (s : State) : State := if Tbl.get [] s.med.packing w = [] then closePage (8 + w) s else closePage w s

/-- Adds a grain of `len` KiB to an open packed page of its wing, after programming the page when the grain does not fit; while the page
cannot be programmed the frame stays in the cache (R66, R106). -/
def packGrain (w : Nat) (g : GrainItem) (len : Nat) (s : State) : State :=
  let k := if isMove g then 8 + w else w
  let s1 := if 16 < packedUsed (Tbl.get [] s.med.packing k) + len then closePage k s else s
  let l := Tbl.get [] s1.med.packing k
  if 16 < packedUsed l + len then cacheAdd g (.pack len) w s1
  else { s1 with med := { s1.med with packing := Tbl.put [] s1.med.packing k (l ++ [(g, packedUsed l, len)]) } }

/-- What waits for a die block in the cache. -/
def waitsRoom (c : CacheGrain) : Bool := match c.wait with | .room => true | .pack _ => true | _ => false

/-- Grains that waited for a die block are placed again, in order. -/
def retryRoom (s : State) : State :=
  let l := s.med.cache.filter waitsRoom
  l.foldl (fun s c => match c.wait with
    | .pack len => packGrain c.wing c.item len s
    | _ => placeGrain c.wing c.item s) { s with med := { s.med with cache := s.med.cache.filter (fun x => !waitsRoom x) } }

/-! Journal of host grains (R74, R164). -/

/-- An item of a part is not yet programmed. -/
def partPending (items : List GrainItem) (r : PartRef) : Bool := items.any (fun g => (itemParts g).contains r)

/-- Parts connected with a set of parts through merged grains that landed or are pending. -/
def closeParts : Nat → List GrainItem → List PartRef → List PartRef
  | 0, _, ps => ps
  | n + 1, items, ps =>
    let more := ((items.filter (fun g => (itemParts g).any (fun r => ps.contains r))).flatMap itemParts).dedup
    let new := more.filter (fun r => !ps.contains r)
    if new = [] then ps else closeParts n items (ps ++ new)

/-- The item of a MAP_SET: grain index and entry, PRESENT as at commit OR the written bits (R102). -/
def setItem (s : State) (x : GrainItem × Nat) : Nat × Nat :=
  match x.1.why with
  | .host _ bits => (x.1.id.grain, withPresent x.2 (Nat.lor (enPresent (projEntry s (idKey x.1.id))) bits))
  | _ => (x.1.id.grain, x.2)

/-- Counts a record on every part it belongs to. -/
def addRecords (ps : List PartRef) (s : State) : State := ps.foldl (fun s r => updPart r (fun p => { p with records := p.records + 1 }) s) s

/-- Journals landed grains: one MAP_SET for each run of up to seven 64-block units of a bale, so that no unit is divided (R77,
R164). -/
def journalGrains (l : List (GrainItem × Nat)) (s : State) : State :=
  let keys := (l.map (fun x => (x.1.id.nsid, x.1.id.bale, x.1.id.grain / 112))).dedup
  keys.foldl (fun s k =>
    let mine := l.filter (fun x => (x.1.id.nsid, x.1.id.bale, x.1.id.grain / 112) = k)
    let ps := (mine.flatMap (fun x => itemParts x.1)).dedup
    let w := (mine.head?.map (fun x => portWing (enPort x.2))).getD 0
    jrn w (.mapSet k.1 k.2.1 (mine.map (setItem s))) (.parts ps) (addRecords ps s)) s

/-- All data of the command that a part belongs to has arrived: none of its parts here is still to begin. A part of another station's command
comes with its data (R162). -/
def dataArrived (s : State) (r : PartRef) : Bool :=
  if r.station ≠ ownStation s then true
  else match findCmd s r.cmd with
    | some c => c.parts.all (fun p => p.begun || decide (p.state = .forwarded ∨ p.state = .done))
    | none => true

/-- The grain belongs to no command, or to one whose data has arrived (R162). -/
def itemArrived (s : State) (g : GrainItem) : Bool := decide (itemParts g = []) || (itemParts g).any (dataArrived s)

/-- Journals the landed grains of every group of parts of which nothing is left to program. Groups go in order of admission. A flush leaves out
a command whose data has not arrived (R162). -/
def journalLanded (s : State) : State :=
  let pend := pendingItems s
  let parts := (s.med.landed.flatMap (fun x => itemParts x.1)).dedup
  parts.foldl (fun s r =>
    if s.med.landed.any (fun x => (itemParts x.1).contains r) then
      let group := closeParts 64 (s.med.landed.map (·.1) ++ pend) [r]
      if group.any (partPending pend) ∨ (s.med.flush.isSome ∧ ¬ group.any (dataArrived s)) then s
      else
        let mine := s.med.landed.filter (fun x => (itemParts x.1).any (fun p => group.contains p))
        journalGrains mine { s with med := { s.med with landed := s.med.landed.filter (fun x => !mine.contains x) } }
    else s) s

/-- A part's media work is done: nothing of it is pending, no record and no mirror is awaited (R565). -/
def partSettled (s : State) (r : PartRef) : Bool :=
  match partOf s r with
  | some p => p.begun && decide (p.state = .running) && decide (p.records = 0) && decide (p.mirrors = 0) &&
      !partPending (pendingItems s) r && !s.med.landed.any (fun x => (itemParts x.1).contains r)
  | none => false

/-- Releases the entry of a write part that is done; its bytes join the mirror debt (R191, R565). -/
def settlePart (r : PartRef) (s : State) : State := if partSettled s r then releasePart r none s else s

/-! Where entries point (R118, R133 to R138). -/

/-- Entries that a landed grain, the journal, or the cross-station code holds. -/
def otherEntries (s : State) : List Nat :=
  s.med.landed.map (·.2) ++
    (s.med.journal.filter (fun r => s.med.durSeq < r.seq)).flatMap (fun r => match r.body with
      | .mapSet _ _ items => items.map (·.2)
      | .mapMove _ _ items => items.map (fun x => x.2.2)
      | _ => []) ++
    (s.rte.parity.filter (·.programmed)).map (·.entry) ++
    (s.rte.pieces.flatMap (fun p => p.versions.map (fun v => v.2.2)))

/-- Entries that the map, the journal or a landed grain holds. -/
def liveEntries (s : State) : List Nat := (s.med.map.map (·.2)) ++ otherEntries s

/-- An entry points into a die block. -/
def pointsInto (s : State) (bk : Nat) : Bool := (liveEntries s).any (fun e => decide (e ≠ 0) && decide (entryBlk s e = bk))

/-- An entry other than that of an unrecoverable grain points into a die block: a relocation has work left (R140). -/
def workLeft (s : State) (bk : Nat) : Bool :=
  ((s.med.map.filter (fun e => !s.med.lost.contains e.1)).map (·.2) ++ otherEntries s).any (fun e => decide (e ≠ 0) && decide (entryBlk s e = bk))

/-- A relocation of the grain runs: a read, an item or a MAP_MOVE that is not durable (R80). -/
def moving (s : State) (g : GrainId) : Bool :=
  s.med.reads.any (fun d => (match d.why with | .reloc _ _ => true | _ => false) && decide (d.grain = g)) ||
    (pendingItems s).any (fun i => (match i.why with | .move _ _ => true | _ => false) && decide (i.id = g)) ||
    s.med.journal.any (fun r => decide (s.med.durSeq < r.seq) && match r.body with
      | .mapMove n b items => items.any (fun x => decide (g = { nsid := n, bale := b, grain := x.1 }))
      | _ => false)

/-- The grain a map key names. -/
def keyGrain (k : Nat) : GrainId := { nsid := k / 2 ^ 44, bale := k / 4096 % 2 ^ 32, grain := k % 4096 }

/-- Versions of pieces and parity grains, with their entries: they stay readable whatever the map holds (R641). -/
def heldEntries (s : State) : List (GrainId × Nat) :=
  (s.rte.pieces.flatMap (fun p => p.versions.map (fun v => (v.1, v.2.2)))) ++
    (s.rte.parity.filter (·.programmed)).map (fun p => (({ nsid := 0, bale := p.seg, grain := p.idx } : GrainId), p.entry))

/-- The entry's grain cannot be recovered. -/
def entryLost (s : State) (k e : Nat) : Bool := s.med.lost.contains k && decide (mapEntry s k = e)

/-- Where a relocation reads a grain: a committed copy that is taken out of a failed target is read from its source, which the seal rule
keeps (R140). -/
def copySource (s : State) (k e : Nat) : Nat :=
  match s.med.copied.find? (fun c => c.1 = k ∧ c.2.2 / 16 = e / 16 ∧ (getBlk s (entryBlk s c.2.1)).state = .sealed) with
  | some c => withPresent c.2.1 (enPresent e)
  | none => e

/-- Starts the reads that relocate the grains of a die block, held versions among them, that no relocation is moving (R133 step 2,
R641). A fold takes one bale after the other, so that a bale's grains come to lie together (R99). -/
def pumpBlock (bk w : Nat) (why : MoveWhy) (s : State) : State :=
  let held := (heldEntries s).map (fun x => (idKey x.1, x.2))
  let all := (s.med.map ++ held).filter (fun e => decide (enPresent e.2 ≠ 0) && decide (entryBlk s e.2 = bk) && !entryLost s e.1 e.2)
  let l : Tbl Nat := match why, all.head? with
    | .fold, some x => all.filter (fun e => e.1 / 4096 = x.1 / 4096)
    | _, _ => all
  l.foldl (fun s e =>
    let g := keyGrain e.1
    if moving s g then s else addRead g (copySource s e.1 e.2) e.2 (.reloc w why) s) s

/-- Relocations at work: wing or block key, and the relocation. -/
def relocs (s : State) : List Reloc :=
  s.med.folds.map (·.2) ++ s.med.reclaims.map (·.2) ++ s.med.retireRelocs.map (·.2)

/-- Folding may run in a wing: occupancy is at or above the fold start, or the wing has had no host write for 1 s (R101). -/
def foldRuns (s : State) (w : Nat) : Bool := decide (s.med.foldStart ≤ occPct s ∨ Tbl.get 0 s.med.lastWrite w + 1000000000 ≤ s.td17)

/-- Every relocation at work issues the reads it lacks; one that has no grain left to copy is over. -/
def pumpAll (s : State) : State :=
  let s1 := (relocs s).foldl (fun s r =>
    let w := portWing (blkPort r.source)
    if r.why = .fold ∧ ¬ foldRuns s w then s else pumpBlock r.source w r.why s) s
  let ended := fun (r : Reloc) => !workLeft s1 r.source
  { s1 with med := { s1.med with folds := s1.med.folds.filter (fun e => !ended e.2), reclaims := s1.med.reclaims.filter (fun e => !ended e.2),
                                 retireRelocs := s1.med.retireRelocs.filter (fun e => !ended e.2) } }

/-- Every failed plane of a die block can have a spare (R57). -/
def sparesThere (s : State) (bk : Nat) (planes : List Nat) : Bool := planes.all (fun pl => decide (0 < sparesLeft s (blkPort bk) pl))

/-- The planes of a retired die block whose plane block failed get spares, and the block goes to pending-erase (R143). `host`: planes that a
host Retire named (R170). -/
def remapBlock (host : List Nat) (bk : Nat) (s : State) : State :=
  let b := getBlk s bk
  let p := blkPort bk
  let step := fun (s : State) (pl : Nat) =>
    let k := 4 * p + pl
    let used := Tbl.get 0 s.med.sparesUsed k
    let phys := dieBlocks s + used
    let s1 := healthAdd (if host.contains pl then 13 else 12) 1 { s with med := { s.med with
      remap := Tbl.insert s.med.remap (1024 * k + bk % 1024) phys
      sparesUsed := Tbl.put 0 s.med.sparesUsed k (used + 1)
      remapped := Tbl.upd 0 s.med.remapped (portChannel p) (fun v => satAdd 65535 v 1) } }
    jrn (portWing p) (.planeRemap p pl (bk % 1024) phys) (.remapped (physOf s p pl (bk % 1024))) s1
  let s1 := b.failed.foldl step s
  blkState bk .pending (setBlk bk { getBlk s1 bk with failed := [] } s1)

/-- A retired block of a port in service that nothing points into and no host Retire handles is taken back into use, its failed planes
remapped (R143). -/
def remapDue (s : State) (bk : Nat) (b : DieBlock) : Bool :=
  decide (b.state = .retired) && portOk s (blkPort bk) && !pointsInto s bk && sparesThere s bk b.failed &&
    !s.med.units.any (fun u => u.block = bk) && !s.med.retires.any (fun r => r.block = bk)

/-- A target holds its source back no longer: it is sealed, or failed and every grain in it has been copied again to targets that are on
the list in its place (R135, R140). -/
def targetDone (s : State) (t : Nat) : Bool :=
  match (getBlk s t).state with
  | .sealed => true
  | .retired => !pointsInto s t
  | _ => false

/-- A die block has sealed: no source waits for it any more (R135, R138). -/
def sealNote (bk : Nat) (s : State) : State :=
  { s with med := { s.med with blocks := s.med.blocks.map (fun e =>
    (e.1, { e.2 with targets := e.2.targets.filter (· ≠ bk), heldBy := e.2.heldBy.filter (· ≠ bk) })) } }

/-- Sources that may go to pending-erase do so: no entry points in and every target is sealed, and after a power loss every block
open then has sealed (R135, R138). -/
def sourcesDue (s : State) : State :=
  let s1 := s.med.sources.foldl (fun s bk =>
    let b := getBlk s bk
    if b.state = .sealed ∧ ¬ pointsInto s bk ∧ b.targets.all (targetDone s) ∧ b.heldBy.all (targetDone s) then
      let s0 := blkState bk .pending s
      { s0 with med := { s0.med with sources := s0.med.sources.filter (· ≠ bk), copied := s0.med.copied.filter (fun c => entryBlk s c.2.1 ≠ bk) } }
    else if b.state ≠ .sealed then { s with med := { s.med with sources := s.med.sources.filter (· ≠ bk) } }
    else s) s
  (s1.med.blocks.filter (fun e => remapDue s1 e.1 e.2)).foldl (fun s e => if remapDue s e.1 (getBlk s e.1) then remapBlock [] e.1 s else s) s1

/-- A read of the block is outstanding (R113). -/
def blockRead (s : State) (bk : Nat) : Bool := s.med.reads.any (fun d => decide (entryBlk s d.entry = bk))

/-- Starts the erase of every pending block of a port in service that no read needs (R133 step 6). -/
def startErases (s : State) : State :=
  if s.med.flush.isSome then s
  else
    { s with med := { s.med with blocks := s.med.blocks.map (fun e =>
        if e.2.state = .pending ∧ ¬ e.2.erasing ∧ portOk s (blkPort e.1) ∧ stateDurable s e.1 ∧ ¬ blockRead s e.1
        then (e.1, { e.2 with erasing := true }) else e) } }

/-! The effect of durable records (R73, R78, R79). -/

/-- Stores a map entry; its segment becomes dirty and, when the last entry of a bale goes, the bale is Empty (R68, R84, R186). -/
def setEntry (nsid bale grain e : Nat) (s : State) : State :=
  let d := dirEntry s nsid bale
  let s1 := if d.blockIx = 0 ∨ d.station ≠ ownStation s then s else touchRun d.wing (mapBlockAddr d.blockIx + 6 * grain) 6 s
  markDirty nsid bale grain { s1 with med := { s1.med with map := Tbl.put 0 s1.med.map (mapKey nsid bale grain) e } }

/-- This station holds the bale: Local, or Moving from here. -/
def ownsBale (s : State) (nsid bale : Nat) : Bool :=
  let d := dirEntry s nsid bale
  decide (d.station = ownStation s ∧ (d.state = 1 ∨ d.state = 3))

/-- The entry that a host command resolves for a grain: none in a bale that is not this station's, of which the map may hold mirror copies
(R65, R184, R190). -/
def hostEntry (s : State) (nsid bale grain : Nat) : Nat := if ownsBale s nsid bale then mapEntry s (mapKey nsid bale grain) else 0

/-- A mapped entry of the bale exists. -/
def baleMapped (s : State) (nsid bale : Nat) : Bool := s.med.map.any (fun e => e.1 / 4096 = baleKey nsid bale)

/-- Map blocks of a wing that are allocated, index plus 1: to bales, also by a durable entry that a later record is to replace, and to bales that
move here (R68, R69, R198 step 5, R200 step 3). -/
def mapBlocks (s : State) (w : Nat) : List Nat :=
  ((s.med.dir ++ s.med.dirDur).filter (fun e => e.2.station = ownStation s ∧ e.2.wing = w ∧ e.2.blockIx ≠ 0)).map (·.2.blockIx) ++
    (s.plc.moves.filter (fun m => m.dstStation = ownStation s ∧ m.dstWing = w ∧ m.block ≠ 0)).map (·.block)

/-- The lowest map block index free in a wing, plus 1 (log entry 42). -/
def freeMapBlock (s : State) (w : Nat) : Nat :=
  let used := mapBlocks s w
  ((List.range (used.length + 1)).find? (fun i => !used.contains (i + 1))).getD used.length + 1

/-- A bale takes a map block: its pages are fresh, and hold what the map has of the bale (R68, R198, R755). -/
def takeMapBlock (nsid bale : Nat) (d : DirEntry) (s : State) : State :=
  let old := dirEntry s nsid bale
  if d.blockIx = 0 ∨ d.station ≠ ownStation s ∨ (old.station = d.station ∧ old.wing = d.wing ∧ old.blockIx = d.blockIx) then s
  else
    let first := mapBlockAddr d.blockIx / 4096
    let s1 := clearPages d.wing (fun p => decide (first ≤ p ∧ p < first + 6)) s
    (s1.med.map.filter (fun e => e.1 / 4096 = baleKey nsid bale)).foldl (fun s e => touchRun d.wing (mapBlockAddr d.blockIx + 6 * (e.1 % 4096)) 6 s) s1

/-- Records a directory entry with its BALE_DIR record (R70, R77). -/
def setDir (nsid bale : Nat) (d : DirEntry) (act : JAct) (s0 : State) : State :=
  let s := takeMapBlock nsid bale d s0
  jrn 8 (.baleDir (dirWord nsid bale d)) act { s with med := { s.med with dir := Tbl.put DirEntry.empty s.med.dir (baleKey nsid bale) d } }

/-- The drover lead announces a directory entry to every other Lit member, and each acknowledges; of a bale that moves away it tells where to
(R183, R186, R200, R202). -/
def announceDir (nsid bale : Nat) (d : DirEntry) (s : State) : State :=
  if otherLit s = [] then s
  else
    let away := s.plc.moves.find? (fun m => d.state = 3 ∧ m.nsid = nsid ∧ m.bale = bale ∧ m.dstStation ≠ m.srcStation)
    let s0 := match away with
      | some m => sendAll .order [ordMoveTo, nsid, bale, m.srcStation, m.dstStation] [] s
      | none => s
    let s1 := (otherLit s).foldl (fun s m => send m .dirEntry [nsid, bale, d.station, d.wing, d.state] [] [] s) s0
    { s1 with rte := { s1.rte with waits := s1.rte.waits ++ [{ code := 14, a := nsid, b := bale, cmd := none, left := otherLit s, fails := [] }] } }

/-- An owner tells the drover lead of a change of its entry, and the lead announces it (R186, R200). -/
def tellDir (nsid bale : Nat) (d : DirEntry) (s : State) : State :=
  if ¬ inCaravan s then s
  else if droverLead s = ownStation s then announceDir nsid bale d s
  else send (droverLead s) .dirEntry [nsid, bale, d.station, d.wing, d.state] [] [] s

/-- Something stands against a bale's return to Empty: a rebuild, a move, a write admitted or on its way, a grain or a MAP_SET of it that is
not done. -/
def baleBusy (s : State) (nsid bale : Nat) : Bool :=
  let covers := fun (n slba nlb : Nat) => decide (n = nsid ∧ slba < 16384 * (bale + 1) ∧ 16384 * bale < slba + nlb)
  s.plc.rebuilding.any (fun b => b.1 = nsid ∧ b.2.1 = bale) || s.plc.moves.any (fun m => m.nsid = nsid ∧ m.bale = bale) ||
    s.host.locks.any (fun e => e.write && covers e.nsid e.slba e.nlb) ||
    s.host.foreign.any (fun f => f.write && covers f.part.nsid f.part.slba f.part.nlb) ||
    (pendingItems s ++ s.med.landed.map (·.1)).any (fun g => g.id.nsid = nsid ∧ g.id.bale = bale) ||
    s.med.journal.any (fun r => decide (s.med.durSeq < r.seq) && match r.body with
      | .mapSet n b _ => decide (n = nsid ∧ b = bale)
      | _ => false)

/-- A bale whose last entry is gone returns to Empty; while something stands against it, it does so later (R68, R186). -/
def emptyBale (nsid bale : Nat) (s : State) : State :=
  let x := (nsid, bale)
  if ¬ ownsBale s nsid bale ∨ baleMapped s nsid bale then { s with med := { s.med with emptyWait := s.med.emptyWait.filter (· ≠ x) } }
  else if baleBusy s nsid bale then
    if s.med.emptyWait.contains x then s else { s with med := { s.med with emptyWait := s.med.emptyWait ++ [x] } }
  else
    tellDir nsid bale DirEntry.empty (setDir nsid bale DirEntry.empty .nothing
      { s with med := { s.med with emptyWait := s.med.emptyWait.filter (· ≠ x) } })

/-- What follows a change of entries or block states. -/
def mediaSettle (s : State) : State :=
  startErases (sourcesDue (pumpAll (s.med.emptyWait.foldl (fun s x => emptyBale x.1 x.2 s) s)))

/-- Blocks of a lost grain that are no longer so: `bits` rewritten or trimmed; `all`: a grain lost where its entry points is whole
again or unmapped (R65, R140). -/
def lostClear (k bits : Nat) (all : Bool) (s : State) : State :=
  let m := s.med
  match Tbl.find m.lostBits k with
  | some b =>
    let left := Nat.land b (15 - bits % 16)
    if left = 0 then { s with med := { m with lost := m.lost.filter (· ≠ k), lostBits := Tbl.erase m.lostBits k } }
    else { s with med := { m with lostBits := Tbl.insert m.lostBits k left } }
  | none => if all then { s with med := { m with lost := m.lost.filter (· ≠ k) } } else s

/-- The blocks of a grain that no read can recover (R65, R140). -/
def lostBlocks (s : State) (k : Nat) : Nat :=
  if s.med.lost.contains k then (Tbl.find s.med.lostBits k).getD (enPresent (mapEntry s k)) else 0

/-- A grain changed while its bale moves to another station: it is sent again (R200 step 4). -/
def markMove (nsid bale grain : Nat) (s : State) : State :=
  { s with plc := { s.plc with moves := s.plc.moves.map (fun m =>
    if m.nsid = nsid ∧ m.bale = bale ∧ m.srcStation = ownStation s ∧ m.dstStation ≠ ownStation s ∧ 4 ≤ m.step ∧ ¬ m.todo.contains grain
    then { m with marked := (m.marked.filter (· ≠ grain)) ++ [grain] } else m) } }

/-- A MAP_SET item takes effect: a grain of this owner's bale joins its piece; the blocks it holds are lost no longer. -/
def applySet (moveIn : Bool) (nsid bale : Nat) (s : State) (x : Nat × Nat) : State :=
  let k := mapKey nsid bale x.1
  let s1 := setEntry nsid bale x.1 x.2 (lostClear k (enPresent x.2) true s)
  let s2 := markRebuilt nsid (16384 * bale + 4 * x.1) 4
    (if ownsBale s nsid bale || moveIn then pieceAdd { nsid := nsid, bale := bale, grain := x.1 } (imgAt s1 x.2) x.2 s1 else s1)
  freeEarlier k (markMove nsid bale x.1 s2)

/-- A MAP_MOVE item takes effect when the entry still has the old place, and for a held version that has it; its target is then on the
source's list, and on the list of the source whose failed target the grain is copied out of (R78, R135, R140, R641). -/
def applyMove (why : MoveWhy) (nsid bale : Nat) (s : State) (x : Nat × Nat × Nat) : State :=
  let k := mapKey nsid bale x.1
  let cur := mapEntry s k
  let mapped := decide (cur / 16 = x.2.1 / 16 ∧ cur ≠ 0)
  let id : GrainId := { nsid := nsid, bale := bale, grain := x.1 }
  if mapped ∨ (heldEntries s).any (fun h => decide (h.1 = id ∧ h.2 / 16 = x.2.1 / 16)) then
    let src := entryBlk s x.2.1
    let dst := entryBlk s x.2.2
    let s1 := if mapped then setEntry nsid bale x.1 (withPresent x.2.2 (enPresent cur)) s else s
    let add := fun (b : DieBlock) => { b with targets := if b.targets.contains dst then b.targets else b.targets ++ [dst] }
    let s0 := setBlk src (add (getBlk s1 src)) s1
    let chain := fun (e : Nat × DieBlock) => if e.2.targets.contains src then (e.1, add e.2) else e
    let again := s0.med.copied.map (fun c => if c.1 = k ∧ c.2.2 / 16 = x.2.1 / 16 then (c.1, c.2.1, x.2.2) else c)
    let s2 := if (getBlk s src).state = .retired then { s0 with med := { s0.med with blocks := s0.med.blocks.map chain, copied := again } }
      else { s0 with med := { s0.med with copied := s0.med.copied ++ [(k, x.2.1, x.2.2)] } }
    let moved := fun (e : Nat) => withPresent x.2.2 (enPresent e)
    let piece := fun (p : Piece) =>
      { p with versions := p.versions.map (fun v => if v.1 = id ∧ v.2.2 / 16 = x.2.1 / 16 then (v.1, v.2.1, moved v.2.2) else v) }
    let parity := fun (p : ParityGrain) =>
      if nsid = 0 ∧ p.seg = bale ∧ p.idx = x.1 ∧ p.entry / 16 = x.2.1 / 16 then { p with entry := moved p.entry } else p
    let s3 := { s2 with rte := { s2.rte with pieces := s2.rte.pieces.map piece, parity := s2.rte.parity.map parity } }
    match why with
    | .fold => healthAdd 1 1 s3
    | .reclaim => healthAdd 2 1 s3
    | .refresh => healthAdd 3 1 s3
    | _ => s3
  else s

/-- A MAP_TRIM takes effect (R79). -/
def applyTrim (nsid bale first count : Nat) (s : State) : State :=
  let s1 := (rangeGrains (16384 * bale + first) count).foldl (fun s g =>
    let k := mapKey nsid bale g.2.1
    let e := mapEntry s k
    let e1 := withPresent e (Nat.land (enPresent e) (15 - g.2.2))
    let s0 := lostClear k g.2.2 (decide (e1 = 0)) s
    if e = 0 then s0 else markMove nsid bale g.2.1 (setEntry nsid bale g.2.1 e1 s0)) s
  emptyBale nsid bale s1

/-- A directory entry as a durable record leaves it; its segment of 192 entries becomes dirty (R83, R84). -/
def applyDir (w : Nat) (s : State) : State :=
  let n := w % 2 ^ 32
  let b := bitsOf w 63 32
  let seg := (true, n, 0, b / 192)
  { s with med := { s.med with dirDur := Tbl.put DirEntry.empty s.med.dirDur (baleKey n b) (wordDir w)
                               dirty := if s.med.dirty.contains seg then s.med.dirty else s.med.dirty ++ [seg] } }

/-- What a durable record does to the map. -/
def applyBody (r : JRec) (s : State) : State :=
  match r.body with
  | .mapSet n b items =>
    if n = 0 then s else items.foldl (applySet (match r.act with | .moveIn _ => true | _ => false) n b) s
  | .mapMove n b items =>
    items.foldl (applyMove (match r.act with | .moved w => w | _ => .retire) n b) s
  | .mapTrim n b f c => applyTrim n b f c s
  | .baleDir w => applyDir w s
  | _ => s

end Sys2Proof.Machine
end

