-- ==== Sys2Proof/Machine/Frames.lean ====
section
/-! DEFINITION. Zstandard frames in grains, as RFC 8878 lays them out (R255, R258; log entry 83). -/

namespace Sys2Proof.Machine

/-- What decoding gives: content, or the cause of R255. -/
inductive FrameOut where
  | ok (content : List Byte)
  | bad (cause : Nat)
deriving DecidableEq, Repr

/-- Bytes of the dictionary identifier and of the content size by their flags. -/
def dictBytes (fl : Nat) : Nat := if fl = 3 then 4 else fl
def sizeBytes (fl : Nat) (single : Bool) : Nat := if fl = 0 then b2n single else 2 ^ fl

/-- The window of a window descriptor. -/
def windowOf (d : Nat) : Nat := let base := 2 ^ (10 + d / 8); base + base / 8 * (d % 8)

/-- A frame header: bytes after the magic, window, content size when stated, checksum flag. -/
structure FrameHead where
  len : Nat
  dict : Nat
  window : Nat
  size : Option Nat
  check : Bool
deriving DecidableEq, Repr

/-- The header at the head of `b`, which follows a magic; none when it runs past the end. -/
def frameHead (b : List Byte) : Option FrameHead :=
  match b with
  | [] => none
  | d :: r =>
    let fl := d.toNat / 64
    let single := bitOf d.toNat 5
    let nd := dictBytes (d.toNat % 4)
    let ns := sizeBytes fl single
    let w := if single then 0 else 1
    if r.length < w + nd + ns then none
    else
      let size := leNat ((r.drop (w + nd)).take ns) + (if fl = 1 then 256 else 0)
      some { len := 1 + w + nd + ns, dict := leNat ((r.drop w).take nd), size := if ns = 0 then none else some size
             window := if single then size else windowOf (r.headD 0).toNat, check := bitOf d.toNat 2 }

/-- Largest content of a grain, and largest window. -/
def frameLimit : Nat := 8 * 2 ^ 20

/-- The blocks of a frame: `before` are its bytes so far, `out` its content, `room` the content that the grain may still have. The
answer holds what follows the frame's blocks. -/
def frameBody : Nat → Nat → Nat → List Byte → List Byte → List Byte → FrameOut × List Byte
  | 0, _, _, _, _, rest => (.bad 5, rest)
  | n + 1, win, room, before, out, rest =>
    if rest.length < 3 then (.bad 7, rest)
    else
      let h := leNat (rest.take 3)
      let typ := bitsOf h 2 1
      let size := h / 8
      let body := rest.drop 3
      let take := if typ = 1 then 1 else size
      if typ = 3 ∨ min win 131072 < size then (.bad 5, rest)
      else if body.length < take then (.bad 7, rest)
      else
        let raw := body.take take
        let got : Option (List Byte) :=
          if typ = 0 then some raw
          else if typ = 1 then some (List.replicate size (raw.headD 0))
          else Config.zstdUnblock before raw
        match got with
        | none => (.bad 5, rest)
        | some c =>
          let out1 := out ++ c
          if room < out1.length then (.bad 6, rest)
          else if bitOf h 0 then (.ok out1, body.drop take)
          else frameBody n win room (before ++ rest.take (3 + take)) out1 (body.drop take)

/-- One frame after its magic: content and what follows. -/
def frameOne (room : Nat) (magic b : List Byte) : FrameOut × List Byte :=
  match frameHead b with
  | none => if bitOf (b.headD 0).toNat 3 then (.bad 5, b) else (.bad 7, b)
  | some h =>
    if bitOf (b.headD 0).toNat 3 then (.bad 5, b)
    else if h.dict ≠ 0 ∨ frameLimit < h.window ∨ frameLimit < h.size.getD 0 then (.bad 6, b)
    else
      match frameBody (b.length + 1) h.window room (magic ++ b.take h.len) [] (b.drop h.len) with
      | (.bad c, rest) => (.bad c, rest)
      | (.ok out, rest) =>
        if (match h.size with | some n => decide (n ≠ out.length) | none => false) then (.bad 5, rest)
        else if ¬ h.check then (.ok out, rest)
        else if rest.length < 4 then (.bad 7, rest)
        else if leNat (rest.take 4) ≠ xxh64 out % 2 ^ 32 then (.bad 5, rest)
        else (.ok out, rest.drop 4)

/-- The frames of a grain one after another; skippable frames are skipped and zeros end them (R255, R258). -/
def framesFrom : Nat → Bool → List Byte → List Byte → FrameOut
  | 0, _, out, _ => .ok out
  | n + 1, first, out, rest =>
    let magic := leNat (rest.take 4)
    if !first && rest.all (· = 0) then .ok out
    else if 4 ≤ rest.length ∧ magic = 0xFD2FB528 then
      match frameOne (frameLimit - out.length) (rest.take 4) (rest.drop 4) with
      | (.bad c, _) => .bad c
      | (.ok c, r) => framesFrom n false (out ++ c) r
    else if 4 ≤ rest.length ∧ magic / 16 = 0x184D2A5 then
      if rest.length < 8 ∨ rest.length < 8 + leNat ((rest.drop 4).take 4) then .bad 7
      else framesFrom n false out (rest.drop (8 + leNat ((rest.drop 4).take 4)))
    else if first then .bad 5 else .bad 7

/-- The decoded content of a grain (R258). -/
def grainFrames (b : List Byte) : FrameOut := framesFrom (b.length + 1) true [] b

end Sys2Proof.Machine
end

