-- ==== Sys2Proof/Machine/Sieve.lean ====
section
/-! DEFINITION. The channel sieves: framing, micro-ops, staging, batches and the end of a leg on a channel (R228 to R275). -/

namespace Sys2Proof.Machine

/-- Replaces a sieve. -/
def setSiv (ch : Nat) (c : SivCh) (s : State) : State := { s with siv := Tbl.put SivCh.reset s.siv ch c }

/-! Framing (R251 to R255). -/

/-- What framing gives: offset and bytes of each record, and the cause that ended it, 0 for none. -/
structure Framed where
  recs : List (Nat × List Byte)
  cause : Nat
deriving DecidableEq, Repr

/-- A record goes before what follows it. -/
def Framed.cons (off : Nat) (b : List Byte) (f : Framed) : Framed := { f with recs := (off, b) :: f.recs }

/-- SKIP_ZERO skips the record (R253, R254). -/
def skipsRec (p : Plan) (b : List Byte) : Bool := p.skipZero && !b.isEmpty && b.all (· = 0)

/-- FIXED. -/
def frameFixed (p : Plan) : Nat → Nat → List Byte → Framed
  | 0, _, _ => { recs := [], cause := 0 }
  | n + 1, off, rest =>
    if rest.length < p.reclen then { recs := [], cause := 0 }
    else
      let r := rest.take p.reclen
      let f := frameFixed p n (off + p.reclen) (rest.drop p.reclen)
      if skipsRec p r then f else f.cons off r

/-- LENPFX16 and LENPFX32, with prefixes of `w` bytes. -/
def framePrefix (p : Plan) (w : Nat) : Nat → Nat → List Byte → Framed
  | 0, _, _ => { recs := [], cause := 0 }
  | n + 1, off, rest =>
    let len := if p.pfxBe then beNat (rest.take w) else leNat (rest.take w)
    if rest.length < w ∨ len = 0 then { recs := [], cause := 0 }
    else if rest.length < w + len then { recs := [], cause := 1 }
    else if p.reclen < len then { recs := [], cause := 2 }
    else (framePrefix p w n (off + w + len) (rest.drop (w + len))).cons (off + w) ((rest.drop w).take len)

/-- DELIM. -/
def frameDelim (p : Plan) : Nat → Nat → List Byte → Framed
  | 0, _, _ => { recs := [], cause := 0 }
  | n + 1, off, rest =>
    if rest.all (· = 0) then { recs := [], cause := 0 }
    else
      let r := rest.takeWhile (fun b => b.toNat ≠ p.delim)
      if p.reclen < r.length then { recs := [], cause := 3 }
      else if r.length = rest.length then { recs := [], cause := 4 }
      else
        let f := frameDelim p n (off + r.length + 1) (rest.drop (r.length + 1))
        if skipsRec p r then f else f.cons off r

/-- The records of a content (R251). -/
def frameContent (p : Plan) (c : List Byte) : Framed :=
  match p.framing with
  | 0 => frameFixed p (c.length + 1) 0 c
  | 1 => framePrefix p 2 (c.length + 1) 0 c
  | 2 => framePrefix p 4 (c.length + 1) 0 c
  | _ => frameDelim p (c.length + 1) 0 c

/-! Micro-ops (R239 to R247). -/

/-- A 64-bit or shorter number as signed. -/
def asSigned (bits v : Nat) : Int := if 2 ^ (bits - 1) ≤ v then (v : Int) - 2 ^ bits else v

/-- A number of a width as signed or unsigned. -/
def asNum (sgn : Bool) (bits v : Nat) : Int := if sgn then asSigned bits v else v

/-- A compare condition (R238). -/
def planCond (c : Nat) (a b : Int) : Bool :=
  match c with
  | 0 => decide (a = b)
  | 1 => decide (a ≠ b)
  | 2 => decide (a < b)
  | 3 => decide (a ≤ b)
  | 4 => decide (b < a)
  | _ => decide (b ≤ a)

/-- The field that an op names is short (R247). -/
def fieldShort (w : Nat) (r : RecEval) : Bool := decide (r.bytes.length < opOff w + opLen w)

/-- The bytes of the field, zeros beyond the record. -/
def fieldBytes (w : Nat) (r : RecEval) : List Byte := fitBytes (opLen w) (r.bytes.drop (opOff w))

/-- The field as an unsigned number in the op's byte order. -/
def fieldNat (w : Nat) (r : RecEval) : Nat := if opBe w then beNat (fieldBytes w r) else leNat (fieldBytes w r)

/-- The field as the op compares it. -/
def fieldNum (w : Nat) (r : RecEval) : Int := asNum (opSgn w) (8 * opLen w) (fieldNat w r)

/-- A constant of a plan. -/
def planConst (p : Plan) (i : Nat) : Nat := listGet 0 p.consts i

/-- Pushes a predicate. -/
def RecEval.push (b : Bool) (r : RecEval) : RecEval := { r with stack := b :: r.stack }

/-- A compare op: false on a short field. -/
def cmpOp (w : Nat) (b : Bool) (r : RecEval) : RecEval :=
  if fieldShort w r then RecEval.push false { r with short := true } else r.push b

/-- A field op that takes bytes: the record is marked when the field is short. -/
def markShort (w : Nat) (r : RecEval) : RecEval := { r with short := r.short || fieldShort w r }

/-- The locator of a record (R246). -/
def recLocator (nsid : Nat) (r : RecEval) : Locator := { lba := 4 * r.grain, off := r.off % 65536, len := r.bytes.length, nsid := nsid }

/-- A skip: the ops that follow are passed over. -/
def skipOp (n : Nat) (taken : Bool) (r : RecEval) : RecEval := if taken then { r with pc := r.pc + n } else r

/-- One micro-op; `pc` stands already behind it, except at a search, which keeps it. -/
def recOp (p : Plan) (nsid w : Nat) (r : RecEval) : RecEval :=
  let a := opArg w
  let ka := planConst p (bitsOf a 6 0)
  let kb := planConst p (bitsOf a 14 8)
  let num := fun (k : Nat) => asNum (opSgn w) 64 k
  let top := r.stack.headD false
  match opCode w with
  | 0x01 => cmpOp w (planCond (bitsOf a 18 16) (fieldNum w r) (num ka)) r
  | 0x02 => cmpOp w (decide (Nat.land (fieldNat w r) kb = ka)) r
  | 0x03 => cmpOp w (decide (num ka ≤ fieldNum w r ∧ fieldNum w r ≤ num kb)) r
  | 0x04 => cmpOp w (planCond (bitsOf a 18 16) (fieldNum w r) (asNum (opSgn w) 32 (Tbl.get 0 r.latches (bitsOf a 25 24)))) r
  | 0x08 => r.push (bitOf a 0)
  | 0x09 => (match r.stack with | b :: x :: st => { r with stack := (x && b) :: st } | _ => r)
  | 0x0A => (match r.stack with | b :: x :: st => { r with stack := (x || b) :: st } | _ => r)
  | 0x0B => (match r.stack with | b :: st => { r with stack := (!b) :: st } | _ => r)
  | 0x0C => { r with stack := r.stack.drop 1 }
  | 0x10 => skipOp (bitsOf a 7 0) (!top) r
  | 0x11 => skipOp (bitsOf a 7 0) top r
  | 0x18 => if fieldShort w r then { r with keyAbsent := true, short := true } else { r with key := r.key ++ leBytes (opLen w) (fieldNat w r) }
  | 0x19 =>
    if r.keyAbsent then
      RecEval.push false { r with key := [], keyAbsent := false, latches := Tbl.put 0 r.latches (bitsOf a 9 8) 0 }
    else { r with pc := r.pc - 1, phase := .wantSearch }
  | 0x20 => markShort w { r with out := r.out ++ fieldBytes w r }
  | 0x21 => { r with out := r.out ++ leBytes 4 (Tbl.get 0 r.latches (bitsOf a 1 0)) }
  | 0x22 => { r with out := r.out ++ locBytes (some (recLocator nsid r)) }
  | 0x23 => { r with out := r.out ++ leBytes 8 ka }
  | 0x28 => markShort w { r with queue := crc32c (fieldBytes w r) % p.queues }
  | 0x29 => { r with queue := bitsOf a 5 0 }
  | 0x3E => { r with stack := r.stack.drop 1, phase := if top then .emitting else .ended }
  | 0x3F => { r with phase := .ended }
  | _ => r

/-- The leg counter that an op adds to, if its predicate is true. -/
def countOf (w : Nat) (r : RecEval) : List Nat := if opCode w = 0x30 ∧ r.stack.headD false then [bitsOf (opArg w) 2 0] else []

/-- Runs a record until it searches, emits or ends; with the leg counters that its COUNTs add to (R239, R241). -/
def recRun (p : Plan) (nsid : Nat) : Nat → RecEval → RecEval × List Nat
  | 0, r => (r, [])
  | n + 1, r =>
    if r.phase ≠ .ready then (r, [])
    else match p.ops[r.pc]? with
      | none => ({ r with phase := .ended }, [])
      | some w =>
        let (r1, c) := recRun p nsid n (recOp p nsid w { r with pc := r.pc + 1 })
        (r1, countOf w r ++ c)

/-- A record as its evaluation starts (R241). -/
def recStart (grain : Nat) (x : Nat × List Byte) : RecEval :=
  { bytes := x.2, off := x.1, grain := grain, pc := 0, phase := .ready, stack := [], key := [], keyAbsent := false, latches := [],
    multi := false, out := [], queue := 0, short := false }

/-! Batches (R266 to R270). -/

/-- The staging offset of a batch buffer (R313). -/
def batchOff (l : RunLeg) (b : Batch) : Nat :=
  l.base + (((b.channel % 16) * l.plan.queues + b.queue) * l.depth + b.index) * l.batchBytes

/-- The same buffer. -/
def sameBatch (a b : Batch) : Bool := decide (a.channel = b.channel ∧ a.queue = b.queue ∧ a.index = b.index)

/-- The header of a batch (R267). -/
def batchHeader (l : RunLeg) (b : Batch) : List Byte :=
  leBytes 2 l.leg ++ leBytes 2 l.attempt ++ leBytes 1 b.channel ++ leBytes 1 b.queue ++ leBytes 2 0 ++ leBytes 4 b.entries ++
    leBytes 4 b.used ++ leBytes 8 b.seq ++ leBytes 8 0

/-- An entry (R268). -/
def batchEntry (ch : Nat) (r : RecEval) : List Byte :=
  leBytes 2 r.out.length ++ leBytes 1 ch ++ leBytes 1 (b2n r.multi + 2 * b2n r.short) ++ leBytes 4 0 ++ fitBytes ((r.out.length + 7) / 8 * 8) r.out

/-- The batch that a sieve fills for a queue. -/
def fillingOf (l : RunLeg) (ch q : Nat) : Option Batch := l.batches.find? (fun b => b.channel = ch ∧ b.queue = q ∧ b.state = .filling)

/-- The lowest free buffer of a ring. -/
def freeBatch (l : RunLeg) (ch q : Nat) : Option Nat :=
  (List.range l.depth).find? (fun i => l.batches.all (fun b => b.channel ≠ ch ∨ b.queue ≠ q ∨ b.index ≠ i ∨ b.state = .free))

/-- The reduce task of a queue of a leg. -/
def queueTask (s : State) (l : RunLeg) (q : Nat) : Option (Nat × Task) :=
  s.disp.tasks.find? (fun e => match e.2.leg with
    | some r => decide (r.station = l.station ∧ r.handle = l.handle ∧ r.leg = l.leg ∧ r.queue = q)
    | none => false)

/-- Puts a batch in its place in a leg. -/
def putBatch (b : Batch) (l : RunLeg) : RunLeg := { l with batches := l.batches.filter (fun x => !sameBatch x b) ++ [b] }

/-- Applies a function to a leg. -/
def onLeg (l : RunLeg) (f : RunLeg → RunLeg) (s : State) : State := updLeg l.station l.handle l.leg f s

/-- Posts a batch: its header, then FLAG_BATCH to the queue's task; a queue whose task has ended hands it back unread (R269, R315,
R318). False while the post queue is full (R262). -/
def postBatch (l : RunLeg) (b : Batch) (s : State) : State × Bool :=
  let s1 := stagingWrite l.pool (batchOff l b) (batchHeader l b) s
  let unread := (onLeg l (putBatch { b with state := .free }) s1, true)
  if l.ended.contains b.queue then unread
  else match queueTask s l b.queue with
    | none => unread
    | some (k, t) =>
      match postTo (handleOf k t) (1#32 <<< l.flagBatch) 0 s1 with
      | (s2, .full, _) => (s2, false)
      | (s2, .dead, _) => (onLeg l (putBatch { b with state := .free }) s2, true)
      | (s2, .posted, ev) =>
        let s3 := onLeg l (fun x => { putBatch { b with state := .posted, posted := x.nextPost } x with nextPost := x.nextPost + 1 }) s2
        (if ev then raise (1048 + (k / 2 ^ 11) % 8) s3 else s3, true)

/-- What stops a record from being staged. -/
inductive StageStop where
  | staged | noBatch | postFull
deriving DecidableEq, Repr

/-- Opens a batch for a queue and puts an entry in it; none while no buffer is free or none could hold the entry. -/
def openBatch (l : RunLeg) (ch q : Nat) (e : List Byte) (s : State) : Option State :=
  if l.batchBytes < 32 + e.length then none
  else match freeBatch l ch q with
    | none => none
    | some i =>
      let k := 64 * ch + q
      let b : Batch := { channel := ch, queue := q, index := i, state := .filling, seq := Tbl.get 0 l.nextSeq k, entries := 1,
                         used := 32 + e.length, posted := 0 }
      some (onLeg l (fun x => { putBatch b x with nextSeq := Tbl.put 0 x.nextSeq k (b.seq + 1) }) (stagingWrite l.pool (batchOff l b + 32) e s))

/-- Stages an output record in its queue (R260, R269). -/
def stageRec (l : RunLeg) (ch : Nat) (r : RecEval) (s : State) : State × StageStop :=
  let e := batchEntry ch r
  let open1 := fun (l : RunLeg) (s : State) => match openBatch l ch r.queue e s with
    | some s1 => (s1, StageStop.staged)
    | none => (s, .noBatch)
  match fillingOf l ch r.queue with
  | none => open1 l s
  | some b =>
    if b.used + e.length ≤ l.batchBytes then
      (onLeg l (putBatch { b with entries := b.entries + 1, used := b.used + e.length }) (stagingWrite l.pool (batchOff l b + b.used) e s), .staged)
    else match postBatch l b s with
      | (s1, false) => (s1, .postFull)
      | (s1, true) => open1 ((s1.prog.legs.find? (isLeg l.station l.handle l.leg)).getD l) s1

/-! The end of a leg on a channel (R269, R271, R318). -/

/-- The channel of a leg's wing that evaluates a grain: the channel of its page, or the one at the same place of the wing when the
page lies in another wing (log entry 84). -/
def legChannel (l : RunLeg) (e : Nat) : Nat := 16 * l.wing + portChannel (enPort e) % 16

/-- Place of a grain in a leg's bale list: position × 4,096 + grain; none outside the leg's range. -/
def legPlace (l : RunLeg) (k : Nat) : Option Nat :=
  let bale := k / 4096 % 2 ^ 32
  let g := 4096 * bale + k % 4096
  let i := (l.bales.takeWhile (· ≠ bale)).length
  if k / 2 ^ 44 = l.nsid ∧ l.firstGrain ≤ g ∧ g ≤ l.lastGrain ∧ i < l.bales.length then some (4096 * i + k % 4096) else none

/-- The mapped grains that a leg has still to read on a channel: place, map key and entry, in the order of R232. -/
def legAhead (s : State) (l : RunLeg) (ch : Nat) : List (Nat × Nat × Nat) :=
  s.med.map.filterMap (fun e =>
    match legPlace l e.1 with
    | some p => if Tbl.get 0 l.progress ch ≤ p ∧ legChannel l e.2 = ch then some (p, e.1, e.2) else none
    | none => none)

/-- A bale of an absent station that is not yet rebuilt here (R207, R644). -/
def baleRebuilding (s : State) (nsid bale : Nat) : Bool := s.plc.rebuilding.any (fun b => decide (b.1 = nsid ∧ b.2.1 = bale))

/-- Position in the leg's list of the first bale not passed on a channel that is still to be rebuilt: the leg waits there (R216; log
entry 84). -/
def rebuildAt (s : State) (l : RunLeg) (ch : Nat) : Option Nat :=
  (List.range l.bales.length).find? (fun i => decide (Tbl.get 0 l.progress ch < 4096 * (i + 1)) && baleRebuilding s l.nsid (listGet 0 l.bales i))

/-- The next grain of a leg on a channel. -/
def nextGrain (s : State) (l : RunLeg) (ch : Nat) : Option (Nat × Nat × Nat) :=
  match (legAhead s l ch).head?, rebuildAt s l ch with
  | some g, some i => if g.1 < 4096 * i then some g else none
  | g, _ => g

/-- A leg's reads on a channel. -/
def legReads (c : SivCh) (l : RunLeg) : Bool := c.reads.any (fun r => isLeg r.station r.handle r.leg l)

/-- Posts the partly filled batches of a leg on a channel; false while a post queue is full. -/
def postPartial (l : RunLeg) (ch : Nat) (s : State) : State × Bool :=
  (l.batches.filter (fun b => b.channel = ch ∧ b.state = .filling)).foldl (fun a b =>
    if a.2 then postBatch ((a.1.prog.legs.find? (isLeg l.station l.handle l.leg)).getD l) b a.1 else a) (s, true)

/-- Ends a leg on a channel when its last grain there is evaluated. -/
def legChannelEnd (ch : Nat) (s : State) (l : RunLeg) : State :=
  let c := getSiv s ch
  if l.state ≠ .running ∨ l.wing ≠ ch / 16 ∨ l.doneCh.contains ch ∨ legReads c l ∨ legAhead s l ch ≠ [] ∨ (rebuildAt s l ch).isSome then s
  else match postPartial l ch s with
    | (s1, false) => setSiv ch { getSiv s1 ch with postStall := true } s1
    | (s1, true) => legCheckEnd l.station l.handle l.leg (onLeg l (fun x => { x with doneCh := x.doneCh ++ [ch] }) s1)

/-- Ends every leg that has nothing left on a channel. -/
def legSweep (ch : Nat) (s : State) : State := s.prog.legs.foldl (legChannelEnd ch) s

/-! Evaluation of a grain (R228 to R260). -/

/-- Changes the counts of a leg. -/
def onSummary (l : RunLeg) (f : LegSummary → LegSummary) (s : State) : State := onLeg l (fun x => { x with summary := f x.summary }) s

/-- The locator of a grain (R257, R271). -/
def grainLocator (r : ScanRead) : Locator := { lba := 4 * r.grain, off := 0, len := 0, nsid := r.nsid }

/-- Adds to the leg counters that COUNTs named. -/
def addCounts (cs : List Nat) (m : LegSummary) : LegSummary :=
  cs.foldl (fun m i => { m with counts := Tbl.upd 0 m.counts i (fun v => satAdd max64 v 1) }) m

/-- Malformed content (R256, R257, R275). -/
def sivMalformed (ch cause : Nat) (l : RunLeg) (r : ScanRead) (s : State) : State :=
  let c := getSiv s ch
  let n := c.malformed + 1
  let w := 1024 + ch / 16
  let s1 := setSiv ch { c with malformed := n % 2 ^ 64, malWrapped := c.malWrapped || decide (2 ^ 64 ≤ n), lastCause := cause } s
  let s2 := raise w (if 2 ^ 64 ≤ n then raise w s1 else s1)
  onSummary l (fun m => { m with malformed := satAdd max64 m.malformed 1, firstMalformed := m.firstMalformed.orElse (fun _ => some (grainLocator r)) }) s2

/-- The leg of a read. -/
def legOfRead (s : State) (r : ScanRead) : Option RunLeg := s.prog.legs.find? (isLeg r.station r.handle r.leg)

/-- Takes the oldest read off a sieve. -/
def sivDrop (ch : Nat) (s : State) : State :=
  let c := getSiv s ch
  setSiv ch { c with reads := c.reads.drop 1, recs := [], framed := [], badAfter := none, active := false } s

/-- Begins the oldest grain of a sieve: its framing, or its skip when it is unreadable (R228, R234). -/
def sivBegin (ch : Nat) (r : ScanRead) (s : State) : State :=
  match legOfRead s r with
  | none => sivDrop ch s
  | some l =>
    match r.content with
    | none =>
      sivDrop ch (onSummary l (fun m => { m with unreadable := satAdd max64 m.unreadable 1,
                                                 firstUnreadable := m.firstUnreadable.orElse (fun _ => some (grainLocator r)) }) s)
    | some b =>
      let c := getSiv s ch
      let run := fun (content : List Byte) =>
        let f := frameContent l.plan content
        setSiv ch { c with framed := f.recs, badAfter := if f.cause = 0 then none else some f.cause, active := true }
          (onSummary l (fun m => { m with grains := satAdd max64 m.grains 1, bytesIn := satAdd max64 m.bytesIn content.length }) s)
      if ¬ l.plan.frames then run b
      else match grainFrames b with
        | .ok content => run content
        | .bad cause =>
          setSiv ch { c with framed := [], badAfter := some cause, active := true }
            (onSummary l (fun m => { m with grains := satAdd max64 m.grains 1 }) s)

/-- Searches that a sieve has outstanding. -/
def searchesOut (c : SivCh) : Nat := (c.recs.filter (fun r => r.phase = .searching)).length

/-- One thing a sieve can do next. -/
inductive SivMove where
  | pop | stage (r : RecEval) | run (i : Nat) (r : RecEval) | search (i : Nat) (r : RecEval) | start (x : Nat × List Byte) | finish
  | waitSearch | wait
deriving DecidableEq, Repr

/-- The first record that can go on, or wants a search. -/
def firstLive (recs : List RecEval) : Option (Nat × RecEval) :=
  match recs.zipIdx.find? (fun x => x.1.phase = .ready ∨ x.1.phase = .wantSearch) with
  | some x => some (x.2, x.1)
  | none => none

/-- What an active sieve does next (R259, R260): records leave in framing order, and a record that needs a ninth search holds those
behind it. -/
def sivNext (c : SivCh) : SivMove :=
  match c.recs.head? with
  | some r =>
    if r.phase = .ended then .pop
    else if r.phase = .emitting then .stage r
    else match firstLive c.recs with
      | some (i, x) => if x.phase = .ready then .run i x else if searchesOut c < 8 then .search i x else .waitSearch
      | none => match c.framed with | f :: _ => if c.recs.length < 32 then .start f else .wait | [] => .wait
  | none => match c.framed with | f :: _ => .start f | [] => .finish

/-- A record leaves: it counts once when it had a short field (R247). -/
def sivPop (l : RunLeg) (ch : Nat) (s : State) : State :=
  let c := getSiv s ch
  let short := match c.recs.head? with | some r => r.short | none => false
  setSiv ch { c with recs := c.recs.drop 1 } (if short then onSummary l (fun m => { m with shortField := satAdd max64 m.shortField 1 }) s else s)

/-- Runs a sieve until it has evaluated its grain or waits. -/
def sivRun (ch : Nat) (read : ScanRead) : Nat → State → State
  | 0, s => s
  | n + 1, s =>
    let c := getSiv s ch
    match legOfRead s read with
    | none => s
    | some l =>
      match sivNext c with
      | .pop => sivRun ch read n (sivPop l ch s)
      | .stage r =>
        (match stageRec l ch r s with
         | (s1, .staged) =>
           let size := (batchEntry ch r).length
           sivRun ch read n (sivPop l ch (onSummary l (fun m => { m with emitted := satAdd max64 m.emitted 1, bytesOut := satAdd max64 m.bytesOut size }) s1))
         | (s1, .noBatch) => setSiv ch { getSiv s1 ch with outStall := true } s1
         | (s1, .postFull) => setSiv ch { getSiv s1 ch with postStall := true } s1)
      | .run i r =>
        let (r1, cs) := recRun l.plan l.nsid 257 r
        sivRun ch read n (setSiv ch { c with recs := listSet c.recs i r1 } (onSummary l (addCounts cs) s))
      | .search i r => sivRun ch read n (setSiv ch { c with recs := listSet c.recs i { r with phase := .searching } } s)
      | .start x =>
        sivRun ch read n (count (128 + ch) 1 (setSiv ch { c with framed := c.framed.drop 1, recs := c.recs ++ [recStart read.grain x] }
          (onSummary l (fun m => { m with records := satAdd max64 m.records 1 }) s)))
      | .finish =>
        let s1 := match c.badAfter with | some cause => sivMalformed ch cause l read s | none => s
        sivDrop ch s1
      | .waitSearch => setSiv ch { c with bcnStall := true } s
      | .wait => s

/-- The read is still outstanding at a die (R232). -/
def readPending (s : State) (r : ScanRead) : Bool :=
  s.med.reads.any (fun d => decide (d.why = .scan r.station r.handle r.leg ∧ 4096 * d.grain.bale + d.grain.grain = r.grain))

/-- A sieve goes on with the grain it evaluates, or with the next that has been read; stalls are found anew (R232, R262). -/
def sivGo (ch : Nat) (s : State) : State :=
  let c := getSiv s ch
  match c.reads with
  | [] => legSweep ch (setSiv ch { c with bcnStall := false, outStall := false, postStall := false } s)
  | r :: _ =>
    if !c.active && readPending s r then s
    else
      let s0 := setSiv ch { c with bcnStall := false, outStall := false, postStall := false } s
      let s1 := if c.active then s0 else sivBegin ch r s0
      let c1 := getSiv s1 ch
      let fuel := 1024 * (c1.framed.length + c1.recs.length + 1)
      legSweep ch (if c1.active then sivRun ch r fuel s1 else s1)

/-- A sieve that a stall of the given kind holds goes on (R262). -/
def sivRetry (out post : Bool) (s : State) (ch : Nat) : State :=
  let c := getSiv s ch
  if (out && c.outStall) || (post && c.postStall) then sivGo ch s else s

/-- The sixteen channels of a wing. -/
def wingChannels (w : Nat) : List Nat := (List.range 16).map (fun i => 16 * w + i)

end Sys2Proof.Machine
end

