-- ==== Sys2Proof/Machine/Place.lean ====
section
/-! DEFINITION. The Drover's inputs, costs and choices, placement and moves of bales (chapter 4). -/

namespace Sys2Proof.Machine

/-! Inputs of a wing (R176), fractions × 65,536. -/

/-- QLC data die blocks of a wing that are listed: native forecourt blocks are not among them. -/
def qlcBlocks (s : State) (w : Nat) : List (Nat × DieBlock) :=
  s.med.blocks.filter (fun e => portWing (blkPort e.1) = w ∧ (s.med.compat ∨ nativeFc s ≤ e.1 % 1024) ∧ e.2.role ≠ .mapLog)

/-- wear_x: the average erase count of a wing's QLC data die blocks / 2,000. -/
def wearOf (s : State) (w : Nat) : Nat := min 65536 (((qlcBlocks s w).map (·.2.erases)).sum * 65536 / (2000 * (128 * qlcPerDie s)))

/-- Band of the hottest flash package of a wing. -/
def hotBand (s : State) (w : Nat) : Nat := ((List.range 8).map (fun i => (Tbl.get Sensor.fresh s.pwr.sensors (16 + 8 * w + i)).band)).foldl max 0

/-- Bales that a wing of this station owns. -/
def wingBales (s : State) (w : Nat) : Nat :=
  (s.med.dir.filter (fun e => e.2.station = ownStation s ∧ e.2.wing = w ∧ (e.2.state = 1 ∨ e.2.state = 3))).length

/-- Bales that this station owns. -/
def ownedBales (s : State) : Nat := (s.med.dir.filter (fun e => e.2.station = ownStation s ∧ (e.2.state = 1 ∨ e.2.state = 3))).length

/-- Map blocks of a wing that are allocated, and bales on their way to the wing (R69). -/
def wingBlocks (s : State) (w : Nat) : Nat :=
  (mapBlocks s w).dedup.length + (s.plc.moves.filter (fun m => m.dstStation = ownStation s ∧ m.dstWing = w ∧ m.block = 0)).length

/-- Wings with compute in service. -/
def computeWings (s : State) : List Nat := (List.range 8).filter (fun w => !s.mode.wingOut.getLsbD w)

/-- own_x of a wing. -/
def ownOf (s : State) (w : Nat) : Nat :=
  let total := ownedBales s
  if total = 0 then 0 else min 65536 (wingBales s w * (computeWings s).length * 65536 / total - 65536)

/-- Share of the two neighbouring bales for which a test on their directory entries holds: 0, 32,768 or 65,536. -/
def adjShare (s : State) (nsid bale : Nat) (f : DirEntry → Bool) : Nat :=
  let one := fun (b : Nat) => let d := dirEntry s nsid b; if d.state ≠ 0 ∧ f d then 32768 else 0
  (if bale = 0 then 0 else one (bale - 1)) + one (bale + 1)

/-- A neighbouring bale is mapped. -/
def neighbour (s : State) (nsid bale : Nat) : Bool := decide (adjShare s nsid bale (fun _ => true) ≠ 0)

/-- The placement hint of a namespace. -/
def hintOf (s : State) (nsid : Nat) : Nat := Tbl.get 0 s.plc.hints nsid

/-- nb_x from adj_x (R178). -/
def nbOf (s : State) (nsid bale adj : Nat) : Nat :=
  if hintOf s nsid % 4 = 1 then (if neighbour s nsid bale then 65536 - adj else 0) else adj

/-- cost(x) × 65,536 (R178). -/
def costOf (s : State) (load wear heat own nb anchor : Nat) : Nat :=
  s.plc.wl * load + s.plc.ww * wear + s.plc.wh * heat + s.plc.wo * own + s.plc.wn * nb + s.plc.wp * anchor

/-- Cost of a wing. -/
def wingCost (s : State) (nsid bale w : Nat) : Nat :=
  costOf s (Tbl.get 0 s.plc.load w) (wearOf s w) (hotBand s w * 16384) (ownOf s w)
    (nbOf s nsid bale (adjShare s nsid bale (fun d => decide (d.station = ownStation s ∧ d.wing = w)))) 0

/-- 0 the wing takes new bales; 1 excluded by URGENT or B4 only; 2 excluded (R180, R182). -/
def wingExcl (s : State) (w : Nat) : Nat :=
  if s.mode.wingOut.getLsbD w ∨ 524288 ≤ max (wingBales s w) (wingBlocks s w) then 2
  else if belowLevel s w s.med.rclUrgent ∨ 4 ≤ hotBand s w then 1 else 0

/-- The candidate with the lowest cost, the lowest number at a tie (R179). -/
def cheapest : List (Nat × Nat) → Option Nat
  | [] => none
  | x :: rest => some (rest.foldl (fun a b => if b.1 < a.1 ∨ (b.1 = a.1 ∧ b.2 < a.2) then b else a) x).2

/-- Chooses by cost among the candidates that no rule excludes, else among those excluded by URGENT or B4 only (R178 to R182). -/
def chooseBy (cands : List Nat) (excl cost : Nat → Nat) : Option Nat :=
  let ok := cands.filter (fun x => excl x = 0)
  let soft := cands.filter (fun x => excl x = 1)
  cheapest ((if ok = [] then soft else ok).map (fun x => (cost x, x)))

/-- The wing for a new bale, or for one that leaves wing `not`. -/
def chooseWing (s : State) (nsid bale : Nat) (not : Option Nat) : Option Nat :=
  chooseBy ((List.range 8).filter (fun w => some w ≠ not)) (wingExcl s) (wingCost s nsid bale)

/-! Inputs of a station. -/

/-- Mean of a figure over the wings of this station. -/
def meanWing (f : Nat → Nat) : Nat := ((List.range 8).map f).sum / 8

/-- The least exclusion of this station's wings: 0 when one takes new bales. -/
def ownExcl (s : State) : Nat := ((List.range 8).map (wingExcl s)).foldl min 2

/-- Bytes of mirrors held for an owner. -/
def heldBytes (s : State) (o : Nat) : Nat := 16384 * (Tbl.get [] s.plc.held o).length

/-- Bytes moved and written by bale in the last window. -/
def ownBytes (s : State) : List (Nat × Nat × Nat) :=
  ((s.plc.bytesLast.map (fun e => e.1 / 2)).dedup).map (fun k => (k, Tbl.get 0 s.plc.bytesLast (2 * k), Tbl.get 0 s.plc.bytesLast (2 * k + 1)))

/-- This station's report of the window (R176, R195, R225). -/
def ownReport (s : State) : StReport :=
  { load := meanWing (fun w => Tbl.get 0 s.plc.load w), wear := meanWing (wearOf s)
    heat := ((List.range 8).map (hotBand s)).foldl max 0, owned := ownedBales s, debt := mirrorDebt s
    held := (s.plc.held.map (fun e => heldBytes s e.1)).sum, left := s.plc.rebuilding.length, moved := s.plc.movedBytes, stamp := s.td17
    excl := ownExcl s, bales := ownBytes s }

/-- The report of a station as the lead has it. -/
def reportOf (s : State) (i : Nat) : StReport := if i = ownStation s then ownReport s else Tbl.get StReport.zero s.plc.reports i

/-- Mapped bales of the subsystem. -/
def mappedBales (s : State) : Nat := (s.med.dir.filter (fun e => e.2.state ≠ 0)).length

/-- A station's report is older than three windows (R177). -/
def staleReport (s : State) (i : Nat) : Bool :=
  decide (i ≠ ownStation s ∧ ((Tbl.find s.plc.reports i).isNone ∨ (reportOf s i).stamp + 3000000000 < s.td17))

/-- Exclusion of a station (R181). -/
def stationExcl (s : State) (i : Nat) : Nat :=
  if ¬ (litStations s).contains i ∨ stationState s i = 3 ∨ staleReport s i then 2 else (reportOf s i).excl

/-- own_x of a station. -/
def stationOwn (s : State) (i : Nat) : Nat :=
  let total := mappedBales s
  if total = 0 then 0 else min 65536 ((reportOf s i).owned * litMembers s * 65536 / total - 65536)

/-- anchor_x (R178, R222). -/
def anchorOf (s : State) (nsid i : Nat) : Nat :=
  let h := hintOf s nsid
  let a := bitsOf h 13 8
  if bitOf h 2 ∧ stationExcl s a ≠ 2 ∧ i ≠ a then 65536 else 0

/-- Cost of a station. -/
def stationCost (s : State) (nsid bale i : Nat) : Nat :=
  let r := reportOf s i
  costOf s r.load r.wear (r.heat * 16384) (stationOwn s i) (nbOf s nsid bale (adjShare s nsid bale (fun d => decide (d.station = i))))
    (anchorOf s nsid i)

/-- The station for a bale among some candidates. -/
def chooseStation (s : State) (nsid bale : Nat) (cands : List Nat) : Option Nat :=
  chooseBy cands (stationExcl s) (stationCost s nsid bale)

/-! Placement (R183 to R186). -/

/-- Places a bale in a wing of this station: BALE_DIR, STATE Local. -/
def placeLocal (nsid bale : Nat) (s : State) : State :=
  match chooseWing s nsid bale none with
  | none => s
  | some w => setDir nsid bale { station := ownStation s, wing := w, state := 1, blockIx := freeMapBlock s w } (.placed nsid bale) s

/-- Order codes of caravan-wide orders and of their acknowledgements (log entry 43). -/
def ordFormatStop : Nat := 1
def ordFormatRecord : Nat := 2
def ordFormatApply : Nat := 3
def ordFormatDone : Nat := 4
def ordSanitize : Nat := 5
def ordProgImage : Nat := 6
def ordProgActive : Nat := 7
def ordRecord : Nat := 8
def ordAbort : Nat := 9
def ordPlace : Nat := 10
def ordLeave : Nat := 11
def ordNamespace : Nat := 12
def ordPartner : Nat := 13
def ordDir : Nat := 14
def ordCharter : Nat := 15
def ordHint : Nat := 16
def ordMove : Nat := 17
def ordMoveGrains : Nat := 18
def ordMoveCommit : Nat := 19
def ordPieceSeal : Nat := 20
def ordSanEnd : Nat := 22
def ordMoveAsk : Nat := 31
def ordDirKeep : Nat := 33

/-- What became of a placement that waited: parts on the bale go on at this owner or to the other (R183 step 6, R561). -/
def answerPlacement (nsid bale owner : Nat) (s : State) : State :=
  let hit := fun (p : Part) => decide (p.state = .placing ∧ p.nsid = nsid ∧ p.slba / 16384 = bale)
  let own := ownStation s
  let s1 := s.host.out.foldl (fun s c => (c.parts.filter hit).foldl (fun s p =>
    let r : PartRef := { station := own, cmd := c.cmd, index := p.index }
    let s0 := dropLock r s
    if owner = own then admitPart r c.write s0
    else
      commitIf c r (updPart r (fun p => { p with state := .forwarded, owner := owner }) (forwardPart c p owner s0))) s) s
  let s2 := s1.host.foreign.foldl (fun s f =>
    if hit f.part then
      let r : PartRef := { station := f.station, cmd := f.cmd, index := f.part.index }
      let s0 := dropLock r s
      if owner = own then admitPart r f.write s0 else passOn f owner s0
    else s) s1
  admitForeign s2
where
  /-- A command with parts at two stations is committed when any is forwarded (R580). -/
  commitIf (c : OutCmd) (r : PartRef) (s : State) : State :=
    if 1 < c.parts.length then updCmd r.cmd (fun c => { c with committed := true }) s else s

/-- Cuts a part of a command anew by the present owners of its bales, and admits what comes of it (R202, R204, R208). -/
def recutPart (c : OutCmd) (p : Part) (s : State) : State :=
  let ys := rangeParts s (placesBale c.sqe) p.nsid p.slba p.nlb
  let top := (c.parts.map (·.index)).foldl max 0
  let unit := if c.sqe.nsid ≤ 1024 then 1 else 4096
  let news := (ys.zipIdx).map (fun e =>
    { p with index := if e.2 = 0 then p.index else top + e.2, slba := e.1.2.2.1, nlb := e.1.2.2.2, owner := e.1.1, begun := false,
             state := if e.1.2.1 then PartState.placing else .waiting, off := p.off + unit * (e.1.2.2.1 - p.slba) })
  let put := fun (l : List Part) => l.flatMap (fun x => if x.index = p.index then news else [x])
  news.foldl (admitOne { c with parts := put c.parts }) (updCmd c.cmd (fun x => { x with parts := put x.parts }) s)

/-- Parts that were sent to a station now absent, or held for it, go to the owners their bales have since got, each owner's blocks as a part of
its own (R207, R208). -/
def rehome (s : State) : State :=
  let one := fun (c : OutCmd) (s : State) (p : Part) =>
    let ys := rangeParts s (placesBale c.sqe) p.nsid p.slba p.nlb
    if p.state ≠ .forwarded ∨ stationState s p.owner ≠ 4 ∨ ys.any (fun y => decide (y.1 ≠ ownStation s) && decide (stationState s y.1 = 4)) then s
    else recutPart c p s
  let keep := fun (o : Nat) => decide (stationState s o ≠ 4)
  let s1 := { s with rte := { s.rte with rerouted := s.rte.rerouted.filter keep, heldMsgs := s.rte.heldMsgs.filter (fun m => keep m.dest) } }
  s.host.out.foldl (fun s c => c.parts.foldl (fun s p => match findCmd s c.cmd with | some c1 => one c1 s p | none => s) s) s1

/-- A part that another station could not pass on is cut anew, with the owners that the station gave: bale, owner (R204). -/
def recutOrder (r : CmdRef) (index nsid : Nat) (owners : List (Nat × Nat)) (s : State) : State :=
  let note := fun (s : State) (x : Nat × Nat) =>
    if x.2 = ownStation s ∨ ownsBale s nsid x.1 then s
    else { s with med := { s.med with dir := Tbl.put DirEntry.empty s.med.dir (baleKey nsid x.1) { dirEntry s nsid x.1 with station := x.2, state := 2, blockIx := 0 } } }
  let s1 := owners.foldl note s
  match findCmd s1 r with
  | none => s
  | some c => match c.parts.find? (fun p => p.index = index ∧ p.state = .forwarded) with
    | some p => releaseRouted (recutPart c p s1)
    | none => s

/-- A leg as the station that is to run it has it, from what it is told (R312, R313). -/
def legOf (station parent arrival : Nat) (nums : List Nat) (bytes : List Byte) : RunLeg :=
  let n := listGet 0 nums
  let plan := parsePlan (bytes.take (n 18))
  { station := station, handle := n 0, leg := n 1, attempt := n 2, wing := n 3, pool := n 3, state := .waiting, slot := 0, nsid := n 4,
    bales := nums.drop 19, firstGrain := n 5, lastGrain := n 6, plan := plan, fn := n 7, gen := n 8, progSlot := n 9, image := bytes.drop (n 18),
    doorMask := BitVec.ofNat 32 (n 10), parent := parent, prio := n 11, flagBatch := n 12, redEntry := n 13, descAddr := n 14, batchBytes := n 15,
    depth := n 16, legOutMax := n 17, base := 0, size := n 15 * n 16 * 16 * plan.queues + n 17, arrival := arrival, progress := [], doneCh := [],
    batches := [], nextSeq := [], nextPost := 0, outBytes := 0, outRequired := 0, outTrunc := false, ended := [],
    summary := LegSummary.zero }

/-- Launches a leg of a waybill at a station, this one or another. -/
def launchLeg (wb : Waybill) (leg attempt station w : Nat) (bales : List Nat) (s : State) : State :=
  let nums := [wb.handle, leg, attempt, w] ++ (wb.launch.1.drop 4).take 15 ++ bales
  if station = ownStation s then
    let l := legOf station (wb.incarn * 2 ^ 16 + wb.task) s.prog.nextArrival nums wb.launch.2
    { s with prog := { s.prog with legs := s.prog.legs ++ [l], nextArrival := s.prog.nextArrival + 1 } }
  else { s with prog := { s.prog with outbox := s.prog.outbox ++ [.launch station nums wb.launch.2] } }

/-- Takes the place of a leg whose station is absent: a leg for every station and wing that now has its bales, the first under its number
(R212, R217). A cancelled one has ended. -/
def rehomeLeg (wb : Waybill) (e : LegEntry) (s : State) : State :=
  let ds := e.bales.map (fun b => (b, dirEntry s wb.nsid b))
  if e.done.isSome ∨ e.station = ownStation s ∨ stationState s e.station ≠ 4 then s
  else if wb.cancelled then
    let ls := wb.legs.map (fun l => if l.leg = e.leg then { l with done := some 2 } else l)
    wbFinish { wb with legs := ls, maxStatus := max wb.maxStatus 2 } s
  else if ds.any (fun d => decide (d.2.state ≠ 0) && decide (stationState s d.2.station = 4)) then s
  else
    let found := legGroups ((ds.filter (fun d => d.2.state ≠ 0)).map (fun d => (d.1, d.2.station, d.2.wing)))
    let groups := if found = [] then [(ownStation s, e.wing, [])] else found
    let top := (wb.legs.map (·.leg)).foldl max 0
    let news := (groups.zipIdx).map (fun g => ({ leg := if g.2 = 0 then e.leg else top + g.2, station := g.1.1, wing := g.1.2.1, bales := g.1.2.2,
                                                 attempt := if g.2 = 0 then e.attempt + 1 else 0, done := none } : LegEntry))
    let wb1 := { wb with legs := wb.legs.flatMap (fun l => if l.leg = e.leg then news else [l]) }
    news.foldl (fun s n => launchLeg wb1 n.leg n.attempt n.station n.wing n.bales s)
      { s with prog := { s.prog with waybills := Tbl.insert s.prog.waybills wb.handle wb1 } }

/-- The legs of this station's waybills that ran at stations now absent. -/
def rehomeLegs (s : State) : State :=
  s.prog.waybills.foldl (fun s w => w.2.legs.foldl (fun s e =>
    match Tbl.find s.prog.waybills w.1 with
    | some wb => (match wb.legs.find? (fun l => l.leg = e.leg) with | some e1 => rehomeLeg wb e1 s | none => s)
    | none => s) s) s

/-- The lead's placement is announced to every other Lit member; with none to wait for, it is answered (R183 steps 5 and 6). -/
def endPlacement (s : State) : State :=
  match s.plc.serving with
  | some o =>
    if o.acks = [] then
      let s1 := { s with plc := { s.plc with serving := none } }
      if o.asker = ownStation s then answerPlacement o.nsid o.bale o.owner s1
      else send o.asker .placeAnswer [o.nsid, o.bale, o.owner] [] [] s1
    else s
  | none => s

/-- The lead takes the next request (R183 steps 2 and 3). DESIGN CHOICE (log entry 94): with no station eligible even under R182, on which the
spec is silent, the request stays at the head of the queue and nothing behind it is served until one is. -/
def serveNext : Nat → State → State
  | 0, s => s
  | n + 1, s =>
    match s.plc.serving, s.plc.requests with
    | none, (asker, nsid, bale) :: rest =>
      let s1 := { s with plc := { s.plc with requests := rest } }
      (match baleOwner s1 nsid bale with
       | some o =>
         let s2 := { s1 with plc := { s1.plc with serving := some { asker := asker, nsid := nsid, bale := bale, owner := o, acks := [] } } }
         serveNext n (endPlacement s2)
       | none =>
         match chooseStation s1 nsid bale (litStations s1) with
         | none => s
         | some x =>
           let op : PlaceOp := { asker := asker, nsid := nsid, bale := bale, owner := x, acks := [x] }
           let s2 := { s1 with plc := { s1.plc with serving := some op } }
           if x = ownStation s then placeLocal nsid bale s2 else send x .order [ordPlace, nsid, bale] [] [] s2)
    | _, _ => s

/-- The chosen owner's BALE_DIR is durable: the lead announces the entry to the others (R183 step 5). -/
def placedAt (nsid bale wing : Nat) (s : State) : State :=
  match s.plc.serving with
  | some o =>
    if o.nsid = nsid ∧ o.bale = bale then
      let others := (otherLit s).filter (· ≠ o.owner)
      let s1 := others.foldl (fun s m => send m .dirEntry [nsid, bale, o.owner, wing, 2] [] [] s) s
      let s2 := if o.owner = ownStation s then s1
        else { s1 with med := { s1.med with dir := Tbl.put DirEntry.empty s1.med.dir (baleKey nsid bale) { station := o.owner, wing := wing, state := 2, blockIx := 0 } } }
      serveNext 4096 (endPlacement { s2 with plc := { s2.plc with serving := some { o with acks := others } } })
    else s
  | none => s

/-! Moves (R195 to R205). -/

/-- Reads for a move within the station (R198 step 2). -/
def pumpMove (m : Move) (s : State) : State :=
  (s.med.map.filter (fun e => e.1 / 4096 = baleKey m.nsid m.bale ∧ portWing (enPort e.2) = m.srcWing)).foldl (fun s e =>
    let g := keyGrain e.1
    if moving s g ∨ s.med.lost.contains e.1 then s else addRead g e.2 e.2 (.reloc m.dstWing .baleMove) s) s

/-- Replaces a move. -/
def setMove (m : Move) (s : State) : State :=
  { s with plc := { s.plc with moves := s.plc.moves.map (fun x => if x.nsid = m.nsid ∧ x.bale = m.bale then m else x) } }

/-- The move of a bale. -/
def findMove (s : State) (nsid bale : Nat) : Option Move := s.plc.moves.find? (fun m => m.nsid = nsid ∧ m.bale = bale)

/-- The bale has entries, or host grains on their way, in a wing. -/
def inWing (s : State) (nsid bale w : Nat) : Bool :=
  s.med.map.any (fun e => decide (e.1 / 4096 = baleKey nsid bale) && decide (portWing (enPort e.2) = w) && !s.med.lost.contains e.1) ||
    s.med.landed.any (fun x => decide (x.1.id.nsid = nsid ∧ x.1.id.bale = bale ∧ portWing (enPort x.2) = w)) ||
    s.med.units.any (fun u => decide (portWing u.port = w) && (u.items.flatMap slotGrains).any (fun g => decide (g.id.nsid = nsid ∧ g.id.bale = bale)))

/-- The grains of a bale that are mapped. -/
def baleGrains (s : State) (nsid bale : Nat) : List Nat := (s.med.map.filter (fun e => e.1 / 4096 = baleKey nsid bale)).map (fun e => e.1 % 4096)

/-- A grain of a move goes to the destination. A grain that nothing maps goes without content, one that cannot be read is marked as lost
(R200 step 4; log entry 44). -/
def sentGrain (nsid bale g : Nat) (img : GrainImg) (lost : Bool) (s : State) : State :=
  match findMove s nsid bale with
  | none => s
  | some m =>
    let m1 := { m with todo := m.todo.filter (· ≠ g), marked := m.marked.filter (· ≠ g), out := m.out + 1 }
    send m.dstStation .moveGrains [nsid, bale, b2n lost] [] [({ nsid := nsid, bale := bale, grain := g }, img)] (setMove m1 s)

/-- Reads the next grains of a cross-station move at its source (R200 step 4). -/
def pumpOut (m : Move) (s : State) : State :=
  m.todo.foldl (fun s g =>
    let k := mapKey m.nsid m.bale g
    let e := mapEntry s k
    if e = 0 ∨ s.med.lost.contains k then sentGrain m.nsid m.bale g (if e = 0 then GrainImg.zero else { GrainImg.zero with present := enPresent e }) (e ≠ 0) s
    else if s.med.reads.any (fun d => decide (d.grain = keyGrain k) && decide (d.why = .moveOut m.nsid m.bale)) then s
    else addRead (keyGrain k) e e (.moveOut m.nsid m.bale) s) s

/-- A leg has the bale still ahead of it; one that waits for its start has every bale ahead (R205; log entry 84). -/
def legHolds (s : State) (nsid bale : Nat) : Bool :=
  s.prog.legs.any (fun l => decide (l.nsid = nsid) && l.bales.contains bale && match l.state with
    | .waiting => true
    | .running => (wingChannels l.wing).any (fun ch =>
        (legAhead s l ch).any (fun p => decide (p.2.1 / 4096 % 2 ^ 32 = bale)) ||
          (getSiv s ch).reads.any (fun r => isLeg r.station r.handle r.leg l && decide (r.grain / 4096 = bale)))
    | .ended => false)

/-- Brings a move forward where nothing is left to wait for in its step. At its stall step it admits commands while a leg has the bale
ahead (R205). -/
def moveForward (s : State) (m : Move) : State :=
  if m.srcStation = m.dstStation then
    if m.step = 2 then
      let s1 := pumpMove m s
      if inWing s1 m.nsid m.bale m.srcWing then s1 else setMove { m with step := 3, stalled := !legHolds s1 m.nsid m.bale } s1
    else if m.step = 3 then
      if inWing s m.nsid m.bale m.srcWing then setMove { m with step := 2, stalled := false } s
      else setMove { m with stalled := !legHolds s m.nsid m.bale } s
    else s
  else if m.srcStation = ownStation s ∧ m.step = 4 then
    if m.todo = [] ∧ ¬ s.med.reads.any (fun d => decide (d.why = .moveOut m.nsid m.bale)) then
      if m.marked.length ≤ 256 ∨ 3 ≤ m.passes then setMove { m with step := 6, stalled := !legHolds s m.nsid m.bale } s
      else
        let m1 := { m with todo := m.marked, marked := [], passes := m.passes + 1 }
        pumpOut m1 (setMove m1 s)
    else pumpOut m s
  else if m.srcStation = ownStation s ∧ m.step = 6 then
    if m.drained then
      if legHolds s m.nsid m.bale then setMove { m with drained := false, stalled := false } s
      else if m.todo = [] ∧ m.out = 0 ∧ ¬ s.med.reads.any (fun d => decide (d.why = .moveOut m.nsid m.bale)) then
        send m.dstStation .order [ordMoveCommit, m.nsid, m.bale] [] [] (setMove { m with step := 7 } s)
      else pumpOut m s
    else setMove { m with stalled := !legHolds s m.nsid m.bale } s
  else s

/-- Parity grains to which every present piece has contributed go to the media (R639). -/
def pumpParity (s : State) : State :=
  let ready := fun (p : ParityGrain) => !p.placed && match Tbl.find s.rte.segPieces p.seg with
    | some l => l.all (fun x => decide (x.2 ≤ p.idx) || p.got.contains x.1)
    | none => false
  (s.rte.parity.filter ready).foldl (fun s p =>
    match chooseWing s 0 p.seg none with
    | none => s
    | some w =>
      let g : GrainItem := { id := { nsid := 0, bale := p.seg, grain := p.idx }, img := { p.sum with present := 15 }, why := .parity p.seg p.idx p.q }
      let mark := fun (x : ParityGrain) => if x.seg = p.seg ∧ x.idx = p.idx ∧ x.q = p.q then { x with placed := true } else x
      routeMove w g { s with rte := { s.rte with parity := s.rte.parity.map mark } }) s

/-- Every move goes forward; every relocation too, and what the code has to do. -/
def settleAll (s : State) : State :=
  let s1 := mediaSettle (pumpParity (drainSelf 4096 (recodeDone (drainSelf 4096 s))))
  s1.plc.moves.foldl moveForward s1

/-- This station is the source of a new move within the station (R198 step 1). -/
def startMove (nsid bale dst reason : Nat) (s : State) : State :=
  let d := dirEntry s nsid bale
  let m : Move := { nsid := nsid, bale := bale, srcStation := ownStation s, srcWing := d.wing, dstStation := ownStation s, dstWing := dst,
                    reason := reason, step := 1, todo := [], marked := [], passes := 0, start := s.td17, stalled := false, out := 0, drained := false, block := 0 }
  setDir nsid bale { d with state := 3 } (.placed nsid bale) { s with plc := { s.plc with moves := s.plc.moves ++ [m] } }

/-- A move within the station goes on from its step 2; the record of a Moving bale does not name the wing it goes to. DESIGN CHOICE (log entry
44): the destination is chosen anew, with the source excluded. While no wing can be chosen the bale stays Moving (R199). -/
def resumeMove (nsid bale : Nat) (s : State) : State :=
  let d := dirEntry s nsid bale
  if d.state ≠ 3 ∨ d.station ≠ ownStation s ∨ (findMove s nsid bale).isSome then s
  else match chooseWing s nsid bale (some d.wing) with
    | some w =>
      let m : Move := { nsid := nsid, bale := bale, srcStation := ownStation s, srcWing := d.wing, dstStation := ownStation s, dstWing := w, reason := 0,
                        step := 2, todo := [], marked := [], passes := 0, start := s.td17, stalled := false, out := 0, drained := false, block := 0 }
      { s with plc := { s.plc with moves := s.plc.moves ++ [m] } }
    | none => s

/-- The bales of this station that are Moving. -/
def movingBales (s : State) : List (Nat × DirEntry) := s.med.dir.filter (fun e => e.2.state = 3 ∧ e.2.station = ownStation s)

/-- Ends a move: its time and bytes are noted (R196, R225). -/
def endMove (m : Move) (s : State) : State :=
  { s with plc := { s.plc with moves := s.plc.moves.filter (fun x => ¬ (x.nsid = m.nsid ∧ x.bale = m.bale))
                               movedAt := Tbl.insert s.plc.movedAt (baleKey m.nsid m.bale) s.td17
                               movedBytes := satAdd max64 s.plc.movedBytes (16384 * (baleGrains s m.nsid m.bale).length) } }

/-- The map entries of a bale are dropped (R200 step 8, R209). -/
def dropMap (nsid bale : Nat) (s : State) : State :=
  { s with med := { s.med with map := s.med.map.filter (fun e => e.1 / 4096 ≠ baleKey nsid bale)
                               lost := s.med.lost.filter (fun k => k / 4096 ≠ baleKey nsid bale) } }

/-- Parts of a bale at this station go on to its new owner, those with bales of several owners cut anew (R200 step 8, R204). -/
def passParts (nsid bale owner : Nat) (s : State) : State :=
  let hit := fun (p : Part) => decide (p.state = .waiting ∧ p.nsid = nsid ∧ p.slba / 16384 ≤ bale ∧ bale ≤ (p.slba + p.nlb - 1) / 16384)
  let own := ownStation s
  let s1 := s.host.out.foldl (fun s c => (c.parts.filter hit).foldl (fun s p => match findCmd s c.cmd with
    | some c1 => recutPart c1 p (dropLock { station := own, cmd := c.cmd, index := p.index } s)
    | none => s) s) s
  admitForeign (s1.host.foreign.foldl (fun s f =>
    if hit f.part then passOn f owner (dropLock { station := f.station, cmd := f.cmd, index := f.part.index } s) else s) s1)

/-- The bale is Moving for every Lit member: its source streams its grains (R200 step 4). -/
def streamMove (nsid bale : Nat) (s : State) : State :=
  match findMove s nsid bale with
  | some m =>
    if m.srcStation = ownStation s ∧ m.dstStation ≠ ownStation s ∧ m.step = 3 then
      let m1 := { m with step := 4, todo := baleGrains s nsid bale }
      moveForward (setMove m1 s) m1
    else s
  | none => s

/-- Step 8 of R200 at the source, and what follows it. -/
def moveGone (m : Move) (s : State) : State :=
  tellDir m.nsid m.bale { station := m.dstStation, wing := m.dstWing, state := 2, blockIx := 0 }
    (passParts m.nsid m.bale m.dstStation (dropMap m.nsid m.bale (endMove m s)))

/-- A BALE_DIR record of a placement or a move is durable (R183 step 4, R198, R200). -/
def dirDurable (nsid bale : Nat) (s : State) : State :=
  match findMove s nsid bale with
  | none =>
    if ownsBale s nsid bale ∧ inCaravan s then
      let w := (dirEntry s nsid bale).wing
      if droverLead s = ownStation s then
        (if s.plc.rebuilding.any (fun b => decide (b.1 = nsid ∧ b.2.1 = bale)) then announceDir nsid bale (dirEntry s nsid bale) (rehomeLegs (rehome s)) else placedAt nsid bale w s)
      else send (droverLead s) .ack [ordPlace, nsid, bale, w] [] [] s
    else s
  | some m =>
    if m.srcStation = m.dstStation then
      if m.step = 1 then moveForward (setMove { m with step := 2 } s) { m with step := 2 }
      else if m.step = 4 then admitForeign (endMove m s)
      else s
    else if m.srcStation = ownStation s then
      if m.step = 2 then
        let s1 := tellDir nsid bale { (dirEntry s nsid bale) with state := 3 } (setMove { m with step := 3 } s)
        if droverLead s = ownStation s ∧ otherLit s = [] then streamMove nsid bale s1 else s1
      else if m.step = 8 then moveGone m s
      else s
    else if m.step = 7 then send m.srcStation .moveStage [nsid, bale, 2, m.dstWing] [] [] (endMove m s)
    else s

end Sys2Proof.Machine
end

