-- ==== Sys2Proof/Machine/MediaRows.lean ====
section
/-! DEFINITION. Programs, erases, reads, seals, the journal, relocations and the once-a-second work of the media (chapters 2 and 3). -/

namespace Sys2Proof.Machine

/-! Programs (R74, R140 to R147). -/

/-- The entry of item i of a unit. -/
def unitEntry (s : State) (u : ProgUnit) (i off len present : Nat) : Nat :=
  let slot := u.slot + i
  mkEntry u.port (slot % 4) (physOf s u.port (slot % 4) (u.block % 1024)) (slot / 4) u.oneBit off len present

/-- A grain was programmed at an entry: a relocation is journaled at once, every other grain waits for what it belongs to. -/
def landed1 (s : State) (x : GrainItem × Nat) : State :=
  match x.1.why with
  | .move old why =>
    jrn (portWing (enPort x.2)) (.mapMove x.1.id.nsid x.1.id.bale [(x.1.id.grain, old, x.2)]) (.moved why) s
  | _ => { s with med := { s.med with landed := s.med.landed ++ [x] } }

/-- The grains of a slot item with the entries they get. -/
def itemEntries (s : State) (u : ProgUnit) (i : Nat) : SlotItem → List (GrainItem × Nat)
  | .raw g => [(g, unitEntry s u i 0 0 g.img.present)]
  | .packed gs => gs.map (fun x => (x.1, unitEntry s u i x.2.1 x.2.2 x.1.img.present))
  | _ => []

/-- The page that item `i` of a unit makes. -/
def itemPage (s : State) (u : ProgUnit) (i : Nat) : SlotItem → PageBody
  | .raw g => .raw g.id g.img
  | .packed gs => .packed (packedItems s gs)
  | .ckpt segs => .ckpt segs
  | .parity => .parity (rowTerms s u.block (u.slot + i))
  | .pad => .pad

/-- Writes the pages of a unit that passed (R60, R61). -/
def writePages (u : ProgUnit) (s : State) : State :=
  (u.items.zipIdx).foldl (fun s x =>
    { s with med := { s.med with pages := Tbl.insert s.med.pages (slotKey s u.block (u.slot + x.2)) { body := itemPage s u x.2 x.1, band := (getBlk s u.block).band, stamp := s.td17 } } }) s

/-- Bytes of a page with its spare area. -/
def pageBytes : Nat := 18432

/-- Journals landed mirrors, moved-in grains and parity grains of which nothing is left to program (R190, R200, R577, R639). -/
def journalOthers (s : State) : State :=
  let pend := pendingItems s
  let whys := ((s.med.landed.filter (fun x => itemParts x.1 = [])).map (fun x => x.1.why)).dedup
  whys.foldl (fun s why =>
    if pend.any (fun g => decide (g.why = why)) then s
    else
      let mine := s.med.landed.filter (fun x => decide (x.1.why = why))
      let s1 := { s with med := { s.med with landed := s.med.landed.filter (fun x => decide (x.1.why ≠ why)) } }
      match why with
      | .parity seg idx q =>
        mine.foldl (fun s x => jrn (portWing (enPort x.2)) (.mapSet 0 seg [(idx, x.2)]) (.parityDone seg (2 * idx + b2n q)) s) s1
      | _ =>
        let act := match why with | .mirror st tag => JAct.mirrorAck st tag | .moveIn st => .moveIn st | _ => .nothing
        let keys := (mine.map (fun x => (x.1.id.nsid, x.1.id.bale, x.1.id.grain / 112))).dedup
        (keys.zipIdx).foldl (fun s k =>
          let l := mine.filter (fun x => (x.1.id.nsid, x.1.id.bale, x.1.id.grain / 112) = k.1)
          let each := match act with | .moveIn _ => true | _ => false
          let a := if each || decide (k.2 + 1 = keys.length) then act else .nothing
          jrn 8 (.mapSet k.1.1 k.1.2.1 (l.map (setItem s))) a s) s1) s

/-- A die port has returned ready: it has not failed to in a row, and a program or an erase that ended has no suspensions left
(R114, R147). -/
def portReady (p : Nat) (ended : Bool) (s : State) : State :=
  { s with med := { s.med with notReady := Tbl.put 0 s.med.notReady p 0
                               suspends := if ended then Tbl.put 0 s.med.suspends p 0 else s.med.suspends } }

/-- A unit's program passed. -/
def programPass (u : ProgUnit) (s0 : State) : State :=
  let s := portReady u.port true s0
  let n := u.items.length
  let s1 := { writePages u s with med := { (writePages u s).med with units := s.med.units.filter (fun x => x ≠ u) } }
  let s2 := healthAdd (if u.oneBit then 7 else 6) n (cntPort u.port 1 1 (cntPort u.port 0 (pageBytes * n) s1))
  ((u.items.zipIdx).flatMap (fun x => itemEntries s2 u x.2 x.1)).foldl landed1 s2

/-- A member of a stripe set drops out (R154). -/
def dropMember (bk : Nat) (s : State) : State :=
  let b := getBlk s bk
  if b.set = 0 then s
  else match Tbl.find s.med.sets (b.set - 1) with
    | none => s
    | some t => { s with med := { s.med with sets := Tbl.insert s.med.sets (b.set - 1) { t with dropped := if t.dropped.contains b.pos then t.dropped else t.dropped ++ [b.pos] } } }

/-! The map log's pages (R156). -/

/-- The lowest die port of a wing that is in service on a channel that fits, with a map-log block to write. -/
def mapLogPort (s : State) (w : Nat) (fits : Nat → Bool) : Option Nat :=
  ((List.range 128).map (fun i => 128 * w + i)).find? (fun p => fits (portChannel p) && portOk s p && (candBlk s p .mapLog).isSome)

/-- The two ports that take a checkpoint page of a wing: on an even and an odd channel, else on any two channels (R156). -/
def mapLogPair (s : State) (w : Nat) : Option (Nat × Nat) :=
  match (mapLogPort s w (fun c => decide (c % 2 = 0))).or (mapLogPort s w (fun _ => true)) with
  | none => none
  | some p => ((mapLogPort s w (fun c => decide (c % 2 = 1 ∧ c ≠ portChannel p))).or (mapLogPort s w (fun c => decide (c ≠ portChannel p)))).map (fun q => (p, q))

/-- Programs a checkpoint page in a port's map-log block. -/
def writeCopy (p : Nat) (segs : List SegCopy) (s : State) : State :=
  let s1 := match openBlk s p .mapLog with
    | some _ => s
    | none => (match freeBlk s p .mapLog with
      | some bk =>
        let u := openMember 0 0 .mapLog bk s
        setBlk bk { getBlk u bk with set := 0 } u
      | none => s)
  match openBlk s1 p .mapLog with
  | some bk => pushSlot bk (.ckpt segs) s1
  | none => s1

/-- The identity of a segment. -/
def segId (c : SegCopy) : Bool × Nat × Nat × Nat := (c.dir, c.nsid, c.bale, c.seg)

/-- Marks segments dirty. -/
def dirtyAgain (ids : List (Bool × Nat × Nat × Nat)) (s : State) : State :=
  { s with med := { s.med with dirty := s.med.dirty ++ ids.filter (fun d => !s.med.dirty.contains d) } }

/-- A checkpoint page of a failed map-log block is written again in another, on a channel of the same parity, so that it keeps apart from the
duplicate; with no such block left its segments are dirty again (R140, R156). -/
def rewriteCkpt (bk : Nat) (s : State) (segs : List SegCopy) : State :=
  let p := blkPort bk
  match mapLogPort s (portWing p) (fun c => decide (c % 2 = portChannel p % 2)) with
  | some q => writeCopy q segs s
  | none => dirtyAgain (segs.map segId) s

/-- The checkpoint pages programmed in a die block. -/
def blockCkpts (s : State) (bk : Nat) : List (List SegCopy) :=
  let p := blkPort bk
  let keys := (List.range 4).map (fun pl => (4 * p + pl) * 2 ^ 11 + physOf s p pl (bk % 1024))
  (s.med.pages.filter (fun e => keys.contains (e.1 / 2 ^ 12))).filterMap (fun e => match e.2.body with | .ckpt segs => some segs | _ => none)

/-! The ember reserve (R160, R161). -/

/-- The reserve block of a port. -/
def reserveBlk (s : State) (p : Nat) : Nat := blkKey p (reserveOf s p)

/-- The die port of a wing whose reserve block takes grain number `i` of the flush: the ports in service that have one, in turn. DESIGN CHOICE
(log entry 85): the spec does not say which. -/
def reservePort (s : State) (w i : Nat) : Option Nat :=
  let ps := (wingPorts s w).filter (fun p => (getBlk s (reserveBlk s p)).state = .free ∨ (getBlk s (reserveBlk s p)).state = .opened)
  if ps = [] then none else ps[i % ps.length]?

/-- Opens the reserve blocks of a port's group as one stripe set (R160, R161). -/
def openReserve (p : Nat) (s : State) : State :=
  if (getBlk s (reserveBlk s p)).state = .opened then s
  else
    let members := (List.range 32).map (fun j =>
      let q := groupPort (portGroup p) j
      if portOk s q ∧ (getBlk s (reserveBlk s q)).state = .free then some (reserveBlk s q) else none)
    let n := s.med.nextSet
    let s1 := { s with med := { s.med with nextSet := n + 1, sets := Tbl.insert s.med.sets n { role := .forecourt, members := members, dropped := [] } } }
    (members.zipIdx).foldl (fun s e => match e.1 with | some b => openMember n e.2 .forecourt b s | none => s) s1

/-- Programs a grain into the ember reserve of its wing. -/
def reservePut (w i : Nat) (g : GrainItem) (s : State) : State :=
  match reservePort s w i with
  | none => s
  | some p =>
    let s1 := openReserve p s
    let bk := reserveBlk s1 p
    if (getBlk s1 bk).state ≠ .opened then s1 else pushSlot bk (.raw g) (pushParity bk s1)

/-- Brings a block's next slot up to one: its parity slots and pads. -/
def padUpTo (bk n : Nat) (s : State) : State :=
  (List.range (n - (getBlk s bk).next)).foldl (fun s _ => pushSlot bk (if atParity (getBlk s bk) then .parity else .pad) s) s

/-- Brings the members of every reserve set in use to the same row, so that the parity of each row is programmed (R161 step 4). -/
def levelReserve (s : State) : State :=
  let used := s.med.blocks.filter (fun e => e.1 = reserveBlk s (blkPort e.1) ∧ e.2.state = .opened ∧ e.2.set ≠ 0)
  let sets := (used.map (·.2.set)).dedup
  sets.foldl (fun s n =>
    let ms := (liveMembers s (n - 1)).map (·.1)
    let top := (ms.map (fun m => (getBlk s m).next)).foldl max 0
    ms.foldl (fun s m => padUpTo m top s) s) s

/-- The items of a die block that are not programmed are placed again elsewhere; during a flush, what it saves waits for step 4 or goes to
another port's reserve (R140, R161). -/
def rerouteBlock (bk : Nat) (s : State) : State :=
  let units := s.med.units.filter (fun u => u.block = bk)
  let s1 := { s with med := { s.med with units := s.med.units.filter (fun u => u.block ≠ bk) } }
  let w := portWing (blkPort bk)
  let saved := (units.flatMap (fun u => u.items.flatMap slotGrains)).filter flushSaves
  match s.med.flush with
  | some f =>
    if f.step = 3 then saved.foldl (fun s g => cacheAdd g .room w s) s1
    else levelReserve (saved.zipIdx.foldl (fun s x => reservePut w x.2 x.1 s) s1)
  | none =>
    (units.flatMap (·.items)).foldl (fun s i => match i with
      | .raw g => placeGrain w g s
      | .packed gs => gs.foldl (fun s x => packGrain w x.1 x.2.2 s) s
      | .ckpt segs => rewriteCkpt bk s segs
      | _ => s) s1

/-- The mapped grains of a die block are to be relocated. -/
def relocateBlock (bk : Nat) (why : MoveWhy) (s : State) : State :=
  if pointsInto s bk then
    { s with med := { s.med with retireRelocs := Tbl.insert s.med.retireRelocs bk { source := bk, why := why, todo := [] } } }
  else s

/-- Relocates every grain in the rows where a member held parity, each within its own wing (R140, R155). -/
def relocateRows (bk : Nat) (s : State) : State :=
  let b := getBlk s bk
  match Tbl.find s.med.sets (b.set - 1) with
  | none => s
  | some t =>
    let blocks := t.members.filterMap id
    (s.med.map.filter (fun e => enPresent e.2 ≠ 0 ∧ blocks.contains (entryBlk s e.2) ∧ (4 * enPage e.2 + enPlane e.2) % 32 = b.pos)).foldl (fun s e =>
      let g := keyGrain e.1
      if moving s g ∨ s.med.lost.contains e.1 then s else addRead g e.2 e.2 (.reloc (portWing (enPort e.2)) .retire) s) s

/-- A used ember reserve is replaced by an erased block of the forecourt's part (R160). -/
def restoreReserve (s : State) (p : Nat) : State :=
  if (getBlk s (blkKey p (reserveOf s p))).state = .free then s
  else match freeBlk s p .forecourt with
    | some bk => { s with med := { s.med with reserve := Tbl.insert s.med.reserve p (bk % 1024) } }
    | none => s

/-- Retired blocks of a plane wait for more spares than it has left (R142, R144). -/
def sparesShort (s : State) (port plane : Nat) : Bool := decide (sparesLeft s port plane < sparesClaimed s port plane)

/-- Faulted die ports beyond the eight, or the two on a channel, that the module tolerates (R148). -/
def portsShort (s : State) : Bool :=
  decide (8 < s.med.faulted.length) || s.med.faulted.any (fun p => decide (2 < (s.med.faulted.filter (fun q => portChannel q = portChannel p)).length))

/-- Takes a die block out of use on a failure of a plane: Retired at once; with no spare left in the plane for it, beside the blocks that wait
for theirs, the module is extinguished (R140, R142, R144). -/
def retireBlock (bk : Nat) (plane : Nat) (s : State) : State :=
  let port := blkPort bk
  let b := getBlk s bk
  let s1 := blkState bk .retired (setBlk bk { b with failed := if b.failed.contains plane then b.failed else b.failed ++ [plane] } (dropMember bk s))
  let s2 := if s.med.flush.isSome then s1 else restoreReserve s1 port
  if sparesShort s2 port plane then extinguish 0x01 s2 else s2

/-- A unit's program failed in a plane (R140). -/
def programFail (u : ProgUnit) (plane : Nat) (s0 : State) : State :=
  let s := portReady u.port true s0
  let bk := u.block
  let b := getBlk s bk
  let page := u.slot / 4
  let s1 := healthAdd 10 1 (chFailAdd (portChannel u.port) 0 65535 s)
  let s2 := raise u.port (logOcc 0x1001 u.port (leBytes 1 plane ++ leBytes 2 (bk % 1024) ++ leBytes 1 b.role.code ++ leBytes 2 page) s1)
  let s3 := retireBlock bk plane s2
  let s4 := (blockCkpts s3 bk).foldl (rewriteCkpt bk) (rerouteBlock bk s3)
  let s5 := if b.set ≠ 0 ∧ u.items.any (fun i => match i with | .parity => true | _ => false) then relocateRows bk s4 else s4
  relocateBlock bk .retire s5

/-- Faults a die port: its blocks are Retired for good and its grains rebuilt; beyond eight ports, or two on a channel, the module is
extinguished (R147, R148). -/
def faultPort (p cause : Nat) (s : State) : State :=
  if s.med.faulted.contains p then s
  else
    let s0 := raise p (logOcc 0x1003 p (leBytes 1 cause) (healthAdd 14 1 { s with med := { s.med with faulted := s.med.faulted ++ [p] } }))
    let bks := (List.range (dieBlocks s)).map (blkKey p)
    let s1 := bks.foldl (fun s bk => blkState bk .retired (setBlk bk { getBlk s bk with erasing := false } (dropMember bk s))) s0
    let s2 := (bks.foldl (fun s bk => rerouteBlock bk s) s1)
    let s3 := bks.foldl (fun s bk => relocateBlock bk .rebuild s) s2
    if portsShort s3 then extinguish 0x01 s3 else s3

/-- What the flush does not hold back goes on after a program: journaling, and the next steps of relocations and moves. -/
def afterProgram (s : State) : State :=
  match s.med.flush with
  | some f => if f.step = 3 then journalLanded s else s
  | none => settleAll (retryRoom (journalOthers (journalLanded s)))

/-- The port may return a program status: in a flush only for programs that step 3 waits for, or that step 4 issued (R161). -/
def mayReturn (s : State) (p : Nat) : Bool :=
  match s.med.flush with
  | none => true
  | some f => if f.step = 3 then f.wait.contains p else decide (f.step = 4)

/-- The flush waits for the port's program no longer (R161 step 3). -/
def notWaiting (p : Nat) (s : State) : State :=
  match s.med.flush with
  | some f => { s with med := { s.med with flush := some { f with wait := f.wait.filter (· ≠ p) } } }
  | none => s

/-- PROGRAM_STATUS (R74, R140): the unit that the port programs. -/
def execProgramStatus (port : Fin 1024) (st : DieStatus) (s : State) : Host.Outcome State Fault Refusal :=
  .next (match nextUnit s port with
    | none => s
    | some u =>
      if s.mode.mode = .dark ∨ ¬ mayReturn s port then s
      else
        let s0 := notWaiting port s
        match st with
        | .pass => afterProgram (programPass u s0)
        | .fail plane => afterProgram (programFail u plane s0)
        | .fault => afterProgram (faultPort port 2 s0))

/-- DIE_NOT_READY_TIMEOUT (R147): the third in a row faults the die port. -/
def execDieNotReadyTimeout (port : Fin 1024) (s : State) : Host.Outcome State Fault Refusal :=
  let n := Tbl.get 0 s.med.notReady port + 1
  .next (if s.mode.mode = .dark ∨ s.med.faulted.contains port then s
    else
      let s1 := { s with med := { s.med with notReady := Tbl.put 0 s.med.notReady port n } }
      if 3 ≤ n then afterProgram (faultPort port 1 (notWaiting port s1)) else s1)

/-- ERASE_STATUS (R133, R140): the erase of a pending block ends. DEDUCED (log entry 92): R142 names the role in the record of a failure, and the
layout of 0x1002 in R806 has no field for it; the record follows R806. -/
def execEraseStatus (port : Fin 1024) (block : Fin 1024) (st : DieStatus) (s : State) : Host.Outcome State Fault Refusal :=
  let bk := blkKey port block
  let b := getBlk s bk
  let ch := portChannel port
  .next (if s.mode.mode = .dark ∨ ¬ b.erasing then s
    else match st with
      | .pass =>
        let s1 := wipePages bk (setBlk bk { b with erasing := false, erases := satAdd 65535 b.erases 1, set := 0, pos := 0, next := 0,
                                                   skipped := [], targets := [], heldBy := [] } (portReady port true s))
        let s2 := restoreReserve (blkState bk .free s1) port
        settleAll (retryRoom (healthAdd (if b.role = .qlc then 8 else 9) 1 (cntPort port 1 1 s2)))
      | .fail plane =>
        let s1 := setBlk bk { b with erasing := false } (portReady port true s)
        let s2 := healthAdd 11 1 (chFailAdd ch 1 65535 s1)
        let s3 := raise port (logOcc 0x1002 port (leBytes 1 plane.val ++ leBytes 2 block.val) s2)
        settleAll (retireBlock bk plane s3)
      | .fault => settleAll (faultPort port 2 (setBlk bk { b with erasing := false } s)))

/-! Seals (R119, R135). -/

/-- Every slot of an open block is programmed or skipped. -/
def blockFull (s : State) (bk : Nat) (b : DieBlock) : Bool :=
  decide (b.state = .opened) && decide (slotsOf b.role ≤ b.next) && !s.med.units.any (fun u => u.block = bk)

/-- DIE_BLOCK_SEAL (R119): the read-back of a full block. DESIGN CHOICE (log entry 85): the spec does not say which plane a failed read-back
retires nor how it is logged; it counts as a program failure of plane 0 in the block's last page. -/
def execDieBlockSeal (port : Fin 1024) (block : Fin 1024) (decoded : Bool) (s : State) : Host.Outcome State Fault Refusal :=
  let bk := blkKey port block
  let b := getBlk s bk
  .next (if s.mode.mode = .dark ∨ ¬ blockFull s bk b then s
    else if decoded then
      let s1 := setBlk bk { b with sealedAt := s.med.epoch + s.td17, sealOrder := s.med.sealCount + 1 } { s with med := { s.med with sealCount := s.med.sealCount + 1 } }
      settleAll (blkState bk .sealed (sealNote bk s1))
    else
      let s1 := raise port (logOcc 0x1001 port (leBytes 1 0 ++ leBytes 2 block.val ++ leBytes 1 b.role.code ++ leBytes 2 (slotsOf b.role / 4 - 1))
        (healthAdd 10 1 (chFailAdd (portChannel port) 0 65535 s)))
      let s2 := rerouteBlock bk (retireBlock bk 0 s1)
      settleAll (relocateBlock bk .retire ((blockCkpts s2 bk).foldl (rewriteCkpt bk) s2)))

/-! Reads (R109 to R114). -/

/-- Reads of a part that are still outstanding. -/
def partReads (s : State) (r : PartRef) : Bool := s.med.reads.any (fun d => decide (d.why = .host r))

/-- The part moves data: a read to the host, and a part of another station's Memory Copy to that station. -/
def partTransfers (s : State) (r : PartRef) : Bool :=
  match sqeOf s r with
  | some q => (decide (q.opc = 0x02) && decide (q.nsid ≤ 1024)) || (decide (1024 < q.nsid) && decide (r.station ≠ ownStation s))
  | none => false

/-- Every die read of a part has ended: a read's data goes to the host or to the receiving station, the other kinds are done
(R565, R633). -/
def partRead (r : PartRef) (s : State) : State :=
  if partReads s r then s
  else if partTransfers s r then
    if r.station = ownStation s then
      (match (partOf s r).bind (·.status) with
       | some st => releasePart r (some st) s
       | none => s)
    else match findForeign s r with
      | some f =>
        (match f.part.status with
         | some st => releasePart r (some st) s
         | none => send r.station .partData [r.index, r.cmd.fn, r.cmd.sq, r.cmd.cid] f.data [] s)
      | none => s
  else releasePart r none s

/-- Every mapped grain of the stripe row that an entry lies in; without a stripe set, of its page (R159). -/
def rowGrains (s : State) (e : Nat) : List (Nat × Nat) :=
  let bk := entryBlk s e
  let set := (getBlk s bk).set
  let members := match Tbl.find s.med.sets (set - 1) with
    | some t => if set = 0 then [] else (t.members.filterMap id).filter (fun m => (getBlk s m).set = set)
    | none => []
  s.med.map.filter (fun x => decide (x.2 ≠ 0) && decide (enPage x.2 = enPage e ∧ enPlane x.2 = enPlane e) &&
    (decide (entryBlk s x.2 = bk) || members.contains (entryBlk s x.2)))

/-- A slot cannot be rebuilt: every mapped grain of its row is unrecoverable, and reads of them return Unrecovered Read Error (R140, R159,
R170, R172). -/
def grainGone (d : DieRead) (s : State) : State :=
  let port := enPort d.entry
  let row := (rowGrains s d.entry).filter (fun x => !s.med.lost.contains x.1)
  if row = [] then s
  else
    let s1 := { s with med := { s.med with lost := s.med.lost ++ row.map (·.1) } }
    let s2 := row.foldl (fun s x => healthAdd 5 1 (chFailAdd (portChannel (enPort x.2)) 3 65535 s)) s1
    logOcc 0x1004 port (leBytes 2 (entryBlk s d.entry % 1024) ++ leBytes 4 row.length) s2

/-- Relocates a grain, with the content that its read gave, whose read needed step 3 or more, unless another relocation moves it (R80, R111). -/
def refreshGrain (d : DieRead) (img : GrainImg) (s : State) : State :=
  let k := idKey d.grain
  let e := mapEntry s k
  if e / 16 ≠ d.entry / 16 ∨ moving s d.grain then s
  else
    let g : GrainItem := { id := d.grain, img := { img with present := enPresent e }, why := .move e .refresh }
    let w := portWing (enPort e)
    if enLen e = 0 then routeMove w g s else packGrain w g (enLen e) s

/-- A read gave a grain's content, which goes to what the read was for. -/
def readGood (d : DieRead) (img : GrainImg) (s : State) : State :=
  match d.why with
  | .host r => partRead r s
  | .reloc w why =>
    let g : GrainItem := { id := d.grain, img := { img with present := enPresent d.old }, why := .move d.old why }
    if enLen d.old = 0 then routeMove w g s else packGrain w g (enLen d.old) s
  | .moveOut nsid bale =>
    if mapEntry s (idKey d.grain) / 16 = d.entry / 16 then
      sentGrain nsid bale d.grain.grain { img with present := enPresent (mapEntry s (idKey d.grain)) } false s
    else s
  | .rebuild st tag => send st .rebuildData [tag] [] [(d.grain, { img with present := enPresent d.entry })] s
  | .overlay => overlayRead d.grain s
  | .scan _ _ _ => s

/-- A write whose grain's other blocks cannot be read ends with Unrecovered Read Error and leaves the grain as it is; its parts settle once
what else they wrote is durable. DESIGN CHOICE (log entry 86): the spec does not say what becomes of such a write. -/
def overlayFail (id : GrainId) (s : State) : State :=
  match s.med.cache.find? (fun c => c.wait = .read ∧ c.item.id = id) with
  | none => s
  | some c =>
    let ps := itemParts c.item
    let s1 := { s with med := { s.med with cache := s.med.cache.filter (fun x => x ≠ c) } }
    ps.foldl (fun s r => settlePart r s) (ps.foldl (fun s r => updPart r (fun p => { p with status := some stUnrecovered }) s) s1)

/-- A read that no step recovered. -/
def readBad (d : DieRead) (s : State) : State :=
  match d.why with
  | .host r => partRead r (updPart r (fun p => { p with status := some stUnrecovered }) s)
  | .scan st handle leg =>
    { s with siv := s.siv.map (fun e => (e.1, { e.2 with reads := e.2.reads.map (fun x =>
        if x.station = st ∧ x.handle = handle ∧ x.leg = leg ∧ x.grain = 4096 * d.grain.bale + d.grain.grain then { x with content := none } else x) })) }
  | .moveOut nsid bale =>
    sentGrain nsid bale d.grain.grain { GrainImg.zero with present := enPresent d.entry } true s
  | .overlay => overlayFail d.grain s
  | _ => s

/-- Reads of the die that an outcome took: a retry step each, two more for the soft decision (R109). -/
def readsOf : ReadOutcome → Nat
  | .hard => 1
  | .retry n => 1 + min n 15
  | _ => 18

/-- A program or an erase that the die port runs, with the suspensions it may have: 8 and 16 (R114). -/
def suspendLimit (s : State) (p : Nat) : Option Nat :=
  if (nextUnit s p).isSome then some 8
  else if s.med.blocks.any (fun e => e.2.erasing && decide (blkPort e.1 = p)) then some 16
  else none

/-- A read waits: for the end of a program or erase that has been suspended as often as it may be, or, of a relocation below the priority of
host commands, for the host's reads of the port (R101, R114, R130). -/
def readWaits (s : State) (d : DieRead) : Bool :=
  let p := enPort d.entry
  let full := match suspendLimit s p with | some n => decide (n ≤ Tbl.get 0 s.med.suspends p) | none => false
  let low := match d.why with | .reloc w why => lowWhy s w why | _ => false
  full || (low && s.med.reads.any (fun x => decide (enPort x.entry = p) && match x.why with | .host _ => true | .overlay => true | _ => false))

/-- A grain as a read gives it can be unpacked: a packed grain has its item in the page, under the key of its namespace, of the length that
the namespace's grains have (R107, R236). -/
def unpacks (s : State) (d : DieRead) (c : Option TermBody) : Bool :=
  if enLen d.entry = 0 then true
  else match c with
    | some (.packed items) => items.any (fun i => decide (i.off = enOff d.entry ∧ i.id = d.grain ∧ i.bytes = inputBytes s d.grain.nsid ∧
        i.img.gen = nsGeneration s d.grain.nsid))
    | _ => false

/-- A version of one of this owner's sealed pieces that a read wants: segment, its place in the piece, its content (R636, R643). -/
def codeVersion (s : State) (d : DieRead) : Option (Nat × Nat × GrainImg) :=
  if ¬ inCaravan s then none
  else match d.why with
    | .rebuild _ _ => none
    | _ => s.rte.pieces.findSome? (fun p =>
        if p.sealed then ((p.versions.zipIdx).find? (fun v => v.1.1 = d.grain ∧ v.1.2.2 / 16 = d.entry / 16)).map (fun v => (p.seg - 1, v.2, v.1.2.1))
        else none)

/-- The other holders of the segment are asked for their grains of the row; the read goes on when they have answered (R112, R643). -/
def askCode (d : DieRead) (v : Nat × Nat × GrainImg) (s : State) : State :=
  sendAll .rebuildRead [v.1, v.2.1, d.id] []
    { s with med := { s.med with reads := s.med.reads.map (fun x => if x.id = d.id then { x with asked := true } else x) } }

/-- The step at which a read ends, by what the module knows of the slot. A faulted port gives nothing and goes to the rebuild (R157); a packed
grain that does not unpack goes on with step 4 (R236); a rebuild needs the other slots of the row (R159); a grain that is lost stays so
(R140). The code of a segment gives a grain that a sealed piece contributed, once the others were asked (R643). -/
def readStep (s : State) (d : DieRead) (outcome : ReadOutcome) : ReadOutcome :=
  let r := 4 * enPage d.entry + enPlane d.entry
  let built := rebuildSlot s (entryBlk s d.entry) r
  let rebuild := if built.isSome ∧ unpacks s d built then ReadOutcome.rebuilt else .failed
  let direct := fun (o : ReadOutcome) =>
    if portOk s (enPort d.entry) ∧ unpacks s d ((getPage s (entryPage d.entry)).bind (fun p => pageTerm p.body)) then o else rebuild
  if entryLost s (idKey d.grain) d.entry ∧ outcome ≠ .recovered then .failed
  else match outcome with
    | .rebuilt => rebuild
    | .recovered => if d.asked ∧ (codeVersion s d).isSome then .recovered else .failed
    | .failed => .failed
    | o => direct o

/-- A read of a port suspends the program or erase that it runs (R114). -/
def noteSuspend (p : Nat) (s : State) : State :=
  if (suspendLimit s p).isSome then { s with med := { s.med with suspends := Tbl.upd 0 s.med.suspends p (· + 1) } } else s

/-- FLASH_READ_DONE (R109): a die read ends at the step that decodes, or at none. -/
def execFlashReadDone (id : Nat) (outcome : ReadOutcome) (s : State) : Host.Outcome State Fault Refusal :=
  .next (match s.med.reads.find? (fun d => d.id = id) with
    | none => s
    | some d =>
      if s.mode.mode = .dark ∨ readWaits s d then s
      else
        let port := enPort d.entry
        let n := readsOf outcome
        let s0 := noteSuspend port { s with med := { s.med with reads := s.med.reads.filter (fun x => x.id ≠ id) } }
        let s1 := portReady port false (cntPort port 1 n (cntPort port 0 (pageBytes * n) s0))
        let deep := fun (s : State) => raise port s
        let img := imgAt s d.entry
        let code := codeVersion s d
        let built := termImg d.entry (rebuildSlot s (entryBlk s d.entry) (4 * enPage d.entry + enPlane d.entry))
        let s2 := match readStep s d outcome with
          | .hard => readGood d img s1
          | .retry _ => readGood d img s1
          | .soft => refreshGrain d img (readGood d img (deep s1))
          | .rebuilt => refreshGrain d built (readGood d built (healthAdd 4 1 (chFailAdd (portChannel port) 2 65535 (deep s1))))
          | .recovered => refreshGrain d ((code.map (·.2.2)).getD img) (readGood d ((code.map (·.2.2)).getD img) (deep s1))
          | .failed => if d.asked then readBad d (grainGone d (deep s1)) else match code with
            | some v => askCode d v s
            | none => readBad d (grainGone d (deep s1))
        settleAll s2)

/-! The ledger audit (R122, R123, R420, R517, R563, R702). -/

/-- A ledger that does not balance is recorded. -/
def auditFail (ledger index expected found : Nat) (s : State) : State :=
  raise 1076 (logOcc 0x1005 1076 (leBytes 1 ledger ++ leBytes 1 index ++ leBytes 4 expected ++ leBytes 4 found) s)

/-- Die blocks of a channel in a state, by the block table. -/
def tableCount (s : State) (ch code : Nat) : Nat :=
  let mine := s.med.blocks.filter (fun e => portChannel (blkPort e.1) = ch)
  if code = 0 then chTotal s - (mine.filter (fun e => e.2.state ≠ .free)).length
  else (mine.filter (fun e => e.2.state.code = code)).length

/-- The first mismatch of the die-block ledger: channel, expected, found. -/
def blockMismatch (s : State) : Option (Nat × Nat × Nat) :=
  (List.range 128).findSome? (fun ch =>
    let sum := ((List.range 5).map (ledgerOf s ch)).sum
    if sum ≠ chTotal s then some (ch, chTotal s, sum)
    else ((List.range 5).find? (fun c => ledgerOf s ch c ≠ tableCount s ch c)).map (fun c => (ch, tableCount s ch c, ledgerOf s ch c)))

/-- The mismatches of a dispatcher's ledgers, its task table and its post queue (R123, R420): ledger, expected, found. -/
def dispMismatch (s : State) (w : Nat) : List (Nat × Nat × Nat) :=
  let d := getWing s w
  let tasks := (wingTasks s w).length
  (if d.slotsFree + d.slotsLive ≠ 2048 then [(1, 2048, d.slotsFree + d.slotsLive)] else if d.slotsLive ≠ tasks then [(1, tasks, d.slotsLive)] else []) ++
  (if d.pqFree + d.pqUsed ≠ 64 then [(2, 64, d.pqFree + d.pqUsed)] else if d.pqUsed ≠ d.postQ.length then [(2, d.postQ.length, d.pqUsed)] else [])

/-- Audits one dispatcher; a mismatch faults the wing's compute part (R420). -/
def auditDisp (s : State) (w : Nat) : State :=
  let l := dispMismatch s w
  if l = [] then setWing w { getWing s w with auditPasses := satAdd 0xFFFFFF (getWing s w).auditPasses 1 } s
  else
    let s1 := raise (1048 + w) (l.foldl (fun s m => auditFail m.1 w m.2.1 m.2.2 s) s)
    wingFault w 5 (setWing w { getWing s1 w with auditFail := true } s1)

/-- The audit of every ledger (R122, R420, R517, R563, R702). -/
def auditAll (s : State) : State :=
  let s1 := match blockMismatch s with
    | some m => extinguish 0x06 (auditFail 0 m.1 m.2.1 m.2.2 s)
    | none => healthAdd 17 1 { s with med := { s.med with lastAudit := s.td17 } }
  let s2 := ((List.range 8).filter (fun w => !s.mode.wingFault.getLsbD w)).foldl auditDisp s1
  let pool := s.host.poolFree + s.host.poolAssigned
  let s3 := if pool ≠ 8192 then extinguish 0x06 (auditFail 3 0 8192 pool s2) else s2
  let held := s.host.lockFree + s.host.lockHeld
  let s4 := if held ≠ 4096 then extinguish 0x06 (auditFail 4 0 4096 held s3)
    else if s.host.lockHeld ≠ s.host.locks.length then extinguish 0x06 (auditFail 4 0 s.host.locks.length s.host.lockHeld s3) else s3
  let keys := s.sec.free + s.sec.loaded
  if keys ≠ 64 then extinguish 0x06 (auditFail 5 0 64 keys s4)
  else if s.sec.loaded ≠ s.sec.slots.length then extinguish 0x06 (auditFail 5 0 s.sec.slots.length s.sec.loaded s4) else s4

/-- An audit that is due runs once no BLOCK_STATE record is issued and not durable (R122). -/
def auditNow (s : State) : State :=
  if ¬ s.med.auditDue ∨ s.mode.mode = .dark ∨ s.mode.mode = .kindling ∨ s.med.journal.any (fun r => decide (s.med.durSeq < r.seq) && match r.body with
      | .blockState _ _ _ _ _ _ => true | _ => false) then s
  else auditAll { s with med := { s.med with auditDue := false } }

/-! The journal (R72 to R75, R84, R86). -/

/-- Completes a host Retire whose PLANE_REMAP is durable (R145, R542). -/
def retireDurable (bk plane : Nat) (s : State) : State :=
  match s.med.retires.find? (fun r => r.block = bk ∧ r.plane = plane ∧ r.stage = 2) with
  | none => s
  | some r =>
    completeCmd r.cmd stOk (sparesLeft s (blkPort bk) plane) 0 [] { s with med := { s.med with retires := s.med.retires.filter (fun x => x ≠ r) } }

/-- The host Retires of a die block whose grains have left retire the block and remap the plane blocks they name (R145). -/
def retireBlockNow (s : State) (bk : Nat) : State :=
  let mine := s.med.retires.filter (fun r => r.block = bk ∧ r.stage = 1)
  let b := getBlk s bk
  if mine = [] ∨ pointsInto s bk ∨ s.med.units.any (fun u => u.block = bk) ∨ blockRead s bk ∨ b.erasing then s
  else
    let planes := (b.failed ++ mine.map (·.plane)).dedup
    let s1 := restoreReserve (blkState bk .retired (setBlk bk { b with failed := planes } s)) (blkPort bk)
    let s2 := { s1 with med := { s1.med with retires := s1.med.retires.map (fun x => if x.block = bk then { x with stage := 2 } else x) } }
    if sparesThere s2 bk planes then remapBlock (mine.map (·.plane)) bk s2 else s2

/-- Every host Retire that may go on does so (R145). -/
def retireForward (s : State) : State := ((s.med.retires.map (·.block)).dedup).foldl retireBlockNow s

/-- A parity grain's record is durable: its holder has it journaled (R639, R640). -/
def parityDurable (seg code entry : Nat) (s : State) : State :=
  let s1 := { s with rte := { s.rte with parity := s.rte.parity.map (fun p =>
    if p.seg = seg ∧ 2 * p.idx + b2n p.q = code then { p with programmed := true, entry := entry } else p) } }
  send (droverLead s) .segSealed [seg, code] [] [] s1

/-- What waited on a record proceeds. -/
def recordAct (r : JRec) (s : State) : State :=
  match r.act with
  | .nothing => s
  | .parts l =>
    let n := match r.body with | .mapSet _ _ items => items.length | _ => 0
    let s1 := l.foldl (fun s p => commitCmd p (updPart p (fun x => { x with records := x.records - 1 }) s)) (healthAdd 0 n s)
    l.foldl (fun s p => settlePart p s) s1
  | .mirrorAck st tag => send st .mirrorAck [tag] [] [] s
  | .moveIn st =>
    (match r.body with
     | .mapSet n b items => if st = ownStation s then s else send st .moveStage [n, b, 1, items.length] [] [] s
     | .mapTrim n b _ c => if st = ownStation s then s else send st .moveStage [n, b, 1, c / 4] [] [] s
     | _ => s)
  | .moved _ => s
  | .remapped _ => s
  | .placed n b => dirDurable n b s
  | .parityDone seg code =>
    (match r.body with
     | .mapSet _ _ items => parityDurable seg code ((items.map (·.2)).headD 0) s
     | _ => s)

/-- What a record's kind sets off. -/
def recordKind (r : JRec) (s : State) : State :=
  match r.body with
  | .planeRemap p pl b _ => retireDurable (blkKey p b) pl s
  | .ckptBegin n => if n = s.med.ckptNum ∧ s.med.ckptStep = 1 then { s with med := { s.med with ckptStep := 2 } } else s
  | .ckptMark n _ => if n = s.med.ckptNum ∧ s.med.ckptStep = 3 then { s with med := { s.med with ckptStep := 4 } } else s
  | _ => s

/-- JOURNAL_RECORD_DURABLE (R73): the next record and all before it are durable. -/
def execJournalRecordDurable (s : State) : Host.Outcome State Fault Refusal :=
  .next (match s.med.journal.find? (fun r => s.med.durSeq < r.seq) with
    | none => s
    | some r =>
      if s.mode.mode = .dark then s
      else
        let s1 := applyBody r { s with med := { s.med with durSeq := r.seq } }
        let s2 := auditNow (retireForward (recordKind r (recordAct r s1)))
        if s2.med.flush.isSome then s2 else settleAll (retryRoom s2))

/-! Checkpoints (R83 to R88). -/

/-- The current content of a segment, captured from durable records: 512 map entries of a bale, or the directory entries of 192 bales of a
namespace (R83). -/
def captureSeg (s : State) (d : Bool × Nat × Nat × Nat) : SegCopy :=
  let e := if d.1 then
      (s.med.dirDur.filter (fun e => e.1 / 2 ^ 32 = d.2.1 ∧ e.1 % 2 ^ 32 / 192 = d.2.2.2)).map (fun e => (e.1 % 2 ^ 32, dirWord d.2.1 (e.1 % 2 ^ 32) e.2))
    else (s.med.map.filter (fun e => e.1 / 4096 = baleKey d.2.1 d.2.2.1 ∧ e.1 % 4096 / 512 = d.2.2.2)).map (fun e => (e.1 % 4096, e.2))
  { dir := d.1, nsid := d.2.1, bale := d.2.2.1, seg := d.2.2.2, cap := s.med.durSeq, entries := e }

/-- The wing whose map log takes a segment: the bale's, and for the directory, which all wings share, the wings in turn. -/
def segWing (s : State) (d : Bool × Nat × Nat × Nat) : Nat := if d.1 then d.2.2.2 % 8 else (dirEntry s d.2.1 d.2.2.1).wing

/-- The oldest sealed map-log die block of the module. -/
def oldestMapLog (s : State) : Option Nat :=
  ((s.med.blocks.filter (fun e => e.2.role = .mapLog ∧ e.2.state = .sealed)).foldl (fun (a : Option (Nat × Nat)) e =>
    match a with
    | some x => if e.2.sealOrder < x.1 then some (e.2.sealOrder, e.1) else a
    | none => some (e.2.sealOrder, e.1)) none).map (·.2)

/-- The segments that a die block's checkpoint pages hold. -/
def blockSegs (s : State) (bk : Nat) : List (Bool × Nat × Nat × Nat) := ((blockCkpts s bk).flatMap (·.map segId)).dedup

/-- Groups of five. -/
def fives {α : Type} : Nat → List α → List (List α)
  | 0, _ => []
  | n + 1, l => if l.isEmpty then [] else l.take 5 :: fives n (l.drop 5)

/-- Writes one checkpoint page of a wing on two channels; while the wing has no two blocks for it, its segments stay to be written (R84,
R156). -/
def writeSegs (w : Nat) (segs : List SegCopy) (s : State) : State :=
  match mapLogPair s w with
  | some (p, q) => writeCopy q segs (writeCopy p segs s)
  | none => { s with med := { s.med with ckptTodo := s.med.ckptTodo ++ segs.map segId } }

/-- Step 2 begins: every dirty segment, and the segments of the oldest map-log block, which is chosen for release (R84). -/
def ckptChoose (s : State) : State :=
  let gone := (oldestMapLog s).toList
  { s with med := { s.med with dirty := [], ckptTodo := (s.med.dirty ++ gone.flatMap (blockSegs s)).dedup, ckptGone := gone } }

/-- Writes what step 2 has to write; `ckptStep` is 5 once nothing of it is left, 6 until then. -/
def ckptWrite (s : State) : State :=
  let all := s.med.ckptTodo
  let s1 := { s with med := { s.med with ckptTodo := [] } }
  let s2 := (List.range 8).foldl (fun s w =>
    let mine := (all.filter (fun d => segWing s1 d = w)).map (captureSeg s1)
    (fives (mine.length + 1) mine).foldl (fun s l => writeSegs w l s) s) s1
  { s2 with med := { s2.med with ckptStep := if s2.med.ckptTodo = [] then 5 else 6 } }

/-- A checkpoint page is still to be programmed. -/
def ckptPending (s : State) : Bool :=
  s.med.units.any (fun u => u.items.any (fun i => match i with | .ckpt _ => true | _ => false))

/-- Step 4: the replay start advances, journal space is freed, the released map-log blocks go to pending-erase; the stall ends, and a
journal still at 128 MiB begins the next checkpoint (R84, R86). -/
def ckptFree (s : State) : State :=
  let start := s.med.ckptBegin
  let s1 := { s with med := { s.med with ckptSeq := start, journal := s.med.journal.filter (fun r => start ≤ r.seq), ckptStep := 0, ckptGone := [] } }
  let s2 := (s.med.ckptGone.filter (fun bk => (getBlk s bk).state = .sealed)).foldl (fun s bk => blkState bk .pending s) s1
  let live := liveBytes s2
  let s3 := if live < 2 ^ 28 then { s2 with med := { s2.med with jrnStall := false } } else s2
  if 2 ^ 27 ≤ live then
    let s4 := jrn 8 (.ckptBegin (s3.med.ckptNum + 1)) .nothing { s3 with med := { s3.med with ckptStep := 1, ckptNum := s3.med.ckptNum + 1 } }
    { s4 with med := { s4.med with ckptBegin := s4.med.seq } }
  else s3

/-- CHECKPOINT_STEP_DONE (R84): step 2 writes its pages, and ends when all have passed; step 3 is CKPT_MARK; step 4 frees. -/
def execCheckpointStepDone (s : State) : Host.Outcome State Fault Refusal :=
  .next (if s.mode.mode = .dark ∨ s.med.flush.isSome then s
    else match s.med.ckptStep with
      | 2 => ckptWrite (ckptChoose s)
      | 6 => ckptWrite s
      | 5 =>
        if ckptPending s then s
        else jrn 8 (.ckptMark s.med.ckptNum s.med.ckptBegin) .nothing { s with med := { s.med with ckptStep := 3 } }
      | 4 => settleAll (ckptFree s)
      | _ => s)

/-! Timeouts of units and pages (R90, R106, R153). -/

/-- Fills the gather unit of a block with pads, parity where it stands next. -/
def fillUnit (bk : Nat) : Nat → State → State
  | 0, s => s
  | n + 1, s =>
    let b := getBlk s bk
    if b.next % 16 = 0 then s
    else fillUnit bk n (if atParity b then pushSlot bk .parity s else pushSlot bk .pad s)

/-- GATHER_UNIT_TIMEOUT (R90): the port's incomplete QLC unit is filled and issued. -/
def execGatherUnitTimeout (port : Fin 1024) (s : State) : Host.Outcome State Fault Refusal :=
  .next (match s.med.units.find? (fun u => u.port = port.val ∧ ¬ u.issued) with
    | none => s
    | some u => if s.mode.mode = .dark ∨ s.med.flush.isSome then s else fillUnit u.block 16 s)

/-- Another member of the block's stripe set is ahead of it. -/
def setAhead (s : State) (b : DieBlock) : Bool :=
  (liveMembers s (b.set - 1)).any (fun m => decide (b.next < (getBlk s m.1).next))

/-- STRIPE_PAD_TIMEOUT (R153): an open member that lags its set pads its next slot. -/
def execStripePadTimeout (port : Fin 1024) (block : Fin 1024) (s : State) : Host.Outcome State Fault Refusal :=
  let bk := blkKey port block
  let b := getBlk s bk
  .next (if s.mode.mode ≠ .dark ∧ s.med.flush.isNone ∧ b.set ≠ 0 ∧ b.state = .opened ∧ setAhead s b ∧ b.next < slotsOf b.role then
      pushParity bk (pushSlot bk .pad (pushParity bk s))
    else s)

/-- PACKED_PAGE_TIMEOUT (R106). -/
def execPackedPageTimeout (wing : Fin 8) (s : State) : Host.Outcome State Fault Refusal :=
  .next (if s.mode.mode = .dark ∨ s.med.flush.isSome then s else closePacked wing s)

/-- The compressor that a packed grain is at: one whose compute part has since gone out of service has handed it on (R486). -/
def frameWing (s : State) (c : CacheGrain) : Nat := if s.mode.wingOut.getLsbD c.cmp then cmpFor s c.wing else c.cmp

/-- PACKED_GRAIN_FRAME (R105, R482 to R484, R487): the compressor answers for a packed grain in the cache. A frame above the limit of its
THRESH_PCT is Not Smaller. -/
def execPackedGrainFrame (nsid bale grain : Nat) (outcome : PackOutcome) (s : State) : Host.Outcome State Fault Refusal :=
  .next (match s.med.cache.find? (fun c => c.wait = .frame ∧ c.item.id = { nsid := nsid, bale := bale, grain := grain }) with
    | none => s
    | some c =>
      if s.mode.mode = .dark ∨ s.med.flush.isSome then s
      else
        let s0 := { s with med := { s.med with cache := s.med.cache.filter (fun x => x ≠ c) } }
        let v := frameWing s c
        let input := inputBytes s nsid
        let cw := fun (f : CmpWing → CmpWing) (s : State) => setCmp v (f (getCmp s v)) s
        let raw := fun (s : State) => placeGrain c.wing c.item (cw (fun x => { x with raw := satAdd (2 ^ 32 - 1) x.raw 1 }) (cmpCount v input 0 s))
        match outcome with
        | .frame n =>
          if (n + 1023) / 1024 ≤ 15 ∧ 0 < n ∧ ¬ notSmaller n input (getCmp s v).threshPct then
            packGrain c.wing c.item ((n + 1023) / 1024) (cw (fun x => { x with packed := satAdd (2 ^ 32 - 1) x.packed 1 }) (cmpCount v input n s0))
          else raw s0
        | .notSmaller => raw s0
        | .verifyFail => raw (verifyFailed v 0 s0))

/-! Folds and reclaim (R96 to R101, R124 to R132). -/

/-- The wing's oldest sealed forecourt block that is not chosen yet. -/
def foldSource (s : State) (w : Nat) : Option Nat :=
  ((s.med.blocks.filter (fun e => portWing (blkPort e.1) = w ∧ e.2.role = .forecourt ∧ e.2.state = .sealed ∧ ¬ s.med.sources.contains e.1)).foldl
    (fun (a : Option (Nat × Nat)) e => match a with
      | some x => if e.2.sealOrder < x.1 then some (e.2.sealOrder, e.1) else a
      | none => some (e.2.sealOrder, e.1)) none).map (·.2)

/-- A source is chosen. -/
def takeSource (bk : Nat) (s : State) : State := { s with med := { s.med with sources := s.med.sources ++ [bk] } }

/-- FOLD_START (R96, R101); `idle`: below the fold start, because the wing had no host write for 1 s. -/
def execFoldStart (wing : Fin 8) (idle : Bool) (s : State) : Host.Outcome State Fault Refusal :=
  .next (if s.mode.mode ≠ .lit ∨ s.med.flush.isSome ∨ (Tbl.find s.med.folds wing).isSome ∨ ¬ (s.med.foldStart ≤ occPct s ∨ (idle ∧ foldRuns s wing)) then s
    else match foldSource s wing with
      | none => s
      | some bk =>
        let s1 := takeSource bk s
        settleAll { s1 with med := { s1.med with folds := Tbl.insert s1.med.folds wing { source := bk, why := .fold, todo := [] } } })

/-- Valid bytes of a die block (R126, R641). -/
def validBytes (s : State) (bk : Nat) : Nat :=
  let es := ((s.med.map.map (·.2)) ++ (heldEntries s).map (·.2)).filter (fun e =>
    decide (e ≠ 0) && decide (entryBlk s e = bk))
  (((es.map (fun e => e / 16)).dedup).map (fun e => if e % 16 = 0 then 16384 else 1024 * (e % 16))).sum

/-- score(b) × 65,536 (R126, R127). The data capacity is that of the 15,872 slots that are not parity. DESIGN CHOICE (log entry 87): the spec
states no rounding to the 16 fractional bits; each fraction is cut off on its own. Age runs over power cycles and leaves out time without
power. -/
def reclaimScore (s : State) (bk : Nat) (b : DieBlock) : Int :=
  let v : Int := validBytes s bk * 65536 / (15872 * 16384)
  let aref := s.med.rclAref * 86400000000000
  let age : Int := min 65536 ((s.med.epoch + s.td17 - b.sealedAt) * 65536 / aref)
  let e : Int := b.erases * 65536 / 2000
  s.med.rclWv * (65536 - v) + s.med.rclWa * age + s.med.rclWw * (65536 - e)

/-- Every valid grain left in the block is unrecoverable, and there is one; held versions are valid (R129, R641). -/
def allLost (s : State) (bk : Nat) : Bool :=
  let l := (s.med.map ++ (heldEntries s).map (fun x => (idKey x.1, x.2))).filter (fun e => decide (e.2 ≠ 0) && decide (entryBlk s e.2 = bk))
  decide (l ≠ []) && l.all (fun e => entryLost s e.1 e.2)

/-- The reclaim source of a wing: highest score, then lowest block address (R127, R128). -/
def reclaimSource (s : State) (w : Nat) : Option Nat :=
  (((qlcBlocks s w).filter (fun e => e.2.role = .qlc ∧ e.2.state = .sealed ∧ ¬ s.med.sources.contains e.1 ∧ ¬ allLost s e.1)).foldl
    (fun (a : Option (Int × Nat)) e =>
      let sc := reclaimScore s e.1 e.2
      match a with
      | some x => if x.1 < sc then some (sc, e.1) else a
      | none => some (sc, e.1)) none).map (·.2)

/-- RECLAIM_START (R124, R130). -/
def execReclaimStart (wing : Fin 8) (s : State) : Host.Outcome State Fault Refusal :=
  .next (if s.mode.mode ≠ .lit ∨ s.med.flush.isSome ∨ (Tbl.find s.med.reclaims wing).isSome ∨ ¬ belowLevel s wing s.med.rclStart then s
    else match reclaimSource s wing with
      | none => s
      | some bk =>
        let s1 := takeSource bk s
        settleAll { s1 with med := { s1.med with reclaims := Tbl.insert s1.med.reclaims wing { source := bk, why := .reclaim, todo := [] } } })

/-- The forecourt's blocks in compatibility mode: 2 % of the free die blocks, at least 7,451 (R92). -/
def compatBlocks (s : State) : Nat :=
  max 7451 ((1024 * dieBlocks s - (s.med.blocks.filter (fun x => x.2.state ≠ .free)).length + 49) / 50)

/-- The die block serves, or served last, as a map-log block and is no data block now. -/
def isMapLog (b : DieBlock) : Bool := decide (b.role = .mapLog ∧ b.state ≠ .free)

/-- The average erase count of R95, rounded down: over the forecourt die blocks in native mode, over all data die blocks in compatibility
mode. -/
def avgErases (s : State) : Nat :=
  if s.med.compat then
    ((s.med.blocks.filter (fun x => !isMapLog x.2)).map (·.2.erases)).sum / (1024 * dieBlocks s - (s.med.blocks.filter (fun x => isMapLog x.2)).length)
  else ((s.med.blocks.filter (fun x => decide (x.1 % 1024 < nativeFc s))).map (·.2.erases)).sum / (1024 * nativeFc s)

/-- FORECOURT_RECOMPUTE (R94, R95). DESIGN CHOICE (log entry 87): the spec states no rounding; the average and e · min(1, op_seconds / life)
are each rounded down. -/
def execForecourtRecompute (s : State) : Host.Outcome State Fault Refusal :=
  let life := 157788000
  let compat := s.med.compat
  let e := if compat then 2000 else 50000
  let g := if compat then 100 else 2000
  let avg := avgErases s
  let allow := e * min s.cnt.opSeconds life / life + g - avg
  .next (if s.mode.mode = .dark then s
    else { s with med := { s.med with avgErase := min 65535 avg, allowance := min 65535 allow
                                      fcBlocks := if compat then compatBlocks s else s.med.fcBlocks } })

/-! The audit's row. -/

/-- LEDGER_AUDIT (R122): once a second; it waits until every BLOCK_STATE record issued is durable. -/
def execLedgerAudit (s : State) : Host.Outcome State Fault Refusal :=
  .next (if s.mode.mode = .dark ∨ s.mode.mode = .kindling then s else auditNow { s with med := { s.med with auditDue := true } })

/-! Register rows of the media. -/

/-- MED_FC_CTRL: a field outside its range keeps both (R117). -/
def fcCtrlWrite (v : Nat) (s : State) : State :=
  let fs := bitsOf v 23 16
  let hw := bitsOf v 15 8
  if 50 < fs ∨ hw < 50 ∨ 98 < hw then s else { s with med := { s.med with foldStart := fs, highWater := hw } }

/-- MSC_RCL_WEIGHT (R132, R171). -/
def rclWeightWrite (v : Nat) (s : State) : State :=
  let aref := bitsOf v 47 32
  if aref < 1 ∨ 3650 < aref then s
  else { s with med := { s.med with rclAref := aref, rclWw := bitsOf v 23 16, rclWa := bitsOf v 15 8, rclWv := bitsOf v 7 0 } }

/-- MSC_RCL_CTRL (R132, R171). -/
def rclCtrlWrite (v : Nat) (s : State) : State :=
  let urgent := bitsOf v 15 8
  let start := bitsOf v 7 0
  if start < 2 ∨ 64 < start ∨ urgent < 1 ∨ start ≤ urgent then s else { s with med := { s.med with rclUrgent := urgent, rclStart := start } }

/-- MSC_PLC_CTRL (R227). -/
def plcCtrlWrite (v : Nat) (s : State) : State :=
  let act := bitsOf v 31 24
  let dwell := bitsOf v 23 16
  let skew := bitsOf v 15 8
  if act < 1 ∨ 16 < act ∨ dwell < 1 ∨ skew < 5 ∨ 100 < skew then s
  else { s with plc := { s.plc with maxActive := act, dwellMin := dwell, skewPct := skew, migrEn := bitOf v 0 } }

/-- MSC_PLC_WEIGHT (R227). -/
def plcWeightWrite (v : Nat) (s : State) : State :=
  { s with plc := { s.plc with wp := bitsOf v 47 40, wn := bitsOf v 39 32, wo := bitsOf v 31 24, wh := bitsOf v 23 16, ww := bitsOf v 15 8, wl := v % 256 } }

/-- MED_FC_CTRL_WRITE. -/
def execMedFcCtrlWrite (value : Word) (s : State) : Host.Outcome State Fault Refusal := .next (if pfWrites s then fcCtrlWrite value.toNat s else s)

/-- MSC_RCL_WEIGHT_WRITE. -/
def execMscRclWeightWrite (value : Word) (s : State) : Host.Outcome State Fault Refusal := .next (if pfWrites s then rclWeightWrite value.toNat s else s)

/-- MSC_RCL_CTRL_WRITE. -/
def execMscRclCtrlWrite (value : Word) (s : State) : Host.Outcome State Fault Refusal := .next (if pfWrites s then rclCtrlWrite value.toNat s else s)

/-- MSC_PLC_CTRL_WRITE. -/
def execMscPlcCtrlWrite (value : Word) (s : State) : Host.Outcome State Fault Refusal := .next (if pfWrites s then plcCtrlWrite value.toNat s else s)

end Sys2Proof.Machine
end

