-- ==== Sys2Proof/Machine/Power.lean ====
section
/-! DEFINITION. Sensors, the supply, the hold-up store, pace and alarms (chapters 16 and 19). -/

namespace Sys2Proof.Machine

/-! Sensors (R823 to R830). -/

/-- Replaces a sensor. -/
def setSensor (n : Nat) (x : Sensor) (s : State) : State :=
  { s with pwr := { s.pwr with sensors := Tbl.put Sensor.fresh s.pwr.sensors n x } }

/-- Lower edges of the bands B1 to B4, 0.1 °C (R827). -/
def bandEdges : List Int := [0, 450, 700, 850]

/-- The band after a reading: up at the lower edge, down at 2 °C below it (R827). -/
def bandNext (b : Nat) (t : Int) : Nat :=
  let up := (bandEdges.filter (fun e => e ≤ t)).length
  let down := (bandEdges.filter (fun e => e ≤ t + 20)).length
  if b < up then up else if down < b then down else b

/-- The span of a sensor's readings of the last 60 s is 3 °C or more. -/
def hasMoved (x : Sensor) : Bool := x.hist.any (fun a => x.hist.any (fun b => decide (30 ≤ a.2 - b.2)))

/-- The cause for which a reading breaks a sensor, 0 for none (R825). -/
def brokenCause (s : State) (n : Nat) (t : Int) (selfTest : Bool) : Nat :=
  let x := getSensor s n
  if t < -550 ∨ 1500 < t then 1
  else if x.seen ∧ x.temp = t ∧ x.changed + 60000000000 ≤ s.td17 ∧
      (List.range 94).any (fun m => decide (m ≠ n) && decide (sensorRegion m = sensorRegion n) && hasMoved (getSensor s m)) then 2
  else if !selfTest then 3 else 0

/-- A vote is cast: its record, and the thermal shutdown at the region's second (R829, R830). -/
def castVote (n : Nat) (t : Int) (s : State) : State :=
  let v := BitVec.ofInt 16 t
  let s1 := { s with pwr := { s.pwr with voteSeen := true, voteSensor := n, voteTemp := t, voteSeconds := s.cnt.opSeconds % 2 ^ 32 } }
  let s2 := raise 1077 (logOcc 0x4001 1077 (leBytes 1 n ++ [0] ++ leBytes 2 v.toNat) s1)
  if regionVotes s2 (sensorRegion n) = 2 then extinguishBy 0x04 4 s2 else s2

/-- VCORE steps down to a lowered ceiling at once (R837). -/
def clampVcore (s : State) : State :=
  (List.range 8).foldl (fun s w =>
    let p := wingPwr s w
    if ceilingOf s w < p.vcore then setWingPwr w { p with vcore := ceilingOf s w } s else s) s

/-- Highest reading of some sensors, 0.1 °C. -/
def hottest (s : State) (ns : List Nat) : Int := (ns.map (fun n => (getSensor s n).temp)).foldl max (-2730)

/-- The temperature that SMART / Health sensor i reports, kelvin; 0 the composite (R535). -/
def smartTemp (s : State) (i : Nat) : Nat :=
  let k := fun (ns : List Nat) => (hottest s ns / 10 + 273).toNat
  let run := fun (a n : Nat) => (List.range n).map (fun j => a + j)
  if i = 0 ∨ i = 2 then k (run 16 64) else if i = 1 then k (run 0 16) else if i = 3 then k (run 80 8)
  else if i = 4 then k [88, 89] else if i = 5 then k [90, 91] else if i = 6 then k [92, 93] else 0

/-- A threshold of feature 0x04 of a controller: over (0) or under (1) of a sensor; the over threshold of the composite begins at
WCTEMP (R521, R531; log entry 22). -/
def tempThreshold (s : State) (fn sensor under : Nat) : Nat :=
  Tbl.get (if under = 1 then 0 else if sensor = 0 then 358 else 0xFFFF) (getCtrl s fn).features (0x04 * 2 ^ 16 + sensor + 16 * under)

/-- A threshold of an enabled controller is crossed. -/
def tempCrossed (s : State) : Bool :=
  (liveCtrls s).any (fun f => (List.range 7).any (fun i =>
    decide (tempThreshold s f i 0 ≤ smartTemp s i) || decide (smartTemp s i ≤ tempThreshold s f i 1 ∧ tempThreshold s f i 1 ≠ 0)))

/-- A sensor is found broken: B4 for what it drives, a vote, and its record (R825, R826). -/
def breakSensor (n : Nat) (t : Int) (cause : Nat) (s : State) : State :=
  let x := getSensor s n
  let s1 := setSensor n { x with temp := t, seen := true, cause := cause, band := 4, vote := true } s
  let s2 := { s1 with pwr := { s1.pwr with brokenSeen := true } }
  let s3 := raise 1077 (logOcc 0x4002 1077 (leBytes 1 n ++ leBytes 1 cause) s2)
  if x.vote then s3 else castVote n t s3

/-- A reading of a sensor that is not broken (R824, R827, R829). -/
def readSensor (n : Nat) (t : Int) (s : State) : State :=
  let x := getSensor s n
  let lim : Int := 10 * (sensorLimit s n : Int)
  let near := (lim :: bandEdges).any (fun e => decide (t - e ≤ 50 ∧ e - t ≤ 50))
  let above := x.fast && decide (lim ≤ t)
  let vote := if x.vote then decide (lim - 30 < t) else x.above && above
  let band := bandNext (if x.seen then x.band else 0) t
  let changed := if x.seen ∧ x.temp = t then x.changed else s.td17
  let hist := ((s.td17, t) :: x.hist).filter (fun h => s.td17 ≤ h.1 + 60000000000)
  let y : Sensor := { temp := t, maxTemp := if x.seen then max x.maxTemp t else t, seen := true, band := band, cause := 0, vote := vote,
                      above := above, fast := near, changed := changed, hist := hist }
  let s1 := setSensor n y s
  let s2 := if x.seen ∧ band ≠ x.band then raise 1077 s1 else s1
  if vote ∧ ¬ x.vote then castVote n t s2 else s2

/-- SENSOR_READ (R824 to R830); `selfTest`: the ADC reference self-check passes. -/
def execSensorRead (sensor : Fin 94) (tenths : Int) (selfTest : Bool) (s : State) : Host.Outcome State Fault Refusal :=
  .next (if s.mode.mode = .dark ∨ (getSensor s sensor).cause ≠ 0 then s
    else
      let c := brokenCause s sensor tenths selfTest
      let s1 := clampVcore (if c ≠ 0 then breakSensor sensor tenths c s else readSensor sensor tenths s)
      setCritWarn 1 (tempCrossed s1) s1)

/-! Supply and hold-up store (R815 to R820). -/

/-- A measurement joins a window of `n` of them. -/
def avgStep (n : Nat) (dw : Nat) (a : PowerAvg) : PowerAvg :=
  if a.count + 1 < n then { a with sum := a.sum + dw, count := a.count + 1 }
  else
    let v := (a.sum + dw) / n
    { sum := 0, count := 0, last := v, high := max a.high v }

/-- SUPPLY_MEASUREMENT (R815): millivolts, milliamperes, tenths of a watt, store millivolts. -/
def execSupplyMeasurement (vin iin deciwatt vstore : Nat) (s : State) : Host.Outcome State Fault Refusal :=
  let p := s.pwr
  .next (if s.mode.mode = .dark then s
    else { s with pwr := { p with vin := vin, iin := iin, underSeen := p.underSeen || decide (vin < 9000),
                                  overSeen := p.overSeen || decide (60000 < vin), avg10 := avgStep 100 deciwatt p.avg10,
                                  avg1 := avgStep 10000 deciwatt p.avg1, vstore := vstore } })

/-- A check begins. -/
def startCheck (s : State) : State := { s with pwr := { s.pwr with checking := true, second := false } }

/-- HOLDUP_CHECK_DUE (R817). -/
def execHoldupCheckDue (s : State) : Host.Outcome State Fault Refusal :=
  .next (if s.mode.mode = .lit ∧ ¬ s.pwr.checking ∧ s.pwr.checkedAt + 86400 ≤ s.cnt.opSeconds then startCheck s else s)

/-- HK_HOLDUP_CTRL.CHECK_NOW (R817, R839). -/
def checkNow (s : State) : State := if s.pwr.checking then s else startCheck s

/-- CHECK_NOW. -/
def execCheckNow (s : State) : Host.Outcome State Fault Refusal := .next (if pfWrites s then checkNow s else s)

/-- The hold-up store has failed (R818, R819). -/
def holdupFailed (s : State) : State :=
  extinguish 0x09 (setCritWarn 4 true { s with pwr := { s.pwr with fail := true, checking := false } })

/-- HOLDUP_CHECK_DONE (R816, R818): capacitance in nF, energy lost in nJ. -/
def execHoldupCheckDone (capacitance energy : Nat) (s : State) : Host.Outcome State Fault Refusal :=
  let m := (2240 * capacitance - energy) / 5400000
  .next (if s.mode.mode = .dark ∨ ¬ s.pwr.checking then s
    else
      let s1 := raise 1078 (logOcc 0x3002 1078 (leBytes 4 m) { s with pwr := { s.pwr with margin := m, checkedAt := s.cnt.opSeconds, marginKept := m, checkedKept := s.cnt.opSeconds } })
      if 2000 ≤ m then { s1 with pwr := { s1.pwr with checking := false, second := false, passed := true } }
      else if s.pwr.second then holdupFailed s1
      else { s1 with pwr := { s1.pwr with second := true } })

/-- HOLDUP_STORE_LOW (R819). -/
def execHoldupStoreLow (s : State) : Host.Outcome State Fault Refusal :=
  .next (if s.mode.mode = .lit ∧ ¬ s.pwr.checking then holdupFailed s else s)

/-- HOLDUP_CHARGED (R817, R820). -/
def execHoldupCharged (s : State) : Host.Outcome State Fault Refusal :=
  .next (if s.mode.mode = .kindling ∧ s.kin.done.contains 3 ∧ ¬ s.pwr.charged then startCheck { s with pwr := { s.pwr with charged := true } }
    else s)

/-! Pace (R831 to R835). -/

/-- Target of a monitor (R831). -/
def paceTarget (m : Nat) : Nat := listGet 0 [1600, 1400, 2000, 1200] m

/-- A monitor after a window. -/
def paceStep (vcore ceiling m v : Nat) (x : PaceMon) : PaceMon :=
  { pace := v, minPace := if x.seen then min x.minPace v else v, seen := true
    lowRun := if v < paceTarget m ∧ vcore = ceiling then x.lowRun + 1 else 0
    deepRun := if 4 * v < 3 * paceTarget m then x.deepRun + 1 else 0 }

/-- A wing that is returning fails while it is faulted already: the return ends (R835, R872). -/
def returnFails (w : Nat) (s : State) : State :=
  let s1 := setWingPwr w { wingPwr s w with vcore := 0, goodRun := 0, holdRun := 0 } s
  match s1.kin.returning with
  | some r =>
    let s2 := { s1 with kin := { s1.kin with returning := none } }
    (match r.cmd with | some c => completeCmd c stInternalDnr 0 0 [] s2 | none => s2)
  | none => s1

/-- A pace fault of a monitor (R833). -/
def paceFault (w m v vcore : Nat) (s : State) : State :=
  let s1 := raise (1056 + w) (logOcc 0x4003 (1056 + w) (leBytes 1 m ++ [0] ++ leBytes 2 v ++ leBytes 2 vcore) s)
  if s.mode.wingFault.getLsbD w then returnFails w (raise (1056 + w) (logOcc 0x0003 (1056 + w) (leBytes 1 3) s1))
  else wingFault w 3 s1

/-- PACE_WINDOW (R832, R833, R835): the paces of the four monitors. -/
def execPaceWindow (wing : Fin 8) (m0 m1 m2 m3 : BitVec 16) (s : State) : Host.Outcome State Fault Refusal :=
  let w : Nat := wing
  let p := wingPwr s w
  let vs := [m0.toNat, m1.toNat, m2.toNat, m3.toNat]
  let ceil := ceilingOf s w
  let mons := (p.mons.zip vs).zipIdx.map (fun e => paceStep p.vcore ceil e.2 e.1.2 e.1.1)
  let lows := (vs.zipIdx.filter (fun e => e.1 < paceTarget e.2 ∧ p.vcore = ceil)).map (·.2)
  let good := vs.zipIdx.all (fun e => decide (102 * paceTarget e.2 ≤ 100 * e.1))
  let run := if good then p.goodRun + 1 else 0
  let v := if !good then min ceil (p.vcore + 5) else if 100 ≤ run then max 620 (p.vcore - 5) else p.vcore
  let hold := if vs.zipIdx.all (fun e => decide (paceTarget e.2 ≤ e.1)) then p.holdRun + 1 else 0
  let p1 : WingPwr := { p with mons := mons, vcore := v, goodRun := run, holdRun := hold, shortSeen := p.shortSeen || !lows.isEmpty,
                               shortMon := lows.getLastD p.shortMon, shortEvents := satAdd 65535 p.shortEvents (b2n (!lows.isEmpty)) }
  .next (if s.mode.mode = .dark ∨ p.vcore = 0 then s
    else
      let s1 := setWingPwr w p1 s
      match mons.zipIdx.find? (fun e => decide (1000 ≤ e.1.lowRun) || decide (5 ≤ e.1.deepRun)) with
      | some e => paceFault w e.2 e.1.pace p.vcore s1
      | none => s1)

/-- WING_RETURN_HOLD_DONE (R835, R872). -/
def execWingReturnHoldDone (wing : Fin 8) (s : State) : Host.Outcome State Fault Refusal :=
  .next (match s.kin.returning with
    | some r =>
      if r.wing = wing ∧ s.mode.mode = .lit ∧ ¬ rollActive s then
        let s1 := returnWing wing { s with kin := { s.kin with returning := none } }
        (match r.cmd with | some c => completeCmd c stOk 0 0 [] s1 | none => s1)
      else s
    | none => s)

/-- HK_WG_SHORT.CLR_MIN resets the MIN fields to the current pace. -/
def clearMin (w : Nat) (s : State) : State :=
  let p := wingPwr s w
  setWingPwr w { p with mons := p.mons.map (fun m => { m with minPace := m.pace }) } s

/-- CLR_MIN. -/
def execClrMin (wing : Fin 8) (s : State) : Host.Outcome State Fault Refusal := .next (if pfWrites s then clearMin wing s else s)

/-- KEEPER_CORE_FAULT (R385): a second fault of the wing within 1 s faults the compute part. Wing w holds keeper cores 4w to 4w + 3 (R12). -/
def execKeeperCoreFault (wing : Fin 8) (kcore code : BitVec 8) (pc : Word) (s : State) : Host.Outcome State Fault Refusal :=
  let w : Nat := wing
  .next (if s.mode.mode = .dark ∨ s.mode.wingOut.getLsbD w ∨ kcore.toNat / 4 ≠ w then s
    else
      let s1 := logOcc 0x6002 (1056 + w) (leBytes 1 code.toNat ++ leBytes 1 kcore.toNat ++ List.replicate 6 0 ++ leBytes 8 pc.toNat) s
      let s2 := raise (1056 + w) { s1 with disp := { s1.disp with keeperFault := Tbl.insert s1.disp.keeperFault w s.td17 } }
      match Tbl.find s.disp.keeperFault w with
      | some t => if s.td17 < t + 1000000000 then wingFault w 4 s2 else s2
      | none => s2)

/-! Alarms (R730 to R733) and the LED. -/

/-- The debug port locks again when its session ends (R551). -/
def relockDebug (s : State) : State :=
  match s.host.debugBy with
  | some id => logOcc 0x5003 1067 (leBytes 4 id) { s with host := { s.host with debugBy := none } }
  | none => s

/-- Every key is erased: slots, namespace keys, the root key, session keys, the engines' contexts (R731). -/
def eraseKeys (s : State) : State :=
  let s1 := digFree 0 (sealWipe s)
  { s1 with
    sec := { s1.sec with root := none, xts := false, slots := [], free := 64, loaded := 0, data := List.replicate 5 0 }
    host := { s1.host with sessions := [], shaking := [], ideKeys := [] } }

/-- An alarm (R731 to R733). -/
def alarm (causes : Nat) (s : State) : State :=
  let s1 := relockDebug (eraseKeys s)
  let rootErase := llByte s 6 0 0 % 2 = 1
  let s2 := { s1 with
    sec := { s1.sec with alarm := Nat.lor s1.sec.alarm causes, blobA := if rootErase then .erased else s1.sec.blobA,
                         blobB := if rootErase then .erased else s1.sec.blobB } }
  let s3 := logOcc 0x5001 1067 (leBytes 1 causes) (if s2.chr.spdmReq then roleEnds s2 else s2)
  extinguish 0x05 (if s.mode.mode = .kindling then raise 1067 s3 else s3)

/-- ALARM (R730, R731). -/
def execAlarm (causes : BitVec 8) (s : State) : Host.Outcome State Fault Refusal :=
  .next (if s.mode.mode = .dark ∨ causes.toNat % 16 = 0 then s else alarm (causes.toNat % 16) s)

/-- MSC_LED.LOCATE (R890). -/
def setLocate (v : Nat) (s : State) : State := { s with mode := { s.mode with locate := v % 2 } }

/-- LOCATE (R905). -/
def execLocate (value : BitVec 1) (s : State) : Host.Outcome State Fault Refusal := .next (if pfReach s then setLocate value.toNat s else s)

end Sys2Proof.Machine
end

