-- ==== Sys2Proof/Machine/Sanitize.lean ====
section
/-! DEFINITION. Format NVM, Sanitize and their progress records (R589 to R601, R692, R693). -/

namespace Sys2Proof.Machine

/-- An outstanding admin command of an opcode that can run now. -/
def adminOf (s : State) (r : CmdRef) (opc : Nat) : Option OutCmd :=
  match findCmd s r with
  | some c => if c.admin ∧ c.sqe.opc = opc ∧ s.mode.mode ≠ .dark ∧ s.med.flush.isNone then some c else none
  | none => none

/-- Runs an admin command, when it can run. -/
def onAdmin (r : CmdRef) (opc : Nat) (f : OutCmd → State → State) (s : State) : State :=
  match adminOf s r opc with | some c => f c s | none => s

/-! Caravan-wide orders: sent to every other Lit member, each acknowledges. -/

/-- Sends an order to every other Lit member and notes who is to acknowledge. -/
def orderAll (code a b : Nat) (nums : List Nat) (bytes : List Byte) (cmd : Option CmdRef) (s : State) : State :=
  let s1 := sendAll .order (code :: nums) bytes s
  { s1 with rte := { s1.rte with waits := s1.rte.waits ++ [{ code := code, a := a, b := b, cmd := cmd, left := otherLit s, fails := [] }] } }

/-! Key generations (R691 to R693). -/

/-- Advances a namespace's key generation. -/
def advanceNs (nsid : Nat) (s : State) : State :=
  { s with sec := { s.sec with nsGen := Tbl.insert s.sec.nsGen nsid (nsGeneration s nsid + 1) } }

/-! Format NVM. -/

/-- Format In Progress; Invalid Format. -/
def stFormat : Status := mkStatus 0 0x84
def stBadFormat : Status := mkStatus 1 0x0A

/-- Every bale of a namespace is Empty and maps nothing. -/
def emptyNamespace (nsid : Nat) (s : State) : State :=
  let bales := (s.med.dir.filter (fun e => e.1 / 2 ^ 32 = nsid ∧ e.2.state ≠ 0)).map (fun e => e.1 % 2 ^ 32)
  let s1 := bales.foldl (fun s b => setDir nsid b DirEntry.empty .nothing (dropMap nsid b s)) s
  { s1 with
    plc := { s1.plc with moves := s1.plc.moves.filter (fun m => m.nsid ≠ nsid) }
    med := { s1.med with lost := s1.med.lost.filter (fun k => k / 2 ^ 44 ≠ nsid), lostBits := s1.med.lostBits.filter (fun e => e.1 / 2 ^ 44 ≠ nsid),
                         emptyWait := s1.med.emptyWait.filter (fun x => x.1 ≠ nsid) } }

/-- R590 step 4 at an owner. -/
def formatApply (nsid ses lbaf : Nat) (ext : Bool) (pit : Nat) (pil : Bool) (s : State) : State :=
  let s1 := emptyNamespace nsid (if ses = 1 ∨ ses = 2 then advanceNs nsid s else s)
  match nsInfo s1 nsid with
  | some n =>
    let m : NsInfo := { n with lbaf := lbaf, extended := ext, pit := pit, pil := pil }
    { s1 with host := { s1.host with namespaces := Tbl.insert s1.host.namespaces nsid m } }
  | none => s1

/-- The namespace's admission stops here (R590 step 1). -/
def formatStop (nsid : Nat) (s : State) : State :=
  if s.host.stoppedNs.contains nsid then s else { s with host := { s.host with stoppedNs := s.host.stoppedNs ++ [nsid] } }

/-- Admission goes on and the held commands are admitted (R590 step 5, R591). -/
def formatResume (nsid : Nat) (s : State) : State :=
  admitForeign (releaseHeld nsid { s with host := { s.host with stoppedNs := s.host.stoppedNs.filter (· ≠ nsid) } })

/-- Commands of the namespace are admitted here (R590 step 2). -/
def formatBusy (s : State) (nsid : Nat) : Bool :=
  s.host.locks.any (fun e => decide (e.nsid = nsid)) ||
    s.host.out.any (fun c => !c.held && c.parts.any (fun p => decide (p.nsid = nsid ∧ p.state ≠ .done)))

/-- FORMAT_NVM (R589, R590 step 1). -/
def formatBegin (c : OutCmd) (s : State) : State :=
  let q := c.sqe
  let d := q.cdw10
  let lbaf := bitsOf d 3 0
  let pit := bitsOf d 7 5
  let ses := bitsOf d 11 9
  let fail := fun (st : Status) => completeCmd c.cmd st 0 0 [] s
  if q.nsid = 0 ∨ 1024 < q.nsid ∨ (nsInfo s q.nsid).isNone then fail stNamespace
  else if 2 < ses ∨ 3 < pit then fail stField
  else if 2 < lbaf ∨ bitsOf d 13 12 ≠ 0 ∨ (lbaf = 0 ∧ pit ≠ 0) then fail stBadFormat
  else if s.host.format.isSome ∨ s.host.stoppedNs.contains q.nsid then fail stFormat
  else
    let op : FormatOp := { cmd := c.cmd, nsid := q.nsid, ses := ses, lbaf := lbaf, extended := bitOf d 4, pit := pit, pil := bitOf d 8, step := 1,
                           acks := otherLit s }
    sendAll .order [ordFormatStop, q.nsid] [] (formatStop q.nsid { s with host := { s.host with format := some op } })

/-- FORMAT_NVM (R589, R590). It waits while the journal is full (R86). -/
def execFormatNvm (r : CmdRef) (s : State) : Host.Outcome State Fault Refusal :=
  .next (onAdmin r 0x80 (fun c s => if (s.host.format.map (·.cmd)) = some r ∨ s.med.jrnStall then s else formatBegin c s) s)

/-- Words of an order that carry a format. -/
def formatNums (o : FormatOp) : List Nat := [o.nsid, o.ses, o.lbaf, b2n o.extended, o.pit, b2n o.pil]

/-- The step of a Format in progress is over when nobody is awaited, and its next begins (R590). -/
def formatNext (o : FormatOp) (s : State) : State :=
  let put := fun (st : Nat) (acks : List Nat) (s : State) => { s with host := { s.host with format := some { o with step := st, acks := acks } } }
  if o.acks ≠ [] then s
  else match o.step with
    | 1 => put 2 [] s
    | 2 =>
      if formatBusy s o.nsid then s
      else sendAll .order (ordFormatRecord :: formatNums o) [] (put 3 (otherLit s) (progWrite 1 o.ses 1 o.nsid s.cnt.opSeconds 0 s))
    | 3 =>
      let s1 := formatApply o.nsid o.ses o.lbaf o.extended o.pit o.pil (put 4 (otherLit s) s)
      sendAll .order (ordFormatApply :: formatNums o) [] s1
    | _ =>
      let s1 := progWrite 1 o.ses 2 o.nsid s.cnt.opSeconds 0 { s with host := { s.host with format := none } }
      let s2 := sendAll .order [ordFormatDone, o.nsid] [] s1
      settleAll (completeCmd o.cmd stOk 0 0 [] (formatResume o.nsid s2))

/-- FORMAT_STEP_DONE (R590). -/
def execFormatStepDone (s : State) : Host.Outcome State Fault Refusal :=
  .next (match s.host.format with
    | some o => if s.mode.mode = .lit ∧ s.med.flush.isNone then formatNext o s else s
    | none => s)

/-- Kindling finishes a Format that was Started (R592); the command is never completed. -/
def formatFinish (s : State) : State :=
  let s1 := match progStarted s 1, s.host.format with
    | some p, some o => progWrite 1 p.action 2 p.nsid p.start 0 (formatApply o.nsid o.ses o.lbaf o.extended o.pit o.pil s)
    | _, _ => s
  { s1 with host := { s1.host with format := none, stoppedNs := [] } }

/-! Sanitize. -/

/-- The uncommitted commands end with Sanitize In Progress, programs with them (R595). -/
def sanitizeStop (s : State) : State :=
  let io := s.host.out.filter (fun c => !c.admin && !c.committed)
  let s1 := io.foldl (fun s c =>
    match s.disp.tasks.find? (fun e => e.2.cmd = some c.cmd) with
    | some e => endThread e.1 stSanitize 0 0 s
    | none => endCmd c.cmd stSanitize { s with prog := { s.prog with waiting := s.prog.waiting.filter (fun w => w.cmd ≠ c.cmd) } }) s
  s1.host.foreign.foldl (fun s f =>
    if f.part.begun then s
    else
      let r : PartRef := { station := f.station, cmd := f.cmd, index := f.part.index }
      returnPart r stSanitize (dropLock r (dropPart r s))) s1

/-- A sanitize of an action begins at this station (R593, R595). -/
def sanitizeBegin (action seq : Nat) (s : State) : State :=
  let s1 := { s with host := { s.host with sanSeq := seq, sanStatus := 2, sanitize := some { action := action, begun := [], ended := otherLit s, localDone := false } } }
  sanitizeStop (progWrite 2 action 1 0xFFFFFFFF s.cnt.opSeconds 0 s1)

/-- Clears the content of the beacon tables (R594). -/
def clearBeacon (s : State) : State :=
  { s with bcn := { s.bcn with rows := [], shadow := [], tables := s.bcn.tables.map (fun e => (e.1, { e.2 with append := 0 })) } }

/-- A die block is erased: Free, its count one higher (R167, R170, R593). -/
def wipeBlock (s : State) (bk : Nat) : State :=
  let b := getBlk s bk
  if b.state = .retired ∨ s.med.faulted.contains (blkPort bk) then s
  else
    let s1 := wipePages bk s
    let s2 := ledgerMove (portChannel (blkPort bk)) b.state.code BlkState.free.code s1
    let s3 := jrn (portWing (blkPort bk)) (.blockState (blkPort bk) (bk % 1024) b.role b.state .free (satAdd 65535 b.erases 1)) .nothing s2
    healthAdd (if b.role = .qlc then 8 else 9) 1 (setBlk bk { DieBlock.fresh with erases := satAdd 65535 b.erases 1 } s3)

/-- Block Erase of the die blocks; a faulted die port's stay, and a record names the port (R593, R598). -/
def eraseAll (s : State) : State :=
  let s1 := (s.med.blocks.map (·.1)).foldl wipeBlock s
  let s2 := { s1 with med := { s1.med with sets := [], sources := [], folds := [], reclaims := [], retireRelocs := [], foldRun := [], ckptGone := [] } }
  s2.med.faulted.foldl (fun s p => logOcc 0x1006 p [] s) s2

/-- The SLM of a wing is zero-filled by clearing its valid bits: no line of it is poisoned any more (R755). -/
def clearPoison (s : State) (w : Nat) : State :=
  let c := getDram s w
  clearPages w (fun p => decide (p < 2 ^ 18)) (setDram w { c with poison := c.poison.filter (fun p => 2 ^ 30 ≤ contentOff c p) } s)

/-- What a sanitize does here (R593, R594). -/
def sanitizeWork (action : Nat) (s : State) : State :=
  let nss := Tbl.keys s.host.namespaces
  let s1 := nss.foldl (fun s n => emptyNamespace n (advanceNs n s)) s
  let s2 := { s1 with med := { s1.med with units := [], landed := [], reads := [], cache := [], packing := [], map := [], lost := [], lostBits := [], emptyWait := [], copied := [], dirty := [], ckptTodo := [] }
                      plc := { s1.plc with mirrors := [], held := [], rebuilding := [] }
                      rte := { s1.rte with pieces := [], segments := [], parity := [] }
                      prog := { s1.prog with slm := [] } }
  let s3 := clearBeacon ((List.range 8).foldl clearPoison s2)
  if action = 2 then eraseAll s3 else settleAll s3

/-- The sanitize is over once every part of it is (R595, R599). -/
def sanitizeCheck (s : State) : State :=
  match s.host.sanitize with
  | some o =>
    if o.localDone ∧ o.ended = [] then
      progWrite 2 o.action 2 0xFFFFFFFF (((progStarted s 2).map (·.start)).getD 0) 0
        { s with host := { s.host with sanitize := none, sanStatus := 1 } }
    else s
  | none => s

/-- The Sanitize command completes once the operation has begun at every Lit station (R595). -/
def sanitizeStart (c : OutCmd) (action : Nat) (s : State) : State :=
  let seq := s.host.sanSeq + 1
  if s.host.sanitize.isSome then s
  else
    let s1 := sanitizeBegin action seq s
    if otherLit s = [] then completeCmd c.cmd stOk 0 0 [] s1
    else orderAll ordSanitize seq 0 [seq, action] [] (some c.cmd) s1

/-- SANITIZE_BLOCK_ERASE (R593, R595); an action of no kind of R593 completes with Invalid Field. -/
def execSanitizeBlockErase (r : CmdRef) (s : State) : Host.Outcome State Fault Refusal :=
  .next (onAdmin r 0x84 (fun c s =>
    let a := c.sqe.cdw10 % 8
    if a = 2 then sanitizeStart c 2 s else if a = 1 ∨ a = 4 then s else completeCmd r stField 0 0 [] s) s)

/-- SANITIZE_CRYPTO_ERASE (R593, R595). -/
def execSanitizeCryptoErase (r : CmdRef) (s : State) : Host.Outcome State Fault Refusal :=
  .next (onAdmin r 0x84 (fun c s => if c.sqe.cdw10 % 8 = 4 then sanitizeStart c 4 s else s) s)

/-- SANITIZE_EXIT_FAILURE_MODE (R593, R599). -/
def execSanitizeExitFailureMode (r : CmdRef) (s : State) : Host.Outcome State Fault Refusal :=
  .next (onAdmin r 0x84 (fun c s =>
    if c.sqe.cdw10 % 8 = 1 then
      completeCmd r stOk 0 0 [] (if s.host.sanStatus = 3 then { s with host := { s.host with sanStatus := 0 } } else s)
    else s) s)

/-- SANITIZE_OPERATION_END (R595, R597): this station's part ends, once the committed commands have finished. -/
def execSanitizeOperationEnd (s : State) : Host.Outcome State Fault Refusal :=
  .next (match s.host.sanitize with
    | some o =>
      if (s.mode.mode = .lit ∨ s.mode.mode = .extinguished) ∧ s.med.flush.isNone ∧ ¬ o.localDone ∧ s.host.locks = [] ∧
          ¬ s.host.out.any (fun c => !c.admin) then
        let s1 := sanitizeWork o.action s
        let s2 := (otherLit s).foldl (fun s m => send m .ack [ordSanEnd, s.host.sanSeq, 0, 0] [] [] s) s1
        sanitizeCheck { s2 with host := { s2.host with sanitize := some { o with localDone := true } } }
      else s
    | none => s)

/-- An unfinished sanitize goes on after Kindling (R597). -/
def sanitizeResume (s : State) : State :=
  match progStarted s 2 with
  | some p => { s with host := { s.host with sanStatus := 2, sanitize := some { action := p.action, begun := [], ended := otherLit s, localDone := false } } }
  | none => s

end Sys2Proof.Machine
end

