-- ==== Sys2Proof/Machine/Flush.lean ====
section
/-! DEFINITION. The ember flush, the settling of commands after it, and power going away (R41 to R43, R160 to R164, R821, R822). -/

namespace Sys2Proof.Machine

/-- The host grains and mirrors that no program has taken, oldest first: units that had not started, packed pages, cache (R161 step 4). -/
def flushItems (s : State) : List (GrainItem × Nat) :=
  let units := s.med.units.flatMap (fun u => (u.items.flatMap slotGrains).map (fun g => (g, portWing u.port)))
  let packs := s.med.packing.flatMap (fun e => e.2.map (fun x => (x.1, e.1 % 8)))
  (units ++ packs ++ s.med.cache.map (fun c => (c.item, c.wing))).filter (fun x => flushSaves x.1 && itemArrived s x.1)

/-- A host grain over the newest earlier content of its grain: an earlier item of the flush, a landed grain, or the map (R102, R103). -/
def flushMerge (s : State) (done : List (GrainItem × Nat)) (x : GrainItem × Nat) : GrainItem × Nat :=
  let k := idKey x.1.id
  match x.1.why with
  | .host ps bits =>
    (match (done.reverse.find? (fun d => isHostOf k d.1)), (s.med.landed.reverse.find? (fun l => isHostOf k l.1)) with
     | some d, _ => ({ x.1 with img := { overlayImg d.1.img x.1.img bits with present := Nat.lor d.1.img.present bits }, why := .host ps bits }, x.2)
     | none, some l => ({ x.1 with img := { overlayImg l.1.img x.1.img bits with present := Nat.lor l.1.img.present bits }, why := .host ps bits }, x.2)
     | none, none => (overCurrent s k x.1, x.2))
  | _ => x

/-- Step 4: the flush's grains go to the reserve, with the parity of their rows. After an alarm no key remains and they are discarded (R161, R732). -/
def flushProgram (s : State) : State :=
  let items := (flushItems s).foldl (fun (done : List (GrainItem × Nat)) x => done ++ [flushMerge s done x]) []
  let s1 := { s with med := { s.med with units := [], cache := [], packing := [] } }
  if ¬ s.sec.xts then s1
  else
    let s2 := { s1 with pwr := { s1.pwr with flushSaved := items.length } }
    levelReserve ((items.zipIdx).foldl (fun s x => reservePut x.1.2 x.2 x.1.1 s) s2)

/-- The parts that wait in the module, in order of admission. -/
def admittedParts (s : State) : List PartRef := s.host.locks.map (fun e => { station := e.station, cmd := e.cmd, index := e.part })

/-- Step 5: the MAP_SET records of what landed, one command at a time in order of admission (R161, R164). -/
def flushJournal (s : State) : State :=
  let order := admittedParts s
  let all := s.med.landed.filter (fun x => itemArrived s x.1)
  let mine := fun (r : PartRef) => all.filter (fun x => (itemParts x.1).head? = some r)
  let rest := all.filter (fun x => match (itemParts x.1).head? with | some r => !order.contains r | none => true)
  journalOthers (journalLanded { s with med := { s.med with landed := order.flatMap mine ++ rest } })

/-- Step 6: what MRAM keeps, and the Keeper's Log (R161, R801, R804). -/
def flushLog (s : State) : State :=
  let n := s.pwr.flushSaved
  let s1 := healthAdd 16 n (healthAdd 15 1 s)
  let s2 := { s1 with cnt := { s1.cnt with opSecondsMram := s1.cnt.opSeconds }, pwr := { s1.pwr with flushed := true },
                      log := { s1.log with flushing := true } }
  logDrain 512 (logOcc 0x3001 1078 (leBytes 1 s.pwr.flushTrigger ++ [0, 0, 0] ++ leBytes 4 n) s2)

/-- Every record issued is durable. -/
def allDurable (s : State) : Bool := !s.med.journal.any (fun r => decide (s.med.durSeq < r.seq))

/-- Sets the flush's step. -/
def flushAt (f : Flush) (n : Nat) (s : State) : State := { s with med := { s.med with flush := some { f with step := n } } }

/-- EMBER_FLUSH_STEP_DONE (R161). -/
def execEmberFlushStepDone (s : State) : Host.Outcome State Fault Refusal :=
  .next (match s.med.flush with
    | none => s
    | some f =>
      if f.step = 3 then (if f.wait = [] then flushAt f 4 (flushProgram s) else s)
      else if f.step = 4 then
        if s.med.units.any (·.issued) then s else flushAt f 5 (if s.sec.xts then flushJournal s else s)
      else if f.step = 5 then (if allDurable s then flushAt f 6 (flushLog s) else s)
      else s)

/-- An admin command that goes on, or stays held, while Extinguished (R43, R44). -/
def staysExt (c : OutCmd) : Bool :=
  c.admin && ([0x0C, 0xC8, 0x84, 0x11].contains c.sqe.opc || (decide (c.sqe.opc = 0x10) && decide (bitsOf c.sqe.cdw10 5 3 ≤ 2)))

/-- Ends a command with a status, its thread with it. -/
def settleOne (st : Status) (r : CmdRef) (s : State) : State :=
  match s.disp.tasks.find? (fun e => e.2.cmd = some r) with
  | some e => endThread e.1 st 0 0 s
  | none => endCmd r st { s with prog := { s.prog with waiting := s.prog.waiting.filter (fun w => w.cmd ≠ r) } }

/-- Every admitted command is settled: committed ones succeed, the others end with Module Extinguished; parts of other stations go
back (R41, R46). A shutdown under way has nothing left to wait for (R913). -/
def settleExt (s : State) : State :=
  let cmds := s.host.out.filter (fun c => !staysExt c)
  let s1 := cmds.foldl (fun s c => if c.committed then endCmd c.cmd stOk s else settleOne (stExt s) c.cmd s) s
  let s2 := s1.host.foreign.foldl (fun s f =>
    let r : PartRef := { station := f.station, cmd := f.cmd, index := f.part.index }
    let done := f.part.begun && decide (f.part.records = 0) && f.write
    returnPart r (if done then stOk else stExtinguishedStation) (dropLock r s)) s1
  let done := fun (c : Ctrl) => { c with shst := if c.shst = 1 then 2 else c.shst }
  { s2 with host := { s2.host with format := none, stoppedNs := [], ctrls := s2.host.ctrls.map (fun e => (e.1, done e.2)) }, chr := { s2.chr with fnWait := [], commit := none, commitWait := [] } }

/-! The supply (R31, R33, R813, R822, R885). -/

/-- The main input is lost: a flush under way goes on from the store, an Extinguished module that has flushed goes Dark, any other
begins the flush (R33, R822). -/
def inputLost (trigger : Nat) (s : State) : State :=
  let s1 := { s with pwr := { s.pwr with mainIn := false } }
  if s.mode.mode = .dark then s1
  else match s.med.flush with
    | some f => { s1 with med := { s1.med with flush := some { f with toDark := true } }, pwr := { s1.pwr with lostMain := true } }
    | none => if s.mode.mode = .extinguished then enterDark false s1 else startFlush trigger true s1

/-- INPUT_UNDERVOLTAGE (R33, R821). -/
def execInputUndervoltage (s : State) : Host.Outcome State Fault Refusal := .next (inputLost 1 s)

/-- INPUT_OVERVOLTAGE (R813): the module disconnects the input first. -/
def execInputOvervoltage (s : State) : Host.Outcome State Fault Refusal := .next (inputLost 3 s)

/-- PWR_EN_DEASSERTED (R885). -/
def execPwrEnDeasserted (s : State) : Host.Outcome State Fault Refusal :=
  let s1 := { s with pwr := { s.pwr with pwrEn := false } }
  .next (match s.mode.mode with
    | .dark => s1
    | .kindling => if s.med.flush.isSome then s1 else enterDark false s1
    | .lit => startFlush 2 true s1
    | .extinguished =>
      match s.med.flush with
      | some f => { s1 with med := { s1.med with flush := some { f with toDark := true } } }
      | none => enterDark false s1)

end Sys2Proof.Machine
end

