-- ==== Sys2Proof/Machine/Images.lean ====
section
/-! DEFINITION. Firmware images, the boot record and the Light List as they are checked (R735, R736, R845 to R858). -/

namespace Sys2Proof.Machine

/-! Images (R735, R845, R846). -/

/-- The signature trailer. -/
def imgTrailer (img : List Byte) : List Byte := img.drop (img.length - 256)
def imgKeyIndex (img : List Byte) : Nat := imgField (imgTrailer img) 4 1
def imgSvn (img : List Byte) : Nat := imgField (imgTrailer img) 5 1
def imgBurn (img : List Byte) : Bool := bitOf (imgField (imgTrailer img) 6 1) 0
def imgRevoke (img : List Byte) : Nat := imgField (imgTrailer img) 7 1 % 16

/-- The header meets R845. -/
def imgHeaderOk (img : List Byte) : Bool :=
  (imgRevision img).all (fun b => decide (b.toNat < 128)) && decide (img.take 4 = [0x59, 0x46, 0x57, 0x49] ∧ imgField img 4 2 = 1 ∧ imgField img 6 2 = 0 ∧ imgField img 24 4 = img.length ∧
    img.length ≤ 33554432 ∧ 1 ≤ imgTested img ∧ imgTested img ≤ 256 ∧ imgCohab img ≤ 64 ∧ imgPeers img ≤ 64 ∧
    512 + 16 * imgTested img + 4 * imgCohab img + 4 * imgPeers img ≤ img.length) && zeros img 36 220

/-- The signature trailer meets R735, and key, revocation and signature pass (R736). -/
def imgSigned (s : State) (img : List Byte) : Bool :=
  let t := imgTrailer img
  let k := imgKeyIndex img
  let pub := (t.drop 8).take 97
  decide (t.take 4 = [0x59, 0x53, 0x49, 0x47]) && decide (k ≤ 3) && decide (imgSvn img ≤ 64) && decide (imgField t 6 1 ≤ 1) &&
    decide (imgField t 7 1 ≤ 15) && zeros t 105 55 && decide (hashOf 1 pub = listGet [] s.sec.keyHash k) && !bitOf s.sec.revoked k &&
    ecdsaVerify pub (hashOf 1 (img.take (img.length - 96))) (t.drop 160)

/-- A tested-set entry matches the hardware set (R846). -/
def imgTestedHere (s : State) (img : List Byte) : Bool :=
  (List.range (imgTested img)).any (fun i => decide ((img.drop (256 + 16 * i)).take 16 = s.cfg.hwSet))

/-- The cause for which an image is refused, 0 when it passes (R850). -/
def imgCause (s : State) (img : Option (List Byte)) (readError : Bool) : Nat :=
  match img with
  | none => 1
  | some i =>
    if readError then 5
    else if !imgHeaderOk i then 1
    else if !imgSigned s i then 2
    else if imgSvn i < s.sec.svn then 3
    else if !imgTestedHere s i then 4 else 0

/-- An image's lists of versions it may run beside, and of firmware sets tested as peers (R845). -/
def imgList (img : List Byte) (off n : Nat) : List Nat := (List.range n).map (fun i => imgField img (off + 4 * i) 4)
def imgCohabs (img : List Byte) : List Nat := imgList img (256 + 16 * imgTested img) (imgCohab img)
def imgPeerSets (img : List Byte) : List Nat := imgList img (256 + 16 * imgTested img + 4 * imgCohab img) (imgPeers img)

/-- What MSC_FW_SLOT shows of a slot. -/
def slotView (s : State) (img : Option (List Byte)) (readError : Bool) : SlotView :=
  let c := imgCause s img readError
  match img with
  | none => SlotView.empty
  | some i => { pass := decide (c = 0), cause := c, svn := if c = 1 then 0 else imgSvn i, version := if c = 1 then 0 else imgVersion i }

/-- The order in which the slots are tried (R849). -/
def bootOrder (s : State) : List Nat :=
  let b := s.kin.boot
  let ver := fun (n : Nat) => (Tbl.get SlotView.empty s.kin.slots n).version
  let rest := [1, 2, 3, 4].foldl (fun (l : List Nat) n => l.takeWhile (fun m => ver n ≤ ver m) ++ n :: l.dropWhile (fun m => ver n ≤ ver m)) []
  (([b.next, b.active, b.previous].filter (fun n => 1 ≤ n ∧ n ≤ 4)) ++ rest).dedup

/-- The first slot that passes; each slot refused before it is recorded (R849, R850). -/
def bootTry : List Nat → State → Option Nat × State
  | [], s => (none, s)
  | n :: rest, s =>
    let v := Tbl.get SlotView.empty s.kin.slots n
    if v.pass then (some n, s) else bootTry rest (raise 1085 (logOcc 0xA001 1085 (leBytes 1 n ++ leBytes 1 v.cause) s))

/-- The choice of the image (R849); the boot record is updated. -/
def bootChoose (readErrors : Nat) (s : State) : State :=
  let views := [1, 2, 3, 4].map (fun n => (n, slotView s (Tbl.find s.kin.images n) (bitOf readErrors (n - 1))))
  let s1 := { s with kin := { s.kin with slots := views } }
  let b := s.kin.boot
  match bootTry (bootOrder s1) s1 with
  | (none, s2) => extinguish 0x07 { s2 with kin := { s2.kin with boot := { b with seq := b.seq + 1, next := 0 } } }
  | (some n, s2) =>
    let b1 : BootRec := { seq := b.seq + 1, active := n, next := 0, previous := if n = b.active then b.previous else b.active, rollPhase := 0, rollWing := 0 }
    { s2 with kin := { s2.kin with boot := b1, running := n, image := Tbl.get [] s2.kin.images n,
                                   fallback := decide (n ≠ b.next ∧ n ≠ b.active) } }

/-! The Light List (R852 to R855). -/

/-- The records of a copy from an offset to its LENGTH: types and bodies (R853). None when a record breaks the form. -/
def llParse : Nat → List Byte → Nat → List Nat → Option (List (Nat × List Byte))
  | 0, _, _, _ => none
  | fuel + 1, bs, last, classes =>
    match bs with
    | [] => some []
    | _ =>
      let t := leNat (bs.take 2)
      let len := leNat ((bs.drop 2).take 2)
      let known := (1 ≤ t ∧ t ≤ 8) ∨ t = 0x10
      let body := (bs.take len).drop 8
      let cls := (listGet 0 body 0).toNat
      if bs.length < 8 ∨ ¬ known ∨ len ≠ (if t = 0x10 then 208 else 16) ∨ bs.length < len ∨ ¬ zeros bs 4 4 ∨ t < last ∨
          (t = last ∧ (t ≠ 0x10 ∨ classes.contains cls)) then none
      else (llParse fuel (bs.drop len) t (if t = 0x10 then cls :: classes else [])).map (fun r => (t, body) :: r)

/-- The body of a record lies in its ranges (R853). -/
def llBodyOk (s : State) (t : Nat) (b : List Byte) : Bool :=
  let at1 := fun (i : Nat) => (listGet 0 b i).toNat
  let inlet := if s.cfg.variant = .v200C ∨ s.cfg.variant = .v100C then (45, 55) else (60, 75)
  match t with
  | 1 => decide (at1 0 ≤ 1 ∧ at1 1 ≤ 63) && zeros b 2 6
  | 2 => decide (10 ≤ at1 0 ∧ at1 0 ≤ 90 ∧ 1 ≤ at1 1 ∧ at1 1 ≤ 8) && zeros b 2 6
  | 3 => decide (at1 0 ≤ 1) && zeros b 1 7
  | 4 => decide (1 ≤ imgField b 4 2 ∧ imgField b 4 2 ≤ 3650) && zeros b 3 1 && zeros b 6 2
  | 5 => decide (85 ≤ at1 0 ∧ at1 0 ≤ 95 ∧ 100 ≤ at1 1 ∧ at1 1 ≤ 110 ∧ 85 ≤ at1 2 ∧ at1 2 ≤ 95 ∧ inlet.1 ≤ at1 3 ∧ at1 3 ≤ inlet.2) && zeros b 4 4
  | 6 => decide (at1 0 ≤ 1) && zeros b 1 7
  | 7 => decide (8 ≤ at1 0 ∧ at1 0 ≤ 0x77 ∧ at1 0 ≠ 0x6A) && zeros b 1 7
  | 8 => decide (at1 0 ≤ 3) && zeros b 1 7
  | _ =>
    let n := at1 1
    decide (at1 0 ≤ 15 ∧ n ≤ 48) && zeros b 2 2 && (List.range 48).all (fun i =>
      let o := imgField b (8 + 4 * i) 4
      if i < n then decide (o % 4 = 0 ∧ 0x100000 ≤ o ∧ o ≤ 0xFFFFFF) else decide (o = 0))

/-- Records of a copy. -/
def llRecords (c : List Byte) : Option (List (Nat × List Byte)) := llParse 300 ((c.take (llLength c)).drop 64) 0 []

/-- The CRC of a copy, its field taken as zero (R852). -/
def llCrc (c : List Byte) : Nat := crc32c (zeroRun (c.take (llLength c)) 12 4)

/-- The cause for which a copy is ignored, 0 when it is valid (R854). -/
def llCause (s : State) (copy : Option (List Byte)) (readError : Bool) : Nat :=
  match copy with
  | none => 1
  | some c =>
    let lay := imgField c 4 2
    let len := llLength c
    if c.length < 64 ∨ c.take 4 ≠ [0x59, 0x4C, 0x4C, 0x54] ∨ ¬ zeros c 6 2 ∨ ¬ zeros c 32 32 then 1
    else if lay = 0 ∨ ¬ bitOf (imgLayouts s.kin.image) (lay - 1) then 2
    else if len < 64 ∨ 4096 < len ∨ len % 8 ≠ 0 then 3
    else if readError ∨ c.length < len ∨ llCrc c ≠ imgField c 12 4 then 4
    else match llRecords c with
      | none => 5
      | some rs => if rs.all (fun r => llBodyOk s r.1 r.2) then 0 else 6

/-- A snapshot list record as the log uses it (R802). -/
def snapOf (b : List Byte) : Nat × SnapList :=
  ((listGet 0 b 0).toNat,
   { version := imgField b 4 2, offsets := (List.range ((listGet 0 b 1).toNat)).map (fun i => imgField b (8 + 4 * i) 4) })

/-- The settings that the records in use give (R853, R856). -/
def llApply (s : State) : State :=
  let lists := s.kin.llRecs.foldl (fun (t : Tbl SnapList) r => if r.1 = 0x10 then Tbl.insert t (snapOf r.2).1 (snapOf r.2).2 else t) []
  let aref := llByte s 4 4 30 + 256 * llByte s 4 5 0
  let station := if llByte s 1 0 0 = 1 then llByte s 1 1 0 else s.rte.straps % 64
  { s with
    rte := { s.rte with recodePct := llByte s 2 0 50, rebuildGbps := llByte s 2 1 2, station := station, overridden := decide (llByte s 1 0 0 = 1),
                        mismatched := inCaravan s && decide (s.rte.record.station ≠ station) }
    med := { s.med with compat := decide (llByte s 3 0 0 = 1), rclWv := llByte s 4 0 200, rclWa := llByte s 4 1 40, rclWw := llByte s 4 2 16, rclAref := aref }
    chr := { s.chr with spdmReq := bitOf (llByte s 8 0 0) 1 }
    log := { s.log with lists := lists } }

/-- The record of a copy that is ignored (R854). -/
def llNote (copy cause : Nat) (s : State) : State :=
  if cause = 0 then s else raise 1085 (logOcc 0xA003 1085 (leBytes 1 copy ++ leBytes 1 cause) s)

/-- Selects the Light List (R854 to R856); `readErrors` bits 0 and 1: the copies that MRAM cannot read. -/
def llSelect (readErrors : Nat) (s : State) : State :=
  let a := llCause s s.kin.copyA (bitOf readErrors 0)
  let b := llCause s s.kin.copyB (bitOf readErrors 1)
  let s1 := llNote 1 b (llNote 0 a { s with kin := { s.kin with causeA := a, causeB := b } })
  let pick : Option (Nat × List Byte) := match s.kin.copyA, s.kin.copyB with
    | some x, some y => if a = 0 ∧ (b ≠ 0 ∨ llSeqOf y ≤ llSeqOf x) then some (0, x) else if b = 0 then some (1, y) else none
    | some x, none => if a = 0 then some (0, x) else none
    | none, some y => if b = 0 then some (1, y) else none
    | none, none => none
  match pick with
  | none => extinguish 0x08 (llApply s1)
  | some (n, c) =>
    llApply { s1 with kin := { s1.kin with llActive := n, llSeq := llSeqOf c, llStamp := llStampOf c, llRecs := (llRecords c).getD [] } }

end Sys2Proof.Machine
end

