-- ==== Sys2Proof/Machine/Links.lean ====
section
/-! DEFINITION. Route links: flits, acknowledgement and replay, credits, HELLO, the topology and the route table (R604 to R618, R634,
R648, R887, R888). -/

namespace Sys2Proof.Machine

/-! Topology (R616). Links 0 N, 1 E, 2 S, 3 W. -/

/-- Stations that the layout has room for: the highest member's number plus 1 (log entry 46). -/
def layoutSize (s : State) : Nat := ((members s).foldl max 0) + 1

/-- Rows of column x, and stations of row y, in a layout of n stations. -/
def rowsOf (n x : Nat) : Nat := if x ≤ (n - 1) % 8 then (n + 7) / 8 else (n + 7) / 8 - 1
def rowLen (n y : Nat) : Nat := if y + 1 < (n + 7) / 8 then 8 else (n - 1) % 8 + 1

/-- The station that a link of a station connects to; none where it is unused. -/
def neighbourOf (topo n st l : Nat) : Option Nat :=
  let x := st % 8
  let y := st / 8
  if topo = 0 then (if l = 1 then some ((st + 1) % 16) else if l = 3 then some ((st + 15) % 16) else none)
  else if l = 1 ∨ l = 3 then
    (let k := rowLen n y
     if k < 2 then none else some (8 * y + (if l = 1 then (x + 1) % k else (x + k - 1) % k)))
  else
    let k := rowsOf n x
    if k < 2 then none else some (8 * (if l = 0 then (y + 1) % k else (y + k - 1) % k) + x)

/-- The neighbour of a station by this station's record. -/
def nextStation (s : State) (st l : Nat) : Option Nat := neighbourOf s.rte.record.topo (layoutSize s) st l

/-- A link of a station crosses its ring's wrap (R618; log entry 46). -/
def isWrap (s : State) (st l : Nat) : Bool :=
  match nextStation s st l with
  | none => false
  | some d =>
    if s.rte.record.topo = 0 then decide ((st = 15 ∧ d = 0) ∨ (st = 0 ∧ d = 15))
    else if l = 1 ∨ l = 3 then decide ((l = 1 ∧ d < st) ∨ (l = 3 ∧ st < d))
    else decide ((l = 0 ∧ d < st) ∨ (l = 2 ∧ st < d))

/-! Routes (R617). -/

/-- A link of a station is Up, as this station knows. -/
def linkUp (s : State) (st l : Nat) : Bool :=
  if st = ownStation s then decide ((getLink s l).state = .up) else bitOf (Tbl.get 0 s.rte.linkMap st) l

/-- Steps along a ring of k places from a to b: the links of the way, the shorter one, `up` at a tie. -/
def ringWay (k a b up down : Nat) : List Nat :=
  let fwd := (b + k - a) % k
  if fwd = 0 then [] else if fwd ≤ k - fwd then List.replicate fwd up else List.replicate (k - fwd) down

/-- The dimension-order path as links: in x first, then in y; none when a row does not reach the column. -/
def dimOrder (s : State) (a b : Nat) : Option (List Nat) :=
  let n := layoutSize s
  if s.rte.record.topo = 0 then some (ringWay 16 a b 1 3)
  else if rowLen n (a / 8) ≤ b % 8 ∨ rowsOf n (b % 8) ≤ a / 8 then none
  else some (ringWay (rowLen n (a / 8)) (a % 8) (b % 8) 1 3 ++ ringWay (rowsOf n (b % 8)) (a / 8) (b / 8) 0 2)

/-- Every link of a path is Up. -/
def pathUp (s : State) : Nat → List Nat → Bool
  | _, [] => true
  | st, l :: rest => linkUp s st l && match nextStation s st l with | some d => pathUp s d rest | none => false

/-- Distances by Up links from some stations on, up to a number of hops. -/
def spread (s : State) : Nat → Nat → List Nat → Tbl Nat → Tbl Nat
  | 0, _, _, t => t
  | n + 1, h, front, t =>
    let next := (front.flatMap (fun st => (List.range 4).filterMap (fun l => if linkUp s st l then nextStation s st l else none))).dedup
    let new := next.filter (fun d => (Tbl.find t d).isNone)
    if new = [] then t else spread s n (h + 1) new (new.foldl (fun t d => Tbl.insert t d (h + 1)) t)

/-- The order of first links among shortest paths (R617 step 2). -/
def linkTurn : List Nat := [1, 3, 0, 2]

/-- The route to a station (R617). -/
def routeTo (s : State) (dists : List (Nat × Tbl Nat)) (d : Nat) : Route :=
  let own := ownStation s
  match dimOrder s own d with
  | some (l :: rest) =>
    if pathUp s own (l :: rest) ∧ rest.length < 16 then { reach := true, hops := rest.length + 1, first := l } else far
  | _ => far
where
  far : Route :=
    let ways := dists.filterMap (fun x => (Tbl.find x.2 d).map (fun h => (h + 1, x.1)))
    match ways with
    | [] => Route.none
    | w :: rest =>
      let b := rest.foldl (fun a x => if x.1 < a.1 then x else a) w
      if b.1 ≤ 16 then { reach := true, hops := b.1, first := b.2 } else Route.none

/-- ROUTE_TABLE_UPDATE (R617). New parts are held for an owner whose route changes (R562). -/
def updateRoutes (s : State) : State :=
  if ¬ inCaravan s then { s with rte := { s.rte with routes := [] } }
  else
    let own := ownStation s
    let dists := linkTurn.filterMap (fun l => if linkUp s own l then (nextStation s own l).map (fun d => (l, spread s 15 0 [d] [(d, 0)])) else none)
    let t := ((members s).filter (· ≠ own)).foldl (fun t d => Tbl.put Route.none t d (routeTo s dists d)) []
    let new := (members s).filter (fun d => Tbl.get Route.none t d ≠ Tbl.get Route.none s.rte.routes d ∧ ¬ s.rte.rerouted.contains d ∧ partsOut s d = true)
    { s with rte := { s.rte with routes := t, rerouted := s.rte.rerouted ++ new } }

/-! Links. -/

/-- Replaces a link. -/
def setLink (l : Nat) (x : Link) (s : State) : State := { s with rte := { s.rte with links := Tbl.put Link.reset s.rte.links l x } }

/-- Bits of the links that are Up. -/
def upBits (s : State) : Nat := ((List.range 4).map (fun l => if (getLink s l).state = .up then 2 ^ l else 0)).sum

/-- This station reaches no more than the minority of its caravan's members (R631). -/
def minority (s : State) : Bool :=
  let m := members s
  let r := m.filter (fun i => i = ownStation s ∨ (Tbl.get Route.none s.rte.routes i).reach)
  inCaravan s && (decide (2 * r.length < m.length) || (decide (2 * r.length = m.length) && !r.contains ((litStations s).headD (ownStation s))))

/-- The side of a partition that this station is on changes with what it reaches (R631). -/
def checkPartition (s : State) : State :=
  let p := minority s
  if s.mode.mode ≠ .lit ∨ p = s.rte.partition then s else noticeAna (raise 1072 { s with rte := { s.rte with partition := p } })

/-- A link went Up or left it: the route table changes, and the news goes to the members (R617). -/
def linkChange (s : State) : State :=
  let s1 := updateRoutes s
  checkPartition (raise 1072 (sendAll .linkNews [ownStation s1, upBits s1] [] s1))

/-- A link with its sequences, credits and lock as at the start of training; what it counts is kept. -/
def Link.fresh (x : Link) (st : LinkSt) : Link :=
  { x with state := st, refuse := 0, version := 0, lock := 0, txSeq := 0, rxSeq := 0, replay := [], nakSent := false, stuck := 0, stuckSeq := 0,
           unacked := 0, used := [], occ := [], queue := [] }

/-- Training starts; while LINK_SB reads low the link stays Down, and where R616 gives no peer it is Unused (R616, R888). -/
def trainState (s : State) (l : Nat) (x : Link) : LinkSt :=
  if inCaravan s ∧ (nextStation s (ownStation s) l).isNone then .unused else if x.sideband then .down else .training

/-- Kindling step 4 ends: LINK_SB is released and the links train (R887). -/
def startLinks (s : State) : State :=
  (List.range 4).foldl (fun s l => setLink l (Link.fresh (getLink s l) (trainState s l (getLink s l))) s) s

/-- Flits kept for replay: the last 256 (R609). -/
def keepReplay (r : List Flit) : List Flit := r.drop (r.length - 256)

/-- Index of a channel's and class's buffer. -/
def bufferOf (f : Flit) : Nat := 2 * (f.flags % 4) + bitsOf f.flags 2 2

/-- Sends a sequenced flit on a link (R609, R614). -/
def sendFlit (l : Nat) (f : Flit) (s : State) : State :=
  let x := getLink s l
  let q := (x.txSeq + 1) % 4096
  let f1 := { f with seq := q, ack := x.rxSeq }
  setLink l { x with txSeq := q, replay := keepReplay (x.replay ++ [f1]), unacked := 0, flits := satAdd max64 x.flits 1
                     used := Tbl.upd 0 x.used (bufferOf f) (· + 1) } s

/-- A credit is held for a flit's channel and class. -/
def hasCredit (s : State) (l : Nat) (f : Flit) : Bool := decide (Tbl.get 0 (getLink s l).used (bufferOf f) < vcBuffer (f.flags % 4))

/-- Takes one from the occupancy of a buffer of a link, and so returns its credit: 8 × link + buffer. -/
def leaveBuffer (k : Nat) (s : State) : State :=
  let x := getLink s (k / 8)
  setLink (k / 8) { x with occ := Tbl.upd 0 x.occ (k % 8) (· - 1) } s

/-- A flit that passes through goes on, in class B after a wrap link or off the dimension-order path (R614, R618). A flit with no
route is dropped; without a credit it waits in its buffer. `k`: that buffer. -/
def forwardFlit (k : Nat) (f : Flit) (s : State) : State :=
  let own := ownStation s
  let r := Tbl.get Route.none s.rte.routes f.dst
  if ¬ r.reach then s
  else
    let off := match dimOrder s own f.dst with | some (l :: _) => decide (l ≠ r.first) | _ => true
    let cls := bitOf f.flags 2 || isWrap s own r.first || off
    let f1 := { f with hops := (f.hops + 1) % 256, flags := bitsSet f.flags 2 2 (b2n cls) }
    if hasCredit s r.first f1 then sendFlit r.first f1 s
    else
      let x := getLink s r.first
      let s1 := setLink r.first { x with queue := x.queue ++ [(k, f1)] } s
      let y := getLink s1 (k / 8)
      setLink (k / 8) { y with occ := Tbl.upd 0 y.occ (k % 8) (· + 1) } s1

/-- Waiting flits go while credits are held; one that has none holds back those of its channel and class. -/
def drainQueue (l : Nat) (s : State) : State :=
  (getLink s l).queue.foldl (fun s e =>
    let x := getLink s l
    if hasCredit s l e.2 ∧ (x.queue.takeWhile (fun q => q ≠ e)).all (fun q => bufferOf q.2 ≠ bufferOf e.2) then
      leaveBuffer e.1 (sendFlit l e.2 (setLink l { x with queue := x.queue.erase e } s))
    else s) s

/-- Flits of a link that goes Down which the next station has not acknowledged, or that waited, go by their new route (R648). -/
def rerouteFlits (l : Nat) (fs : List Flit) (s : State) : State :=
  (fs.filter (fun f => f.kind = 2)).foldl (fun s f => forwardFlit (8 * l + bufferOf f) { f with hops := f.hops - 1 } s) s

/-- A link leaves Up, or starts again: it trains, and what it carried goes another way. -/
def retrainLink (l : Nat) (st : LinkSt) (s : State) : State :=
  let x := getLink s l
  let wasUp := decide (x.state = .up)
  let fs := x.replay ++ x.queue.map (·.2)
  let s1 := x.queue.foldl (fun s e => leaveBuffer e.1 s) s
  let s2 := setLink l (Link.fresh (getLink s1 l) st) s1
  if wasUp then rerouteFlits l fs (linkChange s2) else s2

/-- A link goes Down (R610); the third time within 60 s it is Failed. A Down held by LINK_SB does not count (R888). -/
def linkDown (l : Nat) (held : Bool) (s : State) : State :=
  let x := getLink s l
  let times := if held then x.downTimes else (x.downTimes ++ [s.td17]).filter (fun t => s.td17 ≤ t + 60000000000)
  let failed := decide (3 ≤ times.length)
  let s1 := setLink l { x with downs := satAdd (2 ^ 32 - 1) x.downs 1, downTimes := times } s
  let s2 := raise (1068 + l) (retrainLink l (if failed then .failed else trainState s l x) s1)
  if failed then raise (1068 + l) (logOcc 0x9002 (1068 + l) [3, 0] s2) else s2

/-- LINK_DOWN (R610): a lane of an Up link loses block lock. -/
def execLinkDown (link : Fin 4) (s : State) : Host.Outcome State Fault Refusal :=
  .next (if (getLink s link).state = .up then linkDown link false s else s)

/-- RTE_LK_STATUS.RETRAIN (R610). -/
def retrainBit (link : Nat) (s : State) : State :=
  let x := getLink s link
  if x.state = .unused then s else retrainLink link (trainState s link x) (setLink link { x with downTimes := [] } s)

/-- RETRAIN. -/
def execRetrain (link : Fin 4) (s : State) : Host.Outcome State Fault Refusal := .next (if pfWrites s then retrainBit link s else s)

/-- LINK_SB_CHANGE (R888): the line of a link reads low or high. -/
def execLinkSbChange (link : Fin 4) (level : Bool) (s : State) : Host.Outcome State Fault Refusal :=
  let x := getLink s link
  let s1 := setLink link { x with sideband := !level } s
  .next (if s.mode.mode = .dark ∨ x.sideband = !level then s
    else if level then
      (if x.state = .down ∧ s.kin.done.contains 4 then retrainLink link .training s1 else s1)
    else if x.state = .up then linkDown link true s1
    else if x.state = .training then retrainLink link .down s1
    else s1)

/-! Flits (R607 to R610, R614, R634). -/

/-- A flit of its 256 bytes. -/
def parseFlit (b : List Byte) : Flit :=
  let f := imgField b
  { kind := f 0 1, flags := f 1 1, len := f 2 2, src := f 4 1, dst := f 5 1, hops := f 6 1, seq := f 8 2 % 4096, ack := f 10 2, crd := f 12 2
    msgId := f 14 2, payload := (b.drop 16).take 232 }

/-- The checks of R608 but the CRC hold. -/
def flitOk (b : List Byte) (f : Flit) : Bool :=
  decide (f.len ≤ 232 ∧ ¬ (f.kind = 0 ∧ f.len ≠ 0) ∧ f.flags < 32 ∧ imgField b 8 2 < 4096 ∧ bitsOf f.ack 14 12 = 0 ∧ bitsOf f.crd 7 3 = 0) &&
    zeros b 7 1 && zeros b 248 4 && (f.payload.drop f.len).all (· == 0)

/-- Replays every kept flit after a sequence; the eighth replay in a row from one sequence takes the link Down (R609, R610). -/
def startReplay (l q : Nat) (s : State) : State :=
  let x := getLink s l
  let back := (x.txSeq + 4096 - q) % 4096
  let n := if x.stuck ≠ 0 ∧ x.stuckSeq = q then x.stuck + 1 else 1
  let kept := x.replay.drop (x.replay.length - back)
  let s1 := setLink l { x with replays := satAdd (2 ^ 32 - 1) x.replays 1, stuck := n, stuckSeq := q, flits := satAdd max64 x.flits kept.length, replay := kept } s
  if 8 ≤ n then linkDown l false s1 else s1

/-- The peer has received a sequence good: flits up to it are kept no longer than the last 256 sent, and a replay from before it made
progress. -/
def ackFlits (l q : Nat) (s : State) : State :=
  let x := getLink s l
  let open1 := (x.txSeq + 4096 - q) % 4096
  if x.replay.length < open1 then s
  else setLink l { x with replay := x.replay.drop (x.replay.length - open1), stuck := if x.stuckSeq = q then x.stuck else 0 } s

/-- A flit is dropped: it is counted, and a sequenced one is asked for again (R608, R609). -/
def dropFlit (l : Nat) (crc : Bool) (kind : Nat) (s : State) : State :=
  let x := getLink s l
  let x1 := if crc then { x with crcDrop := satAdd 65535 x.crcDrop 1 } else { x with lenDrop := satAdd 65535 x.lenDrop 1 }
  setLink l { x1 with nakSent := x1.nakSent || decide (kind ≠ 0) } s

/-- A message flit for this station joins its message; with LAST the message is whole (R634). A message already received is
discarded (R648). -/
def takeFlit (f : Flit) (s : State) : State :=
  let vc := f.flags % 4
  let is := fun (p : Partial) => decide (p.src = f.src ∧ p.vc = vc ∧ p.msgId = f.msgId)
  let old := match s.rte.partials.find? is with | some p => p.bytes | none => []
  let bytes := (if bitOf f.flags 3 then [] else old) ++ f.payload.take f.len
  let key := 4 * f.msgId + vc
  let rest := s.rte.partials.filter (fun p => !is p)
  if bitOf f.flags 4 then
    let whole := if (s.rte.inbox.drop (s.rte.inbox.length - 256)).any (fun m => decide (m.1 = f.src ∧ m.2.1 = key)) then [] else [(f.src, key, bytes)]
    { s with rte := { s.rte with partials := rest, inbox := s.rte.inbox ++ whole } }
  else { s with rte := { s.rte with partials := rest ++ [{ src := f.src, vc := vc, msgId := f.msgId, bytes := bytes }] } }

/-- A good flit: what it acknowledges and returns, then, when it is the next in sequence, its content. -/
def goodFlit (l : Nat) (f : Flit) (s : State) : State :=
  let s1 := if bitOf f.ack 15 then startReplay l (f.ack % 4096) s else ackFlits l (f.ack % 4096) s
  if (getLink s1 l).state ≠ .up then s1
  else
    let x := getLink s1 l
    let s2 := drainQueue l (setLink l { x with used := Tbl.upd 0 x.used (2 * (f.crd % 4) + bitsOf f.crd 2 2) (· - bitsOf f.crd 15 8) } s1)
    let y := getLink s2 l
    if f.kind = 0 then s2
    else if f.seq = (y.rxSeq + 1) % 4096 then
      let n := y.unacked + 1
      let s3 := setLink l { y with rxSeq := f.seq, nakSent := false, unacked := if 32 ≤ n then 0 else n } s2
      if f.kind ≠ 2 then s3 else if f.dst = ownStation s then takeFlit f s3 else forwardFlit (8 * l + bufferOf f) f s3
    else if (y.rxSeq + 4096 - f.seq) % 4096 < 2048 then s2
    else setLink l { y with nakSent := true } s2

/-- FLIT_RECEIVE (R608, R609, R614, R618, R634): the 256 bytes of a flit on an Up link. -/
def execFlitReceive (link : Fin 4) (bytes : List Byte) (s : State) : Host.Outcome State Fault Refusal :=
  let b := fitBytes 256 bytes
  let f := parseFlit b
  .next (if (getLink s link).state ≠ .up then s
    else if crc32c (b.take 252) ≠ imgField b 252 4 then dropFlit link true f.kind s
    else if ¬ flitOk b f then dropFlit link false f.kind s
    else goodFlit link f s)

/-- NAK (R609): the peer names the last sequence it received good. -/
def execNak (link : Fin 4) (seq : BitVec 12) (s : State) : Host.Outcome State Fault Refusal :=
  .next (if (getLink s link).state = .up then startReplay link seq.toNat s else s)

/-- ACK_TIMER (R609): 1 µs after a flit, an idle flit acknowledges. -/
def execAckTimer (link : Fin 4) (s : State) : Host.Outcome State Fault Refusal :=
  let x := getLink s link
  .next (if x.state = .up ∧ 0 < x.unacked then setLink link { x with unacked := 0, flits := satAdd max64 x.flits 1 } s else s)

/-! Census (R615). -/

/-- A link control flit, its payload left open by the spec. -/
def controlFlit (s : State) : Flit :=
  { kind := 1, flags := 0, len := 0, src := ownStation s, dst := ownStation s, hops := 0, seq := 0, ack := 0, crd := 0, msgId := 0, payload := [] }

/-- CREDIT_CENSUS: once a second a link's census goes to the peer. -/
def execCreditCensus (link : Fin 4) (s : State) : Host.Outcome State Fault Refusal :=
  .next (if (getLink s link).state = .up then sendFlit link (controlFlit s) s else s)

/-- CENSUS_RECEIVE: for each channel and class, sender credits, flits in flight and receiver occupancy at the stated sequence. Where they
do not make the buffer, the link is retrained, which restores every credit. -/
def execCensusReceive (link : Fin 4) (credits inFlight occupancy : List Nat) (s : State) : Host.Outcome State Fault Refusal :=
  let bad := (List.range 8).find? (fun i => decide (listGet 0 credits i + listGet 0 inFlight i + listGet 0 occupancy i ≠ vcBuffer (i / 2)))
  .next (if (getLink s link).state ≠ .up then s
    else match bad with
      | none => s
      | some i =>
        let d := leBytes 1 (i / 2) ++ leBytes 1 (i % 2) ++ leBytes 2 (listGet 0 credits i) ++ leBytes 2 (listGet 0 inFlight i) ++ leBytes 2 (listGet 0 occupancy i)
        raise (1068 + link) (logOcc 0x9001 (1068 + link) d (retrainLink link (trainState s link (getLink s link)) s)))

/-! Coming up (R611, R612). -/

/-- LINK_TRAINED (R611): both lanes have block lock, and HELLO goes out. -/
def execLinkTrained (link : Fin 4) (s : State) : Host.Outcome State Fault Refusal :=
  let x := getLink s link
  .next (if x.state = .training then sendFlit link (controlFlit s) (setLink link { x with lock := 3 } s) else s)

/-- The cause for which a link is refused, 0 for none (R612). -/
def helloCause (s : State) (l : Nat) (h : HelloMsg) : Nat :=
  let both := inCaravan s ∧ h.caravan ≠ 0
  if ¬ h.versions.contains 1 then 1
  else if both ∧ h.caravan.toNat ≠ s.rte.record.id then 2
  else if both ∧ nextStation s (ownStation s) l ≠ some (8 * h.y + h.x) then 3
  else if h.is200 ≠ is200 s then 4 else 0

/-- HELLO (R611, R612): the peer's HELLO on a trained link. -/
def execHello (link : Fin 4) (hello : HelloMsg) (s : State) : Host.Outcome State Fault Refusal :=
  let x := getLink s link
  let c := helloCause s link hello
  .next (if x.state ≠ .training ∨ x.lock ≠ 3 then s
    else if c ≠ 0 then
      raise (1068 + link) (logOcc 0x9002 (1068 + link) (4 :: leBytes 1 c) (setLink link { x with state := .refused, refuse := c, peer := hello.station, peerLink := hello.link } s))
    else
      let s1 := setLink link { x with state := .up, version := 1, peer := hello.station, peerLink := hello.link } s
      let s2 := { s1 with rte := { s1.rte with fwSets := Tbl.put 0 s1.rte.fwSets hello.station hello.fwSet
                                               variants := Tbl.insert s1.rte.variants hello.station (b2n hello.is200) } }
      linkChange s2)

/-- LINK_STATE_NEWS (R617): a member's Up links. -/
def execLinkStateNews (station : Fin 64) (links : BitVec 4) (s : State) : Host.Outcome State Fault Refusal :=
  .next (if s.mode.mode = .dark ∨ ¬ inCaravan s ∨ station.val = ownStation s then s
    else checkPartition (raise 1072 (updateRoutes { s with rte := { s.rte with linkMap := Tbl.put 0 s.rte.linkMap station links.toNat } })))

end Sys2Proof.Machine
end

