-- ==== Sys2Proof/Machine/Boot.lean ====
section
/-! DEFINITION. Kindling: its start, its steps, the map's reconstruction and the media's recovery (R31 to R39, R82, R87, R137 to R139,
R842, R844). -/

namespace Sys2Proof.Machine

/-! The start (R17, R31, R786, R842, R903). -/

/-- Kindling begins; `dark`: it begins from Dark. What is not MRAM, NOR, flash or fuse starts afresh. A Kindling that starts over is no state
change and has no record. DESIGN CHOICE (log entry 88): the spec gives no MSC_STATE value for Dark; the record of a Kindling from Dark has 0 as
the value before. -/
def startKindling (dark : Bool) (s : State) : State :=
  let before := if dark then 0 else mscState s
  let clean := s.med.clean
  let flushed := s.pwr.flushed
  let cfgs := s.drm.cfgs.map (fun e => (e.1, ({ e.2 with grain := e.2.grainNext, hash := e.2.hashNext } : DramCfg)))
  let s1 := enterDark false s
  let now := if dark then 0 else s.td17
  let life := s1.host.life
  let s2 := { s1 with
    td17 := now
    mode := { s1.mode with mode := .kindling }
    cnt := { s1.cnt with powerCycles := if dark then satAdd (2 ^ 24 - 1) s1.cnt.powerCycles 1 else s1.cnt.powerCycles }
    pwr := { PwrState.kindle s1.pwr with charged := false, flushed := false }
    med := { s1.med with clean := false, epoch := if dark then s.med.epoch + s.td17 else s.med.epoch }
    rte := { s1.rte with straps := s1.cfg.straps, station := s1.cfg.straps % 64 }
    drm := { s1.drm with cfgs := if dark then [] else cfgs }
    kin := { KinState.kindle s1.kin now s1.cfg.straps clean with lastMs := s1.kin.lastMs }
    host := { s1.host with life := if flushed then { life with unsafeShutdowns := life.unsafeShutdowns + 1 } else life } }
  let s3 := logScan s2
  if s.mode.mode = .kindling then s3 else noteState before s3

/-- PWR_EN_ASSERTED (R31, R822): the supply lies within 9.0 to 60.0 V. -/
def execPwrEnAsserted (s : State) : Host.Outcome State Fault Refusal :=
  let s1 := { s with pwr := { s.pwr with pwrEn := true, mainIn := s.pwr.mainIn || decide (s.mode.mode = .dark) } }
  .next (if s.mode.mode = .dark ∧ ¬ s.pwr.needHold then startKindling true s1 else s1)

/-- INPUT_RESTORED (R822): the input has held for 10 ms with PWR_EN asserted. -/
def execInputRestored (s : State) : Host.Outcome State Fault Refusal :=
  .next (if s.mode.mode = .dark ∧ s.pwr.pwrEn then
      startKindling true { s with pwr := { s.pwr with mainIn := true, needHold := false } }
    else s)

/-! The map (R82, R83, R87). -/

/-- Every segment copy on the map-log pages that can be read: a faulted die port gives none, and `bad` names pages that do not decode, by
4 × die port + plane and 4,096 × plane block + page. -/
def mapLogSegs (bad : List (Nat × Nat)) (s : State) : List SegCopy :=
  (s.med.pages.filter (fun e => portOk s (e.1 / 2 ^ 25) ∧ ¬ bad.contains (e.1 / 2 ^ 23, e.1 % 2 ^ 23))).flatMap (fun e =>
    match e.2.body with | .ckpt l => l | _ => [])

/-- The copy of each segment with the highest capture sequence. -/
def newestSegs (l : List SegCopy) : List SegCopy :=
  l.foldl (fun acc c =>
    match acc.find? (fun d => segId d = segId c) with
    | some d => if d.cap < c.cap then acc.map (fun x => if segId x = segId c then c else x) else acc
    | none => acc ++ [c]) []

/-- The sequence up to which a segment was captured. -/
def capOf (segs : List SegCopy) (id : Bool × Nat × Nat × Nat) : Nat := ((segs.find? (fun c => segId c = id)).map (·.cap)).getD 0

/-- Stores a directory entry without a record. -/
def putDir (nsid bale : Nat) (d : DirEntry) (s : State) : State :=
  { s with med := { s.med with dir := Tbl.put DirEntry.empty s.med.dir (baleKey nsid bale) d } }

/-- A directory entry of a checkpoint. -/
def bootDir (nsid bale : Nat) (d : DirEntry) (s : State) : State :=
  let s1 := putDir nsid bale d s
  { s1 with med := { s1.med with dirDur := Tbl.put DirEntry.empty s1.med.dirDur (baleKey nsid bale) d } }

/-- Replays one record; grains whose segment was captured later are skipped (R82, R87). -/
def replayRec (segs : List SegCopy) (s : State) (r : JRec) : State :=
  let new := fun (n b g : Nat) => decide (capOf segs (false, n, b, g / 512) < r.seq)
  match r.body with
  | .mapSet n b items =>
    if n = 0 then s else items.foldl (fun s x => if new n b x.1 then setEntry n b x.1 x.2 s else s) s
  | .mapMove n b items =>
    items.foldl (fun s x =>
      let cur := mapEntry s (mapKey n b x.1)
      if new n b x.1 ∧ cur ≠ 0 ∧ cur / 16 = x.2.1 / 16 then setEntry n b x.1 (withPresent x.2.2 (enPresent cur)) s else s) s
  | .mapTrim n b f c =>
    (rangeGrains (16384 * b + f) c).foldl (fun s g =>
      let e := mapEntry s (mapKey n b g.2.1)
      if new n b g.2.1 ∧ e ≠ 0 then setEntry n b g.2.1 (withPresent e (Nat.land (enPresent e) (15 - g.2.2))) s else s) s
  | .baleDir w =>
    let n := w % 2 ^ 32
    let b := bitsOf w 63 32
    let d := wordDir w
    if capOf segs (true, n, 0, b / 192) < r.seq then
      (let s1 := applyDir w (putDir n b d s)
       if d.state = 0 ∨ d.state = 2 then dropMap n b s1 else s1)
    else s
  | _ => s

/-- The records that replay takes: from a sequence on, up to the first whose CRC fails or whose sequence is not one greater than the last
(R82). The model writes no record of a reserved TYPE. -/
def goodRecords : Nat → List JRec → List JRec
  | _, [] => []
  | n, r :: l => if r.torn ∨ r.seq ≠ n then [] else r :: goodRecords (n + 1) l

/-- Replay ends: the record at which it stopped and everything after it are discarded. DEDUCED (log entry 99): the next record has the number
of the first discarded one, for a gap would end every later replay (R72, R82). -/
def cutJournal (s : State) : State :=
  let first := max 1 s.med.ckptSeq
  let l := goodRecords first s.med.journal
  { s with med := { s.med with journal := l, seq := first - 1 + l.length, durSeq := first - 1 + l.length } }

/-- A lone module's directory names itself alone: a caravan that it has left keeps no entry (R71). -/
def ownDir (s : State) : State :=
  if inCaravan s then s
  else
    let mine := fun (t : Tbl DirEntry) => t.filter (fun e => decide (e.2.station = ownStation s))
    { s with med := { s.med with dir := mine s.med.dir, dirDur := mine s.med.dirDur } }

/-- The map blocks of the bales that this station holds are written anew (R67, R754). -/
def fillMapBlocks (s : State) : State :=
  let s1 := (List.range 8).foldl (fun s w => clearPages w (fun p => decide (2 ^ 20 ≤ p)) s) s
  s1.med.map.foldl (fun s e =>
    let d := Tbl.get DirEntry.empty s.med.dir (e.1 / 4096)
    if d.blockIx = 0 ∨ d.station ≠ ownStation s then s else touchRun d.wing (mapBlockAddr d.blockIx + 6 * (e.1 % 4096)) 6 s) s1

/-- Step 6: the newest segments, then the journal (R82, R87). -/
def rebuildMap (bad : List (Nat × Nat)) (s0 : State) : State :=
  let s := cutJournal s0
  let segs := newestSegs (mapLogSegs bad s)
  let s1 := segs.foldl (fun s c =>
    c.entries.foldl (fun s e => if c.dir then bootDir c.nsid e.1 (wordDir e.2) s
      else { s with med := { s.med with map := Tbl.put 0 s.med.map (mapKey c.nsid c.bale e.1) e.2 } }) s) s
  fillMapBlocks (ownDir (s1.med.journal.foldl (replayRec segs) s1))

/-! Step 7 (R137 to R139, R160, R199, R203, R592). -/

/-- The pages of a die block, with their slots. -/
def blockPages (s : State) (bk : Nat) : List (Nat × PageBody) :=
  let p := blkPort bk
  let keys := (List.range 4).map (fun pl => (4 * p + pl) * 2 ^ 11 + physOf s p pl (bk % 1024))
  (s.med.pages.filter (fun e => keys.contains (e.1 / 2 ^ 12))).map (fun e => (4 * (e.1 % 2 ^ 12) + e.1 / 2 ^ 23 % 4, e.2.body))

/-- The highest slot of a die block whose page header passes its CRC, plus 1; 0 for none. -/
def slotsDone (s : State) (bk : Nat) : Nat := (((blockPages s bk).filter (fun e => e.2 ≠ .torn)).map (fun e => e.1 + 1)).foldl max 0

/-- An open block resumes after the unit that follows its last programmed one, which is skipped; with none programmed, its first unit is
skipped if a program of it was cut short (R137, R139). -/
def recoverOpen (s : State) (bk : Nat) : State :=
  let b := getBlk s bk
  let u := if b.role = .qlc then 16 else 1
  let n := slotsDone s bk
  let unit := (n + u - 1) / u
  if n = 0 ∧ (blockPages s bk).isEmpty then setBlk bk { b with next := 0 } s
  else
    let cut := min (slotsOf b.role) ((unit + 1) * u)
    let skip := ((List.range u).map (fun i => unit * u + i)).filter (fun i => i < cut)
    setBlk bk { b with next := cut, skipped := b.skipped ++ skip.filter (fun i => !b.skipped.contains i) } s

/-- A bale found Moving: a lone module resumes the move, a member of a caravan asks the others what they hold of it (R199, R203; log entry
44). -/
def recoverMove (s : State) (e : Nat × DirEntry) : State :=
  let n := e.1 / 2 ^ 32
  let b := e.1 % 2 ^ 32
  if ¬ inCaravan s then resumeMove n b s
  else ((members s).filter (· ≠ ownStation s)).foldl (fun s m => send m .order [ordMoveAsk, n, b] [] [] s) s

/-- Kindling ends with a bale of a caravan still Moving, since nobody could be asked: with entries in another wing its move goes on, else it is
given up (R199, R203; log entry 44). -/
def unansweredMove (s : State) (e : Nat × DirEntry) : State :=
  let n := e.1 / 2 ^ 32
  let b := e.1 % 2 ^ 32
  let spread := s.med.map.any (fun x => decide (x.1 / 4096 = e.1 ∧ portWing (enPort x.2) ≠ e.2.wing))
  if (findMove s n b).isSome then s
  else if spread ∨ ¬ inCaravan s then resumeMove n b s
  else setDir n b { e.2 with state := 1 } .nothing s

/-- A port whose used reserve waits for the erase of a block of the forecourt's part (R160). -/
def reserveWaits (s : State) (e : Nat × DieBlock) : Bool :=
  let p := blkPort e.1
  decide (e.2.state = .pending) && portOk s p && decide ((getBlk s (reserveBlk s p)).state ≠ .free) &&
    (decide (e.1 = reserveBlk s p) || mayServe s p (e.1 % 1024) .forecourt)

/-- The relocations that go on: of the grains on faulted die ports, whose rebuild is completed, and of those in retired blocks (R140, R158). -/
def resumeRelocs (s : State) : State :=
  (s.med.blocks.filter (fun e => e.2.state = .retired ∨ s.med.faulted.contains (blkPort e.1))).foldl (fun s e =>
    relocateBlock e.1 (if s.med.faulted.contains (blkPort e.1) then .rebuild else .retire) s) s

/-- Step 7. -/
def recoverMedia (s : State) : State :=
  let opened := (s.med.blocks.filter (fun e => e.2.state = .opened)).map (·.1)
  let s1 := opened.foldl recoverOpen s
  let idle := (s1.med.blocks.filter (fun e => e.2.state = .sealed ∧ e.2.role ≠ .mapLog ∧ !pointsInto s1 e.1)).map (·.1)
  let s2 := idle.foldl (fun s bk => setBlk bk { getBlk s bk with heldBy := opened } s) s1
  let s3 := { s2 with med := { s2.med with sources := s2.med.sources ++ idle } }
  let s4 := resumeRelocs ((List.range 1024).foldl (fun s p => if portOk s p then restoreReserve s p else s) s3)
  let erase := s4.med.blocks.map (fun e => if reserveWaits s4 e then (e.1, { e.2 with erasing := true }) else e)
  let empty := (s4.med.dir.filter (fun e => e.2.state = 1 ∧ e.2.station = ownStation s4 ∧ !s4.med.map.any (fun x => x.1 / 4096 = e.1))).map (fun e =>
    (e.1 / 2 ^ 32, e.1 % 2 ^ 32))
  let s5 := formatFinish { s4 with med := { s4.med with blocks := erase, emptyWait := empty } }
  let s6 := (movingBales s5).foldl recoverMove s5
  if s6.sec.newRoot then sanitizeWork 4 s6 else s6

/-! Keys, DRAM, caravan, audit. -/

/-- The root key at step 3 (R689, R734). -/
def unwrapRoot (s : State) : State :=
  let good := match s.sec.blobA, s.sec.blobB with
    | .good k, _ => some k
    | _, .good k => some k
    | _, _ => none
  match good with
  | some k => { s with sec := { s.sec with root := some (beBytes 32 k.toNat), xts := true } }
  | none =>
    if s.sec.blobA = .erased ∨ s.sec.blobB = .erased then
      let k := Config.random256 s.free
      raise 1067 { s with free := s.free + 1, sec := { s.sec with blobA := .good k, blobB := .good k, root := some (beBytes 32 k.toNat), xts := true,
                                                                   newRoot := true } }
    else extinguish 0x05 s

/-- Marks a device failed (R746, R759). -/
def markDevice (w d : Nat) (byHost : Bool) (s : State) : State :=
  let c := getDram s w
  let v := Tbl.get DramDev.fresh c.devs d
  let s1 := setDram w { c with devFailedSeen := true, devs := Tbl.put DramDev.fresh c.devs d { v with failed := true, byHost := byHost } } s
  raise (1040 + w) (logOcc 0x2003 (1040 + w) (leBytes 1 d ++ leBytes 1 (b2n byHost)) s1)

/-- The training of every channel ends; `devices`: channel and device of each that failed (R745, R746). -/
def trainDram (devices : List (Nat × Nat)) (s : State) : State :=
  let ms := (s.td17 - s.kin.startNs) / 1000000
  let s1 := (List.range 8).foldl (fun s w =>
    let ds := ((devices.filter (fun x => x.1 = w ∧ x.2 < 10)).map (·.2)).dedup
    let c := getDram s w
    let s0 := setDram w { c with trainDone := true, trainMs := ms, trainFail := (ds.map (fun d => 2 ^ d)).sum } s
    ds.foldl (fun s d => markDevice w d false s) s0) s
  if (List.range 8).any (fun w => [0, 1].any (fun b => decide (2 ≤ (failedDevs (getDram s1 w) b).length))) then extinguish 0x02 s1 else s1

/-- The first arrival in Lit on an image burns its security version and revocations (R738). -/
def burnFuses (s : State) : State :=
  let img := s.kin.image
  let svn := if imgBurn img ∧ s.sec.svn < imgSvn img then min 64 (imgSvn img) else s.sec.svn
  let rev := Nat.lor s.sec.revoked (Nat.land (imgRevoke img) (15 - 2 ^ imgKeyIndex img))
  if img = [] ∨ (svn = s.sec.svn ∧ rev = s.sec.revoked) then s
  else logOcc 0x5004 1067 (leBytes 1 svn ++ leBytes 1 rev) { s with sec := { s.sec with svn := svn, revoked := rev } }

/-- A member that becomes Lit: it leads until it hears of a lower member, and asks its partner for the mirrors that it holds (R194, R210). -/
def rejoinStart (s : State) : State :=
  if ¬ inCaravan s ∨ s.rte.mismatched then s
  else
    let s1 := { s with rte := { s.rte with states := Tbl.put 0 s.rte.states (ownStation s) 1 }
                       plc := { s.plc with reconcile := decide (1 < (members s).length) } }
    if s.plc.partner = 0 then s1 else send (s.plc.partner - 1) .order [ordPartner, 1] [] [] s1

/-- Every check has passed: Lit (R32, R38, R842). -/
def enterLit (s : State) : State := settleAll (rejoinStart (sanitizeResume (burnFuses (setMode .lit 0 (kindlingEnds s)))))

/-- The steps that are to be done before a step begins (R842). -/
def stepAfter (n : Nat) : List Nat :=
  match n with
  | 1 => []
  | 2 => [1]
  | 3 => [2]
  | 4 => [3]
  | 5 => [3]
  | 6 => [4]
  | 7 => [6]
  | 8 => [7]
  | 9 => [1, 2, 3, 4, 5, 6, 7, 8]
  | _ => [0]

/-- What lies outside the sequence and holds a step back: the endpoint for step 4, the hold-up check for step 5, and for step 9 the ember
reserve of every port (R160). -/
def stepReady (s : State) (n : Nat) : Bool :=
  if n = 4 then !s.host.perst && s.host.linkUp else if n = 5 then s.pwr.passed
  else if n = 9 then !s.med.blocks.any (reserveWaits s) else true

/-- The forecourt's size and allowance in the mode that the Light List gives (R91, R92, R117). -/
def forecourtStart (s : State) : State :=
  { s with med := { s.med with fcBlocks := if s.med.compat then compatBlocks s else s.med.fcBlocks, allowance := if s.med.compat then 100 else 2000 } }

/-- The causes of spares exhausted that are there again: a plane without a spare for a block that needs one, too many faulted ports (R50,
R148, R842). -/
def sparesGone (s : State) : Bool :=
  portsShort s || s.med.blocks.any (fun e => decide (e.2.state = .retired) && portOk s (blkPort e.1) && e.2.failed.any (sparesShort s (blkPort e.1)))

/-- What a step has done when it ends. `bits`: for step 1 the wings that fail R833, for step 2 the slots that the NOR cannot read, for step
3 the copies that MRAM cannot read. `devices`: for step 4 the DRAM devices that fail training, for step 6 the map-log pages that no read
decodes. -/
def kindlingStep (n bits : Nat) (devices : List (Nat × Nat)) (s : State) : State :=
  match n with
  | 1 => ((List.range 8).filter (fun w => bitOf bits w)).foldl (fun s w => wingFault w 3 s) s
  | 2 => bootChoose bits s
  | 3 =>
    let s1 := forecourtStart (llSelect bits s)
    if s1.mode.mode = .kindling then unwrapRoot s1 else s1
  | 4 => startLinks (trainDram devices s)
  | 6 =>
    let s1 := rebuildMap devices s
    if sparesGone s1 then extinguish 0x01 s1 else s1
  | 7 => recoverMedia s
  | 8 =>
    let s1 := (movingBales s).foldl unansweredMove s
    { s1 with rte := { s1.rte with partition := minority s1 } }
  | 9 =>
    let s1 := auditAll s
    if s1.mode.mode ≠ .kindling then s1
    else if (List.range 11).any (fun r => decide (2 ≤ regionVotes s1 r)) then extinguishBy 0x04 4 s1 else enterLit s1
  | _ => s

/-- KINDLING_STEP_DONE (R842): the step's conditions hold; a failed check extinguishes the module and Kindling goes no further. -/
def execKindlingStepDone (step : Fin 10) (bits : BitVec 8) (devices : List (Nat × Nat)) (s : State) : Host.Outcome State Fault Refusal :=
  let n : Nat := step
  .next (if s.mode.mode ≠ .kindling ∨ s.med.flush.isSome ∨ s.kin.resetPending ∨ s.kin.done.contains n ∨
      ¬ (stepAfter n).all (fun m => s.kin.done.contains m) ∨ ¬ stepReady s n then s
    else
      let s1 := kindlingStep n bits.toNat devices s
      if s1.mode.mode = .kindling then { s1 with kin := { s1.kin with done := s1.kin.done ++ [n] } } else s1)

/-! Resets (R39, R50, R507, R867). -/

/-- An orderly shutdown has nothing left to do: commands, but event requests, have completed, and forecourt and journal are closed (R39, R913;
log entry 45). -/
def isClosed (s : State) : Bool :=
  s.host.out.all isEventRequest && s.host.locks.isEmpty && s.host.foreign.isEmpty &&
    (pendingItems s).isEmpty && s.med.landed.isEmpty && allDurable s

/-- The fundamental reset is released, or an NVM Subsystem Reset goes on: Kindling, once a Lit module has closed (R39, R50). -/
def releaseReset (s : State) : State :=
  if s.med.flush.isSome then s
  else match s.mode.mode with
    | .dark => s
    | .lit => if isClosed s then startKindling false { s with med := { s.med with clean := true } } else s
    | .kindling => startKindling false s
    | .extinguished => startKindling false s

/-- EMBER_FLUSH_END (R41, R43, R163, R822, R843): what a flush kept back is posted; a reset that came during it goes on (R50). -/
def execEmberFlushEnd (s : State) : Host.Outcome State Fault Refusal :=
  .next (match s.med.flush with
    | none => s
    | some f =>
      if f.step ≠ 6 then s
      else
        let us := min 65535 ((s.td17 - s.pwr.flushStart) / 1000)
        let lost := s.pwr.lostMain || !s.pwr.mainIn
        let s1 := { s with
          pwr := { s.pwr with flushLast := us, flushMax := max s.pwr.flushMax us }
          med := { s.med with flush := none, clean := !lost }
          log := { s.log with flushing := false } }
        if f.toDark ∨ lost ∨ s.mode.mode ≠ .extinguished then enterDark true s1
        else
          let s2 := setCritWarn 2 true (settleExt (postDeferred (fun _ => true) s1))
          let s3 := if inCaravan s2 then sendAll .leave [ownStation s2] [] s2 else s2
          if s3.kin.resetPending ∧ ¬ s3.host.perst then releaseReset s3 else s3)

/-- PERST_ASSERTED (R39, R551, R653). -/
def execPerstAsserted (s : State) : Host.Outcome State Fault Refusal :=
  let s1 := { s with host := { s.host with perst := true, linkUp := false } }
  .next (if s.host.perst then s
    else if s.mode.mode = .dark then s1
    else relockDebug (roleEnds { s1 with kin := { s1.kin with resetPending := true } }))

/-- PERST_DEASSERTED (R34, R39, R842): a first deassertion lets the endpoint train; one that follows an assertion begins Kindling, at once or
when the closing or the ember flush ends. -/
def execPerstDeasserted (s : State) : Host.Outcome State Fault Refusal :=
  let s1 := { s with host := { s.host with perst := false } }
  .next (if ¬ s.host.perst then s else if s.mode.mode = .dark ∨ ¬ s.kin.resetPending then s1 else releaseReset s1)

/-- An NVM Subsystem Reset: fetching stops; once the module has closed, or its ember flush has ended, Kindling begins. -/
def subsystemReset (s : State) : State :=
  if s.mode.mode = .dark then s else releaseReset { s with kin := { s.kin with resetPending := true } }

/-- NVM_SUBSYSTEM_RESET (R39). -/
def execNvmSubsystemReset (s : State) : Host.Outcome State Fault Refusal := .next (if s.host.linkUp then subsystemReset s else s)

/-- NVMe-MI Reset (R39, R553). -/
def execMiReset (s : State) : Host.Outcome State Fault Refusal := .next (subsystemReset s)

/-- CONFIG_REQUEST (R34): answered normally while the endpoint answers, else with Request Retry Status. -/
def execConfigRequest (s : State) : Host.Outcome State Fault Refusal :=
  .next { s with host := { s.host with cfgReady := decide (s.mode.mode ≠ .dark) && s.host.linkUp && !s.host.perst } }

end Sys2Proof.Machine
end

