-- ==== Sys2Proof/Machine/Fetch.lean ====
section
/-! DEFINITION. Doorbells, command fetch, the checks before any effect, and admission (chapters 1, 12, 13, 15). -/

namespace Sys2Proof.Machine

/-! Further statuses. -/

/-- Asymmetric Access Inaccessible. -/
def stInaccessible : Status := mkStatus 3 0x02
/-- Invalid Queue Identifier. -/
def stQid : Status := mkStatus 1 0x01
/-- Invalid Log Page. -/
def stLogPage : Status := mkStatus 1 0x09
/-- Feature Identifier Not Saveable. -/
def stNotSaveable : Status := mkStatus 1 0x0D
/-- Abort Command Limit Exceeded. -/
def stAbortLimit : Status := mkStatus 1 0x03
/-- Controller List Invalid. -/
def stCtrlList : Status := mkStatus 1 0x1C
/-- Invalid Secondary Controller State. -/
def stSecondary : Status := mkStatus 1 0x20

/-! Opcodes that the companion command sets define (R276; log entry 21). -/

def opMemWrite : Nat := 0x01
def opMemRead : Nat := 0x02
def opMemCopy : Nat := 0x19
def opLoadProgram : Nat := 0x85
def opProgAct : Nat := 0x88
def opRangeSet : Nat := 0x89

/-- Places a record at the head of the Error Information log (R510, R534). -/
def addError (fn sq cid : Nat) (st : Status) (loc lba nsid : Nat) (s : State) : State :=
  let n := s.host.errorCount + 1
  let e : ErrEntry := { count := n, fn := fn, sqid := sq, cid := cid, status := st, loc := loc, lba := lba, nsid := nsid }
  { s with host := { s.host with errorCount := n, errors := (e :: s.host.errors).take 256 } }

/-- The function exists: the PF, or an enabled VF (R511). -/
def fnPresent (s : State) (fn : Nat) : Bool := decide (fn = 0) || (s.host.vfEnable && decide (fn ≤ s.host.numVfs))

/-- The function's registers are reached: power, link up, function present and in D0. -/
def fnReach (s : State) (fn : Nat) : Bool :=
  decide (s.mode.mode ≠ .dark) && s.host.linkUp && fnPresent s fn && !(getCtrl s fn).d3

/-- Submission queues that a function's doorbells name: up to 8,192 on the PF, 1,024 on a VF (R509). -/
def doorbellLimit (fn : Nat) : Nat := if fn = 0 then 8192 else 1024

/-- A write of an SQ tail doorbell (R510, R671). -/
def sqDoorbell (fn y tail : Nat) (s : State) : State :=
  let c := getCtrl s fn
  match Tbl.find c.sqs y with
  | some q => if tail < q.size then setCtrl fn { c with sqs := Tbl.insert c.sqs y { q with tail := tail } } s else s
  | none => addError fn y 0xFFFF stQid 0xFFFF 0 0 s

/-- A write of a CQ head doorbell (R509, R510). -/
def cqDoorbell (fn y head : Nat) (s : State) : State :=
  let c := getCtrl s fn
  match Tbl.find c.cqs y with
  | some q => if head < q.size then setCtrl fn { c with cqs := Tbl.insert c.cqs y { q with head := head } } s else s
  | none => addError fn y 0xFFFF stQid 0xFFFF 0 0 s

/-- SQ_TAIL_DOORBELL. -/
def execSqTailDoorbell (fn : Fin 1024) (sq tail : BitVec 16) (s : State) : Host.Outcome State Fault Refusal :=
  .next (if fnReach s fn ∧ sq.toNat ≤ doorbellLimit fn then sqDoorbell fn sq.toNat tail.toNat s else s)

/-- CQ_HEAD_DOORBELL. -/
def execCqHeadDoorbell (fn : Fin 1024) (cq head : BitVec 16) (s : State) : Host.Outcome State Fault Refusal :=
  .next (if fnReach s fn ∧ cq.toNat ≤ doorbellLimit fn then cqDoorbell fn cq.toNat head.toNat s else s)

/-! Who fetches (R40, R161, R564, R670, R674, R913). -/

/-- A shutdown notification taken while Lit holds back a controller: its own, and the PF's every one (R913). -/
def shutStops (s : State) (fn : Nat) : Bool := decide (s.mode.mode = .lit) && ((getCtrl s fn).shut || (getCtrl s 0).shut)

/-- The queue whose command R564 stalls is served first. -/
def stallStops (s : State) (fn sq : Nat) : Bool :=
  match s.host.stallFor with
  | some x => decide (¬ (x.1 = fn ∧ x.2.1 = sq))
  | none => false

/-- Step 3 of a roll: fetching pauses (R863, R865). -/
def hubSwitching (s : State) : Bool := match s.kin.commit with | some c => decide (c.action = 3 ∧ c.phase = 3) | none => false

/-- The front end may fetch from the queue. -/
def mayFetch (s : State) (fn sq : Nat) : Bool :=
  let c := getCtrl s fn
  fnReach s fn && c.en && c.rdy && !s.host.perst && !s.kin.resetPending && s.med.flush.isNone && fnFetches s fn && !shutStops s fn && !hubSwitching s && !stallStops s fn sq &&
    (match Tbl.find c.sqs sq with | some q => decide (q.head ≠ q.tail) | none => false)

/-- The queue's head moves past the entry that was fetched. -/
def takeEntry (fn sq : Nat) (s : State) : State :=
  let c := getCtrl s fn
  match Tbl.find c.sqs sq with
  | some q => setCtrl fn { c with sqs := Tbl.insert c.sqs sq { q with head := (q.head + 1) % q.size } } s
  | none => s

/-! Checks of admin commands (R44, R45, R528, R529, R538 to R540, R595). -/

/-- The admin opcodes of R528 and of the Computational Programs command set. -/
def adminKnown (opc : Nat) : Bool :=
  [0x00, 0x01, 0x02, 0x04, 0x05, 0x06, 0x08, 0x09, 0x0A, 0x0C, 0x0D, 0x10, 0x11, 0x15, 0x1C, 0x1D, 0x1E, 0x80, 0x84, opLoadProgram, opProgAct,
   opRangeSet].contains opc || (decide (0xC0 ≤ opc) && decide (opc ≤ 0xC9))

/-- Completed with Admin Command Media Not Ready during Kindling. -/
def adminMedia (opc : Nat) : Bool :=
  [0x01, 0x05, 0x0D, 0x15, 0x1C, 0x80, 0x84, opLoadProgram, opProgAct, opRangeSet].contains opc ||
    (decide (0xC0 ≤ opc) && decide (opc ≤ 0xC9) && decide (opc ≠ 0xC8))

/-- Served while Extinguished (R44, R45). -/
def adminExt (q : Sqe) : Bool :=
  [0x02, 0x06, 0x0C, 0x11, 0x84, 0xC8].contains q.opc || (decide (q.opc = 0x10) && decide (bitsOf q.cdw10 5 3 ≤ 2))

/-- Forbidden while a sanitize runs (R595; log entry 21). -/
def adminSanitize (opc : Nat) : Bool := [0x0D, 0x10, 0x11, 0x15, 0x1C, 0x80, 0x84, opLoadProgram, opProgAct, opRangeSet].contains opc

/-- A sanitize operation is in progress, or has failed. -/
def sanRunning (s : State) : Bool := decide (s.host.sanStatus = 2)
def sanFailed (s : State) : Bool := decide (s.host.sanStatus = 3)

/-- A vendor command carries data (R538). -/
def vendorData (opc : Nat) : Bool := [0xC1, 0xC2, 0xC5, 0xC6, 0xC8].contains opc

/-- Data bytes that an admin command's fields call for. -/
def adminLen (q : Sqe) : Nat :=
  if q.opc = 0x02 then 4 * (dw2 (q.cdw10 / 2 ^ 16) 0 + 2 ^ 16 * (q.cdw11 % 2 ^ 16) + 1)
  else if q.opc = 0x06 ∨ q.opc = 0x0D ∨ q.opc = 0x15 then 4096
  else if q.opc = 0x11 then 4 * (q.cdw10 % 2 ^ 32 + 1)
  else if (q.opc = 0x09 ∨ q.opc = 0x0A) ∧ q.cdw10 % 256 = 0x0E then 8
  else if vendorData q.opc then 4 * (q.cdw10 % 2 ^ 32 + 1)
  else if q.opc = 0x1D ∨ q.opc = 0x1E then 4 * (q.cdw10 % 2 ^ 32 + 1)
  else if q.opc = opLoadProgram then q.cdw12
  else if q.opc = opRangeSet ∧ bitsOf q.cdw10 17 16 = 0 then 16 * q.cdw11
  else 0

/-- Data bytes of an I/O command. -/
def ioLen (s : State) (q : Sqe) : Nat :=
  if q.nsid ≤ 1024 then
    (match nsInfo s q.nsid with
     | none => 0
     | some n =>
       if q.opc = 0x01 ∨ q.opc = 0x02 ∨ q.opc = 0x05 then sqeNlb q * blockLen n
       else if q.opc = 0x09 then 16 * (q.cdw10 % 256 + 1) else 0)
  else if q.nsid = computeNsid then q.cdw11
  else if q.opc = opMemRead ∨ q.opc = opMemWrite then q.cdw12
  else if q.opc = opMemCopy then 32 * (q.cdw12 % 256 + 1)
  else 0

/-- The descriptors against the data length (R570 to R573). -/
def sglCheck (len : Nat) (q : Sqe) : Option Status :=
  if 2 ^ 21 < len then some stField
  else match q.sgl with
    | none => none
    | some g =>
      if g.types.any (fun t => ¬ (t = 0 ∨ t = 2 ∨ t = 3)) then some stSglType
      else if g.bytes < len then some stSglLength else none

/-- The status with which an admin command ends before any effect. -/
def adminCheck (s : State) (fn : Nat) (q : Sqe) : Option Status :=
  let vendor := decide (0xC0 ≤ q.opc ∧ q.opc ≤ 0xC9)
  if s.mode.mode = .extinguished ∧ ¬ adminExt q then some (stExt s)
  else if ¬ adminKnown q.opc ∨ (vendor ∧ fn ≠ 0) then some stOpcode
  else if q.fuse ≠ 0 then some stField
  else if vendor ∧ ¬ s.chr.mgrHeld then some stDenied
  else if s.mode.mode = .kindling ∧ adminMedia q.opc then some stMediaNotReady
  else if sanRunning s ∧ adminSanitize q.opc then some stSanitize
  else if vendor ∧ ¬ vendorData q.opc ∧ (q.cdw10 ≠ 0 ∨ ¬ q.dptrZero) then some stField
  else if (q.opc = opLoadProgram ∨ q.opc = opProgAct) ∧ ¬ chrFlag s fn 1 then some stDenied
  else if q.opc = opRangeSet ∧ ¬ chrFlag s fn 2 then some stDenied
  else sglCheck (adminLen q) q

/-! Checks of I/O commands (R46, R47, R529, R530, R557, R558, R573, R595, R657). -/

/-- The station reports its groups as Inaccessible (R47, R620, R631). -/
def inaccessible (s : State) : Bool := inCaravan s && (s.rte.mismatched || s.rte.partition)

/-- The ranges of a Dataset Management: first block and blocks. -/
def dsmRanges (q : Sqe) : List (Nat × Nat) :=
  (List.range (q.cdw10 % 256 + 1)).map (fun i =>
    (leNat ((q.data.drop (16 * i + 8)).take 8), leNat ((q.data.drop (16 * i + 4)).take 4)))

/-- The source descriptors of a Memory Copy: namespace, start, length (blocks of an NVM namespace, bytes of an SLM one). -/
def copySources (q : Sqe) : List (Nat × Nat × Nat) :=
  (List.range (q.cdw12 % 256 + 1)).map (fun i =>
    let d := q.data.drop (32 * i)
    (leNat (d.take 4), leNat ((d.drop 8).take 8), leNat ((d.drop 16).take 4)))

/-- Bytes that a source of a Memory Copy gives. -/
def sourceLen (x : Nat × Nat × Nat) : Nat := if x.1 ≤ 1024 then 4096 * x.2.2 else x.2.2

/-- A block range lies in a namespace. -/
def inNamespace (s : State) (nsid slba nlb : Nat) : Bool :=
  match nsInfo s nsid with | some n => decide (slba + nlb ≤ n.size) | none => false

/-- SLM bytes of a station (R278). -/
def slmBytes : Nat := 2 ^ 33

/-- Checks of the range of a command on an NVM namespace. -/
def nvmCheck (s : State) (q : Sqe) : Option Status :=
  let nlb := sqeNlb q
  if q.opc = 0x00 then none
  else if ¬ [0x01, 0x02, 0x05, 0x08, 0x09, 0x0C].contains q.opc then some stOpcode
  else if (q.opc = 0x08 ∨ q.opc = 0x0C) ∧ 512 < nlb then some stField
  else match sglCheck (ioLen s q) q with
    | some st => some st
    | none =>
      if q.opc = 0x09 then
        if ¬ bitOf q.cdw11 2 then none
        else
          let rs := dsmRanges q
          if rs.any (fun r => 16384 < r.2) ∨ 4194304 < (rs.map (·.2)).sum then some stField
          else if rs.all (fun r => inNamespace s q.nsid r.1 r.2) then none else some stRange
      else if inNamespace s q.nsid (sqeSlba q) nlb then none else some stRange

/-- Checks of a command on an SLM namespace. -/
def slmCheck (s : State) (fn : Nat) (q : Sqe) : Option Status :=
  if ¬ (q.opc = opMemRead ∨ q.opc = opMemWrite ∨ q.opc = opMemCopy) then some stOpcode
  else if ¬ chrFlag s fn 2 then some stDenied
  else match sglCheck (ioLen s q) q with
    | some st => some st
    | none =>
      if q.opc = opMemCopy then
        let src := copySources q
        if slmBytes < sqeSlba q + (src.map sourceLen).sum then some stRange
        else if src.any (fun x => ¬ (x.1 = q.nsid ∨ (x.1 ≤ 1024 ∧ isAttached s fn x.1 ∧ (nsInfo s x.1).isSome))) then some stNamespace
        else if src.all (fun x => if x.1 ≤ 1024 then inNamespace s x.1 x.2.1 x.2.2 else decide (x.2.1 + x.2.2 ≤ slmBytes)) then none
        else some stRange
      else if sqeSlba q + q.cdw12 ≤ slmBytes then none else some stRange

/-- The status with which an I/O command ends before any effect. -/
def ioCheck (s : State) (fn : Nat) (q : Sqe) : Option Status :=
  if s.mode.mode = .extinguished then some (stExt s)
  else if s.mode.mode ≠ .lit then some stNotReady
  else if q.fuse ≠ 0 then some stField
  else if sanRunning s then some stSanitize
  else if sanFailed s then some stSanFailed
  else if inaccessible s then some stInaccessible
  else if q.opc = 0x00 ∧ q.nsid = 0xFFFFFFFF then none
  else if ¬ isAttached s fn q.nsid then some stNamespace
  else if q.nsid = computeNsid then
    if q.opc ≠ opExecute then some stOpcode
    else if ¬ chrExec s fn (q.cdw10 % 2 ^ 16) then some stDenied
    else if 4096 < q.cdw11 then some stField
    else sglCheck q.cdw11 q
  else if q.nsid ≤ 1024 then (if (nsInfo s q.nsid).isSome then nvmCheck s q else some stNamespace)
  else if q.nsid = 1026 + ownStation s then slmCheck s fn q
  else some stNamespace

/-! Admission. -/

/-- Ranges that a command locks: namespace, first block, blocks, place in the data; unit of the place; kind (R555). -/
def lockRanges (q : Sqe) : List (Nat × Nat × Nat × Nat) × Nat × Bool :=
  if q.nsid ≤ 1024 then
    if q.opc = 0x02 ∨ q.opc = 0x05 ∨ q.opc = 0x0C then ([(q.nsid, sqeSlba q, sqeNlb q, 0)], 1, false)
    else if q.opc = 0x01 ∨ q.opc = 0x08 then ([(q.nsid, sqeSlba q, sqeNlb q, 0)], 1, true)
    else if q.opc = 0x09 ∧ bitOf q.cdw11 2 then ((dsmRanges q).map (fun r => (q.nsid, r.1, r.2, 0)), 1, true)
    else ([], 1, false)
  else if q.nsid ≠ computeNsid ∧ q.opc = opMemCopy then
    let src := copySources q
    let offs := (src.foldl (fun (a : List (Nat × Nat × Nat × Nat) × Nat) x =>
      (if x.1 ≤ 1024 then a.1 ++ [(x.1, x.2.1, x.2.2, a.2)] else a.1, a.2 + sourceLen x)) ([], 0)).1
    (offs, 4096, false)
  else ([], 1, false)

/-- Bytes that a command returns to the host through its parts. -/
def resultLen (s : State) (q : Sqe) : Nat :=
  if q.nsid ≤ 1024 ∧ q.opc = 0x02 then
    (match nsInfo s q.nsid with | some n => sqeNlb q * (blockLen n + sepLen n) | none => 0)
  else 0

/-- The command's data comes from the host at once: every such command but Write, whose parts take it as they begin (R778). -/
def toModule (admin : Bool) (q : Sqe) : Bool :=
  if admin then [0x0D, 0x11, 0x15, 0x1D, 0xC1, 0xC2, 0xC6, 0xC8, opLoadProgram, opRangeSet].contains q.opc || decide (q.opc = 0x09 ∧ q.cdw10 % 256 = 0x0E)
  else if q.nsid ≤ 1024 then decide (q.opc = 0x05 ∨ q.opc = 0x09)
  else if q.nsid = computeNsid then true
  else decide (q.opc = opMemWrite ∨ q.opc = opMemCopy)

/-- Separate metadata that a Compare takes from the host (R574). -/
def extraIn (s : State) (q : Sqe) : Nat :=
  if q.nsid ≤ 1024 ∧ q.opc = 0x05 then (match nsInfo s q.nsid with | some n => sqeNlb q * sepLen n | none => 0) else 0

/-- A command joins the outstanding ones. -/
def addCmd (c : OutCmd) (s : State) : State := { s with host := { s.host with out := s.host.out ++ [c] } }

/-- A locking command: enough free entries, or the stall of R564. -/
def fetchLocking (fn sq : Nat) (c : OutCmd) (s : State) : State :=
  let held := s.host.stoppedNs.contains c.sqe.nsid
  let need := (c.parts.filter (fun p => p.owner = ownStation s)).length
  if ¬ held ∧ s.host.lockFree < need then
    if s.host.stallFor.isSome then s else raise 1074 { s with host := { s.host with stallFor := some (fn, sq, need) } }
  else
    let s1 := addCmd { c with held := held } (takeEntry fn sq { s with host := { s.host with stallFor := none }, med := { s.med with clean := false } })
    if held then s1 else admitCmd c.cmd s1

/-- COMMAND_FETCH (R559 to R564, R667): the front end fetches the entry at the head of a queue. -/
def execCommandFetch (fn : Fin 1024) (sq : BitVec 16) (sqe : Sqe) (s : State) : Host.Outcome State Fault Refusal :=
  let r : CmdRef := { fn := fn, sq := sq.toNat, cid := sqe.cid }
  let admin := decide (sq.toNat = 0)
  .next (if ¬ mayFetch s fn sq.toNat ∨ (findCmd s r).isSome then s
    else
      let lr := lockRanges sqe
      let parts := if admin then [] else mkParts s (placesBale sqe) lr.2.1 lr.1
      let c : OutCmd := { cmd := r, sqe := sqe, gen := s.chr.generation, admin := admin, write := lr.2.2, parts := parts, committed := false,
                          silent := false, held := false, data := List.replicate (if admin then 0 else resultLen s sqe) 0, copied := false }
      let len := if admin then adminLen sqe else ioLen s sqe
      let deleting := match Tbl.find (getCtrl s fn).sqs sq.toNat with | some q => q.deleting.isSome | none => false
      let check := if deleting then some stSqDeleted else if admin then adminCheck s fn sqe else ioCheck s fn sqe
      match check with
      | some st =>
        let s1 := if st = stDenied then denied fn 1 s else s
        completeCmd r st 0 0 [] (addCmd { c with parts := [] } (takeEntry fn sq.toNat s1))
      | none =>
        let more := fun (s : State) =>
          let s1 := if toModule admin sqe then (let n := len + extraIn s sqe; cntFnAdd fn 2 n (cntMod 2 n s)) else s
          match sqe.sgl with
          | some g => if len < g.bytes then count 6 1 s1 else s1
          | none => s1
        if parts = [] then more (addCmd c (takeEntry fn sq.toNat s)) else
          let s1 := fetchLocking fn sq.toNat c s
          if (findCmd s1 r).isSome then more s1 else s1)

end Sys2Proof.Machine
end

