-- ==== Sys2Proof/Machine/IoRows.lean ====
section
/-! DEFINITION. The NVM I/O commands and what passes between stations about their parts (chapters 2, 12 to 14). -/

namespace Sys2Proof.Machine

/-- Parts of a command that lie at this station: of its own, or forwarded by another. -/
def partsAt (s : State) (station : Nat) (r : CmdRef) : List PartRef :=
  if station = ownStation s then
    match findCmd s r with
    | some c => c.parts.map (fun p => { station := station, cmd := r, index := p.index })
    | none => []
  else (s.host.foreign.filter (fun f => f.station = station ∧ f.cmd = r)).map (fun f => { station := station, cmd := r, index := f.part.index })

/-- The part runs, its work has not begun, and its command has an opcode of the NVM command set. -/
def canBegin (s : State) (r : PartRef) (opc : Nat) : Bool :=
  match partOf s r, sqeOf s r with
  | some p, some q => decide (p.state = .running) && !p.begun && decide (q.opc = opc) && decide (q.nsid ≤ 1024) && s.med.flush.isNone &&
      decide (s.mode.mode = .lit)
  | _, _ => false

/-- Does an operation on every part of a command at a station that can begin. -/
def forParts (station : Nat) (r : CmdRef) (opc : Nat) (f : PartRef → State → State) (s : State) : State :=
  (partsAt s station r).foldl (fun s pr => if canBegin s pr opc then f pr s else s) s

/-- Notes bytes moved in a bale, and those written (R195). -/
def noteBytes (nsid slba nlb : Nat) (write : Bool) (s : State) : State :=
  (splitRange slba nlb).foldl (fun s x =>
    let k := baleKey nsid (x.1 / 16384)
    let b1 := Tbl.upd 0 s.plc.bytesNow (2 * k) (fun v => v + 4096 * x.2)
    { s with plc := { s.plc with bytesNow := if write then Tbl.upd 0 b1 (2 * k + 1) (fun v => v + 4096 * x.2) else b1 } }) s

/-- Block of the command at which the buffers that this station has start. -/
def bufBase (s : State) (r : PartRef) (p : Part) (q : Sqe) : Nat := if r.station = ownStation s then sqeSlba q else p.slba

/-- The bales of a block range. -/
def baleList (slba nlb : Nat) : List Nat := (splitRange slba nlb).map (fun x => x.1 / 16384)

/-! Mirrors (R190, R193). -/

/-- A write's grains go to the mirror partner; with data none of a grain means that its blocks were deallocated. -/
def sendMirror (r : PartRef) (grains : List (GrainId × GrainImg)) (bytes : Nat) (s : State) : State :=
  if ¬ inCaravan s ∨ s.plc.partner = 0 then s
  else
    let tag := s.plc.nextTag
    let m : MirrorItem := { tag := tag, parts := [r], grains := grains.map (·.1), bytes := bytes, acked := false }
    let s1 := { s with plc := { s.plc with nextTag := tag + 1, mirrors := s.plc.mirrors ++ [m] } }
    updPart r (fun p => { p with mirrors := p.mirrors + 1 }) (send (s.plc.partner - 1) .mirror [tag] [] grains s1)

/-! Write (R74, R102, R190). -/

/-- The media work of a Write's part: a lone module places the bales it needs (R183), the grains land in the write cache and go to the mirror. -/
def writePart (r : PartRef) (s : State) : State :=
  match partOf s r, sqeOf s r with
  | some p, some q =>
    match nsInfo s q.nsid with
    | none => s
    | some n =>
      let s1 := if inCaravan s then s
        else (baleList p.slba p.nlb).foldl (fun s b => if (baleOwner s q.nsid b).isNone then placeLocal q.nsid b s else s) s
      if (r.station ≠ ownStation s ∧ q.data = []) ∨ (baleList p.slba p.nlb).any (fun b => !ownsBale s1 q.nsid b) then s
      else
        let base := bufBase s r p q
        let gs := (rangeGrains p.slba p.nlb).map (fun g =>
          (({ nsid := q.nsid, bale := g.1, grain := g.2.1 } : GrainId), writtenImg s1 n q base g.1 g.2.1 g.2.2, g.2.2))
        let s2 := updPart r (fun p => { p with begun := true }) (noteBytes q.nsid p.slba p.nlb true (markRebuilt q.nsid p.slba p.nlb s1))
        let s3 := if r.station = ownStation s then
            (let k := p.nlb * (blockLen n + sepLen n)
             cntFnAdd r.cmd.fn 2 k (cntMod 2 k s2)) else s2
        let s4 := gs.foldl (fun s g => landGrain { id := g.1, img := { g.2.1 with present := g.2.2 }, why := .host [r] g.2.2 } s) s3
        sendMirror r (gs.map (fun g => (g.1, g.2.1))) (4096 * p.nlb) s4
  | _, _ => s

/-- WRITE (R74): a Write's data has arrived, and its running parts land in the write cache. -/
def execWrite (station : Fin 64) (r : CmdRef) (s : State) : Host.Outcome State Fault Refusal :=
  .next (forParts station r 0x01 writePart s)

/-! Reads (R65, R108, R112). -/

/-- Data and metadata of a part's blocks as the map has them. -/
def partContent (s : State) (n : NsInfo) (p : Part) : List (List Byte × List Byte) :=
  (List.range p.nlb).map (fun i =>
    let L := p.slba + i
    let e := hostEntry s p.nsid (L / 16384) (L % 16384 / 4)
    let img := { imgAt s e with present := enPresent e }
    (blockBytes s p.nsid (L / 4 * 4) img img.present (L % 4), blockMd s p.nsid (L / 4 * 4) img img.present (L % 4) (mdSize n)))

/-- The data buffer's and the metadata buffer's bytes of some blocks. -/
def bufBytes (n : NsInfo) (l : List (List Byte × List Byte)) : List Byte × List Byte :=
  if n.extended then (l.flatMap (fun x => x.1 ++ x.2), []) else (l.flatMap (·.1), l.flatMap (·.2))

/-- Issues the die reads that a part needs; a grain known to be unrecoverable fails the part at once (R108, R140). -/
def issueReads (r : PartRef) (p : Part) (s : State) : State :=
  (rangeGrains p.slba p.nlb).foldl (fun s g =>
    let k := mapKey p.nsid g.1 g.2.1
    let e := hostEntry s p.nsid g.1 g.2.1
    if ownsBale s p.nsid g.1 ∧ Nat.land (lostBlocks s k) g.2.2 ≠ 0 then updPart r (fun x => { x with status := some stUnrecovered }) s
    else if Nat.land (enPresent e) g.2.2 = 0 then s
    else addRead (keyGrain k) e e (.host r) s) s

/-- Stores a part's bytes where the command's result is gathered. -/
def storeData (r : PartRef) (p : Part) (n : NsInfo) (b : List Byte × List Byte) (s : State) : State :=
  if r.station = ownStation s then
    updCmd r.cmd (fun c =>
      let d := spliceAt c.data (p.off * blockLen n) b.1
      { c with data := if b.2 = [] then d else spliceAt d (sqeNlb c.sqe * blockLen n + p.off * sepLen n) b.2 }) s
  else updForeign r (fun f => { f with data := b.1 ++ b.2 }) s

/-- The media work of a part of a command that reads; `use` takes the content. -/
def readPart (use : Part → NsInfo → List (List Byte × List Byte) → State → State) (r : PartRef) (s : State) : State :=
  match partOf s r with
  | none => s
  | some p =>
    match nsInfo s p.nsid with
    | none => s
    | some n =>
      let content := partContent s n p
      let s2 := use p n content (updPart r (fun x => { x with begun := true }) (noteBytes p.nsid p.slba p.nlb false s))
      partRead r (issueReads r p s2)

/-- READ (R65, R108). -/
def execRead (station : Fin 64) (r : CmdRef) (s : State) : Host.Outcome State Fault Refusal :=
  .next (forParts station r 0x02 (fun pr s => readPart (fun p n c s => storeData pr p n (bufBytes n c) s) pr s) s)

/-- The content of a part equals what the host gave (R574). -/
def sameContent (s : State) (r : PartRef) (p : Part) (n : NsInfo) (c : List (List Byte × List Byte)) : Bool :=
  match sqeOf s r with
  | some q =>
    let base := bufBase s r p q
    (c.zipIdx).all (fun x => decide (x.1 = blkData n q base (p.slba + x.2)))
  | none => true

/-- COMPARE (R555, R574): a part that differs fails with Compare Failure. -/
def execCompare (station : Fin 64) (r : CmdRef) (s : State) : Host.Outcome State Fault Refusal :=
  .next (forParts station r 0x05 (fun pr s => readPart (fun p n c s =>
    if sameContent s pr p n c then s else updPart pr (fun x => { x with status := some stCompare }) s) pr s) s)

/-- VERIFY (R555): every block of the range is read and checked, and nothing moves. -/
def execVerify (station : Fin 64) (r : CmdRef) (s : State) : Host.Outcome State Fault Refusal :=
  .next (forParts station r 0x0C (readPart (fun _ _ _ s => s)) s)

/-! Deallocation (R79, R186, R565). -/

/-- The media work of a part that deallocates: a MAP_TRIM for each bale with data, mirrored like a write. -/
def trimPart (r : PartRef) (s : State) : State :=
  match partOf s r with
  | none => s
  | some p =>
    let s1 := updPart r (fun x => { x with begun := true }) (markRebuilt p.nsid p.slba p.nlb s)
    let s2 := (splitRange p.slba p.nlb).foldl (fun s x =>
      let bale := x.1 / 16384
      if ownsBale s p.nsid bale then
        jrn (dirEntry s p.nsid bale).wing (.mapTrim p.nsid bale (x.1 % 16384) x.2) (.parts [r]) (addRecords [r] s)
      else s) s1
    let gs := ((rangeGrains p.slba p.nlb).filter (fun g => ownsBale s p.nsid g.1)).map (fun g =>
      (({ nsid := p.nsid, bale := g.1, grain := g.2.1 } : GrainId), { GrainImg.zero with present := g.2.2 }))
    settlePart r (if gs = [] then s2 else sendMirror r gs 0 s2)

/-- WRITE_ZEROES (R64, R79, R555). -/
def execWriteZeroes (station : Fin 64) (r : CmdRef) (s : State) : Host.Outcome State Fault Refusal :=
  .next (forParts station r 0x08 trimPart s)

/-- The command is an outstanding one of an opcode on an NVM namespace without a part. -/
def noParts (s : State) (r : CmdRef) (opc : Nat) : Bool :=
  match findCmd s r with
  | some c => !c.admin && decide (c.sqe.opc = opc) && decide (c.parts = []) && (decide (c.sqe.nsid ≤ 1024) || decide (c.sqe.nsid = 0xFFFFFFFF))
  | none => false

/-- DATASET_MANAGEMENT (R79, R530): without the deallocate attribute, or with empty ranges only, it has nothing to do. -/
def execDatasetManagement (station : Fin 64) (r : CmdRef) (s : State) : Host.Outcome State Fault Refusal :=
  .next (if station = ownStation s ∧ noParts s r 0x09 ∧ s.med.flush.isNone then completeCmd r stOk 0 0 [] s
    else forParts station r 0x09 trimPart s)

/-- FLUSH (R530): every completed write is committed already. -/
def execFlush (r : CmdRef) (s : State) : Host.Outcome State Fault Refusal :=
  .next (if noParts s r 0x00 ∧ s.med.flush.isNone then completeCmd r stOk 0 0 [] s else s)

/-! Transfers and forwarding (R561, R565, R587, R633). -/

/-- Bytes that a part moves to host memory. -/
def partLen (s : State) (p : Part) : Nat := match nsInfo s p.nsid with | some n => p.nlb * (blockLen n + sepLen n) | none => 0

/-- Data bytes of a part written into host memory are counted (R778). -/
def countOut (fn n : Nat) (s : State) : State := cntFnAdd fn 1 n (cntMod 1 n s)

/-- A transfer fails before the command has an effect: it ends with Data Transfer Error (R587). -/
def transferFails (r : CmdRef) (s : State) : State :=
  match findCmd s r with
  | some c => if c.committed ∨ c.parts.any (fun p => p.begun ∨ p.state = .done) then s else endCmd r stTransfer s
  | none => s

/-- HOST_TRANSFER_DONE (R565, R587): the DMA of a part ends; `station` is the receiving station. -/
def execHostTransferDone (station : Fin 64) (r : CmdRef) (part : Nat) (good : Bool) (s : State) : Host.Outcome State Fault Refusal :=
  let pr : PartRef := { station := station, cmd := r, index := part }
  .next (if s.mode.mode = .dark then s
    else match partOf s pr with
      | none => if good ∨ station ≠ ownStation s then s else transferFails r s
      | some p =>
        if partTransfers s pr ∧ p.begun ∧ ¬ partReads s pr then
          if p.state = .running then
            if good then releasePart pr none (if station = ownStation s then countOut r.fn (partLen s p) s else s)
            else releasePart pr (some stTransfer) s
          else if p.state = .forwarded ∧ station = ownStation s then
            if good then countOut r.fn (partLen s p) s else updPart pr (fun x => { x with status := some stTransfer }) s
          else s
        else if good ∨ station ≠ ownStation s then s else transferFails r s)

/-- Namespace of a forwarded part: the command's, or for a Memory Copy that of the source that holds the blocks. -/
def foreignNsid (q : Sqe) (slba : Nat) : Nat :=
  if q.nsid ≤ 1024 then q.nsid
  else match (copySources q).find? (fun x => x.1 ≤ 1024 ∧ x.2.1 ≤ slba ∧ slba < x.2.1 + x.2.2) with
    | some x => x.1
    | none => q.nsid

/-- FORWARDED_PART (R46, R560, R595, R633): the owner receives a part and admits it, or it waits for a free entry. -/
def execForwardedPart (station : Fin 64) (r : CmdRef) (part slba nlb gen : Nat) (sqe : Sqe) (s : State) : Host.Outcome State Fault Refusal :=
  let pr : PartRef := { station := station, cmd := r, index := part }
  let p : Part := { index := part, nsid := foreignNsid sqe slba, slba := slba, nlb := nlb, owner := ownStation s, state := .waiting, status := none,
                    records := 0, begun := false, mirrors := 0, off := 0 }
  let f : ForeignPart := { station := station, cmd := r, sqe := { sqe with data := [], md := [] }, gen := gen,
                           write := decide (sqe.nsid ≤ 1024) && [0x01, 0x08, 0x09].contains sqe.opc, part := p, admitted := false, committed := false, data := [] }
  .next (if ¬ inCaravan s ∨ station = ownStation s ∨ s.mode.mode = .dark ∨ s.mode.mode = .kindling ∨ (findForeign s pr).isSome ∨ nlb = 0 then s
    else
      let s1 := cntMod 4 1 s
      if s.mode.mode = .extinguished then returnPart pr stExtinguishedStation s1
      else if sanRunning s then returnPart pr stSanitize s1
      else admitForeign { s1 with host := { s1.host with foreign := s1.host.foreign ++ [f] } })

/-- Copies the SLM sources of a Memory Copy, once, in the order of its list (R291); an uncorrectable source gives Unrecovered Read Error
(R761). -/
def copySlm (r : CmdRef) (s : State) : State :=
  match findCmd s r with
  | none => s
  | some c =>
    if c.copied ∨ c.admin ∨ c.sqe.nsid ≤ 1025 ∨ c.sqe.opc ≠ opMemCopy then s
    else
      let s1 := updCmd r (fun c => { c with copied := true }) s
      ((copySources c.sqe).foldl (fun (a : State × Nat) x =>
        if x.1 ≤ 1024 then (a.1, a.2 + sourceLen x)
        else if slmPoisoned a.1 x.2.1 x.2.2 then
          (updCmd r (fun c => { c with parts := c.parts.map (fun p => { p with status := some stUnrecovered }) }) a.1, a.2 + sourceLen x)
        else
          (updCmd r (fun c => { c with committed := true })
            (slmWrite (sqeSlba c.sqe + a.2) (Memory.readBytes a.1.prog.slm x.2.1 x.2.2) a.1), a.2 + sourceLen x)) (s1, 0)).1

/-- FORWARDED_DATA (R633): a write's data reaches the owner, or a read's the receiving station. -/
def execForwardedData (station : Fin 64) (r : CmdRef) (part : Nat) (atOwner : Bool) (data md : List (BitVec 8)) (s : State) :
    Host.Outcome State Fault Refusal :=
  let pr : PartRef := { station := if atOwner then station.val else ownStation s, cmd := r, index := part }
  .next (if s.mode.mode = .dark ∨ ¬ inCaravan s then s
    else if atOwner then updForeign pr (fun f => { f with sqe := { f.sqe with data := data, md := md } }) s
    else match partOf s pr with
      | none => s
      | some p =>
        if p.state ≠ .forwarded then s
        else match findCmd s r, nsInfo s p.nsid with
          | some c, some n =>
            let s1 := updPart pr (fun x => { x with begun := true }) s
            if c.sqe.nsid ≤ 1024 then storeData pr p n (data, md) s1
            else updCmd r (fun c => { c with committed := true }) <| slmWrite (sqeSlba c.sqe + p.off) data s1
          | _, _ => s)

/-- PART_STATUS (R562, R566, R633): the owner returns a forwarded part's status, which acknowledges the part. -/
def execPartStatus (r : CmdRef) (part sct sc : Nat) (s : State) : Host.Outcome State Fault Refusal :=
  let pr : PartRef := { station := ownStation s, cmd := r, index := part }
  .next (match partOf s pr with
    | none => s
    | some p =>
      if p.state ≠ .forwarded ∨ s.mode.mode = .dark then s
      else
        let st := if sct = 0 ∧ sc = 0 then p.status else some (if sct = 7 ∧ sc = 0xCA then stExtinguishedStation else mkStatus sct sc)
        releaseRouted (finishCmd r (updPart pr (fun x => { x with state := .done, status := st }) (copySlm r s))))

end Sys2Proof.Machine
end

