-- ==== Sys2Proof/Machine/Ctrl.lean ====
section
/-! DEFINITION. Controllers, functions and the link: resets, enable, shutdown, SR-IOV and power states (R36 to R39, R49, R506 to R516, R588,
R675, R676, R913). -/

namespace Sys2Proof.Machine

/-! Controller reset (R588, R653). -/

/-- An admin command whose operation has begun, or a vendor command, runs to its end without a completion (R653; log entry 70). -/
def underWay (s : State) (c : OutCmd) : Bool :=
  c.admin && (decide (0xC0 ≤ c.sqe.opc) || decide ((s.host.format.map (·.cmd)) = some c.cmd) || decide ((s.kin.commit.map (·.cmd)) = some c.cmd) ||
    s.rte.waits.any (fun w => decide (w.cmd = some c.cmd)))

/-- The command runs on to its media effect when its controller is reset. -/
def survives (s : State) (c : OutCmd) : Bool := c.committed || underWay s c

/-- The owner of an uncommitted command's forwarded parts; there is one (R580). -/
def remoteOwner (c : OutCmd) : Option Nat := (c.parts.find? (fun p => p.state = .forwarded)).map (·.owner)

/-- Asks that owner to end a command's parts: 0 an Abort, 1 a queue deletion, 2 a reset, which awaits no answer (R581, R583, R915). -/
def recallParts (c : OutCmd) (why : Nat) (s : State) : State :=
  match remoteOwner c with
  | some o => sendParts o .order [ordAbort, c.cmd.fn, c.cmd.sq, c.cmd.cid, why] [] s
  | none => s

/-- Discards an uncommitted command with its thread; no completion is posted (R588). -/
def discardCmd (c : OutCmd) (s : State) : State :=
  let s1 := recallParts c 2 (dropCmd c.cmd { s with prog := { s.prog with waiting := s.prog.waiting.filter (fun w => w.cmd ≠ c.cmd) } })
  match s1.disp.tasks.find? (fun e => e.2.cmd = some c.cmd) with
  | some e => endThread e.1 stAborted 0 0 s1
  | none => s1

/-- The commands of a function at its reset: what survives runs on silently, the rest is discarded. -/
def resetCmds (fn : Nat) (s : State) : State :=
  (cmdsOf s fn).foldl (fun s c => if survives s c then updCmd c.cmd (fun c => { c with silent := true }) s else discardCmd c s) s

/-- The registers and queues of a function's controller at its reset. SHST is cleared by the next enable (R913). -/
def resetRegs (fn : Nat) (s : State) : State :=
  let c := getCtrl s fn
  let stall := match s.host.stallFor with | some x => if x.1 = fn then none else some x | none => none
  setCtrl fn { Ctrl.reset with d3 := c.d3, msix := c.msix, pba := c.pba, aqa := c.aqa, asq := c.asq, acq := c.acq, shst := c.shst, shut := c.shut }
    { s with host := { s.host with stallFor := stall, deferred := s.host.deferred.filter (fun d => d.cmd.fn ≠ fn) }
             cnt := { s.cnt with captures := Tbl.erase s.cnt.captures fn } }

/-- A controller reset (R588); the PF's ends the manager role (R653). -/
def controllerReset (fn : Nat) (s : State) : State :=
  let s1 := settleFn fn (resetRegs fn (resetCmds fn s))
  if fn = 0 then roleEnds s1 else s1

/-- CONTROLLER_RESET: CC.EN 1 to 0. -/
def execControllerReset (fn : Fin 1024) (s : State) : Host.Outcome State Fault Refusal :=
  .next (if fnReach s fn ∧ (getCtrl s fn).en then controllerReset fn s else s)

/-! Controller enable (R37, R38, R49, R515, R518, R913). -/

/-- An admin queue pair of given sizes. -/
def adminSq (aqa : Nat) (base : Nat) : SubQ :=
  { size := aqa % 2 ^ 12 + 1, cq := 0, prio := 0, base := base, tail := 0, head := 0, deleting := none }
def adminCq (aqa : Nat) (base : Nat) : ComplQ :=
  { size := bitsOf aqa 27 16 + 1, base := base, vector := 0, ien := true, head := 0, tail := 0, phase := true }

/-- I/O queue pairs of a function: the PF's private ones with those assigned to it, a VF's assignment (R515, R518). -/
def queuePairs (s : State) (fn : Nat) : Nat := if fn = 0 then 64 + s.host.pfVqNext else Tbl.get 0 s.host.vq fn

/-- CC.EN 0 to 1 with CC, AQA, ASQ and ACQ as host software wrote them. During Kindling a controller with CC.CRIME clear becomes
ready when Kindling ends. -/
def ctrlEnable (fn cc aqa asq acq : Nat) (s : State) : State :=
  let c := getCtrl s fn
  let crime := bitOf cc 24
  let ready := decide (s.mode.mode ≠ .kindling) || crime
  setCtrl fn { c with
    en := true, css := bitsOf cc 6 4, mps := bitsOf cc 10 7, ams := bitsOf cc 13 11, shn := 0, crime := crime, rdy := ready,
    shst := 0, shut := false, aqa := aqa, asq := asq, acq := acq, sqs := Tbl.insert [] 0 (adminSq aqa asq),
    cqs := Tbl.insert [] 0 (adminCq aqa acq), vqNow := queuePairs s fn } s

/-- CONTROLLER_ENABLE. -/
def execControllerEnable (fn : Fin 1024) (cc aqa : BitVec 32) (asq acq : Word) (s : State) : Host.Outcome State Fault Refusal :=
  .next (if ¬ fnReach s fn ∨ (getCtrl s fn).en then s else ctrlEnable fn cc.toNat aqa.toNat asq.toNat acq.toNat s)

/-! Shutdown (R913). -/

/-- CC.SHN is written to 01b or 10b. -/
def ctrlNotify (fn shn : Nat) (s : State) : State :=
  let c := getCtrl s fn
  let lit := decide (s.mode.mode = .lit)
  if ¬ (shn = 1 ∨ shn = 2) ∨ (c.shst ≠ 0 ∧ (c.shut ∨ ¬ lit)) then s
  else setCtrl fn { c with shn := shn, shst := if lit then 1 else 2, shut := lit } s

/-- SHUTDOWN_NOTIFICATION. -/
def execShutdownNotification (fn : Fin 1024) (shn : BitVec 2) (s : State) : Host.Outcome State Fault Refusal :=
  .next (if fnReach s fn then ctrlNotify fn shn.toNat s else s)

/-- SHUTDOWN_PROCESSING_DONE: the admitted commands have completed and, for the PF, the forecourt and journal are closed. It also ends the
closing that a reset waits for, and Kindling begins (R39). -/
def execShutdownProcessingDone (fn : Fin 1024) (s : State) : Host.Outcome State Fault Refusal :=
  let c := getCtrl s fn
  .next (if s.kin.resetPending ∧ ¬ s.host.perst then releaseReset s
    else if c.shst ≠ 1 ∨ s.mode.mode ≠ .lit then s
    else if fn.val = 0 then
      if isClosed s then setCtrl 0 { c with shst := 2 } { s with med := { s.med with clean := true } } else s
    else if (cmdsOf s fn).all isEventRequest then setCtrl fn { c with shst := 2 } s else s)

/-! The link and the power states (R505 to R507). -/

/-- Every function's controller is reset (R507). -/
def resetAll (s : State) : State := (liveCtrls s).foldl (fun s f => controllerReset f s) s

/-- HOT_RESET: a Hot Reset, or a loss of the link without PERST#. The link is down until DL_UP. -/
def execHotReset (s : State) : Host.Outcome State Fault Refusal :=
  .next (if s.host.linkUp then let s1 := resetAll s; { s1 with host := { s1.host with linkUp := false } } else s)

/-- DL_UP: the link is up at its full width in L0. -/
def execDlUp (s : State) : Host.Outcome State Fault Refusal :=
  .next (if s.mode.mode = .dark ∨ s.host.perst ∨ s.host.linkUp then s
    else { s with host := { s.host with linkUp := true, linkWidth := 8, inL1 := false } })

/-- LINK_POWER_STATE_CHANGE: L1 or an L0p width, x1, x2, x4 or x8 (R505). The Light List permits L1 (R853 type 8). -/
def execLinkPowerStateChange (inL1 : Bool) (width : Fin 9) (s : State) : Host.Outcome State Fault Refusal :=
  .next (if ¬ s.host.linkUp ∨ ¬ [1, 2, 4, 8].contains width.val ∨ (inL1 ∧ llByte s 8 0 0 % 2 = 0) then s
    else { s with host := { s.host with inL1 := inL1, linkWidth := width.val } })

/-- DEVICE_POWER_STATE_CHANGE (R506): on return to D0 a function's completions are posted. -/
def execDevicePowerStateChange (fn : Fin 1024) (d3 : Bool) (s : State) : Host.Outcome State Fault Refusal :=
  let c := getCtrl s fn
  .next (if s.mode.mode = .dark ∨ ¬ s.host.linkUp ∨ ¬ fnPresent s fn ∨ c.d3 = d3 then s
    else
      let s1 := setCtrl fn { c with d3 := d3 } s
      if d3 then s1 else postDeferred (fun d => decide (d.cmd.fn = fn.val)) s1)

/-! Function-level reset and SR-IOV (R511, R512, R675, R676). -/

/-- Tasks of a function. -/
def fnTasks (s : State) (fn : Nat) : List Nat := (s.disp.tasks.filter (fun e => e.2.fn = fn)).map (·.1)

/-- Ends every task of a function: legs and waybills are cancelled, jobs discarded, the engines released (R675 step 2). -/
def endFnTasks (fn : Nat) (s : State) : State :=
  (fnTasks s fn).foldl (fun s k => retireTask k ((wbOf s k).foldl (fun s w => wbCancel w.handle true s) s)) s

/-- The image that arrives for a function is discarded (R688). -/
def dropImageOf (fn : Nat) (s : State) : State :=
  match s.chr.restore with
  | some i => if i.fn = fn then dropImage s else s
  | none => s

/-- R675 and R676: the reset of a VF. A wait of a Quiesce ends when nothing is outstanding; the function is Running afterwards
(log entry 71). -/
def vfReset (fn : Nat) (s0 : State) : State :=
  let s := dropImageOf fn s0
  let quiet := decide (fnMode s fn = .quiesced ∨ fnMode s fn = .frozen)
  let cmds := cmdsOf s fn
  let kept := (cmds.filter (fun c => survives s c)).length
  let tasks := (fnTasks s fn).length
  let s1 := resetRegs fn (resetCmds fn (endFnTasks fn s))
  let s2 := settleFn fn (setCtrl fn { getCtrl s1 fn with shst := 0, shut := false } s1)
  let s3 := if (Tbl.find s2.chr.fnWait fn).isSome then s2 else { s2 with chr := { s2.chr with
    fnMode := Tbl.put .running s2.chr.fnMode fn .running, freezeGen := Tbl.erase s2.chr.freezeGen fn, freezeStamp := Tbl.erase s2.chr.freezeStamp fn } }
  if quiet then s3
  else
    raise 1080 (logOcc 0x7001 1080 (leBytes 2 fn ++ leBytes 4 (cmds.length - kept) ++ leBytes 4 kept ++ leBytes 4 tasks)
      { s3 with chr := { s3.chr with unqCount := satAdd 65535 s3.chr.unqCount 1, unqLast := fn } })

/-- FUNCTION_LEVEL_RESET of a VF. -/
def execFunctionLevelReset (fn : Fin 1024) (s : State) : Host.Outcome State Fault Refusal :=
  .next (if s.mode.mode = .dark ∨ ¬ s.host.linkUp ∨ fn.val = 0 ∨ ¬ fnPresent s fn then s else vfReset fn s)

/-- VF_ENABLE: VF Enable is set with NumVFs. -/
def execVfEnable (num : Fin 1024) (s : State) : Host.Outcome State Fault Refusal :=
  .next (if ¬ fnReach s 0 ∨ s.host.vfEnable ∨ totalVfs s < num.val then s
    else { s with host := { s.host with numVfs := num.val, vfEnable := true } })

/-- VF_ENABLE_CLEARED: every VF is reset (R675, R676), and its secondary controller is Offline (R516). -/
def execVfEnableCleared (s : State) : Host.Outcome State Fault Refusal :=
  .next (if ¬ fnReach s 0 ∨ ¬ s.host.vfEnable then s
    else
      let s1 := (List.range s.host.numVfs).foldl (fun s i => vfReset (i + 1) s) s
      { s1 with host := { s1.host with vfEnable := false, numVfs := 0, online := [] } })

end Sys2Proof.Machine
end

