-- ==== Sys2Proof/Machine/Admin.lean ====
section
/-! DEFINITION. Admin commands on queues and commands: create, delete, Abort, Asynchronous Event Request, features (R49, R515 to R520,
R531 to R533, R537, R580 to R586, R915). -/

namespace Sys2Proof.Machine

/-! Further statuses. -/

/-- Completion Queue Invalid. -/
def stCq : Status := mkStatus 1 0x00
/-- Invalid Queue Size. -/
def stQsize : Status := mkStatus 1 0x02
/-- Asynchronous Event Request Limit Exceeded. -/
def stAerLimit : Status := mkStatus 1 0x05
/-- Invalid Interrupt Vector. -/
def stVector : Status := mkStatus 1 0x08
/-- Invalid Queue Deletion. -/
def stQdelete : Status := mkStatus 1 0x0C

/-- Ends an admin command with a status and no data. -/
def failCmd (c : OutCmd) (st : Status) (s : State) : State := completeCmd c.cmd st 0 0 [] s

/-- Completes a command that returns data to the host (R778). -/
def answerData (r : CmdRef) (dw0 : Nat) (data : List Byte) (s : State) : State :=
  completeCmd r stOk dw0 0 data (countOut r.fn data.length s)

/-! I/O queues. -/

/-- Interrupt vectors of a function (R514). -/
def vectorsOf (s : State) (fn : Nat) : Nat := if fn = 0 then 2048 else Tbl.get 0 s.host.vi fn

/-- The status with which a Create I/O queue command of any kind is refused (R518, R520). -/
def queueRefusal (s : State) (c : OutCmd) (used : Bool) : Option Status :=
  let q := c.sqe
  let qid := q.cdw10 % 2 ^ 16
  let size := bitsOf q.cdw10 31 16 + 1
  if qid = 0 ∨ (getCtrl s c.cmd.fn).vqNow < qid ∨ used then some stQid
  else if size < 2 ∨ 16384 < size then some stQsize
  else if ¬ bitOf q.cdw11 0 then some stField
  else none

/-- CREATE_IO_CQ. -/
def execCreateIoCq (r : CmdRef) (s : State) : Host.Outcome State Fault Refusal :=
  .next (onAdmin r 0x05 (fun c s =>
    let k := getCtrl s r.fn
    let q := c.sqe
    let qid := q.cdw10 % 2 ^ 16
    let iv := bitsOf q.cdw11 31 16
    match queueRefusal s c (Tbl.find k.cqs qid).isSome with
    | some st => failCmd c st s
    | none =>
      if bitOf q.cdw11 1 ∧ vectorsOf s r.fn ≤ iv then failCmd c stVector s
      else
        let cq : ComplQ := { size := bitsOf q.cdw10 31 16 + 1, base := q.prp1, vector := iv, ien := bitOf q.cdw11 1, head := 0, tail := 0, phase := true }
        failCmd c stOk (setCtrl r.fn { k with cqs := Tbl.insert k.cqs qid cq } s)) s)

/-- CREATE_IO_SQ. -/
def execCreateIoSq (r : CmdRef) (s : State) : Host.Outcome State Fault Refusal :=
  .next (onAdmin r 0x01 (fun c s =>
    let k := getCtrl s r.fn
    let q := c.sqe
    let qid := q.cdw10 % 2 ^ 16
    let cqid := bitsOf q.cdw11 31 16
    match queueRefusal s c (Tbl.find k.sqs qid).isSome with
    | some st => failCmd c st s
    | none =>
      if cqid = 0 ∨ k.vqNow < cqid then failCmd c stQid s
      else if (Tbl.find k.cqs cqid).isNone then failCmd c stCq s
      else
        let sq : SubQ := { size := bitsOf q.cdw10 31 16 + 1, cq := cqid, prio := bitsOf q.cdw11 2 1, base := q.prp1, tail := 0, head := 0, deleting := none }
        failCmd c stOk (setCtrl r.fn { k with sqs := Tbl.insert k.sqs qid sq } s)) s)

/-- DELETE_IO_CQ: refused while a submission queue uses it. -/
def execDeleteIoCq (r : CmdRef) (s : State) : Host.Outcome State Fault Refusal :=
  .next (onAdmin r 0x04 (fun c s =>
    let k := getCtrl s r.fn
    let qid := c.sqe.cdw10 % 2 ^ 16
    if qid = 0 ∨ (Tbl.find k.cqs qid).isNone then failCmd c stQid s
    else if k.sqs.any (fun e => decide (e.1 ≠ 0 ∧ e.2.cq = qid)) then failCmd c stQdelete s
    else failCmd c stOk (setCtrl r.fn { k with cqs := Tbl.erase k.cqs qid } s)) s)

/-- Number that names a command in an order, and the command it names. -/
def refNum (r : CmdRef) : Nat := r.fn * 2 ^ 32 + r.sq * 2 ^ 16 + r.cid
def refOf (n : Nat) : CmdRef := { fn := n / 2 ^ 32, sq := n / 2 ^ 16 % 2 ^ 16, cid := n % 2 ^ 16 }

/-- An Abort completes: dword 0 bit 0 is 1 for "not aborted". -/
def abortAnswer (r : CmdRef) (aborted : Bool) (s : State) : State := completeCmd r stOk (if aborted then 0 else 1) 0 [] s

/-- Ends an uncommitted command with a status. The owner of a forwarded one decides, and `abort` is answered then (R583). -/
def endUncommitted (c : OutCmd) (why : Nat) (st : Status) (abort : Option CmdRef) (s : State) : State :=
  match remoteOwner c with
  | some o =>
    let w : AckWait := { code := ordAbort, a := refNum c.cmd, b := why, cmd := abort, left := [o], fails := [] }
    if s.rte.waits.any (fun x => decide (x.code = ordAbort ∧ x.a = w.a ∧ x.cmd = abort)) then s
    else recallParts c why { s with rte := { s.rte with waits := s.rte.waits ++ [w] } }
  | none =>
    let s1 := settleOne st c.cmd s
    match abort with | some a => abortAnswer a true s1 | none => s1

/-- The owner's decision about a forwarded command: 1 it is ended, 0 it was committed (R583). -/
def abortDecided (target : CmdRef) (why result : Nat) (abort : Option CmdRef) (s : State) : State :=
  let s1 := if result = 1 then endCmd target (if why = 1 then stSqDeleted else stAborted) s else updCmd target (fun c => { c with committed := true }) s
  match abort with | some a => abortAnswer a (decide (result = 1)) s1 | none => s1

/-- DELETE_IO_SQ (R915): the queue's uncommitted commands end; the command completes after every command of the queue. -/
def execDeleteIoSq (r : CmdRef) (s : State) : Host.Outcome State Fault Refusal :=
  .next (onAdmin r 0x00 (fun c s =>
    let k := getCtrl s r.fn
    let qid := c.sqe.cdw10 % 2 ^ 16
    match (if qid = 0 then none else Tbl.find k.sqs qid) with
    | none => failCmd c stQid s
    | some q =>
      if q.deleting.isSome then (if q.deleting = some r then s else failCmd c stQid s)
      else
        let s1 := setCtrl r.fn { k with sqs := Tbl.insert k.sqs qid { q with deleting := some r } } s
        let mine := (cmdsOf s1 r.fn).filter (fun x => x.cmd.sq = qid ∧ ¬ x.committed)
        settleSq r.fn qid (mine.foldl (fun s x => endUncommitted x 1 stSqDeleted none s) s1)) s)

/-! Abort (R581 to R585). -/

/-- ABORT: CDW10 names the queue and the command. -/
def execAbort (r : CmdRef) (s : State) : Host.Outcome State Fault Refusal :=
  .next (onAdmin r 0x08 (fun c s =>
    let before := (s.host.out.takeWhile (fun x => x.cmd ≠ r)).filter (fun x => x.admin ∧ x.sqe.opc = 0x08)
    let target : CmdRef := { fn := r.fn, sq := c.sqe.cdw10 % 2 ^ 16, cid := bitsOf c.sqe.cdw10 31 16 }
    if 16 ≤ before.length then failCmd c stAbortLimit s
    else match findCmd s target with
      | none => abortAnswer r false s
      | some x => if x.admin ∨ x.committed then abortAnswer r false s else endUncommitted x 0 stAborted (some r) s) s)

/-! Asynchronous Event Request (R43, R521, R537). -/

/-- ASYNCHRONOUS_EVENT_REQUEST: held, at most 16 of a controller, until an event is reported. -/
def execAsynchronousEventRequest (r : CmdRef) (s : State) : Host.Outcome State Fault Refusal :=
  .next (onAdmin r 0x0C (fun c s =>
    let k := getCtrl s r.fn
    if k.aers.contains r then s
    else if 16 ≤ k.aers.length then failCmd c stAerLimit s
    else deliverEvents r.fn 16 (setCtrl r.fn { k with aers := k.aers ++ [r] } s)) s)

/-! Features (R219 to R221, R518, R531 to R533, R537). -/

/-- The features of R531. -/
def featureKnown (fid : Nat) : Bool := [0x01, 0x02, 0x04, 0x05, 0x07, 0x08, 0x09, 0x0A, 0x0B, 0x0E, 0xC0].contains fid

/-- Number of Queues: the pairs assigned, in both fields, zero-based (R518). -/
def queueCount (s : State) (fn : Nat) : Nat :=
  let n := (getCtrl s fn).vqNow - 1
  n + n * 2 ^ 16

/-- Stores a feature's value. -/
def putFeature (fn fid sel v : Nat) (s : State) : State :=
  let k := getCtrl s fn
  setCtrl fn { k with features := Tbl.insert k.features (fid * 2 ^ 16 + sel) v } s

/-- Sensors that a Temperature Threshold names; 0xF all of them. -/
def thresholdSensors (v : Nat) : List Nat := if bitsOf v 19 16 = 0xF then List.range 7 else [bitsOf v 19 16]

/-- Set Features of a controller's own features: status, dword 0, what is stored. -/
def setFeature (s : State) (fn fid v : Nat) : Status × Nat × List (Nat × Nat) :=
  match fid with
  | 0x02 => if v % 32 = 0 then (stOk, 0, [(0, v)]) else (stField, 0, [])
  | 0x04 =>
    if 1 < bitsOf v 21 20 ∨ (thresholdSensors v).any (fun i => 6 < i) then (stField, 0, [])
    else (stOk, 0, (thresholdSensors v).map (fun i => (i + 16 * bitsOf v 21 20, v % 2 ^ 16)))
  | 0x05 => if v = 0 then (stOk, 0, [(0, 0)]) else (stField, 0, [])
  | 0x07 => if v % 2 ^ 16 = 0xFFFF ∨ bitsOf v 31 16 = 0xFFFF then (stField, 0, []) else (stOk, queueCount s fn, [])
  | 0x09 => (stOk, 0, [(v % 2 ^ 16, v)])
  | _ => (stOk, 0, [(0, v)])

/-- SET_FEATURES: every feature but Timestamp and Placement Hint; an unknown one, or one to be saved, is refused whatever it is. -/
def execSetFeatures (r : CmdRef) (s : State) : Host.Outcome State Fault Refusal :=
  .next (onAdmin r 0x09 (fun c s =>
    let fid := c.sqe.cdw10 % 256
    if ¬ featureKnown fid then failCmd c stField s
    else if bitOf c.sqe.cdw10 31 then failCmd c stNotSaveable s
    else if fid = 0x0E ∨ fid = 0xC0 then s
    else
      let x := setFeature s r.fn fid (c.sqe.cdw11 % 2 ^ 32)
      let s1 := completeCmd r x.1 x.2.1 0 [] (x.2.2.foldl (fun s e => putFeature r.fn fid e.1 e.2 s) s)
      if fid = 0x04 then setCritWarn 1 (tempCrossed s1) s1 else s1) s)

/-- Host time of TD17, ms (R533). -/
def hostTime (s : State) : Int := ((s.td17 / 1000000 : Nat) : Int) + s.host.tsOffset

/-- A rate held within 100 ppm, in parts per billion (R533). -/
def trimLimit (x : Int) : Int := if 100000 < x then 100000 else if x < -100000 then -100000 else x

/-- Takes host time `t`: the offset at once, and the rate toward the host's by the drift since the last set (R533). -/
def setHostTime (t : Nat) (s : State) : State :=
  let h := s.host
  let span : Int := ((s.td17 - h.tsTd17 : Nat) : Int)
  let drift : Int := ((t : Int) - hostTime s) * 1000000
  let trim := if h.tsSet ∧ 0 < span then trimLimit (h.tsTrim + drift * 1000000000 / span) else h.tsTrim
  raise 1086 { s with host := { h with tsSet := true, tsOffset := (t : Int) - ((s.td17 / 1000000 : Nat) : Int), tsTrim := trim, tsHost := t, tsTd17 := s.td17 } }

/-- TIMESTAMP: Set Features 0x0E. -/
def execTimestamp (r : CmdRef) (s : State) : Host.Outcome State Fault Refusal :=
  .next (onAdmin r 0x09 (fun c s =>
    if c.sqe.cdw10 % 256 ≠ 0x0E ∨ bitOf c.sqe.cdw10 31 then s
    else failCmd c stOk (setHostTime (leNat (c.sqe.data.take 6)) s)) s)

/-- The eight bytes of Get Features Timestamp: the time, and its origin. -/
def timestampBytes (s : State) : List Byte := leBytes 6 ((hostTime s) % (2 ^ 48 : Int)).toNat ++ [BitVec.ofNat 8 (2 * b2n s.host.tsSet), 0]

/-- The value of a feature in dword 0; the saved value is the default (R532). -/
def getFeature (s : State) (fn fid v : Nat) (dflt : Bool) : Status × Nat :=
  let k := getCtrl s fn
  let tbl := if dflt then [] else k.features
  match fid with
  | 0x04 =>
    let i := bitsOf v 19 16
    let u := bitsOf v 21 20
    if 6 < i ∨ 1 < u then (stField, 0)
    else (stOk, Tbl.get (if u = 1 then 0 else if i = 0 then 358 else 0xFFFF) tbl (0x04 * 2 ^ 16 + i + 16 * u) + i * 2 ^ 16 + u * 2 ^ 20)
  | 0x07 => (stOk, queueCount s fn)
  | 0x09 => (stOk, Tbl.get (v % 2 ^ 16) tbl (0x09 * 2 ^ 16 + v % 2 ^ 16))
  | 0x0B => (stOk, Tbl.get 0x17 tbl (0x0B * 2 ^ 16))
  | _ => (stOk, Tbl.get 0 tbl (fid * 2 ^ 16))

/-- GET_FEATURES. -/
def execGetFeatures (r : CmdRef) (s : State) : Host.Outcome State Fault Refusal :=
  .next (onAdmin r 0x0A (fun c s =>
    let fid := c.sqe.cdw10 % 256
    let sel := bitsOf c.sqe.cdw10 10 8
    if ¬ featureKnown fid ∨ 3 < sel then failCmd c stField s
    else if sel = 3 then completeCmd r stOk (4 + 2 * b2n (fid = 0xC0)) 0 [] s
    else if fid = 0x0E then answerData r 0 (timestampBytes s) s
    else if fid = 0xC0 then
      if (nsInfo s c.sqe.nsid).isNone then failCmd c stNamespace s
      else completeCmd r stOk (if sel = 0 then hintOf s c.sqe.nsid else 0) 0 [] s
    else
      let x := getFeature s r.fn fid (c.sqe.cdw11 % 2 ^ 32) (decide (sel ≠ 0))
      completeCmd r x.1 x.2 0 [] s) s)

/-- Stores a placement hint; zero is its reset value (R219). -/
def putHint (nsid v : Nat) (s : State) : State := { s with plc := { s.plc with hints := Tbl.put 0 s.plc.hints nsid v } }

/-- PLACEMENT_HINT: Set Features 0xC0 (R220, R221, R657). -/
def execPlacementHint (r : CmdRef) (s : State) : Host.Outcome State Fault Refusal :=
  .next (onAdmin r 0x09 (fun c s =>
    let v := c.sqe.cdw11 % 2 ^ 32
    let nsid := c.sqe.nsid
    if c.sqe.cdw10 % 256 ≠ 0xC0 ∨ bitOf c.sqe.cdw10 31 ∨ s.rte.waits.any (fun w => decide (w.cmd = some r)) then s
    else if ¬ chrFlag s r.fn 3 then failCmd c stDenied (denied r.fn 1 s)
    else if nsid = 0 ∨ (nsInfo s nsid).isNone then failCmd c stNamespace s
    else if 1 < v % 4 ∨ bitsOf v 7 3 ≠ 0 ∨ v / 2 ^ 14 ≠ 0 ∨ (bitOf v 2 ∧ ¬ (members s).contains (bitsOf v 13 8)) then failCmd c stField s
    else
      let s1 := putHint nsid v s
      if otherLit s = [] then failCmd c stOk s1
      else
        let s2 := (otherLit s).foldl (fun s m => send m .hint [nsid, v] [] [] s) s1
        { s2 with rte := { s2.rte with waits := s2.rte.waits ++ [{ code := ordHint, a := nsid, b := v, cmd := some r, left := otherLit s, fails := [] }] } }) s)

end Sys2Proof.Machine
end

