-- ==== Sys2Proof/Machine/Pages.lean ====
section
/-! DEFINITION. The content of the log pages (R224 to R226, R534 to R546, R596, R649, R791, R807, R838). Layouts that the spec leaves
to NVMe are log entry 23. -/

namespace Sys2Proof.Machine

/-- A log page: its size and its bytes from an offset; bytes past the end read as zero (R544). -/
structure LogPage where
  size : Nat
  bytes : Nat → Nat → List Byte

/-- A page held as a list of bytes. -/
def pageOf (l : List Byte) : LogPage := { size := l.length, bytes := fun o n => fitBytes n (l.drop o) }

/-- A structure of `n` bytes with fields at offsets, zero elsewhere. -/
def fields (n : Nat) (fs : List (Nat × List Byte)) : List Byte := fs.foldl (fun l f => spliceAt l f.1 f.2) (List.replicate n 0)

/-- Zero bytes. -/
def zeroBytes (n : Nat) : List Byte := List.replicate n 0

/-! Standard pages. -/

/-- The log page identifiers that a function is given (R534, R543). -/
def lidKnown (fn lid : Nat) : Bool :=
  [0x00, 0x01, 0x02, 0x03, 0x04, 0x05, 0x07, 0x0C, 0x81, 0x82, 0x83, 0x84].contains lid || (decide (fn = 0) && decide (0xC8 ≤ lid ∧ lid ≤ 0xCD))

/-- Supported Log Pages. -/
def pageSupported (fn : Nat) : List Byte := (List.range 256).flatMap (fun i => leBytes 4 (b2n (lidKnown fn i)))

/-- Error Information: 256 entries of 64 bytes, the newest first. -/
def pageErrors (s : State) : List Byte :=
  fitBytes 16384 (s.host.errors.flatMap (fun e =>
    let st := 2 * (e.status.sc + 256 * e.status.sct + 2 ^ 14 * b2n e.status.dnr)
    fitBytes 64 (leBytes 8 e.count ++ leBytes 2 e.sqid ++ leBytes 2 e.cid ++ leBytes 2 st ++ leBytes 2 e.loc ++ leBytes 8 e.lba ++ leBytes 4 e.nsid)))

/-- Percentage Used (R168): the average erase count of the QLC data die blocks, and in native mode of the forecourt's, each as a part of its
rating. -/
def usedPct (s : State) : Nat :=
  let fc := if s.med.compat then 0 else nativeFc s
  let other := s.med.blocks.filter (fun e => fc ≤ e.1 % 1024 ∧ e.2.state ≠ .free ∧ e.2.role ≠ .qlc)
  let qlc := s.med.blocks.filter (fun e => fc ≤ e.1 % 1024 ∧ ¬ (e.2.state ≠ .free ∧ e.2.role ≠ .qlc))
  let n := 1024 * (dieBlocks s - fc) - other.length
  let q := (qlc.map (·.2.erases)).sum * 100 / (n * 2000)
  if s.med.compat then q
  else max q (((s.med.blocks.filter (fun e => e.1 % 1024 < fc)).map (·.2.erases)).sum * 100 / (1024 * fc * 50000))

/-- Available Spare (R169). -/
def spareNow (s : State) : Nat :=
  let left := ((List.range 128).map (spareMin s)).foldl min (sparesPerPlane s)
  min (100 * left / sparesPerPlane s) (100 * (8 - s.med.faulted.length) / 8)

/-- SMART / Health (R535). -/
def pageSmart (s : State) : List Byte :=
  let l := s.host.life
  leBytes 1 s.host.critWarn.toNat ++ leBytes 2 (smartTemp s 0) ++ leBytes 1 (spareNow s) ++ [10] ++ leBytes 1 (min 255 (usedPct s)) ++ zeroBytes 26 ++
    leBytes 16 ((l.dataRead + 999) / 1000) ++ leBytes 16 ((l.dataWritten + 999) / 1000) ++ leBytes 16 l.hostReads ++ leBytes 16 l.hostWrites ++
    leBytes 16 (l.busySeconds / 60) ++ leBytes 16 s.cnt.powerCycles ++ leBytes 16 (s.cnt.opSeconds / 3600) ++ leBytes 16 l.unsafeShutdowns ++
    leBytes 16 l.integrityErrors ++ leBytes 16 s.host.errorCount ++ zeroBytes 8 ++ (List.range 6).flatMap (fun i => leBytes 2 (smartTemp s (i + 1))) ++
    zeroBytes 300

/-- Firmware Slot: the running slot, the slot of the next reset, and the revision of every slot that holds an image. -/
def pageFirmware (s : State) : List Byte :=
  let b := s.kin.boot
  fitBytes 512 (leBytes 1 (s.kin.running + 16 * b.next) ++ zeroBytes 7 ++ (List.range 4).flatMap (fun i =>
    match Tbl.find s.kin.images (i + 1) with
    | some img => if (Tbl.get SlotView.empty s.kin.slots (i + 1)).cause = 1 then zeroBytes 8 else fitBytes 8 (imgRevision img)
    | none => zeroBytes 8))

/-- Changed Namespace List of a controller. -/
def pageChanged (s : State) (fn : Nat) : List Byte :=
  let l := (getCtrl s fn).changedNs
  fitBytes 4096 ((if 1024 < l.length then [0xFFFFFFFF] else l).flatMap (leBytes 4))

/-- Commands Supported and Effects: admin commands, then those of the I/O command set. -/
def pageEffects (csi : Nat) : List Byte :=
  let admin := fun (o : Nat) =>
    if ¬ adminKnown o then 0 else if o = 0x80 then 0x1000F else if o = 0x0D ∨ o = 0x15 then 0x0D else 1
  let io := fun (o : Nat) =>
    if csi = 0 then (if [0x01, 0x08, 0x09].contains o then 3 else if [0x00, 0x02, 0x05, 0x0C].contains o then 1 else 0)
    else if csi = 4 then b2n (decide (o = opExecute))
    else if csi = 3 then (if o = opMemWrite ∨ o = opMemCopy then 3 else b2n (decide (o = opMemRead))) else 0
  fitBytes 4096 ((List.range 256).flatMap (fun o => leBytes 4 (admin o)) ++ (List.range 256).flatMap (fun o => leBytes 4 (io o)))

/-- ANA state of the station's groups: 1 Optimized, 3 Inaccessible (R46, R47). -/
def anaState (s : State) : Nat := if inaccessible s ∨ (inCaravan s ∧ s.mode.mode = .extinguished) then 3 else 1

/-- Namespaces attached to a controller, of an ANA group: 1 NVM, 2 compute, 3 SLM (R525). -/
def groupNs (s : State) (fn g : Nat) : List Nat :=
  (Tbl.keys s.host.attached).filter (fun n => isAttached s fn n && decide ((if n ≤ 1024 then 1 else if n = computeNsid then 2 else 3) = g))

/-- ANA; `rgo`: groups only. -/
def pageAna (s : State) (fn : Nat) (rgo : Bool) : List Byte :=
  leBytes 8 0 ++ leBytes 2 3 ++ zeroBytes 6 ++ [1, 2, 3].flatMap (fun g =>
    let ns := if rgo then [] else groupNs s fn g
    leBytes 4 g ++ leBytes 4 ns.length ++ leBytes 8 0 ++ leBytes 1 (anaState s) ++ zeroBytes 15 ++ ns.flatMap (leBytes 4))

/-- SSTAT and SCDW10 by the last sanitize, and SPROG while one runs (R596, R599). -/
def pageSanitize (s : State) : List Byte :=
  let p := progLast s
  let san := match p with | some p => if p.kind = 2 then some p else none | none => none
  let prog := match san with | some p => if p.phase = 1 then progFraction s p else 65535 | none => 65535
  let act := match san with | some p => p.action | none => 0
  fitBytes 512 (leBytes 2 prog ++ leBytes 2 s.host.sanStatus ++ leBytes 4 act ++ leBytes 4 0xFFFFFFFF ++ leBytes 4 120 ++ leBytes 4 10 ++
    leBytes 4 0xFFFFFFFF ++ leBytes 4 120 ++ leBytes 4 10)

/-- Pages of the command sets of R276: the program slots, their type, and the memory range sets. -/
def pagePrograms (s : State) : List Byte :=
  (List.range 64).flatMap (fun i =>
    let p := Tbl.get ProgSlot.empty s.prog.slots i
    leBytes 2 i ++ leBytes 1 (b2n p.image.isSome) ++ leBytes 1 (b2n p.activated) ++ leBytes 4 ((p.image.getD []).length) ++ zeroBytes 8)
def pageProgTypes : List Byte := fitBytes 16 (leBytes 2 1 ++ leBytes 2 0xC0)
def pageRangeSets (s : State) : List Byte :=
  (List.range 256).flatMap (fun i => leBytes 2 i ++ leBytes 2 (Tbl.get [] s.prog.rsets i).length ++ zeroBytes 4)

/-! Vendor pages. -/

/-- Header and snapshot lists of the Keeper's Log page (R807). -/
def keeperHead (s : State) : List Byte :=
  let l := s.log
  fitBytes 64 (leBytes 2 1 ++ zeroBytes 2 ++ leBytes 4 l.head ++ leBytes 8 l.seq ++ leBytes 8 (logOldest s) ++ leBytes 4 l.foreverUsed ++
    leBytes 4 l.lost ++ leBytes 8 s.td17) ++
    (List.range 16).flatMap (fun c =>
      let x := snapList s c
      fitBytes 64 (leBytes 2 x.version ++ leBytes 1 x.offsets.length) ++ fitBytes 192 (x.offsets.flatMap (leBytes 4)))

/-- Record slots from `a`, `n` of them. -/
def keeperSlots (s : State) (a n : Nat) : List Byte :=
  (List.range n).flatMap (fun i => match Tbl.find s.log.slots (a + i) with | some r => recImage r | none => zeroBytes 256)

/-- Keeper's Log, 4,198,464 bytes. -/
def pageKeeper (s : State) : LogPage :=
  { size := 4198464
    bytes := fun o n =>
      let a := if o < 4160 then 0 else (o - 4160) / 256
      let b := min 16384 ((o + n - 4160 + 255) / 256)
      let start := if o < 4160 then 0 else 4160 + 256 * a
      fitBytes n (((if o < 4160 then keeperHead s else []) ++ keeperSlots s a (b - a)).drop (o - start)) }

/-- A fraction × 65,536 as a field of 16 bits. -/
def frac16 (v : Nat) : List Byte := leBytes 2 (min 65535 v)

/-- A station record of the Placement Report (R225). -/
def placeStation (s : State) (i : Nat) : List Byte :=
  let st := if inCaravan s then (if i = ownStation s then 1 else stationState s i) else b2n (decide (i = ownStation s))
  if st = 0 then zeroBytes 64
  else
    let r := reportOf s i
    let partner := if i = ownStation s ∧ s.plc.partner ≠ 0 then s.plc.partner - 1 else 0xFF
    let source := s.plc.moves.any (fun m => decide (m.srcStation = i))
    let flags := b2n (decide (stationExcl s i ≠ 0)) + 2 * b2n source + 4 * b2n (decide (r.left ≠ 0))
    fitBytes 64 (leBytes 1 i ++ leBytes 1 st ++ leBytes 1 (Tbl.get 0 s.rte.record.groups i) ++ leBytes 1 partner ++ leBytes 4 r.owned ++
      frac16 r.load ++ frac16 r.wear ++ leBytes 1 r.heat ++ leBytes 1 flags ++ zeroBytes 2 ++ leBytes 8 r.debt ++ leBytes 8 r.held ++
      leBytes 8 r.left ++ leBytes 8 (min max64 r.moved) ++ leBytes 8 r.stamp)

/-- A wing record. -/
def placeWing (s : State) (w : Nat) : List Byte :=
  let hot := hotBand s w
  let flags := b2n (s.mode.wingOut.getLsbD w) + 2 * b2n (decide (wingExcl s w ≠ 0)) + 4 * b2n (decide (hot = 4))
  fitBytes 64 (leBytes 1 w ++ leBytes 1 flags ++ leBytes 1 hot ++ [0] ++ leBytes 4 (wingMapBlocks s w) ++ frac16 (Tbl.get 0 s.plc.load w) ++
    frac16 (wearOf s w) ++ leBytes 4 (runningLegs s w).length ++ leBytes 8 (min max64 (Tbl.get 0 s.plc.legsDone w)) ++
    leBytes 8 (Tbl.get 0 s.plc.wingBytes w))

/-- Phase of a move in the report: 1 copying, 2 final pass, 3 committing (R198, R200). -/
def movePhase (m : Move) : Nat :=
  if m.srcStation = m.dstStation then (if m.step ≤ 2 then 1 else if m.step = 3 then 2 else 3)
  else if m.step ≤ 4 then 1 else if m.step ≤ 6 then 2 else 3

/-- A move record. -/
def placeMove (m : Move) : List Byte :=
  leBytes 4 m.nsid ++ leBytes 4 m.bale ++ leBytes 1 m.srcStation ++ leBytes 1 m.srcWing ++ leBytes 1 m.dstStation ++ leBytes 1 m.dstWing ++
    leBytes 1 m.reason ++ leBytes 1 (movePhase m) ++ zeroBytes 2 ++ leBytes 4 (m.todo.length + m.marked.length) ++ zeroBytes 4 ++ leBytes 8 m.start

/-- Summary of the Placement Report, 6,720 bytes (R225). -/
def pagePlacement (s : State) : List Byte :=
  let mv := s.plc.moves.take 64
  let lit := litMembers s
  fitBytes 64 (leBytes 2 1 ++ leBytes 1 lit ++ leBytes 1 (droverLead s) ++ leBytes 1 (ownStation s) ++ [0] ++ leBytes 2 mv.length ++
    leBytes 8 (mappedBales s) ++ leBytes 4 (mappedBales s / max 1 lit) ++ zeroBytes 4 ++ leBytes 8 s.td17) ++
    (List.range 64).flatMap (placeStation s) ++ (List.range 8).flatMap (placeWing s) ++ fitBytes 2048 (mv.flatMap placeMove)

/-- Bales of a namespace. -/
def nsBales (n : NsInfo) : Nat := (n.size + 16383) / 16384

/-- The bale listing of a namespace (R226). -/
def pageBales (s : State) (nsid bales : Nat) : LogPage :=
  { size := 16 * bales
    bytes := fun o n => fitBytes n ((List.range ((n + 15) / 16)).flatMap (fun i =>
      if o / 16 + i < bales then leBytes 16 (dirWord nsid (o / 16 + i) (dirEntry s nsid (o / 16 + i))) else zeroBytes 16)) }

/-- The counters of the unit captured at one instant (R791). -/
def cntCapture (s : State) : CntCapture :=
  { stamp := s.td17, winStatus := BitVec.ofNat 64 (readCnt s 0x10), opSeconds := s.cnt.opSeconds, powerCycles := s.cnt.powerCycles,
    slots := s.cnt.slots, keeper := s.cnt.keeper, wrap := s.cnt.wrap, fns := s.cnt.fns }

/-- Counter Snapshot, 92,608 bytes. -/
def pageCounters (c : CntCapture) : List Byte :=
  let slot := fun (k : Nat) => if k < 6 then 0 else if k = 7 then c.opSeconds else if k = 8 then c.powerCycles else Tbl.get 0 c.slots k
  fitBytes 64 (leBytes 2 1 ++ zeroBytes 6 ++ leBytes 8 c.stamp ++ leBytes 8 c.winStatus.toNat ++ leBytes 8 c.opSeconds ++ leBytes 8 c.powerCycles) ++
    (List.range 7168).flatMap (fun k => leBytes 8 (slot k)) ++ (List.range 192).flatMap (fun k => leBytes 8 (Tbl.get 0 c.keeper k)) ++
    (List.range 112).flatMap (fun n => leBytes 8 (bitSet ((List.range 64).filter (fun i => Tbl.get false c.wrap (64 * n + i))))) ++
    (List.range 4096).flatMap (fun k => leBytes 8 (Tbl.get 0 c.fns k))

/-- Bales of an absent station that are not rebuilt, in bytes. -/
def rebuildLeft (s : State) (i : Nat) : Nat := 2 ^ 26 * (s.plc.rebuilding.filter (fun (b : Nat × Nat × Nat) => b.2.2 = i)).length

/-- A station record of the Caravan Status page. -/
def carStation (s : State) (i : Nat) : List Byte :=
  let st := if ¬ inCaravan s then 0 else if i = ownStation s then (if s.mode.mode = .lit then 1 else stationState s i) else stationState s i
  if st = 0 then zeroBytes 32
  else
    let t := Tbl.get Route.none s.rte.routes i
    let hops := if i = ownStation s then 0 else if t.reach then t.hops else 0xFF
    fitBytes 32 (leBytes 1 st ++ leBytes 1 (Tbl.get 0 s.rte.record.groups i) ++ leBytes 1 hops ++ leBytes 1 t.first ++
      leBytes 4 (Tbl.get 0 s.rte.fwSets i) ++ leBytes 8 (Tbl.get 0 s.rte.lastSeen i) ++ leBytes 8 (if st = 4 then rebuildLeft s i else 0))

/-- A link record. -/
def carLink (s : State) (l : Nat) : List Byte :=
  let k := getLink s l
  fitBytes 32 (leBytes 1 k.state.code ++ leBytes 1 k.peer ++ leBytes 1 k.peerLink ++ leBytes 1 k.refuse ++ leBytes 8 (min max64 k.flits) ++
    leBytes 4 (min (2 ^ 32 - 1) k.replays) ++ leBytes 4 (min (2 ^ 32 - 1) k.downs))

/-- Caravan Status, 2,240 bytes (R649). -/
def pageCaravan (s : State) : List Byte :=
  let r := s.rte.record
  let car := inCaravan s
  fitBytes 64 (leBytes 2 1 ++ leBytes 1 (if car then (members s).length else 0) ++ leBytes 1 (if car then litMembers s else 0) ++ leBytes 1 (droverLead s) ++
    leBytes 1 (ownStation s) ++ leBytes 1 (if car then r.topo else 0xFF) ++ leBytes 1 r.code ++ leBytes 8 r.id ++ leBytes 8 r.epoch ++ leBytes 8 s.td17 ++
    leBytes 1 (b2n s.rte.partition)) ++
    (List.range 64).flatMap (carStation s) ++ (List.range 4).flatMap (carLink s)

/-- Smallest DRM_RESERVE.LEFT of the channels. -/
def reserveLeft (s : State) : Nat := ((List.range 8).map (fun w => (getDram s w).left)).foldl min 251658

/-- Health and Retirement, 512 bytes (R545). -/
def pageHealth (s : State) : List Byte :=
  let m := s.med
  let outBits := (List.range 128).map (fun c => BitVec.ofNat 8 (bitSet ((List.range 8).filter (fun i => !portOk s (8 * c + i)))))
  fitBytes 512 (leBytes 2 1 ++ zeroBytes 6 ++ leBytes 8 s.td17 ++ (List.range 18).flatMap (fun i => leBytes 8 (Tbl.get 0 m.health i)) ++
    leBytes 8 m.dramPagesRet ++ leBytes 8 m.dramBanksRet ++ leBytes 8 (reserveLeft s) ++ leBytes 8 m.dramCorr ++ leBytes 8 m.dramUncorr ++
    leBytes 4 s.pwr.marginKept ++ zeroBytes 4 ++ leBytes 8 s.pwr.checkedKept ++ zeroBytes 8 ++ outBits ++
    (List.range 128).map (fun c => BitVec.ofNat 8 (spareMin s c)))

/-- A sensor record of the Thermal and Pace page. -/
def thermalSensor (s : State) (n : Nat) : List Byte :=
  let x := getSensor s n
  fitBytes 16 (leBytes 2 (twos 16 x.temp) ++ leBytes 2 (twos 16 x.maxTemp) ++ leBytes 2 (10 * sensorLimit s n) ++ leBytes 1 (if x.seen then x.band else 0) ++
    leBytes 1 (b2n (decide (x.cause ≠ 0)) + 2 * b2n x.vote + 4 * b2n x.fast) ++ leBytes 1 x.cause ++ leBytes 1 (sensorRegion n))

/-- A wing record. -/
def thermalWing (s : State) (w : Nat) : List Byte :=
  let p := wingPwr s w
  let mon := fun (i : Nat) => listGet PaceMon.fresh p.mons i
  let jband := max (getSensor s (2 * w)).band (getSensor s (2 * w + 1)).band
  fitBytes 64 (leBytes 2 p.vcore ++ leBytes 2 (ceilingOf s w) ++ leBytes 1 (wingState s w) ++ leBytes 1 jband ++ zeroBytes 2 ++
    (List.range 4).flatMap (fun m => leBytes 2 (mon m).pace) ++ (List.range 4).flatMap (fun m => leBytes 2 (mon m).minPace) ++ leBytes 4 p.shortEvents)

/-- Thermal and Pace, 2,144 bytes (R838). -/
def pageThermal (s : State) : List Byte :=
  let p := s.pwr
  let hk := readHk s 0
  fitBytes 64 (leBytes 2 1 ++ zeroBytes 6 ++ leBytes 8 s.td17 ++ leBytes 2 (bitsOf hk 26 16) ++ leBytes 1 (hk % 128)) ++
    fitBytes 64 (leBytes 4 p.vin ++ leBytes 4 p.iin ++ leBytes 8 (readHk s 0x10) ++ leBytes 4 p.vstore ++ leBytes 4 p.margin ++ leBytes 8 p.checkedAt ++
      leBytes 4 (readHk s 0x38 % 2 ^ 32) ++ leBytes 1 p.flushTrigger) ++
    (List.range 94).flatMap (thermalSensor s) ++ (List.range 8).flatMap (thermalWing s)

/-! Telemetry (R536). -/

/-- Pads a page to a multiple of 512 bytes. -/
def pad512 (l : List Byte) : List Byte := fitBytes ((l.length + 511) / 512 * 512) l

/-- Data areas 1 to 3 as they stand; during Kindling, zeros stand for the pages that return zeros (R528). -/
def telemetryNow (s : State) : List Byte :=
  let up := fun (l : List Byte) => if s.mode.mode = .kindling then zeroBytes l.length else l
  pad512 (pageCounters (cntCapture s)) ++ pad512 (pageHealth s) ++ pad512 (pageThermal s) ++ pad512 ((pageKeeper s).bytes 0 4198464) ++
    pad512 (up (pageCaravan s)) ++ pad512 (up (pagePlacement s))

/-- Last blocks of areas 1, 2 and 3. -/
def telemetryAreas : Nat × Nat × Nat := (187, 8388, 8407)

/-- Telemetry Host-Initiated: a header of 512 bytes, then the areas. -/
def pageTelemetry (data : List Byte) : List Byte :=
  let a := if data = [] then (0, 0, 0) else telemetryAreas
  fitBytes 512 ([0x07] ++ zeroBytes 7 ++ leBytes 2 a.1 ++ leBytes 2 a.2.1 ++ leBytes 2 a.2.2) ++ data

end Sys2Proof.Machine
end

