-- ==== Sys2Proof/Machine/LogRows.lean ====
section
/-! DEFINITION. Get Log Page, page by page (R528, R534 to R546). -/

namespace Sys2Proof.Machine

/-- Log page identifier, Log Specific Parameter, Retain Asynchronous Event and offset of a Get Log Page. -/
def logLid (q : Sqe) : Nat := q.cdw10 % 256
def logLsp (q : Sqe) : Nat := bitsOf q.cdw10 14 8
def logRetain (q : Sqe) : Bool := bitOf q.cdw10 15
def logOff (q : Sqe) : Nat := q.cdw12 % 2 ^ 32 + 2 ^ 32 * (q.cdw13 % 2 ^ 32)

/-- Pages that return zeros until Lit (R528). -/
def kindlingZero (lid : Nat) : Bool := [0x04, 0x0C, 0xC9, 0xCB, 0x82, 0x83, 0x84].contains lid

/-- The Placement Report in the form that LSP selects (R224, R226). -/
def placementPage (s : State) (q : Sqe) : Except Status LogPage :=
  if logLsp q = 0 then .ok (pageOf (pagePlacement s))
  else if logLsp q = 1 then
    match (if q.nsid = 0 then none else nsInfo s q.nsid) with
    | none => .error stNamespace
    | some n => if logOff q % 16 ≠ 0 then .error stField else .ok (pageBales s q.nsid (nsBales n))
  else .error stField

/-- The page that a Get Log Page of a function names. -/
def findPage (s : State) (fn : Nat) (q : Sqe) : Except Status LogPage :=
  if ¬ lidKnown fn (logLid q) then .error stLogPage
  else match logLid q with
    | 0x00 => .ok (pageOf (pageSupported fn))
    | 0x01 => .ok (pageOf (pageErrors s))
    | 0x02 => .ok (pageOf (pageSmart s))
    | 0x03 => .ok (pageOf (pageFirmware s))
    | 0x04 => .ok (pageOf (pageChanged s fn))
    | 0x05 => .ok (pageOf (pageEffects (bitsOf q.cdw14 31 24)))
    | 0x07 => .ok (pageOf (pageTelemetry s.host.telemetry))
    | 0x0C => .ok (pageOf (pageAna s fn (bitOf (logLsp q) 0)))
    | 0x81 => .ok (pageOf (pageSanitize s))
    | 0x82 => .ok (pageOf (pagePrograms s))
    | 0x83 => .ok (pageOf pageProgTypes)
    | 0x84 => .ok (pageOf (pageRangeSets s))
    | 0xC8 => .ok (pageKeeper s)
    | 0xC9 => placementPage s q
    | 0xCA => .ok (pageOf (pageCounters ((Tbl.find s.cnt.captures fn).getD (cntCapture s))))
    | 0xCB => .ok (pageOf (pageCaravan s))
    | 0xCC => .ok (pageOf (pageHealth s))
    | _ => .ok (pageOf (pageThermal s))

/-- What is captured before a page is read: the counters at offset 0 or when nothing is captured (R791), telemetry when it is asked for. -/
def logCapture (fn : Nat) (q : Sqe) (s : State) : State :=
  if logLid q = 0xCA ∧ (logOff q = 0 ∨ (Tbl.find s.cnt.captures fn).isNone) then
    { s with cnt := { s.cnt with captures := Tbl.insert s.cnt.captures fn (cntCapture s) } }
  else if logLid q = 0x07 ∧ bitOf (logLsp q) 0 then { s with host := { s.host with telemetry := telemetryNow s } }
  else s

/-- The answer to a Get Log Page: status and data (R528, R544). -/
def logAnswer (s : State) (fn : Nat) (q : Sqe) : Status × List Byte :=
  match findPage s fn q with
  | .error st => (st, [])
  | .ok p =>
    if logOff q % 4 ≠ 0 ∨ p.size ≤ logOff q then (stField, [])
    else if s.mode.mode = .kindling ∧ kindlingZero (logLid q) then (stOk, zeroBytes (adminLen q))
    else (stOk, p.bytes (logOff q) (adminLen q))

/-- What reading a page does: the changed namespaces are read, and events of the page are reported again (R537). -/
def logRead (fn : Nat) (q : Sqe) (s : State) : State :=
  if logRetain q then s
  else
    let c := getCtrl s fn
    setCtrl fn { c with changedNs := if logLid q = 0x04 ∧ s.mode.mode ≠ .kindling then [] else c.changedNs
                        aenMasked := c.aenMasked.filter (fun m => evPage m ≠ logLid q) } s

/-- Answers a Get Log Page. -/
def answerLog (c : OutCmd) (s : State) : State :=
  let fn := c.cmd.fn
  let s1 := logCapture fn c.sqe s
  let a := logAnswer s1 fn c.sqe
  if a.1 = stOk then deliverEvents fn 16 (logRead fn c.sqe (answerData c.cmd 0 a.2 s1)) else failCmd c a.1 s

/-- A Get Log Page of one of some identifiers is answered. -/
def onLog (r : CmdRef) (lids : Nat → Bool) (s : State) : State :=
  onAdmin r 0x02 (fun c s => if lids (logLid c.sqe) then answerLog c s else s) s

/-- Pages that have rows of their own. -/
def ownRow (lid : Nat) : Bool := [0x02, 0x07, 0xC8, 0xC9, 0xCA, 0xCB, 0xCC, 0xCD].contains lid

/-- GET_LOG_PAGE: the pages without a row of their own, and identifiers that name no page. -/
def execGetLogPage (r : CmdRef) (s : State) : Host.Outcome State Fault Refusal := .next (onLog r (fun l => !ownRow l) s)

/-- SMART_HEALTH_LOG (R535). -/
def execSmartHealthLog (r : CmdRef) (s : State) : Host.Outcome State Fault Refusal := .next (onLog r (fun l => l == 0x02) s)

/-- TELEMETRY_HOST_INITIATED (R536). -/
def execTelemetryHostInitiated (r : CmdRef) (s : State) : Host.Outcome State Fault Refusal := .next (onLog r (fun l => l == 0x07) s)

/-- KEEPERS_LOG_PAGE (R807). -/
def execKeepersLogPage (r : CmdRef) (s : State) : Host.Outcome State Fault Refusal := .next (onLog r (fun l => l == 0xC8) s)

/-- PLACEMENT_REPORT (R224 to R226). -/
def execPlacementReport (r : CmdRef) (s : State) : Host.Outcome State Fault Refusal := .next (onLog r (fun l => l == 0xC9) s)

/-- COUNTER_SNAPSHOT (R791). -/
def execCounterSnapshot (r : CmdRef) (s : State) : Host.Outcome State Fault Refusal := .next (onLog r (fun l => l == 0xCA) s)

/-- CARAVAN_STATUS_PAGE (R649). -/
def execCaravanStatusPage (r : CmdRef) (s : State) : Host.Outcome State Fault Refusal := .next (onLog r (fun l => l == 0xCB) s)

/-- HEALTH_AND_RETIREMENT (R545). -/
def execHealthAndRetirement (r : CmdRef) (s : State) : Host.Outcome State Fault Refusal := .next (onLog r (fun l => l == 0xCC) s)

/-- THERMAL_AND_PACE (R838). -/
def execThermalAndPace (r : CmdRef) (s : State) : Host.Outcome State Fault Refusal := .next (onLog r (fun l => l == 0xCD) s)

end Sys2Proof.Machine
end

