-- ==== Sys2Proof/Machine/NsRows.lean ====
section
/-! DEFINITION. Identify, Namespace Management and Attachment, Virtualization Management (R513 to R527, R557, R674). -/

namespace Sys2Proof.Machine

/-! Identify. What NVMe and not the spec lays out is log entry 23. -/

/-- Characters as bytes. -/
def asciiBytes (t : String) : List Byte := t.toList.map (fun c => BitVec.ofNat 8 c.toNat)

/-- A text in a field of `n` bytes, padded with spaces. -/
def padText (n : Nat) (b : List Byte) : List Byte := (b ++ List.replicate (n - b.length) 0x20).take n

/-- Ordering code (R1, R2). -/
def orderCode (v : Variant) : String :=
  match v with
  | .v200A => "GL-9100-200-A"
  | .v200C => "GL-9100-200-C"
  | .v100A => "GL-9100-100-A"
  | .v100C => "GL-9100-100-C"

/-- Lower-case hexadecimal digits of a number. -/
def hexDigits : Nat → Nat → List Byte
  | 0, _ => []
  | n + 1, v =>
    let d := v % 16
    hexDigits n (v / 16) ++ [BitVec.ofNat 8 (if d < 10 then 0x30 + d else 0x57 + d)]

/-- The subsystem's NQN (R521). -/
def subNqn (s : State) : List Byte :=
  asciiBytes "nqn.2021-09.dev.sashaulo:glasha:" ++ hexDigits 16 (if inCaravan s then s.rte.record.id else s.cfg.moduleId)

/-- Identify Controller (R521, R522). -/
def idController (s : State) (fn : Nat) : List Byte :=
  fields 4096
    [(0, leBytes 2 0x1F3C), (2, leBytes 2 0x1F3C), (4, padText 20 s.cfg.serial), (24, padText 40 (asciiBytes (orderCode s.cfg.variant))),
     (64, padText 8 (imgRevision s.kin.image)), (72, [6]), (76, [0x0F, 9]), (78, leBytes 2 (cntlid s fn)), (80, leBytes 4 0x00020100),
     (88, leBytes 4 10000000), (92, leBytes 4 0xB00), (111, [1]), (256, leBytes 2 0x00CE), (258, [15, 15, 0x18, 0x0E, 255]),
     (266, leBytes 2 358), (268, leBytes 2 368), (319, [1]), (328, leBytes 4 3), (342, [10, 0x49]), (344, leBytes 4 3), (348, leBytes 4 3),
     (512, [0x66, 0x44]), (516, leBytes 4 1089), (520, leBytes 2 0x00CD), (524, [0x04]), (526, leBytes 2 63), (528, leBytes 2 63),
     (536, leBytes 4 0x00040001), (540, leBytes 4 1024), (768, subNqn s), (2048, leBytes 2 23000), (2064, leBytes 2 2800), (2066, [0x80]),
     (2068, leBytes 2 19000), (2070, [0x80]), (3072, leBytes 2 1), (3074, leBytes 1 (ownStation s)), (3075, leBytes 1 (litMembers s)),
     (3076, leBytes 1 s.mode.wingOut.toNat), (3077, leBytes 1 (match s.mode.mode with | .dark => 0 | .kindling => 1 | .lit => 2 | .extinguished => 3)),
     (3078, leBytes 1 s.mode.reason), (3080, asciiBytes "stepping B1     "), (3096, leBytes 4 1025), (3100, leBytes 4 (1026 + ownStation s)),
     (3104, leBytes 8 s.chr.generation)]

/-- Written blocks of a namespace that this station's map holds. -/
def nsUse (s : State) (nsid : Nat) : Nat :=
  ((s.med.map.filter (fun e => e.1 / 2 ^ 44 = nsid)).map (fun e => ((List.range 4).map (fun i => b2n (bitOf (enPresent e.2) i))).sum)).sum

/-- The formats and abilities that every NVM namespace has (R526). -/
def idCommon : List (Nat × List Byte) :=
  [(24, [2]), (25, [2]), (27, [3, 0x1F]), (33, [9]), (34, leBytes 2 63), (36, leBytes 2 63), (40, leBytes 2 63), (44, leBytes 2 63), (64, leBytes 2 3),
   (66, leBytes 2 3), (68, leBytes 2 3), (70, leBytes 2 3), (72, leBytes 2 63), (128, leBytes 2 0 ++ [12]), (132, leBytes 2 8 ++ [12]),
   (136, leBytes 2 64 ++ [12])]

/-- Identify Namespace of an NVM namespace (R525 to R527). -/
def idNamespace (s : State) (nsid : Nat) (n : NsInfo) : List Byte :=
  fields 4096 (idCommon ++
    [(0, leBytes 8 n.size), (8, leBytes 8 n.cap), (16, leBytes 8 (nsUse s nsid)), (26, leBytes 1 (n.lbaf + 16 * b2n n.extended)),
     (29, leBytes 1 (n.pit + 8 * b2n n.pil)), (30, leBytes 1 (b2n n.shared)), (48, leBytes 16 (4096 * n.cap)), (92, leBytes 4 1),
     (3840, leBytes 1 (b2n n.packed))])

/-- The namespace exists: an NVM one, the compute namespace, a member's SLM namespace (R523). -/
def nsExists (s : State) (nsid : Nat) : Bool :=
  if nsid ≤ 1024 then decide (nsid ≠ 0) && (nsInfo s nsid).isSome
  else decide (nsid = computeNsid) || (decide (1026 ≤ nsid) && (members s).contains (nsid - 1026))

/-- Command set of a namespace: 0 NVM, 3 SLM, 4 computational programs. -/
def nsCsi (nsid : Nat) : Nat := if nsid ≤ 1024 then 0 else if nsid = computeNsid then 4 else 3

/-- Allocated namespaces in rising order. -/
def allNs (s : State) : List Nat := Tbl.keys s.host.namespaces ++ computeNsid :: (members s).map (fun m => 1026 + m)

/-- A list of namespace identifiers above one, as a page. -/
def nsListPage (l : List Nat) (after : Nat) : List Byte := fitBytes 4096 (((l.filter (fun n => after < n)).take 1024).flatMap (leBytes 4))

/-- A controller list page. -/
def ctrlListPage (l : List Nat) : List Byte := fitBytes 4096 (leBytes 2 (min 2047 l.length) ++ (l.take 2047).flatMap (leBytes 2))

/-- Controllers of the subsystem that this station knows: its own PF and every VF it can have. -/
def ownCtrls (s : State) : List Nat := (List.range (totalVfs s + 1)).map (cntlid s)

/-- Primary Controller Capabilities (R514). -/
def idPrimary (s : State) : List Byte :=
  let vq := ((s.host.vq.filter (fun e => e.1 ≠ 0)).map (·.2)).sum
  let vi := ((s.host.vi.filter (fun e => e.1 ≠ 0)).map (·.2)).sum
  fields 4096
    [(0, leBytes 2 (cntlid s 0)), (2, leBytes 2 (ownStation s)), (4, [3]), (32, leBytes 4 8128), (36, leBytes 4 vq),
     (40, leBytes 2 ((getCtrl s 0).vqNow - 64)), (42, leBytes 2 64), (44, leBytes 2 1024), (46, leBytes 2 1), (64, leBytes 4 65472), (68, leBytes 4 vi),
     (72, leBytes 2 (Tbl.get 0 s.host.vi 0)), (74, leBytes 2 2048), (76, leBytes 2 64), (78, leBytes 2 1)]

/-- Secondary Controller List from a controller identifier on. -/
def idSecondary (s : State) (lo : Nat) : List Byte :=
  let l := ((List.range (totalVfs s)).map (· + 1)).filter (fun f => lo ≤ cntlid s f)
  let e := fun (f : Nat) => fitBytes 32 (leBytes 2 (cntlid s f) ++ leBytes 2 (cntlid s 0) ++ leBytes 1 (b2n (Tbl.get false s.host.online f)) ++ zeroBytes 3 ++
    leBytes 2 f ++ leBytes 2 (Tbl.get 0 s.host.vq f) ++ leBytes 2 (Tbl.get 0 s.host.vi f))
  fitBytes 4096 (leBytes 1 (min 127 l.length) ++ zeroBytes 31 ++ (l.take 127).flatMap e)

/-- The command set's own Identify Controller (R557). -/
def idCtrlNvm : List Byte := fields 4096 [(0, [9, 9, 0, 0]), (4, leBytes 4 16384), (8, leBytes 8 4194304)]

/-- Identify data that comes from namespaces, which need media (R528). -/
def idMedia (cns : Nat) : Bool := [0x00, 0x02, 0x03, 0x05, 0x07, 0x08, 0x10, 0x11, 0x12].contains cns

/-- The namespace is active for a function. -/
def nsActive (s : State) (fn nsid : Nat) : Bool := nsExists s nsid && isAttached s fn nsid

/-- A namespace's own page, for those of no NVM data a page of zeros with its ANA group. -/
def idOf (s : State) (nsid : Nat) : List Byte :=
  match (if nsid ≤ 1024 then nsInfo s nsid else none) with
  | some n => idNamespace s nsid n
  | none => zeroBytes 4096

/-- Identify CNS 08h: size, ANA group, readiness. -/
def idIndependent (s : State) (nsid : Nat) : List Byte :=
  fields 4096 [(1, leBytes 1 (match nsInfo s nsid with | some n => b2n n.shared | none => 1)), (4, leBytes 4 (if nsid ≤ 1024 then 1 else if nsid = computeNsid then 2 else 3)),
    (14, [1])]

/-- The data of an Identify, or the status that refuses it. -/
def idData (s : State) (fn : Nat) (q : Sqe) : Except Status (List Byte) :=
  let cns := q.cdw10 % 256
  let csi := bitsOf q.cdw11 31 24
  let nsid := q.nsid
  let lo := bitsOf q.cdw10 31 16
  if s.mode.mode = .kindling ∧ idMedia cns then .error stMediaNotReady
  else
    let one := fun (act : Bool) (page : List Byte) =>
      if nsid = 0 ∨ 1089 < nsid then Except.error stNamespace
      else if (if act then nsActive s fn nsid else nsExists s nsid) then .ok page else .ok (zeroBytes 4096)
    match cns with
    | 0x00 => if nsid = 0xFFFFFFFF then .ok (fields 4096 idCommon) else one true (idOf s nsid)
    | 0x01 => .ok (idController s fn)
    | 0x02 => if 0xFFFFFFFE ≤ nsid then .error stNamespace else .ok (nsListPage ((allNs s).filter (isAttached s fn)) nsid)
    | 0x03 => one true (fields 4096 [(0, [4, 1, 0, 0] ++ leBytes 1 (nsCsi nsid))])
    | 0x05 => if nsCsi nsid = csi then one true (zeroBytes 4096) else .error stField
    | 0x06 => if csi = 0 then .ok idCtrlNvm else if csi = 3 ∨ csi = 4 then .ok (zeroBytes 4096) else .error stField
    | 0x07 => if 0xFFFFFFFE ≤ nsid then .error stNamespace else .ok (nsListPage ((allNs s).filter (fun n => isAttached s fn n && decide (nsCsi n = csi))) nsid)
    | 0x08 => one true (idIndependent s nsid)
    | 0x10 => if 0xFFFFFFFE ≤ nsid then .error stNamespace else .ok (nsListPage (allNs s) nsid)
    | 0x11 => one false (idOf s nsid)
    | 0x12 => if nsExists s nsid then .ok (ctrlListPage ((Tbl.get [] s.host.attached nsid).filter (fun c => lo ≤ c))) else .error stNamespace
    | 0x13 => .ok (ctrlListPage ((ownCtrls s).filter (fun c => lo ≤ c)))
    | 0x14 => if fn = 0 then .ok (idPrimary s) else .error stField
    | 0x15 => if fn = 0 then .ok (idSecondary s lo) else .error stField
    | 0x1C => .ok (fields 4096 [(0, leBytes 8 0x19)])
    | _ => .error stField

/-- IDENTIFY (R521, R522, R526, R527). -/
def execIdentify (r : CmdRef) (s : State) : Host.Outcome State Fault Refusal :=
  .next (onAdmin r 0x06 (fun c s =>
    match idData s r.fn c.sqe with
    | .error st => failCmd c st s
    | .ok d => answerData r 0 d s) s)

/-! Namespace Management (R221, R523, R526, R527, R691, R693). -/

/-- Namespace Insufficient Capacity; Namespace Identifier Unavailable; Thin Provisioning Not Supported; ANA Group Identifier Invalid. -/
def stCapacity : Status := mkStatus 1 0x15
def stNoId : Status := mkStatus 1 0x16
def stThin : Status := mkStatus 1 0x1B
def stAnaGroup : Status := mkStatus 1 0x24

/-- Logical blocks that namespaces may have in all: the user capacity, in a caravan the members' with the code's data share (R1, R23). -/
def capacityBlocks (s : State) : Nat :=
  let one := if is200 s then 48828125000 else 24414062500
  if ¬ inCaravan s then one
  else
    let k := match s.rte.record.code with | 0 => (8, 10) | 1 => (4, 5) | _ => (12, 14)
    (members s).length * one * k.1 / k.2

/-- The lowest free identifier (R523). -/
def lowestNs (s : State) : Option Nat := ((List.range 1024).map (· + 1)).find? (fun n => (nsInfo s n).isNone)

/-- The namespace that a create structure describes. -/
def createInfo (d : List Byte) : NsInfo :=
  let f := imgField d 26 1
  let dps := imgField d 29 1
  { size := imgField d 0 8, cap := imgField d 8 8, lbaf := f % 16 + 16 * bitsOf f 6 5, extended := bitOf f 4, pit := dps % 8, pil := bitOf dps 3,
    guard64 := false, packed := bitOf (imgField d 3840 1) 0, shared := bitOf (imgField d 30 1) 0 }

/-- Why a namespace is not created. -/
def createRefusal (s : State) (d : List Byte) (csi : Nat) : Option Status :=
  let n := createInfo d
  if csi ≠ 0 ∨ n.size = 0 ∨ n.cap = 0 ∨ n.size < n.cap then some stField
  else if n.cap < n.size then some stThin
  else if 2 < n.lbaf ∨ 3 < n.pit ∨ (n.lbaf = 0 ∧ n.pit ≠ 0) then some stBadFormat
  else if 1 < imgField d 92 4 then some stAnaGroup
  else if capacityBlocks s < ((Tbl.vals s.host.namespaces).map (·.cap)).sum + n.cap then some stCapacity
  else if (lowestNs s).isNone then some stNoId else none

/-- A namespace exists from now on at this station. -/
def addNs (nsid : Nat) (n : NsInfo) (s : State) : State := { s with host := { s.host with namespaces := Tbl.insert s.host.namespaces nsid n } }

/-- Functions of this station among some controllers. -/
def ownFns (s : State) (l : List Nat) : List Nat := (l.filter (fun c => c / 1024 = ownStation s)).map (fun c => c % 1024)

/-- Tells the controllers of this station among some that a namespace changed. -/
def tellNs (l : List Nat) (nsid : Nat) (s : State) : State := (ownFns s l).foldl (fun s f => noticeNs f nsid s) s

/-- A namespace is deleted at this station: its uncommitted commands end, its bales are Empty, its key generation advances, its hint and
attachments are gone (R221, R691, R693). -/
def deleteNs (nsid : Nat) (s : State) : State :=
  let cmds := s.host.out.filter (fun c => !c.admin && decide (c.sqe.nsid = nsid) && !c.committed)
  let s1 := cmds.foldl (fun s c => endCmd c.cmd stNamespace s) s
  let s2 := emptyNamespace nsid (advanceNs nsid s1)
  let l := Tbl.get [] s2.host.attached nsid
  tellNs l nsid { putHint nsid 0 s2 with host := { s2.host with namespaces := Tbl.erase s2.host.namespaces nsid, attached := Tbl.erase s2.host.attached nsid } }

/-- Words of an order that carry a namespace. -/
def nsNums (n : NsInfo) : List Nat := [n.size, n.cap, n.lbaf, b2n n.extended, n.pit, b2n n.pil, b2n n.packed, b2n n.shared]

/-- The namespace of those words. -/
def numsNs (l : List Nat) : NsInfo :=
  let g := listGet 0 l
  { size := g 0, cap := g 1, lbaf := g 2, extended := decide (g 3 = 1), pit := g 4, pil := decide (g 5 = 1), guard64 := false, packed := decide (g 6 = 1), shared := decide (g 7 = 1) }

/-- A namespace order goes to the other Lit members, and the command completes after them: at once for a lone module. Kind 0 a create, which
answers the identifier, 1 a delete, 2 an attachment, 3 a detachment. -/
def nsOrder (r : CmdRef) (kind nsid : Nat) (nums : List Nat) (s : State) : State :=
  if otherLit s = [] then completeCmd r stOk (if kind = 0 then nsid else 0) 0 [] s
  else orderAll ordNamespace nsid kind (kind :: nsid :: nums) [] (some r) s

/-- Deletes one namespace or all. -/
def nsDelete (c : OutCmd) (s : State) : State :=
  let q := c.sqe
  let l := if q.nsid = 0xFFFFFFFF then Tbl.keys s.host.namespaces else [q.nsid]
  if q.nsid ≠ 0xFFFFFFFF ∧ (q.nsid = 0 ∨ 1024 < q.nsid ∨ (nsInfo s q.nsid).isNone) then failCmd c stNamespace s
  else if l.any (fun n => s.host.stoppedNs.contains n) then failCmd c stFormat s
  else nsOrder c.cmd 1 q.nsid l (l.foldl (fun s n => deleteNs n s) s)

/-- The command waits for other members already. -/
def awaits (s : State) (r : CmdRef) : Bool := s.rte.waits.any (fun w => decide (w.cmd = some r))

/-- NAMESPACE_MANAGEMENT. A delete waits while the journal is full (R86). -/
def execNamespaceManagement (r : CmdRef) (s : State) : Host.Outcome State Fault Refusal :=
  .next (onAdmin r 0x0D (fun c s =>
    let sel := c.sqe.cdw10 % 16
    if awaits s r then s
    else if sel = 1 then (if s.med.jrnStall then s else nsDelete c s)
    else if sel ≠ 0 then failCmd c stField s
    else match createRefusal s c.sqe.data (bitsOf c.sqe.cdw11 31 24), lowestNs s with
      | none, some nsid =>
        let n := createInfo c.sqe.data
        nsOrder r 0 nsid (nsNums n) (addNs nsid n s)
      | some st, _ => failCmd c st s
      | none, none => failCmd c stNoId s) s)

/-! Namespace Attachment (R524). -/

/-- Namespace Already Attached; Namespace Is Private; Namespace Not Attached. -/
def stAttached : Status := mkStatus 1 0x18
def stPrivate : Status := mkStatus 1 0x19
def stNotAttached : Status := mkStatus 1 0x1A

/-- The controllers of a controller list; none when the list breaks its form. -/
def ctrlList (d : List Byte) : Option (List Nat) :=
  let n := imgField d 0 2
  let l := (List.range n).map (fun i => imgField d (2 + 2 * i) 2)
  if n = 0 ∨ 2047 < n ∨ ¬ (l.zip (l.drop 1)).all (fun p => decide (p.1 < p.2)) then none else some l

/-- The controller exists: a function of a member station. -/
def ctrlExists (s : State) (c : Nat) : Bool := (members s).contains (c / 1024) && decide (c ≤ 0xFFEF)

/-- Attaches or detaches controllers at this station's tables. -/
def attachNs (nsid : Nat) (add : Bool) (l : List Nat) (s : State) : State :=
  let old := Tbl.get [] s.host.attached nsid
  let new := if add then old ++ l.filter (fun c => !old.contains c) else old.filter (fun c => !l.contains c)
  tellNs l nsid { s with host := { s.host with attached := if new = [] then Tbl.erase s.host.attached nsid else Tbl.insert s.host.attached nsid new } }

/-- The namespace takes one controller only. -/
def isPrivate (s : State) (nsid : Nat) : Bool := match (if nsid ≤ 1024 then nsInfo s nsid else none) with | some n => !n.shared | none => false

/-- NAMESPACE_ATTACHMENT. -/
def execNamespaceAttachment (r : CmdRef) (s : State) : Host.Outcome State Fault Refusal :=
  .next (onAdmin r 0x15 (fun c s =>
    let sel := c.sqe.cdw10 % 16
    let nsid := c.sqe.nsid
    let old := Tbl.get [] s.host.attached nsid
    if awaits s r then s
    else if 1 < sel then failCmd c stField s
    else if ¬ nsExists s nsid then failCmd c stNamespace s
    else match ctrlList c.sqe.data with
      | none => failCmd c stCtrlList s
      | some l =>
        if ¬ l.all (ctrlExists s) then failCmd c stCtrlList s
        else if 1026 ≤ nsid ∧ ¬ l.all (fun x => decide (x / 1024 = nsid - 1026)) then failCmd c stCtrlList s
        else if sel = 0 ∧ l.any (fun x => old.contains x) then failCmd c stAttached s
        else if sel = 1 ∧ ¬ l.all (fun x => old.contains x) then failCmd c stNotAttached s
        else if sel = 0 ∧ isPrivate s nsid ∧ 1 < old.length + l.length then failCmd c stPrivate s
        else nsOrder r (2 + sel) nsid l (attachNs nsid (decide (sel = 0)) l s)) s)

/-! Virtualization Management (R514 to R517, R674). -/

/-- Invalid Controller Identifier; Invalid Number of Controller Resources; Invalid Resource Identifier. -/
def stCtrlId : Status := mkStatus 1 0x1F
def stResCount : Status := mkStatus 1 0x21
def stResource : Status := mkStatus 1 0x22

/-- Queue pairs that an allocation replaces: of the PF its next, of a VF its own (R515). -/
def vqOf (s : State) (fn : Nat) : Nat := if fn = 0 then s.host.pfVqNext else Tbl.get 0 s.host.vq fn

/-- Assigns queue pairs with the ledger in one update (R517). -/
def assignVq (fn n : Nat) (s : State) : State :=
  let h := s.host
  let old := vqOf s fn
  { s with host := { h with
      vq := if fn = 0 then h.vq else Tbl.put 0 h.vq fn n
      pfVqNext := if fn = 0 then n else h.pfVqNext
      poolFree := h.poolFree + old - n
      poolAssigned := h.poolAssigned + n - old } }

/-- Flexible vectors assigned in all. -/
def viTotal (s : State) : Nat := (Tbl.vals s.host.vi).sum

/-- Assigns a number of a resource, 0 queue pairs or 1 vectors, to a function; the number assigned is returned. -/
def assignRes (c : OutCmd) (fn rt n : Nat) (s : State) : State :=
  if 1 < rt then failCmd c stResource s
  else if fn ≠ 0 ∧ (if rt = 0 then 1024 else 64) < n then failCmd c stResCount s
  else if rt = 0 then
    if s.host.poolFree + vqOf s fn < n then failCmd c stResCount s else completeCmd c.cmd stOk n 0 [] (assignVq fn n s)
  else if 65472 + Tbl.get 0 s.host.vi fn < viTotal s + n then failCmd c stResCount s
  else completeCmd c.cmd stOk n 0 [] { s with host := { s.host with vi := Tbl.put 0 s.host.vi fn n } }

/-- The VF that a controller identifier names. -/
def secondaryOf (s : State) (id : Nat) : Option Nat :=
  if id / 1024 = ownStation s ∧ 1 ≤ id % 1024 ∧ id % 1024 ≤ totalVfs s then some (id % 1024) else none

/-- VIRTUALIZATION_MANAGEMENT: every action but Secondary Offline. -/
def execVirtualizationManagement (r : CmdRef) (s : State) : Host.Outcome State Fault Refusal :=
  .next (onAdmin r 0x1C (fun c s =>
    let d := c.sqe.cdw10
    let act := d % 16
    let id := bitsOf d 31 16
    let n := c.sqe.cdw11 % 2 ^ 16
    if act = 7 then s
    else if r.fn ≠ 0 ∨ ¬ (act = 1 ∨ act = 8 ∨ act = 9) then failCmd c stField s
    else if act = 1 then (if id = cntlid s 0 then assignRes c 0 (bitsOf d 10 8) n s else failCmd c stCtrlId s)
    else match secondaryOf s id with
      | none => failCmd c stCtrlId s
      | some f =>
        let on := Tbl.get false s.host.online f
        if act = 8 then (if on then failCmd c stSecondary s else assignRes c f (bitsOf d 10 8) n s)
        else if on then failCmd c stOk s
        else if vfEnabled s f ∧ 1 ≤ Tbl.get 0 s.host.vq f ∧ 1 ≤ Tbl.get 0 s.host.vi f then
          failCmd c stOk { s with host := { s.host with online := Tbl.put false s.host.online f true } }
        else failCmd c stSecondary s) s)

/-- SECONDARY_OFFLINE (R674): the controller leaves service as at its reset. -/
def execSecondaryOffline (r : CmdRef) (s : State) : Host.Outcome State Fault Refusal :=
  .next (onAdmin r 0x1C (fun c s =>
    let d := c.sqe.cdw10
    if d % 16 ≠ 7 then s
    else if r.fn ≠ 0 then failCmd c stField s
    else match secondaryOf s (bitsOf d 31 16) with
      | none => failCmd c stCtrlId s
      | some f =>
        if ¬ Tbl.get false s.host.online f then failCmd c stOk s
        else if fnMode s f = .quiesced ∨ fnMode s f = .frozen then
          let s1 := controllerReset f s
          failCmd c stOk { s1 with host := { s1.host with online := Tbl.put false s1.host.online f false } }
        else failCmd c stQuiesce s) s)

end Sys2Proof.Machine
end

