-- ==== Sys2Proof/Machine/FwRows.lean ====
section
/-! DEFINITION. Firmware download and commit, the roll, Wing Withdraw and Return, Light List Write (R845 to R872). -/

namespace Sys2Proof.Machine

/-- Invalid Firmware Slot; Invalid Firmware Image; Firmware Activation Requires Conventional Reset; Firmware Activation Prohibited. -/
def stFwSlot : Status := mkStatus 1 0x06
def stFwImage : Status := mkStatus 1 0x07
def stFwReset : Status := mkStatus 1 0x0B
def stFwProhibited : Status := mkStatus 1 0x13

/-- FIRMWARE_IMAGE_DOWNLOAD (R521, R845). -/
def execFirmwareImageDownload (r : CmdRef) (s : State) : Host.Outcome State Fault Refusal :=
  .next (onAdmin r 0x11 (fun c s =>
    let off := 4 * (c.sqe.cdw11 % 2 ^ 32)
    let len := 4 * (c.sqe.cdw10 % 2 ^ 32 + 1)
    if off % 4096 ≠ 0 ∨ 33554432 < off + len then failCmd c stField s
    else
      let k := s.kin
      failCmd c stOk { s with kin := { k with download := Memory.writeBytes k.download off (fitBytes len c.sqe.data), pieces := k.pieces ++ [(off, len)] } }) s)

/-- The image that the pieces make up; none while a piece of it is missing. -/
def downloaded (s : State) : Option (List Byte) :=
  let len := leNat (Memory.readBytes s.kin.download 24 4)
  if 256 ≤ len ∧ len ≤ 33554432 ∧ coveredBy (s.kin.pieces.length + 1) s.kin.pieces 0 len then some (Memory.readBytes s.kin.download 0 len) else none

/-- The slot that a commit names: 0 selects one for an action that writes (R860). -/
def commitSlot (s : State) (action slot : Nat) : Option Nat :=
  if 4 < slot ∨ (slot = 0 ∧ 2 ≤ action) then none
  else if slot ≠ 0 then some slot
  else match [1, 2, 3, 4].find? (fun n => (Tbl.find s.kin.images n).isNone) with
    | some n => some n
    | none => [1, 2, 3, 4].find? (fun n => n ≠ s.kin.running ∧ n ≠ s.kin.boot.previous)

/-- The status of an image cause at a commit (R861 checks 1 to 3). The recovery service makes every check of every action (R851). -/
def causeStatus (s : State) (action cause : Nat) : Option Status :=
  if cause = 1 ∨ cause = 2 ∨ cause = 5 then some stFwImage
  else if cause ≠ 0 ∧ (action ≠ 0 ∨ s.kin.running = 0) then some stFwProhibited
  else none

/-- Order code of the question whether a firmware set is in a member's tested-peer list (R861 check 4). -/
def ordFwSet : Nat := 23

/-- The station's running image lists a set as a peer, or is of it (R846). -/
def peerListed (s : State) (set : Nat) : Bool := (imgPeerSets s.kin.image).contains set || decide (imgSetId s.kin.image = set)

/-- Every Lit member's set is in an image's list. -/
def peersTested (s : State) (img : List Byte) : Bool :=
  (litStations s).all (fun m =>
    let set := if m = ownStation s then imgSetId s.kin.image else Tbl.get 0 s.rte.fwSets m
    (imgPeerSets img).contains set || decide (set = imgSetId img))

/-- The boot record with new contents; its sequence goes up (R847). -/
def putBoot (f : BootRec → BootRec) (s : State) : State :=
  let b := f s.kin.boot
  { s with kin := { s.kin with boot := { b with seq := b.seq + 1 } } }

/-- A wing of a roll is withdrawn, loads its new firmware and starts its return (R863 step 2). -/
def rollWing (w : Nat) (s : State) : State :=
  let s1 := withdrawWing w s
  setWingPwr w { wingPwr s1 w with vcore := 620, goodRun := 0, holdRun := 0 } { s1 with kin := { s1.kin with returning := some { wing := w, cmd := none } } }

/-- Ends the commit under way. -/
def commitEnd (o : CommitOp) (st : Status) (s : State) : State :=
  let s1 := { s with kin := { s.kin with commit := none, download := if o.action ≤ 1 then [] else s.kin.download, pieces := if o.action ≤ 1 then [] else s.kin.pieces } }
  completeCmd o.cmd st 0 0 [] s1

/-- Checks 5 to 7 of R861, and the work begins: the slot is written, or the roll's wing 0 is withdrawn. -/
def commitGo (o : CommitOp) (s : State) : State :=
  if o.action ≠ 3 then { s with kin := { s.kin with commit := some { o with phase := 0 } } }
  else if ¬ (imgCohabs o.image).contains (imgVersion s.kin.image) then commitEnd o stFwReset s
  else if s.mode.wingOut ≠ 0 then commitEnd o stFwProhibited s
  else if s.mode.mode = .extinguished then commitEnd o (stExt s) s
  else if s.mode.mode ≠ .lit then commitEnd o stSequence s
  else
    rollWing 0 (putBoot (fun b => { b with rollPhase := 1, rollWing := 0 }) { s with kin := { s.kin with commit := some { o with phase := 2, wing := 0 } } })

/-- A Firmware Commit begins to run: the slot, checks 1 to 3, and the members are asked for check 4 (R860, R861). -/
def commitBegin (r : CmdRef) (q : Sqe) (s : State) : State :=
  let action := bitsOf q.cdw10 5 3
  let o : CommitOp := { cmd := r, slot := 0, action := action, image := [], phase := 5, wing := 0 }
  match commitSlot s action (q.cdw10 % 8) with
  | none => commitEnd o stFwSlot s
  | some n =>
    let img := if action ≤ 1 then downloaded s else Tbl.find s.kin.images n
    if action ≤ 1 ∧ n = s.kin.running then commitEnd o stFwSlot s
    else match causeStatus s action (imgCause s img false) with
      | some st => commitEnd o st s
      | none =>
        let o1 : CommitOp := { o with slot := n, image := img.getD [] }
        let set := imgSetId o1.image
        if action = 0 ∨ ¬ inCaravan s then commitGo o1 s
        else if ¬ (peerListed s set ∧ peersTested s o1.image) then commitEnd o stFwProhibited s
        else if otherLit s = [] then commitGo o1 s
        else orderAll ordFwSet set 0 [set] [] (some r) { s with kin := { s.kin with commit := some o1 } }

/-- The next Firmware Commit that waits begins (R862). -/
def commitKick (s : State) : State :=
  match s.kin.commit with
  | some _ => s
  | none =>
    match s.kin.commitWait with
    | [] => s
    | o :: rest =>
      let s1 := { s with kin := { s.kin with commitWait := rest } }
      match findCmd s1 o.cmd with
      | some c => commitBegin o.cmd c.sqe s1
      | none => s1

/-- A Firmware Commit of some actions is admitted: it waits while another runs (R862). -/
def onCommit (r : CmdRef) (p : Nat → Bool) (s : State) : State :=
  onAdmin r 0x10 (fun c s =>
    let o : CommitOp := { cmd := r, slot := 0, action := bitsOf c.sqe.cdw10 5 3, image := [], phase := 5, wing := 0 }
    if ¬ p o.action ∨ (s.kin.commit.map (·.cmd)) = some r then s
    else commitKick { s with kin := { s.kin with
      commitWait := if s.kin.commitWait.any (fun x => decide (x.cmd = r)) then s.kin.commitWait else s.kin.commitWait ++ [o] } }) s

/-- FIRMWARE_COMMIT_REPLACE: action 000b; an action that no row names completes with Invalid Field in Command. -/
def execFirmwareCommitReplace (r : CmdRef) (s : State) : Host.Outcome State Fault Refusal :=
  .next (onAdmin r 0x10 (fun c s => if 3 < bitsOf c.sqe.cdw10 5 3 then failCmd c stField s else s) (onCommit r (fun a => a == 0) s))

/-- FIRMWARE_COMMIT_NEXT_RESET: action 001b. -/
def execFirmwareCommitNextReset (r : CmdRef) (s : State) : Host.Outcome State Fault Refusal := .next (onCommit r (fun a => a == 1) s)

/-- FIRMWARE_COMMIT_ACTIVATE: action 010b. -/
def execFirmwareCommitActivate (r : CmdRef) (s : State) : Host.Outcome State Fault Refusal := .next (onCommit r (fun a => a == 2) s)

/-- FIRMWARE_COMMIT_ROLL: action 011b. -/
def execFirmwareCommitRoll (r : CmdRef) (s : State) : Host.Outcome State Fault Refusal := .next (onCommit r (fun a => a == 3) s)

/-- FIRMWARE_SLOT_WRITTEN (R848, R862): the slot holds the image and was read back; 001b and 010b set NEXT. -/
def execFirmwareSlotWritten (readBack : Bool) (s : State) : Host.Outcome State Fault Refusal :=
  .next (match s.kin.commit with
    | none => s
    | some o =>
      if s.mode.mode = .dark ∨ o.action = 3 ∨ o.phase ≠ 0 then s
      else
        let s1 := if o.action = 2 then s
          else { s with kin := { s.kin with images := Tbl.insert s.kin.images o.slot o.image
                                            slots := Tbl.put SlotView.empty s.kin.slots o.slot (slotView s (some o.image) (!readBack)) } }
        if readBack then
          commitKick (commitEnd o stOk (if o.action = 0 then s1 else putBoot (fun b => { b with next := o.slot }) s1))
        else commitKick (commitEnd o stFwImage s1))

/-- Step 4 of R863: the roll is complete. -/
def rollDone (o : CommitOp) (s : State) : State :=
  let b := s.kin.boot
  let s1 := putBoot (fun _ => { b with active := o.slot, previous := if o.slot = b.active then b.previous else b.active, rollPhase := 0, rollWing := 0 }) s
  let s2 := { s1 with kin := { s1.kin with running := o.slot, image := o.image, wingVersion := [] } }
  let s3 := raise 1085 (logOcc 0xA002 1085 (leBytes 1 o.slot ++ List.replicate 3 0 ++ fitBytes 8 (imgRevision o.image)) (noticeFirmware s2))
  commitKick (commitEnd o stOk s3)

/-- ROLL_WING_DONE (R863 to R865): the wing that is out returns on the new image and the next is withdrawn; after wing 7 the hub switches, and at
its end the roll is complete (log entry 72). -/
def execRollWingDone (s : State) : Host.Outcome State Fault Refusal :=
  .next (match s.kin.commit with
    | none => s
    | some o =>
      if s.mode.mode ≠ .lit ∨ o.action ≠ 3 ∨ s.med.flush.isSome then s
      else if o.phase = 3 then rollDone o s
      else if o.phase ≠ 2 ∨ (s.kin.returning.map (·.wing)) ≠ some o.wing then s
      else
        let s1 := returnWing o.wing { s with kin := { s.kin with returning := none, wingVersion := Tbl.insert s.kin.wingVersion o.wing (imgVersion o.image) } }
        let s2 := putBoot (fun b => { b with rollPhase := 1, rollWing := o.wing }) s1
        if o.wing = 7 then { s2 with kin := { s2.kin with commit := some { o with phase := 3 } } }
        else rollWing (o.wing + 1) { s2 with kin := { s2.kin with commit := some { o with wing := o.wing + 1 } } })

/-! Wing Withdraw and Return (R868 to R872). -/

/-- A Wing Withdraw/Return of an action: its wing, once CDW11 is in order. -/
def onWing (r : CmdRef) (action : Nat) (f : OutCmd → Nat → State → State) (s : State) : State :=
  onAdmin r 0xC7 (fun c s =>
    let d := c.sqe.cdw11 % 2 ^ 32
    if d % 2 ≠ action then s
    else if bitsOf d 3 1 ≠ 0 ∨ d / 2 ^ 7 ≠ 0 then failCmd c stField s
    else f c (bitsOf d 6 4) s) s

/-- WING_WITHDRAW (R869, R871). -/
def execWingWithdraw (r : CmdRef) (s : State) : Host.Outcome State Fault Refusal :=
  .next (onWing r 0 (fun c w s => if s.mode.wingOut ≠ 0 ∨ rollActive s then failCmd c stSequence s else failCmd c stOk (withdrawWing w s)) s)

/-- WING_RETURN (R835, R869, R870, R872): VCORE rises from 0.62 V; the command completes when the return does. -/
def execWingReturn (r : CmdRef) (s : State) : Host.Outcome State Fault Refusal :=
  .next (onWing r 1 (fun c w s =>
    if (s.kin.returning.map (·.cmd)) = some (some r) then s
    else if ¬ s.mode.wingOut.getLsbD w ∨ rollActive s ∨ s.kin.returning.isSome then failCmd c stSequence s
    else setWingPwr w { wingPwr s w with vcore := 620, goodRun := 0, holdRun := 0 } { s with kin := { s.kin with returning := some { wing := w, cmd := some r } } }) s)

/-! Light List Write (R857 to R859). -/

/-- The oldest Light List Write admitted. -/
def firstLlWrite (s : State) (r : CmdRef) : Bool :=
  decide ((s.host.out.find? (fun c => c.admin && decide (c.sqe.opc = opLightList))).map (·.cmd) = some r)

/-- A refused write (R858). -/
def llRefuse (c : OutCmd) (cause : Nat) (s : State) : State :=
  completeCmd c.cmd stField 0 cause [] { s with kin := { s.kin with llFail := true, llCause := if cause = 0 then s.kin.llCause else cause } }

/-- Sequences of the valid copies A and B as they stand. -/
def llSeqs (s : State) : Option Nat × Option Nat :=
  let one := fun (c : Option (List Byte)) => match c with | some x => if llCause s c false = 0 then some (llSeqOf x) else none | none => none
  (one s.kin.copyA, one s.kin.copyB)

/-- The copy that a write goes to, and its sequence (R857 steps 2 and 3). -/
def llTarget (s : State) : Nat × Nat :=
  match llSeqs s with
  | (none, none) => (0, 1)
  | (some a, none) => (1, a + 1)
  | (none, some b) => (0, b + 1)
  | (some a, some b) => if b ≤ a then (1, a + 1) else (0, b + 1)

/-- The copy as it is written: the data up to LENGTH with SEQ, the time of the write and the CRC. -/
def llSealed (d : List Byte) (seq now : Nat) : List Byte :=
  let c := spliceAt (spliceAt (d.take (llLength d)) 16 (leBytes 8 seq)) 24 (leBytes 8 now)
  spliceAt c 12 (leBytes 4 (llCrc c))

/-- A copy that does not read back as it was written: its CRC fails. -/
def llSpoilt (c : List Byte) : List Byte := spliceAt c 12 (leBytes 4 (imgField c 12 4 + 1))

/-- LIGHT_LIST_WRITE: the oldest such command is carried out; `readBack`: the copy read back as written. -/
def execLightListWrite (r : CmdRef) (readBack : Bool) (s : State) : Host.Outcome State Fault Refusal :=
  .next (onAdmin r opLightList (fun c s =>
    let d := fitBytes (adminLen c.sqe) c.sqe.data
    if ¬ firstLlWrite s r then s
    else if d.length < 64 ∨ (64 ≤ llLength d ∧ llLength d ≤ 4096 ∧ d.length < llLength d) then llRefuse c 0 s
    else if llCause s (some d) false ≠ 0 then llRefuse c (llCause s (some d) false) s
    else
      let t := llTarget s
      let good := llSealed d t.2 s.td17
      let copy := if readBack then good else llSpoilt good
      let k := s.kin
      let cause := if readBack then 0 else 4
      let s1 := { s with kin := { k with
        copyA := if t.1 = 0 then some copy else k.copyA
        copyB := if t.1 = 1 then some copy else k.copyB
        causeA := if t.1 = 0 then cause else k.causeA
        causeB := if t.1 = 1 then cause else k.causeB } }
      if readBack then
        completeCmd r stOk (t.2 % 2 ^ 32) (t.2 / 2 ^ 32) [] { s1 with kin := { s1.kin with llDone := true, llCopy := t.1, llPending := true } }
      else completeCmd r stInternal 0 0 [] { s1 with kin := { s1.kin with llFail := true, llCause := 7 } }) s)

end Sys2Proof.Machine
end

