-- ==== Sys2Proof/Machine/Flags.lean ====
section
/-! DEFINITION. Yusil results and flags: every flag group, every condition code and every arithmetic operation (R394 to R401). -/

namespace Sys2Proof.Machine

/-- The four flags of st. -/
structure YFlags where
  z : Bool
  n : Bool
  c : Bool
  v : Bool
deriving DecidableEq, Repr

/-- The signed value of a number of w bits. -/
def signed (w x : Nat) : Int := if x < 2 ^ (w - 1) then (x : Int) else (x : Int) - 2 ^ w

/-- The w-bit number of an integer. -/
def truncInt (w : Nat) (x : Int) : Nat := (x % 2 ^ w).toNat

/-- Z and N of a result (R394). -/
def znOf (w r : Nat) : Bool × Bool := (r % 2 ^ w = 0, bitOf r (w - 1))

/-- A signed value needs more than w bits. -/
def overflows (w : Nat) (x : Int) : Bool := decide (x < -(2 ^ (w - 1)) ∨ x > 2 ^ (w - 1) - 1)

/-- The result of an operation and its flags. -/
structure YResult where
  r : Nat
  f : YFlags
deriving DecidableEq, Repr

/-- Group ADD (R394). -/
def yAdd (w a b cin : Nat) : YResult :=
  let t := a + b + cin
  let r := t % 2 ^ w
  { r := r, f := { z := (znOf w r).1, n := (znOf w r).2, c := decide (2 ^ w ≤ t), v := overflows w (signed w a + signed w b + cin) } }

/-- Group SUB (R394). -/
def ySub (w a b bin : Nat) : YResult :=
  let r := truncInt w ((a : Int) - b - bin)
  { r := r, f := { z := (znOf w r).1, n := (znOf w r).2, c := decide (a < b + bin), v := overflows w (signed w a - signed w b - bin) } }

/-- Group LOG over a result (R394). -/
def yLog (w r : Nat) : YResult := { r := r % 2 ^ w, f := { z := (znOf w (r % 2 ^ w)).1, n := (znOf w (r % 2 ^ w)).2, c := false, v := false } }

/-- Group SHF over a result and the last bit moved out (R394, R399). -/
def yShf (w r : Nat) (out : Bool) : YResult :=
  { r := r % 2 ^ w, f := { z := (znOf w (r % 2 ^ w)).1, n := (znOf w (r % 2 ^ w)).2, c := out, v := false } }

/-- MUL (R394, R397). -/
def yMul (w a b : Nat) : YResult :=
  let r := (a * b) % 2 ^ w
  { r := r, f := { z := (znOf w r).1, n := (znOf w r).2, c := decide (2 ^ w ≤ a * b), v := overflows w (signed w a * signed w b) } }

/-- MULHU and MULHS (R397). -/
def yMulhu (w a b : Nat) : YResult := yLog w (a * b / 2 ^ w)
def yMulhs (w a b : Nat) : YResult := yLog w (truncInt w (Int.fdiv (signed w a * signed w b) (2 ^ w)))

/-- Group DIV over a result; V only for the most-negative dividend and divisor -1 (R394, R400). -/
def yDivFlags (w r : Nat) (v : Bool) : YResult := { r := r, f := { z := (znOf w r).1, n := (znOf w r).2, c := false, v := v } }

/-- The signed corner of R400. -/
def divCorner (w a b : Nat) : Bool := decide (a = 2 ^ (w - 1) ∧ b = 2 ^ w - 1)

/-- DIVU, DIVS, REMU, REMS; none raises ARITH (R397, R400). -/
def yDivu (w a b : Nat) : Option YResult := if b = 0 then none else some (yDivFlags w (a / b) false)
def yDivs (w a b : Nat) : Option YResult :=
  if b = 0 then none else some (yDivFlags w (truncInt w (Int.tdiv (signed w a) (signed w b))) (divCorner w a b))
def yRemu (w a b : Nat) : Option YResult := if b = 0 then none else some (yDivFlags w (a % b) false)
def yRems (w a b : Nat) : Option YResult :=
  if b = 0 then none else some (yDivFlags w (truncInt w (Int.tmod (signed w a) (signed w b))) (divCorner w a b))

/-- Minimum and maximum (R397). -/
def yMinu (w a b : Nat) : YResult := yLog w (min a b)
def yMaxu (w a b : Nat) : YResult := yLog w (max a b)
def yMins (w a b : Nat) : YResult := yLog w (if signed w a ≤ signed w b then a else b)
def yMaxs (w a b : Nat) : YResult := yLog w (if signed w a ≤ signed w b then b else a)

/-- Bitwise operations (R397). -/
def yAnd (w a b : Nat) : YResult := yLog w (a &&& b)
def yOr (w a b : Nat) : YResult := yLog w (a ||| b)
def yXor (w a b : Nat) : YResult := yLog w (a ^^^ b)
def yAndn (w a b : Nat) : YResult := yLog w (a &&& (2 ^ w - 1 - b % 2 ^ w))
def yNot (w a : Nat) : YResult := yLog w (2 ^ w - 1 - a % 2 ^ w)

/-- Shifts by a count below 2^w; the last bit moved out, 0 for a count of 0 (R397, R399). -/
def yShl (w a n : Nat) : YResult := yShf w (a * 2 ^ n) (n ≠ 0 && bitOf (a * 2 ^ n) w)
def yShr (w a n : Nat) : YResult := yShf w (a / 2 ^ n) (n ≠ 0 && bitOf a (n - 1))
def ySar (w a n : Nat) : YResult := yShf w (truncInt w (Int.fdiv (signed w a) (2 ^ n))) (n ≠ 0 && bitOf a (n - 1))

/-- Rotates (R397, R399). -/
def yRol (w a n : Nat) : YResult :=
  let r := (a * 2 ^ n) % 2 ^ w + a / 2 ^ (w - n)
  yShf w r (n ≠ 0 && bitOf r 0)
def yRor (w a n : Nat) : YResult :=
  let r := a / 2 ^ n + (a * 2 ^ (w - n)) % 2 ^ w
  yShf w r (n ≠ 0 && bitOf r (w - 1))

/-- Bit counts (R397). -/
def popCount (w a : Nat) : Nat := ((List.range w).filter (fun i => bitOf a i)).length
def leadZeros (w a : Nat) : Nat := ((List.range w).takeWhile (fun i => !bitOf a (w - 1 - i))).length
def trailZeros (w a : Nat) : Nat := ((List.range w).takeWhile (fun i => !bitOf a i)).length
def yPopc (w a : Nat) : YResult := yLog w (popCount w a)
def yClz (w a : Nat) : YResult := yLog w (leadZeros w a)
def yCtz (w a : Nat) : YResult := yLog w (trailZeros w a)

/-- The bytes of a value in reverse order (R397). -/
def byteSwap (n a : Nat) : Nat := leNat (leBytes n a).reverse

/-- A w-bit value sign-extended to 64 bits (R397). -/
def signExt (w a : Nat) : Nat := truncInt 64 (signed w a)

/-- A condition code (R395). -/
def condHolds (k : Nat) (f : YFlags) : Bool :=
  match k with
  | 0 => true
  | 1 => f.z
  | 2 => !f.z
  | 3 => f.c
  | 4 => !f.c
  | 5 => f.c || f.z
  | 6 => !f.c && !f.z
  | 7 => f.n != f.v
  | 8 => f.n == f.v
  | 9 => f.z || (f.n != f.v)
  | 10 => !f.z && (f.n == f.v)
  | 11 => f.n
  | 12 => !f.n
  | 13 => f.v
  | 14 => !f.v
  | _ => false

end Sys2Proof.Machine
end

