-- ==== Sys2Proof/Machine/YDecode.lean ====
section
/-! DEFINITION. Decoding Yusil instructions: the two forms, their fields and every ILLEGAL cause (R350 to R354, R393 to R398). -/

namespace Sys2Proof.Machine

/-- The operations of Yusil, one of each mnemonic (R397, R398). -/
inductive YOp where
  | mov | add | adc | sub | sbc | neg | mul | mulhu | mulhs | divu | divs | remu | rems | minu | maxu | mins | maxs
  | band | bor | bxor | andn | bnot | shl | shr | sar | rol | ror | popc | clz | ctz | bswap | sext | zext | cmp | tst
  | setc | cas | movst | setst | btst | bset | bclr | br | jmp | call | ret | loop | leave | rdcnt | wait | post | yld | nop
  | movi | addi | subi | cmpi | shli | shri | sari
deriving DecidableEq, Repr

/-- An operand specifier (R355, R356). -/
inductive Spec where
  | reg (n : Nat)
  | ind (n : Nat)
  | post (n : Nat)
  | pre (n : Nat)
  | frame (n : Nat)
  | loop (n : Nat)
  | lit (n : Nat)
  | imm (n : Nat)
deriving DecidableEq, Repr

/-- A decoded instruction: length in bytes, operand size of the sources and of the destination, specifiers, and the fields
of the branch, CALL, LOOP, SET and immediate forms. -/
structure YInstr where
  op : YOp
  len : Nat
  brief : Bool
  size : Nat
  dsize : Nat
  d : Option Spec
  s1 : Option Spec
  s2 : Option Spec
  n : Nat
  cond : Nat
  disp : Nat
  mask : Nat
  level : Nat
  body : Nat
deriving DecidableEq, Repr

/-- A 7-bit specifier (R355). -/
def spec7 (x : Nat) : Spec :=
  let f := x % 16
  match x / 16 % 8 with
  | 0 => .reg f
  | 1 => .ind f
  | 2 => .post f
  | 3 => .pre f
  | 4 => .frame f
  | 5 => .loop f
  | 6 => .lit f
  | _ => .imm f

/-- A 5-bit brief specifier (R356). -/
def spec5 (x : Nat) : Spec :=
  let f := x % 8
  match x / 8 % 4 with
  | 0 => .reg f
  | 1 => .ind f
  | 2 => .post f
  | _ => .frame f

/-- A specifier may be a destination (R355). -/
def specDest : Spec → Bool
  | .lit _ => false
  | .imm _ => false
  | _ => true

/-- Rows of the full-form table: operation, sizes allowed (codes 0 .b to 3 .d), whether d, s1 and s2 are used (R397). -/
def fullRow (opc : Nat) : Option (YOp × List Nat × Bool × Bool × Bool) :=
  let all := [0, 1, 2, 3]
  match opc with
  | 0x00 => some (.mov, all, true, true, false)
  | 0x01 => some (.add, all, true, true, true)
  | 0x02 => some (.adc, all, true, true, true)
  | 0x03 => some (.sub, all, true, true, true)
  | 0x04 => some (.sbc, all, true, true, true)
  | 0x05 => some (.neg, all, true, true, false)
  | 0x06 => some (.mul, all, true, true, true)
  | 0x07 => some (.mulhu, all, true, true, true)
  | 0x08 => some (.mulhs, all, true, true, true)
  | 0x09 => some (.divu, all, true, true, true)
  | 0x0A => some (.divs, all, true, true, true)
  | 0x0B => some (.remu, all, true, true, true)
  | 0x0C => some (.rems, all, true, true, true)
  | 0x0D => some (.minu, all, true, true, true)
  | 0x0E => some (.maxu, all, true, true, true)
  | 0x0F => some (.mins, all, true, true, true)
  | 0x10 => some (.maxs, all, true, true, true)
  | 0x11 => some (.band, all, true, true, true)
  | 0x12 => some (.bor, all, true, true, true)
  | 0x13 => some (.bxor, all, true, true, true)
  | 0x14 => some (.andn, all, true, true, true)
  | 0x15 => some (.bnot, all, true, true, false)
  | 0x16 => some (.shl, all, true, true, true)
  | 0x17 => some (.shr, all, true, true, true)
  | 0x18 => some (.sar, all, true, true, true)
  | 0x19 => some (.rol, all, true, true, true)
  | 0x1A => some (.ror, all, true, true, true)
  | 0x1B => some (.popc, all, true, true, false)
  | 0x1C => some (.clz, all, true, true, false)
  | 0x1D => some (.ctz, all, true, true, false)
  | 0x1E => some (.bswap, [1, 2, 3], true, true, false)
  | 0x1F => some (.sext, [0, 1, 2], true, true, false)
  | 0x20 => some (.zext, [0, 1, 2], true, true, false)
  | 0x21 => some (.cmp, all, false, true, true)
  | 0x22 => some (.tst, all, false, true, true)
  | 0x23 => some (.setc, all, true, false, false)
  | 0x24 => some (.cas, all, true, true, true)
  | 0x25 => some (.movst, [3], true, false, false)
  | 0x26 => some (.setst, all, false, true, false)
  | 0x27 => some (.btst, all, false, true, true)
  | 0x28 => some (.bset, all, true, true, true)
  | 0x29 => some (.bclr, all, true, true, true)
  | 0x30 => some (.br, [0], false, false, false)
  | 0x31 => some (.jmp, [3], false, true, false)
  | 0x32 => some (.call, [0], false, false, false)
  | 0x33 => some (.loop, all, false, false, false)
  | 0x38 => some (.rdcnt, [3], true, true, false)
  | 0x39 => some (.wait, [2], true, true, true)
  | 0x3A => some (.post, [2], false, true, true)
  | _ => none

/-- A full form of 32 bits (R352, R393, R397); none is ILLEGAL. -/
def decodeFull (w : Nat) : Option YInstr :=
  let opc := bitsOf w 29 23
  let sz := bitsOf w 22 21
  match fullRow opc with
  | none => none
  | some (op, sizes, useD, use1, use2) =>
    let base : YInstr := { op := op, len := 4, brief := false, size := 2 ^ sz, dsize := 2 ^ sz, d := none, s1 := none, s2 := none,
                           n := 0, cond := 0, disp := 0, mask := 0, level := 0, body := 0 }
    if !sizes.contains sz then none
    else match op with
      | .br => if bitsOf w 20 17 = 15 then none else some { base with cond := bitsOf w 20 17, disp := bitsOf w 16 0 }
      | .call => if bitOf w 20 then none else some { base with size := 8, dsize := 8, mask := bitsOf w 20 5, s1 := some (spec5 (w % 32)) }
      | .loop => if bitsOf w 11 0 = 0 then none
          else some { base with level := bitsOf w 20 19, s1 := some (spec7 (bitsOf w 18 12)), body := bitsOf w 11 0 }
      | .setc =>
          if bitsOf w 13 4 ≠ 0 ∨ w % 16 = 15 ∨ !specDest (spec7 (bitsOf w 20 14)) then none
          else some { base with d := some (spec7 (bitsOf w 20 14)), cond := w % 16 }
      | _ =>
        let dS := spec7 (bitsOf w 20 14)
        if (!useD && bitsOf w 20 14 ≠ 0) || (!use1 && bitsOf w 13 7 ≠ 0) || (!use2 && bitsOf w 6 0 ≠ 0) then none
        else if useD && !specDest dS then none
        else if op = .cas ∧ bitsOf w 20 18 = 0 then none
        else some { base with
          dsize := if op = .sext ∨ op = .zext then 8 else 2 ^ sz
          d := if useD then some dS else none
          s1 := if use1 then some (spec7 (bitsOf w 13 7)) else none
          s2 := if use2 then some (spec7 (bitsOf w 6 0)) else none }

/-- How a brief opcode uses its fields (R398). -/
inductive BriefKind where
  | none      -- both fields 0
  | dOnly     -- destination field, source field 0
  | imm       -- destination field and n
  | two       -- destination, also first source, and source
  | move      -- destination written from source
deriving DecidableEq, Repr

/-- Rows of the brief table: operation, source size, destination size, use of the fields (R398). -/
def briefRow (opc : Nat) : Option (YOp × Nat × Nat × BriefKind) :=
  match opc with
  | 0x01 => some (.nop, 8, 8, .none)
  | 0x02 => some (.mov, 8, 8, .move)
  | 0x03 => some (.mov, 4, 4, .move)
  | 0x04 => some (.mov, 2, 2, .move)
  | 0x05 => some (.mov, 1, 1, .move)
  | 0x06 => some (.add, 8, 8, .two)
  | 0x07 => some (.adc, 8, 8, .two)
  | 0x08 => some (.sub, 8, 8, .two)
  | 0x09 => some (.sbc, 8, 8, .two)
  | 0x0A => some (.band, 8, 8, .two)
  | 0x0B => some (.bor, 8, 8, .two)
  | 0x0C => some (.bxor, 8, 8, .two)
  | 0x0D => some (.andn, 8, 8, .two)
  | 0x0E => some (.shl, 8, 8, .two)
  | 0x0F => some (.shr, 8, 8, .two)
  | 0x10 => some (.sar, 8, 8, .two)
  | 0x11 => some (.mul, 8, 8, .two)
  | 0x12 => some (.cmp, 8, 8, .two)
  | 0x13 => some (.tst, 8, 8, .two)
  | 0x14 => some (.neg, 8, 8, .move)
  | 0x15 => some (.bnot, 8, 8, .move)
  | 0x16 => some (.sext, 4, 8, .move)
  | 0x17 => some (.sext, 2, 8, .move)
  | 0x18 => some (.sext, 1, 8, .move)
  | 0x19 => some (.movi, 8, 8, .imm)
  | 0x1A => some (.addi, 8, 8, .imm)
  | 0x1B => some (.subi, 8, 8, .imm)
  | 0x1C => some (.cmpi, 8, 8, .imm)
  | 0x1D => some (.shli, 8, 8, .imm)
  | 0x1E => some (.shri, 8, 8, .imm)
  | 0x1F => some (.sari, 8, 8, .imm)
  | 0x20 => some (.btst, 8, 8, .imm)
  | 0x21 => some (.bset, 8, 8, .imm)
  | 0x22 => some (.bclr, 8, 8, .imm)
  | 0x23 => some (.minu, 8, 8, .two)
  | 0x24 => some (.maxu, 8, 8, .two)
  | 0x25 => some (.mins, 8, 8, .two)
  | 0x26 => some (.maxs, 8, 8, .two)
  | 0x27 => some (.popc, 8, 8, .move)
  | 0x28 => some (.clz, 8, 8, .move)
  | 0x29 => some (.ctz, 8, 8, .move)
  | 0x2A => some (.bswap, 8, 8, .move)
  | 0x2B => some (.jmp, 8, 8, .dOnly)
  | 0x2C => some (.ret, 8, 8, .none)
  | 0x2D => some (.leave, 8, 8, .none)
  | 0x2E => some (.yld, 8, 8, .none)
  | 0x2F => some (.movst, 8, 8, .dOnly)
  | _ => none

/-- A brief form of 16 bits (R352, R353, R398); none is ILLEGAL. -/
def decodeBrief (h : Nat) : Option YInstr :=
  let df := bitsOf h 9 5
  let sf := h % 32
  match briefRow (bitsOf h 15 10) with
  | none => none
  | some (op, sz, dsz, k) =>
    let base : YInstr := { op := op, len := 2, brief := true, size := sz, dsize := dsz, d := none, s1 := none, s2 := none,
                           n := 0, cond := 0, disp := 0, mask := 0, level := 0, body := 0 }
    match k with
    | .none => if h % 1024 ≠ 0 then none else some base
    | .dOnly => if sf ≠ 0 then none else some { base with d := some (spec5 df) }
    | .imm => some { base with d := some (spec5 df), n := sf }
    | .two => some { base with d := some (spec5 df), s1 := some (spec5 sf) }
    | .move => some { base with d := some (spec5 df), s1 := some (spec5 sf) }

/-- What fetching and decoding at an address gives: an instruction, or a fault code with the address it reports (R379, R381). -/
inductive Fetched where
  | ok (i : YInstr)
  | bad (code pc : Nat)
deriving DecidableEq, Repr

/-- A halfword of the code hold (R351). -/
def codeHalf (code : Memory) (pc : Nat) : Nat := leNat (Memory.readBytes code (pc - 0x10000) 2)

/-- Fetch and decode at pc (R350, R351, R379). -/
def fetchDecode (code : Memory) (pc : Nat) : Fetched :=
  if pc < 0x10000 ∨ 0x20000 ≤ pc ∨ pc % 2 ≠ 0 then .bad 0x02 pc
  else
    let h := codeHalf code pc
    if h / 2 ^ 14 = 3 then
      if 0x20000 ≤ pc + 2 then .bad 0x02 (pc + 2)
      else match decodeFull (h * 2 ^ 16 + codeHalf code (pc + 2)) with
        | some i => .ok i
        | none => .bad 0x01 pc
    else match decodeBrief h with
      | some i => .ok i
      | none => .bad 0x01 pc

end Sys2Proof.Machine
end

