-- ==== Sys2Proof/Machine/Operands.lean ====
section
/-! DEFINITION. Yusil operands: every operand mode, the checks of every access and their order (R355 to R362, R379, R380). -/

namespace Sys2Proof.Machine

/-- An operand after resolution (R355): a value taken from a register or an immediate, or a memory address. A register
destination keeps its number. -/
inductive Loc where
  | reg (n : Nat) (val : Nat)
  | imm (val : Nat)
  | mem (a : Nat)
deriving DecidableEq, Repr

/-- A register by number. -/
def getReg (r : YRegs) (n : Nat) : Word := r.p.getD n 0

/-- Writes a register by number. -/
def setReg (r : YRegs) (n : Nat) (v : Word) : YRegs := { r with p := r.p.setIfInBounds n v }

/-- The flags of st. -/
def flagsOf (r : YRegs) : YFlags := { z := r.z, n := r.n, c := r.c, v := r.v }

/-- Writes the flags of st. -/
def withFlags (r : YRegs) (f : YFlags) : YRegs := { r with z := f.z, n := f.n, c := f.c, v := f.v }

/-- st as a word (R326, R411). -/
def stWord (r : YRegs) : Nat := r.fault.toNat * 2 ^ 8 + r.ld * 2 ^ 4 + b2n r.v * 8 + b2n r.c * 4 + b2n r.n * 2 + b2n r.z

/-- Resolves a specifier at size `sz` for the instruction at `pc` (R355 to R357); none is NO_LOOP. -/
def resolve (r : YRegs) (pc sz : Nat) : Spec → Option (YRegs × Loc)
  | .reg n => some (r, .reg n ((getReg r n).toNat % 2 ^ (8 * sz)))
  | .ind n => some (r, .mem (getReg r n).toNat)
  | .post n => some (setReg r n (getReg r n + BitVec.ofNat 64 sz), .mem (getReg r n).toNat)
  | .pre n => some (setReg r n (getReg r n - BitVec.ofNat 64 sz), .mem (getReg r n - BitVec.ofNat 64 sz).toNat)
  | .frame k => some (r, .mem (getReg r 14 + BitVec.ofNat 64 (8 * k)).toNat)
  | .loop n =>
    if r.ld = 0 then none
    else some (r, .mem (getReg r n + r.lc.getD (r.ld - 1) 0 * BitVec.ofNat 64 sz).toNat)
  | .lit k => some (r, .mem ((pc + 4 + 7) / 8 * 8 + 8 * k))
  | .imm f => some (r, .imm (truncInt (8 * sz) (signed 4 f)))

/-- Offsets that name a word of a door (R303, R308, R311, chapters 9, 10, 11, 16). -/
def doorWord (n off : Nat) : Bool :=
  decide (off % 8 = 0) &&
  match n with
  | 0 => decide (off ≤ 0x10C) || decide (0x200 ≤ off ∧ off ≤ 0x218)
  | 1 => decide (off ≤ 0x20)
  | 2 => decide (off ≤ 0x28)
  | 3 => decide (off ≤ 0x30) || decide (0x100 ≤ off ∧ off < 0x300)
  | 4 => decide (off ≤ 0x28)
  | 5 => decide (0x100 ≤ off ∧ off ≤ 0x148)
  | 6 => decide (off ≤ 0x58)
  | 7 => decide (off ≤ 0x78)
  | 8 => decide (off ≤ 0x28)
  | 9 => decide (off ≤ 0x18)
  | _ => false

/-- The kind of task may use the door: a reduce task has no WAYBILL door, and a thread no BATCH door (R311, R315). -/
def doorKind (t : Task) (n : Nat) : Bool :=
  match t.kind with
  | .thread => n ≠ 2
  | .reduce => n ≠ 1 && n ≠ 0

/-- The fault of a data access, in the order of R380; 0 when it has none. -/
def accessFault (s : State) (t : Task) (a sz : Nat) (wr : Bool) : Nat :=
  if a % sz ≠ 0 then 0x04
  else match regionOf a with
    | .door n off =>
      if 10 ≤ n ∨ sz ≠ 8 ∨ !t.doorMask.getLsbD n ∨ !doorWord n off ∨ !doorKind t n then 0x05
      else if !chrDoor s t.fn n then 0x06 else 0
    | _ => if mayAccess t a sz wr then 0 else 0x03

/-- The fault of an operand's access. -/
def locFault (s : State) (t : Task) (l : Loc) (sz : Nat) (wr : Bool) : Nat :=
  match l with
  | .mem a => accessFault s t a sz wr
  | _ => 0

/-- The address of a memory operand. -/
def locAddr : Loc → Option Nat
  | .mem a => some a
  | _ => none

/-- What the operands of an instruction come to: registers after every register effect, the locations, or the first fault. -/
inductive Operands where
  | ok (r : YRegs) (a b d : Option Loc)
  | bad (code : Nat)
deriving DecidableEq, Repr

/-- Resolves an optional specifier. -/
def resolveOpt (r : YRegs) (pc sz : Nat) : Option Spec → Option (YRegs × Option Loc)
  | none => some (r, none)
  | some sp => match resolve r pc sz sp with
    | some (r1, l) => some (r1, some l)
    | none => none

/-- The fault of an optional operand. -/
def optFault (s : State) (t : Task) (l : Option Loc) (sz : Nat) (wr : Bool) : Nat := l.elim 0 (fun x => locFault s t x sz wr)

/-- Operands of a full form, in the order source 1, source 2, destination (R359, R380). `dr` and `dw`: the destination is
read, written. -/
def fullOperands (s : State) (t : Task) (i : YInstr) (dr dw : Bool) : Operands :=
  let pc := t.regs.pc.toNat
  match resolveOpt t.regs pc i.size i.s1 with
  | none => .bad 0x09
  | some (r1, a) =>
    let fa := optFault s t a i.size false
    if fa ≠ 0 then .bad fa
    else match resolveOpt r1 pc i.size i.s2 with
      | none => .bad 0x09
      | some (r2, b) =>
        let fb := optFault s t b i.size false
        if fb ≠ 0 then .bad fb
        else match resolveOpt r2 pc i.dsize i.d with
          | none => .bad 0x09
          | some (r3, d) =>
            let fr := if dr then optFault s t d i.dsize false else 0
            let fw := if dw then optFault s t d i.dsize true else 0
            if fr ≠ 0 then .bad fr else if fw ≠ 0 then .bad fw else .ok r3 a b d

/-- Operands of a brief form: the destination, which is the first source where it is read, and then the source (R360, R380). -/
def briefOperands (s : State) (t : Task) (i : YInstr) (dr dw : Bool) : Operands :=
  let pc := t.regs.pc.toNat
  match resolveOpt t.regs pc i.dsize i.d with
  | none => .bad 0x09
  | some (r1, d) =>
    match resolveOpt r1 pc i.size i.s1 with
    | none => .bad 0x09
    | some (r2, b) =>
      let fr := if dr then optFault s t d i.dsize false else 0
      let fb := optFault s t b i.size false
      let fw := if dw then optFault s t d i.dsize true else 0
      if fr ≠ 0 then .bad fr else if fb ≠ 0 then .bad fb else if fw ≠ 0 then .bad fw
      else if dr then .ok r2 d b d else .ok r2 b none d

end Sys2Proof.Machine
end

