-- ==== Sys2Proof/Machine/ChrRows.lean ====
section
/-! DEFINITION. Charter Commit, Quiesce, Freeze, Save and Restore (R655 to R686), and Key Generation Advance (R707, R708). -/

namespace Sys2Proof.Machine

/-! Charter Commit (R662 to R666). -/

/-- A task as it is created, with nothing in it (R417, R474). -/
def blankTask : Task :=
  { incarn := 0, fn := 0, kind := .thread, progSlot := 0, prio := 0, affinity := 0xFFFFFFFF, state := .ready, core := 0, flags := 0, waitMask := 0,
    waitAll := false, regs := YRegs.zero, image := [], code := [], data := [], gen := 0, doorMask := 0, lastCore := none, lastPages := [], cmd := none,
    rset := 0, ranges := [], outPos := 0, appSrc := 0, wbDesc := 0, wbResult := 0, cpSrc := 0, cpDst := 0, cpDone := 0, pstTarget := 0, pstResult := 0,
    btSrc := 0, leg := none, held := [], parent := 0, runStart := 0, stallWing := 0, wokenAt := none }

/-- The 256 bytes of a function's entry in a copy. -/
def entryBytes (m : Memory) (f : Nat) : List Byte := Memory.readBytes m (256 * f) 256

/-- The first check of R663 that an entry breaks, 0 for none. -/
def entryCode (s : State) (f : Nat) (e : List Byte) : Nat :=
  let g := imgField e
  let post := (List.range 8).map (fun i => g (32 + 2 * i) 2)
  let scan := (List.range 16).map (fun i => g (64 + 4 * i) 4)
  let used := scan.filter (· ≠ 0)
  if bitsOf (g 0 1) 7 6 ≠ 0 ∨ bitOf (g 1 1) 3 ∨ bitOf (g 1 1) 7 ∨ g 4 4 / 2 ^ 10 ≠ 0 ∨ ¬ zeros e 20 4 ∨ ¬ zeros e 48 16 ∨ ¬ zeros e 128 128 then 1
  else if g 1 1 % 8 < bitsOf (g 1 1) 6 4 then 2
  else if 1024 < g 2 2 then 3
  else if post.any (fun v => decide (1023 < v ∧ v ≠ 0xFFFE ∧ v ≠ 0xFFFF)) then 4
  else if used.any (fun v => decide (1024 < v ∧ v ≠ 0xFFFFFFFF)) ∨ used.dedup.length ≠ used.length then 5
  else if g 8 8 ≠ 0 ∧ ¬ bitOf (g 4 4) 0 then 6
  else if bitOf (g 0 1) 0 ∧ totalVfs s < f then 7 else 0

/-- The first entry in function order that breaks a check, with its code. -/
def commitFault (s : State) (m : Memory) : Option (Nat × Nat) :=
  (List.range 1024).findSome? (fun f => let c := entryCode s f (entryBytes m f); if c = 0 then none else some (f, c))

/-- Functions whose entries differ between two copies. -/
def changedEntries (a b : Memory) : List Nat := (List.range 1024).filter (fun f => decide (entryBytes a f ≠ entryBytes b f))

/-- A running task is switched out and dispatched again on its core (R378). -/
def redispatch (k : Nat) (s : State) : State :=
  match (getCore s k).run with
  | none => s
  | some key =>
    let s1 := switchOut k s
    let s2 := updTask key (fun t => { t with gen := chrGen s, runStart := s.td17 }) s1
    let s3 := setCore k { getCore s2 k with run := some key } s2
    match getTask s3 key with
    | some t => cntCoreAt k 3 1 (handleOf key t) t.regs.pc.toNat s3
    | none => s3

/-- A Charter Commit completes with the generation (R664 step 4). -/
def commitFinish (r : CmdRef) (s : State) : State :=
  completeCmd r stOk (s.chr.generation % 2 ^ 32) (s.chr.generation / 2 ^ 32) [] { s with chr := { s.chr with commit := none, commitAcks := [] } }

/-- Changed entries as the words and bytes of a message: this station's generation, then functions and their entries (R666). -/
def sendEntries (fs : List Nat) (s : State) : State :=
  sendAll .charter (s.chr.generation :: fs) (fs.flatMap (fun f => entryBytes s.chr.active f)) s

/-- A commit is checked and applied (R663, R664 steps 1 to 3). -/
def commitApply (q : CommitReq) (s : State) : State :=
  let c := s.chr
  match commitFault s q.copy with
  | some x => completeCmd q.cmd stField x.1 x.2 [] { s with chr := { c with commit := none, refused := true, errFn := x.1, errCode := x.2 } }
  | none =>
    let fs := changedEntries q.copy c.active
    let gen := c.generation + 1
    let s1 := { s with chr := { c with
      active := q.copy, generation := gen, entryGen := fs.foldl (fun t f => Tbl.put 1 t f gen) c.entryGen, commitTime := s.td17, commit := some q } }
    let s2 := (List.range 256).foldl (fun s k => redispatch k s) s1
    if otherLit s2 = [] then commitFinish q.cmd s2
    else
      let s3 := sendEntries fs { s2 with chr := { s2.chr with commitAcks := otherLit s2 } }
      { s3 with rte := { s3.rte with waits := s3.rte.waits ++ [{ code := ordCharter, a := gen, b := 0, cmd := some q.cmd, left := otherLit s3, fails := [] }] } }

/-- The next commit that waits is applied once none is in progress (R665). -/
def commitTurn : Nat → State → State
  | 0, s => s
  | n + 1, s =>
    match s.chr.commit, s.chr.commitWait with
    | none, q :: rest =>
      let s1 := { s with chr := { s.chr with commitWait := rest } }
      commitTurn n (if (findCmd s1 q.cmd).isSome then commitApply q s1 else s1)
    | _, _ => s

/-- CHARTER_COMMIT: the staging copy is taken at admission (R662). -/
def execCharterCommit (r : CmdRef) (s : State) : Host.Outcome State Fault Refusal :=
  .next (onAdmin r 0xC0 (fun _ s =>
    if (s.chr.commit.map (·.cmd)) = some r ∨ s.chr.commitWait.any (fun q => decide (q.cmd = r)) then s
    else
      let l := s.chr.commitWait ++ [{ cmd := r, copy := s.chr.staging }]
      commitTurn l.length { s with chr := { s.chr with commitWait := l } }) s)

/-! Function states (R670 to R677). -/

/-- Sets a function's state. -/
def setFnMode (f : Nat) (m : FnMode) (s : State) : State := { s with chr := { s.chr with fnMode := Tbl.put .running s.chr.fnMode f m } }

/-- A command of R672 on an enabled VF. -/
def onFn (r : CmdRef) (opc : Nat) (p : Sqe → Bool) (f : OutCmd → Nat → State → State) (s : State) : State :=
  onAdmin r opc (fun c s =>
    let fn := c.sqe.cdw11 % 2 ^ 10
    if ¬ p c.sqe then s else if ¬ vfEnabled s fn then failCmd c stField s else f c fn s) s

/-- The Quiesce and Freeze that wait on a function; a command that waits is not taken again. -/
def fnWaits (s : State) (f : Nat) : Bool := (Tbl.find s.chr.fnWait f).isSome

/-- A command begins to wait on a function in a new state, and completes when nothing is left to wait for. -/
def fnAwait (c : OutCmd) (f : Nat) (freeze : Bool) (s : State) : State :=
  settleFn f (setFnMode f (if freeze then .freezing else .quiescing) { s with chr := { s.chr with fnWait := Tbl.insert s.chr.fnWait f { cmd := c.cmd, freeze := freeze } } })

/-- Quiesce from a state that has one: Running or Quiesced; from any other the command is out of sequence (log entry 73). -/
def quiesceFrom (c : OutCmd) (f : Nat) (s : State) : State :=
  if fnMode s f = .running ∨ fnMode s f = .quiesced then fnAwait c f false s else failCmd c stSequence s

/-- QUIESCE_FUNCTION: action 0, and the reserved action 3. -/
def execQuiesceFunction (r : CmdRef) (s : State) : Host.Outcome State Fault Refusal :=
  .next (onFn r 0xC3 (fun q => bitsOf q.cdw11 11 10 == 0 || bitsOf q.cdw11 11 10 == 3) (fun c f s =>
    if bitsOf c.sqe.cdw11 11 10 = 3 then failCmd c stField s
    else if (Tbl.find s.chr.fnWait f).map (·.cmd) = some r then s else quiesceFrom c f s) s)

/-- QUIESCE_ENDING_THREADS: action 1 (R297, R673). -/
def execQuiesceEndingThreads (r : CmdRef) (s : State) : Host.Outcome State Fault Refusal :=
  .next (onFn r 0xC3 (fun q => bitsOf q.cdw11 11 10 == 1) (fun c f s =>
    if (Tbl.find s.chr.fnWait f).map (·.cmd) = some r then s
    else if ¬ (fnMode s f = .running ∨ fnMode s f = .quiesced) then failCmd c stSequence s
    else quiesceFrom c f ((threadsOf s f).foldl (fun s e => endThread e.1 stAborted 0 0 s) s)) s)

/-- Resumes a function: it fetches again and its frozen tasks are Ready (R427, R673). -/
def resumeFn (c : OutCmd) (f : Nat) (s : State) : State :=
  if fnMode s f = .quiesced ∨ fnMode s f = .frozen then
    let frozen := (s.disp.tasks.filter (fun e => e.2.fn = f ∧ e.2.state = .frozen)).map (·.1)
    let s1 := { setFnMode f .running s with chr := { (setFnMode f .running s).chr with
      freezeGen := Tbl.erase s.chr.freezeGen f, freezeStamp := Tbl.erase s.chr.freezeStamp f } }
    failCmd c stOk (frozen.foldl (fun s k => makeReady k false s) s1)
  else if fnMode s f = .running then failCmd c stOk s
  else failCmd c stSequence s

/-- QUIESCE_RESUME: Quiesce action 2, and Freeze with CDW11 bit 10 (R673, R677). -/
def execQuiesceResume (r : CmdRef) (s : State) : Host.Outcome State Fault Refusal :=
  .next (onFn r 0xC4 (fun q => bitOf q.cdw11 10) resumeFn (onFn r 0xC3 (fun q => bitsOf q.cdw11 11 10 == 2) resumeFn s))

/-- Holds a thread Frozen at its boundary: it leaves its core, its next slot and its lists (R427, R677). -/
def freezeThread (key : Nat) (s : State) : State :=
  match getTask s key with
  | none => s
  | some t =>
    let k := t.core
    let s1 := if t.state = .running then switchOut k s else s
    let s2 := if t.state = .staged then setCore k { getCore s1 k with next := none, nextLoaded := false } s1 else s1
    let s3 := updTask key (fun t => { t with state := .frozen }) (unready (servingWing s2 (key / 2048)) key s2)
    if t.state = .running then runNext k s3 else if t.state = .staged then refill (k / 32) (k % 32) s3 else s3

/-- FREEZE_FUNCTION (R677), from Running or Quiesced; of a Frozen function it completes at once. -/
def execFreezeFunction (r : CmdRef) (s : State) : Host.Outcome State Fault Refusal :=
  .next (onFn r 0xC4 (fun q => !bitOf q.cdw11 10) (fun c f s =>
    if (Tbl.find s.chr.fnWait f).map (·.cmd) = some r then s
    else if fnMode s f = .frozen then failCmd c stOk s
    else if ¬ (fnMode s f = .running ∨ fnMode s f = .quiesced) then failCmd c stSequence s
    else
      let s1 := (threadsOf s f).foldl (fun s e => freezeThread e.1 s) (setFnMode f .freezing s)
      fnAwait c f true (engineFreeze f s1)) s)

/-! The state image (R678 to R681; log entry 74). -/

/-- A section: header and content (R680). -/
def section16 (typ cnt : Nat) (body : List Byte) : List Byte := leBytes 1 typ ++ zeroBytes 3 ++ leBytes 4 cnt ++ leBytes 8 body.length ++ body

/-- CC as a controller holds it; the entry sizes are those of R521. -/
def ccWord (c : Ctrl) : Nat :=
  b2n c.en + c.css * 2 ^ 4 + c.mps * 2 ^ 7 + c.ams * 2 ^ 11 + c.shn * 2 ^ 14 + 6 * 2 ^ 16 + 4 * 2 ^ 20 + b2n c.crime * 2 ^ 24

/-- Features that the controller record holds, key by key, from its byte 24: those of R531 that a controller has of its own. -/
def imageFeatures : List Nat :=
  [0x010000, 0x020000, 0x050000, 0x080000, 0x0A0000, 0x0B0000] ++ (List.range 7).flatMap (fun i => [0x040000 + i, 0x040000 + i + 16]) ++
    (List.range 64).map (fun i => 0x090000 + i)

/-- The default of a feature that the controller record holds. -/
def featureDefault (k : Nat) : Nat :=
  match k / 2 ^ 16 with
  | 0x04 => if k % 2 ^ 16 = 0 then 358 else if 16 ≤ k % 2 ^ 16 then 0 else 0xFFFF
  | 0x09 => k % 2 ^ 16
  | 0x0B => 0x17
  | _ => 0

/-- The current value of a feature. -/
def featureCell (c : Ctrl) (k : Nat) : List Byte := leBytes 4 (Tbl.get (featureDefault k) c.features k)

/-- Section 1. -/
def imgController (c : Ctrl) : List Byte :=
  fitBytes 512 (leBytes 4 (ccWord c) ++ leBytes 4 c.aqa ++ leBytes 8 c.asq ++ leBytes 8 c.acq ++ imageFeatures.flatMap (featureCell c))

/-- A queue pair's record. -/
def imgQueue (c : Ctrl) (e : Nat × SubQ) : List Byte :=
  let q := e.2
  let cq := (Tbl.find c.cqs q.cq).getD { size := 0, base := 0, vector := 0, ien := false, head := 0, tail := 0, phase := false }
  fitBytes 64 (leBytes 2 e.1 ++ leBytes 2 q.cq ++ leBytes 2 (q.size - 1) ++ leBytes 2 (cq.size - 1) ++ leBytes 8 q.base ++ leBytes 8 cq.base ++ leBytes 2 q.head ++
    leBytes 2 q.tail ++ leBytes 2 cq.head ++ leBytes 2 cq.tail ++ leBytes 1 (b2n cq.phase) ++ leBytes 1 (b2n cq.ien) ++ leBytes 2 cq.vector ++ leBytes 1 q.prio)

/-- A program slot's record. -/
def imgProgram (s : State) (i : Nat) : List Byte :=
  let p := Tbl.get ProgSlot.empty s.prog.slots i
  leBytes 8 (imgCrc (p.image.getD []) + 2 ^ 32 * b2n p.activated)

/-- A range set's record with its content. -/
def imgRangeSet (s : State) (i : Nat) : List Byte :=
  let r := Tbl.get [] s.prog.rsets i
  leBytes 2 i ++ leBytes 2 r.length ++ zeroBytes 4 ++ leBytes 8 (r.map (·.2)).sum ++ r.flatMap (fun x => leBytes 8 x.1 ++ leBytes 8 x.2) ++
    r.flatMap (fun x => Memory.readBytes s.prog.slm x.1 x.2)

/-- A thread's record and hold image (R681). -/
def imgTask (e : Nat × Task) : List Byte :=
  let t := e.2
  let r := t.regs
  leBytes 4 (handleOf e.1 t) ++ leBytes 1 t.prio ++ leBytes 1 0 ++ leBytes 1 t.progSlot ++ [0] ++ leBytes 4 t.affinity.toNat ++ leBytes 4 t.flags.toNat ++
    r.p.toList.flatMap (fun w => leBytes 8 w.toNat) ++ leBytes 8 r.pc.toNat ++ leBytes 8 (stWord r) ++ r.lb.toList.flatMap (fun w => leBytes 8 w.toNat) ++
    r.le.toList.flatMap (fun w => leBytes 8 w.toNat) ++ r.lc.toList.flatMap (fun w => leBytes 8 w.toNat) ++ Memory.readBytes t.code 0 0x10000 ++
    Memory.readBytes t.data 0 0x30000

/-- Stepping as the Revision ID gives it: the hub's field of the hardware set (R502, R846). -/
def steppingCode (s : State) : Nat := (s.cfg.hwSet.headD 0).toNat

/-- The state image of a function. -/
def stateImage (s : State) (f : Nat) : List Byte :=
  let c := getCtrl s f
  let vi := assignedVi s f
  let sets := setsOf s f
  let body := section16 1 1 (imgController c) ++ section16 2 c.sqs.length (c.sqs.flatMap (imgQueue c)) ++
    section16 3 vi ((List.range vi).flatMap (fun i => leBytes 16 (Tbl.get 0 c.msix i).toNat)) ++ section16 4 1 (entryBytes s.chr.active f) ++
    section16 5 64 ((List.range 64).flatMap (imgProgram s)) ++ section16 6 sets.length (sets.flatMap (imgRangeSet s)) ++
    section16 7 (threadsOf s f).length ((threadsOf s f).flatMap imgTask)
  let head := [0x59, 0x53, 0x46, 0x53] ++ leBytes 2 1 ++ [7] ++ leBytes 1 (ownStation s) ++ leBytes 2 f ++ leBytes 1 (steppingCode s) ++ [0] ++
    leBytes 4 (imgSetId s.kin.image) ++ leBytes 8 (64 + body.length) ++ leBytes 8 (Tbl.get 0 s.chr.freezeGen f) ++ leBytes 8 (Tbl.get 0 s.chr.freezeStamp f) ++
    zeroBytes 20
  head ++ leBytes 4 (crc32c (head ++ zeroBytes 4 ++ body)) ++ body

/-- The offset of a Save or Restore. -/
def imageOff (q : Sqe) : Nat := q.cdw12 % 2 ^ 32 + 2 ^ 32 * (q.cdw13 % 2 ^ 32)

/-- SAVE_FUNCTION_STATE (R678). -/
def execSaveFunctionState (r : CmdRef) (s : State) : Host.Outcome State Fault Refusal :=
  .next (onFn r 0xC5 (fun _ => true) (fun c f s =>
    let off := imageOff c.sqe
    if fnMode s f ≠ .frozen then failCmd c stQuiesce s
    else if off % 4 ≠ 0 ∨ imageLen s f ≤ off then failCmd c stField s
    else answerData r 0 (fitBytes (adminLen c.sqe) ((stateImage s f).drop off)) s) s)

/-! Restore (R682 to R686). -/

/-- The section of a type at the head of some bytes: count, content, and the bytes after it. -/
def takeSection (typ : Nat) (b : List Byte) : Option (Nat × List Byte × List Byte) :=
  let len := imgField b 8 8
  if b.length < 16 ∨ imgField b 0 1 ≠ typ ∨ ¬ zeros b 1 3 ∨ b.length < 16 + len then none
  else some (imgField b 4 4, (b.drop 16).take len, b.drop (16 + len))

/-- The contents of the seven sections with their counts. -/
def takeSections : List Nat → List Byte → Option (List (Nat × List Byte))
  | [], b => if b = [] then some [] else none
  | t :: ts, b =>
    match takeSection t b with
    | none => none
    | some x => (takeSections ts x.2.2).map (fun l => (x.1, x.2.1) :: l)

/-- Records of `n` bytes. -/
def recsOf (n cnt : Nat) (b : List Byte) : List (List Byte) := (List.range cnt).map (fun i => (b.drop (n * i)).take n)

/-- A saved range set: identifier, ranges, content. -/
structure SavedSet where
  id : Nat
  ranges : List (Nat × Nat)
  content : List Byte
deriving DecidableEq, Repr

/-- The saved range sets; none when their layout is wrong. -/
def takeSets : Nat → List Byte → Option (List SavedSet)
  | 0, b => if b = [] then some [] else none
  | k + 1, b =>
    let n := imgField b 2 2
    let len := imgField b 8 8
    let rs := (List.range n).map (fun i => (imgField b (16 + 16 * i) 8, imgField b (24 + 16 * i) 8))
    let all := 16 + 16 * n + len
    if b.length < 16 ∨ b.length < all ∨ 255 < imgField b 0 2 ∨ n = 0 ∨ 16 < n ∨ ¬ zeros b 4 4 ∨ (rs.map (·.2)).sum ≠ len then none
    else (takeSets k (b.drop all)).map (fun l => { id := imgField b 0 2, ranges := rs, content := (b.drop (16 + 16 * n)).take len } :: l)

/-- A state image in parts. -/
structure SavedState where
  ctrl : List Byte
  queues : List (List Byte)
  vectors : List (List Byte)
  programs : List Byte
  sets : List SavedSet
  tasks : List (List Byte)
deriving DecidableEq, Repr

/-- A task record keeps its zero byte, its kind, a live handle and an 8-priority. -/
def taskRecOk (b : List Byte) : Bool :=
  decide (imgField b 7 1 = 0 ∧ imgField b 5 1 = 0 ∧ imgField b 4 1 < 8 ∧ imgField b 6 1 < 64 ∧ imgField b 0 4 / 2 ^ 16 ≠ 0 ∧ imgField b 0 4 % 2 ^ 16 < 2 ^ 14)

/-- The parts of an image of the form of R679 to R681; none for code 1 of R683. -/
def takeImage (b : List Byte) : Option SavedState :=
  if b.take 4 ≠ [0x59, 0x53, 0x46, 0x53] ∨ imgField b 4 2 ≠ 1 ∨ imgField b 6 1 ≠ 7 ∨ ¬ zeros b 11 1 ∨ ¬ zeros b 40 20 ∨
      crc32c (zeroRun b 60 4) ≠ imgField b 60 4 then none
  else match takeSections [1, 2, 3, 4, 5, 6, 7] (b.drop 64) with
    | some [c, q, v, h, p, st, t] =>
      if c.1 ≠ 1 ∨ c.2.length ≠ 512 ∨ q.2.length ≠ 64 * q.1 ∨ v.2.length ≠ 16 * v.1 ∨ h.1 ≠ 1 ∨ h.2.length ≠ 256 ∨ p.1 ≠ 64 ∨ p.2.length ≠ 512 ∨
          t.2.length ≠ 262400 * t.1 ∨ ¬ (recsOf 262400 t.1 t.2).all taskRecOk then none
      else (takeSets st.1 st.2).map (fun sets =>
        { ctrl := c.2, queues := recsOf 64 q.1 q.2, vectors := recsOf 16 v.1 v.2, programs := p.2, sets := sets, tasks := recsOf 262400 t.1 t.2 })
    | _ => none

/-- Two ranges meet. -/
def rangesMeet (a b : Nat × Nat) : Bool := decide (a.1 < b.1 + b.2 ∧ b.1 < a.1 + a.2)

/-- The code of R683 for which an image is refused, 0 for none. -/
def restoreCode (s : State) (f : Nat) (b : List Byte) : Nat :=
  match takeImage b with
  | none => 1
  | some x =>
    let img := s.kin.image
    let steps := (List.range (imgTested img)).map (fun i => imgField img (256 + 16 * i) 1)
    let mine := (Tbl.vals s.prog.rsets).flatMap id
    if ¬ peerListed s (imgField b 12 4) ∨ ¬ steps.contains (imgField b 10 1) then 2
    else if ¬ x.tasks.all (fun t =>
        let i := imgField t 6 1
        let p := Tbl.get ProgSlot.empty s.prog.slots i
        p.activated && p.image.isSome && decide (imgCrc (p.image.getD []) = imgField x.programs (8 * i) 4)) then 3
    else if assignedVq s f + 1 < x.queues.length ∨ assignedVi s f < x.vectors.length then 4
    else if x.sets.any (fun st => (Tbl.find s.prog.rsets st.id).isSome || st.ranges.any (fun r => mine.any (rangesMeet r))) then 5
    else if x.tasks.any (fun t => (getTask s (imgField t 0 4 % 2 ^ 16)).isSome) then 6 else 0

/-- A 64-bit word of a task record's state. -/
def recWord (t : List Byte) (i : Nat) : Word := BitVec.ofNat 64 (imgField t (16 + 8 * i) 8)

/-- Registers of a task record (R326, R681). -/
def recRegs (t : List Byte) : YRegs :=
  let st := recWord t 17
  { p := Vector.ofFn (fun i => recWord t i.val), pc := recWord t 16, z := st.getLsbD 0, n := st.getLsbD 1, c := st.getLsbD 2, v := st.getLsbD 3,
    ld := bitsOf st.toNat 6 4, fault := BitVec.ofNat 8 (bitsOf st.toNat 15 8), lb := Vector.ofFn (fun i => recWord t (18 + i.val)),
    le := Vector.ofFn (fun i => recWord t (22 + i.val)), lc := Vector.ofFn (fun i => recWord t (26 + i.val)) }

/-- Places a task of an image Frozen at its wing and slot with its incarnation (R684, R685). The image does not say which range set a task uses:
the model takes the first (log entry 74). -/
def restoreTask (f : Nat) (sets : List SavedSet) (t : List Byte) (s : State) : State :=
  let h := imgField t 0 4
  let key := h % 2 ^ 16
  let i := imgField t 6 1
  let img := ((Tbl.get ProgSlot.empty s.prog.slots i).image).getD []
  let task : Task := { blankTask with
    incarn := h / 2 ^ 16, fn := f, progSlot := i, prio := imgField t 4 1, affinity := BitVec.ofNat 32 (imgField t 8 4), state := .frozen
    flags := BitVec.ofNat 32 (imgField t 12 4), regs := recRegs t, image := img, doorMask := BitVec.ofNat 32 (imgDoorMask img), gen := chrGen s
    code := Memory.writeBytes [] 0 ((t.drop 256).take 0x10000), data := Memory.writeBytes [] 0 ((t.drop (256 + 0x10000)).take 0x30000)
    rset := (sets.head?.map (·.id)).getD 0, ranges := (sets.head?.map (·.ranges)).getD [] }
  let w := key / 2048
  let d := getWing s w
  let s1 := setWing w { d with slotsFree := d.slotsFree - 1, slotsLive := d.slotsLive + 1 } s
  let s2 := setTask key task { s1 with
    disp := { s1.disp with incarn := Tbl.put 0 s1.disp.incarn key (h / 2 ^ 16) }
    bcn := { s1.bcn with ctxs := Tbl.erase s1.bcn.ctxs (key + 1) } }
  setJob (8 + key) { CmpJob.zero with code := 8 } s2

/-- The controller of an image (R684). -/
def restoreCtrl (s : State) (f : Nat) (x : SavedState) : Ctrl :=
  let old := getCtrl s f
  let g := imgField x.ctrl
  let cc := g 0 4
  let feats := (imageFeatures.zipIdx).foldl (fun (t : Tbl Nat) e => Tbl.put (featureDefault e.1) t e.1 (g (24 + 4 * e.2) 4)) []
  let sq := fun (b : List Byte) => let h := imgField b
    ({ size := h 4 2 + 1, cq := h 2 2, prio := h 36 1, base := h 8 8, tail := h 26 2, head := h 24 2, deleting := none } : SubQ)
  let cq := fun (b : List Byte) => let h := imgField b
    ({ size := h 6 2 + 1, base := h 16 8, vector := h 34 2, ien := decide (h 33 1 = 1), head := h 28 2, tail := h 30 2, phase := decide (h 32 1 = 1) } : ComplQ)
  { old with
    en := bitOf cc 0, css := bitsOf cc 6 4, mps := bitsOf cc 10 7, ams := bitsOf cc 13 11, shn := bitsOf cc 15 14, crime := bitOf cc 24, rdy := bitOf cc 0
    shst := 0, shut := false, aqa := g 4 4, asq := g 8 8, acq := g 16 8, features := feats
    sqs := x.queues.foldl (fun t b => Tbl.insert t (imgField b 0 2) (sq b)) []
    cqs := x.queues.foldl (fun t b => Tbl.insert t (imgField b 2 2) (cq b)) []
    msix := (x.vectors.zipIdx).foldl (fun t e => Tbl.put 0 t e.2 (BitVec.ofNat 128 (leNat e.1))) []
    vqNow := assignedVq s f }

/-- Applies an image to a function, which is Frozen afterwards (R684 to R686). -/
def restoreApply (f : Nat) (b : List Byte) (x : SavedState) (s : State) : State :=
  let s1 := setCtrl f (restoreCtrl s f x) s
  let s2 := x.sets.foldl (fun s st =>
    let s0 := (st.ranges.foldl (fun (a : State × List Byte) r => (slmWrite r.1 (a.2.take r.2) a.1, a.2.drop r.2)) (s, st.content)).1
    { s0 with prog := { s0.prog with rsets := Tbl.insert s0.prog.rsets st.id st.ranges } }) s1
  let s3 := x.tasks.foldl (fun s t => restoreTask f x.sets t s) s2
  setFnMode f .frozen { s3 with chr := { s3.chr with
    restore := none, freezeGen := Tbl.insert s3.chr.freezeGen f (imgField b 24 8), freezeStamp := Tbl.insert s3.chr.freezeStamp f (imgField b 32 8) } }

/-- A refused image: the function returns to its prior state and dword 1 holds the code (R683). -/
def restoreRefuse (c : OutCmd) (code : Nat) (s : State) : State :=
  completeCmd c.cmd (if code = 2 then stUntested else if code = 6 then stBusy else stField) 0 code [] (dropImage s)

/-- The function can be a target: Quiesced or Frozen, no I/O queue, no task (R682). -/
def restoreTarget (s : State) (f : Nat) : Bool :=
  decide (fnMode s f = .quiesced ∨ fnMode s f = .frozen) && (getCtrl s f).sqs.all (fun e => decide (e.1 = 0)) &&
    (getCtrl s f).cqs.all (fun e => decide (e.1 = 0)) && s.disp.tasks.all (fun e => decide (e.2.fn ≠ f))

/-- A piece of an image for a function, its earlier bytes at hand. -/
def restorePiece (c : OutCmd) (f : Nat) (i : RestoreImage) (s : State) : State :=
  let bytes := i.bytes ++ fitBytes (adminLen c.sqe) c.sqe.data
  let s1 := setFnMode f .restoring { s with chr := { s.chr with restore := some { i with bytes := bytes } } }
  let len := imgField bytes 16 8
  if bytes.length < 64 ∨ (bytes.length < len ∧ bytes.take 4 = [0x59, 0x53, 0x46, 0x53]) then failCmd c stOk s1
  else
    let b := bytes.take len
    let code := if len < 64 then 1 else restoreCode s f b
    match (if code = 0 then takeImage b else none) with
    | some x => failCmd c stOk (restoreApply f b x s1)
    | none => restoreRefuse c code s1

/-- RESTORE_FUNCTION_STATE (R682): a first piece at offset 0, others where the last one ended. -/
def execRestoreFunctionState (r : CmdRef) (s : State) : Host.Outcome State Fault Refusal :=
  .next (onFn r 0xC6 (fun _ => true) (fun c f s =>
    let off := imageOff c.sqe
    match s.chr.restore with
    | some i =>
      if i.fn ≠ f then failCmd c stBusy s
      else if off = i.bytes.length then restorePiece c f i s
      else restoreRefuse c 1 s
    | none =>
      if ¬ restoreTarget s f then failCmd c stQuiesce s
      else if off ≠ 0 then restoreRefuse c 1 s
      else restorePiece c f { fn := f, bytes := [], prior := fnMode s f } s) s)

/-! Key Generation Advance (R703, R706 to R708). -/

/-- Nonce Exhausted (R547). -/
def stNonce : Status := mkStatus 7 0xC4

/-- Completes with a generation. -/
def genDone (c : OutCmd) (g : Nat) (s : State) : State := completeCmd c.cmd stOk (g % 2 ^ 32) (g / 2 ^ 32) [] s

/-- KEY_GEN_ADVANCE_SLOT: target 0, and the reserved targets 2 and 3. -/
def execKeyGenAdvanceSlot (r : CmdRef) (s : State) : Host.Outcome State Fault Refusal :=
  .next (onAdmin r 0xC9 (fun c s =>
    let t := c.sqe.cdw11 % 4
    let n := c.sqe.cdw12 % 64
    if t = 1 then s
    else if t ≠ 0 then failCmd c stField s
    else match keySlot s n, s.sec.root with
      | some k, some root =>
        if k.kind ≠ .derive ∨ max64 ≤ k.gen then failCmd c stField s
        else if slotInUse s n then failCmd c stBusy s
        else if 2 ^ 32 - 1 ≤ s.sec.epoch then failCmd c stNonce s
        else genDone c (k.gen + 1) (slotLoad n (kdf root k.label (k.gen + 1) 256) .derive k.fixed k.label (k.gen + 1) s)
      | _, _ => failCmd c stField s) s)

/-- KEY_GEN_ADVANCE_FUNCTION: target 1. -/
def execKeyGenAdvanceFunction (r : CmdRef) (s : State) : Host.Outcome State Fault Refusal :=
  .next (onAdmin r 0xC9 (fun c s =>
    let f := c.sqe.cdw12 % 2 ^ 10
    let g := Tbl.get 1 s.sec.fnGen f
    if c.sqe.cdw11 % 4 ≠ 1 then s
    else if max64 ≤ g then failCmd c stField s
    else genDone c (g + 1) { s with sec := { s.sec with fnGen := Tbl.insert s.sec.fnGen f (g + 1) } }) s)

end Sys2Proof.Machine
end

