-- ==== Sys2Proof/Machine/Rs.lean ====
section
/-! DEFINITION. The Reed–Solomon code over the lines of DRAM (R756): 64 data bytes, then 16 check bytes, as the coefficients of a polynomial over
GF(2⁸) from the highest power down. The first root of its generator is `Config.rsRoot` (log entry 82). -/

namespace Sys2Proof.Machine

/-! GF(2⁸) with polynomial 0x11D. -/

/-- Twice an element. -/
def gfTwice (a : Nat) : Nat := if a < 128 then 2 * a else (2 * a) ^^^ 0x11D

/-- The product of an element and the low `n` bits of another. -/
def gfMulBits : Nat → Nat → Nat → Nat
  | 0, _, _ => 0
  | n + 1, a, b => (if b % 2 = 1 then a else 0) ^^^ gfMulBits n (gfTwice a) (b / 2)
def gfMul (a b : Nat) : Nat := gfMulBits 8 a b

/-- A power. -/
def gfPow (a : Nat) : Nat → Nat
  | 0 => 1
  | n + 1 => gfMul a (gfPow a n)

/-- The inverse of an element that is not 0: its power 254. -/
def gfInv (a : Nat) : Nat :=
  ((List.range 7).foldl (fun (x : Nat × Nat) _ => let q := gfMul x.1 x.1; (q, gfMul x.2 q)) (a, 1)).2

/-- A polynomial, lowest coefficient first, at a point. -/
def gfEval (p : List Nat) (x : Nat) : Nat := p.foldr (fun c acc => c ^^^ gfMul x acc) 0

/-- A polynomial times an element, and the sum of two polynomials. -/
def gfScale (k : Nat) (p : List Nat) : List Nat := p.map (gfMul k)
def gfAdd : List Nat → List Nat → List Nat
  | [], q => q
  | p, [] => p
  | a :: p, b :: q => (a ^^^ b) :: gfAdd p q

/-- The product of two polynomials. -/
def gfProd : List Nat → List Nat → List Nat
  | [], _ => []
  | a :: p, q => gfAdd (gfScale a q) (0 :: gfProd p q)

/-! The code. -/

/-- The element that stands for a place of a line: places 0 to 63 are data bytes, 64 to 79 check bytes. -/
def rsPlace (i : Nat) : Nat := gfPow 2 (79 - i)

/-- The syndromes of a line. -/
def rsSyndromes (l : List Nat) : List Nat := (List.range 16).map (fun j => gfEval l.reverse (gfPow 2 ((Config.rsRoot + j) % 255)))

/-- The polynomial whose roots are the inverses of some places. -/
def rsLocator (places : List Nat) : List Nat := places.foldl (fun p i => gfProd p [1, rsPlace i]) [1]

/-- The line with the symbols at the places of a locator corrected by its syndromes. -/
def rsCorrect (l : List Nat) (places : List Nat) (loc : List Nat) : List Nat :=
  let om := (gfProd (rsSyndromes l) loc).take 16
  let der := (loc.zipIdx.drop 1).map (fun e => if e.2 % 2 = 1 then e.1 else 0)
  places.foldl (fun l i =>
    let x := rsPlace i
    let y := gfInv x
    let e := gfMul (gfMul x (gfInv (gfPow x (Config.rsRoot % 255)))) (gfMul (gfEval om y) (gfInv (gfEval der y)))
    l.set i (l.getD i 0 ^^^ e)) l

/-- A step of the search for the locator of least degree (Berlekamp and Massey): locator, its predecessor, degree, shift, last discrepancy. -/
structure RsSearch where
  c : List Nat
  b : List Nat
  deg : Nat
  shift : Nat
  last : Nat
deriving DecidableEq, Repr

/-- The step for a syndrome. -/
def rsStep (syn : List Nat) (x : RsSearch) (n : Nat) : RsSearch :=
  let d := (List.range (x.deg + 1)).foldl (fun a i => a ^^^ gfMul (x.c.getD i 0) (if i ≤ n then syn.getD (n - i) 0 else 0)) 0
  if d = 0 then { x with shift := x.shift + 1 }
  else
    let c := gfAdd x.c (List.replicate x.shift 0 ++ gfScale (gfMul d (gfInv x.last)) x.b)
    if 2 * x.deg ≤ n then { c := c, b := x.c, deg := n + 1 - x.deg, shift := 1, last := d } else { x with c := c, shift := x.shift + 1 }

/-- The check bytes of 64 data bytes: the rest of the data shifted by 16 places on division by the generator. -/
def rsCheck (data : List Byte) : List Byte :=
  let g := ((List.range 16).foldl (fun p j => gfProd p [gfPow 2 ((Config.rsRoot + j) % 255), 1]) [1]).reverse.drop 1
  let r := data.foldl (fun (r : List Nat) (b : Byte) =>
    gfAdd (r.drop 1 ++ [0]) (gfScale (b.toNat ^^^ r.headD 0) g)) (List.replicate 16 0)
  r.map (BitVec.ofNat 8)

/-- The device of a subchannel that carries a byte of a line: data byte 4t + k on device k, the check bytes on device 4 (R744). -/
def rsDevice (i : Nat) : Nat := if i < 64 then i % 4 else 4

/-- What the decoder makes of a line: none when it is uncorrectable, else its data, the symbols that were corrected, and the device of the
first of them (R756). Errors within any 8 bytes are corrected. -/
def rsDecode (data check : List Byte) : Option (List Byte × Nat × Nat) :=
  let l := (data ++ check).map (·.toNat)
  let syn := rsSyndromes l
  if syn.all (· = 0) then some (data, 0, 0)
  else
    let x := (List.range 16).foldl (rsStep syn) { c := [1], b := [1], deg := 0, shift := 1, last := 1 }
    let places := (List.range 80).filter (fun i => gfEval x.c (gfInv (rsPlace i)) = 0)
    let fixed := rsCorrect l places x.c
    if places.length ≠ x.deg ∨ 8 < x.deg ∨ ¬ (rsSyndromes fixed).all (· = 0) then none
    else some ((fixed.take 64).map (BitVec.ofNat 8), places.length, rsDevice (places.headD 0))

/-- The data bytes of a line in erasure mode: those of device d of the subchannel are rebuilt from the other devices and the check bytes. -/
def rsErase (data check : List Byte) (d : Nat) : List Byte :=
  let places := (List.range 80).filter (fun i => rsDevice i = d)
  let l := ((data ++ check).zipIdx).map (fun e => if rsDevice e.2 = d then 0 else e.1.toNat)
  ((rsCorrect l places (rsLocator places)).take 64).map (BitVec.ofNat 8)

end Sys2Proof.Machine
end

