-- ==== Sys2Proof/Machine/Engines.lean ====
section
/-! DEFINITION. The words of the seal engine, the digest engine and the job contexts, as the PF and the doors present them (chapters 11
and 16). A context is 0 for the PF and task key plus 1 for a task. -/

namespace Sys2Proof.Machine

/-- Replaces word i of a list of bytes. -/
def putWord8 (l : List Byte) (i v : Nat) : List Byte := spliceAt l (8 * i) (leBytes 8 v)

/-- SEAL_LOCK (R709, R711). -/
def sealLockWrite (ctx v : Nat) (s : State) : State :=
  let s1 := if bitOf v 62 then sealAcquire ctx s else s
  if bitOf v 61 ∧ ownsSeal s1 ctx then sealRelease s1 else s1

/-- SEAL_MODE by the owner: the fields, GO, ABORT (R715, R720). -/
def sealModeWrite (ctx v : Nat) (s : State) : State :=
  let slot := bitsOf v 21 16
  let mode := bitsOf v 10 8
  let dir := v % 2
  let s1 := if bitOf v 63 then sealGo ctx mode dir slot s
    else setSeal { s.sec.sealEng with slot := slot, mode := mode, dir := dir } s
  if bitOf v 62 then sealAbort ctx s1 else s1

/-- A write to a seal word (R709 to R720); a requester that is not the owner writes SEAL_LOCK only (R710). -/
def sealWrite (ctx off v : Nat) (s : State) : State :=
  let e := s.sec.sealEng
  if off = 0x00 then sealLockWrite ctx v s
  else if ¬ ownsSeal s ctx then s
  else match off with
    | 0x08 => sealModeWrite ctx v s
    | 0x10 => setSeal { e with len := v % 2 ^ 32, aadLen := bitsOf v 47 32 } s
    | 0x18 => setSeal { e with iv := putWord8 e.iv 0 v } s
    | 0x20 => setSeal { e with iv := putWord8 e.iv 1 v } s
    | 0x28 => setSeal { e with tag := putWord8 e.tag 0 v } s
    | 0x30 => setSeal { e with tag := putWord8 e.tag 1 v } s
    | 0x38 => setSeal { e with src := v } s
    | 0x40 => setSeal { e with dst := v } s
    | 0x48 => sealPiece ctx (v % 2 ^ 19) (bitOf v 63) s
    | _ => s

/-- DIG_CTRL: the fields of the owner, OPEN, RELEASE (R722, R723). -/
def digCtrlWrite (ctx v : Nat) (s : State) : State :=
  let slot := bitsOf v 21 16
  let keyed := bitOf v 9
  let alg := v % 4
  let s1 := if bitOf v 63 then digOpen ctx slot keyed alg s
    else if ownsDig s ctx then setDig { s.sec.dig with slot := slot, keyed := keyed, alg := alg } s else s
  if bitOf v 62 then digRelease ctx s1 else s1

/-- DIG_CTX_CMD (R728, R729). -/
def digCmdWrite (ctx v : Nat) (s : State) : State :=
  if v % 4 = 1 then digExport ctx s else if v % 4 = 2 then digImport ctx s else s

/-- A write to a digest word (R722 to R729, R710). DIG_CTX_ADDR of a free engine takes the address of an import. -/
def digWrite (ctx off v : Nat) (s : State) : State :=
  let d := s.sec.dig
  match off with
  | 0x00 => digCtrlWrite ctx v s
  | 0x10 => if ownsDig s ctx then setDig { d with declared := v } s else s
  | 0x18 => digData ctx v s
  | 0x20 => if ownsDig s ctx then setDig { d with lastBytes := v % 16 } s else s
  | 0x28 => digLast ctx v s
  | 0x30 => if ownsDig s ctx ∨ d.owner = none then setDig { d with ctxAddr := v } s else s
  | 0x38 => digCmdWrite ctx v s
  | _ => s

/-- CMP_J_SETUP: the fields, OPEN, CANCEL (R488 to R494). -/
def jobSetupWrite (ctx w v : Nat) (s : State) : State :=
  let k := jobKey ctx w
  let s1 := if bitOf v 63 then jobOpen ctx w (bitOf v 40) (bitsOf v 38 32) (v % 2 ^ 24) s
    else setJob k { getJob s k with checksum := bitOf v 40, thresh := bitsOf v 38 32, total := v % 2 ^ 24 } s
  if bitOf v 62 then jobCancel ctx w s1 else s1

/-- A write to a job word of a context on wing w; `bad`: the comparison of a block fails (R482, R488 to R494). -/
def jobWrite (ctx w off v : Nat) (bad : Bool) (s : State) : State :=
  let k := jobKey ctx w
  match off with
  | 0x00 => jobSetupWrite ctx w v s
  | 0x08 => setJob k { getJob s k with dst := v } s
  | 0x10 => setJob k { getJob s k with cap := v % 2 ^ 25 } s
  | 0x18 => setJob k { getJob s k with src := v } s
  | 0x20 => jobPiece ctx w (v % 2 ^ 24) (bitOf v 62) (bitOf v 63) bad s
  | _ => s

/-- The wing whose compressor door 8 presents to a task: the one where it runs. -/
def runWing (s : State) (key : Nat) : Nat := match getTask s key with | some t => t.core / 32 | none => key / 2048

/-- A word of door 6, 7 or 8 read by a task (R488, R698). -/
def engineRead (s : State) (key n off : Nat) : Nat :=
  match n with
  | 6 => readSeal s (key + 1) off
  | 7 => readDig s (key + 1) off
  | 8 => jobWord (getJob s (jobKey (key + 1) 0)) off
  | _ => 0

/-- The fault number of a code of an engine's check: 1 ADDR, 2 CHARTER. -/
def engineCode (c : Nat) : Nat := if c = 1 then 0x03 else if c = 2 then 0x06 else 0

/-- The fault of a write to a word of door 6, 7 or 8 (R490, R715, R716, R722, R728, R729). -/
def engineFault (s : State) (key : Nat) (n off v : Nat) : Nat :=
  let ctx := key + 1
  let e := s.sec.sealEng
  match n with
  | 6 =>
    if off = 0x08 ∧ bitOf v 63 then
      engineCode (sealGoFault s ctx (bitsOf v 10 8) (v % 2) (bitsOf v 21 16) e.len e.aadLen e.dst)
    else if off = 0x48 ∧ ownsSeal s ctx ∧ e.op.isSome ∧ v % 2 ^ 19 ≤ 262144 ∧ ¬ ctxReach s ctx e.src (v % 2 ^ 19) false then 0x03
    else 0
  | 7 =>
    if off = 0x00 ∧ bitOf v 63 then engineCode (digOpenFault s ctx (bitsOf v 21 16) (bitOf v 9))
    else if off = 0x38 then engineCode (digCmdFault s ctx (v % 4))
    else 0
  | 8 => engineCode (jobFault s ctx (runWing s key) off v)
  | _ => 0

/-- A write to a word of door 6, 7 or 8 by a task. -/
def engineWrite (key n off v : Nat) (s : State) : State :=
  match n with
  | 6 => sealWrite (key + 1) off v s
  | 7 => digWrite (key + 1) off v s
  | 8 => jobWrite (key + 1) (runWing s key) off v false s
  | _ => s

/-- A door write makes an engine read a poisoned line of SLM for the task (R761): a piece, an import, a waybill descriptor or plan. -/
def engineReadsBad (s : State) (key n off v : Nat) : Bool :=
  let ctx := key + 1
  match n with
  | 6 => decide (off = 0x48) && ownsSeal s ctx && s.sec.sealEng.op.isSome && readPoisoned s s.sec.sealEng.src (v % 2 ^ 19)
  | 7 => decide (off = 0x38 ∧ v % 4 = 2) && !digHeldByOther s ctx && readPoisoned s s.sec.dig.ctxAddr 512
  | 8 =>
    let j := getJob s (jobKey ctx 0)
    decide (off = 0x20 ∧ j.code = 1 ∧ v % 2 ^ 24 ≤ 262144) && readPoisoned s j.src (v % 2 ^ 24)
  | _ => false

end Sys2Proof.Machine
end

