-- ==== Sys2Proof/Machine/Doors.lean ====
section
/-! DEFINITION. The doors: words of program control, waybills, batches, posts, beacon and copy, as a task reads and writes them (R299 to R323, R428, R438). -/

namespace Sys2Proof.Machine

/-- The oldest posted batch of a queue (R316). -/
def oldestPosted (l : RunLeg) (q : Nat) : Option Batch :=
  (l.batches.filter (fun b => b.queue = q ∧ b.state = .posted)).foldl (fun a b => match a with
    | some x => if b.posted < x.posted then some b else some x
    | none => some b) none

/-- BT_NEXT: the batch is handed to the task (R316, R331). -/
def btNext (key : Nat) (s : State) : Nat × State :=
  match getTask s key with
  | none => (0, s)
  | some t =>
    match t.leg with
    | none => (0, s)
    | some r =>
      match findLeg s r with
      | none => (0, s)
      | some l =>
        match oldestPosted l r.queue with
        | none => (0, s)
        | some b =>
          let off := batchOff l b
          let s1 := updLeg r.station r.handle r.leg (fun l =>
            { l with batches := l.batches.map (fun x => if sameBatch x b then { x with state := .held } else x) }) s
          (0x300000000 + off, updTask key (fun t => { t with held := t.held ++ [(off, l.batchBytes)] }) s1)

/-- BT_DONE: the batch at the address goes back to its sieve, which goes on if it waited for it (R262, R270); an address the task does not hold is ignored. -/
def btDone (key v : Nat) (s : State) : State :=
  match getTask s key with
  | none => s
  | some t =>
    match t.leg.bind (findLeg s), t.held.find? (fun h => 0x300000000 + h.1 = v) with
    | some l, some h =>
      let s1 := updLeg l.station l.handle l.leg (fun l =>
        { l with batches := l.batches.map (fun x => if batchOff l x = h.1 ∧ x.state = .held then { x with state := .free } else x) }) s
      let s2 := updTask key (fun t => { t with held := t.held.filter (fun x => x.1 ≠ h.1) }) s1
      (wingChannels l.wing).foldl (sivRetry true false) s2
    | _, _ => s

/-- BT_APP_LEN: leg output (R317). -/
def btAppend (key n : Nat) (s : State) : State :=
  match getTask s key with
  | none => s
  | some t =>
    match t.leg.bind (findLeg s) with
    | none => s
    | some l =>
      let bytes := Memory.readBytes t.data (t.btSrc.toNat - 0x20000) n
      let take := min n (l.legOutMax - min l.legOutMax l.outRequired)
      let s1 := stagingWrite l.pool (l.base + l.size - l.legOutMax + l.outRequired) (bytes.take take) s
      updLeg l.station l.handle l.leg (fun l =>
        { l with outBytes := l.outBytes + take, outRequired := satAdd max64 l.outRequired n,
                 outTrunc := l.outTrunc || decide (take < n) }) s1

/-- BT_STATE (chapter 6). -/
def btState (s : State) (t : Task) : Nat :=
  match t.leg.bind (findLeg s) with
  | some l => b2n (sievesDone l) + 2 * b2n l.outTrunc + min l.outRequired (2 ^ 32 - 1) * 2 ^ 32
  | none => 0

/-- CTL_APP_LEN: bytes of the data hold into range 0 at CTL_OUT_POS, cut at the range end (R300). -/
def ctlAppend (key n : Nat) (s : State) : State :=
  match getTask s key with
  | none => s
  | some t =>
    let bytes := Memory.readBytes t.data (t.appSrc.toNat - 0x20000) n
    let s1 := match t.ranges.head? with
      | some r => slmWrite (r.1 + t.outPos.toNat) (bytes.take (r.2 - min r.2 t.outPos.toNat)) s
      | none => s
    updTask key (fun t => { t with outPos := t.outPos + BitVec.ofNat 64 n }) s1

/-- CP_LEN: a copy through a buffer of its own (R308). -/
def copyRun (key n : Nat) (s : State) : State :=
  match getTask s key with
  | none => s
  | some t =>
    let bytes := readSpace s key t t.cpSrc.toNat n
    updTask key (fun t => { t with cpDone := BitVec.ofNat 64 n }) (writeSpace key t.cpDst.toNat bytes s)

/-- A run of SLM-window addresses within the task's ranges (R307, R308). -/
def copySpanOk (t : Task) (a n : Nat) : Bool :=
  match regionOf a with
  | .slm off => coveredBy 17 t.ranges off n
  | _ => false

/-- Fields of a waybill descriptor (R309). -/
structure WbDesc where
  bytes : List Byte
deriving DecidableEq, Repr

/-- A little-endian field of a descriptor. -/
def WbDesc.fld (d : WbDesc) (off n : Nat) : Nat := leNat ((d.bytes.drop off).take n)

/-- The descriptor at WB_DESC. -/
def descOf (s : State) (key : Nat) (t : Task) : WbDesc := { bytes := readSpace s key t t.wbDesc.toNat 128 }

/-- The bytes a waybill's staging takes for one leg (R310 code 0x14). -/
def legStaging (d : WbDesc) (queues : Nat) : Nat := d.fld 40 2 * 1024 * d.fld 42 2 * 16 * queues + d.fld 44 4

/-- The refusal code of WB_GO; 0 when the waybill is accepted (R310). -/
def wbCheck (s : State) (key : Nat) (t : Task) (d : WbDesc) (img : List Byte) : Nat :=
  let plan := parsePlan img
  let pc := planCheck (bcnConfigured s) (bcnKeyBytes s) img
  let nsid := d.fld 0 4
  let slba := d.fld 8 8
  let nlb := d.fld 16 8
  let size := (Tbl.find s.host.namespaces nsid).elim 0 (·.size)
  let res := t.ranges[d.fld 48 1]?
  let rec_ := t.ranges[d.fld 49 1]?
  if pc ≠ 0 then pc
  else if t.wbDesc.toNat % 8 ≠ 0 ∨ !zeros d.bytes 50 6 ∨ !zeros d.bytes 72 56 ∨ 2 ≤ d.fld 4 1 ∨ 8 ≤ d.fld 5 1 ∨ 32 ≤ d.fld 6 1 ∨
      32 ≤ d.fld 7 1 ∨ nlb < 4 ∨ imgCodeLen t.image ≤ 2 * d.fld 36 4 ∨ d.fld 40 2 < 4 ∨ 1024 < d.fld 40 2 ∨ d.fld 42 2 < 2 ∨ 64 < d.fld 42 2 ∨
      d.fld 44 4 % 8 ≠ 0 ∨ 16 * 2 ^ 20 < d.fld 44 4 then 0x10
  else if slba % 4 ≠ 0 ∨ nlb % 4 ≠ 0 ∨ size < slba + nlb ∨ !isAttached s t.fn nsid then 0x11
  else if !chrScan s t.fn nsid ∨ !(planTables plan).all (fun b => chrSearch s t.fn b) then 0x12
  else match res, rec_ with
    | some rr, some cr =>
      if rr.2 < d.fld 56 8 ∨ cr.2 < d.fld 64 8 ∨ cr.2 - d.fld 64 8 < 320 * (8 * litMembers s + 1) then 0x13
      else if 2 ^ 27 < legStaging d plan.queues then 0x14
      else if 8 ≤ (wbOf s key).length ∨ 64 ≤ s.prog.waybills.length then 0x15
      else 0
    | _, _ => 0x13

/-- The handle after one: 32 bits, never 0 (R311). -/
def nextHandleOf (h : Nat) : Nat := if 0xFFFFFFFF ≤ h then 1 else h + 1

/-- A leg of an accepted waybill that this station runs, waiting for its start (R312, R313). -/
def newLeg (s : State) (key handle no w : Nat) (bales : List Nat) (t : Task) (d : WbDesc) (plan : Plan) (arrival : Nat) : RunLeg :=
  { station := ownStation s, handle := handle, leg := no, attempt := 0, wing := w, pool := w, state := .waiting, slot := 0, nsid := d.fld 0 4,
    bales := bales, firstGrain := d.fld 8 8 / 4, lastGrain := (d.fld 8 8 + d.fld 16 8) / 4 - 1, plan := plan, fn := t.fn, gen := t.gen,
    progSlot := t.progSlot, image := t.image, doorMask := t.doorMask, parent := handleOf key t, prio := floorPrio s t.fn (d.fld 5 1), flagBatch := d.fld 6 1, redEntry := d.fld 36 4,
    descAddr := t.wbDesc.toNat, batchBytes := d.fld 40 2 * 1024, depth := d.fld 42 2, legOutMax := d.fld 44 4, base := 0,
    size := legStaging d plan.queues, arrival := arrival, progress := [], doneCh := [], batches := [], nextSeq := [], nextPost := 0,
    outBytes := 0, outRequired := 0, outTrunc := false, ended := [], summary := LegSummary.zero }

/-- WB_GO: checks, and the waybill with its legs when it is accepted (R310 to R312). -/
def wbGo (key : Nat) (s : State) : State :=
  match getTask s key with
  | none => s
  | some t =>
    let d := descOf s key t
    let img := readSpace s key t (d.fld 24 8) (d.fld 32 4)
    let plan := parsePlan img
    let code := wbCheck s key t d img
    let s0 := if code = 0x12 then denied t.fn 7 s else s
    if code ≠ 0 then updTask key (fun t => { t with wbResult := BitVec.ofNat 64 (code * 2 ^ 32) }) s0
    else
      let h := s.prog.nextHandle
      let own := ownStation s
      let all := balesOfRange s (d.fld 0 4) (d.fld 8 8) (d.fld 16 8)
      let groups := legGroups (if bitOf (d.fld 4 1) 0 then all.filter (fun b => b.2.1 = own) else all)
      let nums := (List.range groups.length).zip groups
      let rr := t.ranges.getD (d.fld 48 1) (0, 0)
      let cr := t.ranges.getD (d.fld 49 1) (0, 0)
      let wb : Waybill :=
        { handle := h, task := key, incarn := t.incarn, nsid := d.fld 0 4, flagLeg := d.fld 7 1, resBase := rr.1 + d.fld 56 8,
          resLen := rr.2 - d.fld 56 8, recBase := cr.1 + d.fld 64 8, recLen := cr.2 - d.fld 64 8, resPos := 0, recPos := 0,
          resFull := false, maxStatus := 0,
          legs := nums.map (fun g => { leg := g.1, station := g.2.1, wing := g.2.2.1, bales := g.2.2.2, attempt := 0, done := none }),
          cancelled := false, totalOut := 0, totalReq := 0, summary := LegSummary.zero,
          launch := (legNums (newLeg s key h 0 0 [] t d plan 0) img.length, img ++ t.image) }
      let mine := nums.filter (fun g => g.2.1 = own)
      let legs := mine.map (fun g => newLeg s key h g.1 g.2.2.1 g.2.2.2 t d plan (s.prog.nextArrival + g.1))
      let out := (nums.filter (fun g => g.2.1 ≠ own)).map (fun g =>
        LegMsg.launch g.2.1 (legNums (newLeg s key h g.1 g.2.2.1 g.2.2.2 t d plan 0) img.length) (img ++ t.image))
      let s1 := { s0 with prog := { s0.prog with
        nextHandle := nextHandleOf h
        nextArrival := s0.prog.nextArrival + nums.length
        legs := s0.prog.legs ++ legs
        outbox := s0.prog.outbox ++ out } }
      wbFinish wb (updTask key (fun t => { t with wbResult := BitVec.ofNat 64 h }) s1)

/-- WB_CANCEL of one of the thread's waybills in flight; any other value is ignored (R311, R323). -/
def wbCancelBy (key v : Nat) (s : State) : State :=
  match Tbl.find s.prog.waybills v with
  | some w => if w.task = key then wbCancel v false s else s
  | none => s

/-- What a door post meets: 0 posted, 1 handle not live, 2 not granted; none when the queue is full (R438, R917). -/
def doorPostOutcome (s : State) (t : Task) : Option Nat :=
  let h := t.pstTarget.toNat % 2 ^ 32
  match liveTask s h with
  | none => some 1
  | some k =>
    let tf := (getTask s k).elim 0 (·.fn)
    if tf ≠ t.fn ∧ !chrPost s t.fn tf then some 2
    else if 64 ≤ (getWing s (k / 2048)).postQ.length then none else some 0

/-- PST_MASK (R438). -/
def doorPost (key v : Nat) (s : State) : State :=
  match getTask s key with
  | none => s
  | some t =>
    match doorPostOutcome s t with
    | some 0 =>
      let (s1, _, ev) := postTo (t.pstTarget.toNat % 2 ^ 32) (BitVec.ofNat 32 v) 4 s
      let s2 := if ev then raise (1048 + (t.pstTarget.toNat / 2 ^ 11) % 8) s1 else s1
      updTask key (fun t => { t with pstResult := 0 }) s2
    | some c =>
      let s1 := if c = 2 then denied t.fn 6 s else s
      updTask key (fun t => { t with pstResult := BitVec.ofNat 64 c }) s1
    | none => s

/-- A running task's rank fell: a Ready task that now outranks it takes the core (R422, R425, R428). -/
def reRank (k : Nat) (s : State) : State :=
  let s1 := match pickFor s (k / 32) (k % 32) with
    | some key => place (k / 32) key s
    | none => s
  let c := getCore s1 k
  match runPrio s1 k, nextPrio s1 k with
  | some r, some n => if c.nextLoaded && decide (n < r) then yieldCore k true s1 else s1
  | _, _ => s1

/-- PST_PRIO (R418, R428). -/
def setOwnPrio (key v : Nat) (s : State) : State :=
  match getTask s key with
  | none => s
  | some t => reRank t.core (setTask key { t with prio := floorPrio s t.fn (v % 8) } s)

/-- PST_AFFINITY; a write of 0 is ignored (R428). -/
def setOwnAffinity (key v : Nat) (s : State) : State :=
  if v % 2 ^ 32 = 0 then s else updTask key (fun t => { t with affinity := BitVec.ofNat 32 v }) s

/-- PST_LEG_TASK (chapter 9). -/
def legTaskHandle (s : State) (t : Task) (q : Nat) : Nat :=
  match t.leg with
  | none => 0
  | some r =>
    match s.disp.tasks.find? (fun e => e.2.leg = some { r with queue := q }) with
    | some e => handleOf e.1 e.2
    | none => 0

/-- A write to an RW word of a beacon context (R476). -/
def bcnSetWord (c : BcnCtx) (off v : Nat) : BcnCtx :=
  let w : Word := BitVec.ofNat 64 v
  let w32 : Word := BitVec.ofNat 64 (v % 2 ^ 32)
  match off with
  | 0x00 => { c with sTable := v % 16 }
  | 0x08 => { c with sKey0 := w }
  | 0x10 => { c with sKey1 := w }
  | 0x18 => { c with sKey2 := w32 }
  | 0x100 => { c with uTable := bitsOf v 63 60, uIndex := v % 2 ^ 21 }
  | 0x108 => { c with uKey0 := w }
  | 0x110 => { c with uKey1 := w }
  | 0x118 => { c with uKey2 := w32 }
  | 0x120 => { c with uMask0 := w }
  | 0x128 => { c with uMask1 := w }
  | 0x130 => { c with uMask2 := w32 }
  | 0x138 => { c with uRes := BitVec.ofNat 32 v }
  | _ => c

/-- A door word as a task reads it; only BT_NEXT changes anything (R303, R348). -/
def doorRead (s : State) (key n off : Nat) : Nat × State :=
  match getTask s key with
  | none => (0, s)
  | some t =>
    match n with
    | 0 =>
      if off = 0 then (ownStation s % 64 + (t.core / 32) * 2 ^ 8 + t.core * 2 ^ 16 + t.progSlot * 2 ^ 24, s)
      else if off = 8 then (t.ranges.length, s)
      else if off = 0x200 then (t.outPos.toNat, s)
      else if off = 0x208 then (t.appSrc.toNat, s)
      else if 0x10 ≤ off ∧ off < 0x110 then
        match t.ranges[(off - 0x10) / 0x10]? with
        | some r => (if off % 0x10 = 0 then 0x100000000 + r.1 else r.2, s)
        | none => (0, s)
      else (0, s)
    | 1 =>
      if off = 0 then (t.wbDesc.toNat, s)
      else if off = 0x10 then (t.wbResult.toNat, s)
      else if off = 0x20 then ((wbOf s key).length + s.prog.waybills.length * 2 ^ 8, s)
      else (0, s)
    | 2 =>
      if off = 0 then btNext key s
      else if off = 0x10 then (t.btSrc.toNat, s)
      else if off = 0x28 then (btState s t, s)
      else (0, s)
    | 3 =>
      if off = 0 then (handleOf key t, s)
      else if off = 0x8 then (t.parent, s)
      else if off = 0x10 then (t.prio, s)
      else if off = 0x18 then (t.affinity.toNat, s)
      else if off = 0x20 then (t.pstTarget.toNat, s)
      else if off = 0x30 then (t.pstResult.toNat, s)
      else if 0x100 ≤ off then (legTaskHandle s t ((off - 0x100) / 8), s)
      else (0, s)
    | 4 => (bcnWord (bcnCtx s (key + 1)) off, s)
    | 5 => (bcnWord (bcnCtx s (key + 1)) off, s)
    | 9 =>
      if off = 0 then (t.cpSrc.toNat, s)
      else if off = 8 then (t.cpDst.toNat, s)
      else if off = 0x18 then (t.cpDone.toNat, s)
      else (0, s)
    | _ => (engineRead s key n off, s)

/-- The fault of a door write that its value and the words before it bring: 0 for none (R300, R308, R311, R471). -/
def doorWriteFault (s : State) (key : Nat) (t : Task) (n off v : Nat) : Nat :=
  match n with
  | 0 =>
    if off = 0x210 ∧ v ≠ 0 ∧ !(decide (0x20000 ≤ t.appSrc.toNat ∧ t.appSrc.toNat + v ≤ 0x50000)) then 0x03 else 0
  | 1 =>
    if off = 8 then
      let d := descOf s key t
      if !mayAccess t t.wbDesc.toNat 128 false ∨ !mayAccess t (d.fld 24 8) (d.fld 32 4) false then 0x03 else 0
    else 0
  | 2 =>
    if off = 0x18 ∧ v ≠ 0 ∧ !(decide (0x20000 ≤ t.btSrc.toNat ∧ t.btSrc.toNat + v ≤ 0x50000)) then 0x03 else 0
  | 4 => if off = 0x20 ∧ !chrSearch s t.fn (bcnCtx s (key + 1)).sTable then 0x06 else 0
  | 5 => if off = 0x140 ∧ !chrUpdate s t.fn (bcnCtx s (key + 1)).uTable then 0x06 else 0
  | 9 =>
    if off = 0x10 ∧ (v = 0 ∨ 16777216 < v ∨ !copySpanOk t t.cpSrc.toNat v ∨ !copySpanOk t t.cpDst.toNat v) then 0x03 else 0
  | 6 => engineFault s key n off v
  | 7 => engineFault s key n off v
  | 8 => engineFault s key n off v
  | _ => 0

/-- The CHT_DENY kind of a charter fault at a door write (R658). -/
def doorDenyKind (n : Nat) : Nat := if n = 4 ∨ n = 5 then 3 else if n = 6 ∨ n = 7 then 5 else 2

/-- A door write makes the module read a poisoned line of SLM for the task (R761). -/
def doorReadsBad (s : State) (key n off v : Nat) : Bool :=
  match getTask s key with
  | none => false
  | some t =>
    if n = 1 ∧ off = 8 then
      let d := descOf s key t
      readPoisoned s t.wbDesc.toNat 128 || readPoisoned s (d.fld 24 8) (d.fld 32 4)
    else if n = 9 ∧ off = 0x10 then readPoisoned s t.cpSrc.toNat v
    else engineReadsBad s key n off v

/-- BT_END: sieves that waited for a batch of the queue go on (R262, R318). -/
def btEnd (key : Nat) (s : State) : State :=
  let chs := match (getTask s key).bind (·.leg) with
    | some r => match findLeg s r with | some l => wingChannels l.wing | none => []
    | none => []
  chs.foldl (sivRetry true true) (reduceEnd key s)

/-- What a door write by a task does (R303, R348). -/
def doorStore (key n off v : Nat) (s : State) : State :=
  match n with
  | 0 =>
    if off = 0x200 then updTask key (fun t => { t with outPos := BitVec.ofNat 64 v }) s
    else if off = 0x208 then updTask key (fun t => { t with appSrc := BitVec.ofNat 64 v }) s
    else if off = 0x210 then ctlAppend key v s
    else if off = 0x218 then threadExit key (v % 65536) s
    else s
  | 1 =>
    if off = 0 then updTask key (fun t => { t with wbDesc := BitVec.ofNat 64 v }) s
    else if off = 8 then wbGo key s
    else if off = 0x18 then wbCancelBy key v s
    else s
  | 2 =>
    if off = 8 then btDone key v s
    else if off = 0x10 then updTask key (fun t => { t with btSrc := BitVec.ofNat 64 v }) s
    else if off = 0x18 then btAppend key v s
    else if off = 0x20 then btEnd key s
    else s
  | 3 =>
    if off = 0x10 then setOwnPrio key v s
    else if off = 0x18 then setOwnAffinity key v s
    else if off = 0x20 then updTask key (fun t => { t with pstTarget := BitVec.ofNat 64 (v % 2 ^ 32) }) s
    else if off = 0x28 then doorPost key v s
    else s
  | 4 => if off = 0x20 then bcnGo (key + 1) s else setBcnCtx (key + 1) (bcnSetWord (bcnCtx s (key + 1)) off v) s
  | 5 => if off = 0x140 then bcnCommand (key + 1) (v % 16) s else setBcnCtx (key + 1) (bcnSetWord (bcnCtx s (key + 1)) off v) s
  | 9 =>
    if off = 0 then updTask key (fun t => { t with cpSrc := BitVec.ofNat 64 v }) s
    else if off = 8 then updTask key (fun t => { t with cpDst := BitVec.ofNat 64 v }) s
    else if off = 0x10 then copyRun key v s
    else s
  | _ => engineWrite key n off v s

/-- A door write by a task; one that meets a poisoned line ends the task (R303, R348, R761). -/
def doorWrite (key n off v : Nat) (s : State) : State :=
  if doorReadsBad s key n off v then taskLost key s else doorStore key n off v s

/-- A door write must wait for room in a post queue: it has not begun (R917). -/
def doorWaits (s : State) (t : Task) (n off : Nat) : Option Nat :=
  if n = 3 ∧ off = 0x28 ∧ (doorPostOutcome s t).isNone then
    (liveTask s (t.pstTarget.toNat % 2 ^ 32)).map (fun k => k / 2048)
  else none

/-- Marks a poster class stalled on a wing's full queue (R435). -/
def markStall (w cls : Nat) (s : State) : State :=
  let d := getWing s w
  setWing w { d with stallCls := d.stallCls ||| (1#6 <<< cls) } s

end Sys2Proof.Machine
end

