-- ==== Sys2Proof/Machine/YExec.lean ====
section
/-! DEFINITION. How a Yusil instruction runs: fetch, operands, faults, result, end check, counters (R345, R359 to R368, R375 to R381, R386). -/

namespace Sys2Proof.Machine

/-- What an instruction does once its operands are read. -/
inductive YOut where
  /-- Completes: the state after its reads, the registers, the value for the destination if it writes one, the address of the
  next instruction, and whether it transferred control (R365). -/
  | done (s : State) (r : YRegs) (v : Option Nat) (next : Nat) (transfer : Bool)
  /-- A fault: code. -/
  | fault (code : Nat)
  /-- Blocks in WAIT (R405). -/
  | block (mask : BitVec 32) (all : Bool)
  /-- Meets a full post queue of a wing, as a poster of a class (R408, R917). -/
  | stall (wing cls : Nat)
  /-- Yields after it completes (R404, R409). -/
  | yields (s : State) (r : YRegs) (v : Option Nat)
  /-- Ends the task as a return from its entry frame does (R373). -/
  | entryReturn (r : YRegs) (reads : List Nat)
  /-- A CAS: the state after its store, the address, whether it stored, the registers, the next address (R403). -/
  | atomic (s : State) (at_ : List Nat) (wrote : Bool) (r : YRegs) (next : Nat)
  /-- A CALL or a RET: the state after its stack accesses, their addresses, the registers, the next address (R369, R372). -/
  | frame (s : State) (reads writes : List Nat) (r : YRegs) (next : Nat)

/-- A location's value at a size: memory and doors are read, with what the read of a door changes (R357). -/
def readLoc (s : State) (key : Nat) (l : Option Loc) (sz : Nat) : Nat × State :=
  match l with
  | none => (0, s)
  | some (.reg _ v) => (v % 2 ^ (8 * sz), s)
  | some (.imm v) => (v % 2 ^ (8 * sz), s)
  | some (.mem a) =>
    match regionOf a with
    | .door n off => doorRead s key n off
    | _ =>
      match getTask s key with
      | some t => (leNat (readSpace s key t a sz), s)
      | none => (0, s)

/-- The end check of R364 at an address: the registers, the address to go on at, the iterations ended. -/
def endCheck : Nat → YRegs → Nat → YRegs × Nat × Nat
  | 0, r, a => (r, a, 0)
  | fuel + 1, r, a =>
    if r.ld = 0 then (r, a, 0)
    else
      let i := r.ld - 1
      let le := (r.le.getD i 0).toNat
      if le % 2 ^ 32 ≠ a then (r, a, 0)
      else
        let n := (r.lc.getD i 0).toNat + 1
        let r1 := { r with lc := r.lc.setIfInBounds i (BitVec.ofNat 64 n) }
        if n < le / 2 ^ 32 then (r1, (r.lb.getD i 0).toNat, 1)
        else
          let (r2, a2, k) := endCheck fuel { r1 with ld := i } a
          (r2, a2, k + 1)

/-- Pages a memory access touches in the hold: 0-15 code, 16-63 data (R334). -/
def holdPage (a : Nat) : Option Nat :=
  match regionOf a with
  | .code off => some (off / 4096)
  | .data off => some (16 + off / 4096)
  | _ => none

/-- Addresses an instruction reads and writes. -/
structure Accesses where
  reads : List Nat
  writes : List Nat
deriving DecidableEq, Repr

/-- The hold pages of an instruction's fetch and accesses. -/
def pagesTouched (pc len : Nat) (a : Accesses) : List (Nat × Bool) :=
  ([pc, pc + len - 1].filterMap holdPage).dedup.map (fun p => (p, false)) ++
  (a.reads.filterMap holdPage).map (fun p => (p, false)) ++ (a.writes.filterMap holdPage).map (fun p => (p, true))

/-- Some address lies in a door. -/
def touchesDoor (a : Accesses) : Bool :=
  (a.reads ++ a.writes).any (fun x => match regionOf x with | .door _ _ => true | _ => false)

/-- Wing-window accesses of an instruction (R386). -/
def wingAccesses (a : Accesses) : Nat := ((a.reads ++ a.writes).filter inWingWindow).length

/-- An instruction retires on core k: its counters and hold pages (R334, R386). `miss` says that a wing-window access missed
the wing cache. -/
def retire (k key handle pc len : Nat) (a : Accesses) (loops : Nat) (miss : Bool) (s : State) : State :=
  let (c, filled) := touchPages (frameOwner s) key (pagesTouched pc len a) (getCore s k)
  let s1 := setCore k c s
  let s2 := cntCoreAt k 0 1 handle pc (noteRetired k handle pc s1)
  let s3 := if touchesDoor a || filled || (miss && decide (wingAccesses a ≠ 0)) then cntCoreAt k 1 1 handle pc s2 else s2
  let s4 := if wingAccesses a = 0 then s3 else cntCoreAt k 2 (wingAccesses a) handle pc s3
  if loops = 0 then s4 else cntCoreAt k 5 loops handle pc s4

/-- Writes a result: to a register zero-extended, to memory, or to a door word (R357, R358). -/
def writeLoc (key : Nat) (l : Option Loc) (sz v : Nat) (s : State) : State :=
  match l with
  | some (.reg n _) => updTask key (fun t => { t with regs := setReg t.regs n (BitVec.ofNat 64 (v % 2 ^ (8 * sz))) }) s
  | some (.mem a) =>
    match regionOf a with
    | .door n off => doorWrite key n off (v % 2 ^ 64) s
    | _ => writeSpace key a (leBytes sz v) s
  | _ => s

/-- The fault that the value brings to a door destination. -/
def valueFault (s : State) (key : Nat) (t : Task) (l : Option Loc) (v : Nat) : Nat :=
  match l with
  | some (.mem a) => match regionOf a with
    | .door n off => doorWriteFault s key t n off v
    | _ => 0
  | _ => 0

/-- A door destination that meets a full post queue: its wing (R917). -/
def doorStall (s : State) (t : Task) (l : Option Loc) : Option Nat :=
  match l with
  | some (.mem a) => match regionOf a with
    | .door n off => doorWaits s t n off
    | _ => none
  | _ => none

/-- The task of a core stops on a fault, with a CHARTER denial recorded (R379 to R384, R792). -/
def stopTask (key : Nat) (t : Task) (code pc kind : Nat) (s : State) : State :=
  taskFault key code pc (if code = 0x06 then denied t.fn kind s else s)

/-- CHT_DENY.KIND of a CHARTER fault at an instruction: the kind of the door it names, else a counter. -/
def denyKindOf (a : Accesses) (wf : Bool) : Nat :=
  match (a.writes ++ a.reads).filterMap (fun x => match regionOf x with | .door n _ => some n | _ => none) with
  | n :: _ => if wf then doorDenyKind n else 2
  | [] => 4

/-- Completes an instruction: the end check, the registers, the counters, and last the result (R359, R364, R379). -/
def complete (k key : Nat) (t : Task) (i : YInstr) (d : Option Loc) (a : Accesses) (miss : Bool) (s : State) (r : YRegs)
    (v : Option Nat) (next : Nat) (transfer : Bool) : State :=
  let pc := t.regs.pc.toNat
  match v with
  | some x =>
    let f := valueFault s key t d x
    if f ≠ 0 then stopTask key t f pc (denyKindOf a true) s
    else match doorStall s t d with
      | some w => markStall w 4 (blockTask key .stalled (fun t => { t with stallWing := w }) s)
      | none =>
        let (r1, pc1, n) := if transfer then (r, next, 0) else endCheck 4 r next
        let s1 := updTask key (fun t => { t with regs := { r1 with pc := BitVec.ofNat 64 pc1 } }) s
        writeLoc key d i.dsize x (retire k key (handleOf key t) pc i.len a n miss s1)
  | none =>
    let (r1, pc1, n) := if transfer then (r, next, 0) else endCheck 4 r next
    let s1 := updTask key (fun t => { t with regs := { r1 with pc := BitVec.ofNat 64 pc1 } }) s
    retire k key (handleOf key t) pc i.len a n miss s1

/-- Addresses that an outcome reads beside the operands. -/
def outReads : YOut → List Nat
  | .atomic _ at_ _ _ _ => at_
  | .frame _ reads _ _ _ => reads
  | .entryReturn _ reads => reads
  | _ => []

/-- A ready task of the priority or a higher one may run on core k (R404, R409). -/
def rivalReady (k prio : Nat) (s : State) : Bool :=
  ((List.range (prio + 1)).flatMap (fun p => readyList s (k / 32) p)).any (fun x =>
    match getTask s x with | some y => mayRun y (k % 32) | none => false)

/-- What is left to do with an instruction's outcome. -/
def finishOut (k key : Nat) (t : Task) (i : YInstr) (d : Option Loc) (a : Accesses) (miss : Bool) (s0 : State) : YOut → State
  | .done s r v next tr => complete k key t i d a miss s r v next tr
  | .fault code => stopTask key t code t.regs.pc.toNat (denyKindOf a false) s0
  | .block mask all => blockTask key .waiting (fun t => { t with waitMask := mask, waitAll := all }) s0
  | .stall w cls => markStall w cls (blockTask key .stalled (fun t => { t with stallWing := w }) s0)
  | .yields s r v =>
    let s1 := complete k key t i d a miss s r v (t.regs.pc.toNat + i.len) false
    if (getCore s1 k).run = some key ∧ rivalReady k t.prio s1 then yieldCore k false s1 else s1
  | .atomic s at_ wrote r next =>
    complete k key t i none { reads := a.reads ++ at_, writes := if wrote then at_ else [] } miss s r none next false
  | .frame s reads writes r next =>
    complete k key t i none { reads := a.reads ++ reads, writes := a.writes ++ writes } miss s r none next true
  | .entryReturn r reads =>
    let s1 := retire k key (handleOf key t) t.regs.pc.toNat i.len { a with reads := a.reads ++ reads } 0 miss
      (updTask key (fun t => { t with regs := r }) s0)
    match t.kind with
    | .thread => threadExit key 0 s1
    | .reduce => btEnd key s1

/-- An instruction's outcome; one that read an uncorrectable line of SLM ends its task (R761). -/
def finish (k key : Nat) (t : Task) (i : YInstr) (d : Option Loc) (a : Accesses) (miss : Bool) (s0 : State) (o : YOut) : State :=
  if (a.reads ++ outReads o).any (fun x => readPoisoned s0 x 1) then taskLost key s0 else finishOut k key t i d a miss s0 o

/-- How an instruction uses its destination: it is read, it is written. -/
structure DestUse where
  rd : Bool
  wr : Bool
deriving DecidableEq, Repr

/-- The addresses of the operands. -/
def operandAccesses (a b d : Option Loc) (u : DestUse) (brief : Bool) : Accesses :=
  let ad := fun (l : Option Loc) => (l.bind locAddr).toList
  { reads := ad a ++ ad b ++ (if u.rd && !brief then ad d else []), writes := if u.wr then ad d else [] }

/-- The instruction crosses the innermost open loop's body end (R367). -/
def crossesLoop (r : YRegs) (pc len : Nat) : Bool :=
  if r.ld = 0 then false
  else
    let e := (r.le.getD (r.ld - 1) 0).toNat % 2 ^ 32
    decide (pc < e ∧ e < pc + len)

/-- Runs the instruction at the pc of the task on core k, if it is `op`: fetch, decode, operands, the operation `f`, which gets
the state after the reads, the task, the instruction, the registers after the register effects and the two sources. -/
def yRun (op : YOp) (use : YInstr → DestUse) (f : State → Nat → Task → YInstr → YRegs → Nat → Nat → Option Loc → YOut)
    (k : Nat) (miss : Bool) (s : State) : State :=
  match (getCore s k).run with
  | none => s
  | some key =>
    match getTask s key with
    | none => s
    | some t =>
      let pc := t.regs.pc.toNat
      match fetchDecode t.code pc with
      | .bad code at_ => stopTask key t code at_ 2 s
      | .ok i =>
        if i.op ≠ op then s
        else if crossesLoop t.regs pc i.len then stopTask key t 0x0B pc 2 s
        else
          let u := use i
          match (if i.brief then briefOperands s t i u.rd u.wr else fullOperands s t i u.rd u.wr) with
          | .bad code => stopTask key t code pc 2 s
          | .ok r la lb ld =>
            let (va, s1) := readLoc s key la (if i.brief ∧ u.rd then i.dsize else i.size)
            let (vb, s2) := readLoc s1 key lb i.size
            finish k key t i ld (operandAccesses la lb ld u i.brief) miss s (f s2 key t i r va vb ld)

/-- Runs an operation on two sources that writes its result and sets flags (R394, R397). -/
def yBin (op : YOp) (g : Nat → Nat → Nat → YFlags → YResult) (k : Nat) (miss : Bool) (s : State) : State :=
  yRun op (fun i => { rd := i.brief, wr := true })
    (fun s1 _ t i r a b _ =>
      let o := g (8 * i.size) a b (flagsOf r)
      .done s1 (withFlags r o.f) (some o.r) (t.regs.pc.toNat + i.len) false) k miss s

/-- Runs an operation on one source that writes its result and sets flags. -/
def yUn (op : YOp) (g : Nat → Nat → YResult) (k : Nat) (miss : Bool) (s : State) : State :=
  yRun op (fun _ => { rd := false, wr := true })
    (fun s1 _ t i r a _ _ =>
      let o := g (8 * i.size) a
      .done s1 (withFlags r o.f) (some o.r) (t.regs.pc.toNat + i.len) false) k miss s

/-- Runs an operation on one source that writes its result and leaves the flags. -/
def yUnNf (op : YOp) (g : Nat → Nat → Nat) (k : Nat) (miss : Bool) (s : State) : State :=
  yRun op (fun _ => { rd := false, wr := true })
    (fun s1 _ t i r a _ _ => .done s1 r (some (g i.size a)) (t.regs.pc.toNat + i.len) false) k miss s

/-- Runs a division: none is ARITH (R400). -/
def yDiv (op : YOp) (g : Nat → Nat → Nat → Option YResult) (k : Nat) (miss : Bool) (s : State) : State :=
  yRun op (fun i => { rd := i.brief, wr := true })
    (fun s1 _ t i r a b _ =>
      match g (8 * i.size) a b with
      | some o => .done s1 (withFlags r o.f) (some o.r) (t.regs.pc.toNat + i.len) false
      | none => .fault 0x0D) k miss s

/-- Runs a comparison: flags and no result (R397, R398). -/
def yCmp (op : YOp) (g : Nat → Nat → Nat → YResult) (k : Nat) (miss : Bool) (s : State) : State :=
  yRun op (fun i => { rd := i.brief, wr := false })
    (fun s1 _ t i r a b _ => .done s1 (withFlags r (g (8 * i.size) a b).f) none (t.regs.pc.toNat + i.len) false) k miss s

/-- Runs a brief form on its destination and the immediate n, with flags (R398). -/
def yImm (op : YOp) (wr : Bool) (g : Nat → Nat → YResult) (k : Nat) (miss : Bool) (s : State) : State :=
  yRun op (fun _ => { rd := true, wr := wr })
    (fun s1 _ t i r a _ _ =>
      let o := g a i.n
      .done s1 (withFlags r o.f) (if wr then some o.r else none) (t.regs.pc.toNat + i.len) false) k miss s

end Sys2Proof.Machine
end

