-- ==== Sys2Proof/Machine/DoorRows.lean ====
section
/-! DEFINITION. Single accesses of the running task to door words: program control, waybills, batches, posts and copies
(R299 to R323, R428, R438). The access is the one an instruction makes, without the instruction (log entry 31). -/

namespace Sys2Proof.Machine

/-- A door read by the task running on a core: the checks of R380, then the read. -/
def doorReadBy (core n off : Nat) (s : State) : State :=
  match (getCore s core).run with
  | none => s
  | some key =>
    match getTask s key with
    | none => s
    | some t =>
      let f := accessFault s t (0x100000 + 0x1000 * n + off) 8 false
      if f ≠ 0 then stopTask key t f t.regs.pc.toNat 2 s else (doorRead s key n off).2

/-- A door write by the task running on a core: the checks of R380 and of the value, then the write, or the stall of R917. -/
def doorOpBy (core n off v : Nat) (op : Nat → State → State) (s : State) : State :=
  match (getCore s core).run with
  | none => s
  | some key =>
    match getTask s key with
    | none => s
    | some t =>
      let f := accessFault s t (0x100000 + 0x1000 * n + off) 8 true
      if f ≠ 0 then stopTask key t f t.regs.pc.toNat 2 s
      else
        let g := doorWriteFault s key t n off v
        if g ≠ 0 then stopTask key t g t.regs.pc.toNat (doorDenyKind n) s
        else match doorWaits s t n off with
          | some w => markStall w 4 (blockTask key .stalled (fun t => { t with stallWing := w }) s)
          | none => op key s

/-- A door write by the task running on a core. -/
def doorWriteBy (core n off v : Nat) (s : State) : State := doorOpBy core n off v (fun key => doorWrite key n off v) s

/-- WB_GO (R310). -/
def execWbGo (core : Fin 256) (s : State) : Host.Outcome State Fault Refusal := .next (doorWriteBy core 1 0x08 0 s)

/-- WB_CANCEL (R311, R323). -/
def execWbCancel (core : Fin 256) (handle : Word) (s : State) : Host.Outcome State Fault Refusal :=
  .next (doorWriteBy core 1 0x18 handle.toNat s)

/-- BT_NEXT (R316). -/
def execBtNext (core : Fin 256) (s : State) : Host.Outcome State Fault Refusal := .next (doorReadBy core 2 0x00 s)

/-- BT_DONE (R270). -/
def execBtDone (core : Fin 256) (batch : Word) (s : State) : Host.Outcome State Fault Refusal :=
  .next (doorWriteBy core 2 0x08 batch.toNat s)

/-- BT_APP_LEN (R317). -/
def execBtAppLen (core : Fin 256) (len : Word) (s : State) : Host.Outcome State Fault Refusal :=
  .next (doorWriteBy core 2 0x18 len.toNat s)

/-- BT_END (R318). -/
def execBtEnd (core : Fin 256) (s : State) : Host.Outcome State Fault Refusal := .next (doorWriteBy core 2 0x20 0 s)

/-- CTL_APP_LEN (R300). -/
def execCtlAppLen (core : Fin 256) (len : Word) (s : State) : Host.Outcome State Fault Refusal :=
  .next (doorWriteBy core 0 0x210 len.toNat s)

/-- CTL_EXIT (R295, R302). -/
def execCtlExit (core : Fin 256) (status : Word) (s : State) : Host.Outcome State Fault Refusal :=
  .next (doorWriteBy core 0 0x218 status.toNat s)

/-- CP_LEN (R308). -/
def execCpLen (core : Fin 256) (len : Word) (s : State) : Host.Outcome State Fault Refusal :=
  .next (doorWriteBy core 9 0x10 len.toNat s)

/-- A write of PST_MASK (R438). -/
def execDoorPost (core : Fin 256) (mask : Word) (s : State) : Host.Outcome State Fault Refusal :=
  .next (doorWriteBy core 3 0x28 mask.toNat s)

/-- A write of PST_PRIO (R428). -/
def execPstPrio (core : Fin 256) (prio : Word) (s : State) : Host.Outcome State Fault Refusal :=
  .next (doorWriteBy core 3 0x10 prio.toNat s)

/-- A write of PST_AFFINITY (R428). -/
def execPstAffinity (core : Fin 256) (mask : Word) (s : State) : Host.Outcome State Fault Refusal :=
  .next (doorWriteBy core 3 0x18 mask.toNat s)

/-- A write to a word of a unit that the PF and a door both present: by the PF through BAR0, or by the running task (R303, R905). -/
def unitWrite (r : Requester) (n off v : Nat) (pfOp : State → State) (s : State) : State :=
  match r with
  | .pf => if pfWrites s then pfOp s else s
  | .core k => doorWriteBy k n off v s

/-- BCN_S_GO (R451). -/
def execBcnSGo (r : Requester) (s : State) : Host.Outcome State Fault Refusal := .next (unitWrite r 4 0x20 0 (bcnGo 0) s)

/-- BCN_U_CMD with WRITE (R453, R454). -/
def execBcnWrite (r : Requester) (s : State) : Host.Outcome State Fault Refusal := .next (unitWrite r 5 0x140 1 (bcnCommand 0 1) s)

/-- BCN_U_CMD with INVALIDATE. -/
def execBcnInvalidate (r : Requester) (s : State) : Host.Outcome State Fault Refusal := .next (unitWrite r 5 0x140 2 (bcnCommand 0 2) s)

/-- BCN_U_CMD with READ. -/
def execBcnRead (r : Requester) (s : State) : Host.Outcome State Fault Refusal := .next (unitWrite r 5 0x140 3 (bcnCommand 0 3) s)

/-- BCN_U_CMD with INSERT (R455, R456). -/
def execBcnInsert (r : Requester) (s : State) : Host.Outcome State Fault Refusal := .next (unitWrite r 5 0x140 4 (bcnCommand 0 4) s)

/-- BCN_U_CMD with APPEND (R458). -/
def execBcnAppend (r : Requester) (s : State) : Host.Outcome State Fault Refusal := .next (unitWrite r 5 0x140 5 (bcnCommand 0 5) s)

/-- BCN_U_CMD with CLEAR. -/
def execBcnClear (r : Requester) (s : State) : Host.Outcome State Fault Refusal := .next (unitWrite r 5 0x140 6 (bcnCommand 0 6) s)

/-- BCN_U_CMD with CREATE (R447, R453). -/
def execBcnCreate (r : Requester) (s : State) : Host.Outcome State Fault Refusal := .next (unitWrite r 5 0x140 8 (bcnCommand 0 8) s)

/-- BCN_U_CMD with GROW. -/
def execBcnGrow (r : Requester) (s : State) : Host.Outcome State Fault Refusal := .next (unitWrite r 5 0x140 9 (bcnCommand 0 9) s)

/-- BCN_U_CMD with DELETE. -/
def execBcnDelete (r : Requester) (s : State) : Host.Outcome State Fault Refusal := .next (unitWrite r 5 0x140 10 (bcnCommand 0 10) s)

end Sys2Proof.Machine
end

