-- ==== Sys2Proof/Machine/SecRows.lean ====
section
/-! DEFINITION. Commands of the compressor jobs, the seal engine, the digest engine and the key store (chapters 11 and 16). A row that
names a bit of a register writes the register with that bit as the row says and the other bits as its operand has them. -/

namespace Sys2Proof.Machine

/-- A write of CMP_J_LEN, by the PF or by the running task. -/
def jobLenBy (r : Requester) (w v : Nat) (bad : Bool) (s : State) : State :=
  match r with
  | .pf => if pfWrites s then jobWrite 0 w 0x20 v bad s else s
  | .core k => doorOpBy k 8 0x20 v (fun key s =>
      if doorReadsBad s key 8 0x20 v then taskLost key s else jobWrite (key + 1) (runWing s key) 0x20 v bad s) s

/-- CMP_J_LEN without LAST (R489 to R493). -/
def execCmpJLen (r : Requester) (wing : Fin 8) (value : Word) (verifyFail : Bool) (s : State) : Host.Outcome State Fault Refusal :=
  .next (jobLenBy r wing (bitsSet value.toNat 63 63 0) verifyFail s)

/-- CMP_J_LEN with LAST: the job ends (R491 to R493). -/
def execCmpJLenLast (r : Requester) (wing : Fin 8) (value : Word) (verifyFail : Bool) (s : State) : Host.Outcome State Fault Refusal :=
  .next (jobLenBy r wing (bitsSet value.toNat 63 63 1) verifyFail s)

/-- DIG_CTRL as it stands, with RELEASE set. -/
def digReleaseWord (s : State) : Nat := 2 ^ 62 + s.sec.dig.slot * 2 ^ 16 + b2n s.sec.dig.keyed * 2 ^ 9 + s.sec.dig.alg

/-- JOB_OPEN: a write of CMP_J_SETUP with OPEN (R488, R490, R493). -/
def execJobOpen (r : Requester) (wing : Fin 8) (value : Word) (s : State) : Host.Outcome State Fault Refusal :=
  .next (unitWrite r 8 0x00 (bitsSet value.toNat 63 63 1) (jobWrite 0 wing 0x00 (bitsSet value.toNat 63 63 1) false) s)

/-- JOB_CANCEL: a write of CMP_J_SETUP with CANCEL (R494). -/
def execJobCancel (r : Requester) (wing : Fin 8) (value : Word) (s : State) : Host.Outcome State Fault Refusal :=
  .next (unitWrite r 8 0x00 (bitsSet value.toNat 62 62 1) (jobWrite 0 wing 0x00 (bitsSet value.toNat 62 62 1) false) s)

/-- SEAL_ACQUIRE (R709). -/
def execSealAcquire (r : Requester) (s : State) : Host.Outcome State Fault Refusal :=
  .next (unitWrite r 6 0x00 (2 ^ 62) (sealWrite 0 0x00 (2 ^ 62)) s)

/-- SEAL_RELEASE (R711). -/
def execSealRelease (r : Requester) (s : State) : Host.Outcome State Fault Refusal :=
  .next (unitWrite r 6 0x00 (2 ^ 61) (sealWrite 0 0x00 (2 ^ 61)) s)

/-- SEAL_GO: a write of SEAL_MODE with GO (R704, R713 to R715). -/
def execSealGo (r : Requester) (value : Word) (s : State) : Host.Outcome State Fault Refusal :=
  .next (unitWrite r 6 0x08 (bitsSet value.toNat 63 63 1) (sealWrite 0 0x08 (bitsSet value.toNat 63 63 1)) s)

/-- SEAL_ABORT: a write of SEAL_MODE with ABORT (R720). -/
def execSealAbort (r : Requester) (value : Word) (s : State) : Host.Outcome State Fault Refusal :=
  .next (unitWrite r 6 0x08 (bitsSet value.toNat 62 62 1) (sealWrite 0 0x08 (bitsSet value.toNat 62 62 1)) s)

/-- SEAL_PIECE without LAST (R716 to R718). -/
def execSealPiece (r : Requester) (value : Word) (s : State) : Host.Outcome State Fault Refusal :=
  .next (unitWrite r 6 0x48 (bitsSet value.toNat 63 63 0) (sealWrite 0 0x48 (bitsSet value.toNat 63 63 0)) s)

/-- SEAL_PIECE with LAST: the operation ends (R717 to R719). -/
def execSealPieceLast (r : Requester) (value : Word) (s : State) : Host.Outcome State Fault Refusal :=
  .next (unitWrite r 6 0x48 (bitsSet value.toNat 63 63 1) (sealWrite 0 0x48 (bitsSet value.toNat 63 63 1)) s)

/-- DIG_OPEN: a write of DIG_CTRL with OPEN (R722, R723). -/
def execDigOpen (r : Requester) (value : Word) (s : State) : Host.Outcome State Fault Refusal :=
  .next (unitWrite r 7 0x00 (bitsSet value.toNat 63 63 1) (digWrite 0 0x00 (bitsSet value.toNat 63 63 1)) s)

/-- DIG_RELEASE: DIG_CTRL.RELEASE with the other fields as they stand (R723). -/
def execDigRelease (r : Requester) (s : State) : Host.Outcome State Fault Refusal :=
  .next (unitWrite r 7 0x00 (digReleaseWord s) (digWrite 0 0x00 (digReleaseWord s)) s)

/-- DIG_DATA (R724, R726). -/
def execDigData (r : Requester) (value : Word) (s : State) : Host.Outcome State Fault Refusal :=
  .next (unitWrite r 7 0x18 value.toNat (digWrite 0 0x18 value.toNat) s)

/-- DIG_LAST (R725, R726). -/
def execDigLast (r : Requester) (value : Word) (s : State) : Host.Outcome State Fault Refusal :=
  .next (unitWrite r 7 0x28 value.toNat (digWrite 0 0x28 value.toNat) s)

/-- DIG_CTX_EXPORT (R728). -/
def execDigCtxExport (r : Requester) (s : State) : Host.Outcome State Fault Refusal :=
  .next (unitWrite r 7 0x38 1 (digWrite 0 0x38 1) s)

/-- DIG_CTX_IMPORT (R729). -/
def execDigCtxImport (r : Requester) (s : State) : Host.Outcome State Fault Refusal :=
  .next (unitWrite r 7 0x38 2 (digWrite 0 0x38 2) s)

/-- SEAL_BREAK.BREAK by the manager (R712). -/
def sealBreakWrite (v : Nat) (s : State) : State := if s.chr.mgrHeld ∧ bitOf v 0 then sealBreak s else s
def execSealBreak (s : State) : Host.Outcome State Fault Refusal := .next (if pfWrites s then sealBreakWrite 1 s else s)

/-- DIG_BREAK.BREAK by the manager (R712, R723). -/
def digBreakWrite (v : Nat) (s : State) : State := if s.chr.mgrHeld ∧ bitOf v 0 then digBreak s else s
def execDigBreak (s : State) : Host.Outcome State Fault Refusal := .next (if pfWrites s then digBreakWrite 1 s else s)

/-- KEY_CMD by the manager (R699, R700); a reserved OP ends with code 0x06 (log entry 62). -/
def keyCmd (v : Nat) (s : State) : State :=
  let slot := bitsOf v 45 40
  let fixed := v % 2 ^ 32
  if ¬ s.chr.mgrHeld then s
  else match bitsOf v 63 60 with
    | 1 => keyDerive slot fixed s
    | 2 => keyUnwrapCmd slot (bitsOf v 53 48) fixed s
    | 3 => keyClear slot fixed s
    | 4 => keyUnload slot s
    | _ => keyDone 0x06 s

/-- A write to a KEY register by the manager: KEY_DATA, KEY_CMD (R699, R700), and KEY_INFO.ALARM, which writes clear. -/
def keyWrite (off v : Nat) (s : State) : State :=
  if off < 0x28 then if s.chr.mgrHeld then { s with sec := { s.sec with data := listSet s.sec.data (off / 8) v } } else s
  else if off = 0x28 then keyCmd v s
  else if off = 0x38 then
    if s.chr.mgrHeld then { s with sec := { s.sec with alarm := Nat.land s.sec.alarm (15 - bitsOf v 35 32) } } else s
  else s

/-- KEY_CMD with OP DERIVE (R690, R700, R701, R703, R705). -/
def execKeyDerive (value : Word) (s : State) : Host.Outcome State Fault Refusal :=
  .next (if pfWrites s then keyCmd (bitsSet value.toNat 63 60 1) s else s)

/-- KEY_CMD with OP UNWRAP. -/
def execKeyUnwrap (value : Word) (s : State) : Host.Outcome State Fault Refusal :=
  .next (if pfWrites s then keyCmd (bitsSet value.toNat 63 60 2) s else s)

/-- KEY_CMD with OP CLEAR: a key in clear is loaded. -/
def execKeyClearLoad (value : Word) (s : State) : Host.Outcome State Fault Refusal :=
  .next (if pfWrites s then keyCmd (bitsSet value.toNat 63 60 3) s else s)

/-- KEY_CMD with OP UNLOAD (R706). -/
def execKeyUnload (value : Word) (s : State) : Host.Outcome State Fault Refusal :=
  .next (if pfWrites s then keyCmd (bitsSet value.toNat 63 60 4) s else s)

end Sys2Proof.Machine
end

