-- ==== Sys2Proof/Machine/DramRows.lean ====
section
/-! DEFINITION. Host Retire of flash and DRAM, and the commands of the DRAM channels (chapters 3, 12 and 17). -/

namespace Sys2Proof.Machine

/-! Retire of a plane block (R145, R146, R541, R542). -/

/-- The segments on a map-log block are written elsewhere, as they stand. -/
def moveSegs (bk : Nat) (s : State) : State :=
  let segs := blockSegs s bk
  (List.range 8).foldl (fun s w =>
    let mine := (segs.filter (fun d => segWing s d = w)).map (captureSeg s)
    (fives (mine.length + 1) mine).foldl (fun s l => writeSegs w l s) s) s

/-- Stops writing a die block: it leaves its stripe set, and what waits to be programmed in it goes elsewhere (R145 step 1). -/
def stopWriting (bk : Nat) (s : State) : State :=
  let b := getBlk s bk
  if b.state = .opened then rerouteBlock bk (setBlk bk { b with next := slotsOf b.role } (dropMember bk s)) else s

/-- Begins a host Retire of a plane block. -/
def retireStart (r : CmdRef) (bk plane : Nat) (s : State) : State :=
  let s1 := stopWriting bk s
  let s2 := if (getBlk s1 bk).role = .mapLog then moveSegs bk s1 else s1
  let s3 := { s2 with med := { s2.med with retires := s2.med.retires ++ [{ cmd := r, block := bk, plane := plane, stage := 1 }] } }
  settleAll (retireForward (settleAll (relocateBlock bk .retire s3)))

/-- Spare plane blocks of a plane that no retirement under way is to take (R146). -/
def sparesFree (s : State) (port plane : Nat) : Nat :=
  sparesLeft s port plane - sparesClaimed s port plane - (s.med.retires.filter (fun x => blkPort x.block = port ∧ x.plane = plane ∧ x.stage = 1)).length

/-- RETIRE_FLASH_BLOCK: opcode 0xC1 with KIND 1, and with a KIND that does not exist. It waits while the journal is full (R86). -/
def execRetireFlashBlock (r : CmdRef) (s : State) : Host.Outcome State Fault Refusal :=
  .next (onAdmin r 0xC1 (fun c s =>
    let d := fitBytes 64 c.sqe.data
    let kind := imgField d 0 1
    let port := imgField d 8 2
    let plane := imgField d 10 1
    let block := imgField d 12 2
    let bk := blkKey port block
    let b := getBlk s bk
    if kind = 2 ∨ kind = 3 ∨ s.med.jrnStall then s
    else if s.med.retires.any (fun x => x.cmd = r) then s
    else if adminLen c.sqe < 64 ∨ kind ≠ 1 ∨ 1024 ≤ port ∨ 4 ≤ plane ∨ dieBlocks s ≤ block ∨ ¬ zeros d 1 7 ∨ ¬ zeros d 11 1 ∨ ¬ zeros d 24 40 then
      failCmd c stField s
    else if s.med.retires.any (fun x => x.block = bk ∧ x.plane = plane) then failCmd c stBusy s
    else if ¬ portOk s port ∨ b.state = .retired then completeCmd r stOk (sparesLeft s port plane) 0 [] s
    else if sparesFree s port plane ≤ 2 then failCmd c stField s
    else retireStart r bk plane s) s)

/-! Retire of DRAM (R767 to R769). -/

/-- First page of the retirement reserve, and its pages (R747). -/
def reserveFirst : Nat := 0xC28F6
def reserveCount : Nat := 251658

/-- The page lies in the retirement reserve. -/
def inReserve (p : Nat) : Bool := decide (reserveFirst ≤ p ∧ p < reserveFirst + reserveCount)

/-- The bank of a page, as bit 4 × bank group + bank (R744). -/
def pageBank (p : Nat) : Nat := 4 * (p / 8 % 8) + p / 2 % 4

/-- The reserve page is free: in no use, not retired, in no retired bank. -/
def reserveFree (c : DramCh) (p : Nat) : Bool := !c.reserveUsed.contains p && !c.bankRetired.getLsbD (pageBank p)

/-- The free reserve page of lowest offset, looked for from a page on (R767 step 1). -/
def lowestReserve (c : DramCh) : Nat → Nat → Option Nat
  | 0, _ => none
  | n + 1, p => if reserveFree c p then some p else lowestReserve c n (p + 1)

/-- Poisoned lines follow the pages that move (R767 step 2). -/
def movePoison (mv : List (Nat × Nat)) (l : List Nat) : List Nat :=
  l.map (fun a => match mv.find? (fun x => x.1 = a / 4096) with | some x => x.2 * 4096 + a % 4096 | none => a)

/-- The record of a DRAM retirement. -/
def retireRecord (w kind off : Nat) (s : State) : State :=
  logOcc 0x2004 (1040 + w) (leBytes 1 kind ++ zeroBytes 3 ++ leBytes 8 off ++ leBytes 4 (getDram s w).left) s

/-- A page may not be retired again: it is remapped, or a reserve page taken out. -/
def pageRetired (c : DramCh) (p : Nat) : Bool :=
  (Tbl.find c.remap p).isSome || c.bankRetired.getLsbD (pageBank p) ||
    (inReserve p && c.reserveUsed.contains p && !c.remap.any (fun e => decide (e.2.target = p)))

/-- Retires one page; none where no reserve page is left. A free reserve page is taken out of the reserve; one in use moves its
content (log entry 81). -/
def retirePage (c : DramCh) (p : Nat) : Option DramCh :=
  let c1 := { c with left := c.left - 1, pages := c.pages + 1 }
  if c.left = 0 then none
  else if inReserve p ∧ ¬ c.reserveUsed.contains p then some { c1 with reserveUsed := p :: c.reserveUsed }
  else match lowestReserve c reserveCount reserveFirst with
    | none => none
    | some q =>
      let moved := c.remap.map (fun e => if e.2.target = p then (e.1, ({ e.2 with target := q } : DramRemap)) else e)
      let remap := if inReserve p then moved else Tbl.insert c.remap p { target := q, bank := false }
      some { c1 with remap := remap, reserveUsed := q :: c.reserveUsed, poison := movePoison [(p, q)] c.poison }

/-- RETIRE_DRAM_PAGE: KIND 2 (R767, R769). -/
def execRetireDramPage (r : CmdRef) (s : State) : Host.Outcome State Fault Refusal :=
  .next (onAdmin r 0xC1 (fun c s =>
    let d := fitBytes 64 c.sqe.data
    let w := imgField d 8 1
    let a := imgField d 16 8
    let ch := getDram s w
    if imgField d 0 1 ≠ 2 then s
    else if adminLen c.sqe < 64 ∨ 8 ≤ w ∨ a % 4096 ≠ 0 ∨ 2 ^ 34 ≤ a ∨ ¬ zeros d 1 7 ∨ ¬ zeros d 24 40 then failCmd c stField s
    else if pageRetired ch (a / 4096) then completeCmd r stOk ch.left 0 [] s
    else match retirePage ch (a / 4096) with
      | none => extinguish 0x02 s
      | some ch1 =>
        let s1 := setDram w ch1 { s with med := { s.med with dramPagesRet := satAdd max64 s.med.dramPagesRet 1 } }
        completeCmd r stOk ch1.left 0 [] (retireRecord w 2 a s1)) s)

/-- The pages of a bank, rising. -/
def bankPages (b : Nat) : List Nat :=
  (List.range 65536).flatMap (fun row => [64 * row + 8 * (b / 4) + 2 * (b % 4), 64 * row + 8 * (b / 4) + 2 * (b % 4) + 1])

/-- Retires a bank; none where the reserve is too small (R768, R769). -/
def retireBank (c : DramCh) (b : Nat) : Option DramCh :=
  let pages := bankPages b
  let plain := pages.filter (fun p => !inReserve p && (Tbl.find c.remap p).isNone)
  let used := (c.remap.filter (fun e => pageBank e.2.target = b)).map (·.2.target)
  let spare := pages.filter (fun p => inReserve p && reserveFree c p)
  let need := plain.length + used.length + spare.length
  if c.left < need then none
  else
    let c1 := { c with bankRetired := c.bankRetired ||| (1#32 <<< b) }
    let free := ((List.range reserveCount).map (fun i => reserveFirst + i)).filter (reserveFree c1)
    let mv := (plain ++ used).zip free
    let to1 := fun (p : Nat) => (mv.find? (fun x => x.1 = p)).elim p (·.2)
    let old := c.remap.map (fun e => (e.1, ({ e.2 with target := to1 e.2.target } : DramRemap)))
    let remap := plain.foldl (fun (t : Tbl DramRemap) p => Tbl.insert t p { target := to1 p, bank := true }) old
    some { c1 with remap := remap, reserveUsed := mv.map (·.2) ++ c.reserveUsed, left := c.left - need, banks := c.banks + 1,
                   poison := movePoison mv c.poison }

/-- RETIRE_DRAM_BANK: KIND 3 (R768, R769). The record's offset names the bank's first line in the subchannel of the request. -/
def execRetireDramBank (r : CmdRef) (s : State) : Host.Outcome State Fault Refusal :=
  .next (onAdmin r 0xC1 (fun c s =>
    let d := fitBytes 64 c.sqe.data
    let w := imgField d 8 1
    let sub := imgField d 9 1
    let bg := imgField d 10 1
    let bank := imgField d 11 1
    let b := 4 * bg + bank
    let ch := getDram s w
    if imgField d 0 1 ≠ 3 then s
    else if adminLen c.sqe < 64 ∨ 8 ≤ w ∨ 2 ≤ sub ∨ 8 ≤ bg ∨ 4 ≤ bank ∨ ¬ zeros d 1 7 ∨ ¬ zeros d 24 40 then failCmd c stField s
    else if ch.bankRetired.getLsbD b then completeCmd r stOk ch.left 0 [] s
    else match retireBank ch b with
      | none => extinguish 0x02 s
      | some ch1 =>
        let s1 := setDram w ch1 { s with med := { s.med with dramBanksRet := satAdd max64 s.med.dramBanksRet 1 } }
        completeCmd r stOk ch1.left 0 [] (retireRecord w 3 (32768 * bg + 8192 * bank + 64 * sub) s1)) s)

/-! Errors (R757 to R761). -/

/-- A device is marked failed; the second of a subchannel extinguishes the module (R759, R760). -/
def markAndCheck (w d : Nat) (byHost : Bool) (s : State) : State :=
  if (Tbl.get DramDev.fresh (getDram s w).devs d).failed then s
  else
    let s1 := markDevice w d byHost s
    if 2 ≤ (failedDevs (getDram s1 w) (d / 5)).length then extinguish 0x02 s1 else s1

/-- A corrected line (R757, R759). -/
def dramCorrected (w off d n : Nat) (s : State) : State :=
  let c := getDram s w
  let v := Tbl.get DramDev.fresh c.devs d
  let lines := Tbl.insert v.lines off s.td17
  let c1 := { c with
    corrSeen := true
    corr := satAdd max64 c.corr 1
    errLast := pack [(1, 62, 1), (n, 48, 8), (d, 44, 4), (off, 0, 34)]
    errTime := s.td17
    devs := Tbl.put DramDev.fresh c.devs d { v with lines := lines, symbols := satAdd (2 ^ 32 - 1) v.symbols n } }
  let s1 := setDram w c1 { s with med := { s.med with dramCorr := satAdd max64 s.med.dramCorr 1 } }
  let s2 := logOcc 0x2001 (1040 + w) (leBytes 8 off ++ leBytes 1 d ++ leBytes 1 n) s1
  if 16 ≤ (lines.filter (fun e => s.td17 - e.2 < 1000000000)).length then markAndCheck w d false s2 else s2

/-- Undoes the bank hash of a privileged region (R749): the offset whose hash is a physical offset. -/
def unhash (c : DramCfg) (off : Nat) : Nat :=
  (List.range 5).foldl (fun a k =>
    let m := listGet 0 c.hash k
    let par := ((List.range 34).filter (fun i => i ≠ 13 + k && bitOf m i && bitOf off i)).length % 2
    bitsSet a (13 + k) (13 + k) ((b2n (bitOf off (13 + k)) + par) % 2)) off

/-- The beacon rows whose shadows a line of a channel's beacon share holds: 48 bytes a row in row order (R461, R748). -/
def shadowRows (w rel : Nat) : List Nat :=
  let i := (rel / 4096 * 8 + w) * 4096 + rel % 4096
  ((List.range 64).map (fun b => (i + b) / 48)).dedup.filter (· < 524288)

/-- The running leg whose staging covers an offset of a wing's pool. -/
def legAt (s : State) (w off : Nat) : Option RunLeg :=
  s.prog.legs.find? (fun l => l.pool = w ∧ l.state = .running ∧ l.base ≤ off ∧ off < l.base + l.size)

/-- The page that a content offset lies in is read by the scrub: not the test page, no image of a task that is gone, no free staging
(R755, R766). -/
def scrubReads (s : State) (w o : Nat) : Bool :=
  if o / 4096 = 0xA0400 then false
  else if 0x60000000 ≤ o ∧ o < 0x80000000 then (getTask s (2048 * w + (o - 0x60000000) / 262144)).isSome
  else if 0x80000000 ≤ o ∧ o < 0x88000000 then (legAt s w (o - 0x80000000)).isSome
  else true

/-- What an uncorrectable line brings, by its region (R761). `keeper`: the wing whose keeper area could not be rebuilt. -/
def regionLost (w off o : Nat) (keeper : Option (Fin 8)) (s : State) : State :=
  let c := getDram s w
  if o < 0x40000000 then setDram w { c with poison := if c.poison.contains off then c.poison else c.poison ++ [off] } s
  else if o < 0x60000000 then s
  else if o < 0x80000000 then taskLost (2048 * w + (o - 0x60000000) / 262144) s
  else if o < 0x88000000 then
    match legAt s w (o - 0x80000000) with
    | some l => reissueLeg l l.pool s
    | none => s
  else if o < 0xA0000000 then s
  else if o < 0xA0400000 then
    (shadowRows w (unhash (dramCfg s w) o - 0xA0000000)).foldl (fun s k => bcnLose (k / 32768) (k % 32768) s) s
  else if o < 0xC28F6000 then
    match keeper with
    | some k => wingFault k 6 s
    | none => s
  else s

/-- An uncorrectable line (R758, R761). -/
def dramUncorrectable (w off o : Nat) (keeper : Option (Fin 8)) (s : State) : State :=
  let c := getDram s w
  let c1 := { c with uncorrSeen := true, uncorr := satAdd max64 c.uncorr 1, errLast := pack [(1, 63, 1), (1, 62, 1), (off, 0, 34)],
                     errTime := s.td17, poisonLast := off }
  let s1 := setDram w c1 { s with med := { s.med with dramUncorr := satAdd max64 s.med.dramUncorr 1 } }
  regionLost w off o keeper (logOcc 0x2002 (1040 + w) (leBytes 8 off) (raise (1040 + w) s1))

/-- What the scrub finds in a line. -/
def scrubLine (w line : Nat) (keeper : Option (Fin 8)) (outcome : DramOutcome) (s : State) : State :=
  let c := getDram s w
  let off := 64 * line
  let o := contentOff c off
  if (Tbl.find c.remap (off / 4096)).isSome ∨ ¬ scrubReads s w o then s
  else match outcome with
    | .clean => s
    | .corrected d n => dramCorrected w off (d % 10) n s
    | .uncorrectable => dramUncorrectable w off o keeper s

/-- PATROL_SCRUB (R766): the scrub reads the next line that it has something to report of, or ends its pass (a line of 2^28 or
above). -/
def execPatrolScrub (wing : Fin 8) (line : Nat) (keeper : Option (Fin 8)) (outcome : DramOutcome) (s : State) :
    Host.Outcome State Fault Refusal :=
  let c := getDram s wing
  .next (if s.mode.mode = .dark ∨ ¬ c.trainDone ∨ s.med.flush.isSome ∨ (c.scrubPos = none ∧ c.scrubHours = 0) ∨ line < c.scrubPos.getD 0 then s
    else if 2 ^ 28 ≤ line then setDram wing { c with scrubPos := none, scrubPasses := satAdd (2 ^ 32 - 1) c.scrubPasses 1 } s
    else scrubLine wing line keeper outcome (setDram wing { c with scrubPos := some (line + 1) } s))

/-! Registers. -/

/-- SCRUB_NOW (R766). -/
def drmCtrlWrite (w v : Nat) (s : State) : State := if bitOf v 0 then setDram w { getDram s w with scrubPos := some 0 } s else s
def execScrubNow (wing : Fin 8) (s : State) : Host.Outcome State Fault Refusal := .next (if pfWrites s then drmCtrlWrite wing 1 s else s)

/-- DRM_DEV_CTRL.MARK by the manager (R759). -/
def drmDevWrite (w v : Nat) (s : State) : State :=
  if s.chr.mgrHeld ∧ bitOf v 31 ∧ v % 16 ≤ 9 then markAndCheck w (v % 16) true s else s
def execDeviceMark (wing : Fin 8) (device : Fin 64) (s : State) : Host.Outcome State Fault Refusal :=
  .next (if pfWrites s ∧ device.val < 16 then drmDevWrite wing (2 ^ 31 + device) s else s)

/-- DRAM_CALIBRATION (R745): calibration and tracking change nothing that software sees. -/
def execDramCalibration (_wing : Fin 8) (s : State) : Host.Outcome State Fault Refusal := .next s

/-- The rows r − 2 to r + 2 other than r that exist (R762). -/
def neighbours (row : Nat) : Nat := ([row + 1, row + 2].filter (· < 65536)).length + min row 2

/-- The activations of a window so far: entries by bank, and neighbour refreshes by R762 and R763. -/
structure RowTables where
  banks : Tbl (List (Nat × Nat))
  targeted : Nat
  prob : Nat
deriving DecidableEq, Repr

/-- The entry of a full table with the lowest count. -/
def lowestEntry (l : List (Nat × Nat)) : Option (Nat × Nat) :=
  l.foldl (fun (a : Option (Nat × Nat)) e => match a with | some x => if e.2 < x.2 then some e else a | none => some e) none

/-- One activation; `coin`: the draw of R763 comes up (R762, R763). -/
def activate (c : DramCh) (t : RowTables) (bank row : Nat) (coin : Bool) : RowTables :=
  let l := Tbl.get [] t.banks bank
  let hit := l.find? (fun e => e.1 = row)
  let miss := hit.isNone && decide (16 ≤ l.length)
  let l1 := match hit with
    | some e => l.map (fun x => if x.1 = row then (row, e.2 + 1) else x)
    | none => (if miss then (match lowestEntry l with | some e => l.filter (fun x => x.1 ≠ e.1) | none => l) else l) ++ [(row, 1)]
  let due := l1.any (fun e => decide (e.1 = row ∧ c.rhThresh ≤ e.2))
  { banks := Tbl.put [] t.banks bank (if due then l1.filter (fun e => e.1 ≠ row) else l1)
    targeted := if due then t.targeted + neighbours row else t.targeted
    prob := if miss && coin && c.rhProb then t.prob + neighbours row else t.prob }

/-- REFRESH_WINDOW (R762 to R765): the activations of the window that ends, as bank and row; the activations whose draw came up; the
RFM commands it issued. The tables empty, and the timing set of the present band is in force. -/
def execRefreshWindow (wing : Fin 8) (activations : List (Nat × Nat)) (coins : List Nat) (rfm : Nat) (s : State) : Host.Outcome State Fault Refusal :=
  let c := getDram s wing
  let t := (activations.zipIdx).foldl (fun t x => activate c t (x.1.1 % 32) (x.1.2 % 65536) (coins.contains x.2))
    { banks := [], targeted := 0, prob := 0 }
  .next (if s.mode.mode = .dark ∨ ¬ c.trainDone then s
    else setDram wing { c with targeted := satAdd (2 ^ 32 - 1) c.targeted t.targeted, probCount := satAdd 65535 c.probCount t.prob,
                               rfm := c.rfm + rfm, timingBand := (getSensor s (80 + wing)).band } s)

/-- A test line that is stored, or the zeros of the fresh test page (R754, R771). -/
def testLineAt (c : DramCh) : TestLine :=
  (Tbl.find c.testPage c.testLine).getD { data := zeroBytes 64, check := rsCheck (zeroBytes 64) }

/-- DRM_TEST_CTRL.WRITE (R771). -/
def testWrite (c : DramCh) : DramCh :=
  let data := (List.range 16).flatMap (fun _ => leBytes 4 c.testPattern)
  let l : TestLine := { data := data, check := if c.testRaw then c.testCheck else rsCheck data }
  { c with testPage := Tbl.insert c.testPage c.testLine l, written := if c.written.contains 0xA0400 then c.written else c.written ++ [0xA0400] }

/-- What the decoder makes of a test line: outcome, data, symbols, device (R756). -/
def testDecode (c : DramCh) (l : TestLine) : Nat × List Byte × Nat × Nat :=
  match failedDevs c (c.testLine % 2) with
  | d :: _ => (0, if d % 5 = 4 then l.data else rsErase l.data l.check (d % 5), 0, 0)
  | [] =>
    match rsDecode l.data l.check with
    | some (data, 0, _) => (0, data, 0, 0)
    | some (data, n + 1, d) => (1, data, n + 1, 5 * (c.testLine % 2) + d)
    | none => (2, [], 0, 0)

/-- DRM_TEST_CTRL.READ (R772). -/
def testRead (c : DramCh) : DramCh :=
  let l := testLineAt c
  let (o, data, n, d) := testDecode c l
  let same := decide (data = (List.range 16).flatMap (fun _ => leBytes 4 c.testPattern))
  { c with testCheck := l.check, testStatus := pack [(o, 62, 2), (b2n same, 61, 1), (n, 48, 8), (d, 44, 4)] }

/-- DRM_TEST_CTRL: ENABLE by the manager, RAW, then WRITE and READ while ENABLE is 1 (R771, R772). -/
def drmTestWrite (w v : Nat) (s : State) : State :=
  let c := getDram s w
  let c1 := { c with testEnable := if s.chr.mgrHeld then bitOf v 31 else c.testEnable, testRaw := bitOf v 28 }
  let go := c1.testEnable && s.chr.mgrHeld
  let c2 := if go && bitOf v 30 then testWrite c1 else c1
  setDram w (if go && bitOf v 29 then testRead c2 else c2) s

/-- DRAM_TEST_WRITE. -/
def execDramTestWrite (wing : Fin 8) (value : Word) (s : State) : Host.Outcome State Fault Refusal :=
  .next (if pfWrites s then drmTestWrite wing (bitsSet value.toNat 30 30 1) s else s)

/-- DRAM_TEST_READ. -/
def execDramTestRead (wing : Fin 8) (value : Word) (s : State) : Host.Outcome State Fault Refusal :=
  .next (if pfWrites s then drmTestWrite wing (bitsSet value.toNat 29 29 1) s else s)

/-- Replaces the settings of a channel. -/
def setDramCfg (w : Nat) (c : DramCfg) (s : State) : State := { s with drm := { s.drm with cfgs := Tbl.put DramCfg.reset s.drm.cfgs w c } }

/-- DRM_HASH_NEXT[k] (R750): a mask that would not keep a page whole is ignored. -/
def hashWrite (w k v : Nat) (s : State) : State :=
  let m := v % 2 ^ 34
  let g := dramCfg s w
  if bitsOf m 17 13 ≠ 2 ^ k ∨ m % 2 ^ 13 ≠ 0 then s else setDramCfg w { g with hashNext := listSet g.hashNext k m } s

/-- DRM_HASH_NEXT_WRITE. -/
def execDrmHashNextWrite (wing : Fin 8) (bit : Fin 5) (value : Word) (s : State) : Host.Outcome State Fault Refusal :=
  .next (if pfWrites s then hashWrite wing bit value.toNat s else s)

/-- DRM_LAYOUT_NEXT (R751): a grain outside 8 to 20 is ignored. -/
def layoutWrite (w v : Nat) (s : State) : State :=
  let g := v % 32
  if g < 8 ∨ 20 < g then s else setDramCfg w { dramCfg s w with grainNext := g } s

/-- DRM_LAYOUT_NEXT_WRITE. -/
def execDrmLayoutNextWrite (wing : Fin 8) (value : Word) (s : State) : Host.Outcome State Fault Refusal :=
  .next (if pfWrites s then layoutWrite wing value.toNat s else s)

/-- A write to a DRM register of wing w. -/
def drmWrite (w off v : Nat) (s : State) : State :=
  let c := getDram s w
  if off = 0x00 then drmCtrlWrite w v s
  else if off = 0x08 then
    setDram w { c with uncorrSeen := c.uncorrSeen && !bitOf v 63, corrSeen := c.corrSeen && !bitOf v 62,
                       devFailedSeen := c.devFailedSeen && !bitOf v 61 } s
  else if off = 0x30 then layoutWrite w v s
  else if 0x60 ≤ off ∧ off < 0x88 then hashWrite w ((off - 0x60) / 8) v s
  else if off = 0xF8 then drmDevWrite w v s
  else if off = 0x100 then if v % 256 ≤ 168 then setDram w { c with scrubHours := v % 256 } s else s
  else if off = 0x110 then
    let th := v % 2 ^ 14
    if th < 256 ∨ 8192 < th then s else setDram w { c with rhProb := bitOf v 16, rhThresh := th } s
  else if off = 0x130 then setDram w { c with retireSel := v % 2 ^ 22 } s
  else if off = 0x150 then drmTestWrite w v s
  else if off = 0x158 then setDram w { c with testPattern := bitsOf v 63 32, testLine := v % 64 } s
  else if off = 0x160 ∨ off = 0x168 then setDram w { c with testCheck := putWord8 c.testCheck ((off - 0x160) / 8) v } s
  else s

end Sys2Proof.Machine
end

