-- ==== Sys2Proof/Machine/ProgRows.lean ====
section
/-! DEFINITION. Programs, range sets, threads and the subsystem local memory (chapter 6). The formats of the commands are those of the
companion command sets (log entry 21). -/

namespace Sys2Proof.Machine

/-- Program Not Activated; Maximum Memory Range Sets Exceeded (log entry 21). -/
def stNotActivated : Status := mkStatus 1 0x80
def stRangeSets : Status := mkStatus 1 0x81

/-! Images (R280 to R287). -/

/-- Check 1 of R283 fails. -/
def imgBad1 (b : List Byte) : Bool :=
  decide (b.take 4 ≠ [0x59, 0x53, 0x4C, 0x49] ∨ imgField b 4 2 ≠ 1 ∨ imgField b 6 1 ≠ 1) || !zeros b 7 1 || !zeros b 36 4 || !zeros b 52 204

/-- Check 2 fails (R280, R281). -/
def imgBad2 (b : List Byte) : Bool :=
  let c := imgCodeLen b
  let d := imgDataLen b
  let z := imgBssLen b
  let k := imgStackLen b
  let p := imgParamOff b
  decide (c % 2 ≠ 0 ∨ c < 2 ∨ 65536 < c ∨ d % 8 ≠ 0 ∨ 163840 < d ∨ z % 8 ≠ 0 ∨ k % 8 ≠ 0 ∨ k < 4096 ∨ 196608 < d + z + k ∨
    c ≤ 2 * imgEntry b ∨ p % 8 ≠ 0 ∨ d + z < p + 4096 ∨ imgLen b ≠ 256 + c + d)

/-- The first check that a whole image fails, 0 for none. -/
def imgCheck (b : List Byte) : Nat :=
  let h := b ++ zeroBytes (256 - b.length)
  if imgBad1 h then 1 else if imgBad2 h then 2 else if imgCrc b ≠ crc32c (zeroRun b 48 4) then 3 else 0

/-- Replaces a program slot. -/
def setSlot (i : Nat) (x : ProgSlot) (s : State) : State :=
  { s with prog := { s.prog with slots := Tbl.put ProgSlot.empty s.prog.slots i x } }

/-- A program slot. -/
def progSlot (s : State) (i : Nat) : ProgSlot := Tbl.get ProgSlot.empty s.prog.slots i

/-- Tells every other Lit member, and completes when each has applied it; at once where there is none. -/
def orderThen (code a b : Nat) (nums : List Nat) (bytes : List Byte) (r : CmdRef) (s : State) : State :=
  if otherLit s = [] then completeCmd r stOk 0 0 [] s else orderAll code a b nums bytes (some r) s

/-- LOAD_PROGRAM (R282 to R284). A piece at offset 0 starts the image afresh. -/
def execLoadProgram (r : CmdRef) (s : State) : Host.Outcome State Fault Refusal :=
  .next (onAdmin r opLoadProgram (fun c s =>
    let q := c.sqe
    let i := q.cdw10 % 2 ^ 16
    let off := q.cdw13
    let x := progSlot s i
    let piece := fitBytes q.cdw12 q.data
    let old := if off = 0 then [] else x.arriving
    let all := old ++ piece
    let refuse := fun (n : Nat) => completeCmd r stField n 0 [] (setSlot i ProgSlot.empty s)
    if awaits s r then s
    else if q.nsid ≠ computeNsid then failCmd c stNamespace s
    else if 64 ≤ i ∨ bitsOf q.cdw10 23 16 ≠ 0xC0 then failCmd c stField s
    else if x.activated then failCmd c stSequence s
    else if off ≠ old.length then refuse 4
    else if all.length < 48 ∨ all.length < imgLen all then completeCmd r stOk 0 0 [] (setSlot i { arriving := all, image := none, activated := false } s)
    else if imgLen all < all.length then refuse 4
    else if imgCheck all ≠ 0 then refuse (imgCheck all)
    else orderThen ordProgImage i 0 [i] all r (setSlot i { arriving := [], image := some all, activated := false } s)) s)

/-- PROGRAM_ACTIVATION_MANAGEMENT (R285): SEL 0 deactivates, 1 activates. -/
def execProgramActivationManagement (r : CmdRef) (s : State) : Host.Outcome State Fault Refusal :=
  .next (onAdmin r opProgAct (fun c s =>
    let q := c.sqe
    let i := q.cdw10 % 2 ^ 16
    let sel := bitsOf q.cdw10 19 16
    let x := progSlot s i
    if awaits s r then s
    else if q.nsid ≠ computeNsid then failCmd c stNamespace s
    else if 64 ≤ i ∨ 1 < sel ∨ (sel = 1 ∧ x.image = none) then failCmd c stField s
    else orderThen ordProgActive i sel [i, sel] [] r (setSlot i { x with activated := decide (sel = 1) } s)) s)

/-! Memory range sets (R288 to R290). -/

/-- The ranges of a create: namespace, length and offset of 16 bytes each. -/
def rangeList (q : Sqe) : List (Nat × Nat × Nat) :=
  (List.range q.cdw11).map (fun i => let d := q.data.drop (16 * i); (imgField d 0 4, imgField d 8 8, imgField d 4 4))

/-- A range keeps R289. -/
def rangeOk (s : State) (x : Nat × Nat × Nat) : Bool :=
  decide (x.1 = 1026 + ownStation s ∧ x.2.1 % 4096 = 0 ∧ x.2.2 % 4096 = 0 ∧ 0 < x.2.2 ∧ x.2.1 + x.2.2 ≤ slmBytes ∧
    x.2.1 / 2 ^ 30 = (x.2.1 + x.2.2 - 1) / 2 ^ 30)

/-- An Execute Program that names a set is running. -/
def setRunning (s : State) (id : Nat) : Bool :=
  s.host.out.any (fun c => isExecute c && decide (bitsOf c.sqe.cdw10 31 16 = id)) ||
  s.disp.tasks.any (fun e => decide (e.2.kind = .thread ∧ e.2.rset = id))

/-- MEMORY_RANGE_SET_MANAGEMENT: SEL 0 creates, and answers the set's number; 1 deletes. -/
def execMemoryRangeSetManagement (r : CmdRef) (s : State) : Host.Outcome State Fault Refusal :=
  .next (onAdmin r opRangeSet (fun c s =>
    let q := c.sqe
    let sel := bitsOf q.cdw10 17 16
    let id := q.cdw10 % 2 ^ 16
    if sel = 0 then
      let l := rangeList q
      if l.length = 0 ∨ 16 < l.length ∨ ¬ l.all (rangeOk s) then failCmd c stField s
      else match (List.range 256).find? (fun i => (Tbl.find s.prog.rsets i).isNone) with
        | none => failCmd c stRangeSets s
        | some i => completeCmd r stOk i 0 [] { s with prog := { s.prog with rsets := Tbl.insert s.prog.rsets i (l.map (fun x => (x.2.1, x.2.2))) } }
    else if sel = 1 then
      if (Tbl.find s.prog.rsets id).isNone then failCmd c stField s
      else if setRunning s id then failCmd c stBusy s
      else completeCmd r stOk 0 0 [] { s with prog := { s.prog with rsets := Tbl.erase s.prog.rsets id } }
    else failCmd c stField s) s)

/-! Execute Program (R292 to R294, R374, R417, R418, R660). -/

/-- A task with an image loaded and the start state of R374. -/
def startTask (img : List Byte) (entry : Nat) (ps : List Nat) (t : Task) : Task :=
  let top := stackTop img
  let p := Vector.ofFn (fun (i : Fin 16) => BitVec.ofNat 64 (if i.val < 14 then listGet 0 ps i.val else top - 8))
  { t with image := img, code := holdCode img, data := Memory.writeBytes (holdData img) (top - 8 - 0x20000) (leBytes 8 1)
           regs := { YRegs.zero with p := p, pc := BitVec.ofNat 64 (0x10000 + 2 * entry) }, doorMask := BitVec.ofNat 32 (imgDoorMask img) }

/-- A task begins in a slot with fresh door contexts (R299, R431, R474, R488). -/
def beginTask (key : Nat) (t : Task) (s : State) : State :=
  createAt key t { s with bcn := { s.bcn with ctxs := Tbl.erase s.bcn.ctxs (key + 1) }, cmp := { s.cmp with jobs := Tbl.erase s.cmp.jobs (8 + key) } }

/-- The Execute Program is outstanding, and neither waits nor runs yet. -/
def freshExecute (s : State) (r : CmdRef) : Option OutCmd :=
  match findCmd s r with
  | some c =>
    if isExecute c ∧ ¬ s.prog.waiting.any (fun w => w.cmd = r) ∧ ¬ s.disp.tasks.any (fun e => e.2.cmd = some r) then some c else none
  | none => none

/-- EXECUTE_PROGRAM: the checks of the slot and the range set, then the wait for a thread (R286, R292 to R294). -/
def execExecuteProgram (r : CmdRef) (s : State) : Host.Outcome State Fault Refusal :=
  .next (match freshExecute s r with
    | none => s
    | some c =>
      let q := c.sqe
      let i := q.cdw10 % 2 ^ 16
      let id := bitsOf q.cdw10 31 16
      if s.med.flush.isSome ∨ s.mode.mode ≠ .lit then s
      else match (if (progSlot s i).activated then (progSlot s i).image else none) with
        | none => failCmd c (if i < 64 then stNotActivated else stField) s
        | some img =>
          if (Tbl.find s.prog.rsets id).isNone then failCmd c stField s
          else { s with prog := { s.prog with waiting := s.prog.waiting ++
            [{ cmd := r, prog := i, rset := id, param := fitBytes q.cdw11 q.data, image := img }] } })

/-- Threads at the station, and those of a function. -/
def threadCount (s : State) : Nat := (s.disp.tasks.filter (fun e => e.2.kind = .thread)).length
def fnThreads (s : State) (f : Nat) : Nat := (s.disp.tasks.filter (fun e => e.2.kind = .thread ∧ e.2.fn = f)).length

/-- The function may have one more thread (R660, R673, R677). -/
def mayThread (s : State) (f : Nat) : Bool :=
  (decide (chrThreadMax s f = 0) || decide (fnThreads s f < chrThreadMax s f)) &&
    (match fnMode s f with | .running | .quiescing => true | _ => false)

/-- The wing for a new thread (R218). -/
def threadWing (s : State) : Option Nat := cheapest ((computeWings s).map (fun w => (Tbl.get 0 s.disp.loadLast w, w)))

/-- Creates a thread in a slot of a wing's table. -/
def startThread (q : ThreadReq) (gen key : Nat) (s : State) : State :=
  let img := q.image
  let t0 : Task := { blankTask with fn := q.cmd.fn, progSlot := q.prog, prio := floorPrio s q.cmd.fn (chrPrio s q.cmd.fn), gen := gen, cmd := some q.cmd
                                    rset := q.rset, ranges := Tbl.get [] s.prog.rsets q.rset }
  let t1 := startTask img (imgEntry img) [0x20000 + imgParamOff img, q.param.length] t0
  let t2 := { t1 with data := Memory.writeBytes t1.data (imgParamOff img) (fitBytes 4096 q.param) }
  beginTask key t2 { s with prog := { s.prog with waiting := s.prog.waiting.filter (fun w => w.cmd ≠ q.cmd) } }

/-- THREAD_START (R292, R294, R417, R660): the oldest waiting command whose function may have a thread gets one, if it is this. -/
def execThreadStart (r : CmdRef) (s : State) : Host.Outcome State Fault Refusal :=
  .next (match s.prog.waiting.find? (fun w => mayThread s w.cmd.fn), threadWing s, findCmd s r with
    | some q, some w, some c =>
      if q.cmd ≠ r ∨ 1024 ≤ threadCount s ∨ s.mode.mode ≠ .lit ∨ s.med.flush.isSome then s
      else match freeSlot s w with
        | some i => startThread q c.gen (2048 * w + i) s
        | none => s
    | _, _, _ => s)

/-! Subsystem local memory (R278, R291, R565, R761). -/

/-- The outstanding command of an opcode on this station's SLM namespace. -/
def slmCmd (s : State) (r : CmdRef) (opc : Nat) : Option OutCmd :=
  match findCmd s r with
  | some c => if !c.admin ∧ c.sqe.opc = opc ∧ c.sqe.nsid = 1026 + ownStation s ∧ s.mode.mode = .lit ∧ s.med.flush.isNone then some c else none
  | none => none

/-- MEMORY_READ (R291). -/
def execMemoryRead (r : CmdRef) (s : State) : Host.Outcome State Fault Refusal :=
  .next (match slmCmd s r opMemRead with
    | none => s
    | some c =>
      let n := c.sqe.cdw12
      if slmPoisoned s (sqeSlba c.sqe) n then failCmd c stUnrecovered s
      else completeCmd r stOk 0 0 (Memory.readBytes s.prog.slm (sqeSlba c.sqe) n) (countOut r.fn n s))

/-- MEMORY_WRITE (R291). -/
def execMemoryWrite (r : CmdRef) (s : State) : Host.Outcome State Fault Refusal :=
  .next (match slmCmd s r opMemWrite with
    | none => s
    | some c => completeCmd r stOk 0 0 [] (slmWrite (sqeSlba c.sqe) (fitBytes c.sqe.cdw12 c.sqe.data) s))

/-- The part of a Memory Copy may begin. -/
def copyBegins (s : State) (r : PartRef) : Bool :=
  match partOf s r, sqeOf s r with
  | some p, some q => decide (p.state = .running) && !p.begun && decide (q.opc = opMemCopy) && decide (1025 < q.nsid) && s.med.flush.isNone &&
      decide (s.mode.mode = .lit)
  | _, _ => false

/-- A part of a Memory Copy reads its blocks: into this station's SLM, or for the station that copies; metadata is not copied. -/
def copyPart (r : PartRef) (s : State) : State :=
  readPart (fun p n c s =>
    let data := c.flatMap (·.1)
    if r.station = ownStation s then
      match sqeOf s r with
      | some q => updCmd r.cmd (fun c => { c with committed := true }) (slmWrite (sqeSlba q + p.off) data s)
      | none => s
    else storeData r p n (data, []) s) r s

/-- MEMORY_COPY (R555, R565, R580): the running parts at this station of a station's Memory Copy, and the SLM sources of its own. -/
def execMemoryCopy (station : Fin 64) (r : CmdRef) (s : State) : Host.Outcome State Fault Refusal :=
  let s0 := if station = ownStation s ∧ (slmCmd s r opMemCopy).isSome then copySlm r s else s
  let bad := match findCmd s r with
    | some c => (copySources c.sqe).any (fun x => decide (1024 < x.1) && slmPoisoned s x.2.1 x.2.2)
    | none => false
  .next (match (if station = ownStation s then slmCmd s0 r opMemCopy else none) with
    | some c =>
      if c.parts = [] then completeCmd r (if bad then stUnrecovered else stOk) 0 0 [] s0
      else (partsAt s0 station r).foldl (fun s pr => if copyBegins s pr then copyPart pr s else s) s0
    | none => (partsAt s station r).foldl (fun s pr => if copyBegins s pr then copyPart pr s else s) s)

end Sys2Proof.Machine
end

