-- ==== Sys2Proof/Machine/SieveRows.lean ====
section
/-! DEFINITION. Legs and sieves as the module runs them: the start of a leg, scan reads, evaluation, beacon results, the output of a leg
of another station (R212 to R217, R228 to R275, R313, R314, R319). -/

namespace Sys2Proof.Machine

/-! LEG_START (R214, R215, R313, R314, R417). -/

/-- The wing whose table and pool serve a leg of a wing (R214). -/
def poolFor (s : State) (w : Nat) : Nat := if s.mode.wingOut.getLsbD w then w ^^^ 1 else w

/-- The lowest offset of a wing's staging pool at which a run of bytes is free (R313). -/
def stagingAt (s : State) (pool size : Nat) : Option Nat :=
  let used := (s.prog.legs.filter (fun l => l.state = .running ∧ l.pool = pool)).map (fun l => (l.base, l.size))
  (0 :: used.map (fun u => u.1 + u.2)).foldl (fun a b =>
    if 2 ^ 27 < b + size ∨ used.any (fun u => decide (b < u.1 + u.2 ∧ u.1 < b + size)) then a
    else match a with
      | some x => some (min x b)
      | none => some b) none

/-- The lowest free plan slot of a wing's sieves (R215). -/
def planSlot (s : State) (w : Nat) : Option Nat := (List.range 16).find? (fun i => (runningLegs s w).all (fun l => l.slot ≠ i))

/-- The oldest leg that waits for the pool of a wing and whose wing runs fewer than 16 (R215, R313). -/
def oldestLeg (s : State) (pool : Nat) : Option RunLeg :=
  (s.prog.legs.filter (fun l => l.state = .waiting ∧ poolFor s l.wing = pool ∧ (runningLegs s l.wing).length < 16)).foldl (fun a l =>
    match a with
    | some x => if l.arrival < x.arrival then some l else a
    | none => some l) none

/-- Free task slots of a wing. -/
def slotsFreeAt (s : State) (w : Nat) : Nat := 2048 - (wingTasks s w).length

/-- A reduce task of a leg (R314, R418). -/
def reduceTask (l : RunLeg) (q : Nat) : Task :=
  let t0 : Task := { blankTask with kind := .reduce, fn := l.fn, progSlot := l.progSlot, prio := l.prio, gen := l.gen, parent := l.parent
                                    leg := some { station := l.station, handle := l.handle, leg := l.leg, attempt := l.attempt, queue := q } }
  startTask l.image l.redEntry [l.handle, l.leg, q, l.descAddr] t0

/-- Creates a reduce task in the lowest free slot of a wing's table. -/
def startReduce (l : RunLeg) (pool : Nat) (s : State) (q : Nat) : State :=
  match freeSlot s pool with
  | some i => beginTask (2048 * pool + i) (reduceTask l q) s
  | none => s

/-- A move whose commit is under way holds the leg back, so that no move commits while a running leg has its bale ahead (R205). -/
def moveHolds (s : State) (l : RunLeg) : Bool :=
  s.plc.moves.any (fun m => decide (m.nsid = l.nsid) && l.bales.contains m.bale && decide (m.srcStation = ownStation s ∧ m.step = (if m.dstStation = m.srcStation then 4 else 7)))

/-- LEG_START: the oldest waiting leg of the wing starts when its plan slot, staging and task slots are free. -/
def execLegStart (wing : Fin 8) (s : State) : Host.Outcome State Fault Refusal :=
  let pool := poolFor s wing
  .next (match oldestLeg s pool with
    | none => s
    | some l =>
      if l.wing ≠ wing ∨ moveHolds s l ∨ s.mode.mode ≠ .lit ∨ s.med.flush.isSome ∨ s.mode.wingOut.getLsbD pool ∨ slotsFreeAt s pool < l.plan.queues then s
      else match stagingAt s pool l.size, planSlot s l.wing with
        | some base, some slot =>
          let l1 := { l with state := .running, pool := pool, base := base, slot := slot }
          (List.range l.plan.queues).foldl (startReduce l1 pool) (updLeg l.station l.handle l.leg (fun _ => l1) s)
        | _, _ => s)

/-! SCAN_READ_ISSUE (R215, R230 to R232, R261). -/

/-- The legs of a channel in the order in which they are served next: by plan slot after the one served last. -/
def legsInTurn (s : State) (ch : Nat) : List RunLeg :=
  (List.range 16).filterMap (fun i => (runningLegs s (ch / 16)).find? (fun l => l.slot = ((getSiv s ch).turn + 1 + i) % 16))

/-- A grain's content as the sieve sees it: its four blocks, zeros where absent (R229, R230). -/
def scanContent (s : State) (id : GrainId) (e : Nat) : List Byte :=
  let img := imgAt s e
  (List.range 4).flatMap (fun i => blockBytes s id.nsid (16384 * id.bale + 4 * id.grain) img (enPresent e) i)

/-- Issues the next scan read of a leg: the die read, and its place in the sieve's input buffer. -/
def issueScan (ch : Nat) (l : RunLeg) (g : Nat × Nat × Nat) (s : State) : State :=
  let id := keyGrain g.2.1
  let lost := s.med.lost.contains g.2.1
  let r : ScanRead := { station := l.station, handle := l.handle, leg := l.leg, attempt := l.attempt, nsid := l.nsid
                        grain := 4096 * id.bale + id.grain, content := if lost then none else some (scanContent s id g.2.2) }
  let c := getSiv s ch
  let s1 := onLeg l (fun x => { x with progress := Tbl.put 0 x.progress ch (g.1 + 1) }) (setSiv ch { c with reads := c.reads ++ [r], turn := l.slot } s)
  if lost then s1
  else addRead id g.2.2 g.2.2 (.scan l.station l.handle l.leg) s1

/-- SCAN_READ_ISSUE: the next leg in rotation that has a grain left on the channel; legs that have none end on it. -/
def execScanReadIssue (channel : Fin 128) (s : State) : Host.Outcome State Fault Refusal :=
  let ch := channel.val
  .next (if s.mode.mode ≠ .lit ∨ s.med.flush.isSome ∨ 16 ≤ (getSiv s ch).reads.length then s
    else
      let s1 := if (getSiv s ch).reads = [] then legSweep ch s else s
      match (legsInTurn s1 ch).find? (fun l => (nextGrain s1 l ch).isSome) with
      | some l =>
        (match nextGrain s1 l ch with
         | some g => issueScan ch l g s1
         | none => s1)
      | none => s1)

/-! Evaluation. -/

/-- SIEVE_GRAIN_EVALUATION (R228 to R260): the sieve begins its oldest grain that has been read, or goes on with one that waited. -/
def execSieveGrainEvaluation (channel : Fin 128) (s : State) : Host.Outcome State Fault Refusal :=
  .next (if s.mode.mode ≠ .lit ∨ s.med.flush.isSome then s else sivGo channel s)

/-- The result of a search reaches its record: the latch, the predicate and MULTI (R239, R244). -/
def searchDone (w : Nat) (h : BcnHit) (r : RecEval) : RecEval :=
  RecEval.push h.hit { r with pc := r.pc + 1, phase := .ready, key := [], latches := Tbl.put 0 r.latches (bitsOf (opArg w) 9 8) (if h.hit then h.res else 0)
                              multi := r.multi || h.multi }

/-- SIEVE_BEACON_RESULT (R244, R451, R452): the sieve's oldest search. -/
def execSieveBeaconResult (channel : Fin 128) (s : State) : Host.Outcome State Fault Refusal :=
  let ch := channel.val
  let c := getSiv s ch
  .next (match c.reads.head?, c.recs.zipIdx.find? (fun x => x.1.phase = .searching) with
    | some rd, some (r, i) =>
      (match legOfRead s rd with
       | none => s
       | some l =>
         let w := listGet 0 l.plan.ops r.pc
         let t := opArg w % 16
         let s1 := bcnFix t (leNat r.key) s
         let h := bcnSearch s1 t (leNat r.key)
         let s2 := onSummary l (fun m => { m with searches := satAdd max64 m.searches 1, multi := satAdd max64 m.multi (b2n h.multi) })
           (bcnSlot 0 (bcnTable s1 t).banks s1)
         let c2 := getSiv s2 ch
         sivGo ch (setSiv ch { c2 with recs := listSet c2.recs i (searchDone w h r) } s2))
    | _, _ => s)

/-! LEG_OUTPUT_RECEIVE (R217, R319 to R322). -/

/-- A locator of 16 bytes; none when they are zero. -/
def parseLocator (b : List Byte) : Option Locator :=
  if zeros b 0 16 then none else some { lba := imgField b 0 8, off := imgField b 8 2, len := imgField b 10 2, nsid := imgField b 12 4 }

/-- A leg summary of its 256 bytes (R271). -/
def parseSummary (b : List Byte) : LegSummary :=
  let f := fun (i : Nat) => imgField b (8 * i) 8
  { grains := f 0, records := f 1, emitted := f 2, malformed := f 3, shortField := f 4, unreadable := f 5, searches := f 6, multi := f 7,
    counts := (List.range 8).foldl (fun c i => Tbl.put 0 c i (f (8 + i))) [], bytesIn := f 16, bytesOut := f 17,
    firstMalformed := parseLocator (b.drop 144), firstUnreadable := parseLocator (b.drop 160) }

/-- The station runs the leg for this one, and no later attempt of it is awaited. -/
def legAwaited (s : State) (station handle leg attempt : Nat) : Bool :=
  match Tbl.find s.prog.waybills handle with
  | some wb => wb.legs.any (fun l => decide (l.station = station ∧ l.leg = leg ∧ l.attempt ≤ attempt) && l.done.isNone)
  | none => false

/-- LEG_OUTPUT_RECEIVE: another station's leg has ended; the output of an earlier attempt is discarded. Without a record the leg was cancelled
before it started (R323). -/
def execLegOutputReceive (station : Fin 64) (handle leg attempt : Nat) (record output : List Byte) (s : State) :
    Host.Outcome State Fault Refusal :=
  .next (if s.mode.mode ≠ .dark ∧ legAwaited s station handle leg attempt then
      if record = [] then legDropped handle leg s else
      legDeliver handle leg attempt (imgField record 10 1) (imgField record 40 8) output (imgField record 32 8) (parseSummary (record.drop 64)) s
    else s)

end Sys2Proof.Machine
end

