-- ==== Sys2Proof/Machine/PlaceRows.lean ====
section
/-! DEFINITION. The Drover's events: windows, placements, moves, directory announcements, mirrors, and the cross-station code as its events
bring it forward (chapters 4 and 14). -/

namespace Sys2Proof.Machine

/-- The station takes part in the work of its caravan. -/
def serving (s : State) : Bool := decide (s.mode.mode = .lit) && s.med.flush.isNone

/-- The station is the drover lead of a caravan; one on the minority side of a partition leads nobody (R631). -/
def leads (s : State) : Bool := inCaravan s && !s.rte.partition && decide (droverLead s = ownStation s)

/-- Acknowledges an order: code, two numbers that name it, result. -/
def ackTo (st code a b result : Nat) (s : State) : State := send st .ack [code, a, b, result] [] [] s

/-- Waits for the acknowledgements of some members. -/
def await (code a b : Nat) (left : List Nat) (s : State) : State :=
  { s with rte := { s.rte with waits := s.rte.waits ++ [{ code := code, a := a, b := b, cmd := none, left := left, fails := [] }] } }

/-- Order codes: members collected by a new lead, a leg launched or cancelled for another station, a station's state, a move given up. -/
def ordReconcile : Nat := 24
def ordLegLaunch : Nat := 25
def ordLegCancel : Nat := 26
def ordState : Nat := 27
def ordMoveDrop : Nat := 30

/-! Mirror partners (R189, R194). -/

/-- The mirror partner of a station: the next Lit member of its group in rising order, around the group (R189). A member that leaves is
none: it is to hold no mirror (R627). -/
def partnerOf (s : State) (i : Nat) : Option Nat :=
  let g := Tbl.get 0 s.rte.record.groups i
  let l := (litStations s).filter (fun m => m ≠ i ∧ stationState s m ≠ 3 ∧ Tbl.get 0 s.rte.record.groups m = g)
  match l.find? (fun m => i < m) with | some m => some m | none => l.head?

/-- The content of a grain as its last write left it. -/
def latestImg (s : State) (g : GrainId) : GrainImg :=
  match ((pendingItems s ++ s.med.landed.map (·.1)).reverse).find? (fun i => decide (i.id = g)) with
  | some i => i.img
  | none => grainImg s (idKey g)

/-- Sends every mirror that is on its way or in debt to the partner (R194). -/
def resendMirrors (s : State) : State :=
  s.plc.mirrors.foldl (fun s m => send (s.plc.partner - 1) .mirror [m.tag] [] (m.grains.map (fun g => (g, latestImg s g))) s) s

/-- Takes the partner that R189 gives; a new one gets the whole debt. Without one, nothing is awaited. -/
def choosePartner (s : State) : State :=
  let new := if inCaravan s then (match partnerOf s (ownStation s) with | some m => m + 1 | none => 0) else 0
  if new = s.plc.partner then s
  else if new = 0 then
    let ps := (s.plc.mirrors.filter (fun m => ¬ m.acked)).flatMap (·.parts)
    let s1 := { s with plc := { s.plc with partner := 0, mirrors := [] } }
    debtCheck (ps.foldl (fun s r => settlePart r (updPart r (fun p => { p with mirrors := p.mirrors - 1 }) s)) s1)
  else
    let gs := (s.plc.mirrors.flatMap (·.grains)).dedup
    let s1 := if s.plc.partner ≠ 0 ∧ stationState s (s.plc.partner - 1) ≠ 4 then dropMirrors gs s else s
    resendMirrors { s1 with plc := { s1.plc with partner := new } }

/-! Membership (R621, R627). -/

/-- A membership record as the numbers of an order, and the record of those numbers. -/
def recNums (r : CarRecord) : List Nat := [r.id, r.epoch, r.topo, r.code, r.members.toNat] ++ (List.range 64).map (Tbl.get 0 r.groups)
def recOf (l : List Nat) : CarRecord :=
  let n := listGet 0 l
  { id := n 0, epoch := n 1, topo := n 2, code := n 3, members := BitVec.ofNat 64 (n 4),
    groups := (List.range 64).foldl (fun t i => Tbl.put 0 t i (n (5 + i))) [], station := 0 }

/-- The record without a station. -/
def recWithout (r : CarRecord) (m : Nat) : CarRecord :=
  { r with epoch := r.epoch + 1, members := r.members &&& ~~~(1#64 <<< m), groups := Tbl.erase r.groups m }

/-- A station that is lone has no bale, piece, mirror or report of others (R627, R629). -/
def forgetCaravan (s : State) : State :=
  { s with
    rte := { s.rte with states := [], absent := 0, partition := false, resumedAt := none, routes := [], linkMap := [], pieces := [], segments := [],
                        parity := [], segPieces := [], mismatched := false }
    plc := { s.plc with held := [], mirrors := [], reports := [], rebuilding := [], rebuilt := [], partner := 0, requests := [], serving := none,
                        newMembers := 0, reconcile := false, debtStall := false, moves := s.plc.moves.filter (fun m => m.srcStation = m.dstStation) }
    med := { s.med with dir := s.med.dir.filter (fun e => e.2.station = ownStation s) } }

/-- A link gets or loses its neighbour with the layout (R616). -/
def relink (s : State) (l : Nat) : State :=
  let x := getLink s l
  let st := trainState s l x
  if (st = .unused) = (x.state = .unused) then s else retrainLink l st s

/-- States of the members of a new record: those that are known, a station that joins, and the members of a new caravan as Lit. -/
def newStates (s : State) (action subject : Nat) (r : CarRecord) : Tbl Nat :=
  (List.range 64).foldl (fun t i => Tbl.put 0 t i
    (if ¬ r.members.getLsbD i then 0 else if action = 1 ∧ i = subject then 2 else if inCaravan s then stationState s i else 1)) []

/-- The record a station holds after a change that its set agreed to: its own, or none when it is no member of it. -/
def takeRecord (action subject : Nat) (r : CarRecord) (s : State) : State :=
  if r.members.getLsbD (ownStation s) then
    { s with rte := { s.rte with states := newStates s action subject r, absent := s.rte.absent &&& r.members,
                                 record := { r with station := ownStation s } } }
  else forgetCaravan { s with rte := { s.rte with record := { CarRecord.lone with epoch := r.epoch } } }

/-- The membership record is written (R621): action and station of the change. A Leave that waited for it completes. -/
def writeRecord (action subject : Nat) (r : CarRecord) (s : State) : State :=
  let detail := leBytes 1 action ++ leBytes 1 subject ++ zeroBytes 6 ++ leBytes 8 r.epoch
  let s2 := (List.range 4).foldl relink (raise 1072 (logOcc 0x9004 1072 detail (takeRecord action subject r s)))
  let s3 := checkPartition (updateRoutes (choosePartner s2))
  match s3.rte.leaving with
  | some (c, m) => if r.members.getLsbD m then s3 else completeCmd c stOk 0 0 [] { s3 with rte := { s3.rte with leaving := none } }
  | none => s3

/-- The drover lead removes a member that has left (R627). -/
def removeMember (m : Nat) (s : State) : State :=
  let r := recWithout s.rte.record m
  let s1 := sendAll .order ([ordRecord, 1, 2, m] ++ recNums r) [] s
  writeRecord 2 m r { s1 with rte := { s1.rte with waits := s1.rte.waits.filter (fun w => ¬ (w.code = ordLeave ∧ w.a = m)) } }

/-! Placement (R183, R185). -/

/-- PLACEMENT_REQUEST: the drover lead serves requests one at a time in arrival order; not before it has reconciled its directory. -/
def execPlacementRequest (asker : Fin 64) (nsid bale : Nat) (s : State) : Host.Outcome State Fault Refusal :=
  let new := s.plc.requests ++ (if asker.val = ownStation s then [] else [(asker.val, nsid, bale)])
  let s1 := { s with plc := { s.plc with requests := new } }
  .next (if ¬ serving s ∨ ¬ leads s then s else if s.plc.reconcile then s1 else settleAll (serveNext 4096 s1))

/-- PLACEMENT_ANSWER: the receiving station forwards what waited, or serves it (R183 step 6). -/
def execPlacementAnswer (nsid bale : Nat) (owner : Fin 64) (s : State) : Host.Outcome State Fault Refusal :=
  .next (if serving s ∧ inCaravan s then answerPlacement nsid bale owner s else s)

/-! Moves (R200, R201). -/

/-- Takes a move off this station's list. -/
def forgetMove (nsid bale : Nat) (s : State) : State :=
  { s with plc := { s.plc with moves := s.plc.moves.filter (fun m => ¬ (m.nsid = nsid ∧ m.bale = bale)) } }

/-- The copies of a bale that moved here are dropped before they reach the journal: those in the cache and on their way to flash, and what is known
to be lost. Their mirrors go too (R201). -/
def dropCopies (nsid bale : Nat) (s : State) : State :=
  let dead := fun (g : GrainItem) => decide (g.id.nsid = nsid ∧ g.id.bale = bale) && match g.why with | .moveIn _ => true | _ => false
  let slot := fun (i : SlotItem) => match i with
    | .raw g => if dead g then SlotItem.pad else .raw g
    | .packed gs => .packed (gs.filter (fun x => !dead x.1))
    | i => i
  let m := s.med
  let hit := fun (g : GrainId) => decide (g.nsid = nsid ∧ g.bale = bale)
  let gone := (s.plc.mirrors.flatMap (·.grains)).filter hit
  let left := (s.plc.mirrors.map (fun x => { x with grains := x.grains.filter (fun g => !hit g) })).filter (fun x => ¬ (x.grains = [] ∧ x.parts = []))
  dropMirrors gone.dedup { s with
    med := { m with cache := m.cache.filter (fun c => !dead c.item), landed := m.landed.filter (fun x => !dead x.1)
                    packing := m.packing.map (fun e => (e.1, e.2.filter (fun x => !dead x.1)))
                    units := m.units.map (fun u => if unitStarted s u then u else { u with items := u.items.map slot })
                    lost := m.lost.filter (fun k => k / 4096 ≠ baleKey nsid bale)
                    lostBits := m.lostBits.filter (fun e => e.1 / 4096 ≠ baleKey nsid bale) }
    plc := { s.plc with mirrors := left } }

/-- A move is abandoned: its source keeps the bale and its stalled commands go on; its destination drops what it has (R201). -/
def dropMove (nsid bale : Nat) (s : State) : State :=
  match findMove s nsid bale with
  | none => s
  | some m =>
    let s1 := forgetMove nsid bale s
    if m.srcStation = ownStation s ∧ m.dstStation ≠ ownStation s then
      let d := dirEntry s nsid bale
      if d.state = 3 then
        (let d1 := { d with state := 1 }
         tellDir nsid bale d1 (setDir nsid bale d1 .nothing s1))
      else s1
    else if m.dstStation = ownStation s ∧ m.srcStation ≠ ownStation s ∧ ¬ ownsBale s nsid bale then
      jrn 8 (.mapTrim nsid bale 0 16384) .nothing (dropCopies nsid bale s1)
    else s1

/-- A new move as a station notes it. -/
def newMove (s : State) (nsid bale src dst reason : Nat) : Move :=
  { nsid := nsid, bale := bale, srcStation := src, srcWing := (dirEntry s nsid bale).wing, dstStation := dst, dstWing := 0xFF, reason := reason, step := 1,
    todo := [], marked := [], passes := 0, start := s.td17, stalled := false, out := 0, drained := false, block := 0 }

/-- The bale's mirror debt is zero (R196). -/
def noDebt (s : State) (nsid bale : Nat) : Bool := !s.plc.mirrors.any (fun m => m.grains.any (fun g => decide (g.nsid = nsid ∧ g.bale = bale)))

/-- Moves that a station is the source of. -/
def activeMoves (s : State) (i : Nat) : Nat := (s.plc.moves.filter (fun m => m.srcStation = i)).length

/-- The bale's last move here is DWELL_MIN minutes old (R196). -/
def dwelt (s : State) (k : Nat) : Bool :=
  match Tbl.find s.plc.movedAt k with | some t => decide (t + s.plc.dwellMin * 60000000000 ≤ s.td17) | none => true

/-- A station takes a move between stations, or refuses it: 0 taken, 1 refused (R196, R200 step 1). Its source keeps the limits: MAX_ACTIVE
moves, those within the station among them, and for the triggers other than Join (5) and Leave (6) DWELL_MIN. -/
def takeMove (nsid bale src dst reason : Nat) (s : State) : State × Nat :=
  let own := ownStation s
  let s1 := { s with plc := { s.plc with moves := s.plc.moves ++ [newMove s nsid bale src dst reason] } }
  if (findMove s nsid bale).isSome then (s, 1)
  else if src = own then
    if (dirEntry s nsid bale).state = 1 ∧ ownsBale s nsid bale ∧ noDebt s nsid bale ∧ activeMoves s own < s.plc.maxActive ∧
        (5 ≤ reason ∨ dwelt s (baleKey nsid bale)) then (s1, 0) else (s, 1)
  else (s1, 0)

/-- MOVE_ORDER (R200 step 1): the drover lead orders a move to its source and its destination. -/
def execMoveOrder (nsid bale : Nat) (src dst : Fin 64) (reason : Fin 8) (s : State) : Host.Outcome State Fault Refusal :=
  .next (if ¬ serving s ∨ ¬ inCaravan s ∨ leads s ∨ (src.val ≠ ownStation s ∧ dst.val ≠ ownStation s) ∨ src = dst then s
    else
      let (s1, r) := takeMove nsid bale src dst reason s
      ackTo (droverLead s) ordMove nsid bale r s1)

/-- Step 2 of R200 at the source. -/
def moveSource (nsid bale : Nat) (s : State) : State :=
  match findMove s nsid bale with
  | some m =>
    if m.srcStation = ownStation s ∧ m.step = 1 then
      setDir nsid bale { (dirEntry s nsid bale) with state := 3 } (.placed nsid bale) (setMove { m with step := 2 } s)
    else s
  | none => s

/-- The drover lead orders a move (R195, R200 step 1). -/
def orderMove (nsid bale src dst reason : Nat) (s : State) : State :=
  let own := ownStation s
  let (s1, r) := takeMove nsid bale src dst reason s
  let others := [src, dst].filter (· ≠ own)
  if r ≠ 0 then s
  else await ordMove nsid bale others (others.foldl (fun s m => send m .moveOrder [nsid, bale, src, dst, reason] [] [] s) s1)

/-- Source and destination have answered an order of the lead: the move begins, or nothing comes of it. -/
def movesAnswered (nsid bale : Nat) (fails : List (Nat × Nat)) (s : State) : State :=
  match findMove s nsid bale with
  | none => s
  | some m =>
    let own := ownStation s
    if fails = [] then
      if m.srcStation = own then moveSource nsid bale s else send m.srcStation .order [ordMove, nsid, bale] [] [] s
    else
      ([m.srcStation, m.dstStation].filter (· ≠ own)).foldl (fun s x => send x .order [ordMoveDrop, nsid, bale] [] [] s) (dropMove nsid bale s)

/-- The blocks of a bit pattern that are one run: first block and blocks. -/
def bitRun (bits : Nat) : Nat × Nat :=
  let on := (List.range 4).filter (fun i => bitOf bits i)
  (on.headD 0, on.length)

/-- A grain of a message as an image. -/
def msgImg (s : State) (g : GrainMsg) : GrainImg :=
  { present := g.bits, data := Memory.writeBytes [] 0 (fitBytes 16384 g.data), md := Memory.writeBytes [] 0 (fitBytes 256 g.md), gen := nsGeneration s g.nsid }

/-- The identity of a grain of a message. -/
def msgId (g : GrainMsg) : GrainId := { nsid := g.nsid, bale := g.bale, grain := g.grain }

/-- Mirrors grains that come from another station to the partner (R200 step 4). -/
def mirrorIn (gs : List (GrainId × GrainImg)) (s : State) : State :=
  if gs = [] ∨ s.plc.partner = 0 then s
  else
    let tag := s.plc.nextTag
    let m : MirrorItem := { tag := tag, parts := [], grains := gs.map (·.1), bytes := 16384 * gs.length, acked := false }
    send (s.plc.partner - 1) .mirror [tag] [] gs { s with plc := { s.plc with nextTag := tag + 1, mirrors := s.plc.mirrors ++ [m] } }

/-- A grain of a move arrives: without content it is mapped no longer, here and at this station's partner, or, with present blocks, those cannot
be recovered (R200 step 4; log entry 44). -/
def moveGrainIn (src w : Nat) (s : State) (g : GrainMsg) : State :=
  let k := mapKey g.nsid g.bale g.grain
  if g.bits = 0 then
    mirrorIn [(msgId g, { GrainImg.zero with present := 15 })] (jrn w (.mapTrim g.nsid g.bale (4 * g.grain) 4) (.moveIn src) s)
  else if g.data = [] then
    send src .moveStage [g.nsid, g.bale, 1, 1] [] [] { s with med := { s.med with
      lost := if s.med.lost.contains k then s.med.lost else s.med.lost ++ [k], lostBits := Tbl.insert s.med.lostBits k g.bits } }
  else mirrorIn [(msgId g, msgImg s g)] (placeGrain w { id := msgId g, img := msgImg s g, why := .moveIn src } s)

/-- MOVE_GRAINS (R200 step 4): grains of a bale that moves to this station. -/
def execMoveGrains (station : Fin 64) (grains : List GrainMsg) (s : State) : Host.Outcome State Fault Refusal :=
  .next (if ¬ serving s then s
    else settleAll (grains.foldl (fun s g =>
      match findMove s g.nsid g.bale with
      | some m => if m.srcStation = station.val ∧ m.dstStation = ownStation s ∧ m.dstWing < 8 ∧ g.grain < 4096 ∧ g.bits < 16 then moveGrainIn station m.dstWing s g else s
      | none => s) s))

/-- A running part on a bale. -/
def baleRunning (s : State) (nsid bale : Nat) : Bool :=
  s.host.locks.any (fun e => decide (e.nsid = nsid ∧ e.slba / 16384 ≤ bale ∧ bale ≤ (e.slba + e.nlb - 1) / 16384) &&
    match partOf s { station := e.station, cmd := e.cmd, index := e.part } with
    | some p => decide (p.state = .running)
    | none => false)

/-- MOVE_STALL_DONE (R198 step 3, R200 step 6, R205): the bale's admitted commands have finished, and no leg has it ahead. -/
def execMoveStallDone (nsid bale : Nat) (s : State) : Host.Outcome State Fault Refusal :=
  .next (match findMove s nsid bale with
    | none => s
    | some m =>
      if ¬ serving s ∨ ¬ m.stalled ∨ legHolds s nsid bale ∨ baleRunning s nsid bale then s
      else if m.srcStation = m.dstStation ∧ m.step = 3 ∧ ¬ inWing s nsid bale m.srcWing then
        setDir nsid bale { station := ownStation s, wing := m.dstWing, state := 1, blockIx := freeMapBlock s m.dstWing } (.placed nsid bale)
          (setMove { m with step := 4 } s)
      else if m.srcStation = ownStation s ∧ m.dstStation ≠ ownStation s ∧ m.step = 6 ∧ ¬ m.drained then
        settleAll (setMove { m with drained := true, todo := m.marked, marked := [] } s)
      else s)

/-! The directory (R71, R183, R186, R200 to R203, R207). -/

/-- Records an entry that the drover lead announces, or that an owner tells the lead. An entry that gives away a bale this station holds
ends its ownership here. -/
def noteDir (nsid bale st wing state : Nat) (s : State) : State :=
  let d : DirEntry := { station := st, wing := wing, state := if state = 3 then 3 else 2, blockIx := 0 }
  let mine := ownsBale s nsid bale
  if state = 0 then (if mine then s else putDir nsid bale DirEntry.empty s)
  else if st = ownStation s then s
  else
    let s1 := if mine then passParts nsid bale st (forgetMove nsid bale (dropMap nsid bale (setDir nsid bale d .nothing s))) else putDir nsid bale d s
    let s2 := match findMove s1 nsid bale with
      | some m =>
        if m.dstStation = ownStation s ∧ state = 3 ∧ m.step = 1 then
          (match chooseWing s1 nsid bale none with
           | some w => setMove { m with step := 3, dstWing := w, block := freeMapBlock s1 w } s1
           | none => s1)
        else if state ≠ 3 ∧ m.srcStation ≠ ownStation s ∧ m.dstStation ≠ ownStation s then
          (let s0 := forgetMove nsid bale s1
           if st = m.dstStation then { s0 with plc := { s0.plc with movedAt := Tbl.insert s0.plc.movedAt (baleKey nsid bale) s0.td17 } } else s0)
        else s1
      | none => s1
    admitForeign (rehomeLegs (rehome s2))

/-- A member's answer about a bale found Moving: another station holds it, and step 8 of R200 follows; it has heard of a move to another
station, which is abandoned; or it has heard of none, and the move is one within the station (R199, R203). -/
def moveAnswer (nsid bale st wing state : Nat) (s : State) : State :=
  let d := dirEntry s nsid bale
  if d.state ≠ 3 ∨ d.station ≠ ownStation s ∨ (findMove s nsid bale).isSome then s
  else if st ≠ ownStation s ∧ (state = 1 ∨ state = 2) then
    dropMap nsid bale (setDir nsid bale { station := st, wing := wing, state := 2, blockIx := 0 } .nothing s)
  else if st ≠ ownStation s then s
  else if state = 3 then setDir nsid bale { d with state := 1 } .nothing s
  else resumeMove nsid bale s

/-- DIRECTORY_ANNOUNCEMENT: a member records the entry and acknowledges; the drover lead announces what an owner tells it. In Kindling, once the
map is there, it is the answer about a bale found Moving (R203). -/
def execDirectoryAnnouncement (nsid bale : Nat) (station : Fin 64) (wing : Fin 8) (state : Fin 4) (s : State) : Host.Outcome State Fault Refusal :=
  .next (if s.mode.mode = .kindling ∧ s.med.flush.isNone ∧ s.kin.done.contains 7 ∧ inCaravan s then moveAnswer nsid bale station wing state s
    else if ¬ serving s ∨ ¬ inCaravan s then s
    else
      let s1 := noteDir nsid bale station wing state s
      if leads s then settleAll (announceDir nsid bale { station := station, wing := wing, state := state, blockIx := 0 } s1)
      else settleAll (ackTo (droverLead s) ordDir nsid bale 0 s1))

/-- Every member has the lead's entry: the source of a move goes on (R200 step 2). -/
def dirAnswered (nsid bale : Nat) (s : State) : State :=
  let d := dirEntry s nsid bale
  if d.state ≠ 3 then s
  else if d.station = ownStation s then streamMove nsid bale s
  else send d.station .order [ordDir, nsid, bale] [] [] s

/-! Windows (R176, R195, R196, R218, R225). -/

/-- Puts a pair in the order of its first number, then of its second. -/
def orderIn (x : Nat × Nat) : List (Nat × Nat) → List (Nat × Nat)
  | [] => [x]
  | y :: r => if x.1 < y.1 ∨ (x.1 = y.1 ∧ x.2 ≤ y.2) then x :: y :: r else y :: orderIn x r

/-- Bales by a rank, lowest first, the lowest bale at a tie. -/
def byRank (rank : Nat → Nat) (ks : List Nat) : List Nat := ((ks.map (fun k => (rank k, k))).foldr orderIn []).map (·.2)

/-- Bytes moved, and written, in a bale in the last window, as its station reports them; a rank that puts the most first. -/
def movedIn (s : State) (i k : Nat) : Nat := (((reportOf s i).bales.find? (fun x => x.1 = k)).map (·.2.1)).getD 0
def writtenIn (s : State) (i k : Nat) : Nat := (((reportOf s i).bales.find? (fun x => x.1 = k)).map (·.2.2)).getD 0
def most (f : Nat → Nat) (k : Nat) : Nat := max64 - f k

/-- The load of a candidate exceeds the mean of its peers by SKEW_PCT percent and is at least one half. -/
def loadSkew (s : State) (f : Nat → Nat) (xs : List Nat) (x : Nat) : Bool :=
  let peers := xs.filter (· ≠ x)
  decide (peers ≠ []) && decide (32768 ≤ f x) && decide ((peers.map f).sum * (100 + s.plc.skewPct) ≤ 100 * peers.length * f x) && decide ((peers.map f).sum < peers.length * f x)

/-- A figure exceeds the mean of its peers by 10 % and by 50 erase cycles; wear of 65,536 is 2,000 cycles. -/
def wearSkew (f : Nat → Nat) (xs : List Nat) (x : Nat) : Bool :=
  let peers := xs.filter (· ≠ x)
  let sum := (peers.map f).sum
  decide (peers ≠ []) && decide (11 * sum < 10 * peers.length * f x) && decide (sum * 2000 + 50 * 65536 * peers.length ≤ peers.length * f x * 2000)

/-- Windows in a row of load skew, at the keys that a candidate list has. -/
def skewStep (s : State) (base : Nat) (f : Nat → Nat) (xs : List Nat) (t : Tbl Nat) : Tbl Nat :=
  xs.foldl (fun t x => Tbl.put 0 t (base + x) (if loadSkew s f xs x then Tbl.get 0 s.plc.skewRuns (base + x) + 1 else 0)) t

/-- A bale may move: no move of it runs, it is rebuilt, and its last move is DWELL_MIN minutes old (R196). -/
def mayMove (s : State) (dwell : Bool) (k : Nat) : Bool :=
  (findMove s (k / 2 ^ 32) (k % 2 ^ 32)).isNone && !baleRebuilding s (k / 2 ^ 32) (k % 2 ^ 32) &&
    (!dwell || dwelt s k)

/-- Starts moves within the station of a wing's bales, in order, up to MAX_ACTIVE. -/
def moveWingBales (reason : Nat) (ks : List Nat) (s : State) : State :=
  ks.foldl (fun s k =>
    if s.plc.maxActive ≤ activeMoves s (ownStation s) ∨ ¬ mayMove s true k then s
    else match chooseWing s (k / 2 ^ 32) (k % 2 ^ 32) (some (dirEntry s (k / 2 ^ 32) (k % 2 ^ 32)).wing) with
      | some w => startMove (k / 2 ^ 32) (k % 2 ^ 32) w reason s
      | none => s) s

/-- Orders moves of a station's bales to other stations, in order, up to MAX_ACTIVE. -/
def moveStationBales (reason src : Nat) (dwell : Bool) (ks : List Nat) (s : State) : State :=
  ks.foldl (fun s k =>
    if s.plc.maxActive ≤ activeMoves s src ∨ ¬ mayMove s dwell k then s
    else match chooseStation s (k / 2 ^ 32) (k % 2 ^ 32) ((litStations s).filter (· ≠ src)) with
      | some d => orderMove (k / 2 ^ 32) (k % 2 ^ 32) src d reason s
      | none => s) s

/-- Keys of the bales of a wing of this station, and of a station. -/
def wingBaleKeys (s : State) (w : Nat) : List Nat :=
  (s.med.dir.filter (fun e => e.2.station = ownStation s ∧ e.2.wing = w ∧ e.2.state = 1)).map (·.1)
def stationBaleKeys (s : State) (i : Nat) : List Nat :=
  (s.med.dir.filter (fun e => e.2.station = i ∧ e.2.state ≠ 0)).map (·.1)

/-- The triggers of R195 for a wing, in the table's order. -/
def wingTriggers (s : State) (w : Nat) : State :=
  let ks := wingBaleKeys s w
  let moved := movedIn s (ownStation s)
  let s1 := if 10 ≤ Tbl.get 0 s.plc.skewRuns w then moveWingBales 1 (byRank (most moved) ks) s else s
  let s2 := if s.plc.skewPct * 65536 < 100 * ownOf s w then moveWingBales 2 (byRank moved ks) s1 else s1
  let s3 := if wearSkew (wearOf s) (List.range 8) w then moveWingBales 3 (byRank (most (writtenIn s (ownStation s))) ks) s2 else s2
  let hot := s.plc.hotSince.any (fun e => decide (e.1 / 8 = w) && decide (e.2 + 60000000000 ≤ s.td17))
  if hot then moveWingBales 4 (byRank (most moved) ks) s3 else s3

/-- The triggers of R195 for a station, at the drover lead. -/
def stationTriggers (s : State) (i : Nat) : State :=
  let ks := stationBaleKeys s i
  let lit := litStations s
  if stationState s i = 3 then moveStationBales 6 i false (byRank (fun k => k % 2 ^ 32) ks) s
  else if ¬ s.plc.migrEn then s
  else
    let s1 := if 10 ≤ Tbl.get 0 s.plc.skewRuns (8 + i) then moveStationBales 1 i true (byRank (most (movedIn s i)) ks) s else s
    let s2 := if s.plc.skewPct * 65536 < 100 * stationOwn s i then moveStationBales 2 i true (byRank (movedIn s i) ks) s1 else s1
    if wearSkew (fun x => (reportOf s x).wear) lit i then moveStationBales 3 i true (byRank (most (writtenIn s i)) ks) s2 else s2

/-- A new member owns fewer bales than the Join trigger's share. -/
def joinShort (s : State) (i : Nat) : Bool :=
  decide (100 * litMembers s * (reportOf s i).owned < (100 - s.plc.skewPct) * mappedBales s)

/-- The Join trigger: bales leave the stations that own the most (R195). -/
def joinTrigger (s : State) : State :=
  let new := (litStations s).filter (fun i => s.plc.newMembers.getLsbD i)
  let full := new.filter (fun i => !joinShort s i)
  let s1 := full.foldl (fun s i => { s with plc := { s.plc with newMembers := s.plc.newMembers &&& ~~~(1#64 <<< i) } }) s
  if full.length = new.length then s1
  else
    let from_ := byRank (fun i => max64 - (reportOf s i).owned) ((litStations s).filter (fun i => ¬ new.contains i))
    from_.foldl (fun s i => moveStationBales 5 i false (byRank (movedIn s i) (stationBaleKeys s i)) s) s1

/-- An owner tells the drover lead how many versions of its sealed pieces are current (R642). -/
def tellCurrent (s : State) : State :=
  (s.rte.pieces.filter (fun p => p.sealed ∧ ¬ p.recoding)).foldl (fun s p =>
    send (droverLead s) .order [ordSegment, 7, p.seg - 1, p.pos, (currentVersions s p).length] [] [] s) s

/-- Segments with pieces of a station whose bales have all moved or are rebuilt are recoded (R627, R642, R644). -/
def recodeAbsent (s : State) : State :=
  ((members s).filter (fun i => stationState s i = 4 ∨ stationState s i = 3)).foldl (fun s i =>
    if stationBaleKeys s i = [] ∧ (litStations s).all (fun m => decide ((reportOf s m).left = 0)) then recodeOf i s else s) s

/-- Nothing is left at a station that leaves: no bale, piece, parity piece or mirror (R627). -/
def emptied (s : State) : Bool :=
  decide (ownedBales s = 0) && s.rte.pieces.isEmpty && s.rte.parity.isEmpty && s.plc.held.isEmpty && s.plc.mirrors.isEmpty

/-- Time that running tasks add to a wing's load at the end of a window. -/
def openLoad (s : State) (w : Nat) : Nat :=
  ((List.range 32).map (fun i => match (getCore s (32 * w + i)).run.bind (getTask s) with
    | some t => s.td17 - max t.runStart s.disp.loadMark
    | none => 0)).sum

/-- The figures of the window that ends. -/
def rollWindow (load : List Nat) (s : State) : State :=
  let bytes := fun (w : Nat) => ((List.range 128).map (fun i => Tbl.get 0 s.cnt.slots (4096 + 3 * (128 * w + i)))).sum
  let p := s.plc
  let s1 := { s with
    plc := { p with load := (List.range 8).foldl (fun t w => Tbl.put 0 t w (min 65536 (listGet 0 load w))) []
                    bytesLast := p.bytesNow, bytesNow := []
                    wingBytes := (List.range 8).foldl (fun t w => Tbl.put 0 (Tbl.put 0 t w (bytes w - Tbl.get 0 p.wingBytes (8 + w))) (8 + w) (bytes w)) []
                    hotSince := (List.range 64).foldl (fun t i =>
                      if (Tbl.get Sensor.fresh s.pwr.sensors (16 + i)).band < 4 then t else Tbl.insert t i ((Tbl.find p.hotSince i).getD s.td17)) [] }
    disp := { s.disp with loadLast := (List.range 8).foldl (fun t w => Tbl.put 0 t w (Tbl.get 0 s.disp.loadNow w + openLoad s w)) [], loadNow := []
                          loadMark := s.td17 } }
  let runs := skewStep s1 0 (fun w => Tbl.get 0 s1.plc.load w) (List.range 8) []
  let runs2 := if leads s1 then skewStep s1 8 (fun i => (reportOf s1 i).load) (litStations s1) runs else runs
  { s1 with plc := { s1.plc with skewRuns := runs2 } }

/-- The numbers of a report. -/
def reportNums (r : StReport) : List Nat := [r.load, r.wear, r.heat, r.owned, r.debt, r.held, r.left, r.moved, r.excl]

/-- Order code: bale key, bytes moved and bytes written of each bale of the sender in its last window (R195, log entry 43). -/
def ordBales : Nat := 35

/-- The report of this station to the drover lead, the bytes of its bales before it (R176, R195). -/
def sendReport (st : Nat) (s : State) : State :=
  let r := ownReport s
  send st .report (reportNums r) [] [] (send st .order (ordBales :: r.bales.flatMap (fun x => [x.1, x.2.1, x.2.2])) [] [] s)

/-- The bytes of a station's bales in its last window, as it tells them. -/
def noteBales (st : Nat) (nums : List Nat) (s : State) : State :=
  let l := (List.range (nums.length / 3)).map (fun i => (listGet 0 nums (3 * i), listGet 0 nums (3 * i + 1), listGet 0 nums (3 * i + 2)))
  { s with plc := { s.plc with reports := Tbl.insert s.plc.reports st { reportOf s st with bales := l } } }

/-- A station that leaves and holds nothing says so to the drover lead; the lead knows of itself, and of one that is absent (R627). -/
def leaveReady (s : State) : State :=
  let own := ownStation s
  let s1 := if inCaravan s ∧ stationState s own = 3 ∧ emptied s ∧ droverLead s ≠ own then ackTo (droverLead s) ordLeave own 1 0 s else s
  if ¬ leads s1 then s1
  else match s1.rte.waits.find? (fun w => decide (w.code = ordLeave ∧ w.left = [w.a]) &&
      (if w.a = own then emptied s1
       else decide (stationState s1 w.a = 0 ∨ stationState s1 w.a = 4) && decide (stationBaleKeys s1 w.a = []) &&
        !s1.rte.segments.any (fun e => e.2.pieces.any (fun p => decide (p.1 = w.a)) || e.2.holders.contains w.a))) with
    | some w => removeMember w.a s1
    | none => s1

/-- Moves found at Kindling that no wing could take go on when one can (R199). -/
def resumeMoves (s : State) : State := (movingBales s).foldl (fun s e => resumeMove (e.1 / 2 ^ 32) (e.1 % 2 ^ 32) s) s

/-- PLACEMENT_WINDOW_END (R176, R195): `load`: the load of each wing in the window × 65,536, as measured at its die ports. -/
def execPlacementWindowEnd (load : List Nat) (s : State) : Host.Outcome State Fault Refusal :=
  .next (if ¬ serving s then s
    else
      let s1 := resumeMoves (rollWindow load s)
      let s2 := if inCaravan s1 then tellCurrent s1 else s1
      let s3 := if inCaravan s2 ∧ ¬ leads s2 then sendReport (droverLead s2) s2 else s2
      let s4 := if s3.plc.migrEn then (List.range 8).foldl wingTriggers s3 else s3
      let s5 := if leads s4 ∧ ¬ s4.plc.reconcile then recodeAbsent (joinTrigger ((litStations s4).foldl stationTriggers s4)) else s4
      settleAll (leaveReady s5))

/-- STATION_REPORT: the drover lead notes a member's figures (R176, R177); the bytes of its bales came before (R195). -/
def execStationReport (station : Fin 64) (load wear heat owned debt held left moved : Nat) (excl : Fin 3) (s : State) :
    Host.Outcome State Fault Refusal :=
  let r : StReport :=
    { load := load, wear := wear, heat := heat, owned := owned, debt := debt, held := held, left := left, moved := moved, stamp := s.td17,
      excl := excl, bales := ((Tbl.find s.plc.reports station.val).map (·.bales)).getD [] }
  .next (if serving s ∧ inCaravan s ∧ (members s).contains station.val then { s with plc := { s.plc with reports := Tbl.insert s.plc.reports station r } } else s)

/-! Mirrors at the partner (R190, R191, R577). -/

/-- Stores the mirror copy of a grain that this partner holds for an owner; none with no block present. -/
def putHeld (owner : Nat) (g : GrainId) (img : GrainImg) (s : State) : State :=
  let l := (Tbl.get [] s.plc.held owner).filter (fun x => x.1 ≠ g)
  { s with plc := { s.plc with held := Tbl.put [] s.plc.held owner (if img.present = 0 then l else l ++ [(g, img)]) } }

/-- The mirror copy of a grain. -/
def heldImg (s : State) (owner : Nat) (g : GrainId) : GrainImg :=
  (((Tbl.get [] s.plc.held owner).find? (fun x => x.1 = g)).map (·.2)).getD GrainImg.zero

/-- A mirrored grain arrives: its blocks over the earlier copy, to the forecourt (R89, R190). Its wing is chosen as for a new bale. -/
def mirrorGrain (owner tag : Nat) (s : State) (g : GrainMsg) : State :=
  let old := heldImg s owner (msgId g)
  if g.data = [] then s
  else
    let img : GrainImg := { overlayImg old (msgImg s g) g.bits with present := Nat.lor old.present g.bits }
    match chooseWing s g.nsid g.bale none with
    | some w => placeGrain w { id := msgId g, img := img, why := .mirror owner tag } (putHeld owner (msgId g) img s)
    | none => s

/-- A mirrored deallocation of blocks of a grain; `last`: the message is done with it. -/
def mirrorTrim (owner tag : Nat) (g : GrainMsg) (last : Bool) (s : State) : State :=
  let old := heldImg s owner (msgId g)
  let run := bitRun g.bits
  jrn 8 (.mapTrim g.nsid g.bale (4 * g.grain + run.1) run.2) (if last then .mirrorAck owner tag else .nothing)
    (putHeld owner (msgId g) { old with present := Nat.land old.present (15 - g.bits % 16) } s)

/-- MIRROR_GRAINS (R190, R577): an owner's write reaches its mirror partner. A grain without data deallocates its blocks. -/
def execMirrorGrains (owner : Fin 64) (tag : Nat) (grains : List GrainMsg) (s : State) : Host.Outcome State Fault Refusal :=
  let trims := grains.filter (fun g => g.data = [])
  .next (if ¬ serving s ∨ ¬ (members s).contains owner.val ∨ owner.val = ownStation s ∨ ¬ inCaravan s then s
    else
      let s1 := grains.foldl (mirrorGrain owner tag) s
      let only := decide (trims.length = grains.length)
      settleAll ((trims.zipIdx).foldl (fun s g => mirrorTrim owner tag g.1 (only && decide (g.2 + 1 = trims.length)) s) s1))

/-- MIRROR_ACKNOWLEDGEMENT (R190): the partner has the mirror durably. -/
def execMirrorAcknowledgement (tag : Nat) (s : State) : Host.Outcome State Fault Refusal :=
  .next (match s.plc.mirrors.find? (fun m => m.tag = tag ∧ ¬ m.acked) with
    | none => s
    | some m =>
      if ¬ serving s then s
      else
        let l := s.plc.mirrors.map (fun x => if x.tag = tag then { x with acked := true } else x)
        let s1 := { s with plc := { s.plc with mirrors := l.filter (fun x => ¬ (x.parts = [] ∧ x.acked ∧ x.bytes = 0)) } }
        settleAll (debtCheck (m.parts.foldl (fun s r => settlePart r (updPart r (fun p => { p with mirrors := p.mirrors - 1 }) s)) s1)))

/-- MIRROR_DROP (R191): the owner's segment is sealed, and the partner drops its copies. -/
def execMirrorDrop (owner : Fin 64) (grains : List GrainMsg) (s : State) : Host.Outcome State Fault Refusal :=
  .next (if ¬ serving s ∨ owner.val = ownStation s then s
    else settleAll (grains.foldl (fun s g =>
      let s1 := putHeld owner (msgId g) GrainImg.zero s
      if ownsBale s g.nsid g.bale ∨ mapEntry s (idKey (msgId g)) = 0 then s1
      else jrn 8 (.mapTrim g.nsid g.bale (4 * g.grain) 4) .nothing s1) s))

/-! Pieces, segments and parity (R636 to R640, R643). -/

/-- PARITY_CONTRIBUTION (R639): a second contribution of a position is discarded. -/
def execParityContribution (owner : Fin 64) (seg pos index : Nat) (q : Bool) (data md : List Byte) (s : State) : Host.Outcome State Fault Refusal :=
  let img : GrainImg := { GrainImg.zero with data := Memory.writeBytes [] 0 (fitBytes 16384 data), md := Memory.writeBytes [] 0 (fitBytes 256 md) }
  let is := fun (p : ParityGrain) => decide (p.seg = seg ∧ p.idx = index ∧ p.q = q)
  .next (if ¬ serving s ∨ ¬ inCaravan s ∨ ¬ (members s).contains owner.val then s
    else
      let new : ParityGrain := { seg := seg, idx := index, q := q, got := [], sum := GrainImg.zero, placed := false, programmed := false, entry := 0 }
      let l := if s.rte.parity.any is then s.rte.parity else s.rte.parity ++ [new]
      let put := fun (p : ParityGrain) => if is p ∧ ¬ p.placed ∧ ¬ p.got.contains pos then { p with got := p.got ++ [pos], sum := imgXor p.sum img } else p
      settleAll { s with rte := { s.rte with parity := l.map put } })

/-- PIECE_CLOSE (R636): 5 s have passed since the first grain of the open piece. -/
def execPieceClose (group : Fin 8) (s : State) : Host.Outcome State Fault Refusal :=
  .next (match s.rte.pieces.find? (fun p => ¬ p.closed ∧ p.group = group.val) with
    | some p => if serving s then settleAll (send (droverLead s) .pieceClosed [p.id, p.versions.length] [] [] (setPiece { p with closed := true } s)) else s
    | none => s)

/-- SEGMENT_CLOSE (R637, R638): 5 s have passed since the segment's first piece opened; the drover lead closes it. -/
def execSegmentClose (seg : Nat) (s : State) : Host.Outcome State Fault Refusal :=
  .next (if serving s ∧ leads s then settleAll (tellLens seg (closeSeg seg s)) else s)

/-- REBUILD_READ (R643, R644): another station asks for this one's grain of a segment, a version of its piece or a parity grain. -/
def execRebuildRead (station : Fin 64) (seg index tag : Nat) (s : State) : Host.Outcome State Fault Refusal :=
  let mine : Option (GrainId × Nat) := match s.rte.pieces.find? (fun p => p.seg = seg + 1) with
    | some p => (p.versions[index]?).map (fun v => (v.1, v.2.2))
    | none => (s.rte.parity.find? (fun p => p.seg = seg ∧ p.idx = index ∧ p.programmed)).map (fun p => (({ nsid := 0, bale := seg, grain := index } : GrainId), p.entry))
  .next (match mine with
    | some x =>
      if ¬ serving s then s
      else addRead x.1 x.2 x.2 (.rebuild station tag) s
    | none => s)

/-! Rebuild (R207, R644, R646). -/

/-- A grain that a rebuild gives is one that the bale still lacks. -/
def rebuildWants (s : State) (nsid bale grain : Nat) : Bool :=
  !(Tbl.get [] s.plc.rebuilt (baleKey nsid bale)).contains grain && !(pendingItems s ++ s.med.landed.map (·.1)).any (fun i => decide (i.id = { nsid := nsid, bale := bale, grain := grain }))

/-- A reconstructed grain with the unsealed blocks that this station holds of it as the absent owner's partner (R194). -/
def withHeld (s : State) (absent : Nat) (g : GrainId) (img : GrainImg) : GrainImg :=
  let h := heldImg s absent g
  if h.present = 0 then img else { overlayImg img h h.present with present := Nat.lor img.present h.present }

/-- The absent station whose bale is rebuilt. -/
def rebuiltFrom (s : State) (nsid bale : Nat) : Nat := ((s.plc.rebuilding.find? (fun b => b.1 = nsid ∧ b.2.1 = bale)).map (·.2.2)).getD (ownStation s)

/-- A grain as it is reconstructed: unrecoverable, with nothing present, or content to write anew. -/
def rebuildGrain (w : Nat) (s : State) (g : GrainMsg) : State :=
  let k := idKey (msgId g)
  let held := heldImg s (rebuiltFrom s g.nsid g.bale) (msgId g)
  let mark := markRebuilt g.nsid (16384 * g.bale + 4 * g.grain) 4
  if ¬ rebuildWants s g.nsid g.bale g.grain then s
  else if g.bits = 0 ∧ held.present ≠ 0 then placeGrain w { id := msgId g, img := held, why := .moveIn (ownStation s) } s
  else if g.bits = 0 then mark (if mapEntry s k = 0 then s else jrn w (.mapTrim g.nsid g.bale (4 * g.grain) 4) .nothing s)
  else if g.data = [] then
    mark (if s.med.lost.contains k then s else healthAdd 5 1 { s with med := { s.med with lost := s.med.lost ++ [k] } })
  else placeGrain w { id := msgId g, img := withHeld s (rebuiltFrom s g.nsid g.bale) (msgId g) (msgImg s g), why := .moveIn (ownStation s) } s

/-- Unsealed grains of a bale that this station holds as the absent owner's partner, and that nothing else gives: they are written as they are
(R194). -/
def heldLeft (nsid bale : Nat) (s : State) : State :=
  let mine := (Tbl.get [] s.plc.held (rebuiltFrom s nsid bale)).filter (fun x => x.1.nsid = nsid ∧ x.1.bale = bale)
  mine.foldl (fun s x =>
    if rebuildWants s nsid bale x.1.grain then placeGrain (dirEntry s nsid bale).wing { id := x.1, img := x.2, why := .moveIn (ownStation s) } s else s) s

/-- The whole bale is rebuilt: what else the map holds of it are copies of older writes. -/
def rebuildEnd (nsid bale : Nat) (s : State) : State :=
  let k := baleKey nsid bale
  let done := Tbl.get [] s.plc.rebuilt k
  let stale := (baleGrains s nsid bale).filter (fun g => ¬ done.contains g)
  let s1 := stale.foldl (fun s g => jrn 8 (.mapTrim nsid bale (4 * g) 4) .nothing s) s
  emptyBale nsid bale { s1 with plc := { s1.plc with
    rebuilding := s1.plc.rebuilding.filter (fun b => ¬ (b.1 = nsid ∧ b.2.1 = bale)), rebuilt := Tbl.erase s1.plc.rebuilt k
    held := (s1.plc.held.map (fun e => (e.1, e.2.filter (fun x => ¬ (x.1.nsid = nsid ∧ x.1.bale = bale))))).filter (fun e => e.2 ≠ []) } }

/-- BACKGROUND_REBUILD (R644): reconstructed grains of a bale of an absent station, and the unsealed bytes that its partner sends (R194).
A grain with no bits holds nothing, one with bits and no data cannot be recovered (R646). `rest`: no other grain of the bale was mapped,
and all that were are durable here. -/
def execBackgroundRebuild (nsid bale : Nat) (grains : List GrainMsg) (rest : Bool) (s : State) : Host.Outcome State Fault Refusal :=
  let busy := fun (s : State) => (pendingItems s ++ s.med.landed.map (·.1)).any (fun i => decide (i.id.nsid = nsid ∧ i.id.bale = bale)) ||
    s.med.journal.any (fun r => decide (s.med.durSeq < r.seq) && match r.body with | .mapSet n b _ => decide (n = nsid ∧ b = bale) | _ => false)
  .next (if ¬ serving s ∨ ¬ baleRebuilding s nsid bale ∨ ¬ ownsBale s nsid bale then s
    else
      let s1 := (grains.filter (fun g => g.nsid = nsid ∧ g.bale = bale ∧ g.grain < 4096 ∧ g.bits < 16)).foldl (rebuildGrain (dirEntry s nsid bale).wing) s
      let s2 := if rest then heldLeft nsid bale s1 else s1
      settleAll (admitForeign (if rest ∧ ¬ busy s2 then rebuildEnd nsid bale s2 else s2)))

end Sys2Proof.Machine
end

