-- ==== Sys2Proof/Machine/CaravanRows.lean ====
section
/-! DEFINITION. The caravan: Form, Join, Leave and Dissolve, heartbeats, absence and takeover, and what members ask of each other and
acknowledge (R206 to R211, R583, R590 to R600, R621 to R632, R666). Orders between members and their numbers are this model's (log entry 43). -/

namespace Sys2Proof.Machine

/-! Waits. -/

/-- A member acknowledges: the waits that it reaches, and a result other than 0 is noted. -/
def noteAck (st code a b result : Nat) (s : State) : State :=
  { s with rte := { s.rte with waits := s.rte.waits.map (fun w =>
      if w.code = code ∧ w.a = a ∧ w.b = b ∧ w.left.contains st then
        { w with left := w.left.filter (· ≠ st), fails := if result = 0 then w.fails else w.fails ++ [(st, result)] }
      else w) } }

/-- A member is awaited no longer. -/
def dropAwaited (st : Nat) (s : State) : State :=
  { s with rte := { s.rte with waits := s.rte.waits.map (fun w => { w with left := w.left.filter (· ≠ st) }) }
           chr := { s.chr with commitAcks := s.chr.commitAcks.filter (· ≠ st) }
           host := { s.host with format := s.host.format.map (fun o => { o with acks := o.acks.filter (· ≠ st) }) } }

/-! The checks of a Form or Join (R616, R622, R626). -/

/-- A command of the Caravan opcode with an action and data that are laid out as R622 says. -/
def carCommand (r : CmdRef) (action : Nat) (f : OutCmd → List Byte → State → State) (s : State) : State :=
  onAdmin r 0xC2 (fun c s =>
    let d := fitBytes 128 c.sqe.data
    if c.sqe.cdw11 % 16 ≠ action ∨ awaits s r ∨ s.rte.forming.isSome ∨ s.rte.joining.isSome ∨ s.rte.leaving.isSome then s
    else if imgField d 0 1 ≠ 1 ∨ ¬ zeros d 3 5 ∨ ¬ zeros d 25 39 ∨ (action ≠ 1 ∧ ¬ zeros d 8 8) ∨
        (action = 0 ∧ (1 < imgField d 1 1 ∨ 2 < imgField d 2 1)) then failCmd c stField s
    else f c d s) s

/-- A Form or Join is refused: the station, 0xFF for none, and the cause (R626). -/
def refuseForm (r : CmdRef) (station code : Nat) (s : State) : State :=
  let st := if code = 1 then stSequence else if code = 3 then stUntested else stField
  completeCmd r st station code [] { s with rte := { s.rte with forming := none, joining := none, refuseSeen := true, refuseStn := station, refuseCode := code } }

/-- The links of a station break a layout's cabling, or one is Refused (R616). -/
def cablingBad (s : State) (r : CarRecord) : Bool :=
  let own := ownStation s
  let n := ((List.range 64).filter (fun i => r.members.getLsbD i)).foldl max 0 + 1
  (List.range 4).any (fun l =>
    let x := getLink s l
    decide (x.state = .refused) || (decide (x.state = .up) && decide (neighbourOf r.topo n own l ≠ some x.peer ∨ x.peerLink ≠ (l + 2) % 4)))

/-- A link's peer has this station's number. -/
def numberTwice (s : State) : Bool := (List.range 4).any (fun l => decide ((getLink s l).state = .up ∧ (getLink s l).peer = ownStation s))

/-- The cause for which a station that is to become a member is refused; 0 for none (R626). -/
def newMemberCause (s : State) (is200' : Bool) (r : CarRecord) : Nat :=
  if inCaravan s ∨ s.mode.mode ≠ .lit then 1
  else if is200 s ≠ is200' then 2
  else if numberTwice s then 4
  else if cablingBad s r then 5
  else if s.host.namespaces ≠ [] then 6 else 0

/-- The station's own set as 4 bytes of its running image. -/
def ownSet (s : State) : Nat := imgSetId s.kin.image

/-- The causes that the record itself gives (R616, R626): a station that does not fit, a torus of fewer than 16, groups, the ring's size. -/
def recordCauses (r : CarRecord) : List (Nat × Nat) :=
  let ms := (List.range 64).filter (fun i => r.members.getLsbD i)
  let n := ms.length
  let need := codeK r.code + codeM r.code + 1
  let grp := fun (m : Nat) => Tbl.get 0 r.groups m
  let small := ms.find? (fun m => decide ((ms.filter (fun x => grp x = grp m)).length < need))
  (match ms.find? (fun m => decide (n ≤ m)) with | some m => [(m, 4)] | none => []) ++
  (if r.topo = 1 ∧ n < 16 then [(0xFF, 5)] else []) ++
  (match ms.find? (fun m => decide (7 < grp m)) with | some m => [(m, 8)] | none => []) ++
  (match small with | some m => [(m, 8)] | none => []) ++
  (if r.topo = 0 ∧ n ≠ 16 then [(0xFF, 8)] else [])

/-- The first cause of R626 among those found, at the lowest station. -/
def firstCause : List (Nat × Nat) → Option (Nat × Nat)
  | [] => none
  | x :: rest => some (rest.foldl (fun a b => if b.2 < a.2 ∨ (b.2 = a.2 ∧ b.1 < a.1) then b else a) x)

/-- The stations that a change is checked at and written at, this one apart. -/
def formOthers (o : CarOp) (s : State) : List Nat :=
  if o.kind = 1 then otherLit s ++ [o.joiner] else ((List.range 64).filter (fun i => o.record.members.getLsbD i)).filter (· ≠ ownStation s)

/-- Sends an order to some stations and awaits them for a command. -/
def askAll (ms : List Nat) (a b : Nat) (nums : List Nat) (cmd : Option CmdRef) (s : State) : State :=
  let s1 := ms.foldl (fun s m => send m .order (ordRecord :: nums) [] [] s) s
  { s1 with rte := { s1.rte with waits := s1.rte.waits ++ [{ code := ordRecord, a := a, b := b, cmd := cmd, left := ms, fails := [] }] } }

/-- Phase 0: every station checks what R626 has it check, and tells its set. -/
def formCheck (o : CarOp) (s : State) : State :=
  askAll (formOthers o s) 0 o.kind ([0, o.kind, o.joiner, b2n (is200 s), ownSet s] ++ recNums o.record) o.cmd { s with rte := { s.rte with forming := some o } }

/-! Members are given what a member holds (R287, R600, R624, R632, R666). -/

/-- Sends this station's charter entries to a member. -/
def giveCharter (m : Nat) (s : State) : State :=
  let fs := changedEntries s.chr.active []
  send m .charter (s.chr.generation :: fs) (fs.flatMap (fun f => entryBytes s.chr.active f)) [] s

/-- The drover lead gives a station the directory, with word that every bale it does not name is Empty (R71), namespaces, hints, program images and the sanitize sequence, and then the word that it is a
Lit member. -/
def giveAll (m : Nat) (s : State) : State :=
  let order := fun (nums : List Nat) (bytes : List Byte) (s : State) => send m .order nums bytes [] s
  let s1 := ((members s).filter (fun i => i ≠ m ∧ stationState s i ≠ 0)).foldl (fun s i => order [ordState, i, stationState s i] [] s) s
  let s2 := order ([ordNamespace, 4, 0] ++ Tbl.keys s1.host.namespaces) [] s1
  let s3 := s2.host.namespaces.foldl (fun s e => order ([ordNamespace, 0, e.1] ++ nsNums e.2) [] s) s2
  let s4 := s3.host.attached.foldl (fun s e => order ([ordNamespace, 2, e.1] ++ e.2) [] s) s3
  let s5 := s4.plc.hints.foldl (fun s e => send m .hint [e.1, e.2] [] [] s) s4
  let s6 := s5.prog.slots.foldl (fun s e => match e.2.image with
    | some img => order [ordProgActive, e.1, b2n e.2.activated] [] (order [ordProgImage, e.1] img s)
    | none => s) s5
  let s7 := s6.med.dir.foldl (fun s e => if e.2.state = 0 then s
    else send m .dirEntry [e.1 / 2 ^ 32, e.1 % 2 ^ 32, e.2.station, e.2.wing, e.2.state] [] [] s) s6
  let kept := (s7.med.dir.filter (fun e => e.2.state ≠ 0)).map (·.1)
  let s8 := order [ordSanitize, s7.host.sanSeq, 2, 1] [] (giveCharter m (order (ordDirKeep :: kept) [] s7))
  await ordState m 1 [m] (order [ordState, m, 1] [] s8)

/-! Reassignment of an absent station's bales (R206 to R208, R210). -/

/-- A command waits for the bale. -/
def baleWanted (s : State) (nsid bale : Nat) : Bool :=
  let hit := fun (p : Part) => decide (p.nsid = nsid ∧ p.slba / 16384 ≤ bale ∧ bale ≤ (p.slba + p.nlb - 1) / 16384 ∧ p.state ≠ .done)
  s.host.out.any (fun c => c.parts.any hit) || s.host.foreign.any (fun f => hit f.part)

/-- The new owner takes a bale of an absent station; its content is to be rebuilt, the unsealed bytes from that station's partner (R194, R207,
R644). -/
def takeOver (nsid bale absent : Nat) (s : State) : State :=
  if ownsBale s nsid bale then s
  else placeLocal nsid bale <| sendAll .order [ordPartner, 3, absent, nsid, bale] [] { s with plc := { s.plc with rebuilding := s.plc.rebuilding ++ [(nsid, bale, absent)] } }

/-- Assigns one bale of an absent station (R206). -/
def reassignBale (m : Nat) (s : State) (k : Nat) : State :=
  let nsid := k / 2 ^ 32
  let bale := k % 2 ^ 32
  let g := Tbl.get 0 s.rte.record.groups m
  match chooseStation s nsid bale ((litStations s).filter (fun x => x ≠ m ∧ Tbl.get 0 s.rte.record.groups x = g)) with
  | none => s
  | some x =>
    if x = ownStation s then takeOver nsid bale m s
    else
      let r := reportOf s x
      let s1 := { s with plc := { s.plc with reports := Tbl.insert s.plc.reports x { r with owned := r.owned + 1 } } }
      send x .order [ordPlace, nsid, bale, m + 1] [] [] (putDir nsid bale { station := x, wing := 0, state := 2, blockIx := 0 } s1)

/-- A bale that was Moving from a station now absent: the others are asked whether one of them has committed the move (R202). -/
def askMoved (nsid bale : Nat) (s : State) : State := await ordMoveAsk nsid bale (otherLit s) (sendAll .order [ordMoveAsk, nsid, bale, 1] [] s)

/-- Nobody, or a station that has told the lead so, holds a bale that was Moving from an absent station: with nobody it is assigned (R202). -/
def movedAnswered (nsid bale : Nat) (s : State) : State :=
  let d := dirEntry s nsid bale
  if d.state = 3 ∧ stationState s d.station = 4 then reassignBale d.station s (baleKey nsid bale) else s

/-- Assigns every bale of an absent station: those with commands waiting first (R206). -/
def reassign (m : Nat) (s : State) : State :=
  let ks := stationBaleKeys s m
  let want := fun (k : Nat) => baleWanted s (k / 2 ^ 32) (k % 2 ^ 32)
  (byRank (fun k => if want k then 0 else 1) ks).foldl (fun s k =>
    if (dirEntry s (k / 2 ^ 32) (k % 2 ^ 32)).state = 3 ∧ otherLit s ≠ [] then askMoved (k / 2 ^ 32) (k % 2 ^ 32) s else reassignBale m s k) s

/-- The drover lead asks a member for what it holds (R210). -/
def askHoldings (ms : List Nat) (s : State) : State := await ordReconcile 0 0 ms (ms.foldl (fun s m => send m .order [ordReconcile] [] [] s) s)

/-- Every member has told what it holds: the lead decides again (R210, R632). -/
def reconciled (s : State) : State :=
  if s.rte.waits.any (fun w => decide (w.code = ordReconcile)) then s
  else
    let back := (members s).filter (fun i => stationState s i = 2 ∧ ¬ s.rte.waits.any (fun w => w.code = ordState ∧ w.a = i) ∧ (s.rte.forming.map (·.joiner)) ≠ some i)
    let s1 := { s with plc := { s.plc with reconcile := false } }
    let s2 := back.foldl (fun s m => giveAll m s) (if s.plc.reconcile then raise 1073 s1 else s1)
    let gone := (members s2).filter (fun i => stationState s2 i = 4)
    serveNext 4096 (gone.foldl (fun s m => replaceHolder m (reassign m s)) s2)

/-! Absence (R206, R210, R599, R630 to R632). -/

/-- Sends placement requests again: their answer may be lost with a lead (R211). -/
def askAgain (s : State) : State :=
  let bales := ((s.host.out.flatMap (·.parts) ++ s.host.foreign.map (·.part)).filter (fun p => p.state = .placing)).map (fun p => (p.nsid, p.slba / 16384))
  bales.dedup.foldl (fun s b => askPlacement b.1 b.2 s) s

/-- What every station does when a member is declared absent. -/
def absentHere (m : Nat) (s : State) : State :=
  let s1 := { s with rte := { s.rte with states := Tbl.put 0 s.rte.states m 4, absent := s.rte.absent ||| (1#64 <<< m) } }
  let s2 := raise 1072 (logOcc 0x9003 1072 (leBytes 1 m ++ zeroBytes 7 ++ leBytes 8 s1.rte.record.epoch) s1)
  let s3 := dropAwaited m s2
  let s4 := if (s3.host.sanitize.map (fun o => o.ended.contains m)) = some true then sanitizeFail s3 else s3
  let s5 := match s4.plc.serving with
    | some o =>
      let acks := o.acks.filter (· ≠ m)
      if o.owner = m then { s4 with plc := { s4.plc with serving := none, requests := (o.asker, o.nsid, o.bale) :: s4.plc.requests } }
      else endPlacement { s4 with plc := { s4.plc with serving := some { o with acks := acks } } }
    | none => s4
  let s6 := (s5.prog.legs.filter (fun l => l.station = m)).foldl (fun s l => settleFn l.fn (legRemove l s)) s5
  let away := fun (x : Move) => decide (x.srcStation ≠ ownStation s ∧ x.dstStation ≠ ownStation s ∧ x.dstStation ≠ m)
  let s7 := (s6.plc.moves.filter (fun x => (x.srcStation = m ∨ x.dstStation = m) ∧ ¬ away x)).foldl (fun s x => dropMove x.nsid x.bale s) s6
  rehomeLegs (rehome (checkPartition (updateRoutes (choosePartner s7))))

/-- The drover lead declares a station absent. -/
def declareAbsent (m : Nat) (s : State) : State :=
  let took := decide (droverLead s = m)
  let s1 := absentHere m s
  let s2 := sendAll .order [ordState, m, 4] [] s1
  if took ∧ otherLit s2 ≠ [] then askHoldings (otherLit s2) (raise 1073 { s2 with plc := { s2.plc with reconcile := true } })
  else if s2.plc.reconcile then s2
  else serveNext 4096 (replaceHolder m (reassign m s2))

/-- This station is to declare a member absent: it is the drover lead, or the next in order for the lead (R630, R631). -/
def declares (s : State) (m : Nat) : Bool :=
  let lit := (litStations s).filter (· ≠ m)
  serving s && inCaravan s && !s.rte.mismatched && !s.rte.partition && !minority s && decide (m ≠ ownStation s) && (members s).contains m &&
    decide (stationState s m ≠ 4) && decide (lit.head? = some (ownStation s)) &&
    (decide (stationState s m ≠ 0) || s.rte.resumedAt.isSome)

/-- Waits that nobody is left for are answered after this. -/
def execAbsenceDeclaredWith (done : State → State) (m : Nat) (s : State) : State := if declares s m then done (declareAbsent m s) else s

/-! What follows when every member has acknowledged. -/

/-- The record is written at every station: the command completes; a station that joins is given what a member holds (R623, R624, R629). -/
def recordsWritten (o : CarOp) (s : State) : State :=
  let s1 := { s with rte := { s.rte with forming := none } }
  if o.kind = 1 then giveAll o.joiner s1
  else match o.cmd with
    | some c => completeCmd c stOk 0 0 [] s1
    | none => s1

/-- Phase 1: the record at every station, this one first. -/
def formWrite (o : CarOp) (s : State) : State :=
  let own := ownStation s
  let subject := if o.kind = 1 then o.joiner else own
  let ms := formOthers o s
  let s1 := writeRecord o.kind subject o.record { s with rte := { s.rte with forming := some { o with phase := 1 } } }
  askAll ms 1 o.kind ([1, o.kind, subject] ++ recNums o.record) o.cmd s1

/-- A refused change: the command at this station, or at the station that asked to join. -/
def formRefused (o : CarOp) (x : Nat × Nat) (s : State) : State :=
  match o.cmd with
  | some c => refuseForm c x.1 x.2 s
  | none => ackTo o.joiner ordRecord 3 x.1 x.2 { s with rte := { s.rte with forming := none } }

/-- Sets of the stations of a change, as their checks told them. -/
def toldSets (o : CarOp) (fails : List (Nat × Nat)) (s : State) : List (Nat × Nat) :=
  (formOthers o s).map (fun m => (m, match fails.find? (fun f => f.1 = m) with | some f => f.2 / 16 | none => 0)) ++ [(ownStation s, ownSet s)]

/-- Every station has answered a phase of a Form, Join or Dissolve. In phase 2 each compares the sets with its image's list. -/
def formAnswered (w : AckWait) (s : State) : State :=
  match s.rte.forming with
  | none => s
  | some o =>
    if w.a = 0 then
      let found := o.found ++ (w.fails.filter (fun f => f.2 % 16 ≠ 0)).map (fun f => (f.1, f.2 % 16))
      let sets := toldSets o w.fails s
      let mine := if o.kind = 1 then [(o.joiner, (sets.find? (fun x => x.1 = o.joiner)).elim 0 (·.2))] else sets
      let bad := match mine.find? (fun x => !peerListed s x.2) with | some x => [(x.1, 3)] | none => []
      let o1 := { o with phase := 2, found := found ++ bad }
      let s1 := { s with rte := { s.rte with forming := some o1, fwSets := sets.foldl (fun t x => Tbl.put 0 t x.1 x.2) s.rte.fwSets } }
      let reach := (formOthers o s).filter (fun m => ¬ found.contains (m, 7))
      askAll reach 2 o.kind ([2, o.kind, o.joiner] ++ sets.flatMap (fun x => [x.1, x.2])) o.cmd s1
    else if w.a = 2 then
      (match firstCause (o.found ++ w.fails.map (fun f => (f.1, 3))) with
       | some x => formRefused o x s
       | none => formWrite o s)
    else recordsWritten o s

/-- A wait is over. -/
def waitDone (w : AckWait) (s : State) : State :=
  let answer := fun (dw0 : Nat) => match w.cmd with | some c => if (findCmd s c).isSome then completeCmd c stOk dw0 0 [] s else s | none => s
  if w.code = ordHint ∨ w.code = ordProgImage ∨ w.code = ordProgActive ∨ w.code = ordSanitize then answer 0
  else if w.code = ordNamespace then answer (if w.b = 0 then w.a else 0)
  else if w.code = ordFwSet then
    match s.kin.commit with
    | some o => if w.fails = [] then commitGo o s else commitKick (commitEnd o stFwProhibited s)
    | none => s
  else if w.code = ordCharter then
    match w.cmd with
    | some c => let s1 := commitFinish c s; commitTurn s1.chr.commitWait.length s1
    | none => s
  else if w.code = ordAbort then abortDecided (refOf w.a) w.b (b2n (w.fails ≠ [])) w.cmd s
  else if w.code = ordMove then movesAnswered w.a w.b w.fails s
  else if w.code = ordDir then dirAnswered w.a w.b s
  else if w.code = ordMoveAsk then movedAnswered w.a w.b s
  else if w.code = ordRecord then formAnswered w s
  else if w.code = ordReconcile then reconciled s
  else if w.code = ordState then
    let m := w.a
    let s1 := { s with rte := { s.rte with states := Tbl.put 0 s.rte.states m 1, absent := s.rte.absent &&& ~~~(1#64 <<< m) }
                       plc := { s.plc with newMembers := s.plc.newMembers ||| (1#64 <<< m) } }
    let s2 := sendAll .order [ordState, m, 1] [] (raise 1072 s1)
    choosePartner (checkPartition (updateRoutes s2))
  else s

/-- Every wait that nobody is left for is answered; a Leave's is not: it ends when the station holds nothing. -/
def endWaits : Nat → State → State
  | 0, s => s
  | n + 1, s =>
    match s.rte.waits.find? (fun w => decide (w.left = [] ∧ w.code ≠ ordLeave)) with
    | none => s
    | some w => endWaits n (waitDone w { s with rte := { s.rte with waits := s.rte.waits.erase w } })

/-- What follows a change of who is awaited. -/
def settleWaits (s : State) : State := settleAll (endWaits 4096 s)

/-! Form, Join, Leave, Dissolve (R622 to R629). -/

/-- CARAVAN_FORM (R623): `identity`: the identity that the station chooses, which differs from 0. -/
def execCaravanForm (r : CmdRef) (identity : Word) (s : State) : Host.Outcome State Fault Refusal :=
  .next (carCommand r 0 (fun c d s =>
    let own := ownStation s
    let ms := BitVec.ofNat 64 (imgField d 16 8)
    let rec0 : CarRecord := { id := identity.toNat, epoch := s.rte.record.epoch + 1, topo := imgField d 1 1, code := imgField d 2 1, members := ms,
                              groups := (List.range 64).foldl (fun t i => Tbl.put 0 t i (if ms.getLsbD i then imgField d (64 + i) 1 else 0)) [], station := 0 }
    let o : CarOp := { cmd := some r, kind := 0, phase := 0, record := rec0, joiner := 0, found := recordCauses rec0 }
    let cause := newMemberCause s (is200 s) rec0
    if identity = 0 then s
    else if ¬ ms.getLsbD own then failCmd c stField s
    else settleWaits (formCheck { o with found := o.found ++ (if cause = 0 then [] else [(own, cause)]) } s)) s)

/-- CARAVAN_JOIN (R624): a lone station asks the caravan through the lowest of its links that is Up. -/
def execCaravanJoin (r : CmdRef) (s : State) : Host.Outcome State Fault Refusal :=
  .next (carCommand r 1 (fun _ d s =>
    let own := ownStation s
    let g := imgField d (64 + own) 1
    if inCaravan s ∨ s.mode.mode ≠ .lit then refuseForm r own 1 s
    else match (List.range 4).find? (fun l => (getLink s l).state = .up) with
      | none => refuseForm r own 7 s
      | some l =>
        if 7 < g then refuseForm r own 8 s
        else
          let s1 := { s with rte := { s.rte with joining := some r } }
          send (getLink s l).peer .joinRequest [own, b2n (is200 s), ownSet s, g, imgField d 8 8] [] [] s1) s)

/-- JOIN_REQUEST (R624, R626): a member sends a lone station's request on to the drover lead, which checks it. -/
def execJoinRequest (station : Fin 64) (variant200 : Bool) (fwSet : Nat) (group : Fin 8) (identity : Nat) (s : State) :
    Host.Outcome State Fault Refusal :=
  let j := station.val
  let rec0 := s.rte.record
  let r : CarRecord := { rec0 with epoch := rec0.epoch + 1, members := rec0.members ||| (1#64 <<< j), groups := Tbl.put 0 rec0.groups j group.val }
  let found := (if (members s).contains j then [(j, 1)] else []) ++ (if variant200 = is200 s then [] else [(j, 2)]) ++
    (if peerListed s fwSet then [] else [(j, 3)]) ++ (if identity = rec0.id then [] else [(j, 7)]) ++ recordCauses r ++
    (if cablingBad s r then [(ownStation s, 5)] else [])
  let o : CarOp := { cmd := none, kind := 1, phase := 0, record := r, joiner := j, found := found }
  .next (if ¬ serving s ∨ ¬ inCaravan s ∨ s.rte.mismatched ∨ j = ownStation s then s
    else if ¬ leads s then
      send (droverLead s) .joinRequest [j, b2n variant200, fwSet, group, identity] [] [] s
    else if s.rte.forming.isSome ∨ s.plc.reconcile then s
    else if (members s).contains j then ackTo j ordRecord 3 j 1 s
    else settleWaits (formCheck o s))

/-- The drover lead begins a Leave (R627): the station leaves, no move goes to it, and its parity pieces get new holders. -/
def leaveBegin (m : Nat) (s : State) : State :=
  let s1 := if stationState s m = 0 ∨ stationState s m = 4 then s
    else { s with rte := { s.rte with states := Tbl.put 0 s.rte.states m 3 } }
  let s2 := await ordLeave m 0 [m] (sendAll .order [ordState, m, stationState s1 m] [] (raise 1072 s1))
  let s3 := (s2.plc.moves.filter (fun x => x.dstStation = m)).foldl (fun s x =>
    (([x.srcStation, x.dstStation].filter (· ≠ ownStation s)).dedup).foldl (fun s y => send y .order [ordMoveDrop, x.nsid, x.bale] [] [] s)
      (dropMove x.nsid x.bale s)) s2
  let held := Tbl.keys (s3.rte.segments.filter (fun e => e.2.holders.contains m))
  let s4 := replaceHolder m s3
  let freed := held.filter (fun g => match getSeg s4 g with | some x => !x.holders.contains m | none => false)
  choosePartner (freed.foldl (fun s g => tellSeg [m] [10, g] s) s4)

/-- A Leave of this station is under way at the drover lead. -/
def leaveRuns (s : State) (m : Nat) : Bool := s.rte.waits.any (fun w => decide (w.code = ordLeave ∧ w.a = m))

/-- CARAVAN_LEAVE (R627, R628). -/
def execCaravanLeave (r : CmdRef) (s : State) : Host.Outcome State Fault Refusal :=
  .next (carCommand r 2 (fun c d s =>
    let m := imgField d 24 1
    let code := s.rte.record.code
    let grp := fun (i : Nat) => Tbl.get 0 s.rte.record.groups i
    if ¬ inCaravan s ∨ ¬ (members s).contains m then failCmd c stField s
    else if (members s).length < 17 ∨ ((members s).filter (fun i => grp i = grp m)).length < codeK code + codeM code + 2 then failCmd c stField s
    else
      let s1 := { s with rte := { s.rte with leaving := some (r, m) } }
      if ¬ leads s then send (droverLead s) .order [ordLeave, m] [] [] s1
      else settleAll (if leaveRuns s m then s1 else leaveBegin m s1)) s)

/-- CARAVAN_DISSOLVE (R629); an action that is none of R622 completes with Invalid Field. -/
def execCaravanDissolve (r : CmdRef) (s : State) : Host.Outcome State Fault Refusal :=
  .next (onAdmin r 0xC2 (fun c s =>
    if 3 < c.sqe.cdw11 % 16 then failCmd c stField s
    else carCommand r 3 (fun c _ s =>
      if ¬ inCaravan s ∨ s.host.namespaces ≠ [] then failCmd c stSequence s
      else
        let o : CarOp := { cmd := some r, kind := 3, phase := 0, record := { CarRecord.lone with epoch := s.rte.record.epoch + 1 }, joiner := 0, found := [] }
        let ms := otherLit s
        let s1 := askAll ms 1 3 ([1, 3, ownStation s] ++ recNums o.record) (some r) { s with rte := { s.rte with forming := some { o with phase := 1 } } }
        settleWaits (writeRecord 3 (ownStation s) o.record s1)) s) s)

/-! Heartbeats (R47, R630 to R632). -/

/-- HEARTBEAT_SEND (R630): to the drover lead, from it to every member. -/
def execHeartbeatSend (s : State) : Host.Outcome State Fault Refusal :=
  .next (if ¬ serving s ∨ ¬ inCaravan s ∨ s.rte.mismatched then s
    else if droverLead s = ownStation s then
      ((members s).filter (· ≠ ownStation s)).foldl (fun s m => send m .heartbeat [ownStation s] [] [] s) s
    else send (droverLead s) .heartbeat [ownStation s] [] [] s)

/-- A member that was absent or has restarted is heard. The drover lead takes it in again; any other station notes that it is Lit, when it had
not been declared absent (R209, R624, R632). -/
def heardFrom (m : Nat) (s : State) : State :=
  let st := stationState s m
  let lit := fun (s : State) => { s with rte := { s.rte with states := Tbl.put 0 s.rte.states m 1 } }
  if st ≠ 0 ∧ st ≠ 4 then s
  else if leads s ∧ (st = 4 ∨ ownStation s < m) then
    let s1 := raise 1072 { s with rte := { s.rte with states := Tbl.put 0 s.rte.states m 2, absent := s.rte.absent &&& ~~~(1#64 <<< m) } }
    if st = 4 then (if s1.plc.reconcile then s1 else giveAll m s1) else askHoldings [m] s1
  else if st = 0 then
    let s1 := lit s
    choosePartner (raise 1072 { s1 with plc := { s1.plc with reconcile := s1.plc.reconcile && decide (droverLead s1 = ownStation s1) } })
  else s

/-- HEARTBEAT (R630). -/
def execHeartbeat (station : Fin 64) (s : State) : Host.Outcome State Fault Refusal :=
  .next (if ¬ serving s ∨ ¬ inCaravan s ∨ s.rte.mismatched ∨ ¬ (members s).contains station.val ∨ station.val = ownStation s then s
    else
      let s1 := { s with rte := { s.rte with lastSeen := Tbl.insert s.rte.lastSeen station s.td17 } }
      settleAll (checkPartition (heardFrom station s1)))

/-- ABSENCE_DECLARED (R630 to R632): 50 ms without the station's heartbeat, or its announcement (`announced`); for a member that has not
rejoined since the caravan resumed, 60 s after that. -/
def execAbsenceDeclared (station : Fin 64) (announced : Bool) (s : State) : Host.Outcome State Fault Refusal :=
  .next (if announced ∧ stationState s station = 0 then s else execAbsenceDeclaredWith settleWaits station s)

/-- CARAVAN_RESUMPTION (R632): a majority of the members is Lit, and the caravan resumes; 60 s later the drover lead declares absent the
members that have not rejoined. -/
def execCaravanResumption (s : State) : Host.Outcome State Fault Refusal :=
  .next (if ¬ serving s ∨ ¬ inCaravan s ∨ s.rte.mismatched ∨ minority s then s
    else match s.rte.resumedAt with
      | none => settleAll (checkPartition { s with rte := { s.rte with resumedAt := some s.td17 } })
      | some _ => ((members s).filter (fun i => stationState s i = 0)).foldl (fun s m => execAbsenceDeclaredWith settleWaits m s) s)

/-! CHARTER_PROPAGATION, HINT_PROPAGATION (R221, R666). -/

/-- CHARTER_PROPAGATION: a member's generation and changed entries. -/
def execCharterPropagation (station : Fin 64) (generation : Nat) (entries : List (Nat × List (BitVec 8))) (s : State) :
    Host.Outcome State Fault Refusal :=
  let old := Tbl.get [] s.chr.peerEntries station.val
  let new := entries.foldl (fun m e => if e.1 < 1024 then Memory.writeBytes m (256 * e.1) (fitBytes 256 e.2) else m) old
  .next (if ¬ serving s ∨ ¬ inCaravan s ∨ ¬ (members s).contains station.val ∨ station.val = ownStation s then s
    else
      ackTo station ordCharter generation 0 0
        { s with chr := { s.chr with peerGen := Tbl.put 0 s.chr.peerGen station (generation % 2 ^ 64), peerEntries := Tbl.put [] s.chr.peerEntries station new } })

/-- HINT_PROPAGATION. -/
def execHintPropagation (station : Fin 64) (nsid value : Nat) (s : State) : Host.Outcome State Fault Refusal :=
  .next (if ¬ serving s ∨ ¬ inCaravan s ∨ station.val = ownStation s then s
    else ackTo station ordHint nsid value 0 (putHint nsid (value % 2 ^ 32) s))

/-! MEMBER_ACKNOWLEDGEMENT. -/

/-- What an acknowledgement does beside ending a wait. -/
def ackEffect (st code a b result : Nat) (s : State) : State :=
  if code = ordFormatStop ∨ code = ordFormatRecord ∨ code = ordFormatApply then
    let step := if code = ordFormatStop then 1 else if code = ordFormatRecord then 3 else 4
    match s.host.format with
    | some o => if o.nsid = a ∧ o.step = step then { s with host := { s.host with format := some { o with acks := o.acks.filter (· ≠ st) } } } else s
    | none => s
  else if code = ordSanEnd then
    match s.host.sanitize with
    | some o => if a = s.host.sanSeq then sanitizeCheck { s with host := { s.host with sanitize := some { o with ended := o.ended.filter (· ≠ st) } } } else s
    | none => s
  else if code = ordPlace then
    let hit := match s.plc.serving with | some o => decide (o.nsid = a ∧ o.bale = b ∧ o.owner = st) | none => false
    if ¬ leads s then s
    else if hit then placedAt a b result s
    else
      let d : DirEntry := { station := st, wing := result % 8, state := 2, blockIx := 0 }
      announceDir a b { d with state := 1 } (rehomeLegs (rehome (putDir a b d s)))
  else if code = ordDir then
    match s.plc.serving with
    | some o =>
      if o.nsid = a ∧ o.bale = b then
        serveNext 4096 (endPlacement { s with plc := { s.plc with serving := some { o with acks := o.acks.filter (· ≠ st) } } })
      else s
    | none => s
  else if code = ordMoveGrains then
    match findMove s a b with
    | some m => if m.dstStation = st then setMove { m with out := m.out - result } s else s
    | none => s
  else if code = ordMoveCommit then
    match findMove s a b with
    | some m =>
      if m.dstStation = st ∧ m.srcStation = ownStation s ∧ m.step = 7 then
        setDir a b { station := st, wing := result % 8, state := 2, blockIx := 0 } (.placed a b) (setMove { m with step := 8, dstWing := result % 8 } s)
      else s
    | none => s
  else if code = ordLeave then (if leads s ∧ leaveRuns s st ∧ a = st then removeMember st s else s)
  else if code = ordCharter then { s with chr := { s.chr with commitAcks := s.chr.commitAcks.filter (· ≠ st) } }
  else if code = ordRecord ∧ a = 3 then
    match s.rte.joining with
    | some r => refuseForm r b result s
    | none => s
  else s

/-- MEMBER_ACKNOWLEDGEMENT: a member's answer to what this station sent: the code of it, two numbers that name it, the result. -/
def execMemberAcknowledgement (station : Fin 64) (code a b result : Nat) (s : State) : Host.Outcome State Fault Refusal :=
  .next (if s.mode.mode = .dark ∨ s.mode.mode = .kindling ∨ s.med.flush.isSome ∨ station.val = ownStation s then s
    else settleWaits (ackEffect station code a b result (noteAck station code a b result s)))

/-! STATION_OPERATION_REQUEST. -/

/-- The owner decides about a command of another station that is to end: 1 its parts are gone, 0 one had taken effect (R580, R583). -/
def abortAtOwner (station : Nat) (r : CmdRef) (why : Nat) (s : State) : State :=
  let mine := s.host.foreign.filter (fun f => f.station = station ∧ f.cmd = r)
  let answer := fun (result : Nat) (s : State) => if why = 2 then s else ackTo station ordAbort (refNum r) why result s
  if mine = [] ∨ mine.any (fun f => f.committed) then answer 0 s
  else
    let s1 := mine.foldl (fun s f =>
      let p : PartRef := { station := station, cmd := r, index := f.part.index }
      let s0 := dropLock p (dropPart p s)
      { s0 with host := { s0.host with foreign := s0.host.foreign.filter (fun g => ¬ (g.station = station ∧ g.cmd = r ∧ g.part.index = f.part.index)) } }) s
    answer 1 (admitForeign s1)

/-- A namespace order: kind, namespace, numbers: 0 create, 1 delete those listed, 2 attach, 3 detach, 4 keep only those listed. -/
def namespaceOrder (st kind nsid : Nat) (l : List Nat) (s : State) : State :=
  let s1 := match kind with
    | 0 => addNs nsid (numsNs l) s
    | 1 => l.foldl (fun s n => deleteNs n s) s
    | 2 => attachNs nsid true l s
    | 3 => attachNs nsid false l s
    | _ => ((Tbl.keys s.host.namespaces).filter (fun n => !l.contains n)).foldl (fun s n => deleteNs n s) s
  ackTo st ordNamespace nsid kind 0 s1

/-- An order about the membership record: phase, kind, subject, then what the phase brings (R623 to R629). -/
def recordOrder (st : Nat) (nums : List Nat) (s : State) : State :=
  let n := listGet 0 nums
  let own := ownStation s
  let joiner := n 2
  match n 0 with
  | 0 =>
    let r := recOf (nums.drop 5)
    let c := if n 1 = 1 ∧ joiner ≠ own then (if cablingBad s r then 5 else 0) else newMemberCause s (decide (n 3 = 1)) r
    ackTo st ordRecord 0 (n 1) (c + 16 * ownSet s) s
  | 2 =>
    let l := nums.drop 3
    let sets := (List.range (l.length / 2)).map (fun i => (listGet 0 l (2 * i), listGet 0 l (2 * i + 1)))
    let look := if n 1 = 1 ∧ joiner ≠ own then sets.filter (fun x => x.1 = joiner) else sets
    let s1 := { s with rte := { s.rte with fwSets := sets.foldl (fun t x => Tbl.put 0 t x.1 x.2) s.rte.fwSets } }
    ackTo st ordRecord 2 (n 1) (if look.all (fun x => peerListed s x.2) then 0 else 3) s1
  | _ =>
    let r := recOf (nums.drop 3)
    let s1 := writeRecord (n 1) joiner r s
    let s2 := if n 1 = 1 ∧ joiner = own then { s1 with rte := { s1.rte with states := (members s1).foldl (fun t i => Tbl.put 0 t i (if i = own then 2 else 1)) [] } } else s1
    ackTo st ordRecord 1 (n 1) 0 s2

/-- A station's state as the drover lead tells it (R627, R630). A station that is told to be a Lit member becomes one once it runs no
sanitize: it holds no bale assigned away from it, and its Join completes (R209, R600, R624). -/
def stateOrder (st m code : Nat) (s : State) : State :=
  let own := ownStation s
  if m = own ∧ code = 1 then
    if s.host.sanitize.isSome then s
    else
      let stale := ((s.med.map.map (fun e => e.1 / 4096)).dedup).filter (fun k => ¬ ownsBale s (k / 2 ^ 32) (k % 2 ^ 32) ∧
        ¬ s.plc.held.any (fun h => h.2.any (fun x => baleKey x.1.nsid x.1.bale = k)))
      let s1 := stale.foldl (fun s k => dropMap (k / 2 ^ 32) (k % 2 ^ 32) s) s
      let s2 := { s1 with rte := { s1.rte with states := Tbl.put 0 s1.rte.states own 1 }, plc := { s1.plc with reconcile := s1.plc.reconcile && decide (own < st) } }
      let s3 := match s2.rte.joining with
        | some r => completeCmd r stOk 0 0 [] { s2 with rte := { s2.rte with joining := none } }
        | none => s2
      choosePartner (ackTo st ordState own 1 0 (raise 1072 s3))
  else if code = 4 then (if m = own ∨ stationState s m = 4 then s else askAgain (absentHere m s))
  else
    let s1 := raise 1072 { s with rte := { s.rte with states := Tbl.put 0 s.rte.states m code, absent := s.rte.absent &&& ~~~(1#64 <<< m) } }
    let s2 := if code = 1 then giveCharter m s1 else s1
    choosePartner (checkPartition (updateRoutes s2))

/-- What a member tells a new drover lead: its bales, its report, its pieces (R210, R637). An unsealed piece is bound anew. -/
def tellHoldings (st : Nat) (s : State) : State :=
  let own := ownStation s
  let s1 := (s.med.dir.filter (fun e => e.2.station = own ∧ (e.2.state = 1 ∨ e.2.state = 3))).foldl (fun s e =>
    send st .dirEntry [e.1 / 2 ^ 32, e.1 % 2 ^ 32, own, e.2.wing, e.2.state] [] [] s) s
  let s2 := sendReport st s1
  let s3 := (s2.rte.pieces.filter (fun p => p.sealed)).foldl (fun s p =>
    send st .order [ordSegment, 3, p.seg - 1, p.pos, p.id, p.versions.length, p.pHolder, p.qHolder, p.group] [] [] s) s2
  let s4 := (s3.rte.pieces.filter (fun p => !p.sealed)).foldl (fun s p =>
    let s0 := send st .order [ordSegment, 0, p.id, p.group] [] [] (setPiece { p with seg := 0, sent := 0 } s)
    if p.closed then send st .order [ordSegment, 1, p.id, p.versions.length] [] [] s0 else s0) s3
  ackTo st ordReconcile 0 0 0 s4

/-- A sealed piece that a new lead learns of: segment, position, piece, versions, holders plus 1, group. -/
def learnPiece (st : Nat) (n : Nat → Nat) (s : State) : State :=
  let g := n 1
  let x : Segment := (getSeg s g).getD { group := n 7, pieces := [], holders := ([n 5, n 6].filter (· ≠ 0)).map (· - 1), opened := s.td17, closed := true,
                                         piecesDone := [], holdersDone := [], sealed := true, lens := [], current := [], recoding := false, recoded := [] }
  let pad := x.pieces ++ List.replicate (n 2 + 1 - x.pieces.length) (st, 0)
  if x.pieces.contains (st, n 3) then s
  else setSeg g { x with pieces := listSet pad (n 2) (st, n 3), piecesDone := x.piecesDone ++ [n 2], lens := Tbl.insert x.lens (n 2) (n 4) } s

/-- An order about pieces and segments: at the lead 0 a piece opens, 1 it closes, 3 a sealed one, 5 7 9 what R640 and R642 need; even numbers
from 2 on go to members. -/
def segmentOrder (st : Nat) (nums : List Nat) (s : State) : State :=
  let n := listGet 0 nums
  match n 0 with
  | 0 =>
    if ¬ leads s then s
    else (match s.rte.segments.find? (fun e => e.2.pieces.contains (st, n 1)) with
      | some e => tellBound e.1 s
      | none => bindPiece st (n 1) (n 2) s)
  | 1 => if leads s then pieceEnds st (n 1) (n 2) s else s
  | 3 => if leads s then learnPiece st n s else s
  | k => if k % 2 = 0 then segMember nums s else if leads s then segLead nums s else s

/-- The destination of a move commits it: the mirrors of its grains are acknowledged, its map entries durable (R200 step 7). -/
def commitMove (nsid bale : Nat) (s : State) : State :=
  let open1 := s.plc.mirrors.any (fun m => !m.acked && m.grains.any (fun g => decide (g.nsid = nsid ∧ g.bale = bale)))
  let coming := (pendingItems s ++ s.med.landed.map (·.1)).any (fun i => decide (i.id.nsid = nsid ∧ i.id.bale = bale))
  match findMove s nsid bale with
  | some m =>
    if m.dstStation ≠ ownStation s ∨ m.step ≠ 3 ∨ open1 ∨ coming then s
    else
      setDir nsid bale { station := ownStation s, wing := m.dstWing, state := 1, blockIx := if m.block = 0 then freeMapBlock s m.dstWing else m.block } (.placed nsid bale)
        (setMove { m with step := 7 } s)
  | none => s

/-- The mirrors that this partner holds for an owner, what an owner learns of its debt from them, and what a new owner of an absent station's bale
gets of them (R194). -/
def partnerOrder (st : Nat) (nums : List Nat) (s : State) : State :=
  let ids := (nums.drop 1)
  let trip := (List.range (ids.length / 3)).map (fun i => ({ nsid := listGet 0 ids (3 * i), bale := listGet 0 ids (3 * i + 1), grain := listGet 0 ids (3 * i + 2) } : GrainId))
  if listGet 0 nums 0 = 1 then
    let held := (Tbl.get [] s.plc.held st).map (·.1)
    send st .order ([ordPartner, 2] ++ held.flatMap (fun g => [g.nsid, g.bale, g.grain])) [] [] s
  else if listGet 0 nums 0 = 3 then
    let mine := (Tbl.get [] s.plc.held (listGet 0 nums 1)).filter (fun x => x.1.nsid = listGet 0 nums 2 ∧ x.1.bale = listGet 0 nums 3)
    if mine = [] then s else send st .rebuildData [listGet 0 nums 2, listGet 0 nums 3] [] mine s
  else
    let known := s.plc.mirrors.flatMap (·.grains)
    let new := trip.filter (fun g => !known.contains g)
    if new = [] then s
    else
      debtCheck { s with plc := { s.plc with
        mirrors := s.plc.mirrors ++ [{ tag := s.plc.nextTag, parts := [], grains := new, bytes := 16384 * new.length, acked := true }]
        nextTag := s.plc.nextTag + 1 } }

/-- A sanitize order: sequence, action, and 1 when a station that returns is told of one that it missed, which it runs by Block Erase
(R595, R600). -/
def sanitizeOrder (st seq action late : Nat) (s : State) : State :=
  if late = 1 then
    if seq ≤ s.host.sanSeq then s
    else
      let s1 := sanitizeBegin 2 seq s
      { s1 with host := { s1.host with sanitize := s1.host.sanitize.map (fun o => { o with ended := [] }) } }
  else
    let s1 := if seq ≤ s.host.sanSeq then s else sanitizeBegin action seq s
    ackTo st ordSanitize seq 0 0 s1

/-- Another station asks about a bale that is Moving: the drover lead for one whose source is absent (`lead`), or the source itself at its Kindling
(R202, R203). -/
def moveAsked (st nsid bale : Nat) (lead : Bool) (s : State) : State :=
  let d := dirEntry s nsid bale
  let tell := fun (s : State) => send st .dirEntry [nsid, bale, d.station, d.wing, d.state] [] [] s
  if lead then ackTo st ordMoveAsk nsid bale 0 (if ownsBale s nsid bale then tell s else s)
  else if d.state = 0 then s else tell s

/-- A bale moves between two other stations (R202). -/
def noteMove (nsid bale src dst : Nat) (s : State) : State :=
  if src = ownStation s ∨ dst = ownStation s ∨ (findMove s nsid bale).isSome then s
  else { s with plc := { s.plc with moves := s.plc.moves ++ [newMove s nsid bale src dst 0] } }

/-- The directory of a caravan that this station joins or rejoins names these bales; every other is Empty (R71). -/
def keepDir (ks : List Nat) (s : State) : State :=
  (s.med.dir.filter (fun e => e.2.state ≠ 0 ∧ ¬ ks.contains e.1)).foldl (fun s e =>
    let n := e.1 / 2 ^ 32
    let b := e.1 % 2 ^ 32
    if ownsBale s n b then setDir n b DirEntry.empty .nothing (dropMap n b s) else putDir n b DirEntry.empty s) s

/-- What a station does on an order of another. -/
def stationOrder (st code : Nat) (nums : List Nat) (bytes : List Byte) (s : State) : State :=
  let n := listGet 0 nums
  let car := inCaravan s
  if code = ordFormatStop then ackTo st code (n 0) 0 0 (formatStop (n 0) s)
  else if code = ordFormatRecord then
    if formatBusy s (n 0) then s else ackTo st code (n 0) 0 0 (progWrite 1 (n 1) 1 (n 0) s.cnt.opSeconds 0 s)
  else if code = ordFormatApply then ackTo st code (n 0) 0 0 (formatApply (n 0) (n 1) (n 2) (decide (n 3 = 1)) (n 4) (decide (n 5 = 1)) s)
  else if code = ordFormatDone then
    match progStarted s 1 with
    | some p => settleAll (formatResume (n 0) (progWrite 1 p.action 2 p.nsid p.start 0 s))
    | none => settleAll (formatResume (n 0) s)
  else if code = ordSanitize then settleAll (sanitizeOrder st (n 0) (n 1) (n 2) s)
  else if code = ordProgImage then ackTo st code (n 0) 0 0 (if n 0 < 64 then setSlot (n 0) { arriving := [], image := some bytes, activated := false } s else s)
  else if code = ordProgActive then
    ackTo st code (n 0) (n 1) 0 (if n 0 < 64 then setSlot (n 0) { progSlot s (n 0) with activated := decide (n 1 = 1) } s else s)
  else if code = ordRecord then settleAll (recordOrder st nums s)
  else if code = ordAbort then settleAll (abortAtOwner st { fn := n 0, sq := n 1, cid := n 2 } (n 3) s)
  else if code = ordNamespace then settleAll (namespaceOrder st (n 0) (n 1) (nums.drop 2) s)
  else if code = ordFwSet then ackTo st code (n 0) 0 (if peerListed s (n 0) then 0 else 1) s
  else if ¬ car then s
  else if code = ordMoveAsk then moveAsked st (n 0) (n 1) (decide (n 2 = 1)) s
  else if code = ordMoveTo then noteMove (n 0) (n 1) (n 2) (n 3) s
  else if code = ordDirKeep then settleAll (keepDir nums s)
  else if code = ordBales then (if (members s).contains st then noteBales st nums s else s)
  else if code = ordRecut then
    let l := nums.drop 5
    settleAll (recutOrder { fn := n 1, sq := n 2, cid := n 3 } (n 0) (n 4) ((List.range (l.length / 2)).map (fun i => (listGet 0 l (2 * i), listGet 0 l (2 * i + 1)))) s)
  else if code = ordPlace then settleAll (if n 2 = 0 then (if ownsBale s (n 0) (n 1) then dirDurable (n 0) (n 1) s else placeLocal (n 0) (n 1) s) else takeOver (n 0) (n 1) (n 2 - 1) s)
  else if code = ordLeave then (if leads s ∧ ¬ leaveRuns s (n 0) ∧ (members s).contains (n 0) then settleAll (leaveBegin (n 0) s) else s)
  else if code = ordPartner then partnerOrder st nums s
  else if code = ordDir then settleAll (streamMove (n 0) (n 1) s)
  else if code = ordMove then settleAll (moveSource (n 0) (n 1) s)
  else if code = ordMoveCommit then settleAll (commitMove (n 0) (n 1) s)
  else if code = ordMoveDrop then settleAll (dropMove (n 0) (n 1) s)
  else if code = ordSegment then settleAll (segmentOrder st nums s)
  else if code = ordReconcile then tellHoldings st s
  else if code = ordState then settleWaits (stateOrder st (n 0) (n 1) s)
  else if code = ordLegLaunch then
    { s with prog := { s.prog with legs := s.prog.legs ++ [legOf st 0 s.prog.nextArrival nums bytes], nextArrival := s.prog.nextArrival + 1 } }
  else if code = ordLegCancel then
    match s.prog.legs.find? (isLeg st (n 0) (n 1)) with
    | some l => if l.state = .running then legEnd l 2 s else settleFn l.fn (legUnstarted l (legRemove l s))
    | none => s
  else s

/-- STATION_OPERATION_REQUEST: an order of another station, its code, numbers and bytes. One that cannot be carried out yet has no effect
until the event comes again. -/
def execStationOperationRequest (station : Fin 64) (code : Nat) (nums : List Nat) (bytes : List (BitVec 8)) (s : State) :
    Host.Outcome State Fault Refusal :=
  .next (if ¬ serving s ∨ station.val = ownStation s then s else stationOrder station code nums bytes s)

end Sys2Proof.Machine
end

