-- ==== Sys2Proof/Machine/Dispatcher.lean ====
section
/-! DEFINITION. The dispatcher's own happenings and its registers (R421 to R445, R334). -/

namespace Sys2Proof.Machine

/-- An event source that waits on a wing's full post queue delivers again (R435). -/
def retryEvent (w : Nat) (s : State) (i : Nat) : State :=
  if ((evtSrc s i).toNat % 2 ^ 32 / 2 ^ 11) % 8 = w then
    let (s1, ns) := deliver i s
    runNotes noteFuel ns s1
  else s

/-- A post of keeper hardware that waits on a wing's full post queue is made again (R435). -/
def retryBacklog (w : Nat) (s : State) (b : Nat × BitVec 32 × Nat) : State :=
  if (b.1 / 2 ^ 11) % 8 = w then
    match postTo b.1 b.2.1 b.2.2 s with
    | (s1, .full, _) => { s1 with prog := { s1.prog with backlog := s1.prog.backlog ++ [b] } }
    | (s1, .posted, ev) => if ev then raise (1048 + w) s1 else s1
    | (s1, .dead, _) => raise (1048 + w) s1
  else { s with prog := { s.prog with backlog := s.prog.backlog ++ [b] } }

/-- Room appeared in a wing's post queue: event sources, hardware posts and stalled sieves go on first, in the order in which they waited, and
every task Stalled on the queue becomes Ready (R408, R423, R435). -/
def postRoom (w : Nat) (s : State) : State :=
  let s1 := s.evt.postWait.foldl (retryEvent w) s
  let s2 := s1.prog.backlog.foldl (retryBacklog w) { s1 with prog := { s1.prog with backlog := [] } }
  let s3 := (List.range 128).foldl (sivRetry false true) s2
  (stalledOn s3 w).foldl (fun s k => makeReady k false s) s3

/-- POST_ENTRY_APPLY (R429, R430, R433): the oldest entry of the wing's post queue. -/
def execPostEntryApply (wing : Fin 8) (s : State) : Host.Outcome State Fault Refusal :=
  let d := getWing s wing
  match d.postQ with
  | [] => .next s
  | e :: rest =>
    let s1 := setWing wing { d with postQ := rest, pqFree := d.pqFree + 1, pqUsed := d.pqUsed - 1 } s
    let s2 := match getTask s1 e.key with
      | some t => if t.incarn = e.incarn then applyFlags e.key e.mask s1 else s1
      | none => s1
    .next (postRoom wing s2)

/-- NEXT_SLOT_LOADED (R421, R422). -/
def execNextSlotLoaded (core : Fin 256) (s : State) : Host.Outcome State Fault Refusal :=
  .next (nextLoadedAt core s)

/-- A task of equal priority is Ready with the core in its affinity (R424). -/
def hasPeer (s : State) (k key prio : Nat) : Bool :=
  (readyList s (k / 32) prio).any (fun x => decide (x ≠ key) && match getTask s x with
    | some y => mayRun y (k % 32) && (decide (y.state = .ready) || decide (y.state = .staged ∧ y.core = k))
    | none => false)

/-- QUANTUM_EXPIRY (R424): the running task of the core has used its time slice. -/
def execQuantumExpiry (core : Fin 256) (s : State) : Host.Outcome State Fault Refusal :=
  if (getWing s (core / 32)).quantum = 0 then .next s
  else match (getCore s core).run with
    | none => .next s
    | some key =>
      match getTask s key with
      | none => .next s
      | some t => if hasPeer s core key t.prio then .next (yieldCore core false s) else .next s

/-- HOLD_PAGE_FILL (R334, R335): a page of the core's running task is filled from its hold image. -/
def execHoldPageFill (core : Fin 256) (page : Fin 64) (s : State) : Host.Outcome State Fault Refusal :=
  match (getCore s core).run with
  | none => .next s
  | some key => .next (setCore core (touchPage (frameOwner s) key page false (getCore s core)).1 s)

/-- WNG_DSP_CTRL.CLR_MAX clears WNG_DSP_WAKE_MAX and WNG_DSP_PQ.HIGH (R444). -/
def clearMax (w : Nat) (s : State) : State := setWing w { getWing s w with wakeMax := 0, pqHigh := 0 } s

/-- WNG_DSP_CTRL.QUANTUM: 0 or 1 to 10,000; others are ignored (R424, R444). -/
def setQuantum (w q : Nat) (s : State) : State := if q ≤ 10000 then setWing w { getWing s w with quantum := q } s else s

/-- CLR_MAX. -/
def execClrMax (wing : Fin 8) (s : State) : Host.Outcome State Fault Refusal := .next (if pfWrites s then clearMax wing s else s)

/-- QUANTUM_WRITE. -/
def execQuantumWrite (wing : Fin 8) (quantum : BitVec 16) (s : State) : Host.Outcome State Fault Refusal :=
  .next (if pfWrites s then setQuantum wing quantum.toNat s else s)

/-- The words of WNG_DSP_TASK_A, B and C for a slot (R445). -/
def taskWords (s : State) (key : Nat) : Word × Word × Word :=
  match getTask s key with
  | none => (0, 0, 0)
  | some t =>
    let core := if t.state = .running ∨ t.state = .staged then t.core % 32 else 0
    let kind := match t.kind with | .thread => 0 | .reduce => 1
    (BitVec.ofNat 64 (handleOf key t * 2 ^ 32 + t.fn * 2 ^ 22 + t.prio * 2 ^ 19 + t.state.code * 2 ^ 16 + kind * 2 ^ 14 +
       core * 2 ^ 8 + t.progSlot % 64),
     BitVec.ofNat 64 (t.waitMask.toNat * 2 ^ 32 + t.flags.toNat),
     BitVec.ofNat 64 (t.affinity.toNat * 2 ^ 32 + b2n t.waitAll))

/-- A WNG_DSP_QUERY write (R445): TABLE 1 names the other table while the dispatcher serves it. What TABLE 1 shows while it does not is
not stated: free values (log entry 3). -/
def queryWrite (w v : Nat) (s : State) : State :=
  let slot := v % 2048
  let d := { getWing s w with query := v % 4096 }
  if v / 2048 % 2 = 0 ∨ servingOther s w then
    let (a, b, c) := taskWords s (2048 * (if v / 2048 % 2 = 1 then w ^^^ 1 else w) + slot)
    setWing w { d with taskA := a, taskB := b, taskC := c } s
  else
    setWing w { d with taskA := Config.freeValue s.free, taskB := Config.freeValue (s.free + 1), taskC := Config.freeValue (s.free + 2) }
      { s with free := s.free + 3 }

/-- WNG_DSP_QUERY. -/
def execWngDspQuery (wing : Fin 8) (value : BitVec 32) (s : State) : Host.Outcome State Fault Refusal :=
  .next (if pfWrites s then queryWrite wing value.toNat s else s)

end Sys2Proof.Machine
end

