-- ==== Sys2Proof/Machine/EvtRows.lean ====
section
/-! DEFINITION. Writes to the event sources and the counters, windows, and the seconds of operation (R776 to R797, R810). -/

namespace Sys2Proof.Machine

/-! The EVT unit (R793 to R797, R810). -/

/-- The fields of an EVT_SRC value are ones that R797 takes. -/
def evtSrcOk (v : Nat) : Bool :=
  match bitsOf v 59 58 with
  | 1 => decide (bitsOf v 42 32 ≤ 2047)
  | 2 => decide (bitsOf v 57 48 ≠ 0 ∧ bitsOf v 42 32 ≤ 63)
  | 3 => decide (v % 2 ^ 32 ≠ 0)
  | _ => true

/-- The fields of an entry that a write sets: all but PENDING and OVERRUN. -/
def evtFields (v : Word) : Word := v &&& ~~~((1#64 <<< 63) ||| (1#64 <<< 60))

/-- An entry with other fields, PENDING and OVERRUN kept; one whose fields break R797 keeps them. -/
def evtPut (i : Nat) (v : Word) (s : State) : State :=
  let e := evtSrc s i
  if evtSrcOk v.toNat then setEvtSrc i (evtFields v ||| (e &&& ~~~(evtFields (~~~0#64)))) s else s

/-- A write of EVT_SRC i: its W1C bits, then its fields (R797). -/
def evtSrcWrite (i : Nat) (v : Word) (s : State) : State :=
  let w1c := v &&& ((1#64 <<< 63) ||| (1#64 <<< 60))
  evtPut i v (setEvtSrc i (evtSrc s i &&& ~~~w1c) s)

/-- EVT_SRC_WRITE. -/
def execEvtSrcWrite (index : Fin 1088) (value : Word) (s : State) : Host.Outcome State Fault Refusal :=
  .next (if pfReach s then evtSrcWrite index value s else s)

/-- Sets MASK_ALL; when it returns to 0, every enabled source with PENDING set delivers once, in the order of the sources (R796). -/
def maskAllSet (m : Bool) (s : State) : State :=
  let s1 := { s with evt := { s.evt with maskAll := m } }
  if m ∨ ¬ s.evt.maskAll then s1
  else (s.evt.src.filter (fun e => e.2.getLsbD 63 && e.2.getLsbD 62)).foldl (fun s e =>
    let d := deliver e.1 s
    runNotes noteFuel d.2 d.1) s1

/-- MASK_ALL. -/
def execMaskAll (mask : Bool) (s : State) : Host.Outcome State Fault Refusal := .next (if pfReach s then maskAllSet mask s else s)

/-- Clears every PENDING and OVERRUN. -/
def evtClear (s : State) : State := s.evt.src.foldl (fun s e => setEvtSrc e.1 (evtFields e.2) s) s

/-- CLR_ALL. -/
def execClrAll (s : State) : Host.Outcome State Fault Refusal := .next (if pfReach s then evtClear s else s)

/-- A write of EVT_CTRL. -/
def evtCtrlWrite (v : Nat) (s : State) : State := maskAllSet (bitOf v 1) (if bitOf v 0 then evtClear s else s)

/-- A write of EVT_INJECT: raises a source as an occurrence would. -/
def evtInjectWrite (v : Nat) (s : State) : State := raise (v % 2 ^ 11) s

/-- EVT_INJECT. -/
def execEvtInject (value : Word) (s : State) : Host.Outcome State Fault Refusal := .next (if pfReach s then evtInjectWrite value.toNat s else s)

/-- A write of EVT_BULK_RANGE: with GO, EVT_BULK_VAL goes into the entries; a range past source 1,087 copies nothing. -/
def evtBulkWrite (v : Nat) (s : State) : State :=
  let first := v % 2 ^ 11
  let n := bitsOf v 42 32
  let s1 := { s with evt := { s.evt with bulkFirst := first, bulkCount := n } }
  if bitOf v 63 ∧ first + n ≤ 1088 then (List.range n).foldl (fun s i => evtPut (first + i) s.evt.bulkVal s) s1 else s1

/-- EVT_BULK_RANGE. -/
def execEvtBulkRange (value : Word) (s : State) : Host.Outcome State Fault Refusal := .next (if pfReach s then evtBulkWrite value.toNat s else s)

/-! The CNT unit (R781, R782, R788 to R790). -/

/-- Latches WINDOW of one die port. -/
def latchPort (s : State) (p : Nat) : State :=
  let b := Tbl.get 0 s.cnt.slots (4096 + 3 * p)
  let n := (b + 2 ^ 64 - Tbl.get 0 s.cnt.portMark p) % 2 ^ 64
  { s with cnt := { s.cnt with slots := Tbl.put 0 s.cnt.slots (4096 + 3 * p + 2) n, portMark := Tbl.put 0 s.cnt.portMark p b } }

/-- WINDOW_END (R781): the window's length has passed. -/
def execWindowEnd (s : State) : Host.Outcome State Fault Refusal :=
  let s1 := (List.range 1024).foldl latchPort s
  .next (if s.mode.mode = .dark then s
    else { s1 with cnt := { s1.cnt with winSeq := (s.cnt.winSeq + 1) % 2 ^ 32, winEndUs := s.td17 / 1000 % 2 ^ 32, winCurrent := s.cnt.winSteps } })

/-- A write of CNT_WIN_CTRL; it takes effect at the end of the window in progress (R782). -/
def winCtrlWrite (v : Nat) (s : State) : State :=
  let n := v % 2 ^ 17
  if n < 1 ∨ 100000 < n then s else { s with cnt := { s.cnt with winSteps := n } }

/-- CNT_WIN_CTRL_WRITE. -/
def execCntWinCtrlWrite (value : Word) (s : State) : Host.Outcome State Fault Refusal := .next (if pfWrites s then winCtrlWrite value.toNat s else s)

/-- Every threshold starts from the present counter values (R788, R789). -/
def smpRestart (s : State) : State :=
  let c := s.cnt
  if ¬ c.smpEnable then s
  else
    { s with cnt := { c with smpBase := (List.range 32).foldl (fun t i =>
        let k := 32 * c.smpWing + i
        Tbl.put 0 t k (Tbl.get 0 c.slots (512 + 6 * k + c.smpCounter))) [] } }

/-- A write of CNT_SMP_CTRL. -/
def smpCtrlWrite (v : Nat) (s : State) : State :=
  if 5 < v % 8 then s
  else smpRestart { s with cnt := { s.cnt with smpCores := BitVec.ofNat 32 (bitsOf v 63 32), smpEnable := bitOf v 31, smpWing := bitsOf v 10 8, smpCounter := v % 8 } }

/-- CNT_SMP_CTRL_WRITE. -/
def execCntSmpCtrlWrite (value : Word) (s : State) : Host.Outcome State Fault Refusal := .next (if pfWrites s then smpCtrlWrite value.toNat s else s)

/-- A write of CNT_SMP_PERIOD. -/
def smpPeriodWrite (v : Nat) (s : State) : State :=
  let n := v % 2 ^ 40
  if n < 1000 then s else smpRestart { s with cnt := { s.cnt with smpPeriod := n } }

/-- CNT_SMP_PERIOD_WRITE. -/
def execCntSmpPeriodWrite (value : Word) (s : State) : Host.Outcome State Fault Refusal := .next (if pfWrites s then smpPeriodWrite value.toNat s else s)

/-- The TAIL of a write of CNT_SMP_RING; one that would pass HEAD is ignored (R790). -/
def smpTailWrite (v : Nat) (s : State) : State :=
  let t := bitsOf v 44 32
  let c := s.cnt
  if (c.smpHead + 8192 - t) % 8192 ≤ (c.smpHead + 8192 - c.smpTail) % 8192 then { s with cnt := { c with smpTail := t } } else s

/-- A write of CNT_SMP_RING; OVERFLOW is W1C, which acts while Extinguished too (R905). -/
def smpRingWrite (v : Nat) (s : State) : State :=
  let s1 := if bitOf v 63 then { s with cnt := { s.cnt with smpOverflow := false } } else s
  if pfWrites s then smpTailWrite v s1 else s1

/-- TAIL_WRITE. -/
def execTailWrite (value : Word) (s : State) : Host.Outcome State Fault Refusal := .next (if pfReach s then smpRingWrite value.toNat s else s)

/-- Clears the whole wrap map. -/
def wrapClear (s : State) : State := { s with cnt := { s.cnt with wrap := [] } }

/-- CLR_WRAP. -/
def execClrWrap (s : State) : Host.Outcome State Fault Refusal := .next (if pfWrites s then wrapClear s else s)

/-- OP_SECONDS_TICK (R785, R535): a second on TD18; MRAM has the count every 16 s. Seconds with an I/O command outstanding count as busy. -/
def execOpSecondsTick (s : State) : Host.Outcome State Fault Refusal :=
  let n := satAdd (2 ^ 40 - 1) s.cnt.opSeconds 1
  let l := s.host.life
  .next (if s.mode.mode = .dark then s
    else
      { s with cnt := { s.cnt with opSeconds := n, opSecondsMram := if n % 16 = 0 ∨ n = 2 ^ 40 - 1 then n else s.cnt.opSecondsMram }
               host := { s.host with life := { l with busySeconds := l.busySeconds + b2n (s.host.out.any (fun c => !c.admin)) } } })

end Sys2Proof.Machine
end

