-- ==== Sys2Proof/Machine/MiRows.lean ====
section
/-! DEFINITION. Management over SMBus, MCTP and in-band messages, and SPDM on the PF's mailbox (R548 to R554, R652, R653). The layouts of
messages are those of the standards that the spec names (log entry 23). -/

namespace Sys2Proof.Machine

/-! NVMe-MI (R552 to R554). -/

/-- Composite Temperature as one byte: degrees Celsius, two's complement below 0. -/
def miTemp (s : State) : Nat :=
  let k := smartTemp s 0
  if k ≤ 213 then 0xC4 else if k < 273 then 256 + k - 273 else min 127 (k - 273)

/-- Status flags: drive functional, reset not required, the PCIe link active. -/
def miFlags (s : State) : Nat :=
  pack [(b2n (s.mode.mode ≠ .extinguished), 5, 1), (1, 4, 1), (b2n s.host.linkUp, 3, 1)]

/-- SMART warnings: 0 for each Critical Warning bit that is set. -/
def miWarnings (s : State) : Nat := 255 - s.host.critWarn.toNat

/-- BASIC_MANAGEMENT_COMMAND (R553, R554): the status block and the identity block; SMB_ALERT# is released. -/
def execBasicManagementCommand (s : State) : Host.Outcome State Fault Refusal :=
  let flags := 128 + 64 * b2n (s.mode.mode ≠ .lit) + miFlags s + 3
  let block := leBytes 1 6 ++ leBytes 1 flags ++ leBytes 1 (miWarnings s) ++ leBytes 1 (miTemp s) ++ leBytes 1 (min 255 (usedPct s)) ++ zeroBytes 2
  let ident := leBytes 1 22 ++ [0x1F, 0x3C] ++ padText 20 s.cfg.serial
  .next (if s.mode.mode = .dark then s else let s1 := miSend (block ++ ident) s; { s1 with host := { s1.host with smbAlert := false } })

/-- An answer: status, 3 bytes of management response, data. -/
def miAnswer (status resp : Nat) (data : List Byte) : List Byte := leBytes 1 status ++ leBytes 3 resp ++ data

/-- Invalid Command Opcode, Invalid Parameter of NVMe-MI. -/
def miBadOpcode : List Byte := miAnswer 3 0 []
def miBadParam : List Byte := miAnswer 4 0 []

/-- Port Information: 0 the PCIe port, 1 the SMBus port. -/
def miPort (s : State) (i : Nat) : Option (List Byte) :=
  if i = 0 then some (fields 32 [(0, [1, 0]), (2, leBytes 2 64), (9, [0x3F]), (10, leBytes 1 (6 * b2n s.host.linkUp)), (11, [8]),
    (12, leBytes 1 (if s.host.linkUp then s.host.linkWidth else 0))])
  else if i = 1 then some (fields 32 [(0, [2, 0]), (2, leBytes 2 64), (10, leBytes 1 (2 * llByte s 7 0 0x1D)), (11, leBytes 1 (if s.host.miFreq = 400 then 2 else 1)),
    (12, [1])])
  else none

/-- A structure of Read NVMe-MI Data Structure: 0 subsystem, 1 port, 2 controller list, 3 controller; an index that names none gives
none. -/
def miStructure (s : State) (kind index : Nat) : Option (List Byte) :=
  match kind with
  | 0 => some (fields 32 [(0, [1, 2, 0])])
  | 1 => miPort s index
  | 2 => some (ctrlListPage ((ownCtrls s).filter (fun c => index ≤ c)))
  | 3 =>
    if (ownCtrls s).contains index then
      some (fields 32 [(5, [1]), (6, leBytes 2 (index % 1024)), (8, leBytes 2 0x1F3C), (10, leBytes 2 (if index % 1024 = 0 then 0x9100 else 0x9101)),
        (12, leBytes 2 0x1F3C), (14, leBytes 2 (subsysId s))])
    else none
  | _ => none

/-- The answer of a Read NVMe-MI Data Structure. -/
def miRead (s : State) (kind index : Nat) : List Byte :=
  match miStructure s kind index with
  | some d => miAnswer 0 d.length d
  | none => miBadParam

/-- READ_NVME_MI_DATA_STRUCTURE. -/
def execReadNvmeMiDataStructure (kind : Fin 4) (index : Nat) (s : State) : Host.Outcome State Fault Refusal :=
  .next (if s.mode.mode = .dark then s else miSend (miRead s kind index) s)

/-- The health of the subsystem: status, warnings, temperature, life used; the composite of controller changes is not stated. -/
def miHealth (s : State) (composite : Nat) : List Byte :=
  miAnswer 0 0 (leBytes 1 (miFlags s) ++ leBytes 1 (miWarnings s) ++ leBytes 1 (miTemp s) ++ leBytes 1 (min 255 (usedPct s)) ++ leBytes 2 composite ++ zeroBytes 2)

/-- The health of a controller; its changes are not stated. -/
def miCtrlHealth (s : State) (f changed : Nat) : List Byte :=
  let c := getCtrl s f
  miAnswer 0 (2 ^ 16) (leBytes 2 (cntlid s f) ++ leBytes 2 (b2n c.rdy + 4 * c.shst) ++ leBytes 2 (smartTemp s 0) ++ leBytes 1 (min 255 (usedPct s)) ++
    leBytes 1 (spareNow s) ++ leBytes 1 s.host.critWarn.toNat ++ leBytes 2 changed ++ zeroBytes 5)

/-- A health poll, of the subsystem or of a function's controller. -/
def miPoll (fn : Option Nat) (s : State) : List Byte × State :=
  let open1 := (Config.freeValue s.free).toNat % 2 ^ 16
  let s1 := { s with free := s.free + 1 }
  match fn with
  | none => (miHealth s open1, s1)
  | some f => if f ≤ totalVfs s then (miCtrlHealth s f open1, s1) else (miBadParam, s)

/-- HEALTH_STATUS_POLL. -/
def execHealthStatusPoll (controller : Option (Fin 1024)) (s : State) : Host.Outcome State Fault Refusal :=
  let a := miPoll (controller.map (·.val)) s
  .next (if s.mode.mode = .dark then s else miSend a.1 a.2)

/-- Configuration Set: 1 the SMBus frequency, 1 for 100 kHz and 2 for 400 kHz; 3 the transmission unit, 64 bytes. -/
def miConfigSet (ident value : Nat) (s : State) : List Byte × State :=
  let ok := miAnswer 0 0 []
  if ident = 1 ∧ value = 1 then (ok, { s with host := { s.host with miFreq := 100 } })
  else if ident = 1 ∧ value = 2 then (ok, { s with host := { s.host with miFreq := 400 } })
  else if ident = 3 ∧ value = 64 then (ok, { s with host := { s.host with miMtu := 64 } })
  else (miBadParam, s)

/-- CONFIGURATION_SET. -/
def execConfigurationSet (ident value : Nat) (s : State) : Host.Outcome State Fault Refusal :=
  let a := miConfigSet ident value s
  .next (if s.mode.mode = .dark then s else miSend a.1 a.2)

/-- Configuration Get. -/
def miConfigGet (ident : Nat) (s : State) : List Byte :=
  if ident = 1 then miAnswer 0 (if s.host.miFreq = 400 then 2 else 1) [] else if ident = 3 then miAnswer 0 s.host.miMtu [] else miBadParam

/-- CONFIGURATION_GET. -/
def execConfigurationGet (ident : Nat) (s : State) : Host.Outcome State Fault Refusal :=
  .next (if s.mode.mode = .dark then s else miSend (miConfigGet ident s) s)

/-- The product data: ordering code, serial number, module identity, date of manufacture. -/
def vpdBytes (s : State) : List Byte :=
  fields 256 [(0, padText 24 (asciiBytes (orderCode s.cfg.variant))), (24, padText 20 s.cfg.serial), (44, leBytes 8 s.cfg.moduleId), (52, leBytes 4 s.cfg.madeDate)]

/-- VPD Read. -/
def miVpd (offset n : Nat) (s : State) : List Byte :=
  if 256 < offset + n then miBadParam else miAnswer 0 0 (((vpdBytes s).drop offset).take n)

/-- VPD_READ. -/
def execVpdRead (offset count : Nat) (s : State) : Host.Outcome State Fault Refusal :=
  .next (if s.mode.mode = .dark then s else miSend (miVpd offset count s) s)

/-- Admin commands that may be tunnelled (R553). -/
def tunnelled (q : Sqe) : Bool := [0x02, 0x06, 0x0A, 0x11].contains q.opc || decide (q.opc = 0x10 ∧ bitsOf q.cdw10 5 3 ≤ 2)

/-- TUNNELLED_ADMIN (R553): the command is outstanding until its own event answers it over MCTP. -/
def execTunnelledAdmin (sqe : Sqe) (s : State) : Host.Outcome State Fault Refusal :=
  let r : CmdRef := { fn := 0, sq := miQueue, cid := sqe.cid }
  let c : OutCmd := { cmd := r, sqe := sqe, gen := s.chr.generation, admin := true, write := false, parts := [], committed := false, silent := false,
                      held := false, data := [], copied := false }
  .next (if s.mode.mode = .dark ∨ s.med.flush.isSome ∨ (findCmd s r).isSome then s
    else if ¬ tunnelled sqe then miSend (miReply stOpcode 0 0 []) s
    else match adminCheck s 0 sqe with
      | some st => miSend (miReply st 0 0 []) s
      | none => addCmd c s)

/-! NVMe-MI Send and Receive (log entry 21). -/

/-- Runs an in-band MI request: opcode, management dwords 0 and 1. -/
def miRun (b : List Byte) (s : State) : List Byte × State :=
  let f := imgField b
  match f 0 1 with
  | 0x00 => (miRead s (f 7 1) (if f 7 1 = 1 then f 6 1 else f 4 2), s)
  | 0x01 => miPoll none s
  | 0x02 => miPoll (if f 4 2 / 1024 = ownStation s then some (f 4 2 % 1024) else some 1024) s
  | 0x03 => miConfigSet (f 4 1) (if f 4 1 = 1 then f 5 1 % 16 else f 8 2) s
  | 0x04 => (miConfigGet (f 4 1) s, s)
  | 0x05 => (miVpd (f 4 2) (f 8 2) s, s)
  | 0x07 => (miAnswer 0 0 [], s)
  | _ => (miBadOpcode, s)

/-- NVME_MI_SEND: the request runs, and its response waits for an NVMe-MI Receive. A Reset acts when the command has completed. -/
def execNvmeMiSend (r : CmdRef) (s : State) : Host.Outcome State Fault Refusal :=
  .next (onAdmin r 0x1D (fun c s =>
    let a := miRun (fitBytes 12 c.sqe.data) s
    let s1 := { a.2 with host := { a.2.host with miPending := Tbl.insert a.2.host.miPending r.fn a.1 } }
    let s2 := completeCmd r stOk 0 0 [] s1
    if imgField c.sqe.data 0 1 = 0x07 then subsystemReset s2 else s2) s)

/-- NVME_MI_RECEIVE: the response of the function's last request; there is none twice. -/
def execNvmeMiReceive (r : CmdRef) (s : State) : Host.Outcome State Fault Refusal :=
  .next (onAdmin r 0x1E (fun c s =>
    match Tbl.find s.host.miPending r.fn with
    | none => failCmd c stSequence s
    | some b => answerData r 0 (fitBytes (adminLen c.sqe) b) { s with host := { s.host with miPending := Tbl.erase s.host.miPending r.fn } }) s)

/-! SPDM (R548, R549, R694, R731). -/

/-- Free bytes: signatures and key shares follow from secrets that are not given. -/
def freeBytes (n : Nat) (s : State) : List Byte × State :=
  ((List.range n).map (fun i => BitVec.ofNat 8 (Config.freeValue (s.free + i)).toNat), { s with free := s.free + n })

/-- 32 random bytes (R695). -/
def randomBytes (s : State) : List Byte × State := (beBytes 32 (Config.random256 s.free).toNat, { s with free := s.free + 1 })

/-- A certificate chain of a slot. -/
def certChain (s : State) (slot : Nat) : Option (List Byte) := if slot = 0 then some Config.deviceChain else Tbl.find s.host.certSlots slot

/-- Certificate slots that hold a chain. -/
def certMask (s : State) : Nat := ((List.range 4).map (fun i => if (certChain s i).isSome then 2 ^ i else 0)).sum

/-- The Light List copy in use. -/
def activeList (s : State) : List Byte :=
  if s.kin.llActive = 0 then s.kin.copyA.getD [] else if s.kin.llActive = 1 then s.kin.copyB.getD [] else []

/-- A measurement's kind and value (R549): digests of SHA-384, but the fused version, the texts and the generation as they are. -/
def measurement (s : State) (i : Nat) : Nat × List Byte :=
  match i with
  | 1 => (0, hashOf 1 Config.bootRom)
  | 2 => (1, hashOf 1 s.kin.image)
  | 3 => (0x87, leBytes 8 s.sec.svn)
  | 4 => (3, hashOf 1 (activeList s))
  | 5 => (0x82, asciiBytes (orderCode s.cfg.variant) ++ asciiBytes "stepping B1")
  | _ => (0x83, leBytes 8 s.chr.generation)

/-- A measurement block. -/
def measureBlock (s : State) (i : Nat) : List Byte :=
  let m := measurement s i
  leBytes 1 i ++ [1] ++ leBytes 2 (m.2.length + 3) ++ leBytes 1 m.1 ++ leBytes 2 m.2.length ++ m.2

/-- Digest over all measurements. -/
def measureSummary (s : State) : List Byte := hashOf 1 ([1, 2, 3, 4, 5, 6].flatMap (measureBlock s))

/-- A response's header. -/
def spdmHead (ver code p1 p2 : Nat) : List Byte := leBytes 1 ver ++ leBytes 1 code ++ leBytes 1 p1 ++ leBytes 1 p2

/-- A message from the mailbox. -/
def spdmSend (b : List Byte) (s : State) : State := { s with host := { s.host with spdmOut := s.host.spdmOut ++ [b] } }

/-- An ERROR response. -/
def spdmError (ver code data : Nat) (s : State) : State := spdmSend (spdmHead ver 0x7F code data) s

/-- The device identity key exists: an alarm erases it until the next Kindling (R694, R731). -/
def canSign (s : State) : Bool := !decide (s.mode.mode = .extinguished ∧ s.mode.reason = 0x05)

/-- Capability flags: CERT, CHAL, signed MEAS, ENCRYPT, MAC, MUT_AUTH, KEY_EX, HBEAT, KEY_UPD, SET_CERT. -/
def spdmFlags : Nat := pack [(1, 1, 1), (1, 2, 1), (2, 3, 2), (1, 6, 1), (1, 7, 1), (1, 8, 1), (1, 9, 1), (1, 13, 1), (1, 14, 1), (1, 19, 1)]

/-- ALGORITHMS: ECDSA P-384, SHA-384, secp384r1, AES-256-GCM. -/
def spdmAlgs (ver : Nat) : List Byte :=
  spdmHead ver 0x63 4 0 ++ leBytes 2 52 ++ [1, 2] ++ leBytes 4 4 ++ leBytes 4 0x80 ++ leBytes 4 2 ++ zeroBytes 12 ++ zeroBytes 4 ++
    [2, 0x20, 0x10, 0, 3, 0x20, 2, 0, 4, 0x20, 0x80, 0, 5, 0x20, 1, 0]

/-- A part of a certificate chain. -/
def spdmCert (ver slot off len : Nat) (s : State) : State :=
  match (if slot < 4 then certChain s slot else none) with
  | none => spdmError ver 0x01 0 s
  | some c =>
    if c.length ≤ off then spdmError ver 0x01 0 s
    else
      let part := (c.drop off).take len
      spdmSend (spdmHead ver 0x02 slot 0 ++ leBytes 2 part.length ++ leBytes 2 (c.length - off - part.length) ++ part) s

/-- CHALLENGE_AUTH. -/
def spdmChallenge (ver slot kind : Nat) (req : List Byte) (s : State) : State :=
  match (if slot < 4 then certChain s slot else none) with
  | none => spdmError ver 0x01 0 s
  | some c =>
    let (nonce, s1) := randomBytes s
    let (sig, s2) := freeBytes 96 s1
    spdmSend (spdmHead ver 0x03 slot (certMask s) ++ hashOf 1 c ++ nonce ++ (if kind = 0 then [] else measureSummary s) ++ zeroBytes 2 ++
      (if ver = 0x13 then fitBytes 8 (req.drop 36) else []) ++ sig) s2

/-- MEASUREMENTS: one block, all, or how many there are; signed when the request asks for it. -/
def spdmMeasure (ver attr index : Nat) (req : List Byte) (s : State) : State :=
  let blocks := if index = 0xFF then [1, 2, 3, 4, 5, 6].flatMap (measureBlock s) else if 1 ≤ index ∧ index ≤ 6 then measureBlock s index else []
  let n := if index = 0xFF then 6 else if index = 0 then 0 else 1
  let signed := bitOf attr 0
  if 6 < index ∧ index ≠ 0xFF ∨ signed ∧ ¬ canSign s then spdmError ver 0x01 0 s
  else
    let (nonce, s1) := randomBytes s
    let (sig, s2) := freeBytes 96 s1
    let context := if ver = 0x13 then fitBytes 8 (req.drop (if signed then 37 else 4)) else []
    spdmSend (spdmHead ver 0x60 (if index = 0 then 6 else 0) 0 ++ leBytes 1 n ++ leBytes 3 blocks.length ++ blocks ++ nonce ++ zeroBytes 2 ++ context ++
      (if signed then sig else [])) (if signed then s2 else s1)

/-- KEY_EXCHANGE_RSP: a session of a number of both sides' halves is being set up; mutual authentication is asked for. -/
def spdmExchange (ver kind : Nat) (req : List Byte) (s : State) : State :=
  let half := s.host.sessions.length + s.host.shaking.length + 1
  let id := imgField req 4 2 + 2 ^ 16 * half
  let (random, s1) := randomBytes s
  let (rest, s2) := freeBytes 240 s1
  let share := rest.take 96
  let s3 := { s2 with host := { s2.host with shaking := s2.host.shaking ++ [id] } }
  spdmSend (spdmHead ver 0x64 0 0 ++ leBytes 2 half ++ [1, 0] ++ random ++ share ++ (if kind = 0 then [] else measureSummary s) ++ zeroBytes 2 ++ rest.drop 96) s3

/-- FINISH_RSP: the session is open; with the requester's signature it is mutually authenticated. -/
def spdmFinish (ver session signed : Nat) (req : List Byte) (s : State) : State :=
  let s1 := { s with host := { s.host with shaking := s.host.shaking.filter (· ≠ session) } }
  if ¬ s.host.shaking.contains session then spdmError ver 0x04 0 s
  else if Config.finishGood session req then
    spdmSend (spdmHead ver 0x65 0 0) { s1 with host := { s1.host with sessions := Tbl.insert s1.host.sessions session (decide (signed % 2 = 1)) } }
  else spdmError ver 0x06 0 s1

/-- A session ends: the debug port locks, and a manager role that was bound to it ends (R551, R653). -/
def endSession (session : Nat) (s : State) : State :=
  match Tbl.find s.host.sessions session with
  | none => s
  | some both =>
    let s1 := { s with host := { s.host with sessions := Tbl.erase s.host.sessions session } }
    let s2 := if s1.host.debugBy = some session then relockDebug s1 else s1
    let others := s2.host.sessions.any (fun e => e.2)
    if both ∧ s2.chr.spdmReq ∧ s2.chr.mgrHeld ∧ ¬ others then roleEnds s2 else s2

/-- SPDM_SESSION_END. -/
def execSpdmSessionEnd (session : Nat) (s : State) : Host.Outcome State Fault Refusal := .next (if s.mode.mode = .dark then s else endSession session s)

/-- A request inside an open session. -/
def spdmInside (ver code p1 p2 session : Nat) (req : List Byte) (s : State) : State :=
  match code with
  | 0xE8 => spdmSend (spdmHead ver 0x68 0 0) s
  | 0xE9 => spdmSend (spdmHead ver 0x69 p1 p2) s
  | 0xEC => endSession session (spdmSend (spdmHead ver 0x6C 0 0) s)
  | _ =>
    let slot := p1 % 16
    if slot = 0 ∨ 3 < slot then spdmError ver 0x01 0 s
    else spdmSend (spdmHead ver 0x6E slot 0) { s with host := { s.host with certSlots := Tbl.insert s.host.certSlots slot (req.drop 4) } }

/-- What the mailbox answers to a request; `session` 0: outside a session. -/
def spdmAnswer (session : Nat) (req : List Byte) (s : State) : State :=
  let f := imgField req
  let ver := f 0 1
  let code := f 1 1
  let p1 := f 2 1
  let p2 := f 3 1
  let inside := decide (session ≠ 0) && (Tbl.find s.host.sessions session).isSome
  if code = 0x84 then spdmSend (spdmHead 0x10 0x04 0 0 ++ [0, 2, 0, 0x12, 0, 0x13]) s
  else if ver ≠ 0x12 ∧ ver ≠ 0x13 then spdmError 0x12 0x41 0 s
  else if code = 0xE1 then
    let (sizes, s1) := freeBytes 9 s
    spdmSend (spdmHead ver 0x61 0 0 ++ [0] ++ sizes.take 1 ++ zeroBytes 2 ++ leBytes 4 spdmFlags ++ sizes.drop 1) s1
  else if code = 0xE3 then spdmSend (spdmAlgs ver) s
  else if code = 0x81 then spdmSend (spdmHead ver 0x01 0 (certMask s) ++ (List.range 4).flatMap (fun i => match certChain s i with | some c => hashOf 1 c | none => [])) s
  else if code = 0x82 then spdmCert ver (p1 % 16) (f 4 2) (f 6 2) s
  else if code = 0x83 then (if canSign s then spdmChallenge ver (p1 % 16) p2 req s else spdmError ver 0x05 0 s)
  else if code = 0xE0 then spdmMeasure ver p1 p2 req s
  else if code = 0xE4 then (if canSign s then spdmExchange ver p1 req s else spdmError ver 0x05 0 s)
  else if code = 0xE5 then spdmFinish ver session p1 req s
  else if code = 0xE8 ∨ code = 0xE9 ∨ code = 0xEC ∨ code = 0xEE then (if inside then spdmInside ver code p1 p2 session req s else spdmError ver 0x04 0 s)
  else spdmError ver 0x07 code s

/-- The mailbox of the PF is reached. -/
def mailbox (s : State) : Bool := decide (s.mode.mode ≠ .dark) && s.host.linkUp && !(getCtrl s 0).d3

/-- SPDM_REQUEST. -/
def execSpdmRequest (session : Nat) (request : List (BitVec 8)) (s : State) : Host.Outcome State Fault Refusal :=
  .next (if mailbox s then spdmAnswer session request s else s)

/-- IDE_KM (R550): stream 0 the link's, 1 to 4 selective ones. -/
def execIdeKm (session stream : Nat) (key : BitVec 256) (s : State) : Host.Outcome State Fault Refusal :=
  .next (if ¬ mailbox s ∨ (Tbl.find s.host.sessions session).isNone ∨ 4 < stream then s
    else { s with host := { s.host with ideKeys := Tbl.insert s.host.ideKeys stream key } })

/-- DEBUG_UNLOCK (R551). -/
def execDebugUnlock (session : Nat) (chain : List (BitVec 8)) (s : State) : Host.Outcome State Fault Refusal :=
  .next (if mailbox s ∧ Tbl.find s.host.sessions session = some true ∧ Config.serviceChain chain then
      logOcc 0x5002 1067 (leBytes 4 session) { s with host := { s.host with debugBy := some session } }
    else s)

end Sys2Proof.Machine
end

