-- ==== Sys2Proof/Machine/RegMap.lean ====
section
/-! DEFINITION. The register map: which offsets of PF BAR0 hold a unit register, of which width (R899 to R902, R907, R908); the memory
arrays (R900) and the status window of a VF (R909) as they read. -/

namespace Sys2Proof.Machine

/-- Registers of one kind: offset of the first, instances, stride, and whether they are 64 bits wide. -/
structure RegRun where
  first : Nat
  count : Nat
  stride : Nat
  wide : Bool
deriving DecidableEq, Repr

/-- Registers one slot after the other. -/
def slots (first count : Nat) (wide : Bool) : RegRun := { first := first, count := count, stride := 8, wide := wide }

/-- Registers with a stride of their own. -/
def spaced (first count stride : Nat) (wide : Bool) : RegRun := { first := first, count := count, stride := stride, wide := wide }

/-- The registers of unit u, by offset from its base; for DRM, WNG and CMP those of one wing. -/
def unitRuns (u : Nat) : List RegRun :=
  match u with
  | 0 => [slots 0x00 1 false, slots 0x08 8 true, slots 0x48 1 false, slots 0x50 1 true, slots 0x58 1 false, slots 0x60 3 true,
      slots 0x78 1 false, slots 0x80 32 true]
  | 1 => [slots 0x00 1 true, slots 0x08 1 false, slots 0x10 2 true, slots 0x20 2 false, slots 0x30 2 true, slots 0x40 1 false,
      slots 0x48 1 true, slots 0x50 1 false, slots 0x58 1 true, slots 0x60 2 false, slots 0x70 2 true]
  | 2 => [slots 0x00 1088 true, slots 0x4000 1 false, slots 0x4008 1 true, slots 0x4010 2 false, slots 0x4020 1 true,
      slots 0x4028 1 false, slots 0x4030 3 true, slots 0x4080 7 true]
  | 3 => [slots 0x00 2 false, slots 0x10 14 true, slots 0x200 64 true, slots 0x400 128 true, slots 0x1000 1536 true, slots 0x8000 3072 true]
  | 4 => [slots 0x00 1 false, slots 0x08 2 true, slots 0x18 1 false, slots 0x20 2 true, slots 0x30 1 false, slots 0x38 1 true,
      slots 0x40 3 false, slots 0x58 1 true]
  | 5 => [slots 0x00 1 false, slots 0x08 3 true, slots 0x20 2 false, slots 0x30 2 true, slots 0x100 94 false,
      spaced 0x800 8 0x20 false, spaced 0x808 8 0x20 true, spaced 0x810 8 0x20 true, spaced 0x818 8 0x20 false]
  | 6 => [slots 0x00 1 false, slots 0x08 4 true, slots 0x28 1 false, slots 0x30 1 true, slots 0x38 1 false, slots 0x40 8 true]
  | 7 => [slots 0x00 12 true, slots 0x100 1 false, slots 0x108 1 true, slots 0x110 1 false, slots 0x140 9 false]
  | 8 => [slots 0x00 16 true, slots 0x100 1 false, slots 0x108 1 true, slots 0x140 2 false]
  | 9 => [slots 0x00 8 true, slots 0x100 64 true]
  | 10 => [slots 0x00 4 true, slots 0x20 2 true, slots 0x100 10 true, spaced 0x400 16 0x10 false, spaced 0x408 16 0x10 true,
      spaced 0x800 16 0x20 false, spaced 0x808 16 0x20 true, spaced 0x810 16 0x20 false, spaced 0x818 16 0x20 true]
  | 11 => [slots 0x00 1 false, slots 0x08 2 true, slots 0x18 2 false, slots 0x28 26 true, slots 0xF8 2 false, slots 0x108 1 true,
      slots 0x110 1 false, slots 0x118 3 true, slots 0x130 1 false, slots 0x138 3 true, slots 0x150 1 false, slots 0x158 5 true]
  | 12 => [slots 0x00 1 false, slots 0x08 1 true, slots 0x10 1 false, slots 0x18 1 true, slots 0x20 2 false, slots 0x30 2 true,
      spaced 0x100 8 0x20 false, spaced 0x108 8 0x20 false, spaced 0x110 8 0x20 false, spaced 0x1000 128 0x20 true,
      spaced 0x1008 128 0x20 true, spaced 0x1010 128 0x20 false, spaced 0x1018 128 0x20 true]
  | 13 => [spaced 0x00 128 0x10 false, spaced 0x08 128 0x10 true]
  | 14 => [slots 0x00 1 false, slots 0x08 1 true, slots 0x10 2 false, slots 0x20 1 true, slots 0x28 1 false, slots 0x30 1 true,
      slots 0x38 1 false, slots 0x40 3 true, slots 0x58 5 false, slots 0x100 16 true]
  | 15 => [slots 0x00 6 true, slots 0x100 3 false, slots 0x118 3 true]
  | 16 => [slots 0x00 1 false, slots 0x08 1 true, slots 0x10 1 false, slots 0x18 13 true, spaced 0x100 4 0x80 true,
      spaced 0x108 4 0x80 true, slots 0x140 8 false, slots 0x1C0 8 false, slots 0x240 8 false, slots 0x2C0 8 false, slots 0x400 64 true]
  | 17 => [slots 0x00 1 false, slots 0x08 1 true, slots 0x10 2 false, slots 0x20 1 true, slots 0x28 1 false, slots 0x30 2 true,
      slots 0x100 16 true, slots 0x200 8 false]
  | _ => []

/-- Stride of the wings of a unit that has a block of registers for each, 0 for the others (R899). -/
def unitStride (u : Nat) : Nat := if u = 11 ∨ u = 14 then 0x10000 else if u = 15 then 0x1000 else 0

/-- Registers of unit u. -/
def unitCount (u : Nat) : Nat := ((unitRuns u).map (·.count)).sum * (if unitStride u = 0 then 1 else 8)

/-- A run holds an offset. -/
def inRun (o : Nat) (r : RegRun) : Bool := decide (r.first ≤ o) && decide ((o - r.first) % r.stride = 0) && decide ((o - r.first) / r.stride < r.count)

/-- The width of the unit register at a slot's offset: some true for 64 bits, some false for 32, none where no register is. -/
def regWide (off : Nat) : Option Bool :=
  match unitOf off with
  | none => none
  | some u =>
    let o := off - (unitRow u).1
    let st := unitStride u
    if st ≠ 0 ∧ 8 ≤ o / st then none
    else ((unitRuns u).find? (inRun (if st = 0 then o else o % st))).map (·.wide)

/-! Memory arrays (R900). -/

/-- A word of an array at a multiple of 8, as it reads; none outside the arrays. -/
def arrayRead (s : State) (off : Nat) : Option Nat :=
  if 0x240000 ≤ off ∧ off < 0x280000 then some (leNat (Memory.readBytes s.chr.staging (off - 0x240000) 8))
  else if 0x280000 ≤ off ∧ off < 0x2C0000 then some (leNat (Memory.readBytes s.chr.active (off - 0x280000) 8))
  else if 0x470000 ≤ off ∧ off < 0x470380 then
    some (bitSet ((List.range 64).filter (fun i => Tbl.get false s.cnt.wrap (8 * (off - 0x470000) + i))))
  else if 0x480000 ≤ off ∧ off < 0x490000 then
    let e := (Tbl.get 0 s.cnt.ring ((off - 0x480000) / 16)).toNat
    some (if off % 16 = 0 then e % 2 ^ 64 else e / 2 ^ 64)
  else if 0x490000 ≤ off ∧ off < 0x498000 then some (Tbl.get 0 s.cnt.fns ((off - 0x490000) / 8))
  else none

/-- The status window of a VF (R909). -/
def vfWindow (s : State) (fn off : Nat) : Nat :=
  let flags := Memory.read s.chr.active (256 * fn)
  let own := flags.getLsbD 4 || flags.getLsbD 5
  if off = 0x6000 then mscState s
  else if off = 0x6008 then s.chr.generation
  else if off = 0x6010 then pack [(cntlid s fn, 16, 16), (ownStation s, 10, 6), (fn, 0, 10)]
  else if off = 0x6018 then (fnMode s fn).code
  else if 0x6020 ≤ off ∧ off < 0x6040 ∧ off % 8 = 0 then if own then Tbl.get 0 s.cnt.fns (4 * fn + (off - 0x6020) / 8) else 0
  else if off = 0x6040 then s.td17 % 2 ^ 64
  else 0

end Sys2Proof.Machine
end

