-- ==== Sys2Proof/Machine/RegRows.lean ====
section
/-! DEFINITION. The manager role and the charter staging copy (R652 to R654), the function manager's bits, and host writes to the
registers of BAR0 as a whole: by a unit's own rules, or as two halves (R6 to R10, R900 to R906, R911). -/

namespace Sys2Proof.Machine

/-! CHT and VFM (R652 to R654, R675, R686). -/

/-- CHT_MGR.CLAIM (R652). -/
def claimRole (s : State) : State :=
  if s.chr.mgrHeld ∨ (s.chr.spdmReq ∧ ¬ s.host.sessions.any (fun e => e.2)) then s else { s with chr := { s.chr with mgrHeld := true } }

/-- CLAIM; also while Extinguished (R905). -/
def execClaim (s : State) : Host.Outcome State Fault Refusal := .next (if pfReach s then claimRole s else s)

/-- CHT_MGR.RELEASE (R653). -/
def releaseRole (s : State) : State := if s.chr.mgrHeld then roleEnds s else s

/-- RELEASE. -/
def execRelease (s : State) : Host.Outcome State Fault Refusal := .next (if pfReach s then releaseRole s else s)

/-- Replaces the staging copy while a manager holds the role (R654). -/
def setStaging (m : Memory) (s : State) : State := if s.chr.mgrHeld then { s with chr := { s.chr with staging := m } } else s

/-- STAGE_CLEAR. -/
def execStageClear (s : State) : Host.Outcome State Fault Refusal := .next (if pfWrites s then setStaging [] s else s)

/-- STAGE_COPY. -/
def execStageCopy (s : State) : Host.Outcome State Fault Refusal := .next (if pfWrites s then setStaging s.chr.active s else s)

/-- `n` bytes of the staging copy. -/
def stagingPut (o n v : Nat) (s : State) : State := setStaging (Memory.writeBytes s.chr.staging o (leBytes n v)) s

/-- CHARTER_STAGING_WRITE: an 8-byte word (R654, R900). -/
def execCharterStagingWrite (offset : Fin 32768) (value : Word) (s : State) : Host.Outcome State Fault Refusal :=
  .next (if pfWrites s then stagingPut (8 * offset) 8 value.toNat s else s)

/-- RESTORE_ABORT: a partly received image is discarded (R686). -/
def execRestoreAbort (s : State) : Host.Outcome State Fault Refusal := .next (if pfWrites s then dropImage s else s)

/-- VFM_CTRL.CLR_UNQ clears VFM_UNQ_RESET (R675). -/
def clearUnq (s : State) : State := { s with chr := { s.chr with unqCount := 0, unqLast := 0 } }

/-- CLR_UNQ. -/
def execClrUnq (s : State) : Host.Outcome State Fault Refusal := .next (if pfWrites s then clearUnq s else s)

/-! CMP_CTRL and RTE_CFG (R501, R651). -/

/-- CMP_CTRL: THRESH_PCT outside 50 to 100 leaves both fields unchanged. -/
def cmpCtrlWrite (w v : Nat) (s : State) : State :=
  let t := v % 128
  if t < 50 ∨ 100 < t then s else setCmp w { getCmp s w with progShare := bitsOf v 10 8, threshPct := t } s

/-- CMP_CTRL_WRITE. -/
def execCmpCtrlWrite (wing : Fin 8) (value : Word) (s : State) : Host.Outcome State Fault Refusal :=
  .next (if pfWrites s then cmpCtrlWrite wing value.toNat s else s)

/-- RTE_CFG: a field outside its range leaves both unchanged. -/
def rteCfgWrite (v : Nat) (s : State) : State :=
  let p := bitsOf v 23 16
  let g := bitsOf v 15 12
  if p < 10 ∨ 90 < p ∨ g < 1 ∨ 8 < g then s else { s with rte := { s.rte with recodePct := p, rebuildGbps := g } }

/-- RTE_CFG_WRITE. -/
def execRteCfgWrite (value : Word) (s : State) : Host.Outcome State Fault Refusal := .next (if pfWrites s then rteCfgWrite value.toNat s else s)

/-! A write to a register of each unit: its W1C bits always, the rest while `ok` (R905). -/

/-- A sticky bit after a write of v. -/
def w1c (b : Bool) (v i : Nat) : Bool := b && !bitOf v i

/-- MSC (R907). -/
def wrMsc (ok : Bool) (o v : Nat) (s : State) : State :=
  if o = 0x68 then { s with host := { s.host with fullSeen := w1c s.host.fullSeen v 63 } }
  else if o = 0x78 then setLocate v s
  else if 0xB0 ≤ o ∧ o < 0xF0 then { s with mode := { s.mode with scratch := Tbl.put 0 s.mode.scratch ((o - 0xB0) / 8) (BitVec.ofNat 64 v) } }
  else if ¬ ok then s
  else if o = 0x40 then rclWeightWrite v s
  else if o = 0x48 then rclCtrlWrite v s
  else if o = 0x50 then plcWeightWrite v s
  else if o = 0x58 then plcCtrlWrite v s
  else s

/-- CHT. -/
def wrCht (ok : Bool) (o v : Nat) (s : State) : State :=
  if o = 0x08 then
    let s1 := if bitOf v 0 then claimRole s else s
    if bitOf v 1 then releaseRole s1 else s1
  else if o = 0x10 then { s with chr := { s.chr with refused := w1c s.chr.refused v 62 } }
  else if o = 0x30 then { s with chr := { s.chr with denied := w1c s.chr.denied v 63 } }
  else if ¬ ok then s
  else if o = 0x20 then
    let s1 := if bitOf v 1 then setStaging [] s else s
    if bitOf v 0 then setStaging s1.chr.active s1 else s1
  else if o = 0x40 then { s with chr := { s.chr with peerSel := v % 64 } }
  else if o = 0x50 then { s with chr := { s.chr with entrySel := v % 1024 } }
  else s

/-- EVT, which writes reach while Extinguished too. -/
def wrEvt (o v : Nat) (s : State) : State :=
  if o < 0x2200 then evtSrcWrite (o / 8) (BitVec.ofNat 64 v) s
  else if o = 0x4000 then evtCtrlWrite v s
  else if o = 0x4008 then { s with evt := { s.evt with routeFail := w1c s.evt.routeFail v 63 } }
  else if o = 0x4018 then if v % 32 ≤ 16 then { s with evt := { s.evt with pendSel := v % 32 } } else s
  else if o = 0x4028 then evtInjectWrite v s
  else if o = 0x4030 then { s with evt := { s.evt with bulkVal := evtFields (BitVec.ofNat 64 v) } }
  else if o = 0x4038 then evtBulkWrite v s
  else s

/-- CNT. -/
def wrCnt (ok : Bool) (o v : Nat) (s : State) : State :=
  if o = 0x28 then smpRingWrite v s
  else if ¬ ok then s
  else if o = 0x00 then if bitOf v 0 then wrapClear s else s
  else if o = 0x08 then winCtrlWrite v s
  else if o = 0x18 then smpCtrlWrite v s
  else if o = 0x20 then smpPeriodWrite v s
  else s

/-- LOG. -/
def wrLog (ok : Bool) (o v : Nat) (s : State) : State :=
  if o = 0x38 then { s with log := { s.log with lostSeen := w1c s.log.lostSeen v 63 } }
  else if o = 0x58 then logMark v s
  else if ok ∧ o = 0x48 then { s with log := { s.log with listSel := v % 16 } }
  else s

/-- HK. -/
def wrHk (ok : Bool) (o v : Nat) (s : State) : State :=
  let p := s.pwr
  if o = 0x00 then { s with pwr := { p with voteSeen := w1c p.voteSeen v 31, brokenSeen := w1c p.brokenSeen v 30 } }
  else if o = 0x08 then { s with pwr := { p with underSeen := w1c p.underSeen v 63, overSeen := w1c p.overSeen v 62 } }
  else if 0x800 ≤ o ∧ o < 0x900 ∧ o % 32 = 24 then
    let w := (o - 0x800) / 32
    let x := wingPwr s w
    let s1 := setWingPwr w { x with shortSeen := w1c x.shortSeen v 31 } s
    if ok ∧ bitOf v 30 then clearMin w s1 else s1
  else if ok ∧ o = 0x20 ∧ bitOf v 0 then checkNow s
  else s

/-- LL. -/
def wrLl (o v : Nat) (s : State) : State :=
  if o = 0x20 then { s with kin := { s.kin with llDone := w1c s.kin.llDone v 63, llFail := w1c s.kin.llFail v 62 } } else s

/-- SEAL, DIG: the PF's context and the two breaks. -/
def wrSeal (o v : Nat) (s : State) : State := if o = 0x100 then sealBreakWrite v s else if o < 0x100 then sealWrite 0 o v s else s
def wrDig (o v : Nat) (s : State) : State := if o = 0x100 then digBreakWrite v s else if o < 0x100 then digWrite 0 o v s else s

/-- BCN: the PF's context, the tables' configuration, the banks' sticky bits. -/
def wrBcn (ok : Bool) (o v : Nat) (s : State) : State :=
  if 0x800 ≤ o ∧ o < 0xA00 ∧ (o % 32 = 16 ∨ o % 32 = 24) then
    let i := (o - 0x800) / 32
    let b := Tbl.get BcnBank.reset s.bcn.banks i
    let b1 := if o % 32 = 16 then { b with sieveWait := w1c b.sieveWait v 31, progWait := w1c b.progWait v 30 }
      else { b with mismatch := w1c b.mismatch v 63, lost := w1c b.lost v 62 }
    { s with bcn := { s.bcn with banks := Tbl.put BcnBank.reset s.bcn.banks i b1 } }
  else if ¬ ok then s
  else if o = 0x20 then bcnGo 0 s
  else if o = 0x140 then bcnCommand 0 (v % 16) s
  else if o < 0x400 then setBcnCtx 0 (bcnSetWord (bcnCtx s 0) o v) s
  else if o < 0x500 ∧ o % 16 = 0 then
    let t := (o - 0x400) / 16
    setBcnTable t { bcnTable s t with cfgBanks := BitVec.ofNat 16 (bitsOf v 31 16), progShare := bitsOf v 14 12, cfgHole := bitsOf v 11 10, cfgWidth := bitsOf v 9 8 } s
  else s

/-- DRM of wing w; DRM_STATUS holds W1C bits alone. -/
def wrDrm (ok : Bool) (w o v : Nat) (s : State) : State := if ok ∨ o = 0x08 then drmWrite w o v s else s

/-- MED. -/
def wrMed (ok : Bool) (o v : Nat) (s : State) : State :=
  if o = 0x28 then { s with med := { s.med with jrnSticky := w1c s.med.jrnSticky v 31 } }
  else if ok ∧ o = 0x10 then fcCtrlWrite v s
  else s

/-- SIV of a channel. -/
def wrSiv (ch o v : Nat) (s : State) : State :=
  let c := getSiv s ch
  if o = 0 then setSiv ch { c with malWrapped := w1c c.malWrapped v 31 } s else s

/-- WNG of wing w. -/
def wrWng (ok : Bool) (w o v : Nat) (s : State) : State :=
  let d := getWing s w
  if o = 0x18 then setWing w { d with fullSeen := w1c d.fullSeen v 31 } s
  else if o = 0x28 then setWing w { d with stallCls := d.stallCls &&& ~~~(BitVec.ofNat 6 v) } s
  else if o = 0x30 then setWing w { d with dropped := w1c d.dropped v 63 } s
  else if ¬ ok then s
  else if o = 0x00 then
    let s1 := setQuantum w (v % 2 ^ 16) s
    if bitOf v 16 then clearMax w s1 else s1
  else if o = 0x38 then queryWrite w v s
  else if o = 0x68 then setWing w { d with fnSel := v % 1024 } s
  else s

/-- CMP of wing w; a write of CMP_J_LEN through here meets no mismatch of R482, which its own rows carry. -/
def wrCmp (ok : Bool) (w o v : Nat) (s : State) : State :=
  if o = 0x110 then setCmp w { getCmp s w with failSeen := w1c (getCmp s w).failSeen v 31 } s
  else if ¬ ok then s
  else if o = 0x100 then cmpCtrlWrite w v s
  else if o < 0x100 then jobWrite 0 w o v false s
  else s

/-- RTE. -/
def wrRte (ok : Bool) (o v : Nat) (s : State) : State :=
  if o = 0x18 then { s with rte := { s.rte with refuseSeen := w1c s.rte.refuseSeen v 61 } }
  else if ¬ ok then s
  else if o = 0x10 then rteCfgWrite v s
  else if 0x100 ≤ o ∧ o < 0x300 ∧ o % 128 = 0 ∧ bitOf v 63 then retrainBit ((o - 0x100) / 128) s
  else s

/-- VFM. -/
def wrVfm (o v : Nat) (s : State) : State :=
  if o = 0x00 then
    let s1 := if bitOf v 0 then dropImage s else s
    if bitOf v 1 then clearUnq s1 else s1
  else if o = 0x10 then { s with chr := { s.chr with vfmSel := v % 1024 } }
  else s

/-- A write of v to unit u at an offset in it. -/
def unitPut (ok : Bool) (u o v : Nat) (s : State) : State :=
  match u with
  | 0 => wrMsc ok o v s
  | 1 => wrCht ok o v s
  | 2 => wrEvt o v s
  | 3 => wrCnt ok o v s
  | 4 => wrLog ok o v s
  | 5 => wrHk ok o v s
  | 6 => wrLl o v s
  | 7 => if ok then wrSeal o v s else s
  | 8 => if ok then wrDig o v s else s
  | 9 => if ok ∨ o = 0x38 then keyWrite o v s else s
  | 10 => wrBcn ok o v s
  | 11 => wrDrm ok (o / 0x10000) (o % 0x10000) v s
  | 12 => wrMed ok o v s
  | 13 => wrSiv (o / 16) (o % 16) v s
  | 14 => wrWng ok (o / 0x10000) (o % 0x10000) v s
  | 15 => wrCmp ok (o / 0x1000) (o % 0x1000) v s
  | 16 => wrRte ok o v s
  | 17 => if ok then wrVfm o v s else s
  | _ => s

/-- The PF writes a unit register whole; a 32-bit register takes the low half (R901, R902). -/
def regWrite (off v : Nat) (s : State) : State :=
  match regWide off, unitOf off with
  | some wide, some u => unitPut (pfWrites s) u (off - (unitRow u).1) (if wide then v else v % 2 ^ 32) s
  | _, _ => s

/-- The PF writes `n` bytes of an array, 4 or 8, at a multiple of `n`: the staging copy and the wrap map take writes (R654, R900);
the wrap map is W1C. -/
def arrayWrite (off n v : Nat) (s : State) : State :=
  if 0x240000 ≤ off ∧ off < 0x280000 then if pfWrites s then stagingPut (off - 0x240000) n v s else s
  else if 0x470000 ≤ off ∧ off < 0x470380 then
    { s with cnt := { s.cnt with wrap := s.cnt.wrap.filter (fun e => !(decide (e.1 / (8 * n) = (off - 0x470000) / n) && bitOf v (e.1 % (8 * n)))) } }
  else s

/-! The registers and structures below the units (R509, R510). -/

/-- A write to the MSI-X table: 8 bytes of an entry. A vector that becomes unmasked with its pending bit set sends its message. -/
def msixPut (fn o v : Nat) (s : State) : State :=
  let c := getCtrl s fn
  let n := o / 16
  let old := (Tbl.get 0 c.msix n).toNat
  let new := if o % 16 = 0 then old / 2 ^ 64 * 2 ^ 64 + v else old % 2 ^ 64 + v * 2 ^ 64
  let fire := !bitOf new 96 && Tbl.get false c.pba n
  let s1 := setCtrl fn { c with msix := Tbl.put 0 c.msix n (BitVec.ofNat 128 new), pba := if fire then Tbl.put false c.pba n false else c.pba } s
  if fire then sendMsix fn n s1 else s1

/-- A write of CC: enable, reset and shutdown by the bits that change (R37, R588, R913). -/
def ccPut (fn v : Nat) (s : State) : State :=
  let c := getCtrl s fn
  if bitOf v 0 ∧ ¬ c.en then ctrlEnable fn v c.aqa c.asq c.acq s
  else if ¬ bitOf v 0 ∧ c.en then controllerReset fn s
  else ctrlNotify fn (bitsOf v 15 14) s

/-- A write to the NVMe controller registers: INTMS, INTMC, CC; AQA, ASQ and ACQ while the controller is disabled. -/
def nvmePut (fn o v : Nat) (s : State) : State :=
  let c := getCtrl s fn
  match o with
  | 0x0C => setCtrl fn { c with intms := Nat.lor c.intms (v % 2 ^ 32) } s
  | 0x10 => setCtrl fn { c with intms := Nat.land c.intms (2 ^ 32 - 1 - v % 2 ^ 32) } s
  | 0x14 => ccPut fn (v % 2 ^ 32) s
  | 0x24 => if c.en then s else setCtrl fn { c with aqa := v % 2 ^ 32 } s
  | 0x28 => if c.en then s else setCtrl fn { c with asq := v } s
  | 0x30 => if c.en then s else setCtrl fn { c with acq := v } s
  | _ => s

/-- A write to the part of BAR0 that every function has; `base` and `last` place its MSI-X table. -/
def lowPut (fn base last off v : Nat) (s : State) : State :=
  if off < 0x1000 then nvmePut fn off v s
  else if (off - 0x1000) / 8 ≤ doorbellLimit fn ∧ off % 4 = 0 then
    if off % 8 = 0 then sqDoorbell fn ((off - 0x1000) / 8) (v % 2 ^ 16) s else cqDoorbell fn ((off - 0x1000) / 8) (v % 2 ^ 16) s
  else if base ≤ off ∧ off < last ∧ off % 8 = 0 then msixPut fn (off - base) v s
  else s

/-- REGISTER_WRITE: a function's host writes BAR0. The PF's unit registers and arrays take an 8-byte access at a slot's offset; the
parts below take the width of their register (R509, R510, R900 to R902). A VF's status window ignores writes (R909). -/
def execRegisterWrite (fn : Fin 1024) (offset : Nat) (value : Word) (s : State) : Host.Outcome State Fault Refusal :=
  .next (if ¬ fnReach s fn then s
    else if fn.val ≠ 0 then lowPut fn 0x4000 0x4400 offset value.toNat s
    else if offset < 0x100000 then lowPut 0 0xC0000 0xC8000 offset value.toNat s
    else if offset % 8 ≠ 0 then s
    else if (arrayRead s offset).isSome then arrayWrite offset 8 value.toNat s
    else regWrite offset value.toNat s)

/-! Accesses of 4 bytes (R9, R10, R902, R911). -/

/-- LOW_HALF_READ: the low half of a 64-bit unit register is read; its high half is latched (R9). -/
def execLowHalfRead (offset : Nat) (s : State) : Host.Outcome State Fault Refusal :=
  .next (if pfReach s ∧ regWide offset = some true then
      { s with regs := { s.regs with highLatch := Tbl.insert s.regs.highLatch offset (BitVec.ofNat 32 (regRead s offset / 2 ^ 32)) } }
    else s)

/-- What a read of a high half returns: the latched value after a read of the low half (R9), else the register's. DESIGN CHOICE (log entry 91):
the spec does not say whether the read uses the latched half up; here it stays until the next low-half read. -/
def highRead (s : State) (off : Nat) : Nat :=
  match Tbl.find s.regs.highLatch off with
  | some h => h.toNat
  | none => regRead s off / 2 ^ 32

/-- LOW_HALF_WRITE: 4 bytes at a slot's offset. A 32-bit register and an array take them at once; the low half of a 64-bit register
waits (R900, R902, R911). -/
def execLowHalfWrite (offset : Nat) (value : BitVec 32) (s : State) : Host.Outcome State Fault Refusal :=
  .next (if ¬ pfReach s ∨ offset % 8 ≠ 0 then s
    else if (arrayRead s offset).isSome then arrayWrite offset 4 value.toNat s
    else match regWide offset with
      | some true => { s with regs := { s.regs with lowPending := Tbl.insert s.regs.lowPending offset value } }
      | some false => regWrite offset value.toNat s
      | none => s)

/-- The low half that goes with a high half: the one that waits, or what the register's low half reads, whose RW fields are current,
whose WO fields read 0 and whose other fields take no write (R911). -/
def lowHalf (s : State) (off : Nat) : Nat :=
  match Tbl.find s.regs.lowPending off with
  | some l => l.toNat
  | none => regRead s off % 2 ^ 32

/-- The only fields that a register has are WO fields of its low half, or these and flags at the top that are all clear: with no low half
waiting, a high half makes none of them act (R911). BCN_U_CMD, DIG_CTX_CMD; CMP_J_LEN and SEAL_PIECE. -/
def lowWoOnly (off v : Nat) : Bool :=
  [0x900140, 0x810038].contains off ||
    ((decide (off = 0x800048) || decide (0xD00000 ≤ off ∧ off < 0xD08000 ∧ off % 0x1000 = 0x20)) && decide (v / 2 ^ 30 % 4 = 0))

/-- HIGH_HALF_WRITE: 4 bytes at `offset` + 4, where `offset` is a slot's. The whole 64-bit value is applied (R10, R911); the high 4
bytes of a 32-bit register ignore the write (R901). -/
def execHighHalfWrite (offset : Nat) (value : BitVec 32) (s : State) : Host.Outcome State Fault Refusal :=
  .next (if ¬ pfReach s ∨ offset % 8 ≠ 0 then s
    else if (arrayRead s offset).isSome then arrayWrite (offset + 4) 4 value.toNat s
    else if (Tbl.find s.regs.lowPending offset).isNone ∧ lowWoOnly offset value.toNat then s
    else if regWide offset = some true then
      regWrite offset (value.toNat * 2 ^ 32 + lowHalf s offset) { s with regs := { s.regs with lowPending := Tbl.erase s.regs.lowPending offset } }
    else s)

end Sys2Proof.Machine
end

