-- ==== Sys2Proof/Machine/YArith.lean ====
section
/-! DEFINITION. Yusil: arithmetic, comparison and immediate instructions (R397 to R400). -/

namespace Sys2Proof.Machine

/-- ADD (R397). -/
def execAdd (core : Fin 256) (miss : Bool) (s : State) : Host.Outcome State Fault Refusal :=
  .next (yBin .add (fun w a b _ => yAdd w a b 0) core miss s)

/-- ADC (R397). -/
def execAdc (core : Fin 256) (miss : Bool) (s : State) : Host.Outcome State Fault Refusal :=
  .next (yBin .adc (fun w a b f => yAdd w a b (b2n f.c)) core miss s)

/-- SUB (R397). -/
def execSub (core : Fin 256) (miss : Bool) (s : State) : Host.Outcome State Fault Refusal :=
  .next (yBin .sub (fun w a b _ => ySub w a b 0) core miss s)

/-- SBC (R397). -/
def execSbc (core : Fin 256) (miss : Bool) (s : State) : Host.Outcome State Fault Refusal :=
  .next (yBin .sbc (fun w a b f => ySub w a b (b2n f.c)) core miss s)

/-- NEG (R397). -/
def execNeg (core : Fin 256) (miss : Bool) (s : State) : Host.Outcome State Fault Refusal :=
  .next (yUn .neg (fun w a => ySub w 0 a 0) core miss s)

/-- MUL (R397). -/
def execMul (core : Fin 256) (miss : Bool) (s : State) : Host.Outcome State Fault Refusal :=
  .next (yBin .mul (fun w a b _ => yMul w a b) core miss s)

/-- MULHU (R397). -/
def execMulhu (core : Fin 256) (miss : Bool) (s : State) : Host.Outcome State Fault Refusal :=
  .next (yBin .mulhu (fun w a b _ => yMulhu w a b) core miss s)

/-- MULHS (R397). -/
def execMulhs (core : Fin 256) (miss : Bool) (s : State) : Host.Outcome State Fault Refusal :=
  .next (yBin .mulhs (fun w a b _ => yMulhs w a b) core miss s)

/-- DIVU (R397, R400). -/
def execDivu (core : Fin 256) (miss : Bool) (s : State) : Host.Outcome State Fault Refusal :=
  .next (yDiv .divu yDivu core miss s)

/-- DIVS (R397, R400). -/
def execDivs (core : Fin 256) (miss : Bool) (s : State) : Host.Outcome State Fault Refusal :=
  .next (yDiv .divs yDivs core miss s)

/-- REMU (R397, R400). -/
def execRemu (core : Fin 256) (miss : Bool) (s : State) : Host.Outcome State Fault Refusal :=
  .next (yDiv .remu yRemu core miss s)

/-- REMS (R397, R400). -/
def execRems (core : Fin 256) (miss : Bool) (s : State) : Host.Outcome State Fault Refusal :=
  .next (yDiv .rems yRems core miss s)

/-- MINU (R397). -/
def execMinu (core : Fin 256) (miss : Bool) (s : State) : Host.Outcome State Fault Refusal :=
  .next (yBin .minu (fun w a b _ => yMinu w a b) core miss s)

/-- MAXU (R397). -/
def execMaxu (core : Fin 256) (miss : Bool) (s : State) : Host.Outcome State Fault Refusal :=
  .next (yBin .maxu (fun w a b _ => yMaxu w a b) core miss s)

/-- MINS (R397). -/
def execMins (core : Fin 256) (miss : Bool) (s : State) : Host.Outcome State Fault Refusal :=
  .next (yBin .mins (fun w a b _ => yMins w a b) core miss s)

/-- MAXS (R397). -/
def execMaxs (core : Fin 256) (miss : Bool) (s : State) : Host.Outcome State Fault Refusal :=
  .next (yBin .maxs (fun w a b _ => yMaxs w a b) core miss s)

/-- CMP (R397, R398). -/
def execCmp (core : Fin 256) (miss : Bool) (s : State) : Host.Outcome State Fault Refusal :=
  .next (yCmp .cmp (fun w a b => ySub w a b 0) core miss s)

/-- TST (R397, R398). -/
def execTst (core : Fin 256) (miss : Bool) (s : State) : Host.Outcome State Fault Refusal :=
  .next (yCmp .tst (fun w a b => yAnd w a b) core miss s)

/-- ADDI (R398). -/
def execAddi (core : Fin 256) (miss : Bool) (s : State) : Host.Outcome State Fault Refusal :=
  .next (yImm .addi true (fun a n => yAdd 64 a n 0) core miss s)

/-- SUBI (R398). -/
def execSubi (core : Fin 256) (miss : Bool) (s : State) : Host.Outcome State Fault Refusal :=
  .next (yImm .subi true (fun a n => ySub 64 a n 0) core miss s)

/-- CMPI (R398). -/
def execCmpi (core : Fin 256) (miss : Bool) (s : State) : Host.Outcome State Fault Refusal :=
  .next (yImm .cmpi false (fun a n => ySub 64 a n 0) core miss s)

end Sys2Proof.Machine
end

