-- ==== Sys2Proof/Machine/YControl.lean ====
section
/-! DEFINITION. Yusil: branches, calls, loops (R363 to R373, R402). -/

namespace Sys2Proof.Machine

/-- A transfer target is an even address in the code hold (R402). -/
def targetOk (a : Nat) : Bool := decide (0x10000 ≤ a ∧ a < 0x20000) && decide (a % 2 = 0)

/-- The target of a BR: its address plus twice the signed offset (R397). -/
def brTarget (pc disp : Nat) : Nat := truncInt 64 ((pc : Int) + 2 * signed 17 disp)

/-- BR (R397, R402). -/
def execBr (core : Fin 256) (miss : Bool) (s : State) : Host.Outcome State Fault Refusal :=
  .next (yRun .br (fun _ => { rd := false, wr := false })
    (fun s1 _ t i r _ _ _ =>
      let pc := t.regs.pc.toNat
      if condHolds i.cond (flagsOf r) then
        if targetOk (brTarget pc i.disp) then .done s1 r none (brTarget pc i.disp) true else .fault 0x02
      else .done s1 r none (pc + i.len) false) core miss s)

/-- JMP in both forms (R397, R398, R402). -/
def execJmp (core : Fin 256) (miss : Bool) (s : State) : Host.Outcome State Fault Refusal :=
  .next (yRun .jmp (fun i => { rd := i.brief, wr := false })
    (fun s1 _ _ _ r a _ _ => if targetOk a then .done s1 r none a true else .fault 0x02) core miss s)

/-- The registers a mask names, highest first (R369). -/
def maskDown (mask : Nat) : List Nat := ((List.range 15).filter (fun n => bitOf mask n)).reverse

/-- The frame header (R371). -/
def callFrame (mask ld ret : Nat) : Nat := mask * 2 ^ 48 + ld * 2 ^ 45 + (ret % 2 ^ 45) / 2 * 2

/-- Stores words at addresses in turn. -/
def storeWords (key : Nat) : List (Nat × Nat) → State → State
  | [], s => s
  | (a, v) :: r, s => storeWords key r (writeLoc key (some (.mem a)) 8 v s)

/-- The first fault of stores at addresses with their values. -/
def storesFault (s : State) (key : Nat) (t : Task) : List (Nat × Nat) → Nat
  | [] => 0
  | (a, v) :: r =>
    let f := accessFault s t a 8 true
    if f ≠ 0 then f
    else
      let g := valueFault s key t (some (.mem a)) v
      if g ≠ 0 then g else storesFault s key t r

/-- CALL (R369 to R371): every push is checked before any is made (R379). -/
def execCall (core : Fin 256) (miss : Bool) (s : State) : Host.Outcome State Fault Refusal :=
  .next (yRun .call (fun _ => { rd := false, wr := false })
    (fun s1 key t i r a _ _ =>
      if !targetOk a then .fault 0x02
      else
        let sp := getReg r 15
        let vals := (maskDown i.mask).map (fun n => (getReg t.regs n).toNat) ++
          [callFrame i.mask t.regs.ld (t.regs.pc.toNat + i.len)]
        let addrs := (List.range vals.length).map (fun k => (sp - BitVec.ofNat 64 (8 * (k + 1))).toNat)
        let ws := addrs.zip vals
        let f := storesFault s1 key t ws
        if f ≠ 0 then .fault f
        else match (addrs.map (fun x => doorStall s1 t (some (.mem x)))).find? (·.isSome) with
          | some (some w) => .stall w 4
          | _ =>
            .frame (storeWords key ws s1) [] addrs (setReg r 15 (sp - BitVec.ofNat 64 (8 * vals.length))) a) core miss s)

/-- The first fault of reads at addresses. -/
def readsFault (s : State) (t : Task) : List Nat → Nat
  | [] => 0
  | a :: r =>
    let f := accessFault s t a 8 false
    if f ≠ 0 then f else readsFault s t r

/-- Reads words at addresses in turn. -/
def readWords (key : Nat) : List Nat → State → List Nat × State
  | [], s => ([], s)
  | a :: r, s =>
    let (v, s1) := readLoc s key (some (.mem a)) 8
    let (vs, s2) := readWords key r s1
    (v :: vs, s2)

/-- Writes registers with values in turn. -/
def setRegs (r : YRegs) : List (Nat × Nat) → YRegs
  | [] => r
  | (n, v) :: rest => setRegs (setReg r n (BitVec.ofNat 64 v)) rest

/-- RET (R372, R373). -/
def execRet (core : Fin 256) (miss : Bool) (s : State) : Host.Outcome State Fault Refusal :=
  .next (yRun .ret (fun _ => { rd := false, wr := false })
    (fun s1 key t _ r _ _ _ =>
      let sp := getReg r 15
      let f := accessFault s1 t sp.toNat 8 false
      if f ≠ 0 then .fault f
      else
        let (h, s2) := readLoc s1 key (some (.mem sp.toNat)) 8
        if bitsOf h 47 45 ≠ r.ld then .fault 0x07
        else if bitOf h 0 then .entryReturn (setReg r 15 (sp + 8#64)) [sp.toNat]
        else
          let ns := (List.range 16).filter (fun n => bitOf (bitsOf h 63 48) n)
          let addrs := (List.range ns.length).map (fun k => (sp + BitVec.ofNat 64 (8 * (k + 1))).toNat)
          let g := readsFault s2 t addrs
          let ret := bitsOf h 44 1 * 2
          if g ≠ 0 then .fault g
          else if !targetOk ret then .fault 0x02
          else
            let (vs, s3) := readWords key addrs s2
            let r1 := setReg r 15 (sp + BitVec.ofNat 64 (8 * (ns.length + 1)))
            .frame s3 (sp.toNat :: addrs) [] (setRegs r1 (ns.zip vs)) ret) core miss s)

/-- LOOP (R363, R402). -/
def execLoop (core : Fin 256) (miss : Bool) (s : State) : Host.Outcome State Fault Refusal :=
  .next (yRun .loop (fun _ => { rd := false, wr := false })
    (fun s1 _ t i r a _ _ =>
      let start := t.regs.pc.toNat + i.len
      let stop := start + 2 * i.body
      if 4 ≤ r.ld then .fault 0x07
      else if i.level ≠ r.ld then .fault 0x08
      else if 0x20000 < stop then .fault 0x02
      else if 2 ^ 32 ≤ a then .fault 0x0A
      else if a = 0 then .done s1 r none stop false
      else
        .done s1 { r with lb := r.lb.setIfInBounds r.ld (BitVec.ofNat 64 start)
                          le := r.le.setIfInBounds r.ld (BitVec.ofNat 64 (a * 2 ^ 32 + stop))
                          lc := r.lc.setIfInBounds r.ld 0
                          ld := r.ld + 1 } none start true) core miss s)

/-- LEAVE (R366): the innermost loop is closed, and the end check runs for the loops still open. -/
def execLeave (core : Fin 256) (miss : Bool) (s : State) : Host.Outcome State Fault Refusal :=
  .next (yRun .leave (fun _ => { rd := false, wr := false })
    (fun s1 _ t i r _ _ _ =>
      if r.ld = 0 then .fault 0x07 else .done s1 { r with ld := r.ld - 1 } none (t.regs.pc.toNat + i.len) false) core miss s)

end Sys2Proof.Machine
end

