-- ==== Sys2Proof/Machine/YLogic.lean ====
section
/-! DEFINITION. Yusil: bitwise operations, shifts, rotates and bit counts (R397 to R399). -/

namespace Sys2Proof.Machine

/-- AND (R397). -/
def execAnd (core : Fin 256) (miss : Bool) (s : State) : Host.Outcome State Fault Refusal :=
  .next (yBin .band (fun w a b _ => yAnd w a b) core miss s)

/-- OR (R397). -/
def execOr (core : Fin 256) (miss : Bool) (s : State) : Host.Outcome State Fault Refusal :=
  .next (yBin .bor (fun w a b _ => yOr w a b) core miss s)

/-- XOR (R397). -/
def execXor (core : Fin 256) (miss : Bool) (s : State) : Host.Outcome State Fault Refusal :=
  .next (yBin .bxor (fun w a b _ => yXor w a b) core miss s)

/-- ANDN (R397). -/
def execAndn (core : Fin 256) (miss : Bool) (s : State) : Host.Outcome State Fault Refusal :=
  .next (yBin .andn (fun w a b _ => yAndn w a b) core miss s)

/-- NOT (R397). -/
def execNot (core : Fin 256) (miss : Bool) (s : State) : Host.Outcome State Fault Refusal :=
  .next (yUn .bnot yNot core miss s)

/-- SHL (R397, R399). -/
def execShl (core : Fin 256) (miss : Bool) (s : State) : Host.Outcome State Fault Refusal :=
  .next (yBin .shl (fun w a b _ => yShl w a (b % w)) core miss s)

/-- SHR (R397, R399). -/
def execShr (core : Fin 256) (miss : Bool) (s : State) : Host.Outcome State Fault Refusal :=
  .next (yBin .shr (fun w a b _ => yShr w a (b % w)) core miss s)

/-- SAR (R397, R399). -/
def execSar (core : Fin 256) (miss : Bool) (s : State) : Host.Outcome State Fault Refusal :=
  .next (yBin .sar (fun w a b _ => ySar w a (b % w)) core miss s)

/-- ROL (R397, R399). -/
def execRol (core : Fin 256) (miss : Bool) (s : State) : Host.Outcome State Fault Refusal :=
  .next (yBin .rol (fun w a b _ => yRol w a (b % w)) core miss s)

/-- ROR (R397, R399). -/
def execRor (core : Fin 256) (miss : Bool) (s : State) : Host.Outcome State Fault Refusal :=
  .next (yBin .ror (fun w a b _ => yRor w a (b % w)) core miss s)

/-- POPC (R397). -/
def execPopc (core : Fin 256) (miss : Bool) (s : State) : Host.Outcome State Fault Refusal :=
  .next (yUn .popc yPopc core miss s)

/-- CLZ (R397). -/
def execClz (core : Fin 256) (miss : Bool) (s : State) : Host.Outcome State Fault Refusal :=
  .next (yUn .clz yClz core miss s)

/-- CTZ (R397). -/
def execCtz (core : Fin 256) (miss : Bool) (s : State) : Host.Outcome State Fault Refusal :=
  .next (yUn .ctz yCtz core miss s)

/-- SHLI (R398, R399). -/
def execShli (core : Fin 256) (miss : Bool) (s : State) : Host.Outcome State Fault Refusal :=
  .next (yImm .shli true (fun a n => yShl 64 a n) core miss s)

/-- SHRI (R398, R399). -/
def execShri (core : Fin 256) (miss : Bool) (s : State) : Host.Outcome State Fault Refusal :=
  .next (yImm .shri true (fun a n => yShr 64 a n) core miss s)

/-- SARI (R398, R399). -/
def execSari (core : Fin 256) (miss : Bool) (s : State) : Host.Outcome State Fault Refusal :=
  .next (yImm .sari true (fun a n => ySar 64 a n) core miss s)

end Sys2Proof.Machine
end

