-- ==== Sys2Proof/Machine/YMove.lean ====
section
/-! DEFINITION. Yusil: moves, extensions, single bits, SET, CAS and the status moves (R397, R398, R401, R403, R411). -/

namespace Sys2Proof.Machine

/-- MOV in both forms (R397, R398). -/
def execMov (core : Fin 256) (miss : Bool) (s : State) : Host.Outcome State Fault Refusal :=
  .next (yUnNf .mov (fun _ a => a) core miss s)

/-- MOVI (R398): the destination is written and not read. -/
def execMovi (core : Fin 256) (miss : Bool) (s : State) : Host.Outcome State Fault Refusal :=
  .next (yRun .movi (fun _ => { rd := false, wr := true })
    (fun s1 _ t i r _ _ _ => .done s1 r (some i.n) (t.regs.pc.toNat + i.len) false) core miss s)

/-- BSWAP (R397). -/
def execBswap (core : Fin 256) (miss : Bool) (s : State) : Host.Outcome State Fault Refusal :=
  .next (yUnNf .bswap byteSwap core miss s)

/-- SEXT: the destination is at .d (R397). -/
def execSext (core : Fin 256) (miss : Bool) (s : State) : Host.Outcome State Fault Refusal :=
  .next (yUnNf .sext (fun sz a => signExt (8 * sz) a) core miss s)

/-- ZEXT: the destination is at .d (R397). -/
def execZext (core : Fin 256) (miss : Bool) (s : State) : Host.Outcome State Fault Refusal :=
  .next (yUnNf .zext (fun _ a => a) core miss s)

/-- SET (R401). -/
def execSet (core : Fin 256) (miss : Bool) (s : State) : Host.Outcome State Fault Refusal :=
  .next (yRun .setc (fun _ => { rd := false, wr := true })
    (fun s1 _ t i r _ _ _ => .done s1 r (some (b2n (condHolds i.cond (flagsOf r)))) (t.regs.pc.toNat + i.len) false) core miss s)

/-- The fault of CAS's destination: it is read and written; a door is DOOR, the code hold ADDR (R403). -/
def casFault (s : State) (t : Task) (d : Option Loc) (sz : Nat) : Nat :=
  match d with
  | some (.mem a) =>
    if a % sz ≠ 0 then 0x04
    else match regionOf a with
      | .door _ _ => 0x05
      | _ => if mayAccess t a sz true then 0 else 0x03
  | _ => 0

/-- CAS (R403). Its destination is checked here, after the sources, and is written only on a match. -/
def execCas (core : Fin 256) (miss : Bool) (s : State) : Host.Outcome State Fault Refusal :=
  .next (yRun .cas (fun _ => { rd := false, wr := false })
    (fun s1 key t i r a b d =>
      let f := casFault s1 t d i.size
      if f ≠ 0 then .fault f
      else
        let old := (readLoc s1 key d i.size).1
        let at_ := (d.bind locAddr).toList
        let s2 := if old = a then writeLoc key d i.size b s1 else s1
        .atomic s2 at_ (decide (old = a)) { r with z := decide (old = a) } (t.regs.pc.toNat + i.len)) core miss s)

/-- MOVST in both forms (R411): st, in which FAULT reads 0 while the task runs. -/
def execMovst (core : Fin 256) (miss : Bool) (s : State) : Host.Outcome State Fault Refusal :=
  .next (yRun .movst (fun _ => { rd := false, wr := true })
    (fun s1 _ t i r _ _ _ => .done s1 r (some (stWord { r with fault := 0 })) (t.regs.pc.toNat + i.len) false) core miss s)

/-- SETST (R397, R411). -/
def execSetst (core : Fin 256) (miss : Bool) (s : State) : Host.Outcome State Fault Refusal :=
  .next (yRun .setst (fun _ => { rd := false, wr := false })
    (fun s1 _ t i r a _ _ =>
      .done s1 (withFlags r { z := bitOf a 0, n := bitOf a 1, c := bitOf a 2, v := bitOf a 3 }) none (t.regs.pc.toNat + i.len) false)
    core miss s)

/-- The bit number of BTST, BSET and BCLR: the second source modulo w, or the n of a brief form (R397, R398). -/
def bitNumber (i : YInstr) (b : Nat) : Nat := if i.brief then i.n else b % (8 * i.size)

/-- BTST (R397, R398). -/
def execBtst (core : Fin 256) (miss : Bool) (s : State) : Host.Outcome State Fault Refusal :=
  .next (yRun .btst (fun i => { rd := i.brief, wr := false })
    (fun s1 _ t i r a b _ => .done s1 { r with z := !bitOf a (bitNumber i b) } none (t.regs.pc.toNat + i.len) false) core miss s)

/-- BSET (R397, R398). -/
def execBset (core : Fin 256) (miss : Bool) (s : State) : Host.Outcome State Fault Refusal :=
  .next (yRun .bset (fun i => { rd := i.brief, wr := true })
    (fun s1 _ t i r a b _ => .done s1 r (some (a ||| 2 ^ bitNumber i b)) (t.regs.pc.toNat + i.len) false) core miss s)

/-- BCLR (R397, R398). -/
def execBclr (core : Fin 256) (miss : Bool) (s : State) : Host.Outcome State Fault Refusal :=
  .next (yRun .bclr (fun i => { rd := i.brief, wr := true })
    (fun s1 _ t i r a b _ =>
      .done s1 r (some (bitsSet a (bitNumber i b) (bitNumber i b) 0)) (t.regs.pc.toNat + i.len) false) core miss s)

end Sys2Proof.Machine
end

