-- ==== Sys2Proof/Machine/YSystem.lean ====
section
/-! DEFINITION. Yusil: RDCNT, WAIT, POST, YIELD, NOP (R386 to R388, R404 to R410). -/

namespace Sys2Proof.Machine

/-- NOP (R398). -/
def execNop (core : Fin 256) (miss : Bool) (s : State) : Host.Outcome State Fault Refusal :=
  .next (yRun .nop (fun _ => { rd := false, wr := false })
    (fun s1 _ t i r _ _ _ => .done s1 r none (t.regs.pc.toNat + i.len) false) core miss s)

/-- YIELD (R409). -/
def execYield (core : Fin 256) (miss : Bool) (s : State) : Host.Outcome State Fault Refusal :=
  .next (yRun .yld (fun _ => { rd := false, wr := false }) (fun s1 _ _ _ r _ _ _ => .yields s1 r none) core miss s)

/-- A slot of R777 holds a counter. -/
def counterSlot (n : Nat) : Bool :=
  decide (6 ≤ n ∧ n < 16) || decide (64 ≤ n ∧ n < 256) || decide (512 ≤ n ∧ n < 2048) || decide (4096 ≤ n ∧ n < 7168)

/-- The counter a slot holds (R777, R778). -/
def counterValue (s : State) (n : Nat) : Nat :=
  if n = 7 then s.cnt.opSeconds else if n = 8 then s.cnt.powerCycles
  else Tbl.get 0 s.cnt.slots n

/-- RDCNT (R386 to R388, R410): the charter before COUNTER. -/
def execRdcnt (core : Fin 256) (miss : Bool) (s : State) : Host.Outcome State Fault Refusal :=
  .next (yRun .rdcnt (fun _ => { rd := false, wr := true })
    (fun s1 _ t i r a _ _ =>
      let pc := t.regs.pc.toNat + i.len
      if !chrCounter s1 t.fn a then .fault 0x06
      else if a ≤ 5 then .done s1 r (some (Tbl.get 0 s1.cnt.slots (512 + 6 * core + a))) pc false
      else if counterSlot a then .done s1 r (some (counterValue s1 a)) pc false
      else .fault 0x0C) core miss s)

/-- WAIT (R404, R405). -/
def execWait (core : Fin 256) (miss : Bool) (s : State) : Host.Outcome State Fault Refusal :=
  .next (yRun .wait (fun _ => { rd := false, wr := true })
    (fun s1 key t i r a b _ =>
      let mask : BitVec 32 := BitVec.ofNat 32 a
      let all := bitOf b 0
      let flags := (getTask s1 key).elim t.flags (·.flags)
      let hit := flags &&& mask
      if mask = 0 then .yields s1 { r with z := true } (some 0)
      else if waitMet flags mask all then
        .done (updTask key (fun t => { t with flags := t.flags &&& ~~~hit }) s1) { r with z := false } (some hit.toNat)
          (t.regs.pc.toNat + i.len) false
      else .block mask all) core miss s)

/-- POST (R406 to R408). -/
def execPost (core : Fin 256) (miss : Bool) (s : State) : Host.Outcome State Fault Refusal :=
  .next (yRun .post (fun _ => { rd := false, wr := false })
    (fun s1 key t i r a b _ =>
      let w := key / 2048
      let next := t.regs.pc.toNat + i.len
      let good := match liveTask s1 a with
        | some k => decide (k / 2048 = w) && decide ((getTask s1 k).elim 0 (·.fn) = t.fn)
        | none => false
      if !good then .done s1 { r with z := true } none next false
      else if b = 0 then .done s1 { r with z := false } none next false
      else match postTo a (BitVec.ofNat 32 b) 3 s1 with
        | (_, .full, _) => .stall w 3
        | (s2, _, ev) => .done (if ev then raise (1048 + w) s2 else s2) { r with z := false } none next false) core miss s)

end Sys2Proof.Machine
end

