-- ==== Sys2Proof/Machine/Dispatch.lean ====
section
/-! DEFINITION. One arm per command: a direct call of its meaning, or a refusal by name. -/

namespace Sys2Proof.Machine

/-- The effect of a command on everything but the queue. -/
def exec (i : Instr) (s : State) : Host.Outcome State Fault Refusal :=
  match i with
  | .pwrEnAsserted => Sys2Proof.Machine.execPwrEnAsserted s
  | .pwrEnDeasserted => Sys2Proof.Machine.execPwrEnDeasserted s
  | .inputUndervoltage => Sys2Proof.Machine.execInputUndervoltage s
  | .inputOvervoltage => Sys2Proof.Machine.execInputOvervoltage s
  | .inputRestored => Sys2Proof.Machine.execInputRestored s
  | .emberFlushStepDone => Sys2Proof.Machine.execEmberFlushStepDone s
  | .emberFlushEnd => Sys2Proof.Machine.execEmberFlushEnd s
  | .alarm causes => Sys2Proof.Machine.execAlarm causes s
  | .sensorRead sensor tenths selfTest => Sys2Proof.Machine.execSensorRead sensor tenths selfTest s
  | .supplyMeasurement vin iin deciwatt vstore => Sys2Proof.Machine.execSupplyMeasurement vin iin deciwatt vstore s
  | .holdupCheckDue => Sys2Proof.Machine.execHoldupCheckDue s
  | .checkNow => Sys2Proof.Machine.execCheckNow s
  | .holdupCheckDone capacitance energy => Sys2Proof.Machine.execHoldupCheckDone capacitance energy s
  | .holdupStoreLow => Sys2Proof.Machine.execHoldupStoreLow s
  | .holdupCharged => Sys2Proof.Machine.execHoldupCharged s
  | .paceWindow wing m0 m1 m2 m3 => Sys2Proof.Machine.execPaceWindow wing m0 m1 m2 m3 s
  | .keeperCoreFault wing kcore code pc => Sys2Proof.Machine.execKeeperCoreFault wing kcore code pc s
  | .wingReturnHoldDone wing => Sys2Proof.Machine.execWingReturnHoldDone wing s
  | .kindlingStepDone step bits devices => Sys2Proof.Machine.execKindlingStepDone step bits devices s
  | .configRequest => Sys2Proof.Machine.execConfigRequest s
  | .perstAsserted => Sys2Proof.Machine.execPerstAsserted s
  | .perstDeasserted => Sys2Proof.Machine.execPerstDeasserted s
  | .nvmSubsystemReset => Sys2Proof.Machine.execNvmSubsystemReset s
  | .hotReset => Sys2Proof.Machine.execHotReset s
  | .controllerReset fn => Sys2Proof.Machine.execControllerReset fn s
  | .controllerEnable fn cc aqa asq acq => Sys2Proof.Machine.execControllerEnable fn cc aqa asq acq s
  | .shutdownNotification fn shn => Sys2Proof.Machine.execShutdownNotification fn shn s
  | .shutdownProcessingDone fn => Sys2Proof.Machine.execShutdownProcessingDone fn s
  | .functionLevelReset fn => Sys2Proof.Machine.execFunctionLevelReset fn s
  | .vfEnable num => Sys2Proof.Machine.execVfEnable num s
  | .vfEnableCleared => Sys2Proof.Machine.execVfEnableCleared s
  | .devicePowerStateChange fn d3 => Sys2Proof.Machine.execDevicePowerStateChange fn d3 s
  | .sqTailDoorbell fn sq tail => Sys2Proof.Machine.execSqTailDoorbell fn sq tail s
  | .cqHeadDoorbell fn cq head => Sys2Proof.Machine.execCqHeadDoorbell fn cq head s
  | .commandFetch fn sq sqe => Sys2Proof.Machine.execCommandFetch fn sq sqe s
  | .partBegin station r part => Sys2Proof.Machine.execPartBegin station r part s
  | .deleteIoSq r => Sys2Proof.Machine.execDeleteIoSq r s
  | .deleteIoCq r => Sys2Proof.Machine.execDeleteIoCq r s
  | .createIoSq r => Sys2Proof.Machine.execCreateIoSq r s
  | .createIoCq r => Sys2Proof.Machine.execCreateIoCq r s
  | .getLogPage r => Sys2Proof.Machine.execGetLogPage r s
  | .smartHealthLog r => Sys2Proof.Machine.execSmartHealthLog r s
  | .telemetryHostInitiated r => Sys2Proof.Machine.execTelemetryHostInitiated r s
  | .keepersLogPage r => Sys2Proof.Machine.execKeepersLogPage r s
  | .placementReport r => Sys2Proof.Machine.execPlacementReport r s
  | .counterSnapshot r => Sys2Proof.Machine.execCounterSnapshot r s
  | .caravanStatusPage r => Sys2Proof.Machine.execCaravanStatusPage r s
  | .healthAndRetirement r => Sys2Proof.Machine.execHealthAndRetirement r s
  | .thermalAndPace r => Sys2Proof.Machine.execThermalAndPace r s
  | .identify r => Sys2Proof.Machine.execIdentify r s
  | .abort r => Sys2Proof.Machine.execAbort r s
  | .setFeatures r => Sys2Proof.Machine.execSetFeatures r s
  | .getFeatures r => Sys2Proof.Machine.execGetFeatures r s
  | .timestamp r => Sys2Proof.Machine.execTimestamp r s
  | .placementHint r => Sys2Proof.Machine.execPlacementHint r s
  | .asynchronousEventRequest r => Sys2Proof.Machine.execAsynchronousEventRequest r s
  | .namespaceManagement r => Sys2Proof.Machine.execNamespaceManagement r s
  | .namespaceAttachment r => Sys2Proof.Machine.execNamespaceAttachment r s
  | .firmwareImageDownload r => Sys2Proof.Machine.execFirmwareImageDownload r s
  | .firmwareCommitReplace r => Sys2Proof.Machine.execFirmwareCommitReplace r s
  | .firmwareCommitNextReset r => Sys2Proof.Machine.execFirmwareCommitNextReset r s
  | .firmwareCommitActivate r => Sys2Proof.Machine.execFirmwareCommitActivate r s
  | .firmwareCommitRoll r => Sys2Proof.Machine.execFirmwareCommitRoll r s
  | .rollWingDone => Sys2Proof.Machine.execRollWingDone s
  | .virtualizationManagement r => Sys2Proof.Machine.execVirtualizationManagement r s
  | .secondaryOffline r => Sys2Proof.Machine.execSecondaryOffline r s
  | .nvmeMiSend r => Sys2Proof.Machine.execNvmeMiSend r s
  | .nvmeMiReceive r => Sys2Proof.Machine.execNvmeMiReceive r s
  | .formatNvm r => Sys2Proof.Machine.execFormatNvm r s
  | .formatStepDone => Sys2Proof.Machine.execFormatStepDone s
  | .sanitizeBlockErase r => Sys2Proof.Machine.execSanitizeBlockErase r s
  | .sanitizeCryptoErase r => Sys2Proof.Machine.execSanitizeCryptoErase r s
  | .sanitizeExitFailureMode r => Sys2Proof.Machine.execSanitizeExitFailureMode r s
  | .sanitizeOperationEnd => Sys2Proof.Machine.execSanitizeOperationEnd s
  | .charterCommit r => Sys2Proof.Machine.execCharterCommit r s
  | .retireFlashBlock r => Sys2Proof.Machine.execRetireFlashBlock r s
  | .retireDramPage r => Sys2Proof.Machine.execRetireDramPage r s
  | .retireDramBank r => Sys2Proof.Machine.execRetireDramBank r s
  | .caravanForm r identity => Sys2Proof.Machine.execCaravanForm r identity s
  | .caravanJoin r => Sys2Proof.Machine.execCaravanJoin r s
  | .caravanLeave r => Sys2Proof.Machine.execCaravanLeave r s
  | .caravanDissolve r => Sys2Proof.Machine.execCaravanDissolve r s
  | .quiesceFunction r => Sys2Proof.Machine.execQuiesceFunction r s
  | .quiesceEndingThreads r => Sys2Proof.Machine.execQuiesceEndingThreads r s
  | .quiesceResume r => Sys2Proof.Machine.execQuiesceResume r s
  | .freezeFunction r => Sys2Proof.Machine.execFreezeFunction r s
  | .saveFunctionState r => Sys2Proof.Machine.execSaveFunctionState r s
  | .restoreFunctionState r => Sys2Proof.Machine.execRestoreFunctionState r s
  | .wingWithdraw r => Sys2Proof.Machine.execWingWithdraw r s
  | .wingReturn r => Sys2Proof.Machine.execWingReturn r s
  | .lightListWrite r readBack => Sys2Proof.Machine.execLightListWrite r readBack s
  | .keyGenAdvanceSlot r => Sys2Proof.Machine.execKeyGenAdvanceSlot r s
  | .keyGenAdvanceFunction r => Sys2Proof.Machine.execKeyGenAdvanceFunction r s
  | .loadProgram r => Sys2Proof.Machine.execLoadProgram r s
  | .programActivationManagement r => Sys2Proof.Machine.execProgramActivationManagement r s
  | .memoryRangeSetManagement r => Sys2Proof.Machine.execMemoryRangeSetManagement r s
  | .executeProgram r => Sys2Proof.Machine.execExecuteProgram r s
  | .threadStart r => Sys2Proof.Machine.execThreadStart r s
  | .memoryRead r => Sys2Proof.Machine.execMemoryRead r s
  | .memoryWrite r => Sys2Proof.Machine.execMemoryWrite r s
  | .memoryCopy station r => Sys2Proof.Machine.execMemoryCopy station r s
  | .flush r => Sys2Proof.Machine.execFlush r s
  | .write station r => Sys2Proof.Machine.execWrite station r s
  | .read station r => Sys2Proof.Machine.execRead station r s
  | .compare station r => Sys2Proof.Machine.execCompare station r s
  | .writeZeroes station r => Sys2Proof.Machine.execWriteZeroes station r s
  | .datasetManagement station r => Sys2Proof.Machine.execDatasetManagement station r s
  | .verify station r => Sys2Proof.Machine.execVerify station r s
  | .programStatus port st => Sys2Proof.Machine.execProgramStatus port st s
  | .eraseStatus port block st => Sys2Proof.Machine.execEraseStatus port block st s
  | .flashReadDone id outcome => Sys2Proof.Machine.execFlashReadDone id outcome s
  | .dieNotReadyTimeout port => Sys2Proof.Machine.execDieNotReadyTimeout port s
  | .dieBlockSeal port block decoded => Sys2Proof.Machine.execDieBlockSeal port block decoded s
  | .journalRecordDurable => Sys2Proof.Machine.execJournalRecordDurable s
  | .checkpointStepDone => Sys2Proof.Machine.execCheckpointStepDone s
  | .gatherUnitTimeout port => Sys2Proof.Machine.execGatherUnitTimeout port s
  | .stripePadTimeout port block => Sys2Proof.Machine.execStripePadTimeout port block s
  | .packedPageTimeout wing => Sys2Proof.Machine.execPackedPageTimeout wing s
  | .foldStart wing idle => Sys2Proof.Machine.execFoldStart wing idle s
  | .reclaimStart wing => Sys2Proof.Machine.execReclaimStart wing s
  | .forecourtRecompute => Sys2Proof.Machine.execForecourtRecompute s
  | .ledgerAudit => Sys2Proof.Machine.execLedgerAudit s
  | .packedGrainFrame nsid bale grain outcome => Sys2Proof.Machine.execPackedGrainFrame nsid bale grain outcome s
  | .placementWindowEnd load => Sys2Proof.Machine.execPlacementWindowEnd load s
  | .moveStallDone nsid bale => Sys2Proof.Machine.execMoveStallDone nsid bale s
  | .placementRequest asker nsid bale => Sys2Proof.Machine.execPlacementRequest asker nsid bale s
  | .placementAnswer nsid bale owner => Sys2Proof.Machine.execPlacementAnswer nsid bale owner s
  | .directoryAnnouncement nsid bale station wing state => Sys2Proof.Machine.execDirectoryAnnouncement nsid bale station wing state s
  | .moveOrder nsid bale src dst reason => Sys2Proof.Machine.execMoveOrder nsid bale src dst reason s
  | .stationReport station load wear heat owned debt held left moved excl => Sys2Proof.Machine.execStationReport station load wear heat owned debt held left moved excl s
  | .mirrorGrains owner tag grains => Sys2Proof.Machine.execMirrorGrains owner tag grains s
  | .mirrorAcknowledgement tag => Sys2Proof.Machine.execMirrorAcknowledgement tag s
  | .mirrorDrop owner grains => Sys2Proof.Machine.execMirrorDrop owner grains s
  | .parityContribution owner seg pos index q data md => Sys2Proof.Machine.execParityContribution owner seg pos index q data md s
  | .pieceClose group => Sys2Proof.Machine.execPieceClose group s
  | .segmentClose seg => Sys2Proof.Machine.execSegmentClose seg s
  | .backgroundRebuild nsid bale grains rest => Sys2Proof.Machine.execBackgroundRebuild nsid bale grains rest s
  | .flitReceive link bytes => Sys2Proof.Machine.execFlitReceive link bytes s
  | .nak link seq => Sys2Proof.Machine.execNak link seq s
  | .ackTimer link => Sys2Proof.Machine.execAckTimer link s
  | .linkDown link => Sys2Proof.Machine.execLinkDown link s
  | .hello link hello => Sys2Proof.Machine.execHello link hello s
  | .linkSbChange link level => Sys2Proof.Machine.execLinkSbChange link level s
  | .creditCensus link => Sys2Proof.Machine.execCreditCensus link s
  | .censusReceive link credits inFlight occupancy => Sys2Proof.Machine.execCensusReceive link credits inFlight occupancy s
  | .heartbeatSend => Sys2Proof.Machine.execHeartbeatSend s
  | .heartbeat station => Sys2Proof.Machine.execHeartbeat station s
  | .absenceDeclared station announced => Sys2Proof.Machine.execAbsenceDeclared station announced s
  | .caravanResumption => Sys2Proof.Machine.execCaravanResumption s
  | .forwardedPart station r part slba nlb gen sqe => Sys2Proof.Machine.execForwardedPart station r part slba nlb gen sqe s
  | .partStatus r part sct sc => Sys2Proof.Machine.execPartStatus r part sct sc s
  | .charterPropagation station generation entries => Sys2Proof.Machine.execCharterPropagation station generation entries s
  | .hintPropagation station nsid value => Sys2Proof.Machine.execHintPropagation station nsid value s
  | .wbGo core => Sys2Proof.Machine.execWbGo core s
  | .wbCancel core handle => Sys2Proof.Machine.execWbCancel core handle s
  | .legStart wing => Sys2Proof.Machine.execLegStart wing s
  | .scanReadIssue channel => Sys2Proof.Machine.execScanReadIssue channel s
  | .sieveGrainEvaluation channel => Sys2Proof.Machine.execSieveGrainEvaluation channel s
  | .sieveBeaconResult channel => Sys2Proof.Machine.execSieveBeaconResult channel s
  | .btNext core => Sys2Proof.Machine.execBtNext core s
  | .btDone core batch => Sys2Proof.Machine.execBtDone core batch s
  | .btAppLen core len => Sys2Proof.Machine.execBtAppLen core len s
  | .btEnd core => Sys2Proof.Machine.execBtEnd core s
  | .legOutputReceive station handle leg attempt record output => Sys2Proof.Machine.execLegOutputReceive station handle leg attempt record output s
  | .ctlAppLen core len => Sys2Proof.Machine.execCtlAppLen core len s
  | .ctlExit core status => Sys2Proof.Machine.execCtlExit core status s
  | .cpLen core len => Sys2Proof.Machine.execCpLen core len s
  | .postEntryApply wing => Sys2Proof.Machine.execPostEntryApply wing s
  | .nextSlotLoaded core => Sys2Proof.Machine.execNextSlotLoaded core s
  | .quantumExpiry core => Sys2Proof.Machine.execQuantumExpiry core s
  | .holdPageFill core page => Sys2Proof.Machine.execHoldPageFill core page s
  | .doorPost core mask => Sys2Proof.Machine.execDoorPost core mask s
  | .pstPrio core prio => Sys2Proof.Machine.execPstPrio core prio s
  | .pstAffinity core mask => Sys2Proof.Machine.execPstAffinity core mask s
  | .mov core miss => Sys2Proof.Machine.execMov core miss s
  | .add core miss => Sys2Proof.Machine.execAdd core miss s
  | .adc core miss => Sys2Proof.Machine.execAdc core miss s
  | .sub core miss => Sys2Proof.Machine.execSub core miss s
  | .sbc core miss => Sys2Proof.Machine.execSbc core miss s
  | .neg core miss => Sys2Proof.Machine.execNeg core miss s
  | .mul core miss => Sys2Proof.Machine.execMul core miss s
  | .mulhu core miss => Sys2Proof.Machine.execMulhu core miss s
  | .mulhs core miss => Sys2Proof.Machine.execMulhs core miss s
  | .divu core miss => Sys2Proof.Machine.execDivu core miss s
  | .divs core miss => Sys2Proof.Machine.execDivs core miss s
  | .remu core miss => Sys2Proof.Machine.execRemu core miss s
  | .rems core miss => Sys2Proof.Machine.execRems core miss s
  | .minu core miss => Sys2Proof.Machine.execMinu core miss s
  | .maxu core miss => Sys2Proof.Machine.execMaxu core miss s
  | .mins core miss => Sys2Proof.Machine.execMins core miss s
  | .maxs core miss => Sys2Proof.Machine.execMaxs core miss s
  | .and core miss => Sys2Proof.Machine.execAnd core miss s
  | .or core miss => Sys2Proof.Machine.execOr core miss s
  | .xor core miss => Sys2Proof.Machine.execXor core miss s
  | .andn core miss => Sys2Proof.Machine.execAndn core miss s
  | .not core miss => Sys2Proof.Machine.execNot core miss s
  | .shl core miss => Sys2Proof.Machine.execShl core miss s
  | .shr core miss => Sys2Proof.Machine.execShr core miss s
  | .sar core miss => Sys2Proof.Machine.execSar core miss s
  | .rol core miss => Sys2Proof.Machine.execRol core miss s
  | .ror core miss => Sys2Proof.Machine.execRor core miss s
  | .popc core miss => Sys2Proof.Machine.execPopc core miss s
  | .clz core miss => Sys2Proof.Machine.execClz core miss s
  | .ctz core miss => Sys2Proof.Machine.execCtz core miss s
  | .bswap core miss => Sys2Proof.Machine.execBswap core miss s
  | .sext core miss => Sys2Proof.Machine.execSext core miss s
  | .zext core miss => Sys2Proof.Machine.execZext core miss s
  | .cmp core miss => Sys2Proof.Machine.execCmp core miss s
  | .tst core miss => Sys2Proof.Machine.execTst core miss s
  | .set core miss => Sys2Proof.Machine.execSet core miss s
  | .cas core miss => Sys2Proof.Machine.execCas core miss s
  | .movst core miss => Sys2Proof.Machine.execMovst core miss s
  | .setst core miss => Sys2Proof.Machine.execSetst core miss s
  | .btst core miss => Sys2Proof.Machine.execBtst core miss s
  | .bset core miss => Sys2Proof.Machine.execBset core miss s
  | .bclr core miss => Sys2Proof.Machine.execBclr core miss s
  | .br core miss => Sys2Proof.Machine.execBr core miss s
  | .jmp core miss => Sys2Proof.Machine.execJmp core miss s
  | .call core miss => Sys2Proof.Machine.execCall core miss s
  | .ret core miss => Sys2Proof.Machine.execRet core miss s
  | .loop core miss => Sys2Proof.Machine.execLoop core miss s
  | .leave core miss => Sys2Proof.Machine.execLeave core miss s
  | .rdcnt core miss => Sys2Proof.Machine.execRdcnt core miss s
  | .wait core miss => Sys2Proof.Machine.execWait core miss s
  | .post core miss => Sys2Proof.Machine.execPost core miss s
  | .yield core miss => Sys2Proof.Machine.execYield core miss s
  | .nop core miss => Sys2Proof.Machine.execNop core miss s
  | .movi core miss => Sys2Proof.Machine.execMovi core miss s
  | .addi core miss => Sys2Proof.Machine.execAddi core miss s
  | .subi core miss => Sys2Proof.Machine.execSubi core miss s
  | .cmpi core miss => Sys2Proof.Machine.execCmpi core miss s
  | .shli core miss => Sys2Proof.Machine.execShli core miss s
  | .shri core miss => Sys2Proof.Machine.execShri core miss s
  | .sari core miss => Sys2Proof.Machine.execSari core miss s
  | .bcnSGo r => Sys2Proof.Machine.execBcnSGo r s
  | .bcnWrite r => Sys2Proof.Machine.execBcnWrite r s
  | .bcnInvalidate r => Sys2Proof.Machine.execBcnInvalidate r s
  | .bcnRead r => Sys2Proof.Machine.execBcnRead r s
  | .bcnInsert r => Sys2Proof.Machine.execBcnInsert r s
  | .bcnAppend r => Sys2Proof.Machine.execBcnAppend r s
  | .bcnClear r => Sys2Proof.Machine.execBcnClear r s
  | .bcnCreate r => Sys2Proof.Machine.execBcnCreate r s
  | .bcnGrow r => Sys2Proof.Machine.execBcnGrow r s
  | .bcnDelete r => Sys2Proof.Machine.execBcnDelete r s
  | .beaconScrubPass decayed dead => Sys2Proof.Machine.execBeaconScrubPass decayed dead s
  | .jobOpen r wing value => Sys2Proof.Machine.execJobOpen r wing value s
  | .jobCancel r wing value => Sys2Proof.Machine.execJobCancel r wing value s
  | .cmpJLen r wing value verifyFail => Sys2Proof.Machine.execCmpJLen r wing value verifyFail s
  | .cmpJLenLast r wing value verifyFail => Sys2Proof.Machine.execCmpJLenLast r wing value verifyFail s
  | .sealAcquire r => Sys2Proof.Machine.execSealAcquire r s
  | .sealRelease r => Sys2Proof.Machine.execSealRelease r s
  | .sealGo r value => Sys2Proof.Machine.execSealGo r value s
  | .sealAbort r value => Sys2Proof.Machine.execSealAbort r value s
  | .sealPiece r value => Sys2Proof.Machine.execSealPiece r value s
  | .sealPieceLast r value => Sys2Proof.Machine.execSealPieceLast r value s
  | .sealBreak => Sys2Proof.Machine.execSealBreak s
  | .digOpen r value => Sys2Proof.Machine.execDigOpen r value s
  | .digRelease r => Sys2Proof.Machine.execDigRelease r s
  | .digData r value => Sys2Proof.Machine.execDigData r value s
  | .digLast r value => Sys2Proof.Machine.execDigLast r value s
  | .digCtxExport r => Sys2Proof.Machine.execDigCtxExport r s
  | .digCtxImport r => Sys2Proof.Machine.execDigCtxImport r s
  | .digBreak => Sys2Proof.Machine.execDigBreak s
  | .keyDerive value => Sys2Proof.Machine.execKeyDerive value s
  | .keyUnwrap value => Sys2Proof.Machine.execKeyUnwrap value s
  | .keyClearLoad value => Sys2Proof.Machine.execKeyClearLoad value s
  | .keyUnload value => Sys2Proof.Machine.execKeyUnload value s
  | .patrolScrub wing line keeper outcome => Sys2Proof.Machine.execPatrolScrub wing line keeper outcome s
  | .scrubNow wing => Sys2Proof.Machine.execScrubNow wing s
  | .deviceMark wing device => Sys2Proof.Machine.execDeviceMark wing device s
  | .dramCalibration wing => Sys2Proof.Machine.execDramCalibration wing s
  | .refreshWindow wing activations coins rfm => Sys2Proof.Machine.execRefreshWindow wing activations coins rfm s
  | .dramTestWrite wing value => Sys2Proof.Machine.execDramTestWrite wing value s
  | .dramTestRead wing value => Sys2Proof.Machine.execDramTestRead wing value s
  | .drmHashNextWrite wing bit value => Sys2Proof.Machine.execDrmHashNextWrite wing bit value s
  | .drmLayoutNextWrite wing value => Sys2Proof.Machine.execDrmLayoutNextWrite wing value s
  | .evtSrcWrite index value => Sys2Proof.Machine.execEvtSrcWrite index value s
  | .maskAll mask => Sys2Proof.Machine.execMaskAll mask s
  | .clrAll => Sys2Proof.Machine.execClrAll s
  | .evtInject value => Sys2Proof.Machine.execEvtInject value s
  | .evtBulkRange value => Sys2Proof.Machine.execEvtBulkRange value s
  | .windowEnd => Sys2Proof.Machine.execWindowEnd s
  | .cntWinCtrlWrite value => Sys2Proof.Machine.execCntWinCtrlWrite value s
  | .cntSmpCtrlWrite value => Sys2Proof.Machine.execCntSmpCtrlWrite value s
  | .cntSmpPeriodWrite value => Sys2Proof.Machine.execCntSmpPeriodWrite value s
  | .tailWrite value => Sys2Proof.Machine.execTailWrite value s
  | .clrWrap => Sys2Proof.Machine.execClrWrap s
  | .opSecondsTick => Sys2Proof.Machine.execOpSecondsTick s
  | .logRecordWrite => Sys2Proof.Machine.execLogRecordWrite s
  | .logMark value => Sys2Proof.Machine.execLogMark value s
  | .basicManagementCommand => Sys2Proof.Machine.execBasicManagementCommand s
  | .readNvmeMiDataStructure kind index => Sys2Proof.Machine.execReadNvmeMiDataStructure kind index s
  | .healthStatusPoll controller => Sys2Proof.Machine.execHealthStatusPoll controller s
  | .configurationSet ident value => Sys2Proof.Machine.execConfigurationSet ident value s
  | .configurationGet ident => Sys2Proof.Machine.execConfigurationGet ident s
  | .vpdRead offset count => Sys2Proof.Machine.execVpdRead offset count s
  | .miReset => Sys2Proof.Machine.execMiReset s
  | .tunnelledAdmin sqe => Sys2Proof.Machine.execTunnelledAdmin sqe s
  | .spdmRequest session request => Sys2Proof.Machine.execSpdmRequest session request s
  | .ideKm session stream key => Sys2Proof.Machine.execIdeKm session stream key s
  | .debugUnlock session chain => Sys2Proof.Machine.execDebugUnlock session chain s
  | .spdmSessionEnd session => Sys2Proof.Machine.execSpdmSessionEnd session s
  | .claim => Sys2Proof.Machine.execClaim s
  | .release => Sys2Proof.Machine.execRelease s
  | .stageClear => Sys2Proof.Machine.execStageClear s
  | .stageCopy => Sys2Proof.Machine.execStageCopy s
  | .charterStagingWrite offset value => Sys2Proof.Machine.execCharterStagingWrite offset value s
  | .restoreAbort => Sys2Proof.Machine.execRestoreAbort s
  | .clrUnq => Sys2Proof.Machine.execClrUnq s
  | .clrMax wing => Sys2Proof.Machine.execClrMax wing s
  | .quantumWrite wing quantum => Sys2Proof.Machine.execQuantumWrite wing quantum s
  | .wngDspQuery wing value => Sys2Proof.Machine.execWngDspQuery wing value s
  | .retrain link => Sys2Proof.Machine.execRetrain link s
  | .clrMin wing => Sys2Proof.Machine.execClrMin wing s
  | .locate value => Sys2Proof.Machine.execLocate value s
  | .medFcCtrlWrite value => Sys2Proof.Machine.execMedFcCtrlWrite value s
  | .mscRclWeightWrite value => Sys2Proof.Machine.execMscRclWeightWrite value s
  | .mscRclCtrlWrite value => Sys2Proof.Machine.execMscRclCtrlWrite value s
  | .mscPlcCtrlWrite value => Sys2Proof.Machine.execMscPlcCtrlWrite value s
  | .cmpCtrlWrite wing value => Sys2Proof.Machine.execCmpCtrlWrite wing value s
  | .rteCfgWrite value => Sys2Proof.Machine.execRteCfgWrite value s
  | .lowHalfRead offset => Sys2Proof.Machine.execLowHalfRead offset s
  | .lowHalfWrite offset value => Sys2Proof.Machine.execLowHalfWrite offset value s
  | .highHalfWrite offset value => Sys2Proof.Machine.execHighHalfWrite offset value s
  | .registerWrite fn offset value => Sys2Proof.Machine.execRegisterWrite fn offset value s
  | .hostTransferDone station r part good => Sys2Proof.Machine.execHostTransferDone station r part good s
  | .dlUp => Sys2Proof.Machine.execDlUp s
  | .linkPowerStateChange inL1 width => Sys2Proof.Machine.execLinkPowerStateChange inL1 width s
  | .linkTrained link => Sys2Proof.Machine.execLinkTrained link s
  | .linkStateNews station links => Sys2Proof.Machine.execLinkStateNews station links s
  | .moveGrains station grains => Sys2Proof.Machine.execMoveGrains station grains s
  | .rebuildRead station seg index tag => Sys2Proof.Machine.execRebuildRead station seg index tag s
  | .joinRequest station variant200 fwSet group identity => Sys2Proof.Machine.execJoinRequest station variant200 fwSet group identity s
  | .forwardedData station r part atOwner data md => Sys2Proof.Machine.execForwardedData station r part atOwner data md s
  | .memberAcknowledgement station code a b result => Sys2Proof.Machine.execMemberAcknowledgement station code a b result s
  | .stationOperationRequest station code nums bytes => Sys2Proof.Machine.execStationOperationRequest station code nums bytes s
  | .firmwareSlotWritten readBack => Sys2Proof.Machine.execFirmwareSlotWritten readBack s

end Sys2Proof.Machine
end

