-- ==== Sys2Proof/Machine/YEncode.lean ====
section
/-! DEFINITION. Encoding Yusil instructions: the words that the tables of R393 to R398 give to each well-formed instruction. -/

namespace Sys2Proof.Machine

/-- The 7 bits of a specifier (R355). -/
def Spec.bits7 : Spec → Nat
  | .reg n => n
  | .ind n => 16 + n
  | .post n => 32 + n
  | .pre n => 48 + n
  | .frame n => 64 + n
  | .loop n => 80 + n
  | .lit n => 96 + n
  | .imm n => 112 + n

/-- A specifier's field fits its 4 bits. -/
def Spec.fits7 : Spec → Bool
  | .reg n => n < 16
  | .ind n => n < 16
  | .post n => n < 16
  | .pre n => n < 16
  | .frame n => n < 16
  | .loop n => n < 16
  | .lit n => n < 16
  | .imm n => n < 16

/-- The 5 bits of a brief specifier (R356). -/
def Spec.bits5 : Spec → Nat
  | .reg n => n
  | .ind n => 8 + n
  | .post n => 16 + n
  | .frame n => 24 + n
  | _ => 0

/-- A brief specifier has one of four modes and a field of 3 bits. -/
def Spec.fits5 : Spec → Bool
  | .reg n => n < 8
  | .ind n => n < 8
  | .post n => n < 8
  | .frame n => n < 8
  | _ => false

/-- The code of an operand size: .b, .h, .w, .d (R393). -/
def sizeCode (n : Nat) : Nat := if n = 1 then 0 else if n = 2 then 1 else if n = 4 then 2 else 3

/-- The full-form opcode of an operation; none for one that has a brief form only (R397). -/
def fullOpcode : YOp → Option Nat
  | .mov => some 0x00
  | .add => some 0x01
  | .adc => some 0x02
  | .sub => some 0x03
  | .sbc => some 0x04
  | .neg => some 0x05
  | .mul => some 0x06
  | .mulhu => some 0x07
  | .mulhs => some 0x08
  | .divu => some 0x09
  | .divs => some 0x0A
  | .remu => some 0x0B
  | .rems => some 0x0C
  | .minu => some 0x0D
  | .maxu => some 0x0E
  | .mins => some 0x0F
  | .maxs => some 0x10
  | .band => some 0x11
  | .bor => some 0x12
  | .bxor => some 0x13
  | .andn => some 0x14
  | .bnot => some 0x15
  | .shl => some 0x16
  | .shr => some 0x17
  | .sar => some 0x18
  | .rol => some 0x19
  | .ror => some 0x1A
  | .popc => some 0x1B
  | .clz => some 0x1C
  | .ctz => some 0x1D
  | .bswap => some 0x1E
  | .sext => some 0x1F
  | .zext => some 0x20
  | .cmp => some 0x21
  | .tst => some 0x22
  | .setc => some 0x23
  | .cas => some 0x24
  | .movst => some 0x25
  | .setst => some 0x26
  | .btst => some 0x27
  | .bset => some 0x28
  | .bclr => some 0x29
  | .br => some 0x30
  | .jmp => some 0x31
  | .call => some 0x32
  | .loop => some 0x33
  | .rdcnt => some 0x38
  | .wait => some 0x39
  | .post => some 0x3A
  | .ret => none
  | .leave => none
  | .yld => none
  | .nop => none
  | .movi => none
  | .addi => none
  | .subi => none
  | .cmpi => none
  | .shli => none
  | .shri => none
  | .sari => none

/-- The brief opcode of an operation at a source size; none for one that has none (R398). -/
def briefOpcode (op : YOp) (size : Nat) : Option Nat :=
  match op with
  | .mov => some (if size = 8 then 0x02 else if size = 4 then 0x03 else if size = 2 then 0x04 else 0x05)
  | .sext => some (if size = 4 then 0x16 else if size = 2 then 0x17 else 0x18)
  | .nop => some 0x01
  | .add => some 0x06
  | .adc => some 0x07
  | .sub => some 0x08
  | .sbc => some 0x09
  | .band => some 0x0A
  | .bor => some 0x0B
  | .bxor => some 0x0C
  | .andn => some 0x0D
  | .shl => some 0x0E
  | .shr => some 0x0F
  | .sar => some 0x10
  | .mul => some 0x11
  | .cmp => some 0x12
  | .tst => some 0x13
  | .neg => some 0x14
  | .bnot => some 0x15
  | .movi => some 0x19
  | .addi => some 0x1A
  | .subi => some 0x1B
  | .cmpi => some 0x1C
  | .shli => some 0x1D
  | .shri => some 0x1E
  | .sari => some 0x1F
  | .btst => some 0x20
  | .bset => some 0x21
  | .bclr => some 0x22
  | .minu => some 0x23
  | .maxu => some 0x24
  | .mins => some 0x25
  | .maxs => some 0x26
  | .popc => some 0x27
  | .clz => some 0x28
  | .ctz => some 0x29
  | .bswap => some 0x2A
  | .jmp => some 0x2B
  | .ret => some 0x2C
  | .leave => some 0x2D
  | .yld => some 0x2E
  | .movst => some 0x2F
  | .mulhu => none
  | .mulhs => none
  | .divu => none
  | .divs => none
  | .remu => none
  | .rems => none
  | .rol => none
  | .ror => none
  | .zext => none
  | .setc => none
  | .cas => none
  | .setst => none
  | .br => none
  | .call => none
  | .loop => none
  | .rdcnt => none
  | .wait => none
  | .post => none

/-- A specifier is there and fits where the row uses it, and is not there where it does not. -/
def specOk (use : Bool) (fits : Spec → Bool) : Option Spec → Bool
  | none => !use
  | some x => use && fits x

/-- The bits of a specifier that may be absent. -/
def optBits (f : Spec → Nat) : Option Spec → Nat
  | none => 0
  | some x => f x

/-- A specifier of a full-form destination. -/
def destOk (x : Spec) : Bool := x.fits7 && specDest x

/-- The specifier is the register mode. -/
def isReg : Spec → Bool
  | .reg _ => true
  | _ => false

/-- The fields that an instruction's form does not have hold 0. -/
def YInstr.rest (i : YInstr) (n cond disp mask level body : Bool) : Bool :=
  (n || i.n == 0) && (cond || i.cond == 0) && (disp || i.disp == 0) && (mask || i.mask == 0) && (level || i.level == 0) && (body || i.body == 0)

/-- A well-formed instruction of the full form: the operation has one, at a size its row allows, with the operands its row uses
(R393 to R397). -/
def YInstr.fullOk (i : YInstr) : Bool :=
  i.len == 4 && !i.brief &&
  match i.op with
  | .br => i.size == 1 && i.dsize == 1 && i.d.isNone && i.s1.isNone && i.s2.isNone && decide (i.cond < 15) && decide (i.disp < 2 ^ 17)
      && i.rest false true true false false false
  | .call => i.size == 8 && i.dsize == 8 && i.d.isNone && specOk true Spec.fits5 i.s1 && i.s2.isNone && decide (i.mask < 2 ^ 15)
      && i.rest false false false true false false
  | .loop => [1, 2, 4, 8].contains i.size && i.dsize == i.size && i.d.isNone && specOk true Spec.fits7 i.s1 && i.s2.isNone
      && decide (i.level < 4) && decide (0 < i.body ∧ i.body < 2 ^ 12) && i.rest false false false false true true
  | .setc => [1, 2, 4, 8].contains i.size && i.dsize == i.size && specOk true destOk i.d && i.s1.isNone && i.s2.isNone
      && decide (i.cond < 15) && i.rest false true false false false false
  | _ => match (fullOpcode i.op).bind fullRow with
    | some (_, sizes, useD, use1, use2) =>
      [1, 2, 4, 8].contains i.size && sizes.contains (sizeCode i.size)
      && i.dsize == (if i.op = .sext ∨ i.op = .zext then 8 else i.size)
      && specOk useD destOk i.d && specOk use1 Spec.fits7 i.s1 && specOk use2 Spec.fits7 i.s2
      && !(decide (i.op = .cas) && i.d.any isReg) && i.rest false false false false false false
    | none => false

/-- A well-formed instruction of the brief form (R398). -/
def YInstr.briefOk (i : YInstr) : Bool :=
  i.len == 2 && i.brief && i.s2.isNone &&
  match (briefOpcode i.op i.size).bind briefRow with
  | some (_, sz, dsz, k) =>
    i.size == sz && i.dsize == dsz &&
    match k with
    | .none => i.d.isNone && i.s1.isNone && i.rest false false false false false false
    | .dOnly => specOk true Spec.fits5 i.d && i.s1.isNone && i.rest false false false false false false
    | .imm => specOk true Spec.fits5 i.d && i.s1.isNone && decide (i.n < 32) && i.rest true false false false false false
    | .two => specOk true Spec.fits5 i.d && specOk true Spec.fits5 i.s1 && i.rest false false false false false false
    | .move => specOk true Spec.fits5 i.d && specOk true Spec.fits5 i.s1 && i.rest false false false false false false
  | none => false

/-- The 32 bits of an instruction of the full form, its first halfword uppermost (R352, R393 to R397). -/
def encodeFull (i : YInstr) : Nat :=
  3 * 2 ^ 30 + (fullOpcode i.op).getD 0 * 2 ^ 23 +
  match i.op with
  | .br => i.cond * 2 ^ 17 + i.disp
  | .call => i.mask * 2 ^ 5 + optBits Spec.bits5 i.s1
  | .loop => sizeCode i.size * 2 ^ 21 + i.level * 2 ^ 19 + optBits Spec.bits7 i.s1 * 2 ^ 12 + i.body
  | .setc => sizeCode i.size * 2 ^ 21 + optBits Spec.bits7 i.d * 2 ^ 14 + i.cond
  | _ => sizeCode i.size * 2 ^ 21 + optBits Spec.bits7 i.d * 2 ^ 14 + optBits Spec.bits7 i.s1 * 2 ^ 7 + optBits Spec.bits7 i.s2

/-- The 16 bits of an instruction of the brief form (R353, R398). -/
def encodeBrief (i : YInstr) : Nat :=
  (briefOpcode i.op i.size).getD 0 * 2 ^ 10 + optBits Spec.bits5 i.d * 2 ^ 5 + optBits Spec.bits5 i.s1 + i.n

/-- The bytes of a well-formed instruction in the order they lie in the code hold (R351, R352). -/
def encodeYusil (i : YInstr) : List Byte :=
  if i.brief then leBytes 2 (encodeBrief i) else leBytes 2 (encodeFull i / 2 ^ 16) ++ leBytes 2 (encodeFull i % 2 ^ 16)

end Sys2Proof.Machine
end

