-- ==== Sys2Proof/Safety.lean ====
section
/-! DEFINITION. What every step keeps, in the terms of the statements. -/

namespace Sys2Proof.Machine

/-- The copies of the charter are in their canonical form: the staging copy, the active copy, and the copy each waiting commit took at its
admission (R652, R662). -/
def CharterWf (staging active : Memory) (waits : List CommitReq) : Prop :=
  Memory.wf staging ∧ Memory.wf active ∧ ∀ q ∈ waits, Memory.wf q.copy

/-- What a step may not change, given the parts of the state it concerns: the queue and what the module was made as; fuses burn and never
clear (R738, 64 of them); the copies of the charter stay canonical; free values are drawn in turn; the count of power cycles never falls
(R786; it stops at its 24 bits). -/
def KeepsParts (s : State) (pending : List Instr) (cfg : ModuleCfg) (svn revoked : Nat) (staging active : Memory) (waits : List CommitReq)
    (free cycles : Nat) : Prop :=
  pending = s.pending ∧ cfg = s.cfg ∧ min 64 s.sec.svn ≤ svn ∧ Nat.lor s.sec.revoked revoked = revoked ∧
    (CharterWf s.chr.staging s.chr.active s.chr.commitWait → CharterWf staging active waits) ∧
    s.free ≤ free ∧ min (2 ^ 24 - 1) s.cnt.powerCycles ≤ cycles

/-- From s to t the promises of `KeepsParts` hold. -/
def Keeps (s t : State) : Prop :=
  KeepsParts s t.pending t.cfg t.sec.svn t.sec.revoked t.chr.staging t.chr.active t.chr.commitWait t.free t.cnt.powerCycles

/-- From s to t nothing changes but the parts cnt, disp, evt, host, log. -/
def NotesOnly (s t : State) : Prop :=
  t.pending = s.pending ∧ t.cfg = s.cfg ∧ t.td17 = s.td17 ∧ t.mode = s.mode ∧ t.regs = s.regs ∧ t.prog = s.prog ∧
    t.siv = s.siv ∧ t.bcn = s.bcn ∧ t.chr = s.chr ∧ t.med = s.med ∧ t.plc = s.plc ∧ t.rte = s.rte ∧
    t.pwr = s.pwr ∧ t.kin = s.kin ∧ t.sec = s.sec ∧ t.drm = s.drm ∧ t.cmp = s.cmp ∧ t.free = s.free

/-- From s to t nothing changes but the parts cnt, evt, log, disp, chr, host. -/
def AnswersOnly (s t : State) : Prop :=
  t.pending = s.pending ∧ t.cfg = s.cfg ∧ t.td17 = s.td17 ∧ t.mode = s.mode ∧ t.regs = s.regs ∧ t.prog = s.prog ∧
    t.siv = s.siv ∧ t.bcn = s.bcn ∧ t.med = s.med ∧ t.plc = s.plc ∧ t.rte = s.rte ∧ t.pwr = s.pwr ∧
    t.kin = s.kin ∧ t.sec = s.sec ∧ t.drm = s.drm ∧ t.cmp = s.cmp ∧ t.free = s.free

/-- Core k is at an instruction of a task: the task in its run slot, the instruction at that task's pc, which does not run past the end of
an open loop's body (R350 to R352, R367). -/
def YAt (s : State) (k key : Nat) (t : Task) (i : YInstr) : Prop :=
  (getCore s k).run = some key ∧ getTask s key = some t ∧ fetchDecode t.code t.regs.pc.toNat = .ok i ∧
    crossesLoop t.regs t.regs.pc.toNat i.len = false

/-- The operands of the instruction a core is at resolve with no fault: the registers after every register effect, the values of the
sources, the place of the destination, and the state after the reads, none of which meets a poisoned line (R355 to R361, R380, R761). -/
def YReads (s : State) (k key : Nat) (t : Task) (i : YInstr) (u : DestUse) (r : YRegs) (a b : Nat) (la lb ld : Option Loc) (s2 : State) : Prop :=
  YAt s k key t i ∧ (if i.brief then briefOperands s t i u.rd u.wr else fullOperands s t i u.rd u.wr) = .ok r la lb ld ∧
    (∃ s1, readLoc s key la (if i.brief ∧ u.rd then i.dsize else i.size) = (a, s1) ∧ readLoc s1 key lb i.size = (b, s2)) ∧
    (operandAccesses la lb ld u i.brief).reads.any (fun x => readPoisoned s x 1) = false

/-- The address after an instruction. -/
def YNext (t : Task) (i : YInstr) : Nat := t.regs.pc.toNat + i.len

/-- The registers of a task whose next instruction stands at an address, after the end check there (R364). -/
def regsAt (r : YRegs) (next : Nat) : YRegs := { (endCheck 4 r next).1 with pc := BitVec.ofNat 64 (endCheck 4 r next).2.1 }

/-- An instruction that falls through retires: the registers, the end check, the counters of its core, the pages of its hold
(R334, R364, R386). -/
def retires (k key : Nat) (t : Task) (i : YInstr) (a : Accesses) (miss : Bool) (r : YRegs) (next : Nat) (s : State) : State :=
  retire k key (handleOf key t) t.regs.pc.toNat i.len a (endCheck 4 r next).2.2 miss (updTask key (fun t => { t with regs := regsAt r next }) s)

/-- An instruction that transfers control retires: no end check (R365). -/
def transfers (k key : Nat) (t : Task) (i : YInstr) (a : Accesses) (miss : Bool) (r : YRegs) (next : Nat) (s : State) : State :=
  retire k key (handleOf key t) t.regs.pc.toNat i.len a 0 miss (updTask key (fun t => { t with regs := { r with pc := BitVec.ofNat 64 next } }) s)

/-- The task running on a core writes a word of a door, and nothing stands against it: the address and the value pass their checks, no post
queue is full, and the write makes the module read no poisoned line (R380, R761, R917). -/
def DoorOpen (s : State) (k key : Nat) (t : Task) (n off v : Nat) : Prop :=
  (getCore s k).run = some key ∧ getTask s key = some t ∧ accessFault s t (0x100000 + 0x1000 * n + off) 8 true = 0 ∧
    doorWriteFault s key t n off v = 0 ∧ doorWaits s t n off = none ∧ doorReadsBad s key n off v = false

/-- A requester writes a word of a unit, and nothing stands against it; its context: 0 for the PF, its key + 1 for a task (R303, R904). -/
def UnitOpen (s : State) (r : Requester) (n off v ctx : Nat) : Prop :=
  (r = .pf ∧ pfWrites s = true ∧ ctx = 0) ∨ ∃ k key t, r = .core k ∧ DoorOpen s k key t n off v ∧ ctx = key + 1

end Sys2Proof.Machine
end

