-- ==== Sys2Proof/Certificates/Slice0/Obligations.lean ====
section
/-! DEFINITION. The statements about the model, for the provers: what each command does, what every step keeps, what the Yusil decoder
reads. -/

open Sys2Proof Sys2Proof.Machine

/-! The block as a whole. -/

/-- The command at the front of the queue runs on the state with the queue's rest (the queue is the model's: log entry 1). -/
def Obligations.StepRunsTheFrontCommand : Prop :=
  ∀ (c : Instr) (rest : List Instr) (s : State), s.pending = c :: rest → step s = exec c { s with pending := rest }

/-- TD17 runs in every state but Dark (R17); one nanosecond a step on an empty queue is the model's choice (log entry 1). -/
def Obligations.EmptyQueueTicksTd17 : Prop :=
  ∀ s : State, s.pending = [] →
    (s.mode.mode ≠ .dark → step s = .next { s with td17 := s.td17 + 1 }) ∧ (s.mode.mode = .dark → step s = .next s)

/-- The spec gives every command an effect in every state, if only none: no command stops the block, and none touches the queue or what the
module was made as. -/
def Obligations.NoCommandStops : Prop :=
  ∀ (c : Instr) (s : State), ∃ t, exec c s = .next t ∧ t.pending = s.pending ∧ t.cfg = s.cfg

/-- What every step keeps, from every state: fuses burn and never clear (R738), the copies of the charter stay canonical, no free value is
drawn twice, and the count of power cycles does not fall below what its 24 bits held (R786). -/
def Obligations.EveryStepKeeps : Prop :=
  ∀ s t : State, step s = .next t →
    t.cfg = s.cfg ∧ min 64 s.sec.svn ≤ t.sec.svn ∧ Nat.lor s.sec.revoked t.sec.revoked = t.sec.revoked ∧
    (CharterWf s.chr.staging s.chr.active s.chr.commitWait → CharterWf t.chr.staging t.chr.active t.chr.commitWait) ∧
    s.free ≤ t.free ∧ min (2 ^ 24 - 1) s.cnt.powerCycles ≤ t.cnt.powerCycles

/-- Reset: Dark and without power (R31), nothing waiting, the copies of the charter in canonical form. -/
def Obligations.ResetIsDarkAndCanonical : Prop :=
  State.reset.pending = [] ∧ State.reset.mode.mode = .dark ∧ State.reset.pwr.pwrEn = false ∧ State.reset.host.out = [] ∧
    State.reset.td17 = 0 ∧ CharterWf State.reset.chr.staging State.reset.chr.active State.reset.chr.commitWait

/-- Decoding and encoding Yusil instructions agree in both forms (R352, R353, R393 to R398). -/
def Obligations.YusilDecodeOfEncode : Prop :=
  (∀ i : YInstr, i.fullOk = true → encodeFull i / 2 ^ 30 = 3 ∧ decodeFull (encodeFull i) = some i) ∧
  (∀ i : YInstr, i.briefOk = true → encodeBrief i / 2 ^ 14 < 3 ∧ decodeBrief (encodeBrief i) = some i) ∧
  (∀ (w : Nat) (i : YInstr), w / 2 ^ 30 = 3 → decodeFull w = some i → i.fullOk = true ∧ encodeFull i = w) ∧
  (∀ (h : Nat) (i : YInstr), h < 2 ^ 16 → decodeBrief h = some i → i.briefOk = true ∧ encodeBrief i = h)

/-- Fetching the bytes of a well-formed instruction gives it (R350 to R352). -/
def Obligations.YusilFetchOfEncode : Prop :=
  ∀ (code : Memory) (pc : Nat) (i : YInstr), (if i.brief then i.briefOk else i.fullOk) = true → 0x10000 ≤ pc → pc + i.len ≤ 0x20000 → pc % 2 = 0 →
    Memory.readBytes code (pc - 0x10000) i.len = encodeYusil i → fetchDecode code pc = .ok i

/-! Yusil. -/

/-- Results and the C and V of ADD and SUB at the four operand sizes are those of two's-complement arithmetic (R394, R397, R399, R400). -/
def Obligations.YusilArithmeticIsTwosComplement : Prop :=
  ∀ w : Nat, w = 8 ∨ w = 16 ∨ w = 32 ∨ w = 64 → ∀ a b : BitVec w,
    ((yAdd w a.toNat b.toNat 0).r = (a + b).toNat ∧ (yAdd w a.toNat b.toNat 0).f.c = a.uaddOverflow b ∧
      (yAdd w a.toNat b.toNat 0).f.v = a.saddOverflow b) ∧
    ((ySub w a.toNat b.toNat 0).r = (a - b).toNat ∧ (ySub w a.toNat b.toNat 0).f.c = a.usubOverflow b ∧
      (ySub w a.toNat b.toNat 0).f.v = a.ssubOverflow b) ∧
    (yMul w a.toNat b.toNat).r = (a * b).toNat ∧
    (yMulhu w a.toNat b.toNat).r = ((a.setWidth (2 * w) * b.setWidth (2 * w)) >>> w).toNat % 2 ^ w ∧
    (yMulhs w a.toNat b.toNat).r = ((a.signExtend (2 * w) * b.signExtend (2 * w)) >>> w).toNat % 2 ^ w ∧
    ((yAnd w a.toNat b.toNat).r = (a &&& b).toNat ∧ (yOr w a.toNat b.toNat).r = (a ||| b).toNat ∧
      (yXor w a.toNat b.toNat).r = (a ^^^ b).toNat ∧ (yAndn w a.toNat b.toNat).r = (a &&& ~~~b).toNat ∧ (yNot w a.toNat).r = (~~~a).toNat) ∧
    ((yMinu w a.toNat b.toNat).r = (if a ≤ b then a else b).toNat ∧ (yMaxu w a.toNat b.toNat).r = (if a ≤ b then b else a).toNat ∧
      (yMins w a.toNat b.toNat).r = (if a.sle b then a else b).toNat ∧ (yMaxs w a.toNat b.toNat).r = (if a.sle b then b else a).toNat) ∧
    (b ≠ 0 → (yDivu w a.toNat b.toNat).map (·.r) = some (a / b).toNat ∧ (yRemu w a.toNat b.toNat).map (·.r) = some (a % b).toNat ∧
      (yDivs w a.toNat b.toNat).map (·.r) = some (a.sdiv b).toNat ∧ (yRems w a.toNat b.toNat).map (·.r) = some (a.srem b).toNat) ∧
    (∀ n < w, (yShl w a.toNat n).r = (a <<< n).toNat ∧ (yShr w a.toNat n).r = (a >>> n).toNat ∧ (ySar w a.toNat n).r = (a.sshiftRight n).toNat ∧
      (yRol w a.toNat n).r = (a.rotateLeft n).toNat ∧ (yRor w a.toNat n).r = (a.rotateRight n).toNat) ∧
    signExt w a.toNat = (a.signExtend 64).toNat

/-- Operations of two sources complete with result and flags (R394, R397 to R399). What completing does is stated by
CompletedInstructionWritesItsDestination. -/
def Obligations.TwoSourceOperationsComplete : Prop :=
  ∀ e ∈ ([(Instr.add, YOp.add, fun w a b _ => yAdd w a b 0), (Instr.adc, YOp.adc, fun w a b f => yAdd w a b (b2n f.c)),
      (Instr.sub, YOp.sub, fun w a b _ => ySub w a b 0), (Instr.sbc, YOp.sbc, fun w a b f => ySub w a b (b2n f.c)),
      (Instr.mul, YOp.mul, fun w a b _ => yMul w a b), (Instr.mulhu, YOp.mulhu, fun w a b _ => yMulhu w a b),
      (Instr.mulhs, YOp.mulhs, fun w a b _ => yMulhs w a b), (Instr.minu, YOp.minu, fun w a b _ => yMinu w a b),
      (Instr.maxu, YOp.maxu, fun w a b _ => yMaxu w a b), (Instr.mins, YOp.mins, fun w a b _ => yMins w a b),
      (Instr.maxs, YOp.maxs, fun w a b _ => yMaxs w a b), (Instr.and, YOp.band, fun w a b _ => yAnd w a b),
      (Instr.or, YOp.bor, fun w a b _ => yOr w a b), (Instr.xor, YOp.bxor, fun w a b _ => yXor w a b),
      (Instr.andn, YOp.andn, fun w a b _ => yAndn w a b), (Instr.shl, YOp.shl, fun w a b _ => yShl w a (b % w)),
      (Instr.shr, YOp.shr, fun w a b _ => yShr w a (b % w)), (Instr.sar, YOp.sar, fun w a b _ => ySar w a (b % w)),
      (Instr.rol, YOp.rol, fun w a b _ => yRol w a (b % w)), (Instr.ror, YOp.ror, fun w a b _ => yRor w a (b % w))] :
      List ((Fin 256 → Bool → Instr) × YOp × (Nat → Nat → Nat → YFlags → YResult))),
    ∀ (core : Fin 256) (miss : Bool) (s s2 : State) (key : Nat) (t : Task) (i : YInstr) (r : YRegs) (a b : Nat) (la lb ld : Option Loc),
      i.op = e.2.1 → YReads s core key t i { rd := i.brief, wr := true } r a b la lb ld s2 →
      let o := e.2.2 (8 * i.size) a b (flagsOf r)
      exec (e.1 core miss) s = .next (complete core key t i ld (operandAccesses la lb ld { rd := i.brief, wr := true } i.brief) miss s2
        (withFlags r o.f) (some o.r) (YNext t i) false)

/-- Operations of one source, moves, immediates, SET and MOVST complete with their result (R394, R397, R398, R401, R411). -/
def Obligations.OneSourceOperationsComplete : Prop :=
  ∀ (core : Fin 256) (miss : Bool) (s s2 : State) (key : Nat) (t : Task) (i : YInstr) (r : YRegs) (a b : Nat) (la lb ld : Option Loc),
    (∀ e ∈ ([(Instr.neg, YOp.neg, fun w a => ySub w 0 a 0), (Instr.not, YOp.bnot, yNot), (Instr.popc, YOp.popc, yPopc),
        (Instr.clz, YOp.clz, yClz), (Instr.ctz, YOp.ctz, yCtz)] : List ((Fin 256 → Bool → Instr) × YOp × (Nat → Nat → YResult))),
      i.op = e.2.1 → YReads s core key t i { rd := false, wr := true } r a b la lb ld s2 →
      exec (e.1 core miss) s = .next (complete core key t i ld (operandAccesses la lb ld { rd := false, wr := true } i.brief) miss s2
        (withFlags r (e.2.2 (8 * i.size) a).f) (some (e.2.2 (8 * i.size) a).r) (YNext t i) false)) ∧
    (∀ e ∈ ([(Instr.mov, YOp.mov, fun _ a => a), (Instr.bswap, YOp.bswap, byteSwap), (Instr.sext, YOp.sext, fun sz a => signExt (8 * sz) a),
        (Instr.zext, YOp.zext, fun _ a => a)] : List ((Fin 256 → Bool → Instr) × YOp × (Nat → Nat → Nat))),
      i.op = e.2.1 → YReads s core key t i { rd := false, wr := true } r a b la lb ld s2 →
      exec (e.1 core miss) s = .next (complete core key t i ld (operandAccesses la lb ld { rd := false, wr := true } i.brief) miss s2
        r (some (e.2.2 i.size a)) (YNext t i) false)) ∧
    (∀ e ∈ ([(Instr.addi, YOp.addi, true, fun a n => yAdd 64 a n 0), (Instr.subi, YOp.subi, true, fun a n => ySub 64 a n 0),
        (Instr.shli, YOp.shli, true, fun a n => yShl 64 a n), (Instr.shri, YOp.shri, true, fun a n => yShr 64 a n),
        (Instr.sari, YOp.sari, true, fun a n => ySar 64 a n), (Instr.cmpi, YOp.cmpi, false, fun a n => ySub 64 a n 0)] :
        List ((Fin 256 → Bool → Instr) × YOp × Bool × (Nat → Nat → YResult))),
      i.op = e.2.1 → YReads s core key t i { rd := true, wr := e.2.2.1 } r a b la lb ld s2 →
      exec (e.1 core miss) s = .next (complete core key t i ld (operandAccesses la lb ld { rd := true, wr := e.2.2.1 } i.brief) miss s2
        (withFlags r (e.2.2.2 a i.n).f) (if e.2.2.1 then some (e.2.2.2 a i.n).r else none) (YNext t i) false)) ∧
    (∀ e ∈ ([(Instr.movi, YOp.movi, fun i _ => i.n), (Instr.set, YOp.setc, fun i r => b2n (condHolds i.cond (flagsOf r))),
        (Instr.movst, YOp.movst, fun _ r => stWord { r with fault := 0 })] : List ((Fin 256 → Bool → Instr) × YOp × (YInstr → YRegs → Nat))),
      i.op = e.2.1 → YReads s core key t i { rd := false, wr := true } r a b la lb ld s2 →
      exec (e.1 core miss) s = .next (complete core key t i ld (operandAccesses la lb ld { rd := false, wr := true } i.brief) miss s2
        r (some (e.2.2 i r)) (YNext t i) false))

/-- Divisions (R397, R400); a zero divisor is ARITH, reported precisely (R379). -/
def Obligations.DivisionsCompleteOrFault : Prop :=
  ∀ e ∈ ([(Instr.divu, YOp.divu, yDivu), (Instr.divs, YOp.divs, yDivs), (Instr.remu, YOp.remu, yRemu), (Instr.rems, YOp.rems, yRems)] :
      List ((Fin 256 → Bool → Instr) × YOp × (Nat → Nat → Nat → Option YResult))),
    ∀ (core : Fin 256) (miss : Bool) (s s2 : State) (key : Nat) (t : Task) (i : YInstr) (r : YRegs) (a b : Nat) (la lb ld : Option Loc),
      i.op = e.2.1 → YReads s core key t i { rd := i.brief, wr := true } r a b la lb ld s2 →
      (b ≠ 0 → ∃ o, e.2.2 (8 * i.size) a b = some o ∧
        exec (e.1 core miss) s = .next (complete core key t i ld (operandAccesses la lb ld { rd := i.brief, wr := true } i.brief) miss s2
          (withFlags r o.f) (some o.r) (YNext t i) false)) ∧
      (b = 0 → exec (e.1 core miss) s = .next (stopTask key t 0x0D t.regs.pc.toNat
        (denyKindOf (operandAccesses la lb ld { rd := i.brief, wr := true } i.brief) false) s))

/-- Comparisons, single bits and SETST (R397, R398, R411). The bit of BTST, BSET and BCLR is n in a brief form, else the second source
modulo the width. -/
def Obligations.ComparisonsAndBitsComplete : Prop :=
  ∀ (core : Fin 256) (miss : Bool) (s s2 : State) (key : Nat) (t : Task) (i : YInstr) (r : YRegs) (a b : Nat) (la lb ld : Option Loc),
    (∀ e ∈ ([(Instr.cmp, YOp.cmp, fun w a b => ySub w a b 0), (Instr.tst, YOp.tst, fun w a b => yAnd w a b)] :
        List ((Fin 256 → Bool → Instr) × YOp × (Nat → Nat → Nat → YResult))),
      i.op = e.2.1 → YReads s core key t i { rd := i.brief, wr := false } r a b la lb ld s2 →
      exec (e.1 core miss) s = .next (complete core key t i ld (operandAccesses la lb ld { rd := i.brief, wr := false } i.brief) miss s2
        (withFlags r (e.2.2 (8 * i.size) a b).f) none (YNext t i) false)) ∧
    (i.op = .btst → YReads s core key t i { rd := i.brief, wr := false } r a b la lb ld s2 →
      exec (.btst core miss) s = .next (complete core key t i ld (operandAccesses la lb ld { rd := i.brief, wr := false } i.brief) miss s2
        { r with z := !a.testBit (if i.brief then i.n else b % (8 * i.size)) } none (YNext t i) false)) ∧
    (i.op = .bset → YReads s core key t i { rd := i.brief, wr := true } r a b la lb ld s2 →
      exec (.bset core miss) s = .next (complete core key t i ld (operandAccesses la lb ld { rd := i.brief, wr := true } i.brief) miss s2
        r (some (a ||| 2 ^ (if i.brief then i.n else b % (8 * i.size)))) (YNext t i) false)) ∧
    (i.op = .bclr → YReads s core key t i { rd := i.brief, wr := true } r a b la lb ld s2 → ∃ x,
      exec (.bclr core miss) s = .next (complete core key t i ld (operandAccesses la lb ld { rd := i.brief, wr := true } i.brief) miss s2
        r (some x) (YNext t i) false) ∧
      ∀ n, x.testBit n = (a.testBit n && decide (n ≠ if i.brief then i.n else b % (8 * i.size)))) ∧
    (i.op = .setst → YReads s core key t i { rd := false, wr := false } r a b la lb ld s2 →
      exec (.setst core miss) s = .next (complete core key t i ld (operandAccesses la lb ld { rd := false, wr := false } i.brief) miss s2
        { r with z := a.testBit 0, n := a.testBit 1, c := a.testBit 2, v := a.testBit 3 } none (YNext t i) false))

/-- What completing an instruction does (R357 to R359, R364, R379), and CAS (R403). -/
def Obligations.CompletedInstructionWritesItsDestination : Prop :=
  ∀ (core : Fin 256) (miss : Bool) (s s2 : State) (key : Nat) (t : Task) (i : YInstr) (r : YRegs) (a b : Nat) (la lb ld : Option Loc)
    (acc : Accesses) (next x : Nat),
    complete core key t i ld acc miss s r none next false = retires core key t i acc miss r next s ∧
    (∀ n v, complete core key t i (some (.reg n v)) acc miss s r (some x) next false =
      updTask key (fun t => { t with regs := setReg t.regs n (BitVec.ofNat 64 (x % 2 ^ (8 * i.dsize))) })
        (retires core key t i acc miss r next s)) ∧
    (∀ p off, regionOf p = .data off → complete core key t i (some (.mem p)) acc miss s r (some x) next false =
      updTask key (fun t => { t with data := Memory.writeBytes t.data off (leBytes i.dsize x) }) (retires core key t i acc miss r next s)) ∧
    (∀ p off, regionOf p = .slm off → complete core key t i (some (.mem p)) acc miss s r (some x) next false =
      slmWrite off (leBytes i.dsize x) (retires core key t i acc miss r next s)) ∧
    (∀ p off, regionOf p = .staging off → complete core key t i (some (.mem p)) acc miss s r (some x) next false =
      stagingWrite (key / 2048) off (leBytes i.dsize x) (retires core key t i acc miss r next s)) ∧
    (∀ p, i.op = .cas → YReads s core key t i { rd := false, wr := false } r a b la lb (some (.mem p)) s2 → p % i.size = 0 →
      (∀ n off, regionOf p ≠ .door n off) → mayAccess t p i.size true = true → readPoisoned s p 1 = false →
      let old := (readLoc s2 key (some (.mem p)) i.size).1
      exec (.cas core miss) s = .next (retires core key t i
        { reads := (operandAccesses la lb (some (.mem p)) { rd := false, wr := false } i.brief).reads ++ [p], writes := if old = a then [p] else [] }
        miss { r with z := decide (old = a) } (YNext t i) (if old = a then writeLoc key (some (.mem p)) i.size b s2 else s2)))

/-- BR and JMP (R365, R395, R397, R398, R402). -/
def Obligations.BranchesTransferOrFallThrough : Prop :=
  ∀ (core : Fin 256) (miss : Bool) (s s2 : State) (key : Nat) (t : Task) (i : YInstr) (r : YRegs) (a b : Nat) (la lb ld : Option Loc),
    let even : Nat → Prop := fun x => 0x10000 ≤ x ∧ x < 0x20000 ∧ x % 2 = 0
    (i.op = .br → YReads s core key t i { rd := false, wr := false } r a b la lb ld s2 →
      let acc := operandAccesses la lb ld { rd := false, wr := false } i.brief
      let dest := (((t.regs.pc.toNat : Int) + 2 * signed 17 i.disp) % 2 ^ 64).toNat
      (condHolds i.cond (flagsOf r) = true → even dest → exec (.br core miss) s = .next (transfers core key t i acc miss r dest s2)) ∧
      (condHolds i.cond (flagsOf r) = true → ¬ even dest →
        exec (.br core miss) s = .next (stopTask key t 0x02 t.regs.pc.toNat (denyKindOf acc false) s)) ∧
      (condHolds i.cond (flagsOf r) = false → exec (.br core miss) s = .next (retires core key t i acc miss r (YNext t i) s2))) ∧
    (i.op = .jmp → YReads s core key t i { rd := i.brief, wr := false } r a b la lb ld s2 →
      let acc := operandAccesses la lb ld { rd := i.brief, wr := false } i.brief
      (even a → exec (.jmp core miss) s = .next (transfers core key t i acc miss r a s2)) ∧
      (¬ even a → exec (.jmp core miss) s = .next (stopTask key t 0x02 t.regs.pc.toNat (denyKindOf acc false) s)))

/-- CALL and RET (R369 to R373). -/
def Obligations.CallPushesAndRetPops : Prop :=
  ∀ (core : Fin 256) (miss : Bool) (s s2 : State) (key : Nat) (t : Task) (i : YInstr) (r : YRegs) (a b : Nat) (la lb ld : Option Loc),
    (i.op = .call → YReads s core key t i { rd := false, wr := false } r a b la lb ld s2 → targetOk a = true →
      let acc := operandAccesses la lb ld { rd := false, wr := false } i.brief
      let vals := (maskDown i.mask).map (fun n => (getReg t.regs n).toNat) ++ [callFrame i.mask t.regs.ld (YNext t i)]
      let addrs := (List.range vals.length).map (fun k => (getReg r 15 - BitVec.ofNat 64 (8 * (k + 1))).toNat)
      storesFault s2 key t (addrs.zip vals) = 0 → (∀ x ∈ addrs, doorStall s2 t (some (.mem x)) = none) →
      exec (.call core miss) s = .next (transfers core key t i { acc with writes := acc.writes ++ addrs } miss
        (setReg r 15 (getReg r 15 - BitVec.ofNat 64 (8 * vals.length))) a (storeWords key (addrs.zip vals) s2))) ∧
    (i.op = .ret → YReads s core key t i { rd := false, wr := false } r a b la lb ld s2 →
      let acc := operandAccesses la lb ld { rd := false, wr := false } i.brief
      let sp := getReg r 15
      accessFault s2 t sp.toNat 8 false = 0 → readPoisoned s sp.toNat 1 = false →
      ∀ (h : Nat) (s3 : State), readLoc s2 key (some (.mem sp.toNat)) 8 = (h, s3) → bitsOf h 47 45 = r.ld →
        (h.testBit 0 = false →
          let ns := (List.range 16).filter (fun n => h.testBit (48 + n))
          let addrs := (List.range ns.length).map (fun k => (sp + BitVec.ofNat 64 (8 * (k + 1))).toNat)
          readsFault s3 t addrs = 0 → addrs.any (fun x => readPoisoned s x 1) = false → targetOk (2 * bitsOf h 44 1) = true →
          exec (.ret core miss) s = .next (transfers core key t i { acc with reads := acc.reads ++ (sp.toNat :: addrs) } miss
            (setRegs (setReg r 15 (sp + BitVec.ofNat 64 (8 * (ns.length + 1)))) (ns.zip (readWords key addrs s3).1)) (2 * bitsOf h 44 1)
            (readWords key addrs s3).2)) ∧
        (h.testBit 0 = true →
          let u := retire core key (handleOf key t) t.regs.pc.toNat i.len { acc with reads := acc.reads ++ [sp.toNat] } 0 miss
            (updTask key (fun t => { t with regs := setReg r 15 (sp + 8#64) }) s)
          exec (.ret core miss) s = .next (match t.kind with | .thread => threadExit key 0 u | .reduce => btEnd key u)))

/-- LOOP and LEAVE (R363, R365, R366, R402). -/
def Obligations.LoopsOpenAndClose : Prop :=
  ∀ (core : Fin 256) (miss : Bool) (s s2 : State) (key : Nat) (t : Task) (i : YInstr) (r : YRegs) (a b : Nat) (la lb ld : Option Loc),
    YReads s core key t i { rd := false, wr := false } r a b la lb ld s2 →
    let acc := operandAccesses la lb ld { rd := false, wr := false } i.brief
    let stop := YNext t i + 2 * i.body
    let fault := fun (c : Nat) => Host.Outcome.next (stopTask key t c t.regs.pc.toNat (denyKindOf acc false) s)
    (i.op = .loop →
      (4 ≤ r.ld → exec (.loop core miss) s = fault 0x07) ∧
      (r.ld < 4 → i.level ≠ r.ld → exec (.loop core miss) s = fault 0x08) ∧
      (r.ld < 4 → i.level = r.ld → 0x20000 < stop → exec (.loop core miss) s = fault 0x02) ∧
      (r.ld < 4 → i.level = r.ld → stop ≤ 0x20000 → 2 ^ 32 ≤ a → exec (.loop core miss) s = fault 0x0A) ∧
      (r.ld < 4 → i.level = r.ld → stop ≤ 0x20000 → a = 0 → exec (.loop core miss) s = .next (retires core key t i acc miss r stop s2)) ∧
      (r.ld < 4 → i.level = r.ld → stop ≤ 0x20000 → 0 < a → a < 2 ^ 32 →
        exec (.loop core miss) s = .next (transfers core key t i acc miss
          { r with lb := r.lb.setIfInBounds r.ld (BitVec.ofNat 64 (YNext t i)),
                   le := r.le.setIfInBounds r.ld (BitVec.ofNat 64 (a * 2 ^ 32 + stop)),
                   lc := r.lc.setIfInBounds r.ld 0, ld := r.ld + 1 } (YNext t i) s2))) ∧
    (i.op = .leave →
      (r.ld = 0 → exec (.leave core miss) s = fault 0x07) ∧
      (0 < r.ld → exec (.leave core miss) s = .next (retires core key t i acc miss { r with ld := r.ld - 1 } (YNext t i) s2)))

/-- RDCNT, WAIT, POST, YIELD and NOP (R386 to R388, R404 to R410). -/
def Obligations.TaskInstructionsComplete : Prop :=
  ∀ (core : Fin 256) (miss : Bool) (s s2 : State) (key : Nat) (t : Task) (i : YInstr) (r : YRegs) (a b : Nat) (la lb ld : Option Loc),
    let acc0 := operandAccesses la lb ld { rd := false, wr := false } i.brief
    let acc1 := operandAccesses la lb ld { rd := false, wr := true } i.brief
    (i.op = .rdcnt → YReads s core key t i { rd := false, wr := true } r a b la lb ld s2 →
      let fault := fun (c : Nat) => Host.Outcome.next (stopTask key t c t.regs.pc.toNat (denyKindOf acc1 false) s)
      let gives := fun (x : Nat) => Host.Outcome.next (complete core key t i ld acc1 miss s2 r (some x) (YNext t i) false)
      (chrCounter s2 t.fn a = false → exec (.rdcnt core miss) s = fault 0x06) ∧
      (chrCounter s2 t.fn a = true → a < 6 → exec (.rdcnt core miss) s = gives (Tbl.get 0 s2.cnt.slots (512 + 6 * core + a))) ∧
      (chrCounter s2 t.fn a = true → 6 ≤ a → counterSlot a = true → exec (.rdcnt core miss) s = gives (counterValue s2 a)) ∧
      (chrCounter s2 t.fn a = true → 6 ≤ a → counterSlot a = false → exec (.rdcnt core miss) s = fault 0x0C)) ∧
    (i.op = .wait → YReads s core key t i { rd := false, wr := true } r a b la lb ld s2 → ∀ u, getTask s2 key = some u →
      let mask : BitVec 32 := BitVec.ofNat 32 a
      mask ≠ 0 →
      (waitMet u.flags mask (b.testBit 0) = true → exec (.wait core miss) s = .next (complete core key t i ld acc1 miss
        (updTask key (fun t => { t with flags := t.flags &&& ~~~(u.flags &&& mask) }) s2) { r with z := false } (some (u.flags &&& mask).toNat)
        (YNext t i) false)) ∧
      (waitMet u.flags mask (b.testBit 0) = false → exec (.wait core miss) s =
        .next (blockTask key .waiting (fun t => { t with waitMask := mask, waitAll := b.testBit 0 }) s))) ∧
    (i.op = .post → YReads s core key t i { rd := false, wr := false } r a b la lb ld s2 →
      (liveTask s2 a = none → exec (.post core miss) s = .next (retires core key t i acc0 miss { r with z := true } (YNext t i) s2)) ∧
      (∀ k v, liveTask s2 a = some k → getTask s2 k = some v →
        (k / 2048 ≠ key / 2048 ∨ v.fn ≠ t.fn →
          exec (.post core miss) s = .next (retires core key t i acc0 miss { r with z := true } (YNext t i) s2)) ∧
        (k / 2048 = key / 2048 → v.fn = t.fn → b = 0 →
          exec (.post core miss) s = .next (retires core key t i acc0 miss { r with z := false } (YNext t i) s2)) ∧
        (k / 2048 = key / 2048 → v.fn = t.fn → b ≠ 0 → ∀ s3 ev, postTo a (BitVec.ofNat 32 b) 3 s2 = (s3, .posted, ev) →
          exec (.post core miss) s = .next (retires core key t i acc0 miss { r with z := false } (YNext t i)
            (if ev then raise (1048 + key / 2048) s3 else s3))) ∧
        (k / 2048 = key / 2048 → v.fn = t.fn → b ≠ 0 → 64 ≤ (getWing s2 (k / 2048)).postQ.length →
          exec (.post core miss) s = .next (markStall (key / 2048) 3 (blockTask key .stalled (fun t => { t with stallWing := key / 2048 }) s))))) ∧
    (i.op = .nop → YReads s core key t i { rd := false, wr := false } r a b la lb ld s2 →
      exec (.nop core miss) s = .next (retires core key t i acc0 miss r (YNext t i) s2)) ∧
    (i.op = .yld → YReads s core key t i { rd := false, wr := false } r a b la lb ld s2 →
      let u := retires core key t i acc0 miss r (YNext t i) s2
      exec (.yield core miss) s = .next (if (getCore u core).run = some key ∧ rivalReady core t.prio u = true then yieldCore core false u else u))

/-! Power, alarms, pace and Kindling. -/

/-- Input power (R31, R33, R813, R821, R822, R885). -/
def Obligations.InputPowerStartsKindlingOrFlush : Prop :=
  ∀ s : State,
    (s.mode.mode = .dark → s.pwr.needHold = false →
      exec .pwrEnAsserted s = .next (startKindling true { s with pwr := { s.pwr with pwrEn := true, mainIn := true } })) ∧
    (s.mode.mode = .dark → exec .pwrEnDeasserted s = .next { s with pwr := { s.pwr with pwrEn := false } }) ∧
    (s.mode.mode = .lit → exec .pwrEnDeasserted s = .next (startFlush 2 true { s with pwr := { s.pwr with pwrEn := false } })) ∧
    (s.mode.mode = .dark → exec .inputUndervoltage s = .next { s with pwr := { s.pwr with mainIn := false } } ∧
      exec .inputOvervoltage s = .next { s with pwr := { s.pwr with mainIn := false } }) ∧
    (s.mode.mode = .lit → s.med.flush = none →
      exec .inputUndervoltage s = .next (startFlush 1 true { s with pwr := { s.pwr with mainIn := false } }) ∧
      exec .inputOvervoltage s = .next (startFlush 3 true { s with pwr := { s.pwr with mainIn := false } })) ∧
    (s.mode.mode = .dark → s.pwr.pwrEn = true →
      exec .inputRestored s = .next (startKindling true { s with pwr := { s.pwr with mainIn := true, needHold := false } }))

/-- The ember flush (R41, R43, R161, R822). -/
def Obligations.EmberFlushStepsToItsEnd : Prop :=
  ∀ (s : State) (f : Flush), s.med.flush = some f →
    (f.step = 3 → f.wait = [] →
      exec .emberFlushStepDone s = .next { flushProgram s with med := { (flushProgram s).med with flush := some { f with step := 4 } } }) ∧
    (f.step = 4 → s.med.units.any (·.issued) = false → s.sec.xts = true →
      exec .emberFlushStepDone s = .next { flushJournal s with med := { (flushJournal s).med with flush := some { f with step := 5 } } }) ∧
    (f.step = 5 → allDurable s = true →
      exec .emberFlushStepDone s = .next { flushLog s with med := { (flushLog s).med with flush := some { f with step := 6 } } }) ∧
    (f.step = 6 → (f.toDark = true ∨ s.pwr.lostMain = true ∨ s.pwr.mainIn = false ∨ s.mode.mode ≠ .extinguished) →
      ∃ t, exec .emberFlushEnd s = .next t ∧ t.mode.mode = .dark ∧ t.pwr.needHold = true ∧ t.med.flush = none ∧
        t.med.clean = !(s.pwr.lostMain || !s.pwr.mainIn) ∧ t.pwr.flushLast = min 65535 ((s.td17 - s.pwr.flushStart) / 1000))

/-- Alarms (R731 to R733), sensors (R824 to R829), the supply (R815) and keeper cores (R385). -/
def Obligations.AlarmsSensorsAndSupply : Prop :=
  ∀ s : State,
    (∀ causes : BitVec 8, s.mode.mode = .lit → causes.toNat % 16 ≠ 0 → s.chr.spdmReq = false → llByte s 6 0 0 % 2 = 0 →
      let u := relockDebug (eraseKeys s);
        exec (.alarm causes) s = .next (extinguish 0x05 (logOcc 0x5001 1067 (leBytes 1 (causes.toNat % 16))
          { u with sec := { u.sec with alarm := Nat.lor u.sec.alarm (causes.toNat % 16) } }))) ∧
    (∀ (n : Fin 94) (x : Int) (selfTest : Bool), s.mode.mode ≠ .dark → (getSensor s n).cause = 0 →
      let u := clampVcore (if brokenCause s n x selfTest = 0 then readSensor n x s else breakSensor n x (brokenCause s n x selfTest) s);
        exec (.sensorRead n x selfTest) s = .next (setCritWarn 1 (tempCrossed u) u)) ∧
    (∀ vin iin dw store : Nat, s.mode.mode ≠ .dark →
      exec (.supplyMeasurement vin iin dw store) s = .next { s with pwr := { s.pwr with
        vin := vin, iin := iin, underSeen := s.pwr.underSeen || decide (vin < 9000), overSeen := s.pwr.overSeen || decide (60000 < vin),
        avg10 := avgStep 100 dw s.pwr.avg10, avg1 := avgStep 10000 dw s.pwr.avg1, vstore := store } }) ∧
    (∀ (w : Fin 8) (kcore code : BitVec 8) (pc : Word), s.mode.mode ≠ .dark → s.mode.wingOut.getLsbD w = false → kcore.toNat / 4 = w.val →
      let l := logOcc 0x6002 (1056 + w) (leBytes 1 code.toNat ++ leBytes 1 kcore.toNat ++ List.replicate 6 0 ++ leBytes 8 pc.toNat) s;
        let u := raise (1056 + w) { l with disp := { l.disp with keeperFault := Tbl.insert l.disp.keeperFault w s.td17 } };
        (Tbl.find s.disp.keeperFault w = none → exec (.keeperCoreFault w kcore code pc) s = .next u) ∧
        (∀ x, Tbl.find s.disp.keeperFault w = some x → s.td17 < x + 1000000000 → exec (.keeperCoreFault w kcore code pc) s = .next (wingFault w 4 u)))

/-- Hold-up checks (R816 to R820). -/
def Obligations.HoldupChecksRun : Prop :=
  ∀ s : State,
    (pfWrites s = true → s.pwr.checking = false →
      exec .checkNow s = .next { s with pwr := { s.pwr with checking := true, second := false } }) ∧
    (s.mode.mode = .lit → s.pwr.checking = false → s.pwr.checkedAt + 86400 ≤ s.cnt.opSeconds →
      exec .holdupCheckDue s = .next { s with pwr := { s.pwr with checking := true, second := false } }) ∧
    (s.mode.mode = .kindling → s.kin.done.contains 3 = true → s.pwr.charged = false →
      exec .holdupCharged s = .next { s with pwr := { s.pwr with charged := true, checking := true, second := false } }) ∧
    (∀ nf nj : Nat, s.mode.mode ≠ .dark → s.pwr.checking = true →
      let u := raise 1078 (logOcc 0x3002 1078 (leBytes 4 ((2240 * nf - nj) / 5400000)) { s with pwr := { s.pwr with
          margin := (2240 * nf - nj) / 5400000, checkedAt := s.cnt.opSeconds,
          marginKept := (2240 * nf - nj) / 5400000, checkedKept := s.cnt.opSeconds } });
        (2000 ≤ (2240 * nf - nj) / 5400000 →
          exec (.holdupCheckDone nf nj) s = .next { u with pwr := { u.pwr with checking := false, second := false, passed := true } }) ∧
        ((2240 * nf - nj) / 5400000 < 2000 → s.pwr.second = false →
          exec (.holdupCheckDone nf nj) s = .next { u with pwr := { u.pwr with second := true } }) ∧
        ((2240 * nf - nj) / 5400000 < 2000 → s.pwr.second = true → exec (.holdupCheckDone nf nj) s =
          .next (extinguish 0x09 (setCritWarn 4 true { u with pwr := { u.pwr with fail := true, checking := false } })))) ∧
    (s.mode.mode = .lit → s.pwr.checking = false →
      exec .holdupStoreLow s = .next (extinguish 0x09 (setCritWarn 4 true { s with pwr := { s.pwr with fail := true, checking := false } })))

/-- Pace (R832, R833, R835), the return of a wing (R872), Kindling's steps (R842). -/
def Obligations.PaceReturnAndKindlingSteps : Prop :=
  ∀ s : State,
    (∀ (w : Fin 8) (m0 m1 m2 m3 : BitVec 16), s.mode.mode ≠ .dark → (wingPwr s w).vcore ≠ 0 →
      let p := wingPwr s w
      let ceil := ceilingOf s w
      let vs := [m0.toNat, m1.toNat, m2.toNat, m3.toNat]
      let good := vs.zipIdx.all (fun e => decide (102 * paceTarget e.2 ≤ 100 * e.1))
      let lows := (vs.zipIdx.filter (fun e => e.1 < paceTarget e.2 ∧ p.vcore = ceil)).map (·.2)
      let u := setWingPwr w { p with
        vcore := if good then (if 100 ≤ p.goodRun + 1 then max 620 (p.vcore - 5) else p.vcore) else min ceil (p.vcore + 5)
        mons := (p.mons.zip vs).zipIdx.map (fun e => paceStep p.vcore ceil e.2 e.1.2 e.1.1)
        goodRun := if good then p.goodRun + 1 else 0
        holdRun := if vs.zipIdx.all (fun e => decide (paceTarget e.2 ≤ e.1)) then p.holdRun + 1 else 0
        shortSeen := p.shortSeen || !lows.isEmpty
        shortMon := lows.getLastD p.shortMon
        shortEvents := min 65535 (p.shortEvents + if lows = [] then 0 else 1) } s
      let late := ((p.mons.zip vs).zipIdx.map (fun e => paceStep p.vcore ceil e.2 e.1.2 e.1.1)).zipIdx.find? (fun e =>
        decide (1000 ≤ e.1.lowRun) || decide (5 ≤ e.1.deepRun))
      (late = none → exec (.paceWindow w m0 m1 m2 m3) s = .next u) ∧
      (∀ e, late = some e → exec (.paceWindow w m0 m1 m2 m3) s = .next (paceFault w e.2 e.1.pace p.vcore u))) ∧
    (∀ (w : Fin 8) (x : ReturnOp), s.kin.returning = some x → x.wing = w → s.mode.mode = .lit → rollActive s = false →
      let u := returnWing w { s with kin := { s.kin with returning := none } };
      (x.cmd = none → exec (.wingReturnHoldDone w) s = .next u) ∧
      (∀ c, x.cmd = some c → exec (.wingReturnHoldDone w) s = .next (completeCmd c stOk 0 0 [] u))) ∧
    (∀ (n : Fin 10) (bits : BitVec 8) (dev : List (Nat × Nat)), s.mode.mode = .kindling → s.med.flush = none → s.kin.resetPending = false →
      s.kin.done.contains n.val = false → (stepAfter n).all (fun m => s.kin.done.contains m) = true → stepReady s n = true →
      let u := kindlingStep n bits.toNat dev s;
      exec (.kindlingStepDone n bits dev) s =
        .next (if u.mode.mode = .kindling then { u with kin := { u.kin with done := u.kin.done ++ [n.val] } } else u))

/-! Resets, controllers, doorbells. -/

/-- Resets (R34, R39, R506, R507, R551, R653, R675, R676). -/
def Obligations.ResetsAndLinkEvents : Prop :=
  ∀ s : State,
    (∀ ready : Bool, ready = (decide (s.mode.mode ≠ .dark) && s.host.linkUp && !s.host.perst) →
      exec .configRequest s = .next { s with host := { s.host with cfgReady := ready } }) ∧
    (s.host.perst = false → s.mode.mode ≠ .dark → exec .perstAsserted s =
      .next (relockDebug (roleEnds { s with host := { s.host with perst := true, linkUp := false }, kin := { s.kin with resetPending := true } }))) ∧
    (s.host.perst = true → let u := { s with host := { s.host with perst := false } };
      (s.kin.resetPending = false ∨ s.mode.mode = .dark → exec .perstDeasserted s = .next u) ∧
      (s.kin.resetPending = true → s.med.flush = none → s.mode.mode = .kindling ∨ s.mode.mode = .extinguished →
        exec .perstDeasserted s = .next (startKindling false u)) ∧
      (s.kin.resetPending = true → s.med.flush = none → s.mode.mode = .lit → isClosed u = true →
        exec .perstDeasserted s = .next (startKindling false { u with med := { u.med with clean := true } })) ∧
      (s.kin.resetPending = true → s.med.flush.isSome = true ∨ (s.mode.mode = .lit ∧ isClosed u = false) → exec .perstDeasserted s = .next u)) ∧
    (s.host.linkUp = true → s.mode.mode ≠ .dark →
      exec .nvmSubsystemReset s = .next (releaseReset { s with kin := { s.kin with resetPending := true } })) ∧
    (s.host.linkUp = true → let u := (liveCtrls s).foldl (fun s f => controllerReset f s) s;
      exec .hotReset s = .next { u with host := { u.host with linkUp := false } }) ∧
    (∀ f : Fin 1024, s.mode.mode ≠ .dark → s.host.linkUp = true → f.val ≠ 0 → fnPresent s f = true →
      exec (.functionLevelReset f) s = .next (vfReset f s)) ∧
    (∀ n : Fin 1024, fnReach s 0 = true → s.host.vfEnable = false → n.val ≤ totalVfs s →
      exec (.vfEnable n) s = .next { s with host := { s.host with numVfs := n.val, vfEnable := true } }) ∧
    (fnReach s 0 = true → s.host.vfEnable = true → let u := (List.range s.host.numVfs).foldl (fun s i => vfReset (i + 1) s) s;
      exec .vfEnableCleared s = .next { u with host := { u.host with vfEnable := false, numVfs := 0, online := [] } }) ∧
    (∀ f : Fin 1024, s.mode.mode ≠ .dark → s.host.linkUp = true → fnPresent s f = true →
      ((getCtrl s f).d3 = false → exec (.devicePowerStateChange f true) s = .next (setCtrl f { getCtrl s f with d3 := true } s)) ∧
      ((getCtrl s f).d3 = true → let u := setCtrl f { getCtrl s f with d3 := false } s; exec (.devicePowerStateChange f false) s =
        .next ((u.host.deferred.filter (fun d => d.cmd.fn = f.val)).foldl (fun s d => postCpl d s)
          { u with host := { u.host with deferred := u.host.deferred.filter (fun d => d.cmd.fn ≠ f.val) } })))

/-- Controllers and doorbells (R505, R506, R509, R510, R588, R671). -/
def Obligations.ControllersAndDoorbells : Prop :=
  ∀ (s : State) (f : Fin 1024), fnReach s f = true →
    (∀ (cc aqa : BitVec 32) (asq acq : Word), (getCtrl s f).en = false →
      exec (.controllerEnable f cc aqa asq acq) s = .next (setCtrl f { getCtrl s f with
        en := true, css := bitsOf cc.toNat 6 4, mps := bitsOf cc.toNat 10 7, ams := bitsOf cc.toNat 13 11, shn := 0, crime := bitOf cc.toNat 24, shut := false,
        rdy := decide (s.mode.mode ≠ .kindling) || bitOf cc.toNat 24, shst := 0, aqa := aqa.toNat, asq := asq.toNat, acq := acq.toNat,
        sqs := [(0, adminSq aqa.toNat asq.toNat)], cqs := [(0, adminCq aqa.toNat acq.toNat)], vqNow := queuePairs s f } s)) ∧
    ((getCtrl s f).en = true → exec (.controllerReset f) s = .next (controllerReset f s)) ∧
    (∀ n : BitVec 2, n = 1 ∨ n = 2 → (getCtrl s f).shst = 0 → exec (.shutdownNotification f n) s = .next (setCtrl f
      { getCtrl s f with shn := n.toNat, shst := if s.mode.mode = .lit then 1 else 2, shut := decide (s.mode.mode = .lit) } s)) ∧
    ((getCtrl s f).shst = 1 → s.mode.mode = .lit → (s.kin.resetPending = true → s.host.perst = true) → f.val ≠ 0 → (cmdsOf s f).all (fun c => c.admin && decide (c.sqe.opc = 0x0C)) = true →
      exec (.shutdownProcessingDone f) s = .next (setCtrl f { getCtrl s f with shst := 2 } s)) ∧
    ((getCtrl s f).shst = 1 → s.mode.mode = .lit → (s.kin.resetPending = true → s.host.perst = true) → f.val = 0 → isClosed s = true → exec (.shutdownProcessingDone f) s =
      .next (setCtrl 0 { getCtrl s f with shst := 2 } { s with med := { s.med with clean := true } })) ∧
    (s.kin.resetPending = true → s.host.perst = false → exec (.shutdownProcessingDone f) s = .next (releaseReset s)) ∧
    (∀ (y v : BitVec 16), y.toNat ≤ doorbellLimit f →
      (∀ q, Tbl.find (getCtrl s f).sqs y.toNat = some q →
        (v.toNat < q.size → exec (.sqTailDoorbell f y v) s =
          .next (setCtrl f { getCtrl s f with sqs := Tbl.insert (getCtrl s f).sqs y.toNat { q with tail := v.toNat } } s)) ∧
        (q.size ≤ v.toNat → exec (.sqTailDoorbell f y v) s = .next s)) ∧
      (Tbl.find (getCtrl s f).sqs y.toNat = none → exec (.sqTailDoorbell f y v) s = .next (addError f y.toNat 0xFFFF stQid 0xFFFF 0 0 s)) ∧
      (∀ q, Tbl.find (getCtrl s f).cqs y.toNat = some q →
        (v.toNat < q.size → exec (.cqHeadDoorbell f y v) s =
          .next (setCtrl f { getCtrl s f with cqs := Tbl.insert (getCtrl s f).cqs y.toNat { q with head := v.toNat } } s)) ∧
        (q.size ≤ v.toNat → exec (.cqHeadDoorbell f y v) s = .next s)) ∧
      (Tbl.find (getCtrl s f).cqs y.toNat = none → exec (.cqHeadDoorbell f y v) s = .next (addError f y.toNat 0xFFFF stQid 0xFFFF 0 0 s)))

/-! Fetching, queues, log pages, features. In the statements about admin commands, `adminOf s r opc = some c` says that command r is
outstanding with that opcode in a module that is not Dark and does not flush. -/

/-- COMMAND_FETCH and PART_BEGIN (R559, R564, R568, R572, R657). -/
def Obligations.FetchTakesAnEntryAndPartsBegin : Prop :=
  ∀ (s : State) (f : Fin 1024) (q : BitVec 16) (e : Sqe),
    let r : CmdRef := { fn := f, sq := q.toNat, cid := e.cid };
    let c : OutCmd := { cmd := r, sqe := e, gen := s.chr.generation, admin := decide (q.toNat = 0), write := (lockRanges e).2.2, parts := [],
                        committed := false, silent := false, held := false, data := [], copied := false };
    (mayFetch s f q.toNat = true → findCmd s r = none → (∃ x, Tbl.find (getCtrl s f).sqs q.toNat = some x ∧ x.deleting = none) → e.sgl = none →
      (q = 0 → ∀ st, adminCheck s f e = some st → st ≠ stDenied →
        exec (.commandFetch f q e) s = .next (completeCmd r st 0 0 [] (addCmd c (takeEntry f 0 s)))) ∧
      (q = 0 → adminCheck s f e = none → toModule true e = false →
        exec (.commandFetch f q e) s = .next (addCmd c (takeEntry f 0 s))) ∧
      (q ≠ 0 → ioCheck s f e = none → toModule false e = false →
        let ps := mkParts s (placesBale e) (lockRanges e).2.1 (lockRanges e).1;
        let d := { c with parts := ps, data := List.replicate (resultLen s e) 0 };
        (ps = [] → exec (.commandFetch f q e) s = .next (addCmd d (takeEntry f q.toNat s))) ∧
        (ps ≠ [] → exec (.commandFetch f q e) s = .next (fetchLocking f q.toNat d s)))) ∧
    (∀ (st : Fin 64) (i : Nat) (l : LockEntry) (ls : List LockEntry) (p : Part),
      let pr : PartRef := { station := st, cmd := r, index := i };
      s.host.locks = l :: ls → l.station = st.val → l.cmd = r → l.part = i → partOf s pr = some p → p.state = .waiting →
      partStalled s l.write l.nsid l.slba l.nlb = false →
      exec (.partBegin st r i) s = .next (updPart pr (fun p => { p with state := .running }) s))

/-- I/O queues and Abort (R518, R528, R582, R585, R915). -/
def Obligations.QueuesAndAbort : Prop :=
  ∀ (s : State) (r : CmdRef) (c : OutCmd),
    let k := getCtrl s r.fn;
    let q := c.sqe;
    let id := q.cdw10 % 2 ^ 16;
    let n := bitsOf q.cdw10 31 16 + 1;
    let hi := bitsOf q.cdw11 31 16;
    (adminOf s r 0x01 = some c → queueRefusal s c (Tbl.find k.sqs id).isSome = none → hi ≠ 0 → hi ≤ k.vqNow → (Tbl.find k.cqs hi).isSome = true →
      let x : SubQ := { size := n, cq := hi, prio := bitsOf q.cdw11 2 1, base := q.prp1, tail := 0, head := 0, deleting := none };
      exec (.createIoSq r) s = .next (failCmd c stOk (setCtrl r.fn { k with sqs := Tbl.insert k.sqs id x } s))) ∧
    (adminOf s r 0x05 = some c → queueRefusal s c (Tbl.find k.cqs id).isSome = none → (bitOf q.cdw11 1 = true → hi < vectorsOf s r.fn) →
      let x : ComplQ := { size := n, base := q.prp1, vector := hi, ien := bitOf q.cdw11 1, head := 0, tail := 0, phase := true };
      exec (.createIoCq r) s = .next (failCmd c stOk (setCtrl r.fn { k with cqs := Tbl.insert k.cqs id x } s))) ∧
    (adminOf s r 0x04 = some c → id ≠ 0 → (Tbl.find k.cqs id).isSome = true → k.sqs.any (fun e => decide (e.1 ≠ 0 ∧ e.2.cq = id)) = false →
      exec (.deleteIoCq r) s = .next (failCmd c stOk (setCtrl r.fn { k with cqs := Tbl.erase k.cqs id } s))) ∧
    (∀ x : SubQ, adminOf s r 0x00 = some c → id ≠ 0 → Tbl.find k.sqs id = some x → x.deleting = none → (∀ o ∈ cmdsOf s r.fn, o.cmd.sq ≠ id) →
      exec (.deleteIoSq r) s = .next (settleSq r.fn id (setCtrl r.fn { k with sqs := Tbl.insert k.sqs id { x with deleting := some r } } s))) ∧
    (adminOf s r 0x08 = some c →
      let before := ((s.host.out.takeWhile (fun x => x.cmd ≠ r)).filter (fun x => x.admin ∧ x.sqe.opc = 0x08)).length;
      let t : CmdRef := { fn := r.fn, sq := id, cid := bitsOf q.cdw10 31 16 };
      (16 ≤ before → exec (.abort r) s = .next (failCmd c stAbortLimit s)) ∧
      (before < 16 → findCmd s t = none → exec (.abort r) s = .next (completeCmd r stOk 1 0 [] s)) ∧
      (∀ x, before < 16 → findCmd s t = some x →
        (x.admin = true ∨ x.committed = true → exec (.abort r) s = .next (completeCmd r stOk 1 0 [] s)) ∧
        (x.admin = false → x.committed = false → exec (.abort r) s = .next (endUncommitted x 0 stAborted (some r) s))))

/-- Get Log Page (R534 to R536, R543 to R545, R649, R791, R807, R838). -/
def Obligations.LogPagesAreAnswered : Prop :=
  ∀ (s : State) (r : CmdRef) (c : OutCmd) (i : Instr), adminOf s r 0x02 = some c → c.cmd = r →
    (logLid c.sqe, i) ∈ [(0x02, Instr.smartHealthLog r), (0x07, .telemetryHostInitiated r), (0xC8, .keepersLogPage r), (0xC9, .placementReport r),
      (0xCA, .counterSnapshot r), (0xCB, .caravanStatusPage r), (0xCC, .healthAndRetirement r), (0xCD, .thermalAndPace r)] ∨
    (ownRow (logLid c.sqe) = false ∧ i = .getLogPage r) →
    let u := logCapture r.fn c.sqe s;
    (lidKnown r.fn (logLid c.sqe) = false → exec i s = .next (completeCmd r stLogPage 0 0 [] s)) ∧
    (∀ p, findPage u r.fn c.sqe = .ok p →
      (logOff c.sqe % 4 ≠ 0 ∨ p.size ≤ logOff c.sqe → exec i s = .next (completeCmd r stField 0 0 [] s)) ∧
      (logOff c.sqe % 4 = 0 → logOff c.sqe < p.size → u.mode.mode ≠ .kindling →
        exec i s = .next (deliverEvents r.fn 16 (logRead r.fn c.sqe (answerData r 0 (p.bytes (logOff c.sqe) (adminLen c.sqe)) u)))))

/-- Identify and features (R220, R221, R518, R521, R531, R533, R537). -/
def Obligations.IdentifyFeaturesAndEventRequests : Prop :=
  ∀ (s : State) (r : CmdRef) (c : OutCmd),
    let q := c.sqe;
    let fid := q.cdw10 % 256;
    let v := q.cdw11 % 2 ^ 32;
    (adminOf s r 0x06 = some c →
      (∀ d, idData s r.fn q = .ok d → exec (.identify r) s = .next (answerData r 0 d s)) ∧
      (∀ st, idData s r.fn q = .error st → exec (.identify r) s = .next (failCmd c st s))) ∧
    (adminOf s r 0x09 = some c → featureKnown fid = true → bitOf q.cdw10 31 = false →
      (fid ≠ 0x0E → fid ≠ 0xC0 → fid ≠ 0x04 → exec (.setFeatures r) s = .next (completeCmd r (setFeature s r.fn fid v).1 (setFeature s r.fn fid v).2.1 0 []
        ((setFeature s r.fn fid v).2.2.foldl (fun s e => putFeature r.fn fid e.1 e.2 s) s))) ∧
      (fid = 0x0E → exec (.timestamp r) s = .next (failCmd c stOk (setHostTime (leNat (q.data.take 6)) s))) ∧
      (fid = 0xC0 → awaits s r = false → chrFlag s r.fn 3 = true → q.nsid ≠ 0 → (nsInfo s q.nsid).isSome = true → v % 4 ≤ 1 → bitsOf v 7 3 = 0 →
        v < 2 ^ 14 → (bitOf v 2 = true → (members s).contains (bitsOf v 13 8) = true) → otherLit s = [] →
        exec (.placementHint r) s = .next (failCmd c stOk (putHint q.nsid v s)))) ∧
    (adminOf s r 0x0A = some c → featureKnown fid = true →
      (bitsOf q.cdw10 10 8 = 3 → exec (.getFeatures r) s = .next (completeCmd r stOk (if fid = 0xC0 then 6 else 4) 0 [] s)) ∧
      (bitsOf q.cdw10 10 8 < 3 → fid = 0x0E → exec (.getFeatures r) s = .next (answerData r 0 (timestampBytes s) s)) ∧
      (bitsOf q.cdw10 10 8 < 3 → fid ≠ 0x0E → fid ≠ 0xC0 → exec (.getFeatures r) s =
        .next (completeCmd r (getFeature s r.fn fid v (decide (bitsOf q.cdw10 10 8 ≠ 0))).1 (getFeature s r.fn fid v (decide (bitsOf q.cdw10 10 8 ≠ 0))).2 0 [] s))) ∧
    (adminOf s r 0x0C = some c → (getCtrl s r.fn).aers.contains r = false →
      ((getCtrl s r.fn).aers.length < 16 → exec (.asynchronousEventRequest r) s =
        .next (deliverEvents r.fn 16 (setCtrl r.fn { getCtrl s r.fn with aers := (getCtrl s r.fn).aers ++ [r] } s))) ∧
      (16 ≤ (getCtrl s r.fn).aers.length → exec (.asynchronousEventRequest r) s = .next (failCmd c stAerLimit s)))

/-- The frame of the reading commands and of raising and logging. -/
def Obligations.ReadingCommandsChangeOnlyTheHostSide : Prop :=
  ∀ (s : State),
    (∀ (r : CmdRef) (i : Instr), i ∈ [Instr.identify r, .getFeatures r, .saveFunctionState r] → ∃ t, exec i s = .next t ∧ AnswersOnly s t) ∧
    (∀ i : Nat, NotesOnly s (raise i s)) ∧
    (∀ (typ src : Nat) (d : List Byte), NotesOnly s (logOcc typ src d s))

/-! Namespaces, virtual functions, firmware, format and sanitize. -/

/-- Namespaces (R523, R524, R527) and virtualization (R516, R674). -/
def Obligations.NamespacesAndVirtualization : Prop :=
  ∀ (s : State) (r : CmdRef) (c : OutCmd),
    let q := c.sqe;
    let d := q.cdw10;
    (adminOf s r 0x0D = some c → awaits s r = false →
      (∀ nsid, d % 16 = 0 → createRefusal s q.data (bitsOf q.cdw11 31 24) = none → lowestNs s = some nsid →
        exec (.namespaceManagement r) s = .next (nsOrder r 0 nsid (nsNums (createInfo q.data)) (addNs nsid (createInfo q.data) s))) ∧
      (d % 16 = 1 → s.med.jrnStall = false → q.nsid ≠ 0 → q.nsid ≤ 1024 → (nsInfo s q.nsid).isSome = true → s.host.stoppedNs.contains q.nsid = false →
        exec (.namespaceManagement r) s = .next (nsOrder c.cmd 1 q.nsid [q.nsid] (deleteNs q.nsid s)))) ∧
    (∀ l, adminOf s r 0x15 = some c → awaits s r = false → nsExists s q.nsid = true → ctrlList q.data = some l → l.all (ctrlExists s) = true →
      (1026 ≤ q.nsid → l.all (fun x => decide (x / 1024 = q.nsid - 1026)) = true) →
      (d % 16 = 0 → l.any (fun x => (Tbl.get [] s.host.attached q.nsid).contains x) = false →
        (isPrivate s q.nsid = true → (Tbl.get [] s.host.attached q.nsid).length + l.length ≤ 1) →
        exec (.namespaceAttachment r) s = .next (nsOrder r 2 q.nsid l (attachNs q.nsid true l s))) ∧
      (d % 16 = 1 → l.all (fun x => (Tbl.get [] s.host.attached q.nsid).contains x) = true →
        exec (.namespaceAttachment r) s = .next (nsOrder r 3 q.nsid l (attachNs q.nsid false l s)))) ∧
    (adminOf s r 0x1C = some c → r.fn = 0 →
      (d % 16 = 1 → bitsOf d 31 16 = cntlid s 0 →
        exec (.virtualizationManagement r) s = .next (assignRes c 0 (bitsOf d 10 8) (q.cdw11 % 2 ^ 16) s)) ∧
      (∀ f, secondaryOf s (bitsOf d 31 16) = some f →
        (d % 16 = 8 → Tbl.get false s.host.online f = false →
          exec (.virtualizationManagement r) s = .next (assignRes c f (bitsOf d 10 8) (q.cdw11 % 2 ^ 16) s)) ∧
        (d % 16 = 9 → Tbl.get false s.host.online f = false → vfEnabled s f = true → 1 ≤ Tbl.get 0 s.host.vq f → 1 ≤ Tbl.get 0 s.host.vi f →
          exec (.virtualizationManagement r) s =
            .next (failCmd c stOk { s with host := { s.host with online := Tbl.put false s.host.online f true } })) ∧
        (d % 16 = 7 → Tbl.get false s.host.online f = true → fnMode s f = .quiesced ∨ fnMode s f = .frozen →
          let u := controllerReset f s;
          exec (.secondaryOffline r) s = .next (failCmd c stOk { u with host := { u.host with online := Tbl.put false u.host.online f false } })) ∧
        (d % 16 = 7 → Tbl.get false s.host.online f = true → fnMode s f = .running →
          exec (.secondaryOffline r) s = .next (failCmd c stQuiesce s))))

/-- Firmware (R845, R848, R860 to R865). -/
def Obligations.FirmwareIsDownloadedCommittedAndRolled : Prop :=
  ∀ (s : State) (r : CmdRef) (c : OutCmd),
    let q := c.sqe;
    let off := 4 * (q.cdw11 % 2 ^ 32);
    let len := 4 * (q.cdw10 % 2 ^ 32 + 1);
    let a := bitsOf q.cdw10 5 3;
    (adminOf s r 0x11 = some c → off % 4096 = 0 → off + len ≤ 33554432 → exec (.firmwareImageDownload r) s = .next (failCmd c stOk { s with kin := { s.kin with
      download := Memory.writeBytes s.kin.download off (fitBytes len q.data), pieces := s.kin.pieces ++ [(off, len)] } })) ∧
    (∀ (n : Nat) (img : List Byte) (i : Instr), adminOf s r 0x10 = some c → s.kin.commit = none → s.kin.commitWait = [] → inCaravan s = false →
      commitSlot s a (q.cdw10 % 8) = some n →
      (a, i) ∈ [(0, Instr.firmwareCommitReplace r), (1, .firmwareCommitNextReset r), (2, .firmwareCommitActivate r), (3, .firmwareCommitRoll r)] →
      (a ≤ 1 → n ≠ s.kin.running) → (if a ≤ 1 then downloaded s else Tbl.find s.kin.images n) = some img → causeStatus s a (imgCause s (some img) false) = none →
      let o : CommitOp := { cmd := r, slot := n, action := a, image := img, phase := 0, wing := 0 };
      (a ≠ 3 → exec i s = .next { s with kin := { s.kin with commitWait := [], commit := some o } }) ∧
      (a = 3 → (imgCohabs img).contains (imgVersion s.kin.image) = true → s.mode.wingOut = 0 → s.mode.mode = .lit →
        exec i s = .next (rollWing 0 (putBoot (fun b => { b with rollPhase := 1, rollWing := 0 })
          { s with kin := { s.kin with commitWait := [], commit := some { o with phase := 2 } } })))) ∧
    (∀ o : CommitOp, s.kin.commit = some o → s.mode.mode ≠ .dark → o.phase = 0 →
      let u := { s with kin := { s.kin with images := Tbl.insert s.kin.images o.slot o.image, slots := Tbl.put SlotView.empty s.kin.slots o.slot (slotView s (some o.image) false) } };
      let v := { s with kin := { s.kin with images := Tbl.insert s.kin.images o.slot o.image, slots := Tbl.put SlotView.empty s.kin.slots o.slot (slotView s (some o.image) true) } };
      (o.action = 0 → exec (.firmwareSlotWritten true) s = .next (commitKick (commitEnd o stOk u))) ∧
      (o.action = 1 → exec (.firmwareSlotWritten true) s = .next (commitKick (commitEnd o stOk (putBoot (fun b => { b with next := o.slot }) u)))) ∧
      (o.action = 2 → exec (.firmwareSlotWritten true) s = .next (commitKick (commitEnd o stOk (putBoot (fun b => { b with next := o.slot }) s)))) ∧
      (o.action ≤ 1 → exec (.firmwareSlotWritten false) s = .next (commitKick (commitEnd o stFwImage v)))) ∧
    (∀ o : CommitOp, s.kin.commit = some o → s.mode.mode = .lit → o.action = 3 → s.med.flush = none →
      (o.phase = 3 → exec .rollWingDone s = .next (rollDone o s)) ∧
      (∀ x, o.phase = 2 → s.kin.returning = some x → x.wing = o.wing →
        let t := putBoot (fun b => { b with rollPhase := 1, rollWing := o.wing }) (returnWing o.wing { s with kin := { s.kin with
          returning := none, wingVersion := Tbl.insert s.kin.wingVersion o.wing (imgVersion o.image) } });
        (o.wing ≠ 7 → exec .rollWingDone s = .next (rollWing (o.wing + 1) { t with kin := { t.kin with commit := some { o with wing := o.wing + 1 } } })) ∧
        (o.wing = 7 → exec .rollWingDone s = .next { t with kin := { t.kin with commit := some { o with phase := 3 } } })))

/-- NVMe-MI in band (R552), Format NVM (R589, R590), Sanitize (R593 to R599). -/
def Obligations.ManagementFormatAndSanitize : Prop :=
  ∀ (s : State) (r : CmdRef) (c : OutCmd),
    let q := c.sqe;
    let d := q.cdw10;
    (adminOf s r 0x1D = some c → let a := miRun (fitBytes 12 q.data) s;
      let u := completeCmd r stOk 0 0 [] { a.2 with host := { a.2.host with miPending := Tbl.insert a.2.host.miPending r.fn a.1 } };
      (imgField q.data 0 1 ≠ 0x07 → exec (.nvmeMiSend r) s = .next u) ∧ (imgField q.data 0 1 = 0x07 → exec (.nvmeMiSend r) s = .next (subsystemReset u))) ∧
    (adminOf s r 0x1E = some c →
      (∀ b, Tbl.find s.host.miPending r.fn = some b → exec (.nvmeMiReceive r) s =
        .next (answerData r 0 (fitBytes (adminLen q) b) { s with host := { s.host with miPending := Tbl.erase s.host.miPending r.fn } })) ∧
      (Tbl.find s.host.miPending r.fn = none → exec (.nvmeMiReceive r) s = .next (failCmd c stSequence s))) ∧
    (adminOf s r 0x80 = some c → c.cmd = r → s.med.jrnStall = false → s.host.format = none → s.host.stoppedNs.contains q.nsid = false → q.nsid ≠ 0 → q.nsid ≤ 1024 →
      (nsInfo s q.nsid).isSome = true → bitsOf d 11 9 ≤ 2 → bitsOf d 7 5 ≤ 3 → bitsOf d 3 0 ≤ 2 → bitsOf d 13 12 = 0 → (bitsOf d 3 0 = 0 → bitsOf d 7 5 = 0) →
      let o : FormatOp := { cmd := r, nsid := q.nsid, ses := bitsOf d 11 9, lbaf := bitsOf d 3 0, extended := bitOf d 4, pit := bitsOf d 7 5, pil := bitOf d 8,
                            step := 1, acks := otherLit s };
      exec (.formatNvm r) s = .next (sendAll .order [ordFormatStop, q.nsid] [] (formatStop q.nsid { s with host := { s.host with format := some o } }))) ∧
    (∀ o : FormatOp, s.host.format = some o → s.mode.mode = .lit → s.med.flush = none → o.acks = [] →
      (o.step = 1 → exec .formatStepDone s = .next { s with host := { s.host with format := some { o with step := 2, acks := [] } } }) ∧
      (o.step = 2 → formatBusy s o.nsid = false →
        let u := progWrite 1 o.ses 1 o.nsid s.cnt.opSeconds 0 s;
        exec .formatStepDone s =
          .next (sendAll .order (ordFormatRecord :: formatNums o) [] { u with host := { u.host with format := some { o with step := 3, acks := otherLit s } } })) ∧
      (o.step = 3 → let u := { s with host := { s.host with format := some { o with step := 4, acks := otherLit s } } };
        exec .formatStepDone s =
          .next (sendAll .order (ordFormatApply :: formatNums o) [] (formatApply o.nsid o.ses o.lbaf o.extended o.pit o.pil u))) ∧
      (o.step = 4 → let u := progWrite 1 o.ses 2 o.nsid s.cnt.opSeconds 0 { s with host := { s.host with format := none } };
        exec .formatStepDone s =
          .next (settleAll (completeCmd o.cmd stOk 0 0 [] (formatResume o.nsid (sendAll .order [ordFormatDone, o.nsid] [] u)))))) ∧
    (adminOf s r 0x84 = some c → c.cmd = r → s.host.sanitize = none → otherLit (sanitizeBegin (d % 8) (s.host.sanSeq + 1) s) = [] →
      (d % 8 = 2 → exec (.sanitizeBlockErase r) s = .next (completeCmd r stOk 0 0 [] (sanitizeBegin 2 (s.host.sanSeq + 1) s))) ∧
      (d % 8 = 4 → exec (.sanitizeCryptoErase r) s = .next (completeCmd r stOk 0 0 [] (sanitizeBegin 4 (s.host.sanSeq + 1) s)))) ∧
    (adminOf s r 0x84 = some c →
      (d % 8 = 1 → s.host.sanStatus = 3 → exec (.sanitizeExitFailureMode r) s = .next (completeCmd r stOk 0 0 [] { s with host := { s.host with sanStatus := 0 } })) ∧
      (d % 8 = 1 → s.host.sanStatus ≠ 3 → exec (.sanitizeExitFailureMode r) s = .next (completeCmd r stOk 0 0 [] s)) ∧
      (d % 8 = 0 ∨ d % 8 = 3 ∨ 4 < d % 8 → exec (.sanitizeBlockErase r) s = .next (completeCmd r stField 0 0 [] s))) ∧
    (∀ o : SanitizeOp, s.host.sanitize = some o → s.mode.mode = .lit → s.med.flush = none → o.localDone = false → s.host.locks = [] → (∀ x ∈ s.host.out, x.admin = true) →
      let u := (otherLit s).foldl (fun s m => send m .ack [ordSanEnd, s.host.sanSeq, 0, 0] [] [] s) (sanitizeWork o.action s);
      exec .sanitizeOperationEnd s = .next (sanitizeCheck { u with host := { u.host with sanitize := some { o with localDone := true } } }))

/-! Vendor commands: the charter, retirement, wings, the Light List, key generations, the caravan, functions. -/

/-- Charter Commit (R662), Retire (R541, R542, R767, R768), wings (R869, R872), Light List Write (R857), Key Generation Advance (R707, R708). -/
def Obligations.VendorCommandsTakeEffect : Prop :=
  ∀ (s : State) (r : CmdRef) (c : OutCmd),
    let q := c.sqe;
    let d := fitBytes 64 q.data;
    let w := imgField d 8 1;
    let a := imgField d 16 8;
    let b := 4 * imgField d 10 1 + imgField d 11 1;
    (adminOf s r 0xC0 = some c → (s.chr.commit.map (·.cmd)) ≠ some r → s.chr.commitWait.any (fun q => decide (q.cmd = r)) = false →
      exec (.charterCommit r) s = .next (commitTurn (s.chr.commitWait.length + 1)
        { s with chr := { s.chr with commitWait := s.chr.commitWait ++ [{ cmd := r, copy := s.chr.staging }] } })) ∧
    (adminOf s r 0xC1 = some c → 64 ≤ adminLen q → zeros d 1 7 = true → zeros d 24 40 = true →
      (imgField d 0 1 = 1 → imgField d 8 2 < 1024 → imgField d 10 1 < 4 → imgField d 12 2 < dieBlocks s → zeros d 11 1 = true → s.med.retires = [] →
        portOk s (imgField d 8 2) = true → let bk := blkKey (imgField d 8 2) (imgField d 12 2);
        let left := sparesLeft s (imgField d 8 2) (imgField d 10 1);
        let unclaimed := sparesFree s (imgField d 8 2) (imgField d 10 1);
        (s.med.jrnStall = true → exec (.retireFlashBlock r) s = .next s) ∧
        (s.med.jrnStall = false →
          ((getBlk s bk).state = .retired → exec (.retireFlashBlock r) s = .next (completeCmd r stOk left 0 [] s)) ∧
          ((getBlk s bk).state ≠ .retired → 2 < unclaimed → exec (.retireFlashBlock r) s = .next (retireStart r bk (imgField d 10 1) s)) ∧
          ((getBlk s bk).state ≠ .retired → unclaimed ≤ 2 → exec (.retireFlashBlock r) s = .next (failCmd c stField s)))) ∧
      (imgField d 0 1 = 2 → w < 8 → a % 4096 = 0 → a < 2 ^ 34 →
        (pageRetired (getDram s w) (a / 4096) = true → exec (.retireDramPage r) s = .next (completeCmd r stOk (getDram s w).left 0 [] s)) ∧
        (∀ ch, pageRetired (getDram s w) (a / 4096) = false → retirePage (getDram s w) (a / 4096) = some ch →
          exec (.retireDramPage r) s = .next (completeCmd r stOk ch.left 0 [] (retireRecord w 2 a
            (setDram w ch { s with med := { s.med with dramPagesRet := satAdd max64 s.med.dramPagesRet 1 } })))) ∧
        (pageRetired (getDram s w) (a / 4096) = false → retirePage (getDram s w) (a / 4096) = none →
          exec (.retireDramPage r) s = .next (extinguish 0x02 s))) ∧
      (imgField d 0 1 = 3 → w < 8 → imgField d 9 1 < 2 → imgField d 10 1 < 8 → imgField d 11 1 < 4 →
        ((getDram s w).bankRetired.getLsbD b = true → exec (.retireDramBank r) s = .next (completeCmd r stOk (getDram s w).left 0 [] s)) ∧
        (∀ ch, (getDram s w).bankRetired.getLsbD b = false → retireBank (getDram s w) b = some ch →
          exec (.retireDramBank r) s = .next (completeCmd r stOk ch.left 0 []
            (retireRecord w 3 (32768 * imgField d 10 1 + 8192 * imgField d 11 1 + 64 * imgField d 9 1)
              (setDram w ch { s with med := { s.med with dramBanksRet := satAdd max64 s.med.dramBanksRet 1 } })))))) ∧
    (adminOf s r 0xC7 = some c → q.cdw11 < 2 ^ 32 → bitsOf q.cdw11 3 1 = 0 → q.cdw11 / 2 ^ 7 = 0 → rollActive s = false → let n := bitsOf q.cdw11 6 4;
      (q.cdw11 % 2 = 0 → s.mode.wingOut = 0 → exec (.wingWithdraw r) s = .next (failCmd c stOk (withdrawWing n s))) ∧
      (q.cdw11 % 2 = 1 → s.mode.wingOut.getLsbD n = true → s.kin.returning = none → exec (.wingReturn r) s =
        .next (setWingPwr n { wingPwr s n with vcore := 620, goodRun := 0, holdRun := 0 }
          { s with kin := { s.kin with returning := some { wing := n, cmd := some r } } }))) ∧
    (adminOf s r opLightList = some c → let l := fitBytes (adminLen q) q.data;
      let t := llTarget s;
      let x := llSealed l t.2 s.td17;
      firstLlWrite s r = true → 64 ≤ l.length → (64 ≤ llLength l → llLength l ≤ 4096 → llLength l ≤ l.length) → llCause s (some l) false = 0 →
      (t.1 = 0 → let u := { s with kin := { s.kin with copyA := some x, causeA := 0, llDone := true, llCopy := 0, llPending := true } };
        exec (.lightListWrite r true) s = .next (completeCmd r stOk (t.2 % 2 ^ 32) (t.2 / 2 ^ 32) [] u)) ∧
      (t.1 = 1 → let u := { s with kin := { s.kin with copyB := some x, causeB := 0, llDone := true, llCopy := 1, llPending := true } };
        exec (.lightListWrite r true) s = .next (completeCmd r stOk (t.2 % 2 ^ 32) (t.2 / 2 ^ 32) [] u))) ∧
    (adminOf s r 0xC9 = some c →
      (∀ k root, q.cdw11 % 4 = 0 → keySlot s (q.cdw12 % 64) = some k → s.sec.root = some root → k.kind = .derive → k.gen < max64 →
        slotInUse s (q.cdw12 % 64) = false → s.sec.epoch < 2 ^ 32 - 1 → exec (.keyGenAdvanceSlot r) s =
        .next (genDone c (k.gen + 1) (slotLoad (q.cdw12 % 64) (kdf root k.label (k.gen + 1) 256) .derive k.fixed k.label (k.gen + 1) s))) ∧
      (q.cdw11 % 4 = 1 → let f := q.cdw12 % 2 ^ 10;
        let g := Tbl.get 1 s.sec.fnGen f;
        g < max64 → exec (.keyGenAdvanceFunction r) s =
          .next (genDone c (g + 1) { s with sec := { s.sec with fnGen := Tbl.insert s.sec.fnGen f (g + 1) } })))

/-- Caravan commands (R622 to R629) and functions (R672, R673, R677, R678, R682). -/
def Obligations.CaravanAndFunctionCommandsTakeEffect : Prop :=
  ∀ (s : State) (r : CmdRef) (c : OutCmd),
    let q := c.sqe;
    let d := fitBytes 128 q.data;
    let f := q.cdw11 % 2 ^ 10;
    (adminOf s r 0xC2 = some c → awaits s r = false → s.rte.forming = none → s.rte.joining = none → s.rte.leaving = none →
      imgField d 0 1 = 1 → zeros d 3 5 = true → zeros d 25 39 = true → q.cdw11 % 16 = 1 ∨ zeros d 8 8 = true →
      (∀ id : Word, q.cdw11 % 16 = 0 → imgField d 1 1 ≤ 1 → imgField d 2 1 ≤ 2 → id ≠ 0 →
        let ms := BitVec.ofNat 64 (imgField d 16 8);
        let x : CarRecord := { id := id.toNat, epoch := s.rte.record.epoch + 1, topo := imgField d 1 1, code := imgField d 2 1, members := ms,
                               groups := (List.range 64).foldl (fun t i => Tbl.put 0 t i (if ms.getLsbD i then imgField d (64 + i) 1 else 0)) [], station := 0 };
        let o : CarOp := { cmd := some r, kind := 0, phase := 0, record := x, joiner := 0,
                           found := recordCauses x ++ (if newMemberCause s (is200 s) x = 0 then [] else [(ownStation s, newMemberCause s (is200 s) x)]) };
        ms.getLsbD (ownStation s) = true → exec (.caravanForm r id) s = .next (settleWaits (formCheck o s))) ∧
      (∀ l, q.cdw11 % 16 = 1 → inCaravan s = false → s.mode.mode = .lit → (List.range 4).find? (fun l => (getLink s l).state = .up) = some l →
        imgField d (64 + ownStation s) 1 ≤ 7 → exec (.caravanJoin r) s = .next (send (getLink s l).peer .joinRequest
          [ownStation s, b2n (is200 s), ownSet s, imgField d (64 + ownStation s) 1, imgField d 8 8] [] [] { s with rte := { s.rte with joining := some r } })) ∧
      (q.cdw11 % 16 = 2 → let m := imgField d 24 1;
        let u := { s with rte := { s.rte with leaving := some (r, m) } };
        inCaravan s = true → (members s).contains m = true → 17 ≤ (members s).length →
        codeK s.rte.record.code + codeM s.rte.record.code + 2 ≤
          ((members s).filter (fun i => Tbl.get 0 s.rte.record.groups i = Tbl.get 0 s.rte.record.groups m)).length →
        (leads s = false → exec (.caravanLeave r) s = .next (send (droverLead s) .order [ordLeave, m] [] [] u)) ∧
        (leads s = true → leaveRuns s m = false → exec (.caravanLeave r) s = .next (settleAll (leaveBegin m u)))) ∧
      (q.cdw11 % 16 = 3 → inCaravan s = true → s.host.namespaces = [] →
        let o : CarOp := { cmd := some r, kind := 3, phase := 1, record := { CarRecord.lone with epoch := s.rte.record.epoch + 1 }, joiner := 0, found := [] };
        exec (.caravanDissolve r) s = .next (settleWaits (writeRecord 3 (ownStation s) o.record (askAll (otherLit s) 1 3
          ([1, 3, ownStation s] ++ recNums o.record) (some r) { s with rte := { s.rte with forming := some o } }))))) ∧
    (adminOf s r 0xC3 = some c → vfEnabled s f = true → (Tbl.find s.chr.fnWait f).map (·.cmd) ≠ some r → fnMode s f = .running ∨ fnMode s f = .quiesced →
      (bitsOf q.cdw11 11 10 = 0 → exec (.quiesceFunction r) s = .next (fnAwait c f false s)) ∧
      (bitsOf q.cdw11 11 10 = 1 →
        exec (.quiesceEndingThreads r) s = .next (quiesceFrom c f ((threadsOf s f).foldl (fun s e => endThread e.1 stAborted 0 0 s) s))) ∧
      (bitsOf q.cdw11 11 10 = 2 → fnMode s f = .running → exec (.quiesceResume r) s = .next (failCmd c stOk s))) ∧
    (adminOf s r 0xC4 = some c → vfEnabled s f = true →
      (bitOf q.cdw11 10 = true → exec (.quiesceResume r) s = .next (resumeFn c f s)) ∧
      (bitOf q.cdw11 10 = false → (Tbl.find s.chr.fnWait f).map (·.cmd) ≠ some r → fnMode s f = .running ∨ fnMode s f = .quiesced →
        let u := (threadsOf s f).foldl (fun s e => freezeThread e.1 s) (setFnMode f .freezing s);
        exec (.freezeFunction r) s = .next (fnAwait c f true (engineFreeze f u)))) ∧
    (adminOf s r 0xC5 = some c → vfEnabled s f = true →
      (fnMode s f ≠ .frozen → exec (.saveFunctionState r) s = .next (failCmd c stQuiesce s)) ∧
      (fnMode s f = .frozen → imageOff q % 4 = 0 → imageOff q < imageLen s f →
        exec (.saveFunctionState r) s = .next (answerData r 0 (fitBytes (adminLen q) ((stateImage s f).drop (imageOff q))) s))) ∧
    (adminOf s r 0xC6 = some c → vfEnabled s f = true → s.chr.restore = none → restoreTarget s f = true → imageOff q = 0 →
      exec (.restoreFunctionState r) s = .next (restorePiece c f { fn := f, bytes := [], prior := fnMode s f } s))

/-! Programs, subsystem local memory, I/O, media. `slmCmd s r opc = some c` says that r is outstanding with that opcode on this station's SLM
namespace in a Lit module that does not flush; `canBegin s pr opc` that a part of a command with that opcode runs and has not begun. -/

/-- R284 and R290. -/
def Obligations.ActivatedSlotsAndUsedRangeSetsAreKept : Prop :=
  ∀ (s : State) (r : CmdRef) (c : OutCmd),
    (adminOf s r opLoadProgram = some c → awaits s r = false → c.sqe.nsid = computeNsid → c.sqe.cdw10 % 2 ^ 16 < 64 → bitsOf c.sqe.cdw10 23 16 = 0xC0 →
      (progSlot s (c.sqe.cdw10 % 2 ^ 16)).activated = true → exec (.loadProgram r) s = .next (completeCmd c.cmd (mkStatus 0 0x0C) 0 0 [] s)) ∧
    (adminOf s r opRangeSet = some c → bitsOf c.sqe.cdw10 17 16 = 1 → (Tbl.find s.prog.rsets (c.sqe.cdw10 % 2 ^ 16)).isSome = true →
      (∃ e ∈ s.disp.tasks, e.2.kind = .thread ∧ e.2.rset = c.sqe.cdw10 % 2 ^ 16) →
      exec (.memoryRangeSetManagement r) s = .next (completeCmd c.cmd stBusy 0 0 [] s))

/-- Programs (R282 to R294, R417) and subsystem local memory (R291). -/
def Obligations.ProgramsAndLocalMemory : Prop :=
  ∀ (s : State) (r : CmdRef) (c : OutCmd),
    let q := c.sqe;
    let i := q.cdw10 % 2 ^ 16;
    let x := progSlot s i;
    (adminOf s r opLoadProgram = some c → awaits s r = false → q.nsid = computeNsid → i < 64 → bitsOf q.cdw10 23 16 = 0xC0 → x.activated = false →
      let old := if q.cdw13 = 0 then [] else x.arriving;
      let all := old ++ fitBytes q.cdw12 q.data;
      q.cdw13 = old.length →
      (all.length < 48 ∨ all.length < imgLen all → exec (.loadProgram r) s =
        .next (completeCmd r stOk 0 0 [] (setSlot i { arriving := all, image := none, activated := false } s))) ∧
      (48 ≤ all.length → imgLen all = all.length → imgCheck all = 0 → exec (.loadProgram r) s =
        .next (orderThen ordProgImage i 0 [i] all r (setSlot i { arriving := [], image := some all, activated := false } s)))) ∧
    (adminOf s r opProgAct = some c → awaits s r = false → q.nsid = computeNsid → i < 64 → bitsOf q.cdw10 19 16 ≤ 1 →
      (bitsOf q.cdw10 19 16 = 1 → x.image ≠ none) → exec (.programActivationManagement r) s = .next (orderThen ordProgActive i (bitsOf q.cdw10 19 16)
        [i, bitsOf q.cdw10 19 16] [] r (setSlot i { x with activated := decide (bitsOf q.cdw10 19 16 = 1) } s))) ∧
    (adminOf s r opRangeSet = some c →
      (∀ n, bitsOf q.cdw10 17 16 = 0 → rangeList q ≠ [] → (rangeList q).length ≤ 16 → (rangeList q).all (rangeOk s) = true →
        (List.range 256).find? (fun i => (Tbl.find s.prog.rsets i).isNone) = some n → exec (.memoryRangeSetManagement r) s =
        .next (completeCmd r stOk n 0 [] { s with prog := { s.prog with rsets := Tbl.insert s.prog.rsets n ((rangeList q).map (fun x => (x.2.1, x.2.2))) } })) ∧
      (bitsOf q.cdw10 17 16 = 1 → (Tbl.find s.prog.rsets i).isSome = true → setRunning s i = false → exec (.memoryRangeSetManagement r) s =
        .next (completeCmd r stOk 0 0 [] { s with prog := { s.prog with rsets := Tbl.erase s.prog.rsets i } }))) ∧
    (∀ img, freshExecute s r = some c → s.med.flush = none → s.mode.mode = .lit → x.activated = true → x.image = some img →
      (Tbl.find s.prog.rsets (bitsOf q.cdw10 31 16)).isSome = true → exec (.executeProgram r) s = .next { s with prog := { s.prog with
        waiting := s.prog.waiting ++ [{ cmd := r, prog := i, rset := bitsOf q.cdw10 31 16, param := fitBytes q.cdw11 q.data, image := img }] } }) ∧
    (∀ (w : ThreadReq) (g n : Nat), s.prog.waiting.find? (fun w => mayThread s w.cmd.fn) = some w → w.cmd = r → threadWing s = some g → findCmd s r = some c →
      threadCount s < 1024 → s.mode.mode = .lit → s.med.flush = none → freeSlot s g = some n →
      exec (.threadStart r) s = .next (startThread w c.gen (2048 * g + n) s)) ∧
    (slmCmd s r opMemRead = some c →
      (slmPoisoned s (sqeSlba q) q.cdw12 = false → exec (.memoryRead r) s =
        .next (completeCmd r stOk 0 0 (Memory.readBytes s.prog.slm (sqeSlba q) q.cdw12) (countOut r.fn q.cdw12 s))) ∧
      (slmPoisoned s (sqeSlba q) q.cdw12 = true → exec (.memoryRead r) s = .next (failCmd c stUnrecovered s))) ∧
    (slmCmd s r opMemWrite = some c →
      exec (.memoryWrite r) s = .next (completeCmd r stOk 0 0 [] (slmWrite (sqeSlba q) (fitBytes q.cdw12 q.data) s))) ∧
    (∀ st : Fin 64, st = ownStation s → slmCmd s r opMemCopy = some c → c.parts = [] →
      (copySources q).all (fun x => !(decide (1024 < x.1) && slmPoisoned s x.2.1 x.2.2)) = true →
      exec (.memoryCopy st r) s = .next (completeCmd r stOk 0 0 [] (copySlm r s)))

/-- Memory Write changes the bytes of its range and no others (R291). -/
def Obligations.MemoryWriteChangesItsRangeOnly : Prop :=
  ∀ (s : State) (r : CmdRef) (c : OutCmd), slmCmd s r opMemWrite = some c → slmPoisoned s (sqeSlba c.sqe) c.sqe.cdw12 = false → Memory.wf s.prog.slm = true →
    ∃ t, exec (.memoryWrite r) s = .next t ∧ Memory.wf t.prog.slm = true ∧ t.med = s.med ∧ t.prog.rsets = s.prog.rsets ∧
      ∀ a, Memory.read t.prog.slm a =
        if sqeSlba c.sqe ≤ a ∧ a < sqeSlba c.sqe + c.sqe.cdw12 then (fitBytes c.sqe.cdw12 c.sqe.data).getD (a - sqeSlba c.sqe) 0
        else Memory.read s.prog.slm a

/-- I/O commands (R64, R65, R74, R79, R108, R530, R555, R574). -/
def Obligations.IoCommandsRunTheirParts : Prop :=
  ∀ (s : State) (r : CmdRef),
    (noParts s r 0x00 = true → s.med.flush = none → exec (.flush r) s = .next (completeCmd r stOk 0 0 [] s)) ∧
    (∀ st : Fin 64, st = ownStation s → noParts s r 0x09 = true → s.med.flush = none → exec (.datasetManagement st r) s = .next (completeCmd r stOk 0 0 [] s)) ∧
    (∀ (st : Fin 64) (pr : PartRef) (p : Part) (n : NsInfo), partsAt s st r = [pr] → partOf s pr = some p → nsInfo s p.nsid = some n →
      let u := updPart pr (fun x => { x with begun := true }) (noteBytes p.nsid p.slba p.nlb false s);
      let content := partContent s n p;
      (canBegin s pr 0x02 = true →
        exec (.read st r) s = .next (partRead pr (issueReads pr p (storeData pr p n (bufBytes n content) u)))) ∧
      (canBegin s pr 0x05 = true →
        (sameContent u pr p n content = true → exec (.compare st r) s = .next (partRead pr (issueReads pr p u))) ∧
        (sameContent u pr p n content = false →
          exec (.compare st r) s = .next (partRead pr (issueReads pr p (updPart pr (fun x => { x with status := some stCompare }) u))))) ∧
      (canBegin s pr 0x0C = true → exec (.verify st r) s = .next (partRead pr (issueReads pr p u))) ∧
      (canBegin s pr 0x08 = true → exec (.writeZeroes st r) s = .next (trimPart pr s)) ∧
      (canBegin s pr 0x09 = true → noParts s r 0x09 = false → exec (.datasetManagement st r) s = .next (trimPart pr s)) ∧
      (∀ q, canBegin s pr 0x01 = true → st = ownStation s → pr.station = ownStation s → sqeOf s pr = some q → q.nsid = p.nsid →
        (∀ b ∈ baleList p.slba p.nlb, (baleOwner s p.nsid b).isSome = true ∧ ownsBale s p.nsid b = true) →
        let base := bufBase s pr p q;
        let gs := (rangeGrains p.slba p.nlb).map (fun g => (GrainId.mk p.nsid g.1 g.2.1, writtenImg s n q base g.1 g.2.1 g.2.2, g.2.2));
        let k := p.nlb * (blockLen n + sepLen n);
        let v := updPart pr (fun p => { p with begun := true }) (noteBytes p.nsid p.slba p.nlb true (markRebuilt p.nsid p.slba p.nlb s));
        exec (.write st r) s = .next (sendMirror pr (gs.map (fun g => (g.1, g.2.1))) (4096 * p.nlb)
          (gs.foldl (fun s g => landGrain { id := g.1, img := { g.2.1 with present := g.2.2 }, why := .host [pr] g.2.2 } s)
            (cntFnAdd pr.cmd.fn 2 k (cntMod 2 k v))))))

/-- Media events (R73, R84, R90, R106, R109, R119, R133, R140, R147, R153). -/
def Obligations.MediaEventsTakeTheirPaths : Prop :=
  ∀ (s : State) (port : Fin 1024) (block : Fin 1024), s.mode.mode ≠ .dark → s.med.flush = none →
    let bk := blkKey port block;
    let b := getBlk s bk;
    (∀ u, nextUnit s port = some u →
      exec (.programStatus port .pass) s = .next (afterProgram (programPass u s)) ∧
      (∀ pl, exec (.programStatus port (.fail pl)) s = .next (afterProgram (programFail u pl s))) ∧
      exec (.programStatus port .fault) s = .next (afterProgram (faultPort port 2 s))) ∧
    (b.erasing = true →
      let e : DieBlock := { b with erasing := false, erases := satAdd 65535 b.erases 1, set := 0, pos := 0, next := 0, skipped := [], targets := [], heldBy := [] };
      exec (.eraseStatus port block .pass) s = .next (settleAll (retryRoom (healthAdd (if b.role = .qlc then 8 else 9) 1 (cntPort port 1 1
        (restoreReserve (blkState bk .free (wipePages bk (setBlk bk e (portReady port true s)))) port))))) ∧
      (∀ pl : Fin 4, exec (.eraseStatus port block (.fail pl)) s = .next (settleAll (retireBlock bk pl (raise port (logOcc 0x1002 port
        (leBytes 1 pl.val ++ leBytes 2 block.val) (healthAdd 11 1 (chFailAdd (portChannel port) 1 65535
          (setBlk bk { b with erasing := false } (portReady port true s)))))))))) ∧
    (∀ (n : Nat) (d : DieRead), s.med.reads.find? (fun d => d.id = n) = some d →
      readWaits s d = false → readStep s d .hard = .hard → let p := enPort d.entry;
      let u := portReady p false (cntPort p 1 1 (cntPort p 0 (pageBytes * 1) (noteSuspend p
        { s with med := { s.med with reads := s.med.reads.filter (fun x => x.id ≠ n) } })));
      exec (.flashReadDone n .hard) s = .next (settleAll (readGood d (imgAt s d.entry) u))) ∧
    (s.med.faulted.contains port.val = false → let n := Tbl.get 0 s.med.notReady port.val + 1;
      let u := { s with med := { s.med with notReady := Tbl.put 0 s.med.notReady port.val n } };
      (n < 3 → exec (.dieNotReadyTimeout port) s = .next u) ∧ (3 ≤ n → exec (.dieNotReadyTimeout port) s = .next (afterProgram (faultPort port 1 u)))) ∧
    (blockFull s bk b = true → exec (.dieBlockSeal port block true) s = .next (settleAll (blkState bk .sealed
      (sealNote bk (setBlk bk { b with sealedAt := s.med.epoch + s.td17, sealOrder := s.med.sealCount + 1 }
        { s with med := { s.med with sealCount := s.med.sealCount + 1 } }))))) ∧
    (∀ x, s.med.journal.find? (fun r => s.med.durSeq < r.seq) = some x →
      let u := auditNow (retireForward (recordKind x (recordAct x (applyBody x { s with med := { s.med with durSeq := x.seq } }))));
      exec .journalRecordDurable s = .next (if u.med.flush.isSome then u else settleAll (retryRoom u))) ∧
    (s.med.ckptStep = 2 → exec .checkpointStepDone s = .next (ckptWrite (ckptChoose s))) ∧
    (s.med.ckptStep = 6 → exec .checkpointStepDone s = .next (ckptWrite s)) ∧
    (s.med.ckptStep = 5 → ckptPending s = false → exec .checkpointStepDone s =
      .next (jrn 8 (.ckptMark s.med.ckptNum s.med.ckptBegin) .nothing { s with med := { s.med with ckptStep := 3 } })) ∧
    (s.med.ckptStep = 4 → exec .checkpointStepDone s = .next (settleAll (ckptFree s))) ∧
    (∀ u, s.med.units.find? (fun u => u.port = port.val ∧ ¬ u.issued) = some u → exec (.gatherUnitTimeout port) s = .next (fillUnit u.block 16 s)) ∧
    (b.set ≠ 0 → b.state = .opened → setAhead s b = true → b.next < slotsOf b.role →
      exec (.stripePadTimeout port block) s = .next (pushParity bk (pushSlot bk .pad (pushParity bk s)))) ∧
    (∀ w : Fin 8, exec (.packedPageTimeout w) s = .next (closePacked w s))

/-! Folds, reclaim, the ledger, placement, the caravan, route links. `serving s`: the module is Lit and does not flush. -/

/-- Folds, reclaim, forecourt (R94 to R96, R130), audit (R122), packing (R105), windows and moves (R176, R195, R198, R200). -/
def Obligations.MaintenanceAndWindows : Prop :=
  ∀ (s : State) (w : Fin 8), s.mode.mode = .lit → s.med.flush = none →
    (∀ bk, Tbl.find s.med.folds w = none → foldSource s w = some bk → let u := takeSource bk s;
      let t := settleAll { u with med := { u.med with folds := Tbl.insert u.med.folds w { source := bk, why := .fold, todo := [] } } };
      (foldRuns s w = true → exec (.foldStart w true) s = .next t) ∧ (s.med.foldStart ≤ occPct s → exec (.foldStart w false) s = .next t)) ∧
    (∀ bk, Tbl.find s.med.reclaims w = none → belowLevel s w s.med.rclStart = true → reclaimSource s w = some bk → let u := takeSource bk s;
      exec (.reclaimStart w) s = .next (settleAll { u with med := { u.med with reclaims := Tbl.insert u.med.reclaims w { source := bk, why := .reclaim, todo := [] } } })) ∧
    (s.med.compat = false → let avg := ((s.med.blocks.filter (fun x => decide (x.1 % 1024 < nativeFc s))).map (·.2.erases)).sum / (1024 * nativeFc s);
      let allow := 50000 * min s.cnt.opSeconds 157788000 / 157788000 + 2000 - avg;
      exec .forecourtRecompute s = .next { s with med := { s.med with avgErase := min 65535 avg, allowance := min 65535 allow } }) ∧
    (s.med.journal.all (fun r => decide (r.seq ≤ s.med.durSeq)) = true →
      exec .ledgerAudit s = .next (auditAll { s with med := { s.med with auditDue := false } })) ∧
    ((∃ r ∈ s.med.journal, s.med.durSeq < r.seq ∧ ∃ p b role old new n, r.body = .blockState p b role old new n) →
      exec .ledgerAudit s = .next { s with med := { s.med with auditDue := true } }) ∧
    (∀ (nsid bale grain : Nat) (c : CacheGrain), s.med.cache.find? (fun c => c.wait = .frame ∧ c.item.id = { nsid := nsid, bale := bale, grain := grain }) = some c →
      let u := { s with med := { s.med with cache := s.med.cache.filter (fun x => x ≠ c) } };
      let v := frameWing s c; let k := inputBytes s nsid; let pct := (getCmp s v).threshPct;
      let raw := fun (x : State) => let y := cmpCount v k 0 x;
        placeGrain c.wing c.item (setCmp v { getCmp y v with raw := satAdd (2 ^ 32 - 1) (getCmp y v).raw 1 } y);
      (∀ n, 0 < n → n ≤ 15360 → notSmaller n k pct = false → let y := cmpCount v k n u;
        exec (.packedGrainFrame nsid bale grain (.frame n)) s = .next (packGrain c.wing c.item ((n + 1023) / 1024)
          (setCmp v { getCmp y v with packed := satAdd (2 ^ 32 - 1) (getCmp y v).packed 1 } y))) ∧
      (∀ n, 15360 < n ∨ notSmaller n k pct = true → exec (.packedGrainFrame nsid bale grain (.frame n)) s = .next (raw u)) ∧
      exec (.packedGrainFrame nsid bale grain .notSmaller) s = .next (raw u) ∧
      exec (.packedGrainFrame nsid bale grain .verifyFail) s = .next (raw (verifyFailed v 0 u))) ∧
    (∀ load, let u := resumeMoves (rollWindow load s); inCaravan u = false → u.plc.migrEn = false →
      exec (.placementWindowEnd load) s = .next (settleAll (leaveReady u))) ∧
    (∀ (nsid bale : Nat) (m : Move), findMove s nsid bale = some m → m.stalled = true → legHolds s nsid bale = false → baleRunning s nsid bale = false →
      (m.srcStation = m.dstStation → m.step = 3 → inWing s nsid bale m.srcWing = false → exec (.moveStallDone nsid bale) s = .next (setDir nsid bale
        { station := ownStation s, wing := m.dstWing, state := 1, blockIx := freeMapBlock s m.dstWing } (.placed nsid bale) (setMove { m with step := 4 } s))) ∧
      (m.srcStation = ownStation s → m.dstStation ≠ ownStation s → m.step = 6 → m.drained = false → exec (.moveStallDone nsid bale) s =
        .next (settleAll (setMove { m with drained := true, todo := m.marked, marked := [] } s))))

/-- Placement and redundancy across stations (R176, R177, R183, R190, R200, R636, R637, R639, R643, R644). -/
def Obligations.CaravanPlacementAndRedundancy : Prop :=
  ∀ (s : State) (st : Fin 64) (nsid bale : Nat), serving s = true → inCaravan s = true →
    (leads s = true → let u := { s with plc := { s.plc with requests := s.plc.requests ++ (if st.val = ownStation s then [] else [(st.val, nsid, bale)]) } };
      (s.plc.reconcile = false → exec (.placementRequest st nsid bale) s = .next (settleAll (serveNext 4096 u))) ∧
      (s.plc.reconcile = true → exec (.placementRequest st nsid bale) s = .next u)) ∧
    exec (.placementAnswer nsid bale st) s = .next (answerPlacement nsid bale st s) ∧
    (∀ (w : Fin 8) (d : Fin 4), let u := noteDir nsid bale st w d s;
      (leads u = false → leads s = false → exec (.directoryAnnouncement nsid bale st w d) s = .next (settleAll (ackTo (droverLead s) ordDir nsid bale 0 u))) ∧
      (leads s = true → exec (.directoryAnnouncement nsid bale st w d) s =
        .next (settleAll (announceDir nsid bale { station := st, wing := w, state := d, blockIx := 0 } u)))) ∧
    (∀ (dst : Fin 64) (reason : Fin 8), leads s = false → (st.val = ownStation s ∨ dst.val = ownStation s) → st ≠ dst →
      exec (.moveOrder nsid bale st dst reason) s =
        .next (ackTo (droverLead s) ordMove nsid bale (takeMove nsid bale st dst reason s).2 (takeMove nsid bale st dst reason s).1)) ∧
    (∀ (l w h o d k f m : Nat) (x : Fin 3), (members s).contains st.val = true →
      let v : StReport := { load := l, wear := w, heat := h, owned := o, debt := d, held := k, left := f, moved := m, stamp := s.td17, excl := x, bales := ((Tbl.find s.plc.reports st.val).map (·.bales)).getD [] };
      exec (.stationReport st l w h o d k f m x) s = .next { s with plc := { s.plc with reports := Tbl.insert s.plc.reports st v } }) ∧
    (∀ (tag : Nat) (gs : List GrainMsg), (members s).contains st.val = true → st.val ≠ ownStation s → (∀ g ∈ gs, g.data ≠ []) →
      exec (.mirrorGrains st tag gs) s = .next (settleAll (gs.foldl (mirrorGrain st tag) s))) ∧
    (∀ (tag : Nat) (m : MirrorItem), s.plc.mirrors.find? (fun m => m.tag = tag ∧ ¬ m.acked) = some m →
      let l := s.plc.mirrors.map (fun x => if x.tag = tag then { x with acked := true } else x);
      let u := { s with plc := { s.plc with mirrors := l.filter (fun x => ¬ (x.parts = [] ∧ x.acked ∧ x.bytes = 0)) } };
      exec (.mirrorAcknowledgement tag) s =
        .next (settleAll (debtCheck (m.parts.foldl (fun s r => settlePart r (updPart r (fun p => { p with mirrors := p.mirrors - 1 }) s)) u)))) ∧
    (st.val ≠ ownStation s → ∀ gs : List GrainMsg, exec (.mirrorDrop st gs) s = .next (settleAll (gs.foldl (fun u g =>
      let v := putHeld st (msgId g) GrainImg.zero u;
      if ownsBale u g.nsid g.bale = true ∨ mapEntry u (idKey (msgId g)) = 0 then v else jrn 8 (.mapTrim g.nsid g.bale (4 * g.grain) 4) .nothing v) s))) ∧
    (∀ (seg pos i : Nat) (q : Bool) (data md : List Byte) (p : ParityGrain), (members s).contains st.val = true → s.rte.parity = [p] →
      p.seg = seg → p.idx = i → p.q = q → p.placed = false →
      (p.got.contains pos = false → let img := { GrainImg.zero with data := Memory.writeBytes [] 0 (fitBytes 16384 data), md := Memory.writeBytes [] 0 (fitBytes 256 md) };
        exec (.parityContribution st seg pos i q data md) s =
          .next (settleAll { s with rte := { s.rte with parity := [{ p with got := p.got ++ [pos], sum := imgXor p.sum img }] } })) ∧
      (p.got.contains pos = true → exec (.parityContribution st seg pos i q data md) s = .next (settleAll { s with rte := { s.rte with parity := [p] } }))) ∧
    (∀ (g : Fin 8) (p : Piece), s.rte.pieces.find? (fun p => ¬ p.closed ∧ p.group = g.val) = some p → exec (.pieceClose g) s =
      .next (settleAll (send (droverLead s) .pieceClosed [p.id, p.versions.length] [] [] (setPiece { p with closed := true } s)))) ∧
    (∀ seg, leads s = true → exec (.segmentClose seg) s = .next (settleAll (tellLens seg (closeSeg seg s)))) ∧
    (∀ gs, baleRebuilding s nsid bale = true → ownsBale s nsid bale = true → (∀ g ∈ gs, g.nsid = nsid ∧ g.bale = bale ∧ g.grain < 4096 ∧ g.bits < 16) →
      exec (.backgroundRebuild nsid bale gs false) s = .next (settleAll (admitForeign (gs.foldl (rebuildGrain (dirEntry s nsid bale).wing) s)))) ∧
    (∀ (seg i tag : Nat) (p : Piece) (v : GrainId × GrainImg × Nat), s.rte.pieces.find? (fun p => p.seg = seg + 1) = some p → p.versions[i]? = some v →
      exec (.rebuildRead st seg i tag) s = .next (addRead v.1 v.2.2 v.2.2 (.rebuild st tag) s)) ∧
    (∀ (g : GrainMsg) (m : Move), findMove s g.nsid g.bale = some m → m.srcStation = st.val → m.dstStation = ownStation s → m.dstWing < 8 →
      g.grain < 4096 → g.bits < 16 → exec (.moveGrains st [g]) s = .next (settleAll (moveGrainIn st m.dstWing s g)))

/-- Route links (R608 to R615, R617, R888). -/
def Obligations.RouteLinksTakeFlitsAndTrain : Prop :=
  ∀ (s : State) (l : Fin 4),
    let x := getLink s l;
    (x.state = .up →
      (∀ bytes, let b := fitBytes 256 bytes;
        let f := parseFlit b;
        (crc32c (b.take 252) ≠ imgField b 252 4 → exec (.flitReceive l bytes) s = .next (dropFlit l true f.kind s)) ∧
        (crc32c (b.take 252) = imgField b 252 4 → flitOk b f = false → exec (.flitReceive l bytes) s = .next (dropFlit l false f.kind s)) ∧
        (crc32c (b.take 252) = imgField b 252 4 → flitOk b f = true → exec (.flitReceive l bytes) s = .next (goodFlit l f s))) ∧
      (∀ q : BitVec 12, exec (.nak l q) s = .next (startReplay l q.toNat s)) ∧
      (0 < x.unacked → exec (.ackTimer l) s = .next (setLink l { x with unacked := 0, flits := satAdd max64 x.flits 1 } s)) ∧
      exec (.linkDown l) s = .next (linkDown l false s) ∧
      exec (.creditCensus l) s = .next (sendFlit l (controlFlit s) s) ∧
      (∀ a b c, (∀ i < 8, listGet 0 a i + listGet 0 b i + listGet 0 c i = vcBuffer (i / 2)) → exec (.censusReceive l a b c) s = .next s) ∧
      (∀ a b c, listGet 0 a 0 + listGet 0 b 0 + listGet 0 c 0 ≠ vcBuffer 0 → exec (.censusReceive l a b c) s = .next (raise (1068 + l) (logOcc 0x9001 (1068 + l)
        ([0, 0] ++ leBytes 2 (listGet 0 a 0) ++ leBytes 2 (listGet 0 b 0) ++ leBytes 2 (listGet 0 c 0)) (retrainLink l (trainState s l x) s))))) ∧
    (x.state = .training →
      exec (.linkTrained l) s = .next (sendFlit l (controlFlit s) (setLink l { x with lock := 3 } s)) ∧
      (∀ h : HelloMsg, x.lock = 3 →
        (helloCause s l h = 0 → let u := setLink l { x with state := .up, version := 1, peer := h.station, peerLink := h.link } s;
          exec (.hello l h) s = .next (linkChange { u with rte := { u.rte with fwSets := Tbl.put 0 u.rte.fwSets h.station h.fwSet,
                                                                               variants := Tbl.insert u.rte.variants h.station (b2n h.is200) } })) ∧
        (helloCause s l h ≠ 0 → exec (.hello l h) s = .next (raise (1068 + l) (logOcc 0x9002 (1068 + l) (4 :: leBytes 1 (helloCause s l h))
          (setLink l { x with state := .refused, refuse := helloCause s l h, peer := h.station, peerLink := h.link } s)))))) ∧
    (s.mode.mode ≠ .dark → x.sideband = true → x.state = .down → s.kin.done.contains 4 = true →
      exec (.linkSbChange l true) s = .next (retrainLink l .training (setLink l { x with sideband := false } s))) ∧
    (s.mode.mode ≠ .dark → x.sideband = false → x.state = .up →
      exec (.linkSbChange l false) s = .next (linkDown l true (setLink l { x with sideband := true } s))) ∧
    (∀ (st : Fin 64) (b : BitVec 4), s.mode.mode ≠ .dark → inCaravan s = true → st.val ≠ ownStation s → exec (.linkStateNews st b) s =
      .next (checkPartition (raise 1072 (updateRoutes { s with rte := { s.rte with linkMap := Tbl.put 0 s.rte.linkMap st b.toNat } }))))

/-- The caravan's messages (R46, R560, R566, R624, R630 to R633, R666), transfers (R565) and the host link (R505). -/
def Obligations.CaravanMessagesAndTransfers : Prop :=
  ∀ (s : State) (st : Fin 64) (r : CmdRef) (i : Nat),
    let own := ownStation s;
    let ext : PartRef := { station := st, cmd := r, index := i };
    let mine : PartRef := { station := own, cmd := r, index := i };
    (serving s = true → inCaravan s = true → s.rte.mismatched = false →
      (droverLead s ≠ own → exec .heartbeatSend s = .next (send (droverLead s) .heartbeat [own] [] [] s)) ∧
      (droverLead s = own → exec .heartbeatSend s =
        .next (((members s).filter (· ≠ own)).foldl (fun s m => send m .heartbeat [ownStation s] [] [] s) s)) ∧
      ((members s).contains st.val = true → st.val ≠ own → exec (.heartbeat st) s =
        .next (settleAll (checkPartition (heardFrom st { s with rte := { s.rte with lastSeen := Tbl.insert s.rte.lastSeen st s.td17 } })))) ∧
      (declares s st = true → exec (.absenceDeclared st false) s = .next (settleWaits (declareAbsent st s))) ∧
      (minority s = false → s.rte.resumedAt = none →
        exec .caravanResumption s = .next (settleAll (checkPartition { s with rte := { s.rte with resumedAt := some s.td17 } }))) ∧
      (∀ (v : Bool) (f : Nat) (g : Fin 8) (d : Nat), leads s = false → st.val ≠ own →
        exec (.joinRequest st v f g d) s = .next (send (droverLead s) .joinRequest [st, b2n v, f, g, d] [] [] s))) ∧
    (serving s = true → inCaravan s = true → st.val ≠ own →
      (∀ (g f : Nat) (e : List Byte), (members s).contains st.val = true → f < 1024 →
        let m := Memory.writeBytes (Tbl.get [] s.chr.peerEntries st.val) (256 * f) (fitBytes 256 e);
        let u := { s.chr with peerGen := Tbl.put 0 s.chr.peerGen st (g % 2 ^ 64), peerEntries := Tbl.put [] s.chr.peerEntries st m };
        exec (.charterPropagation st g [(f, e)]) s = .next (ackTo st ordCharter g 0 0 { s with chr := u })) ∧
      (∀ nsid v : Nat, exec (.hintPropagation st nsid v) s = .next (ackTo st ordHint nsid v 0 (putHint nsid (v % 2 ^ 32) s))) ∧
      (∀ (code a b res : Nat), exec (.memberAcknowledgement st code a b res) s = .next (settleWaits (ackEffect st code a b res (noteAck st code a b res s)))) ∧
      (∀ (code : Nat) (ns : List Nat) (bs : List Byte), exec (.stationOperationRequest st code ns bs) s = .next (stationOrder st code ns bs s))) ∧
    (∀ (slba nlb g : Nat) (q : Sqe), inCaravan s = true → st.val ≠ own → findForeign s ext = none → nlb ≠ 0 →
      (s.mode.mode = .extinguished → exec (.forwardedPart st r i slba nlb g q) s = .next (returnPart ext stExtinguishedStation (cntMod 4 1 s))) ∧
      (s.mode.mode = .lit → sanRunning s = false → let u := cntMod 4 1 s;
        let p : Part := { index := i, nsid := foreignNsid q slba, slba := slba, nlb := nlb, owner := own, state := .waiting, status := none,
                          records := 0, begun := false, mirrors := 0, off := 0 };
        let f : ForeignPart := { station := st, cmd := r, sqe := { q with data := [], md := [] }, gen := g,
                                 write := decide (q.nsid ≤ 1024) && [0x01, 0x08, 0x09].contains q.opc, part := p, admitted := false, committed := false, data := [] };
        exec (.forwardedPart st r i slba nlb g q) s = .next (admitForeign { u with host := { u.host with foreign := u.host.foreign ++ [f] } }))) ∧
    (∀ p, partOf s mine = some p → p.state = .forwarded → s.mode.mode ≠ .dark →
      exec (.partStatus r i 0 0) s = .next (releaseRouted (finishCmd r (updPart mine (fun x => { x with state := .done, status := p.status }) (copySlm r s))))) ∧
    (∀ d m : List Byte, s.mode.mode ≠ .dark → inCaravan s = true → exec (.forwardedData st r i true d m) s =
      .next (updForeign ext (fun f => { f with sqe := { f.sqe with data := d, md := m } }) s)) ∧
    (∀ p, s.mode.mode ≠ .dark → partOf s ext = some p → partTransfers s ext = true → p.begun = true → partReads s ext = false → p.state = .running →
      exec (.hostTransferDone st r i true) s = .next (releasePart ext none (if st = own then countOut r.fn (partLen s p) s else s)) ∧
      exec (.hostTransferDone st r i false) s = .next (releasePart ext (some stTransfer) s)) ∧
    (s.mode.mode ≠ .dark → s.host.perst = false → s.host.linkUp = false →
      exec .dlUp s = .next { s with host := { s.host with linkUp := true, linkWidth := 8, inL1 := false } }) ∧
    (∀ w : Fin 9, s.host.linkUp = true → [1, 2, 4, 8].contains w.val = true →
      exec (.linkPowerStateChange false w) s = .next { s with host := { s.host with inL1 := false, linkWidth := w.val } })

/-! Doors, legs, sieves, the dispatcher. -/

/-- Door words of tasks (R270, R295, R300 to R323, R428, R438). -/
def Obligations.DoorWordsHaveTheirEffects : Prop :=
  ∀ (s : State) (k : Fin 256) (key : Nat) (t : Task) (v : Word),
    (DoorOpen s k key t 1 0x08 0 → exec (.wbGo k) s = .next (wbGo key s)) ∧
    (DoorOpen s k key t 1 0x18 v.toNat → ∀ w, Tbl.find s.prog.waybills v.toNat = some w →
      (w.task = key → exec (.wbCancel k v) s = .next (wbCancel v.toNat false s)) ∧ (w.task ≠ key → exec (.wbCancel k v) s = .next s)) ∧
    ((getCore s k).run = some key → getTask s key = some t → accessFault s t 0x102000 8 false = 0 → exec (.btNext k) s = .next (btNext key s).2) ∧
    (DoorOpen s k key t 2 0x08 v.toNat → exec (.btDone k v) s = .next (btDone key v.toNat s)) ∧
    (DoorOpen s k key t 2 0x18 v.toNat → exec (.btAppLen k v) s = .next (btAppend key v.toNat s)) ∧
    (DoorOpen s k key t 2 0x20 0 → exec (.btEnd k) s = .next (btEnd key s)) ∧
    (DoorOpen s k key t 0 0x210 v.toNat → exec (.ctlAppLen k v) s = .next (ctlAppend key v.toNat s)) ∧
    (DoorOpen s k key t 0 0x218 v.toNat → t.outPos.toNat ≤ range0Len t →
      exec (.ctlExit k v) s = .next (endThread key stOk (min t.outPos.toNat 0xFFFFFFFF) (v.toNat % 65536) s)) ∧
    (DoorOpen s k key t 9 0x10 v.toNat → exec (.cpLen k v) s = .next (updTask key (fun t => { t with cpDone := BitVec.ofNat 64 v.toNat })
      (writeSpace key t.cpDst.toNat (readSpace s key t t.cpSrc.toNat v.toNat) s))) ∧
    (DoorOpen s k key t 3 0x28 v.toNat → exec (.doorPost k v) s = .next (doorPost key v.toNat s)) ∧
    (DoorOpen s k key t 3 0x10 v.toNat →
      exec (.pstPrio k v) s = .next (reRank t.core (setTask key { t with prio := floorPrio s t.fn (v.toNat % 8) } s))) ∧
    (DoorOpen s k key t 3 0x18 v.toNat → (v.toNat % 2 ^ 32 = 0 → exec (.pstAffinity k v) s = .next s) ∧
      (v.toNat % 2 ^ 32 ≠ 0 → exec (.pstAffinity k v) s = .next (updTask key (fun t => { t with affinity := BitVec.ofNat 32 v.toNat }) s)))

/-- Legs, sieves, the dispatcher (R215, R244, R313, R334, R421, R424, R429, R433, R451). -/
def Obligations.LegsSievesAndTheDispatcher : Prop :=
  ∀ (s : State),
    (∀ (w : Fin 8) (l : RunLeg) (base slot : Nat), let pool := poolFor s w;
      oldestLeg s pool = some l → l.wing = w → moveHolds s l = false → s.mode.mode = .lit → s.med.flush = none → s.mode.wingOut.getLsbD pool = false → l.plan.queues ≤ slotsFreeAt s pool →
      stagingAt s pool l.size = some base → planSlot s l.wing = some slot → let x := { l with state := .running, pool := pool, base := base, slot := slot };
      exec (.legStart w) s = .next ((List.range l.plan.queues).foldl (startReduce x pool) (updLeg l.station l.handle l.leg (fun _ => x) s))) ∧
    (∀ (ch : Fin 128), s.mode.mode = .lit → s.med.flush = none →
      (∀ l g, (getSiv s ch).reads ≠ [] → (getSiv s ch).reads.length < 16 → (legsInTurn s ch).find? (fun l => (nextGrain s l ch).isSome) = some l →
        nextGrain s l ch = some g → exec (.scanReadIssue ch) s = .next (issueScan ch l g s)) ∧
      exec (.sieveGrainEvaluation ch) s = .next (sivGo ch s)) ∧
    (∀ (ch : Fin 128) (rd : ScanRead) (rds : List ScanRead) (x : RecEval) (xs : List RecEval) (l : RunLeg), (getSiv s ch).reads = rd :: rds →
      (getSiv s ch).recs = x :: xs → x.phase = .searching → legOfRead s rd = some l →
      let w := listGet 0 l.plan.ops x.pc;
      let t := opArg w % 16;
      let u := bcnFix t (leNat x.key) s;
      let h := bcnSearch u t (leNat x.key);
      let v := onSummary l (fun m => { m with searches := satAdd max64 m.searches 1, multi := satAdd max64 m.multi (b2n h.multi) }) (bcnSlot 0 (bcnTable u t).banks u);
      exec (.sieveBeaconResult ch) s =
        .next (sivGo ch (setSiv ch { getSiv v ch with recs := listSet (getSiv v ch).recs 0 (searchDone w h x) } v))) ∧
    (∀ (st : Fin 64) (h n a : Nat) (r o : List Byte), s.mode.mode ≠ .dark →
      (legAwaited s st h n a = true → exec (.legOutputReceive st h n a r o) s =
        .next (legDeliver h n a (imgField r 10 1) (imgField r 40 8) o (imgField r 32 8) (parseSummary (r.drop 64)) s)) ∧
      (legAwaited s st h n a = false → exec (.legOutputReceive st h n a r o) s = .next s)) ∧
    (∀ (w : Fin 8) (e : PostEntry) (rest : List PostEntry), let d := getWing s w;
      let u := setWing w { d with postQ := rest, pqFree := d.pqFree + 1, pqUsed := d.pqUsed - 1 } s;
      d.postQ = e :: rest →
      (∀ t, getTask u e.key = some t → t.incarn = e.incarn → exec (.postEntryApply w) s = .next (postRoom w (applyFlags e.key e.mask u))) ∧
      (∀ t, getTask u e.key = some t → t.incarn ≠ e.incarn → exec (.postEntryApply w) s = .next (postRoom w u)) ∧
      (getTask u e.key = none → exec (.postEntryApply w) s = .next (postRoom w u))) ∧
    (∀ k : Fin 256, exec (.nextSlotLoaded k) s = .next (nextLoadedAt k s)) ∧
    (∀ (k : Fin 256) (key : Nat) (t : Task), (getCore s k).run = some key → getTask s key = some t →
      ((getWing s (k / 32)).quantum ≠ 0 → hasPeer s k key t.prio = true → exec (.quantumExpiry k) s = .next (yieldCore k false s)) ∧
      (hasPeer s k key t.prio = false → exec (.quantumExpiry k) s = .next s) ∧
      (∀ p : Fin 64, exec (.holdPageFill k p) s = .next (setCore k (touchPage (frameOwner s) key p false (getCore s k)).1 s)))

/-! The beacon, jobs, the seal and digest engines, keys. -/

/-- The beacon (R447 to R464). -/
def Obligations.BeaconCommandsComplete : Prop :=
  ∀ (s : State) (r : Requester) (x : Nat),
    let c := bcnCtx s x;
    let t := c.uTable;
    let b := bcnTable s t;
    let u := bcnSlot 2 b.banks s;
    (UnitOpen s r 4 0x20 0 x → (bcnTable s c.sTable).active = true →
      let v := bcnFix c.sTable (ctxKey c) s;
      let h := bcnSearch v c.sTable (ctxKey c);
      let n := b2n h.multi * 2 ^ 62 + b2n h.hit * 2 ^ 61 + h.count * 2 ^ 53 + h.index * 2 ^ 32 + h.res;
      exec (.bcnSGo r) s = .next (setBcnCtx x { c with sResult := BitVec.ofNat 64 n } (bcnSlot 1 (bcnTable s c.sTable).banks v))) ∧
    (b.active = true → c.uIndex < bcnEntries b →
      (UnitOpen s r 5 0x140 1 x → bcnFits b c = true → exec (.bcnWrite r) s = .next (bcnFinish x (bcnDone 0 c (bcnPut b c.uIndex (ctxEntry c) u)))) ∧
      (UnitOpen s r 5 0x140 2 x →
        exec (.bcnInvalidate r) s = .next (bcnFinish x (bcnDone 0 c (bcnPut b c.uIndex { bcnGet u b c.uIndex with valid := false } u)))) ∧
      (UnitOpen s r 5 0x140 3 x → exec (.bcnRead r) s = .next (bcnFinish x (bcnRead b c u)) ∧
        (bcnRead b c u).code = 0 ∧ (bcnRead b c u).valid = (bcnGet u b c.uIndex).valid ∧
        (bcnRead b c u).ctx.uRes = BitVec.ofNat 32 (bcnGet u b c.uIndex).res) ∧
      (UnitOpen s r 5 0x140 4 x → bcnFits b c = true → exec (.bcnInsert r) s = .next (bcnFinish x (bcnInsert t b c u)) ∧
        ((bcnInsert t b c u).code = 0 ∨ (bcnInsert t b c u).code = 3))) ∧
    (UnitOpen s r 5 0x140 5 x → b.active = true → bcnFits b c = true → let n := holeN b.hole;
      let p := skipHoles n b.append;
      let v := setBcnTable t { b with append := skipHoles n (p + 1) } (bcnPut b p (ctxEntry c) u);
      p < bcnEntries b → exec (.bcnAppend r) s = .next (bcnFinish x { code := 0, index := p, valid := false, ctx := c, st := v })) ∧
    (UnitOpen s r 5 0x140 6 x → b.active = true →
      exec (.bcnClear r) s = .next (bcnFinish x (bcnDone 0 c (setBcnTable t { b with append := 0 } (clearBanks b.banks u))))) ∧
    (pfWrites s = true → x = 0 →
      (b.active = false → b.cfgWidth ≠ 0 → b.cfgHole ≠ 3 → b.cfgBanks ≠ 0 → otherBanks u t &&& b.cfgBanks = 0 →
        let d := { b with active := true, banks := b.cfgBanks, width := b.cfgWidth, hole := b.cfgHole, append := 0 };
        exec (.bcnCreate .pf) s = .next (bcnFinish 0 (bcnDone 0 c (setBcnTable t d (clearBanks b.cfgBanks u))))) ∧
      (b.active = true → b.cfgBanks ≠ 0 → legsNaming u t = 0 → let add := b.cfgBanks &&& ~~~b.banks;
        otherBanks u t &&& add = 0 → (bankList add).any (fun x => (bankList b.banks).any (fun y => decide (x < y))) = false →
        exec (.bcnGrow .pf) s = .next (bcnFinish 0 (bcnDone 0 c (setBcnTable t { b with banks := b.banks ||| add } (clearBanks add u))))) ∧
      (b.active = true → legsNaming u t = 0 → exec (.bcnDelete .pf) s =
        .next (bcnFinish 0 (bcnDone 0 c (setBcnTable t { b with active := false, banks := 0, append := 0 } (clearBanks b.banks u)))))) ∧
    exec (.beaconScrubPass [] []) s = .next (((bcnDiffer s).dedup).foldl (fun s k => bcnRepair (k / 32768) (k % 32768) s) s)

/-- Jobs (R488 to R494) and keys (R690 to R706). -/
def Obligations.JobsAndKeysComplete : Prop :=
  ∀ (s : State) (r : Requester) (x : Nat) (w : Fin 8) (v : Word),
    let w1 := bitsSet v.toNat 63 63 1;
    let w0 := bitsSet v.toNat 63 63 0;
    let wc := bitsSet v.toNat 62 62 1;
    let d := bitsSet v.toNat 63 60 1;
    let d2 := bitsSet v.toNat 63 60 2;
    let at8 := fun (y : Nat) => if y = 0 then w.val else runWing s (y - 1);
    (UnitOpen s r 8 0x00 w1 x → bitOf w1 62 = false →
      exec (.jobOpen r w v) s = .next (jobOpen x (at8 x) (bitOf w1 40) (bitsOf w1 38 32) (w1 % 2 ^ 24) s)) ∧
    (UnitOpen s r 8 0x00 wc x → bitOf wc 63 = false → let k := jobKey x (at8 x);
      exec (.jobCancel r w v) s = .next (jobCancel x (at8 x)
        (setJob k { getJob s k with checksum := bitOf wc 40, thresh := bitsOf wc 38 32, total := wc % 2 ^ 24 } s))) ∧
    (UnitOpen s r 8 0x20 w0 x → exec (.cmpJLen r w v false) s = .next (jobPiece x (at8 x) (w0 % 2 ^ 24) (bitOf w0 62) false false s)) ∧
    (UnitOpen s r 8 0x20 w1 x → exec (.cmpJLenLast r w v false) s = .next (jobPiece x (at8 x) (w1 % 2 ^ 24) (bitOf w1 62) true false s)) ∧
    (pfWrites s = true → s.chr.mgrHeld = true →
      (∀ root, ((keyDataBytes s).take 32).headD 0 ≠ 0 → s.sec.root = some root → loadRefusal s (bitsOf d 45 40) = none → exec (.keyDerive v) s =
        .next (keyDone 0 (slotLoad (bitsOf d 45 40) (kdf root ((keyDataBytes s).take 32) (listGet 0 s.sec.data 4) 256) .derive (d % 2 ^ 32)
          ((keyDataBytes s).take 32) (listGet 0 s.sec.data 4) s))) ∧
      (∀ (k : KeySlot) (key : List Byte), keySlot s (bitsOf d2 53 48) = some k → loadRefusal s (bitsOf d2 45 40) = none →
        keyUnwrap k.key (keyDataBytes s) = some key → key.length = 32 →
        exec (.keyUnwrap v) s = .next (keyDone 0 (slotLoad (bitsOf d2 45 40) key .unwrap (d2 % 2 ^ 32) [] 0 s))) ∧
      (let e := bitsSet v.toNat 63 60 3; loadRefusal s (bitsOf e 45 40) = none →
        exec (.keyClearLoad v) s = .next (keyDone 0 (slotLoad (bitsOf e 45 40) ((keyDataBytes s).take 32) .clear (e % 2 ^ 32) [] 0 s))) ∧
      (∀ k : KeySlot, let n := bitsOf (bitsSet v.toNat 63 60 4) 45 40;
        keySlot s n = some k → slotInUse s n = false → exec (.keyUnload v) s =
        .next (keyDone 0 (raise 1067 { s with sec := { s.sec with slots := Tbl.erase s.sec.slots n, free := s.sec.free + 1, loaded := s.sec.loaded - 1 } }))))

/-- R705 and R706. -/
def Obligations.KeyLoadsAreRefused : Prop :=
  ∀ (s : State) (v : Word), pfWrites s = true → s.chr.mgrHeld = true →
    let n := bitsOf v.toNat 45 40;
    (slotInUse s n = true →
      (((keyDataBytes s).take 32).headD 0 ≠ 0 → exec (.keyDerive v) s = .next { s with sec := { s.sec with code := 0xC3, data := List.replicate 5 0 } }) ∧
      ((keySlot s (bitsOf v.toNat 53 48)).isSome = true → exec (.keyUnwrap v) s = .next { s with sec := { s.sec with code := 0xC3, data := List.replicate 5 0 } }) ∧
      exec (.keyClearLoad v) s = .next { s with sec := { s.sec with code := 0xC3, data := List.replicate 5 0 } } ∧
      ((keySlot s n).isSome = true → exec (.keyUnload v) s = .next { s with sec := { s.sec with code := 0xC3, data := List.replicate 5 0 } })) ∧
    (slotInUse s n = false → s.sec.epoch = 2 ^ 32 - 1 →
      (((keyDataBytes s).take 32).headD 0 ≠ 0 → exec (.keyDerive v) s = .next { s with sec := { s.sec with code := 0xC4, data := List.replicate 5 0 } }) ∧
      ((keySlot s (bitsOf v.toNat 53 48)).isSome = true → exec (.keyUnwrap v) s = .next { s with sec := { s.sec with code := 0xC4, data := List.replicate 5 0 } }) ∧
      exec (.keyClearLoad v) s = .next { s with sec := { s.sec with code := 0xC4, data := List.replicate 5 0 } })

/-- The seal engine (R709 to R720) and the digest engine (R722 to R729). -/
def Obligations.SealAndDigestComplete : Prop :=
  ∀ (s : State) (r : Requester) (x : Nat) (v : Word),
    let w1 := bitsSet v.toNat 63 63 1;
    let w0 := bitsSet v.toNat 63 63 0;
    let wa := bitsSet v.toNat 62 62 1;
    let e := s.sec.sealEng;
    (UnitOpen s r 6 0x00 (2 ^ 62) x →
      (e.owner = none → exec (.sealAcquire r) s = .next (setSeal { e with owner := some { fn := ctxFn s x, handle := ctxHandle s x, ctx := x, since := s.td17 },
                                                                           views := Tbl.erase e.views x, code := 0x01 } s)) ∧
      (∀ o, e.owner = some o → o.ctx = x → exec (.sealAcquire r) s = .next s) ∧
      (∀ o, e.owner = some o → o.ctx ≠ x → exec (.sealAcquire r) s = .next (sealCount 6 (setSeal { e with views := Tbl.insert e.views x .busy } s)))) ∧
    (ownsSeal s x = true →
      (UnitOpen s r 6 0x00 (2 ^ 61) x → exec (.sealRelease r) s = .next (sealRelease s)) ∧
      (UnitOpen s r 6 0x08 w1 x → bitOf w1 62 = false → exec (.sealGo r v) s = .next (sealGo x (bitsOf w1 10 8) (w1 % 2) (bitsOf w1 21 16) s)) ∧
      (UnitOpen s r 6 0x08 wa x → bitOf wa 63 = false →
        exec (.sealAbort r v) s = .next (sealAbort x (setSeal { e with slot := bitsOf wa 21 16, mode := bitsOf wa 10 8, dir := wa % 2 } s))) ∧
      (UnitOpen s r 6 0x48 w0 x → exec (.sealPiece r v) s = .next (sealPiece x (w0 % 2 ^ 19) false s)) ∧
      (UnitOpen s r 6 0x48 w1 x → exec (.sealPieceLast r v) s = .next (sealPiece x (w1 % 2 ^ 19) true s))) ∧
    (pfWrites s = true → s.chr.mgrHeld = true → exec .sealBreak s = .next (sealBreak s) ∧ exec .digBreak s = .next (digBreak s)) ∧
    (UnitOpen s r 7 0x00 w1 x → bitOf w1 62 = false → exec (.digOpen r v) s = .next (digOpen x (bitsOf w1 21 16) (bitOf w1 9) (w1 % 4) s)) ∧
    (ownsDig s x = true → s.sec.dig.slot < 64 → s.sec.dig.alg < 4 →
      (UnitOpen s r 7 0x00 (digReleaseWord s) x → exec (.digRelease r) s = .next (digFree 0 s)) ∧
      (UnitOpen s r 7 0x18 v.toNat x → exec (.digData r v) s = .next (digTake (leBytes 8 v.toNat) s)) ∧
      (UnitOpen s r 7 0x28 v.toNat x → exec (.digLast r v) s = .next (digLast x v.toNat s)) ∧
      (UnitOpen s r 7 0x38 1 x → exec (.digCtxExport r) s = .next (digExport x s))) ∧
    (UnitOpen s r 7 0x38 2 x → exec (.digCtxImport r) s = .next (digImport x s))

/-! DRAM channels, events, counters, log, management interface, mailbox, control registers. -/

/-- DRAM channels (R745 to R772). -/
def Obligations.DramChannelCommandsComplete : Prop :=
  ∀ (s : State) (w : Fin 8),
    let c := getDram s w;
    (pfWrites s = true → exec (.scrubNow w) s = .next (setDram w { c with scrubPos := some 0 } s)) ∧
    (∀ d : Fin 64, pfWrites s = true → s.chr.mgrHeld = true → d.val ≤ 9 → (Tbl.get DramDev.fresh c.devs d.val).failed = false →
      let t := markDevice w d true s;
      exec (.deviceMark w d) s = .next (if 2 ≤ (failedDevs (getDram t w) (d.val / 5)).length then extinguish 0x02 t else t)) ∧
    exec (.dramCalibration w) s = .next s ∧
    (∀ acts coins n, s.mode.mode ≠ .dark → c.trainDone = true →
      let t := (acts.zipIdx).foldl (fun t x => activate c t (x.1.1 % 32) (x.1.2 % 65536) (coins.contains x.2)) { banks := [], targeted := 0, prob := 0 };
      let d := { c with targeted := satAdd (2 ^ 32 - 1) c.targeted t.targeted, probCount := satAdd 65535 c.probCount t.prob, rfm := c.rfm + n,
                        timingBand := (getSensor s (80 + w.val)).band };
      exec (.refreshWindow w acts coins n) s = .next (setDram w d s)) ∧
    (∀ line k o, s.mode.mode ≠ .dark → c.trainDone = true → s.med.flush = none → (c.scrubPos ≠ none ∨ c.scrubHours ≠ 0) →
      c.scrubPos.getD 0 ≤ line →
      (line < 2 ^ 28 → exec (.patrolScrub w line k o) s = .next (scrubLine w line k o (setDram w { c with scrubPos := some (line + 1) } s))) ∧
      (2 ^ 28 ≤ line → exec (.patrolScrub w line k o) s =
        .next (setDram w { c with scrubPos := none, scrubPasses := satAdd (2 ^ 32 - 1) c.scrubPasses 1 } s))) ∧
    (∀ v : Word, pfWrites s = true → s.chr.mgrHeld = true → v.getLsbD 31 = true →
      let d := { c with testEnable := true, testRaw := v.getLsbD 28 };
      (v.getLsbD 29 = false → exec (.dramTestWrite w v) s = .next (setDram w (testWrite d) s)) ∧
      (v.getLsbD 30 = false → exec (.dramTestRead w v) s = .next (setDram w (testRead d) s))) ∧
    (∀ v : Word, pfWrites s = true → let g := v.toNat % 32;
      (8 ≤ g → g ≤ 20 → exec (.drmLayoutNextWrite w v) s = .next (setDramCfg w { dramCfg s w with grainNext := g } s)) ∧
      (g < 8 ∨ 20 < g → exec (.drmLayoutNextWrite w v) s = .next s))

/-- DRM_HASH_NEXT (R750). -/
def Obligations.HashMasksKeepAPageWhole : Prop :=
  ∀ (s : State) (w : Fin 8) (k : Fin 5) (v : Word), pfWrites s = true →
    let bad := v.getLsbD (13 + k.val) = false ∨ (∃ j : Fin 5, j ≠ k ∧ v.getLsbD (13 + j.val) = true) ∨ (∃ j : Fin 13, v.getLsbD j.val = true);
    let g := dramCfg s w;
    (bad → exec (.drmHashNextWrite w k v) s = .next s) ∧
    (¬ bad → exec (.drmHashNextWrite w k v) s = .next (setDramCfg w { g with hashNext := listSet g.hashNext k (v.toNat % 2 ^ 34) } s))

/-- EVT and LOG (R793 to R806). -/
def Obligations.EventsAndLogComplete : Prop :=
  ∀ s : State,
    (pfReach s = true →
      (∀ (i : Fin 1088) (v : Word),
        let w1c := v &&& ((1#64 <<< 63) ||| (1#64 <<< 60));
        let t := setEvtSrc i (evtSrc s i &&& ~~~w1c) s;
        let keep := evtSrc t i &&& ((1#64 <<< 63) ||| (1#64 <<< 60));
        (evtSrcOk v.toNat = true → exec (.evtSrcWrite i v) s = .next (setEvtSrc i (evtFields v ||| keep) t)) ∧
        (evtSrcOk v.toNat = false → exec (.evtSrcWrite i v) s = .next t)) ∧
      exec (.maskAll true) s = .next { s with evt := { s.evt with maskAll := true } } ∧
      (s.evt.maskAll = true → let t := { s with evt := { s.evt with maskAll := false } };
        exec (.maskAll false) s = .next ((s.evt.src.filter (fun e => e.2.getLsbD 63 && e.2.getLsbD 62)).foldl
          (fun u e => runNotes noteFuel (deliver e.1 u).2 (deliver e.1 u).1) t)) ∧
      exec .clrAll s = .next (s.evt.src.foldl (fun t e => setEvtSrc e.1 (evtFields e.2) t) s) ∧
      (∀ v : Word, exec (.evtInject v) s = .next (raise (v.toNat % 2048) s)) ∧
      (∀ v : Word, let first := v.toNat % 2048;
        let n := v.toNat / 2 ^ 32 % 2048;
        let t := { s with evt := { s.evt with bulkFirst := first, bulkCount := n } };
        (v.getLsbD 63 = true → first + n ≤ 1088 →
          exec (.evtBulkRange v) s = .next ((List.range n).foldl (fun u i => evtPut (first + i) u.evt.bulkVal u) t)) ∧
        (v.getLsbD 63 = false ∨ 1088 < first + n → exec (.evtBulkRange v) s = .next t)) ∧
      (∀ v : Word, exec (.logMark v) s = .next (logOcc 0xB003 0xFFFF (leBytes 8 v.toNat) s))) ∧
    (∀ o r, s.mode.mode ≠ .dark → s.log.queue = o :: r →
      let t := logWriteOcc o { s with log := { s.log with queue := r } };
      (r.length ≠ 128 ∨ s.log.lostUnlogged = 0 → exec .logRecordWrite s = .next t) ∧
      (r.length = 128 → 0 < s.log.lostUnlogged →
        exec .logRecordWrite s = .next (logOcc 0xB002 1087 (leBytes 4 s.log.lostUnlogged) { t with log := { t.log with lostUnlogged := 0 } })))

/-- CNT (R781 to R790). -/
def Obligations.CountersAndSamplerComplete : Prop :=
  ∀ s : State,
    (s.mode.mode ≠ .dark →
      let t := (List.range 1024).foldl latchPort s;
      let c := { t.cnt with winSeq := (s.cnt.winSeq + 1) % 2 ^ 32, winEndUs := s.td17 / 1000 % 2 ^ 32, winCurrent := s.cnt.winSteps };
      let n := if s.cnt.opSeconds < 2 ^ 40 - 1 then s.cnt.opSeconds + 1 else 2 ^ 40 - 1;
      let m := if n % 16 = 0 ∨ n = 2 ^ 40 - 1 then n else s.cnt.opSecondsMram;
      let l := s.host.life;
      let busy := { l with busySeconds := l.busySeconds + b2n (s.host.out.any (fun c => !c.admin)) };
      exec .windowEnd s = .next { t with cnt := c } ∧
      exec .opSecondsTick s = .next { s with cnt := { s.cnt with opSeconds := n, opSecondsMram := m }, host := { s.host with life := busy } }) ∧
    (pfWrites s = true → ∀ v : Word, let n := v.toNat % 2 ^ 17;
      let p := v.toNat % 2 ^ 40;
      let q := v.toNat / 2 ^ 32 % 8192;
      (1 ≤ n → n ≤ 100000 → exec (.cntWinCtrlWrite v) s = .next { s with cnt := { s.cnt with winSteps := n } }) ∧
      (n = 0 ∨ 100000 < n → exec (.cntWinCtrlWrite v) s = .next s) ∧
      (v.toNat % 8 ≤ 5 →
        let d := { s.cnt with smpCores := BitVec.ofNat 32 (v.toNat / 2 ^ 32), smpEnable := v.getLsbD 31, smpWing := v.toNat / 256 % 8, smpCounter := v.toNat % 8 };
        exec (.cntSmpCtrlWrite v) s = .next (smpRestart { s with cnt := d })) ∧
      (5 < v.toNat % 8 → exec (.cntSmpCtrlWrite v) s = .next s) ∧
      (1000 ≤ p → exec (.cntSmpPeriodWrite v) s = .next (smpRestart { s with cnt := { s.cnt with smpPeriod := p } })) ∧
      (p < 1000 → exec (.cntSmpPeriodWrite v) s = .next s) ∧
      ((s.cnt.smpHead + 8192 - q) % 8192 ≤ (s.cnt.smpHead + 8192 - s.cnt.smpTail) % 8192 →
        let o := if v.getLsbD 63 then false else s.cnt.smpOverflow;
        exec (.tailWrite v) s = .next { s with cnt := { s.cnt with smpTail := q, smpOverflow := o } }) ∧
      exec .clrWrap s = .next { s with cnt := { s.cnt with wrap := [] } })

/-- NVMe-MI (R553, R554); SPDM and IDE (R548 to R551). -/
def Obligations.ManagementAndMailboxMessages : Prop :=
  (∀ s : State,
    (s.mode.mode ≠ .dark →
      (∃ b, exec .basicManagementCommand s = .next { s with host := { s.host with miOut := s.host.miOut ++ [b], smbAlert := false } } ∧ b.length = 30) ∧
      (∀ (k : Fin 4) i d, miStructure s k i = some d → exec (.readNvmeMiDataStructure k i) s = .next (miSend (miAnswer 0 d.length d) s)) ∧
      (let n := (Config.freeValue s.free).toNat % 2 ^ 16;
        exec (.healthStatusPoll none) s = .next (miSend (miHealth s n) { s with free := s.free + 1 })) ∧
      exec (.configurationSet 1 1) s = .next (miSend (miAnswer 0 0 []) { s with host := { s.host with miFreq := 100 } }) ∧
      exec (.configurationSet 1 2) s = .next (miSend (miAnswer 0 0 []) { s with host := { s.host with miFreq := 400 } }) ∧
      exec (.configurationGet 1) s = .next (miSend (miAnswer 0 (if s.host.miFreq = 400 then 2 else 1) []) s) ∧
      (∀ o n, o + n ≤ 256 → exec (.vpdRead o n) s = .next (miSend (miAnswer 0 0 (((vpdBytes s).drop o).take n)) s)) ∧
      (∀ q : Sqe, let r : CmdRef := { fn := 0, sq := miQueue, cid := q.cid };
        let c : OutCmd := { cmd := r, sqe := q, gen := s.chr.generation, admin := true, write := false, parts := [], committed := false,
                            silent := false, held := false, data := [], copied := false };
        s.med.flush = none → findCmd s r = none → tunnelled q = true → adminCheck s 0 q = none → exec (.tunnelledAdmin q) s = .next (addCmd c s))) ∧
    exec .miReset s = .next (subsystemReset s)) ∧
  (∀ s : State,
    (mailbox s = true →
      (∀ n, exec (.spdmRequest n [0x10, 0x84, 0, 0]) s = .next (spdmSend [0x10, 0x04, 0, 0, 0, 2, 0, 0x12, 0, 0x13] s)) ∧
      (∀ n, exec (.spdmRequest n [0x11, 0xE1, 0, 0]) s = .next (spdmSend [0x12, 0x7F, 0x41, 0] s)) ∧
      (∀ n m k, Tbl.find s.host.sessions n ≠ none → m ≤ 4 →
        exec (.ideKm n m k) s = .next { s with host := { s.host with ideKeys := Tbl.insert s.host.ideKeys m k } }) ∧
      (∀ n chain, Tbl.find s.host.sessions n = some true → exec (.debugUnlock n chain) s =
        .next (if Config.serviceChain chain then logOcc 0x5002 1067 (leBytes 4 n) { s with host := { s.host with debugBy := some n } } else s))) ∧
    (∀ n both, s.mode.mode ≠ .dark → Tbl.find s.host.sessions n = some both → s.host.debugBy ≠ some n → (both = false ∨ s.chr.spdmReq = false) →
      exec (.spdmSessionEnd n) s = .next { s with host := { s.host with sessions := Tbl.erase s.host.sessions n } }))

/-- CHT and VFM control registers (R652, R653, R686). -/
def Obligations.ManagerRoleAndStaging : Prop :=
  ∀ s : State,
    (pfReach s = true →
      (s.chr.mgrHeld = false → (s.chr.spdmReq = false ∨ s.host.sessions.any (fun e => e.2) = true) →
        exec .claim s = .next { s with chr := { s.chr with mgrHeld := true } }) ∧
      (s.chr.mgrHeld = true ∨ (s.chr.spdmReq = true ∧ s.host.sessions.any (fun e => e.2) = false) → exec .claim s = .next s) ∧
      (s.chr.mgrHeld = true → exec .release s = .next (dropImage { s with chr := { s.chr with mgrHeld := false } }))) ∧
    (pfWrites s = true →
      (s.chr.mgrHeld = true →
        exec .stageClear s = .next { s with chr := { s.chr with staging := [] } } ∧
        exec .stageCopy s = .next { s with chr := { s.chr with staging := s.chr.active } } ∧
        (Memory.wf s.chr.staging = true → ∀ (o : Fin 32768) (v : Word), ∃ m, exec (.charterStagingWrite o v) s = .next { s with chr := { s.chr with staging := m } } ∧
          ∀ a, Memory.read m a = if 8 * o.val ≤ a ∧ a < 8 * o.val + 8 then BitVec.ofNat 8 (v.toNat / 2 ^ (8 * (a - 8 * o.val))) else Memory.read s.chr.staging a)) ∧
      (s.chr.restore = none → exec .restoreAbort s = .next s) ∧
      (∀ i, s.chr.restore = some i → let m := Tbl.put .running s.chr.fnMode i.fn i.prior;
        exec .restoreAbort s = .next { s with chr := { s.chr with restore := none, fnMode := m } }) ∧
      exec .clrUnq s = .next { s with chr := { s.chr with unqCount := 0, unqLast := 0 } })

/-- R654. -/
def Obligations.StagingNeedsAManager : Prop :=
  ∀ s : State,
    (s.chr.mgrHeld = false →
      exec .stageClear s = .next s ∧ exec .stageCopy s = .next s ∧
      (∀ o v, exec (.charterStagingWrite o v) s = .next s) ∧
      (∀ o v, 0x240000 ≤ o → o < 0x280000 → exec (.registerWrite 0 o v) s = .next s) ∧
      (∀ o v, 0x240000 ≤ o → o < 0x280000 → exec (.lowHalfWrite o v) s = .next s ∧ exec (.highHalfWrite o v) s = .next s)) ∧
    (∀ o, o < 0x40000 →
      arrayRead s (0x240000 + o) = some (leNat (Memory.readBytes s.chr.staging o 8)) ∧
      arrayRead s (0x280000 + o) = some (leNat (Memory.readBytes s.chr.active o 8)))

/-- R171 and R651. -/
def Obligations.SettingsKeepTheirRanges : Prop :=
  ∀ (s : State) (v : Word), pfWrites s = true →
    let p := v.toNat / 2 ^ 16 % 256;
    let g := v.toNat / 2 ^ 12 % 16;
    let a := v.toNat / 2 ^ 32 % 2 ^ 16;
    let u := v.toNat / 2 ^ 8 % 256;
    let b := v.toNat % 256;
    (10 ≤ p → p ≤ 90 → 1 ≤ g → g ≤ 8 → exec (.rteCfgWrite v) s = .next { s with rte := { s.rte with recodePct := p, rebuildGbps := g } }) ∧
    (p < 10 ∨ 90 < p ∨ g = 0 ∨ 8 < g → exec (.rteCfgWrite v) s = .next s) ∧
    (1 ≤ a → a ≤ 3650 → exec (.mscRclWeightWrite v) s = .next { s with med := { s.med with rclAref := a, rclWw := p, rclWa := u, rclWv := b } }) ∧
    (a = 0 ∨ 3650 < a → exec (.mscRclWeightWrite v) s = .next s) ∧
    (2 ≤ b → b ≤ 64 → 1 ≤ u → u < b → exec (.mscRclCtrlWrite v) s = .next { s with med := { s.med with rclUrgent := u, rclStart := b } }) ∧
    (b < 2 ∨ 64 < b ∨ u = 0 ∨ b ≤ u → exec (.mscRclCtrlWrite v) s = .next s)

/-- Control registers (R117, R227, R444, R501, R610, R890). -/
def Obligations.ControlRegistersTakeEffect : Prop :=
  ∀ s : State,
    (pfReach s = true → ∀ v : BitVec 1, exec (.locate v) s = .next { s with mode := { s.mode with locate := v.toNat % 2 } }) ∧
    (pfWrites s = true →
      (∀ w : Fin 8, exec (.clrMax w) s = .next (setWing w { getWing s w with wakeMax := 0, pqHigh := 0 } s) ∧
        (∀ q : BitVec 16, (q.toNat ≤ 10000 → exec (.quantumWrite w q) s = .next (setWing w { getWing s w with quantum := q.toNat } s)) ∧
          (10000 < q.toNat → exec (.quantumWrite w q) s = .next s)) ∧
        (∀ n : Fin 2048, let x := taskWords s (2048 * w.val + n.val);
          exec (.wngDspQuery w (BitVec.ofNat 32 n.val)) s =
            .next (setWing w { getWing s w with query := n.val, taskA := x.1, taskB := x.2.1, taskC := x.2.2 } s)) ∧
        (let p := wingPwr s w;
          exec (.clrMin w) s = .next (setWingPwr w { p with mons := p.mons.map (fun m => { m with minPace := m.pace }) } s)) ∧
        (∀ v : Word, let t := v.toNat % 128;
          (50 ≤ t → t ≤ 100 → exec (.cmpCtrlWrite w v) s = .next (setCmp w { getCmp s w with progShare := v.toNat / 2 ^ 8 % 8, threshPct := t } s)) ∧
          (t < 50 ∨ 100 < t → exec (.cmpCtrlWrite w v) s = .next s))) ∧
      (∀ l : Fin 4, let x := getLink s l;
        x.state ≠ .unused → exec (.retrain l) s = .next (retrainLink l (trainState s l x) (setLink l { x with downTimes := [] } s))) ∧
      (∀ v : Word, let f := v.toNat / 2 ^ 16 % 256;
        let h := v.toNat / 2 ^ 8 % 256;
        (f ≤ 50 → 50 ≤ h → h ≤ 98 → exec (.medFcCtrlWrite v) s = .next { s with med := { s.med with foldStart := f, highWater := h } }) ∧
        (50 < f ∨ h < 50 ∨ 98 < h → exec (.medFcCtrlWrite v) s = .next s)) ∧
      (∀ v : Word, let a := v.toNat / 2 ^ 24 % 256;
        let d := v.toNat / 2 ^ 16 % 256;
        let k := v.toNat / 2 ^ 8 % 256;
        (1 ≤ a → a ≤ 16 → 1 ≤ d → 5 ≤ k → k ≤ 100 →
          exec (.mscPlcCtrlWrite v) s = .next { s with plc := { s.plc with maxActive := a, dwellMin := d, skewPct := k, migrEn := v.getLsbD 0 } }) ∧
        (a = 0 ∨ 16 < a ∨ d = 0 ∨ k < 5 ∨ 100 < k → exec (.mscPlcCtrlWrite v) s = .next s)))

/-- R9 and R10. -/
def Obligations.HalvesOfARegister : Prop :=
  (∀ (s : State) (o : Nat) (l l1 h : BitVec 32), pfReach s = true → o % 8 = 0 → regWide o = some true → arrayRead s o = none →
    let t := { s with regs := { s.regs with lowPending := Tbl.insert s.regs.lowPending o l } };
    let u := { s with regs := { s.regs with lowPending := Tbl.erase t.regs.lowPending o } };
    exec (.lowHalfWrite o l) s = .next t ∧
    (∀ x, exec (.lowHalfWrite o l1) s = .next x → exec (.lowHalfWrite o l) x = .next t) ∧
    exec (.highHalfWrite o h) t = exec (.registerWrite 0 o (h ++ l)) u) ∧
  (∀ (s : State) (o : Nat), pfReach s = true → regWide o = some true →
    let t := { s with regs := { s.regs with highLatch := Tbl.insert s.regs.highLatch o (BitVec.ofNat 32 (regRead s o / 2 ^ 32)) } };
    exec (.lowHalfRead o) s = .next t ∧ highRead t o = regRead s o / 2 ^ 32 % 2 ^ 32 ∧
      ∀ p, p ≠ o → Tbl.find t.regs.highLatch p = Tbl.find s.regs.highLatch p)

/-- Register writes (R899 to R902, R911). -/
def Obligations.RegisterWritesReachTheirRegister : Prop :=
  ((List.range 18).map unitCount).sum = 8062 ∧
  ∀ (s : State) (o : Nat), pfReach s = true → o % 8 = 0 → arrayRead s o = none → 0x100000 ≤ o →
    (∀ v : Word, exec (.registerWrite 0 o v) s = .next (regWrite o v.toNat s)) ∧
    (∀ v : BitVec 32, regWide o = some false → exec (.lowHalfWrite o v) s = .next (regWrite o v.toNat s) ∧ exec (.highHalfWrite o v) s = .next s) ∧
    (∀ v : BitVec 32, regWide o = some true → Tbl.find s.regs.lowPending o = none →
      (lowWoOnly o v.toNat = false → ∀ t, t = { s with regs := { s.regs with lowPending := Tbl.erase s.regs.lowPending o } } →
        exec (.highHalfWrite o v) s = .next (regWrite o (v.toNat * 2 ^ 32 + regRead s o % 2 ^ 32) t)) ∧
      (lowWoOnly o v.toNat = true → exec (.highHalfWrite o v) s = .next s))
end

