-- ==== Sys2Proof/Laws/Frames.lean ====
section
/-! SUPPORT. What the shared operations change: a source that is raised and a record that is logged change the counters, the events, the log,
the flags of tasks that receive events, and the host's queues (NotesOnly); a command that completes also settles what waits on its function
(AnswersOnly). -/

namespace Sys2Proof.Machine

set_option Elab.async false
set_option linter.all false
set_option maxRecDepth 20000

/-- An update of those parts. -/
theorem notes_upd {z0 t : State} {cnt disp evt host log} (h : NotesOnly z0 t) :
    NotesOnly z0 (State.mk t.pending t.cfg t.td17 t.mode t.regs cnt evt log disp t.prog t.siv t.bcn t.chr host t.med t.plc t.rte t.pwr t.kin t.sec
        t.drm t.cmp t.free) := h

/-- A fold of operations that change only those. -/
theorem notes_foldl {α : Type} {z0 : State} (f : State → α → State) (l : List α) (hf : ∀ s x, NotesOnly z0 s → NotesOnly z0 (f s x)) {s : State}
    (h : NotesOnly z0 s) : NotesOnly z0 (l.foldl f s) := by
  induction l generalizing s with
  | nil => exact h
  | cons a l ih => exact ih (hf s a h)

/-- Both ways of a choice. -/
theorem notes_ite {z0 a b : State} {p : Prop} [Decidable p] (ha : NotesOnly z0 a) (hb : NotesOnly z0 b) : NotesOnly z0 (if p then a else b) := by
  split
  · exact ha
  · exact hb

theorem cntAdd_notes {z0 : State} (slot : Nat) (n : Nat) (s : State) (h : NotesOnly z0 s) : NotesOnly z0 (cntAdd slot n s).1 := by
  unfold cntAdd
  try dsimp only
  with_reducible repeat' (first | assumption | (fail_if_no_progress refine notes_upd ?_) | refine notes_ite ?_ ?_ | split)

theorem cntAdd_notes_of_eq {z0 : State} {slot : Nat} {n : Nat} {s : State} {t : State} {x1} (e : cntAdd slot n s = (t, x1)) (h : NotesOnly z0 s) :
    NotesOnly z0 t := by
  have := cntAdd_notes slot n s h
  rw [e] at this
  exact this

theorem tallyAdd_notes {z0 : State} (i : Nat) (s : State) (h : NotesOnly z0 s) : NotesOnly z0 (tallyAdd i s) := by
  unfold tallyAdd
  try dsimp only
  with_reducible repeat' (first | assumption | (fail_if_no_progress refine notes_upd ?_) | (intro _))

theorem setCtrl_notes {z0 : State} (fn : Nat) (c : Ctrl) (s : State) (h : NotesOnly z0 s) : NotesOnly z0 (setCtrl fn c s) := by
  unfold setCtrl
  try dsimp only
  with_reducible repeat' (first | assumption | (fail_if_no_progress refine notes_upd ?_))

theorem sendMsix_notes {z0 : State} (fn : Nat) (v : Nat) (s : State) (h : NotesOnly z0 s) : NotesOnly z0 (sendMsix fn v s) := by
  unfold sendMsix
  try dsimp only
  with_reducible repeat' (first | assumption | apply setCtrl_notes | (fail_if_no_progress refine notes_upd ?_) | refine notes_ite ?_ ?_ | split)

theorem setWing_notes {z0 : State} (w : Nat) (d : WingDisp) (s : State) (h : NotesOnly z0 s) : NotesOnly z0 (setWing w d s) := by
  unfold setWing
  try dsimp only
  with_reducible repeat' (first | assumption | (fail_if_no_progress refine notes_upd ?_))

theorem postTo_notes {z0 : State} (handle : Nat) (mask : BitVec 32) (cls : Nat) (s : State) (h : NotesOnly z0 s) : NotesOnly z0 (postTo handle mask
    cls s).1 := by
  unfold postTo
  try dsimp only
  with_reducible repeat' (first | assumption | apply setWing_notes | (fail_if_no_progress refine notes_upd ?_) | refine notes_ite ?_ ?_ | split)

theorem postTo_notes_of_eq {z0 : State} {handle : Nat} {mask : BitVec 32} {cls : Nat} {s : State} {t : State} {x1} (e : postTo handle mask cls s = (t,
    x1)) (h : NotesOnly z0 s) : NotesOnly z0 t := by
  have := postTo_notes handle mask cls s h
  rw [e] at this
  exact this

theorem setEvtSrc_notes {z0 : State} (i : Nat) (v : Word) (s : State) (h : NotesOnly z0 s) : NotesOnly z0 (setEvtSrc i v s) := by
  unfold setEvtSrc
  try dsimp only
  with_reducible repeat' (first | assumption | (fail_if_no_progress refine notes_upd ?_))

theorem routeFailed_notes {z0 : State} (i : Nat) (s : State) (h : NotesOnly z0 s) : NotesOnly z0 (routeFailed i s) := by
  unfold routeFailed
  try dsimp only
  with_reducible repeat' (first | assumption | apply tallyAdd_notes | (fail_if_no_progress refine notes_upd ?_))

theorem deliver_notes {z0 : State} (i : Nat) (s : State) (h : NotesOnly z0 s) : NotesOnly z0 (deliver i s).1 := by
  unfold deliver
  try dsimp only
  with_reducible repeat' (first | assumption | apply raise_notes | apply routeFailed_notes | apply setEvtSrc_notes |
                                 refine postTo_notes_of_eq (by assumption) ?_ | apply postTo_notes | apply sendMsix_notes | apply tallyAdd_notes |
                                 (fail_if_no_progress refine notes_upd ?_) | refine notes_ite ?_ ?_ | (intro _) | split)

theorem deliver_notes_of_eq {z0 : State} {i : Nat} {s : State} {t : State} {x1} (e : deliver i s = (t, x1)) (h : NotesOnly z0 s) : NotesOnly z0 t :=
    by
  have := deliver_notes i s h
  rw [e] at this
  exact this

theorem raiseOne_notes {z0 : State} (i : Nat) (s : State) (h : NotesOnly z0 s) : NotesOnly z0 (raiseOne i s).1 := by
  unfold raiseOne
  try dsimp only
  with_reducible repeat' (first | assumption | apply raise_notes | refine deliver_notes_of_eq (by assumption) ?_ | apply deliver_notes |
                                 apply setEvtSrc_notes | apply tallyAdd_notes | refine cntAdd_notes_of_eq (by assumption) ?_ | apply cntAdd_notes |
                                 (fail_if_no_progress refine notes_upd ?_) | refine notes_ite ?_ ?_ | split)

theorem raiseOne_notes_of_eq {z0 : State} {i : Nat} {s : State} {t : State} {x1} (e : raiseOne i s = (t, x1)) (h : NotesOnly z0 s) : NotesOnly z0 t :=
    by
  have := raiseOne_notes i s h
  rw [e] at this
  exact this

theorem occOne_notes {z0 : State} (typ : Nat) (src : Nat) (detail : List Byte) (s : State) (h : NotesOnly z0 s) : NotesOnly z0 (occOne typ src detail
    s).1 := by
  unfold occOne
  try dsimp only
  with_reducible repeat' (first | assumption | apply raise_notes | refine cntAdd_notes_of_eq (by assumption) ?_ | apply cntAdd_notes |
                                 (fail_if_no_progress refine notes_upd ?_) | refine notes_ite ?_ ?_ | (intro _) | split)

theorem occOne_notes_of_eq {z0 : State} {typ : Nat} {src : Nat} {detail : List Byte} {s : State} {t : State} {x1} (e : occOne typ src detail s = (t,
    x1)) (h : NotesOnly z0 s) : NotesOnly z0 t := by
  have := occOne_notes typ src detail s h
  rw [e] at this
  exact this

theorem noteOne_notes {z0 : State} (x : Note) (s : State) (h : NotesOnly z0 s) : NotesOnly z0 (noteOne x s).1 := by
  cases x <;> unfold noteOne
  all_goals
    with_reducible repeat' (first | assumption | apply raise_notes | refine occOne_notes_of_eq (by assumption) ?_ | apply occOne_notes |
                                   refine raiseOne_notes_of_eq (by assumption) ?_ | apply raiseOne_notes | split)

theorem noteOne_notes_of_eq {z0 : State} {x : Note} {s t : State} {l : List Note} (e : noteOne x s = (t, l)) (h : NotesOnly z0 s) : NotesOnly z0 t :=
    by
  have := noteOne_notes x s h
  rw [e] at this
  exact this

theorem runNotes_notes {z0 : State} (n : Nat) (l : List Note) (s : State) (h : NotesOnly z0 s) : NotesOnly z0 (runNotes n l s) := by
  induction n generalizing l s with
  | zero => cases l <;> exact h
  | succ n ih => cases l with
    | nil => exact h
    | cons a l => exact ih _ _ (noteOne_notes a s h)

theorem raise_notes {z0 : State} (i : Nat) (s : State) (h : NotesOnly z0 s) : NotesOnly z0 (raise i s) := by
  unfold raise
  try dsimp only
  with_reducible repeat' (first | assumption | apply runNotes_notes)

theorem logOcc_notes {z0 : State} (typ : Nat) (src : Nat) (detail : List Byte) (s : State) (h : NotesOnly z0 s) : NotesOnly z0 (logOcc typ src detail
    s) := by
  unfold logOcc
  try dsimp only
  with_reducible repeat' (first | assumption | apply runNotes_notes)

/-- An update of those parts. -/
theorem answers_upd {z0 t : State} {cnt evt log disp chr host} (h : AnswersOnly z0 t) :
    AnswersOnly z0 (State.mk t.pending t.cfg t.td17 t.mode t.regs cnt evt log disp t.prog t.siv t.bcn chr host t.med t.plc t.rte t.pwr t.kin t.sec
        t.drm t.cmp t.free) := h

/-- A fold of operations that change only those. -/
theorem answers_foldl {α : Type} {z0 : State} (f : State → α → State) (l : List α) (hf : ∀ s x, AnswersOnly z0 s → AnswersOnly z0 (f s x)) {s : State}
    (h : AnswersOnly z0 s) : AnswersOnly z0 (l.foldl f s) := by
  induction l generalizing s with
  | nil => exact h
  | cons a l ih => exact ih (hf s a h)

/-- Both ways of a choice. -/
theorem answers_ite {z0 a b : State} {p : Prop} [Decidable p] (ha : AnswersOnly z0 a) (hb : AnswersOnly z0 b) : AnswersOnly z0 (if p then a else b) :=
    by
  split
  · exact ha
  · exact hb

theorem cntAdd_answers {z0 : State} (slot : Nat) (n : Nat) (s : State) (h : AnswersOnly z0 s) : AnswersOnly z0 (cntAdd slot n s).1 := by
  unfold cntAdd
  try dsimp only
  with_reducible repeat' (first | assumption | (fail_if_no_progress refine answers_upd ?_) | refine answers_ite ?_ ?_ | split)

theorem cntAdd_answers_of_eq {z0 : State} {slot : Nat} {n : Nat} {s : State} {t : State} {x1} (e : cntAdd slot n s = (t, x1)) (h : AnswersOnly z0 s) :
    AnswersOnly z0 t := by
  have := cntAdd_answers slot n s h
  rw [e] at this
  exact this

theorem cntFnAdd_answers {z0 : State} (f : Nat) (j : Nat) (n : Nat) (s : State) (h : AnswersOnly z0 s) : AnswersOnly z0 (cntFnAdd f j n s) := by
  unfold cntFnAdd
  try dsimp only
  with_reducible repeat' (first | assumption | (fail_if_no_progress refine answers_upd ?_) | (intro _))

theorem tallyAdd_answers {z0 : State} (i : Nat) (s : State) (h : AnswersOnly z0 s) : AnswersOnly z0 (tallyAdd i s) := by
  unfold tallyAdd
  try dsimp only
  with_reducible repeat' (first | assumption | (fail_if_no_progress refine answers_upd ?_) | (intro _))

theorem setCtrl_answers {z0 : State} (fn : Nat) (c : Ctrl) (s : State) (h : AnswersOnly z0 s) : AnswersOnly z0 (setCtrl fn c s) := by
  unfold setCtrl
  try dsimp only
  with_reducible repeat' (first | assumption | (fail_if_no_progress refine answers_upd ?_))

theorem sendMsix_answers {z0 : State} (fn : Nat) (v : Nat) (s : State) (h : AnswersOnly z0 s) : AnswersOnly z0 (sendMsix fn v s) := by
  unfold sendMsix
  try dsimp only
  with_reducible repeat' (first | assumption | apply setCtrl_answers | (fail_if_no_progress refine answers_upd ?_) | refine answers_ite ?_ ?_ | split)

theorem setWing_answers {z0 : State} (w : Nat) (d : WingDisp) (s : State) (h : AnswersOnly z0 s) : AnswersOnly z0 (setWing w d s) := by
  unfold setWing
  try dsimp only
  with_reducible repeat' (first | assumption | (fail_if_no_progress refine answers_upd ?_))

theorem postTo_answers {z0 : State} (handle : Nat) (mask : BitVec 32) (cls : Nat) (s : State) (h : AnswersOnly z0 s) : AnswersOnly z0 (postTo handle
    mask cls s).1 := by
  unfold postTo
  try dsimp only
  with_reducible repeat' (first | assumption | apply setWing_answers | (fail_if_no_progress refine answers_upd ?_) | refine answers_ite ?_ ?_ | split)

theorem postTo_answers_of_eq {z0 : State} {handle : Nat} {mask : BitVec 32} {cls : Nat} {s : State} {t : State} {x1} (e : postTo handle mask cls s =
    (t, x1)) (h : AnswersOnly z0 s) : AnswersOnly z0 t := by
  have := postTo_answers handle mask cls s h
  rw [e] at this
  exact this

theorem setEvtSrc_answers {z0 : State} (i : Nat) (v : Word) (s : State) (h : AnswersOnly z0 s) : AnswersOnly z0 (setEvtSrc i v s) := by
  unfold setEvtSrc
  try dsimp only
  with_reducible repeat' (first | assumption | (fail_if_no_progress refine answers_upd ?_))

theorem routeFailed_answers {z0 : State} (i : Nat) (s : State) (h : AnswersOnly z0 s) : AnswersOnly z0 (routeFailed i s) := by
  unfold routeFailed
  try dsimp only
  with_reducible repeat' (first | assumption | apply tallyAdd_answers | (fail_if_no_progress refine answers_upd ?_))

theorem deliver_answers {z0 : State} (i : Nat) (s : State) (h : AnswersOnly z0 s) : AnswersOnly z0 (deliver i s).1 := by
  unfold deliver
  try dsimp only
  with_reducible repeat' (first | assumption | apply raise_answers | apply routeFailed_answers | apply setEvtSrc_answers |
                                 refine postTo_answers_of_eq (by assumption) ?_ | apply postTo_answers | apply sendMsix_answers |
                                 apply tallyAdd_answers | (fail_if_no_progress refine answers_upd ?_) | refine answers_ite ?_ ?_ | (intro _) | split)

theorem deliver_answers_of_eq {z0 : State} {i : Nat} {s : State} {t : State} {x1} (e : deliver i s = (t, x1)) (h : AnswersOnly z0 s) : AnswersOnly z0
    t := by
  have := deliver_answers i s h
  rw [e] at this
  exact this

theorem raiseOne_answers {z0 : State} (i : Nat) (s : State) (h : AnswersOnly z0 s) : AnswersOnly z0 (raiseOne i s).1 := by
  unfold raiseOne
  try dsimp only
  with_reducible repeat' (first | assumption | apply raise_answers | refine deliver_answers_of_eq (by assumption) ?_ | apply deliver_answers |
                                 apply setEvtSrc_answers | apply tallyAdd_answers | refine cntAdd_answers_of_eq (by assumption) ?_ |
                                 apply cntAdd_answers | (fail_if_no_progress refine answers_upd ?_) | refine answers_ite ?_ ?_ | split)

theorem raiseOne_answers_of_eq {z0 : State} {i : Nat} {s : State} {t : State} {x1} (e : raiseOne i s = (t, x1)) (h : AnswersOnly z0 s) : AnswersOnly
    z0 t := by
  have := raiseOne_answers i s h
  rw [e] at this
  exact this

theorem occOne_answers {z0 : State} (typ : Nat) (src : Nat) (detail : List Byte) (s : State) (h : AnswersOnly z0 s) : AnswersOnly z0 (occOne typ src
    detail s).1 := by
  unfold occOne
  try dsimp only
  with_reducible repeat' (first | assumption | apply raise_answers | refine cntAdd_answers_of_eq (by assumption) ?_ | apply cntAdd_answers |
                                 (fail_if_no_progress refine answers_upd ?_) | refine answers_ite ?_ ?_ | (intro _) | split)

theorem occOne_answers_of_eq {z0 : State} {typ : Nat} {src : Nat} {detail : List Byte} {s : State} {t : State} {x1} (e : occOne typ src detail s = (t,
    x1)) (h : AnswersOnly z0 s) : AnswersOnly z0 t := by
  have := occOne_answers typ src detail s h
  rw [e] at this
  exact this

theorem noteOne_answers {z0 : State} (x : Note) (s : State) (h : AnswersOnly z0 s) : AnswersOnly z0 (noteOne x s).1 := by
  cases x <;> unfold noteOne
  all_goals
    with_reducible repeat' (first | assumption | apply raise_answers | refine occOne_answers_of_eq (by assumption) ?_ | apply occOne_answers |
                                   refine raiseOne_answers_of_eq (by assumption) ?_ | apply raiseOne_answers | split)

theorem noteOne_answers_of_eq {z0 : State} {x : Note} {s t : State} {l : List Note} (e : noteOne x s = (t, l)) (h : AnswersOnly z0 s) : AnswersOnly z0
    t := by
  have := noteOne_answers x s h
  rw [e] at this
  exact this

theorem runNotes_answers {z0 : State} (n : Nat) (l : List Note) (s : State) (h : AnswersOnly z0 s) : AnswersOnly z0 (runNotes n l s) := by
  induction n generalizing l s with
  | zero => cases l <;> exact h
  | succ n ih => cases l with
    | nil => exact h
    | cons a l => exact ih _ _ (noteOne_answers a s h)

theorem raise_answers {z0 : State} (i : Nat) (s : State) (h : AnswersOnly z0 s) : AnswersOnly z0 (raise i s) := by
  unfold raise
  try dsimp only
  with_reducible repeat' (first | assumption | apply runNotes_answers)

theorem count_answers {z0 : State} (slot : Nat) (n : Nat) (s : State) (h : AnswersOnly z0 s) : AnswersOnly z0 (count slot n s) := by
  unfold count
  try dsimp only
  with_reducible repeat' (first | assumption | apply raise_answers | refine cntAdd_answers_of_eq (by assumption) ?_ | apply cntAdd_answers |
                                 refine answers_ite ?_ ?_ | split)

theorem cntMod_answers {z0 : State} (i : Nat) (n : Nat) (s : State) (h : AnswersOnly z0 s) : AnswersOnly z0 (cntMod i n s) := by
  unfold cntMod
  try dsimp only
  with_reducible repeat' (first | assumption | apply count_answers)

theorem postCpl_answers {z0 : State} (c : Completion) (s : State) (h : AnswersOnly z0 s) : AnswersOnly z0 (postCpl c s) := by
  unfold postCpl
  try dsimp only
  with_reducible repeat' (first | assumption | apply sendMsix_answers | apply setCtrl_answers | (fail_if_no_progress refine answers_upd ?_) |
                                 refine answers_ite ?_ ?_ | split)

theorem miSend_answers {z0 : State} (b : List Byte) (s : State) (h : AnswersOnly z0 s) : AnswersOnly z0 (miSend b s) := by
  unfold miSend
  try dsimp only
  with_reducible repeat' (first | assumption | (fail_if_no_progress refine answers_upd ?_))

theorem completeCore_answers {z0 : State} (r : CmdRef) (st : Status) (dw0 : Nat) (dw1 : Nat) (data : List Byte) (s : State) (h : AnswersOnly z0 s) :
    AnswersOnly z0 (completeCore r st dw0 dw1 data s) := by
  unfold completeCore
  try dsimp only
  with_reducible repeat' (first | assumption | apply miSend_answers | apply postCpl_answers | apply cntMod_answers | apply cntFnAdd_answers |
                                 (fail_if_no_progress refine answers_upd ?_) | refine answers_ite ?_ ?_ | (intro _) | split)

theorem settleFn_answers {z0 : State} (fn : Nat) (s : State) (h : AnswersOnly z0 s) : AnswersOnly z0 (settleFn fn s) := by
  unfold settleFn
  try dsimp only
  with_reducible repeat' (first | assumption | apply completeCore_answers | (fail_if_no_progress refine answers_upd ?_) | refine answers_ite ?_ ?_ |
                                 split)

theorem settleSq_answers {z0 : State} (fn : Nat) (sq : Nat) (s : State) (h : AnswersOnly z0 s) : AnswersOnly z0 (settleSq fn sq s) := by
  unfold settleSq
  try dsimp only
  with_reducible repeat' (first | assumption | apply completeCore_answers | apply setCtrl_answers | (fail_if_no_progress refine answers_upd ?_) |
                                 refine answers_ite ?_ ?_ | (intro _) | split)

theorem completeCmd_answers {z0 : State} (r : CmdRef) (st : Status) (dw0 : Nat) (dw1 : Nat) (data : List Byte) (s : State) (h : AnswersOnly z0 s) :
    AnswersOnly z0 (completeCmd r st dw0 dw1 data s) := by
  unfold completeCmd
  try dsimp only
  with_reducible repeat' (first | assumption | apply settleSq_answers | apply settleFn_answers | apply completeCore_answers)



end Sys2Proof.Machine
end

