-- ==== Sys2Proof/Laws/Tbl.lean ====
section
/-! SUPPORT. The laws of sparse tables and byte memories: a read after a write, and the canonical form. -/

namespace Sys2Proof.Machine

/-- Every key of a table that rises from `lo` lies above it. -/
theorem risingFrom_lt {α : Type} {lo : Nat} {t : Tbl α} (h : Tbl.risingFrom (some lo) t = true) : ∀ e ∈ t, lo < e.1 := by
  induction t generalizing lo with
  | nil => intro e he; cases he
  | cons a r ih =>
    obtain ⟨j, v⟩ := a
    simp only [Tbl.risingFrom, Bool.and_eq_true, decide_eq_true_eq] at h
    intro e he
    cases he with
    | head => exact h.1
    | tail _ he => exact Nat.lt_trans h.1 (ih h.2 e he)

/-- A key that is below every key of a table is not listed in it. -/
theorem find_none_of_lt {α : Type} {t : Tbl α} {k : Nat} (h : ∀ e ∈ t, k < e.1) : Tbl.find t k = none := by
  induction t with
  | nil => rfl
  | cons a r ih =>
    obtain ⟨j, v⟩ := a
    have hj : k < j := h (j, v) (List.mem_cons_self ..)
    simp only [Tbl.find]
    rw [if_neg (by omega)]
    exact ih (fun e he => h e (List.mem_cons_of_mem _ he))

/-- Rising from a lower bound is rising from any lower one. -/
theorem risingFrom_mono {α : Type} {lo lo' : Nat} {t : Tbl α} (hl : lo' ≤ lo) (h : Tbl.risingFrom (some lo) t = true) :
    Tbl.risingFrom (some lo') t = true := by
  cases t with
  | nil => rfl
  | cons a r =>
    obtain ⟨j, v⟩ := a
    simp only [Tbl.risingFrom, Bool.and_eq_true, decide_eq_true_eq] at h ⊢
    exact ⟨by omega, h.2⟩

/-- The bound that rising starts from: a key lies above it. -/
def Tbl.above (lo : Option Nat) (k : Nat) : Prop := match lo with | none => True | some b => b < k

/-- What rises from a bound at a head that is above a lower key still rises from it. -/
theorem risingFrom_cons {α : Type} {lo : Option Nat} {j : Nat} {v : α} {r : Tbl α} :
    Tbl.risingFrom lo ((j, v) :: r) = true ↔ Tbl.above lo j ∧ Tbl.risingFrom (some j) r = true := by
  cases lo <;> simp [Tbl.risingFrom, Tbl.above]

/-- Inserting keeps keys rising. -/
theorem insert_risingFrom {α : Type} {lo : Option Nat} {t : Tbl α} {k : Nat} {v : α} (hk : Tbl.above lo k)
    (h : Tbl.risingFrom lo t = true) : Tbl.risingFrom lo (Tbl.insert t k v) = true := by
  induction t generalizing lo with
  | nil => exact risingFrom_cons.2 ⟨hk, rfl⟩
  | cons a r ih =>
    obtain ⟨j, w⟩ := a
    rw [risingFrom_cons] at h
    simp only [Tbl.insert]
    split
    · rename_i e
      exact risingFrom_cons.2 ⟨hk, e ▸ h.2⟩
    · split
      · rename_i hlt
        exact risingFrom_cons.2 ⟨h.1, ih (lo := some j) hlt h.2⟩
      · exact risingFrom_cons.2 ⟨hk, risingFrom_cons.2 ⟨by simp only [Tbl.above]; omega, h.2⟩⟩

/-- Removing keeps keys rising. -/
theorem erase_risingFrom {α : Type} {lo : Option Nat} {t : Tbl α} {k : Nat} (h : Tbl.risingFrom lo t = true) :
    Tbl.risingFrom lo (Tbl.erase t k) = true := by
  induction t generalizing lo with
  | nil => exact h
  | cons a r ih =>
    obtain ⟨j, w⟩ := a
    have h' := h
    rw [risingFrom_cons] at h
    simp only [Tbl.erase]
    split
    · cases lo with
      | none => cases r with
        | nil => rfl
        | cons b r => obtain ⟨i, x⟩ := b; exact risingFrom_cons.2 ⟨trivial, (risingFrom_cons.1 h.2).2⟩
      | some b => exact risingFrom_mono (Nat.le_of_lt h.1) h.2
    · split
      · exact risingFrom_cons.2 ⟨h.1, ih (lo := some j) h.2⟩
      · exact h'

/-- A table stays rising when a value is inserted. -/
theorem insert_rising {α : Type} {t : Tbl α} {k : Nat} {v : α} (h : Tbl.rising t = true) : Tbl.rising (Tbl.insert t k v) = true :=
  insert_risingFrom trivial h

/-- A table stays rising when a key is removed. -/
theorem erase_rising {α : Type} {t : Tbl α} {k : Nat} (h : Tbl.rising t = true) : Tbl.rising (Tbl.erase t k) = true :=
  erase_risingFrom h

/-- What is inserted is found, and no other key is touched. -/
theorem find_insert {α : Type} {t : Tbl α} {k i : Nat} {v : α} :
    Tbl.find (Tbl.insert t k v) i = if k = i then some v else Tbl.find t i := by
  induction t with
  | nil => simp [Tbl.insert, Tbl.find]
  | cons a r ih =>
    obtain ⟨j, w⟩ := a
    simp only [Tbl.insert]
    split
    · rename_i e
      subst e
      by_cases hi : j = i <;> simp [Tbl.find, hi]
    · split
      · by_cases hi : j = i
        · have : k ≠ i := by omega
          simp [Tbl.find, hi, this]
        · simp [Tbl.find, hi, ih]
      · by_cases hi : k = i <;> simp [Tbl.find, hi]

/-- What is removed is not found, and no other key is touched. -/
theorem find_erase {α : Type} {t : Tbl α} {k i : Nat} (h : Tbl.rising t = true) :
    Tbl.find (Tbl.erase t k) i = if k = i then none else Tbl.find t i := by
  have go : ∀ (lo : Option Nat) (t : Tbl α), Tbl.risingFrom lo t = true →
      Tbl.find (Tbl.erase t k) i = if k = i then none else Tbl.find t i := by
    intro lo t h
    induction t generalizing lo with
    | nil => simp [Tbl.erase, Tbl.find]
    | cons a r ih =>
      obtain ⟨j, w⟩ := a
      have h' := (risingFrom_cons.1 h).2
      have hlow := risingFrom_lt h'
      simp only [Tbl.erase]
      split
      · rename_i e
        subst e
        by_cases hi : j = i
        · subst hi; simp [find_none_of_lt hlow]
        · simp [Tbl.find, hi]
      · split
        · by_cases hi : j = i
          · have : k ≠ i := by omega
            simp [Tbl.find, hi, this]
          · simp [Tbl.find, hi, ih (some j) h']
        · by_cases hi : k = i
          · subst hi
            have : ¬ j = k := by omega
            simp [Tbl.find, this]
            exact find_none_of_lt (fun e he => by have := hlow e he; omega)
          · simp [Tbl.find, hi]
  exact go none t h

/-- A value that is stored reads back, and no other key is touched. -/
theorem get_put {α : Type} [DecidableEq α] {d : α} {t : Tbl α} {k i : Nat} {v : α} (h : Tbl.rising t = true) :
    Tbl.get d (Tbl.put d t k v) i = if k = i then v else Tbl.get d t i := by
  unfold Tbl.put Tbl.get
  split
  · rename_i e
    rw [find_erase h]
    split <;> simp [e]
  · rw [find_insert]
    split <;> simp

/-- No other key is touched when one is removed. -/
theorem find_erase_ne {α : Type} {t : Tbl α} {k i : Nat} (h : k ≠ i) : Tbl.find (Tbl.erase t k) i = Tbl.find t i := by
  induction t with
  | nil => rfl
  | cons a r ih =>
    obtain ⟨j, w⟩ := a
    simp only [Tbl.erase]
    split
    · rename_i e
      subst e
      simp [Tbl.find, h]
    · split
      · by_cases hi : j = i <;> simp [Tbl.find, hi, ih]
      · rfl

/-- No other key is touched when a value is stored. -/
theorem get_put_ne {α : Type} [DecidableEq α] {d : α} {t : Tbl α} {k i : Nat} {v : α} (h : k ≠ i) :
    Tbl.get d (Tbl.put d t k v) i = Tbl.get d t i := by
  unfold Tbl.put Tbl.get
  split
  · rw [find_erase_ne h]
  · rw [find_insert, if_neg h]

/-- An entry of a table with one key more is that one or was there. -/
theorem mem_insert {α : Type} {t : Tbl α} {k : Nat} {v : α} {e : Nat × α} (h : e ∈ Tbl.insert t k v) : e = (k, v) ∨ e ∈ t := by
  induction t with
  | nil => simpa [Tbl.insert] using h
  | cons a r ih =>
    obtain ⟨j, w⟩ := a
    simp only [Tbl.insert] at h
    split at h
    · cases h with
      | head => exact .inl rfl
      | tail _ h => exact .inr (List.mem_cons_of_mem _ h)
    · split at h
      · cases h with
        | head => exact .inr (List.mem_cons_self ..)
        | tail _ h => exact (ih h).imp id (List.mem_cons_of_mem _)
      · cases h with
        | head => exact .inl rfl
        | tail _ h => exact .inr h

/-- An entry of a table with one key less was there. -/
theorem mem_erase {α : Type} {t : Tbl α} {k : Nat} {e : Nat × α} (h : e ∈ Tbl.erase t k) : e ∈ t := by
  induction t with
  | nil => exact h
  | cons a r ih =>
    obtain ⟨j, w⟩ := a
    simp only [Tbl.erase] at h
    split at h
    · exact List.mem_cons_of_mem _ h
    · split at h
      · cases h with
        | head => exact List.mem_cons_self ..
        | tail _ h => exact List.mem_cons_of_mem _ (ih h)
      · exact h

/-- Storing keeps the canonical form. -/
theorem put_wf {α : Type} [DecidableEq α] {d : α} {t : Tbl α} {k : Nat} {v : α} (h : Tbl.wf d t = true) :
    Tbl.wf d (Tbl.put d t k v) = true := by
  simp only [Tbl.wf, Bool.and_eq_true, List.all_eq_true, decide_eq_true_eq] at h ⊢
  unfold Tbl.put
  split
  · exact ⟨erase_rising h.1, fun e he => h.2 e (mem_erase he)⟩
  · rename_i hv
    refine ⟨insert_rising h.1, fun e he => ?_⟩
    rcases mem_insert he with rfl | he
    · exact hv
    · exact h.2 e he

/-- A canonical memory stays canonical when a byte is written. -/
theorem write_wf {m : Memory} {a : Nat} {b : Byte} (h : Memory.wf m = true) : Memory.wf (Memory.write m a b) = true := put_wf h

/-- A canonical memory stays canonical when bytes are written. -/
theorem writeBytes_wf {m : Memory} {a : Nat} {l : List Byte} (h : Memory.wf m = true) : Memory.wf (Memory.writeBytes m a l) = true := by
  induction l generalizing m a with
  | nil => exact h
  | cons b r ih => exact ih (write_wf h)

/-- A byte that is written reads back, and no other address is touched. -/
theorem read_write {m : Memory} {a i : Nat} {b : Byte} (h : Memory.wf m = true) :
    Memory.read (Memory.write m a b) i = if a = i then b else Memory.read m i := by
  simp only [Memory.wf, Tbl.wf, Bool.and_eq_true] at h
  exact get_put h.1

/-- Bytes that are written read back, and no other address is touched. -/
theorem read_writeBytes {m : Memory} {a i : Nat} {l : List Byte} (h : Memory.wf m = true) :
    Memory.read (Memory.writeBytes m a l) i = if a ≤ i ∧ i < a + l.length then l.getD (i - a) 0 else Memory.read m i := by
  induction l generalizing m a with
  | nil => rw [if_neg (by simp)]; rfl
  | cons b r ih =>
    simp only [Memory.writeBytes, List.length_cons]
    rw [ih (write_wf h), read_write h]
    by_cases h1 : a = i
    · subst h1
      rw [if_neg (by omega), if_pos rfl, if_pos (by omega)]
      simp
    · by_cases h2 : a + 1 ≤ i ∧ i < a + 1 + r.length
      · rw [if_pos h2, if_pos (by omega)]
        obtain ⟨n, rfl⟩ : ∃ n, i = a + 1 + n := ⟨i - (a + 1), by omega⟩
        rw [show a + 1 + n - (a + 1) = n by omega, show a + 1 + n - a = n + 1 by omega]
        rfl
      · rw [if_neg h2, if_neg h1, if_neg (by omega)]

/-- A run of the bytes that are written reads back. -/
theorem readBytes_writeBytes {m : Memory} {a k n : Nat} {l : List Byte} (h : Memory.wf m = true) (hl : k + n ≤ l.length) :
    Memory.readBytes (Memory.writeBytes m a l) (a + k) n = (l.drop k).take n := by
  induction n generalizing k with
  | zero => simp [Memory.readBytes]
  | succ n ih =>
    have hk : k < l.length := by omega
    rw [Memory.readBytes, Nat.add_assoc, ih (by omega), read_writeBytes h, if_pos (by omega), List.drop_eq_getElem_cons hk, List.take_succ_cons,
      Nat.add_sub_cancel_left, List.getD_eq_getElem _ _ hk]

end Sys2Proof.Machine
end

