-- ==== Sys2Proof/Laws/Keeps.lean ====
section
/-! SUPPORT. The means to show that an operation keeps what every step keeps (`Keeps`). -/

namespace Sys2Proof.Machine

/-- A fold of operations that keep it keeps it. -/
theorem keeps_foldl {α : Type} {z0 : State} (f : State → α → State) (l : List α) (hf : ∀ s x, Keeps z0 s → Keeps z0 (f s x)) {s : State} (h : Keeps z0
    s) : Keeps z0 (l.foldl f s) := by
  induction l generalizing s with
  | nil => exact h
  | cons a l ih => exact ih (hf s a h)

/-- An update of anything but the parts concerned. -/
theorem keeps_upd {z0 t : State} {td17 mode regs cnt evt log disp prog siv bcn chr host med plc rte pwr kin sec drm cmp}
    (h : Keeps z0 t) (c : cnt.powerCycles = t.cnt.powerCycles := by rfl) (a : sec.svn = t.sec.svn := by rfl)
    (b : sec.revoked = t.sec.revoked := by rfl) (d : chr.staging = t.chr.staging := by rfl) (e : chr.active = t.chr.active := by rfl)
    (g : chr.commitWait = t.chr.commitWait := by rfl) : Keeps z0 (State.mk t.pending t.cfg td17 mode regs cnt evt log disp prog siv bcn chr host med
        plc rte pwr kin sec drm cmp t.free) := by
  unfold Keeps at *
  dsimp only
  rw [a, b, c, d, e, g]
  exact h

/-- An update that also draws free values. -/
theorem keeps_updf {z0 t : State} {n : Nat} {td17 mode regs cnt evt log disp prog siv bcn chr host med plc rte pwr kin sec drm cmp}
    (f : t.free ≤ n) (h : Keeps z0 t) (c : cnt.powerCycles = t.cnt.powerCycles := by rfl) (a : sec.svn = t.sec.svn := by rfl)
    (b : sec.revoked = t.sec.revoked := by rfl) (d : chr.staging = t.chr.staging := by rfl) (e : chr.active = t.chr.active := by rfl)
    (g : chr.commitWait = t.chr.commitWait := by rfl) : Keeps z0 (State.mk t.pending t.cfg td17 mode regs cnt evt log disp prog siv bcn chr host med
        plc rte pwr kin sec drm cmp n) := by
  unfold Keeps KeepsParts at *
  dsimp only
  rw [a, b, c, d, e, g]
  exact ⟨h.1, h.2.1, h.2.2.1, h.2.2.2.1, h.2.2.2.2.1, Nat.le_trans h.2.2.2.2.2.1 f, h.2.2.2.2.2.2⟩

/-- An update of the parts concerned, each as `Keeps` has it. -/
theorem keeps_of {z0 t u : State} (h : Keeps z0 t) (p : u.pending = t.pending) (q : u.cfg = t.cfg) (a : min 64 t.sec.svn ≤ u.sec.svn)
    (b : Nat.lor t.sec.revoked u.sec.revoked = u.sec.revoked)
    (c : CharterWf z0.chr.staging z0.chr.active z0.chr.commitWait → CharterWf u.chr.staging u.chr.active u.chr.commitWait)
    (f : t.free ≤ u.free) (n : min (2 ^ 24 - 1) t.cnt.powerCycles ≤ u.cnt.powerCycles) : Keeps z0 u := by
  obtain ⟨h1, h2, h3, h4, h5, h6, h7⟩ := h
  refine ⟨p.trans h1, q.trans h2, Nat.le_trans (by omega) a, ?_, c, Nat.le_trans h6 f, Nat.le_trans (by omega) n⟩
  rw [← b, ← h4]
  have e : ∀ x y z : Nat, Nat.lor x (Nat.lor (Nat.lor x y) z) = Nat.lor (Nat.lor x y) z := by
    intro x y z
    show x ||| ((x ||| y) ||| z) = (x ||| y) ||| z
    rw [← Nat.or_assoc, ← Nat.or_assoc, Nat.or_self]
  exact e _ _ _

/-- Bits that are burnt twice. -/
theorem lor_absorb (a b : Nat) : Nat.lor a (Nat.lor a b) = Nat.lor a b := by
  show a ||| (a ||| b) = a ||| b
  rw [← Nat.or_assoc, Nat.or_self]

/-- Bits that are not burnt. -/
theorem lor_refl (n : Nat) : Nat.lor n n = n := Nat.or_self n

/-- What an update of the charter's copies keeps. -/
theorem keeps_chr {z0 t : State} {chr} (c : CharterWf z0.chr.staging z0.chr.active z0.chr.commitWait → CharterWf chr.staging chr.active
    chr.commitWait)
    (h : Keeps z0 t) : Keeps z0 { t with chr := chr } :=
  keeps_of h rfl rfl (Nat.min_le_right _ _) (lor_refl _) c (Nat.le_refl _) (Nat.min_le_right _ _)

/-- Both ways of a choice. -/
theorem keeps_ite {z0 a b : State} {p : Prop} [Decidable p] (ha : Keeps z0 a) (hb : Keeps z0 b) : Keeps z0 (if p then a else b) := by
  split
  · exact ha
  · exact hb

/-- A fold that carries a value beside the state. -/
theorem keeps_foldl_fst {α β : Type} {z0 : State} (f : State × β → α → State × β) (l : List α) (hf : ∀ a x, Keeps z0 a.1 → Keeps z0 (f a x).1) {a :
    State × β} (h : Keeps z0 a.1) : Keeps z0 (l.foldl f a).1 := by
  induction l generalizing a with
  | nil => exact h
  | cons x l ih => exact ih (hf a x h)

end Sys2Proof.Machine
end

