-- ==== Sys2Proof/Laws/KeepsShared.lean ====
section
/-! SUPPORT. What every step keeps (`Keeps`): the operations that all meanings share. For each operation `f` the lemma `f_keeps` says that it keeps it;
for the meaning of a command it says that the command has a next state and keeps it. -/

namespace Sys2Proof.Machine

set_option Elab.async false
set_option linter.all false
set_option maxRecDepth 20000

theorem setCmp_keeps {z0 : State} (w : Nat) (c : CmpWing) (s : State) (h : Keeps z0 s) : Keeps z0 (setCmp w c s) := by
  unfold setCmp
  try dsimp only
  with_reducible repeat' (first | assumption | (fail_if_no_progress refine keeps_upd ?_))

theorem setJob_keeps {z0 : State} (k : Nat) (j : CmpJob) (s : State) (h : Keeps z0 s) : Keeps z0 (setJob k j s) := by
  unfold setJob
  try dsimp only
  with_reducible repeat' (first | assumption | (fail_if_no_progress refine keeps_upd ?_))

theorem setWingPwr_keeps {z0 : State} (w : Nat) (p : WingPwr) (s : State) (h : Keeps z0 s) : Keeps z0 (setWingPwr w p s) := by
  unfold setWingPwr
  try dsimp only
  with_reducible repeat' (first | assumption | (fail_if_no_progress refine keeps_upd ?_))

theorem setDram_keeps {z0 : State} (w : Nat) (c : DramCh) (s : State) (h : Keeps z0 s) : Keeps z0 (setDram w c s) := by
  unfold setDram
  try dsimp only
  with_reducible repeat' (first | assumption | (fail_if_no_progress refine keeps_upd ?_))

theorem writePage_keeps {z0 : State} (w : Nat) (p : Nat) (s : State) (h : Keeps z0 s) : Keeps z0 (writePage w p s) := by
  unfold writePage
  try dsimp only
  with_reducible repeat' (first | assumption | apply setDram_keeps | (fail_if_no_progress refine keeps_upd ?_) | refine keeps_ite ?_ ?_ | split)

theorem touchRun_keeps {z0 : State} (w : Nat) (off : Nat) (n : Nat) (s : State) (h : Keeps z0 s) : Keeps z0 (touchRun w off n s) := by
  unfold touchRun
  try dsimp only
  with_reducible repeat' (first | assumption | apply writePage_keeps | refine keeps_foldl _ _ (fun _ _ _ => ?_) ?_ | (intro _))

theorem clearPages_keeps {z0 : State} (w : Nat) (gone : Nat → Bool) (s : State) (h : Keeps z0 s) : Keeps z0 (clearPages w gone s) := by
  unfold clearPages
  try dsimp only
  with_reducible repeat' (first | assumption | apply setDram_keeps | (fail_if_no_progress refine keeps_upd ?_) | refine keeps_ite ?_ ?_ | (intro _) |
                                 split)

theorem tick_keeps {z0 : State} (s : State) (h : Keeps z0 s) : Keeps z0 (tick s) := by
  unfold tick
  try dsimp only
  with_reducible repeat' (first | assumption | (fail_if_no_progress refine keeps_upd ?_) | refine keeps_ite ?_ ?_ | split)

theorem cntAdd_keeps {z0 : State} (slot : Nat) (n : Nat) (s : State) (h : Keeps z0 s) : Keeps z0 (cntAdd slot n s).1 := by
  unfold cntAdd
  try dsimp only
  with_reducible repeat' (first | assumption | (fail_if_no_progress refine keeps_upd ?_) | refine keeps_ite ?_ ?_ | split)

theorem cntAdd_keeps_of_eq {z0 : State} {slot : Nat} {n : Nat} {s : State} {t : State} {x1} (e : cntAdd slot n s = (t, x1)) (h : Keeps z0 s) : Keeps
    z0 t := by
  have := cntAdd_keeps slot n s h
  rw [e] at this
  exact this

theorem cntFnAdd_keeps {z0 : State} (f : Nat) (j : Nat) (n : Nat) (s : State) (h : Keeps z0 s) : Keeps z0 (cntFnAdd f j n s) := by
  unfold cntFnAdd
  try dsimp only
  with_reducible repeat' (first | assumption | (fail_if_no_progress refine keeps_upd ?_) | (intro _))

theorem tallyAdd_keeps {z0 : State} (i : Nat) (s : State) (h : Keeps z0 s) : Keeps z0 (tallyAdd i s) := by
  unfold tallyAdd
  try dsimp only
  with_reducible repeat' (first | assumption | (fail_if_no_progress refine keeps_upd ?_) | (intro _))

theorem setCtrl_keeps {z0 : State} (fn : Nat) (c : Ctrl) (s : State) (h : Keeps z0 s) : Keeps z0 (setCtrl fn c s) := by
  unfold setCtrl
  try dsimp only
  with_reducible repeat' (first | assumption | (fail_if_no_progress refine keeps_upd ?_))

theorem sendMsix_keeps {z0 : State} (fn : Nat) (v : Nat) (s : State) (h : Keeps z0 s) : Keeps z0 (sendMsix fn v s) := by
  unfold sendMsix
  try dsimp only
  with_reducible repeat' (first | assumption | apply setCtrl_keeps | (fail_if_no_progress refine keeps_upd ?_) | refine keeps_ite ?_ ?_ | split)

theorem setWing_keeps {z0 : State} (w : Nat) (d : WingDisp) (s : State) (h : Keeps z0 s) : Keeps z0 (setWing w d s) := by
  unfold setWing
  try dsimp only
  with_reducible repeat' (first | assumption | (fail_if_no_progress refine keeps_upd ?_))

theorem postTo_keeps {z0 : State} (handle : Nat) (mask : BitVec 32) (cls : Nat) (s : State) (h : Keeps z0 s) : Keeps z0 (postTo handle mask cls s).1
    := by
  unfold postTo
  try dsimp only
  with_reducible repeat' (first | assumption | apply setWing_keeps | (fail_if_no_progress refine keeps_upd ?_) | refine keeps_ite ?_ ?_ | split)

theorem postTo_keeps_of_eq {z0 : State} {handle : Nat} {mask : BitVec 32} {cls : Nat} {s : State} {t : State} {x1} (e : postTo handle mask cls s = (t,
    x1)) (h : Keeps z0 s) : Keeps z0 t := by
  have := postTo_keeps handle mask cls s h
  rw [e] at this
  exact this

theorem setEvtSrc_keeps {z0 : State} (i : Nat) (v : Word) (s : State) (h : Keeps z0 s) : Keeps z0 (setEvtSrc i v s) := by
  unfold setEvtSrc
  try dsimp only
  with_reducible repeat' (first | assumption | (fail_if_no_progress refine keeps_upd ?_))

theorem routeFailed_keeps {z0 : State} (i : Nat) (s : State) (h : Keeps z0 s) : Keeps z0 (routeFailed i s) := by
  unfold routeFailed
  try dsimp only
  with_reducible repeat' (first | assumption | apply tallyAdd_keeps | (fail_if_no_progress refine keeps_upd ?_))

theorem deliver_keeps {z0 : State} (i : Nat) (s : State) (h : Keeps z0 s) : Keeps z0 (deliver i s).1 := by
  unfold deliver
  try dsimp only
  with_reducible repeat' (first | assumption | apply raise_keeps | apply routeFailed_keeps | apply setEvtSrc_keeps |
                                 refine postTo_keeps_of_eq (by assumption) ?_ | apply postTo_keeps | apply sendMsix_keeps | apply tallyAdd_keeps |
                                 (fail_if_no_progress refine keeps_upd ?_) | refine keeps_ite ?_ ?_ | (intro _) | split)

theorem deliver_keeps_of_eq {z0 : State} {i : Nat} {s : State} {t : State} {x1} (e : deliver i s = (t, x1)) (h : Keeps z0 s) : Keeps z0 t := by
  have := deliver_keeps i s h
  rw [e] at this
  exact this

theorem raiseOne_keeps {z0 : State} (i : Nat) (s : State) (h : Keeps z0 s) : Keeps z0 (raiseOne i s).1 := by
  unfold raiseOne
  try dsimp only
  with_reducible repeat' (first | assumption | apply raise_keeps | refine deliver_keeps_of_eq (by assumption) ?_ | apply deliver_keeps |
                                 apply setEvtSrc_keeps | apply tallyAdd_keeps | refine cntAdd_keeps_of_eq (by assumption) ?_ | apply cntAdd_keeps |
                                 (fail_if_no_progress refine keeps_upd ?_) | refine keeps_ite ?_ ?_ | split)

theorem raiseOne_keeps_of_eq {z0 : State} {i : Nat} {s : State} {t : State} {x1} (e : raiseOne i s = (t, x1)) (h : Keeps z0 s) : Keeps z0 t := by
  have := raiseOne_keeps i s h
  rw [e] at this
  exact this

theorem occOne_keeps {z0 : State} (typ : Nat) (src : Nat) (detail : List Byte) (s : State) (h : Keeps z0 s) : Keeps z0 (occOne typ src detail s).1 :=
    by
  unfold occOne
  try dsimp only
  with_reducible repeat' (first | assumption | apply raise_keeps | refine cntAdd_keeps_of_eq (by assumption) ?_ | apply cntAdd_keeps |
                                 (fail_if_no_progress refine keeps_upd ?_) | refine keeps_ite ?_ ?_ | (intro _) | split)

theorem occOne_keeps_of_eq {z0 : State} {typ : Nat} {src : Nat} {detail : List Byte} {s : State} {t : State} {x1} (e : occOne typ src detail s = (t,
    x1)) (h : Keeps z0 s) : Keeps z0 t := by
  have := occOne_keeps typ src detail s h
  rw [e] at this
  exact this

theorem noteOne_keeps {z0 : State} (x : Note) (s : State) (h : Keeps z0 s) : Keeps z0 (noteOne x s).1 := by
  cases x <;> unfold noteOne
  all_goals
    with_reducible repeat' (first | assumption | apply raise_keeps | refine occOne_keeps_of_eq (by assumption) ?_ | apply occOne_keeps |
                                   refine raiseOne_keeps_of_eq (by assumption) ?_ | apply raiseOne_keeps | split)

theorem noteOne_keeps_of_eq {z0 : State} {x : Note} {s t : State} {l : List Note} (e : noteOne x s = (t, l)) (h : Keeps z0 s) : Keeps z0 t := by
  have := noteOne_keeps x s h
  rw [e] at this
  exact this

theorem runNotes_keeps {z0 : State} (n : Nat) (l : List Note) (s : State) (h : Keeps z0 s) : Keeps z0 (runNotes n l s) := by
  induction n generalizing l s with
  | zero => cases l <;> exact h
  | succ n ih => cases l with
    | nil => exact h
    | cons a l => exact ih _ _ (noteOne_keeps a s h)

theorem raise_keeps {z0 : State} (i : Nat) (s : State) (h : Keeps z0 s) : Keeps z0 (raise i s) := by
  unfold raise
  try dsimp only
  with_reducible repeat' (first | assumption | apply runNotes_keeps)

theorem logOcc_keeps {z0 : State} (typ : Nat) (src : Nat) (detail : List Byte) (s : State) (h : Keeps z0 s) : Keeps z0 (logOcc typ src detail s) := by
  unfold logOcc
  try dsimp only
  with_reducible repeat' (first | assumption | apply runNotes_keeps)

theorem count_keeps {z0 : State} (slot : Nat) (n : Nat) (s : State) (h : Keeps z0 s) : Keeps z0 (count slot n s) := by
  unfold count
  try dsimp only
  with_reducible repeat' (first | assumption | apply raise_keeps | refine cntAdd_keeps_of_eq (by assumption) ?_ | apply cntAdd_keeps |
                                 refine keeps_ite ?_ ?_ | split)

theorem cntMod_keeps {z0 : State} (i : Nat) (n : Nat) (s : State) (h : Keeps z0 s) : Keeps z0 (cntMod i n s) := by
  unfold cntMod
  try dsimp only
  with_reducible repeat' (first | assumption | apply count_keeps)

theorem cntCore_keeps {z0 : State} (k : Nat) (j : Nat) (n : Nat) (s : State) (h : Keeps z0 s) : Keeps z0 (cntCore k j n s) := by
  unfold cntCore
  try dsimp only
  with_reducible repeat' (first | assumption | apply count_keeps)

theorem noteRetired_keeps {z0 : State} (k : Nat) (handle : Nat) (pc : Nat) (s : State) (h : Keeps z0 s) : Keeps z0 (noteRetired k handle pc s) := by
  unfold noteRetired
  try dsimp only
  with_reducible repeat' (first | assumption | (fail_if_no_progress refine keeps_upd ?_) | refine keeps_ite ?_ ?_ | (intro _) | split)

theorem switchSamples_keeps {z0 : State} (k : Nat) (s : State) (h : Keeps z0 s) : Keeps z0 (switchSamples k s) := by
  unfold switchSamples
  try dsimp only
  with_reducible repeat' (first | assumption | refine keeps_foldl _ _ (fun _ _ _ => ?_) ?_ | (fail_if_no_progress refine keeps_upd ?_) |
                                 refine keeps_ite ?_ ?_ | (intro _) | split)

theorem putSample_keeps {z0 : State} (k : Nat) (j : Nat) (handle : Nat) (pc : Nat) (s : State) (h : Keeps z0 s) : Keeps z0 (putSample k j handle pc s)
    := by
  unfold putSample
  try dsimp only
  with_reducible repeat' (first | assumption | apply raise_keeps | (fail_if_no_progress refine keeps_upd ?_) | refine keeps_ite ?_ ?_ | split)

theorem cntCoreAt_keeps {z0 : State} (k : Nat) (j : Nat) (n : Nat) (handle : Nat) (pc : Nat) (s : State) (h : Keeps z0 s) : Keeps z0 (cntCoreAt k j n
    handle pc s) := by
  unfold cntCoreAt
  try dsimp only
  with_reducible repeat' (first | assumption | apply putSample_keeps | apply cntCore_keeps | refine keeps_ite ?_ ?_ | (intro _) | split)

theorem cntPort_keeps {z0 : State} (p : Nat) (j : Nat) (n : Nat) (s : State) (h : Keeps z0 s) : Keeps z0 (cntPort p j n s) := by
  unfold cntPort
  try dsimp only
  with_reducible repeat' (first | assumption | apply count_keeps)

theorem setTask_keeps {z0 : State} (key : Nat) (t : Task) (s : State) (h : Keeps z0 s) : Keeps z0 (setTask key t s) := by
  unfold setTask
  try dsimp only
  with_reducible repeat' (first | assumption | (fail_if_no_progress refine keeps_upd ?_))

theorem updTask_keeps {z0 : State} (key : Nat) (f : Task → Task) (s : State) (h : Keeps z0 s) : Keeps z0 (updTask key f s) := by
  unfold updTask
  try dsimp only
  with_reducible repeat' (first | assumption | apply setTask_keeps | split)

theorem setCore_keeps {z0 : State} (k : Nat) (c : Core) (s : State) (h : Keeps z0 s) : Keeps z0 (setCore k c s) := by
  unfold setCore
  try dsimp only
  with_reducible repeat' (first | assumption | (fail_if_no_progress refine keeps_upd ?_))

theorem setReady_keeps {z0 : State} (w : Nat) (prio : Nat) (l : List Nat) (s : State) (h : Keeps z0 s) : Keeps z0 (setReady w prio l s) := by
  unfold setReady
  try dsimp only
  with_reducible repeat' (first | assumption | apply setWing_keeps | (fail_if_no_progress refine keeps_upd ?_))

theorem unready_keeps {z0 : State} (w : Nat) (key : Nat) (s : State) (h : Keeps z0 s) : Keeps z0 (unready w key s) := by
  unfold unready
  try dsimp only
  with_reducible repeat' (first | assumption | apply setWing_keeps | (fail_if_no_progress refine keeps_upd ?_) | (intro _))

theorem stage_keeps {z0 : State} (k : Nat) (key : Nat) (s : State) (h : Keeps z0 s) : Keeps z0 (stage k key s) := by
  unfold stage
  try dsimp only
  with_reducible repeat' (first | assumption | apply setCore_keeps | apply updTask_keeps | (fail_if_no_progress refine keeps_upd ?_) | (intro _) |
                                 split)

theorem refill_keeps {z0 : State} (w : Nat) (i : Nat) (s : State) (h : Keeps z0 s) : Keeps z0 (refill w i s) := by
  unfold refill
  try dsimp only
  with_reducible repeat' (first | assumption | apply stage_keeps | split)

theorem place_keeps {z0 : State} (w : Nat) (key : Nat) (s : State) (h : Keeps z0 s) : Keeps z0 (place w key s) := by
  unfold place
  try dsimp only
  with_reducible repeat' (first | assumption | apply stage_keeps | refine keeps_foldl _ _ (fun _ _ _ => ?_) ?_ | refine keeps_ite ?_ ?_ | (intro _) |
                                 split)

theorem makeReady_keeps {z0 : State} (key : Nat) (head : Bool) (s : State) (h : Keeps z0 s) : Keeps z0 (makeReady key head s) := by
  unfold makeReady
  try dsimp only
  with_reducible repeat' (first | assumption | apply place_keeps | apply setReady_keeps | apply setTask_keeps |
                                 (fail_if_no_progress refine keeps_upd ?_) | refine keeps_ite ?_ ?_ | split)

theorem switchOut_keeps {z0 : State} (k : Nat) (s : State) (h : Keeps z0 s) : Keeps z0 (switchOut k s) := by
  unfold switchOut
  try dsimp only
  with_reducible repeat' (first | assumption | apply setCore_keeps | apply setTask_keeps | apply switchSamples_keeps | apply cntFnAdd_keeps |
                                 (fail_if_no_progress refine keeps_upd ?_) | (intro _) | split)

theorem switchIn_keeps {z0 : State} (k : Nat) (s : State) (h : Keeps z0 s) : Keeps z0 (switchIn k s) := by
  unfold switchIn
  try dsimp only
  with_reducible repeat' (first | assumption | apply refill_keeps | apply unready_keeps | apply setCore_keeps | apply setTask_keeps |
                                 apply cntCoreAt_keeps | apply setWing_keeps | (fail_if_no_progress refine keeps_upd ?_) | refine keeps_ite ?_ ?_ |
                                 (intro _) | split)

theorem runNext_keeps {z0 : State} (k : Nat) (s : State) (h : Keeps z0 s) : Keeps z0 (runNext k s) := by
  unfold runNext
  try dsimp only
  with_reducible repeat' (first | assumption | apply switchIn_keeps | apply refill_keeps | refine keeps_ite ?_ ?_ | split)

theorem dropPages_keeps {z0 : State} (key : Nat) (s : State) (h : Keeps z0 s) : Keeps z0 (dropPages key s) := by
  unfold dropPages
  try dsimp only
  with_reducible repeat' (first | assumption | (fail_if_no_progress refine keeps_upd ?_) | refine keeps_ite ?_ ?_ | (intro _) | split)

theorem endTask_keeps {z0 : State} (key : Nat) (s : State) (h : Keeps z0 s) : Keeps z0 (endTask key s) := by
  unfold endTask
  try dsimp only
  with_reducible repeat' (first | assumption | apply dropPages_keeps | apply runNext_keeps | apply switchOut_keeps | apply refill_keeps |
                                 apply unready_keeps | apply setCore_keeps | apply setWing_keeps | (fail_if_no_progress refine keeps_upd ?_) |
                                 refine keeps_ite ?_ ?_ | split)

theorem createAt_keeps {z0 : State} (key : Nat) (t : Task) (s : State) (h : Keeps z0 s) : Keeps z0 (createAt key t s) := by
  unfold createAt
  try dsimp only
  with_reducible repeat' (first | assumption | apply makeReady_keeps | apply setTask_keeps | apply setWing_keeps |
                                 (fail_if_no_progress refine keeps_upd ?_))

theorem applyFlags_keeps {z0 : State} (key : Nat) (mask : BitVec 32) (s : State) (h : Keeps z0 s) : Keeps z0 (applyFlags key mask s) := by
  unfold applyFlags
  try dsimp only
  with_reducible repeat' (first | assumption | apply makeReady_keeps | apply setTask_keeps | (fail_if_no_progress refine keeps_upd ?_) |
                                 refine keeps_ite ?_ ?_ | split)

theorem blockTask_keeps {z0 : State} (key : Nat) (st : TaskState) (f : Task → Task) (s : State) (h : Keeps z0 s) : Keeps z0 (blockTask key st f s) :=
    by
  unfold blockTask
  try dsimp only
  with_reducible repeat' (first | assumption | apply runNext_keeps | apply switchOut_keeps | apply updTask_keeps |
                                 (fail_if_no_progress refine keeps_upd ?_) | (intro _) | split)

theorem yieldCore_keeps {z0 : State} (k : Nat) (head : Bool) (s : State) (h : Keeps z0 s) : Keeps z0 (yieldCore k head s) := by
  unfold yieldCore
  try dsimp only
  with_reducible repeat' (first | assumption | apply switchIn_keeps | apply switchOut_keeps | apply makeReady_keeps | refine keeps_ite ?_ ?_ | split)

theorem nextLoadedAt_keeps {z0 : State} (k : Nat) (s : State) (h : Keeps z0 s) : Keeps z0 (nextLoadedAt k s) := by
  unfold nextLoadedAt
  try dsimp only
  with_reducible repeat' (first | assumption | apply yieldCore_keeps | apply switchIn_keeps | apply refill_keeps | apply setCore_keeps |
                                 (fail_if_no_progress refine keeps_upd ?_) | refine keeps_ite ?_ ?_ | split)

theorem postCpl_keeps {z0 : State} (c : Completion) (s : State) (h : Keeps z0 s) : Keeps z0 (postCpl c s) := by
  unfold postCpl
  try dsimp only
  with_reducible repeat' (first | assumption | apply sendMsix_keeps | apply setCtrl_keeps | (fail_if_no_progress refine keeps_upd ?_) |
                                 refine keeps_ite ?_ ?_ | split)

theorem postDeferred_keeps {z0 : State} (mine : Completion → Bool) (s : State) (h : Keeps z0 s) : Keeps z0 (postDeferred mine s) := by
  unfold postDeferred
  try dsimp only
  with_reducible repeat' (first | assumption | apply postCpl_keeps | refine keeps_foldl _ _ (fun _ _ _ => ?_) ?_ |
                                 (fail_if_no_progress refine keeps_upd ?_) | (intro _))

theorem updCmd_keeps {z0 : State} (r : CmdRef) (f : OutCmd → OutCmd) (s : State) (h : Keeps z0 s) : Keeps z0 (updCmd r f s) := by
  unfold updCmd
  try dsimp only
  with_reducible repeat' (first | assumption | (fail_if_no_progress refine keeps_upd ?_) | refine keeps_ite ?_ ?_ | (intro _) | split)

theorem miSend_keeps {z0 : State} (b : List Byte) (s : State) (h : Keeps z0 s) : Keeps z0 (miSend b s) := by
  unfold miSend
  try dsimp only
  with_reducible repeat' (first | assumption | (fail_if_no_progress refine keeps_upd ?_))

theorem completeCore_keeps {z0 : State} (r : CmdRef) (st : Status) (dw0 : Nat) (dw1 : Nat) (data : List Byte) (s : State) (h : Keeps z0 s) : Keeps z0
    (completeCore r st dw0 dw1 data s) := by
  unfold completeCore
  try dsimp only
  with_reducible repeat' (first | assumption | apply miSend_keeps | apply postCpl_keeps | apply cntMod_keeps | apply cntFnAdd_keeps |
                                 (fail_if_no_progress refine keeps_upd ?_) | refine keeps_ite ?_ ?_ | (intro _) | split)

theorem settleFn_keeps {z0 : State} (fn : Nat) (s : State) (h : Keeps z0 s) : Keeps z0 (settleFn fn s) := by
  unfold settleFn
  try dsimp only
  with_reducible repeat' (first | assumption | apply completeCore_keeps | (fail_if_no_progress refine keeps_upd ?_) | refine keeps_ite ?_ ?_ | split)

theorem settleSq_keeps {z0 : State} (fn : Nat) (sq : Nat) (s : State) (h : Keeps z0 s) : Keeps z0 (settleSq fn sq s) := by
  unfold settleSq
  try dsimp only
  with_reducible repeat' (first | assumption | apply completeCore_keeps | apply setCtrl_keeps | (fail_if_no_progress refine keeps_upd ?_) |
                                 refine keeps_ite ?_ ?_ | (intro _) | split)

theorem completeCmd_keeps {z0 : State} (r : CmdRef) (st : Status) (dw0 : Nat) (dw1 : Nat) (data : List Byte) (s : State) (h : Keeps z0 s) : Keeps z0
    (completeCmd r st dw0 dw1 data s) := by
  unfold completeCmd
  try dsimp only
  with_reducible repeat' (first | assumption | apply settleSq_keeps | apply settleFn_keeps | apply completeCore_keeps)

theorem deliverEvents_keeps {z0 : State} (fn : Nat) (x : Nat)  (s : State) (h : Keeps z0 s) : Keeps z0 (deliverEvents fn x  s) := by
  induction x generalizing s  with
  | zero =>
    unfold deliverEvents
    with_reducible repeat' (first | assumption | apply completeCmd_keeps | apply setCtrl_keeps | (fail_if_no_progress refine keeps_upd ?_) | (intro _)
                                   | split)
  | succ n ih =>
    unfold deliverEvents
    try dsimp only
    with_reducible repeat' (first | assumption | apply ih | apply completeCmd_keeps | apply setCtrl_keeps | (fail_if_no_progress refine keeps_upd ?_)
                                   | (intro _) | split)

theorem asyncEventFn_keeps {z0 : State} (fn : Nat) (code : Nat) (s : State) (h : Keeps z0 s) : Keeps z0 (asyncEventFn fn code s) := by
  unfold asyncEventFn
  try dsimp only
  with_reducible repeat' (first | assumption | apply deliverEvents_keeps | apply setCtrl_keeps | (fail_if_no_progress refine keeps_upd ?_) |
                                 refine keeps_ite ?_ ?_ | split)

theorem asyncEventAll_keeps {z0 : State} (bit : Nat) (code : Nat) (s : State) (h : Keeps z0 s) : Keeps z0 (asyncEventAll bit code s) := by
  unfold asyncEventAll
  try dsimp only
  with_reducible repeat' (first | assumption | apply asyncEventFn_keeps | refine keeps_foldl _ _ (fun _ _ _ => ?_) ?_ | refine keeps_ite ?_ ?_ |
                                 (intro _) | split)

theorem asyncVendor_keeps {z0 : State} (info : Nat) (s : State) (h : Keeps z0 s) : Keeps z0 (asyncVendor info s) := by
  unfold asyncVendor
  try dsimp only
  with_reducible repeat' (first | assumption | apply completeCmd_keeps | apply setCtrl_keeps | (fail_if_no_progress refine keeps_upd ?_) |
                                 refine keeps_ite ?_ ?_ | split)

theorem noticeNs_keeps {z0 : State} (fn : Nat) (nsid : Nat) (s : State) (h : Keeps z0 s) : Keeps z0 (noticeNs fn nsid s) := by
  unfold noticeNs
  try dsimp only
  with_reducible repeat' (first | assumption | apply asyncEventFn_keeps | apply setCtrl_keeps | (fail_if_no_progress refine keeps_upd ?_) |
                                 refine keeps_ite ?_ ?_ | split)

theorem noticeFirmware_keeps {z0 : State} (s : State) (h : Keeps z0 s) : Keeps z0 (noticeFirmware s) := by
  unfold noticeFirmware
  try dsimp only
  with_reducible repeat' (first | assumption | apply asyncEventAll_keeps)

theorem noticeAna_keeps {z0 : State} (s : State) (h : Keeps z0 s) : Keeps z0 (noticeAna s) := by
  unfold noticeAna
  try dsimp only
  with_reducible repeat' (first | assumption | apply asyncEventAll_keeps)

theorem setCritWarn_keeps {z0 : State} (bit : Nat) (v : Bool) (s : State) (h : Keeps z0 s) : Keeps z0 (setCritWarn bit v s) := by
  unfold setCritWarn
  try dsimp only
  with_reducible repeat' (first | assumption | apply asyncEventAll_keeps | (fail_if_no_progress refine keeps_upd ?_) | refine keeps_ite ?_ ?_ | split)

theorem denied_keeps {z0 : State} (f : Nat) (kind : Nat) (s : State) (h : Keeps z0 s) : Keeps z0 (denied f kind s) := by
  unfold denied
  try dsimp only
  with_reducible repeat' (first | assumption | apply raise_keeps | (fail_if_no_progress refine keeps_upd ?_) | refine keeps_ite ?_ ?_ | split)

theorem dropImage_keeps {z0 : State} (s : State) (h : Keeps z0 s) : Keeps z0 (dropImage s) := by
  unfold dropImage
  try dsimp only
  with_reducible repeat' (first | assumption | (fail_if_no_progress refine keeps_upd ?_) | split)

theorem roleEnds_keeps {z0 : State} (s : State) (h : Keeps z0 s) : Keeps z0 (roleEnds s) := by
  unfold roleEnds
  try dsimp only
  with_reducible repeat' (first | assumption | apply dropImage_keeps | (fail_if_no_progress refine keeps_upd ?_))

theorem slmBadLine_keeps {z0 : State} (off : Nat) (s : State) (x : List Byte) (a : Nat) (h : Keeps z0 s) : Keeps z0 (slmBadLine off s x a).1 := by
  unfold slmBadLine
  try dsimp only
  with_reducible repeat' (first | assumption | apply setDram_keeps | (fail_if_no_progress refine keeps_upd ?_) | refine keeps_ite ?_ ?_ | split)

theorem slmBadLine_keeps_of_eq {z0 : State} {off : Nat} {s : State} {x : List Byte} {a : Nat} {t : State} {x1} (e : slmBadLine off s x a = (t, x1)) (h
    : Keeps z0 s) : Keeps z0 t := by
  have := slmBadLine_keeps off s x a h
  rw [e] at this
  exact this

theorem slmWrite_keeps {z0 : State} (off : Nat) (bs : List Byte) (s : State) (h : Keeps z0 s) : Keeps z0 (slmWrite off bs s) := by
  unfold slmWrite
  try dsimp only
  with_reducible repeat' (first | assumption | refine slmBadLine_keeps_of_eq (by assumption) ?_ | apply slmBadLine_keeps | apply writePage_keeps |
                                 refine keeps_foldl _ _ (fun _ _ _ => ?_) ?_ | (fail_if_no_progress refine keeps_upd ?_) |
                                 refine keeps_foldl_fst _ _ (fun _ _ _ => ?_) ?_ | (intro _) | split)

theorem stagingWrite_keeps {z0 : State} (pool : Nat) (off : Nat) (b : List Byte) (s : State) (h : Keeps z0 s) : Keeps z0 (stagingWrite pool off b s)
    := by
  unfold stagingWrite
  try dsimp only
  with_reducible repeat' (first | assumption | apply touchRun_keeps | (fail_if_no_progress refine keeps_upd ?_))

theorem writeSpace_keeps {z0 : State} (key : Nat) (a : Nat) (bs : List Byte) (s : State) (h : Keeps z0 s) : Keeps z0 (writeSpace key a bs s) := by
  unfold writeSpace
  try dsimp only
  with_reducible repeat' (first | assumption | apply stagingWrite_keeps | apply slmWrite_keeps | apply updTask_keeps |
                                 (fail_if_no_progress refine keeps_upd ?_) | (intro _) | split)

end Sys2Proof.Machine
end

