-- ==== Sys2Proof/Laws/KeepsEngines.lean ====
section
/-! SUPPORT. What every step keeps (`Keeps`): seal, compression and Beacon operations. For each operation `f` the lemma `f_keeps` says that it keeps it;
for the meaning of a command it says that the command has a next state and keeps it. -/

namespace Sys2Proof.Machine

set_option Elab.async false
set_option linter.all false
set_option maxRecDepth 20000

theorem ctxWrite_keeps {z0 : State} (ctx : Nat) (a : Nat) (bs : List Byte) (s : State) (h : Keeps z0 s) : Keeps z0 (ctxWrite ctx a bs s) := by
  unfold ctxWrite
  try dsimp only
  with_reducible repeat' (first | assumption | apply writeSpace_keeps | apply slmWrite_keeps | split)

theorem slotLoad_keeps {z0 : State} (n : Nat) (key : List Byte) (kind : KeyKind) (fixed : Nat) (label : List Byte) (gen : Nat) (s : State) (h : Keeps
    z0 s) : Keeps z0 (slotLoad n key kind fixed label gen s) := by
  unfold slotLoad
  try dsimp only
  with_reducible repeat' (first | assumption | apply raise_keeps | (fail_if_no_progress refine keeps_upd ?_) |
                                 (fail_if_no_progress refine keeps_updf (Nat.le_add_right _ _) ?_) | refine keeps_ite ?_ ?_ | split)

theorem keyDone_keeps {z0 : State} (code : Nat) (s : State) (h : Keeps z0 s) : Keeps z0 (keyDone code s) := by
  unfold keyDone
  try dsimp only
  with_reducible repeat' (first | assumption | (fail_if_no_progress refine keeps_upd ?_))

theorem keyDerive_keeps {z0 : State} (n : Nat) (fixed : Nat) (s : State) (h : Keeps z0 s) : Keeps z0 (keyDerive n fixed s) := by
  unfold keyDerive
  try dsimp only
  with_reducible repeat' (first | assumption | apply keyDone_keeps | apply slotLoad_keeps | refine keeps_ite ?_ ?_ | split)

theorem keyUnwrapCmd_keeps {z0 : State} (n : Nat) (kek : Nat) (fixed : Nat) (s : State) (h : Keeps z0 s) : Keeps z0 (keyUnwrapCmd n kek fixed s) := by
  unfold keyUnwrapCmd
  try dsimp only
  with_reducible repeat' (first | assumption | apply keyDone_keeps | apply slotLoad_keeps | refine keeps_ite ?_ ?_ | split)

theorem keyClear_keeps {z0 : State} (n : Nat) (fixed : Nat) (s : State) (h : Keeps z0 s) : Keeps z0 (keyClear n fixed s) := by
  unfold keyClear
  try dsimp only
  with_reducible repeat' (first | assumption | apply keyDone_keeps | apply slotLoad_keeps | split)

theorem keyUnload_keeps {z0 : State} (n : Nat) (s : State) (h : Keeps z0 s) : Keeps z0 (keyUnload n s) := by
  unfold keyUnload
  try dsimp only
  with_reducible repeat' (first | assumption | apply keyDone_keeps | apply raise_keeps | (fail_if_no_progress refine keeps_upd ?_) |
                                 (fail_if_no_progress refine keeps_updf (Nat.le_add_right _ _) ?_) | refine keeps_ite ?_ ?_ | split)

theorem setSeal_keeps {z0 : State} (e : SealState) (s : State) (h : Keeps z0 s) : Keeps z0 (setSeal e s) := by
  unfold setSeal
  try dsimp only
  with_reducible repeat' (first | assumption | (fail_if_no_progress refine keeps_upd ?_))

theorem sealCount_keeps {z0 : State} (i : Nat) (s : State) (h : Keeps z0 s) : Keeps z0 (sealCount i s) := by
  unfold sealCount
  try dsimp only
  with_reducible repeat' (first | assumption | apply setSeal_keeps | (fail_if_no_progress refine keeps_upd ?_) | (intro _))

theorem zeroOut_keeps {z0 : State} (ctx : Nat) (o : SealOp) (s : State) (h : Keeps z0 s) : Keeps z0 (zeroOut ctx o s) := by
  unfold zeroOut
  try dsimp only
  with_reducible repeat' (first | assumption | apply ctxWrite_keeps)

theorem sealAbortOp_keeps {z0 : State} (s : State) (h : Keeps z0 s) : Keeps z0 (sealAbortOp s) := by
  unfold sealAbortOp
  try dsimp only
  with_reducible repeat' (first | assumption | apply zeroOut_keeps | apply setSeal_keeps | (fail_if_no_progress refine keeps_upd ?_) |
                                 refine keeps_ite ?_ ?_ | split)

theorem sealWipe_keeps {z0 : State} (s : State) (h : Keeps z0 s) : Keeps z0 (sealWipe s) := by
  unfold sealWipe
  try dsimp only
  with_reducible repeat' (first | assumption | apply setSeal_keeps | (fail_if_no_progress refine keeps_upd ?_) | split)

theorem sealRelease_keeps {z0 : State} (s : State) (h : Keeps z0 s) : Keeps z0 (sealRelease s) := by
  unfold sealRelease
  try dsimp only
  with_reducible repeat' (first | assumption | apply sealWipe_keeps | apply sealAbortOp_keeps)

theorem sealBreak_keeps {z0 : State} (s : State) (h : Keeps z0 s) : Keeps z0 (sealBreak s) := by
  unfold sealBreak
  try dsimp only
  with_reducible repeat' (first | assumption | apply sealRelease_keeps | apply sealCount_keeps | apply setSeal_keeps | apply logOcc_keeps |
                                 apply raise_keeps | (fail_if_no_progress refine keeps_upd ?_) | split)

theorem sealAcquire_keeps {z0 : State} (ctx : Nat) (s : State) (h : Keeps z0 s) : Keeps z0 (sealAcquire ctx s) := by
  unfold sealAcquire
  try dsimp only
  with_reducible repeat' (first | assumption | apply sealCount_keeps | apply setSeal_keeps | (fail_if_no_progress refine keeps_upd ?_) |
                                 refine keeps_ite ?_ ?_ | split)

theorem sealGo_keeps {z0 : State} (ctx : Nat) (mode : Nat) (dir : Nat) (slot : Nat) (s : State) (h : Keeps z0 s) : Keeps z0 (sealGo ctx mode dir slot
    s) := by
  unfold sealGo
  try dsimp only
  with_reducible repeat' (first | assumption | apply sealCount_keeps | apply setSeal_keeps | apply raise_keeps |
                                 (fail_if_no_progress refine keeps_upd ?_) | refine keeps_ite ?_ ?_ | split)

theorem sealPut_keeps {z0 : State} (ctx : Nat) (o : SealOp) (total : List Byte) (s : State) (h : Keeps z0 s) : Keeps z0 (sealPut ctx o total s) := by
  unfold sealPut
  try dsimp only
  with_reducible repeat' (first | assumption | apply setSeal_keeps | apply ctxWrite_keeps | (fail_if_no_progress refine keeps_upd ?_))

theorem sealEnd_keeps {z0 : State} (ctx : Nat) (code : Nat) (s : State) (h : Keeps z0 s) : Keeps z0 (sealEnd ctx code s) := by
  unfold sealEnd
  try dsimp only
  with_reducible repeat' (first | assumption | apply zeroOut_keeps | apply sealCount_keeps | apply setSeal_keeps |
                                 (fail_if_no_progress refine keeps_upd ?_) | refine keeps_ite ?_ ?_ | (intro _) | split)

theorem sealFinish_keeps {z0 : State} (ctx : Nat) (s : State) (h : Keeps z0 s) : Keeps z0 (sealFinish ctx s) := by
  unfold sealFinish
  try dsimp only
  with_reducible repeat' (first | assumption | apply sealEnd_keeps | apply sealPut_keeps | apply sealCount_keeps | apply setSeal_keeps |
                                 (fail_if_no_progress refine keeps_upd ?_) | refine keeps_ite ?_ ?_ | split)

theorem sealPiece_keeps {z0 : State} (ctx : Nat) (n : Nat) (last : Bool) (s : State) (h : Keeps z0 s) : Keeps z0 (sealPiece ctx n last s) := by
  unfold sealPiece
  try dsimp only
  with_reducible repeat' (first | assumption | apply sealFinish_keeps | apply sealEnd_keeps | apply sealPut_keeps | apply setSeal_keeps |
                                 (fail_if_no_progress refine keeps_upd ?_) | refine keeps_ite ?_ ?_ | split)

theorem sealAbort_keeps {z0 : State} (ctx : Nat) (s : State) (h : Keeps z0 s) : Keeps z0 (sealAbort ctx s) := by
  unfold sealAbort
  try dsimp only
  with_reducible repeat' (first | assumption | apply sealAbortOp_keeps | apply setSeal_keeps | (fail_if_no_progress refine keeps_upd ?_) |
                                 refine keeps_ite ?_ ?_ | split)

theorem setDig_keeps {z0 : State} (d : DigState) (s : State) (h : Keeps z0 s) : Keeps z0 (setDig d s) := by
  unfold setDig
  try dsimp only
  with_reducible repeat' (first | assumption | (fail_if_no_progress refine keeps_upd ?_))

theorem digFree_keeps {z0 : State} (code : Nat) (s : State) (h : Keeps z0 s) : Keeps z0 (digFree code s) := by
  unfold digFree
  try dsimp only
  with_reducible repeat' (first | assumption | apply setDig_keeps | (fail_if_no_progress refine keeps_upd ?_))

theorem digBreak_keeps {z0 : State} (s : State) (h : Keeps z0 s) : Keeps z0 (digBreak s) := by
  unfold digBreak
  try dsimp only
  with_reducible repeat' (first | assumption | apply digFree_keeps | apply setDig_keeps | apply logOcc_keeps | apply raise_keeps |
                                 (fail_if_no_progress refine keeps_upd ?_) | split)

theorem digClaim_keeps {z0 : State} (ctx : Nat) (s : State) (h : Keeps z0 s) : Keeps z0 (digClaim ctx s) := by
  unfold digClaim
  try dsimp only
  with_reducible repeat' (first | assumption | apply setDig_keeps | (fail_if_no_progress refine keeps_upd ?_) | split)

theorem digOpen_keeps {z0 : State} (ctx : Nat) (slot : Nat) (keyed : Bool) (alg : Nat) (s : State) (h : Keeps z0 s) : Keeps z0 (digOpen ctx slot keyed
    alg s) := by
  unfold digOpen
  try dsimp only
  with_reducible repeat' (first | assumption | apply digClaim_keeps | apply setDig_keeps | (fail_if_no_progress refine keeps_upd ?_) |
                                 refine keeps_ite ?_ ?_ | split)

theorem digTake_keeps {z0 : State} (bs : List Byte) (s : State) (h : Keeps z0 s) : Keeps z0 (digTake bs s) := by
  unfold digTake
  try dsimp only
  with_reducible repeat' (first | assumption | apply setDig_keeps | (fail_if_no_progress refine keeps_upd ?_) | refine keeps_ite ?_ ?_ | split)

theorem digData_keeps {z0 : State} (ctx : Nat) (w : Nat) (s : State) (h : Keeps z0 s) : Keeps z0 (digData ctx w s) := by
  unfold digData
  try dsimp only
  with_reducible repeat' (first | assumption | apply digTake_keeps | refine keeps_ite ?_ ?_ | split)

theorem digLast_keeps {z0 : State} (ctx : Nat) (w : Nat) (s : State) (h : Keeps z0 s) : Keeps z0 (digLast ctx w s) := by
  unfold digLast
  try dsimp only
  with_reducible repeat' (first | assumption | apply digTake_keeps | apply setDig_keeps | (fail_if_no_progress refine keeps_upd ?_) |
                                 refine keeps_ite ?_ ?_ | (intro _) | split)

theorem digExport_keeps {z0 : State} (ctx : Nat) (s : State) (h : Keeps z0 s) : Keeps z0 (digExport ctx s) := by
  unfold digExport
  try dsimp only
  with_reducible repeat' (first | assumption | apply digFree_keeps | apply setDig_keeps | apply ctxWrite_keeps |
                                 (fail_if_no_progress refine keeps_upd ?_) | refine keeps_ite ?_ ?_ | split)

theorem digImport_keeps {z0 : State} (ctx : Nat) (s : State) (h : Keeps z0 s) : Keeps z0 (digImport ctx s) := by
  unfold digImport
  try dsimp only
  with_reducible repeat' (first | assumption | apply digClaim_keeps | apply digFree_keeps | apply setDig_keeps |
                                 (fail_if_no_progress refine keeps_upd ?_) | refine keeps_ite ?_ ?_ | split)

theorem digRelease_keeps {z0 : State} (ctx : Nat) (s : State) (h : Keeps z0 s) : Keeps z0 (digRelease ctx s) := by
  unfold digRelease
  try dsimp only
  with_reducible repeat' (first | assumption | apply digFree_keeps | refine keeps_ite ?_ ?_ | split)

theorem sealLost_keeps {z0 : State} (o : Option EngOwner) (s : State) (h : Keeps z0 s) : Keeps z0 (sealLost o s) := by
  unfold sealLost
  try dsimp only
  with_reducible repeat' (first | assumption | apply setSeal_keeps | (fail_if_no_progress refine keeps_upd ?_) | split)

theorem digLost_keeps {z0 : State} (o : Option EngOwner) (s : State) (h : Keeps z0 s) : Keeps z0 (digLost o s) := by
  unfold digLost
  try dsimp only
  with_reducible repeat' (first | assumption | apply setDig_keeps | (fail_if_no_progress refine keeps_upd ?_) | split)

theorem engineFreeze_keeps {z0 : State} (f : Nat) (s : State) (h : Keeps z0 s) : Keeps z0 (engineFreeze f s) := by
  unfold engineFreeze
  try dsimp only
  with_reducible repeat' (first | assumption | apply digLost_keeps | apply sealLost_keeps | apply digFree_keeps | apply sealRelease_keeps |
                                 refine keeps_ite ?_ ?_ | split)

theorem engineTaskEnd_keeps {z0 : State} (key : Nat) (s : State) (h : Keeps z0 s) : Keeps z0 (engineTaskEnd key s) := by
  unfold engineTaskEnd
  try dsimp only
  with_reducible repeat' (first | assumption | apply digFree_keeps | apply sealRelease_keeps | (fail_if_no_progress refine keeps_upd ?_) |
                                 refine keeps_ite ?_ ?_ | split)

theorem cmpCount_keeps {z0 : State} (w : Nat) (inB : Nat) (outB : Nat) (s : State) (h : Keeps z0 s) : Keeps z0 (cmpCount w inB outB s) := by
  unfold cmpCount
  try dsimp only
  with_reducible repeat' (first | assumption | apply setCmp_keeps | (fail_if_no_progress refine keeps_upd ?_))

theorem verifyFailed_keeps {z0 : State} (w : Nat) (user : Nat) (s : State) (h : Keeps z0 s) : Keeps z0 (verifyFailed w user s) := by
  unfold verifyFailed
  try dsimp only
  with_reducible repeat' (first | assumption | apply logOcc_keeps | apply raise_keeps | apply setCmp_keeps |
                                 (fail_if_no_progress refine keeps_upd ?_))

theorem jobFail_keeps {z0 : State} (ctx : Nat) (k : Nat) (code : Nat) (out : Nat) (s : State) (h : Keeps z0 s) : Keeps z0 (jobFail ctx k code out s)
    := by
  unfold jobFail
  try dsimp only
  with_reducible repeat' (first | assumption | apply ctxWrite_keeps | apply setJob_keeps | (fail_if_no_progress refine keeps_upd ?_))

theorem jobOpen_keeps {z0 : State} (ctx : Nat) (w : Nat) (checksum : Bool) (thresh : Nat) (total : Nat) (s : State) (h : Keeps z0 s) : Keeps z0
    (jobOpen ctx w checksum thresh total s) := by
  unfold jobOpen
  try dsimp only
  with_reducible repeat' (first | assumption | apply jobFail_keeps | apply setJob_keeps | (fail_if_no_progress refine keeps_upd ?_) |
                                 refine keeps_ite ?_ ?_ | split)

theorem jobCancel_keeps {z0 : State} (ctx : Nat) (w : Nat) (s : State) (h : Keeps z0 s) : Keeps z0 (jobCancel ctx w s) := by
  unfold jobCancel
  try dsimp only
  with_reducible repeat' (first | assumption | apply jobFail_keeps | refine keeps_ite ?_ ?_ | split)

theorem jobRelease_keeps {z0 : State} (ctx : Nat) (k : Nat) (s : State) (h : Keeps z0 s) : Keeps z0 (jobRelease ctx k s) := by
  unfold jobRelease
  try dsimp only
  with_reducible repeat' (first | assumption | apply cmpCount_keeps | apply ctxWrite_keeps | apply setJob_keeps |
                                 (fail_if_no_progress refine keeps_upd ?_) | refine keeps_ite ?_ ?_ | split)

theorem jobLast_keeps {z0 : State} (ctx : Nat) (k : Nat) (s : State) (h : Keeps z0 s) : Keeps z0 (jobLast ctx k s) := by
  unfold jobLast
  try dsimp only
  with_reducible repeat' (first | assumption | apply jobFail_keeps | apply setJob_keeps | apply setCmp_keeps |
                                 (fail_if_no_progress refine keeps_upd ?_) | refine keeps_ite ?_ ?_ | split)

theorem jobPiece_keeps {z0 : State} (ctx : Nat) (w : Nat) (n : Nat) (flush : Bool) (last : Bool) (bad : Bool) (s : State) (h : Keeps z0 s) : Keeps z0
    (jobPiece ctx w n flush last bad s) := by
  unfold jobPiece
  try dsimp only
  with_reducible repeat' (first | assumption | apply jobLast_keeps | apply jobRelease_keeps | apply jobFail_keeps | apply verifyFailed_keeps |
                                 apply cmpCount_keeps | apply setJob_keeps | (fail_if_no_progress refine keeps_upd ?_) | refine keeps_ite ?_ ?_ |
                                 split)

theorem jobTaskEnd_keeps {z0 : State} (key : Nat) (s : State) (h : Keeps z0 s) : Keeps z0 (jobTaskEnd key s) := by
  unfold jobTaskEnd
  try dsimp only
  with_reducible repeat' (first | assumption | (fail_if_no_progress refine keeps_upd ?_))

theorem jobLost_keeps {z0 : State} (key : Nat) (s : State) (h : Keeps z0 s) : Keeps z0 (jobLost key s) := by
  unfold jobLost
  try dsimp only
  with_reducible repeat' (first | assumption | apply jobFail_keeps | refine keeps_ite ?_ ?_ | split)

theorem retireTask_keeps {z0 : State} (key : Nat) (s : State) (h : Keeps z0 s) : Keeps z0 (retireTask key s) := by
  unfold retireTask
  try dsimp only
  with_reducible repeat' (first | assumption | apply jobTaskEnd_keeps | apply engineTaskEnd_keeps | apply endTask_keeps)

theorem setBcnTable_keeps {z0 : State} (t : Nat) (b : BcnTable) (s : State) (h : Keeps z0 s) : Keeps z0 (setBcnTable t b s) := by
  unfold setBcnTable
  try dsimp only
  with_reducible repeat' (first | assumption | (fail_if_no_progress refine keeps_upd ?_))

theorem setBcnRow_keeps {z0 : State} (bank : Nat) (row : Nat) (r : BcnRow) (s0 : State) (h : Keeps z0 s0) : Keeps z0 (setBcnRow bank row r s0) := by
  unfold setBcnRow
  try dsimp only
  with_reducible repeat' (first | assumption | apply writePage_keeps | refine keeps_foldl _ _ (fun _ _ _ => ?_) ?_ |
                                 (fail_if_no_progress refine keeps_upd ?_) | (intro _))

theorem bcnPut_keeps {z0 : State} (b : BcnTable) (i : Nat) (e : BcnEntry) (s : State) (h : Keeps z0 s) : Keeps z0 (bcnPut b i e s) := by
  unfold bcnPut
  try dsimp only
  with_reducible repeat' (first | assumption | apply setBcnRow_keeps | split)

theorem bcnSlot_keeps {z0 : State} (cls : Nat) (banks : BitVec 16) (s : State) (h : Keeps z0 s) : Keeps z0 (bcnSlot cls banks s) := by
  unfold bcnSlot
  try dsimp only
  with_reducible repeat' (first | assumption | refine keeps_foldl _ _ (fun _ _ _ => ?_) ?_ | (fail_if_no_progress refine keeps_upd ?_) |
                                 refine keeps_ite ?_ ?_ | (intro _) | split)

theorem setBcnCtx_keeps {z0 : State} (q : Nat) (c : BcnCtx) (s : State) (h : Keeps z0 s) : Keeps z0 (setBcnCtx q c s) := by
  unfold setBcnCtx
  try dsimp only
  with_reducible repeat' (first | assumption | (fail_if_no_progress refine keeps_upd ?_))

theorem bcnRepair_keeps {z0 : State} (bank : Nat) (row : Nat) (s : State) (h : Keeps z0 s) : Keeps z0 (bcnRepair bank row s) := by
  unfold bcnRepair
  try dsimp only
  with_reducible repeat' (first | assumption | apply logOcc_keeps | apply raise_keeps | (fail_if_no_progress refine keeps_upd ?_))

theorem bcnFix_keeps {z0 : State} (t : Nat) (key : Nat) (s : State) (h : Keeps z0 s) : Keeps z0 (bcnFix t key s) := by
  unfold bcnFix
  try dsimp only
  with_reducible repeat' (first | assumption | apply bcnRepair_keeps | refine keeps_foldl _ _ (fun _ _ _ => ?_) ?_ | (intro _))

theorem bcnGo_keeps {z0 : State} (q : Nat) (s : State) (h : Keeps z0 s) : Keeps z0 (bcnGo q s) := by
  unfold bcnGo
  try dsimp only
  with_reducible repeat' (first | assumption | apply bcnFix_keeps | apply setBcnCtx_keeps | apply bcnSlot_keeps |
                                 (fail_if_no_progress refine keeps_upd ?_) | refine keeps_ite ?_ ?_ | split)

theorem moveUp_keeps {z0 : State} (b : BcnTable) (i : Nat) (x : Nat)  (s : State) (h : Keeps z0 s) : Keeps z0 (moveUp b i x  s) := by
  induction x generalizing s  with
  | zero =>
    unfold moveUp
    with_reducible repeat' (first | assumption | apply bcnPut_keeps | split)
  | succ n ih =>
    unfold moveUp
    try dsimp only
    with_reducible repeat' (first | assumption | apply ih | apply bcnPut_keeps | split)

theorem moveDown_keeps {z0 : State} (b : BcnTable) (g : Nat) (x : Nat)  (s : State) (h : Keeps z0 s) : Keeps z0 (moveDown b g x  s) := by
  induction x generalizing s  with
  | zero =>
    unfold moveDown
    with_reducible repeat' (first | assumption | apply bcnPut_keeps | split)
  | succ n ih =>
    unfold moveDown
    try dsimp only
    with_reducible repeat' (first | assumption | apply ih | apply bcnPut_keeps | split)

theorem clearBanks_keeps {z0 : State} (banks : BitVec 16) (s : State) (h : Keeps z0 s) : Keeps z0 (clearBanks banks s) := by
  unfold clearBanks
  try dsimp only
  with_reducible repeat' (first | assumption | (fail_if_no_progress refine keeps_upd ?_) | (intro _))

theorem bcnDone_keeps {z0 : State} (code : Nat) (c : BcnCtx) (s : State) (h : Keeps z0 s) : Keeps z0 (bcnDone code c s).st := by
  unfold bcnDone
  try dsimp only
  with_reducible repeat' (first | assumption)

theorem bcnWrite_keeps {z0 : State} (b : BcnTable) (c : BcnCtx) (s : State) (h : Keeps z0 s) : Keeps z0 (bcnWrite b c s).st := by
  unfold bcnWrite
  try dsimp only
  with_reducible repeat' (first | assumption | refine bcnDone_keeps_of_eq (by assumption) ?_ | apply bcnDone_keeps | apply bcnPut_keeps |
                                 refine keeps_ite ?_ ?_ | split)

theorem bcnInvalidate_keeps {z0 : State} (b : BcnTable) (c : BcnCtx) (s : State) (h : Keeps z0 s) : Keeps z0 (bcnInvalidate b c s).st := by
  unfold bcnInvalidate
  try dsimp only
  with_reducible repeat' (first | assumption | refine bcnDone_keeps_of_eq (by assumption) ?_ | apply bcnDone_keeps | apply bcnPut_keeps |
                                 (fail_if_no_progress refine keeps_upd ?_) | refine keeps_ite ?_ ?_ | split)

theorem bcnRead_keeps {z0 : State} (b : BcnTable) (c : BcnCtx) (s : State) (h : Keeps z0 s) : Keeps z0 (bcnRead b c s).st := by
  unfold bcnRead
  try dsimp only
  with_reducible repeat' (first | assumption | refine bcnDone_keeps_of_eq (by assumption) ?_ | apply bcnDone_keeps |
                                 (fail_if_no_progress refine keeps_upd ?_) | refine keeps_ite ?_ ?_ | split)

theorem bcnInsert_keeps {z0 : State} (t : Nat) (b : BcnTable) (c : BcnCtx) (s : State) (h : Keeps z0 s) : Keeps z0 (bcnInsert t b c s).st := by
  unfold bcnInsert
  try dsimp only
  with_reducible repeat' (first | assumption | refine bcnDone_keeps_of_eq (by assumption) ?_ | apply bcnDone_keeps | apply moveDown_keeps |
                                 apply moveUp_keeps | apply bcnPut_keeps | apply setBcnTable_keeps | (fail_if_no_progress refine keeps_upd ?_) |
                                 refine keeps_ite ?_ ?_ | (intro _) | split)

theorem bcnAppend_keeps {z0 : State} (t : Nat) (b : BcnTable) (c : BcnCtx) (s : State) (h : Keeps z0 s) : Keeps z0 (bcnAppend t b c s).st := by
  unfold bcnAppend
  try dsimp only
  with_reducible repeat' (first | assumption | refine bcnDone_keeps_of_eq (by assumption) ?_ | apply bcnDone_keeps | apply bcnPut_keeps |
                                 apply setBcnTable_keeps | (fail_if_no_progress refine keeps_upd ?_) | refine keeps_ite ?_ ?_ | split)

theorem bcnClear_keeps {z0 : State} (t : Nat) (b : BcnTable) (c : BcnCtx) (s : State) (h : Keeps z0 s) : Keeps z0 (bcnClear t b c s).st := by
  unfold bcnClear
  try dsimp only
  with_reducible repeat' (first | assumption | refine bcnDone_keeps_of_eq (by assumption) ?_ | apply bcnDone_keeps | apply clearBanks_keeps |
                                 apply setBcnTable_keeps | (fail_if_no_progress refine keeps_upd ?_) | refine keeps_ite ?_ ?_ | split)

theorem bcnCreate_keeps {z0 : State} (pf : Bool) (t : Nat) (b : BcnTable) (c : BcnCtx) (s : State) (h : Keeps z0 s) : Keeps z0 (bcnCreate pf t b c
    s).st := by
  unfold bcnCreate
  try dsimp only
  with_reducible repeat' (first | assumption | refine bcnDone_keeps_of_eq (by assumption) ?_ | apply bcnDone_keeps | apply clearBanks_keeps |
                                 apply setBcnTable_keeps | (fail_if_no_progress refine keeps_upd ?_) | refine keeps_ite ?_ ?_ | split)

theorem bcnGrow_keeps {z0 : State} (pf : Bool) (t : Nat) (b : BcnTable) (c : BcnCtx) (s : State) (h : Keeps z0 s) : Keeps z0 (bcnGrow pf t b c s).st
    := by
  unfold bcnGrow
  try dsimp only
  with_reducible repeat' (first | assumption | refine bcnDone_keeps_of_eq (by assumption) ?_ | apply bcnDone_keeps | apply clearBanks_keeps |
                                 apply setBcnTable_keeps | (fail_if_no_progress refine keeps_upd ?_) | refine keeps_ite ?_ ?_ | (intro _) | split)

theorem bcnDelete_keeps {z0 : State} (pf : Bool) (t : Nat) (b : BcnTable) (c : BcnCtx) (s : State) (h : Keeps z0 s) : Keeps z0 (bcnDelete pf t b c
    s).st := by
  unfold bcnDelete
  try dsimp only
  with_reducible repeat' (first | assumption | refine bcnDone_keeps_of_eq (by assumption) ?_ | apply bcnDone_keeps | apply clearBanks_keeps |
                                 apply setBcnTable_keeps | (fail_if_no_progress refine keeps_upd ?_) | refine keeps_ite ?_ ?_ | split)

theorem bcnFinish_keeps {z0 : State} (q : Nat) (o : BcnOut) (h : Keeps z0 o.st) : Keeps z0 (bcnFinish q o) := by
  unfold bcnFinish
  exact setBcnCtx_keeps _ _ _ h

theorem bcnCommand_keeps {z0 : State} (q : Nat) (cmd : Nat) (s : State) (h : Keeps z0 s) : Keeps z0 (bcnCommand q cmd s) := by
  unfold bcnCommand
  try dsimp only
  with_reducible repeat' (first | assumption | apply bcnFinish_keeps | refine bcnDelete_keeps_of_eq (by assumption) ?_ | apply bcnDelete_keeps |
                                 refine bcnGrow_keeps_of_eq (by assumption) ?_ | apply bcnGrow_keeps | refine bcnCreate_keeps_of_eq (by assumption) ?_
                                 | apply bcnCreate_keeps | refine bcnClear_keeps_of_eq (by assumption) ?_ | apply bcnClear_keeps |
                                 refine bcnAppend_keeps_of_eq (by assumption) ?_ | apply bcnAppend_keeps |
                                 refine bcnInsert_keeps_of_eq (by assumption) ?_ | apply bcnInsert_keeps |
                                 refine bcnRead_keeps_of_eq (by assumption) ?_ | apply bcnRead_keeps |
                                 refine bcnInvalidate_keeps_of_eq (by assumption) ?_ | apply bcnInvalidate_keeps |
                                 refine bcnWrite_keeps_of_eq (by assumption) ?_ | apply bcnWrite_keeps | refine bcnDone_keeps_of_eq (by assumption) ?_
                                 | apply bcnDone_keeps | apply bcnSlot_keeps | split)

theorem bcnLose_keeps {z0 : State} (bank : Nat) (row : Nat) (s : State) (h : Keeps z0 s) : Keeps z0 (bcnLose bank row s) := by
  unfold bcnLose
  try dsimp only
  with_reducible repeat' (first | assumption | apply logOcc_keeps | apply raise_keeps | (fail_if_no_progress refine keeps_upd ?_))

theorem execBeaconScrubPass_keeps {z0 : State} (decayed : List (Fin 524288)) (dead : List (Fin 524288)) (s : State) (h : Keeps z0 s) : ∃ t,
    execBeaconScrubPass decayed dead s = .next t ∧ Keeps z0 t := by
  unfold execBeaconScrubPass
  refine ⟨_, rfl, ?_⟩
  try dsimp only
  with_reducible repeat' (first | assumption | apply bcnLose_keeps | apply bcnRepair_keeps | refine keeps_foldl _ _ (fun _ _ _ => ?_) ?_ | (intro _))

end Sys2Proof.Machine
end

