-- ==== Sys2Proof/Laws/KeepsMedia.lean ====
section
/-! SUPPORT. What every step keeps (`Keeps`): media, log, waybill, mode and part operations. For each operation `f` the lemma `f_keeps` says that it keeps it;
for the meaning of a command it says that the command has a next state and keeps it. -/

namespace Sys2Proof.Machine

set_option Elab.async false
set_option linter.all false
set_option maxRecDepth 20000

theorem wipePages_keeps {z0 : State} (bk : Nat) (s : State) (h : Keeps z0 s) : Keeps z0 (wipePages bk s) := by
  unfold wipePages
  try dsimp only
  with_reducible repeat' (first | assumption | (fail_if_no_progress refine keeps_upd ?_) | (intro _))

theorem setBlk_keeps {z0 : State} (bk : Nat) (b : DieBlock) (s : State) (h : Keeps z0 s) : Keeps z0 (setBlk bk b s) := by
  unfold setBlk
  try dsimp only
  with_reducible repeat' (first | assumption | (fail_if_no_progress refine keeps_upd ?_))

theorem ledgerSet_keeps {z0 : State} (ch : Nat) (code : Nat) (v : Nat) (s : State) (h : Keeps z0 s) : Keeps z0 (ledgerSet ch code v s) := by
  unfold ledgerSet
  try dsimp only
  with_reducible repeat' (first | assumption | (fail_if_no_progress refine keeps_upd ?_) | refine keeps_ite ?_ ?_ | split)

theorem ledgerMove_keeps {z0 : State} (ch : Nat) (a : Nat) (b : Nat) (s : State) (h : Keeps z0 s) : Keeps z0 (ledgerMove ch a b s) := by
  unfold ledgerMove
  try dsimp only
  with_reducible repeat' (first | assumption | apply ledgerSet_keeps)

theorem jrn_keeps {z0 : State} (source : Nat) (body : JBody) (act : JAct) (s : State) (h : Keeps z0 s) : Keeps z0 (jrn source body act s) := by
  unfold jrn
  try dsimp only
  with_reducible repeat' (first | assumption | apply raise_keeps | (fail_if_no_progress refine keeps_upd ?_) | refine keeps_ite ?_ ?_ | split)

theorem blkState_keeps {z0 : State} (bk : Nat) (new : BlkState) (s : State) (h : Keeps z0 s) : Keeps z0 (blkState bk new s) := by
  unfold blkState
  try dsimp only
  with_reducible repeat' (first | assumption | apply jrn_keeps | apply ledgerMove_keeps | apply setBlk_keeps |
                                 (fail_if_no_progress refine keeps_upd ?_) | refine keeps_ite ?_ ?_ | split)

theorem addRead_keeps {z0 : State} (g : GrainId) (entry : Nat) (old : Nat) (why : ReadWhy) (s : State) (h : Keeps z0 s) : Keeps z0 (addRead g entry
    old why s) := by
  unfold addRead
  try dsimp only
  with_reducible repeat' (first | assumption | (fail_if_no_progress refine keeps_upd ?_))

theorem openMember_keeps {z0 : State} (set : Nat) (pos : Nat) (role : BlkRole) (bk : Nat) (s : State) (h : Keeps z0 s) : Keeps z0 (openMember set pos
    role bk s) := by
  unfold openMember
  try dsimp only
  with_reducible repeat' (first | assumption | apply blkState_keeps | apply setBlk_keeps | (fail_if_no_progress refine keeps_upd ?_))

theorem openSet_keeps {z0 : State} (g : Nat) (role : BlkRole) (s : State) (h : Keeps z0 s) : Keeps z0 (openSet g role s) := by
  unfold openSet
  try dsimp only
  with_reducible repeat' (first | assumption | apply openMember_keeps | refine keeps_foldl _ _ (fun _ _ _ => ?_) ?_ |
                                 (fail_if_no_progress refine keeps_upd ?_) | refine keeps_foldl_fst _ _ (fun _ _ _ => ?_) ?_ | (intro _) | split)

theorem ensureOpen_keeps {z0 : State} (p : Nat) (role : BlkRole) (s : State) (h : Keeps z0 s) : Keeps z0 (ensureOpen p role s) := by
  unfold ensureOpen
  try dsimp only
  with_reducible repeat' (first | assumption | apply openSet_keeps | split)

theorem holdNext_keeps {z0 : State} (p : Nat) (s : State) (h : Keeps z0 s) : Keeps z0 (holdNext p s) := by
  unfold holdNext
  try dsimp only
  with_reducible repeat' (first | assumption | (fail_if_no_progress refine keeps_upd ?_) | refine keeps_ite ?_ ?_ | (intro _) | split)

theorem pushSlot_keeps {z0 : State} (bk : Nat) (item : SlotItem) (s : State) (h : Keeps z0 s) : Keeps z0 (pushSlot bk item s) := by
  unfold pushSlot
  try dsimp only
  with_reducible repeat' (first | assumption | apply holdNext_keeps | apply setBlk_keeps | (fail_if_no_progress refine keeps_upd ?_) |
                                 refine keeps_ite ?_ ?_ | (intro _) | split)

theorem pushParity_keeps {z0 : State} (bk : Nat) (s : State) (h : Keeps z0 s) : Keeps z0 (pushParity bk s) := by
  unfold pushParity
  try dsimp only
  with_reducible repeat' (first | assumption | apply pushSlot_keeps | refine keeps_ite ?_ ?_ | split)

theorem placeOn_keeps {z0 : State} (bk : Nat) (item : SlotItem) (s : State) (h : Keeps z0 s) : Keeps z0 (placeOn bk item s) := by
  unfold placeOn
  try dsimp only
  with_reducible repeat' (first | assumption | apply pushParity_keeps | apply pushSlot_keeps)

theorem placeItem_keeps {z0 : State} (w : Nat) (role : BlkRole) (item : SlotItem) (s : State) (h : Keeps z0 s) : Keeps z0 (placeItem w role item s).1
    := by
  unfold placeItem
  try dsimp only
  with_reducible repeat' (first | assumption | apply placeOn_keeps | apply ensureOpen_keeps | split)

theorem placeItem_keeps_of_eq {z0 : State} {w : Nat} {role : BlkRole} {item : SlotItem} {s : State} {t : State} {x1} (e : placeItem w role item s =
    (t, x1)) (h : Keeps z0 s) : Keeps z0 t := by
  have := placeItem_keeps w role item s h
  rw [e] at this
  exact this

theorem routeItem_keeps {z0 : State} (w : Nat) (item : SlotItem) (s : State) (h : Keeps z0 s) : Keeps z0 (routeItem w item s) := by
  unfold routeItem
  try dsimp only
  with_reducible repeat' (first | assumption | refine placeItem_keeps_of_eq (by assumption) ?_ | apply placeItem_keeps |
                                 (fail_if_no_progress refine keeps_upd ?_))

theorem healthAdd_keeps {z0 : State} (i : Nat) (n : Nat) (s : State) (h : Keeps z0 s) : Keeps z0 (healthAdd i n s) := by
  unfold healthAdd
  try dsimp only
  with_reducible repeat' (first | assumption | (fail_if_no_progress refine keeps_upd ?_) | (intro _))

theorem chFailAdd_keeps {z0 : State} (ch : Nat) (field : Nat) (cap : Nat) (s : State) (h : Keeps z0 s) : Keeps z0 (chFailAdd ch field cap s) := by
  unfold chFailAdd
  try dsimp only
  with_reducible repeat' (first | assumption | (fail_if_no_progress refine keeps_upd ?_) | (intro _))

theorem markDirty_keeps {z0 : State} (nsid : Nat) (bale : Nat) (grain : Nat) (s : State) (h : Keeps z0 s) : Keeps z0 (markDirty nsid bale grain s) :=
    by
  unfold markDirty
  try dsimp only
  with_reducible repeat' (first | assumption | (fail_if_no_progress refine keeps_upd ?_) | refine keeps_ite ?_ ?_ | split)

theorem send_keeps {z0 : State} (dest : Nat) (kind : MsgKind) (nums : List Nat) (bytes : List Byte) (grains : List (GrainId × GrainImg)) (s : State)
    (h : Keeps z0 s) : Keeps z0 (send dest kind nums bytes grains s) := by
  unfold send
  try dsimp only
  with_reducible repeat' (first | assumption | (fail_if_no_progress refine keeps_upd ?_))

theorem sendAll_keeps {z0 : State} (kind : MsgKind) (nums : List Nat) (bytes : List Byte) (s : State) (h : Keeps z0 s) : Keeps z0 (sendAll kind nums
    bytes s) := by
  unfold sendAll
  try dsimp only
  with_reducible repeat' (first | assumption | apply send_keeps | refine keeps_foldl _ _ (fun _ _ _ => ?_) ?_ | (intro _))

theorem logNew_keeps {z0 : State} (o : LogOcc) (s : State) (h : Keeps z0 s) : Keeps z0 (logNew o s) := by
  unfold logNew
  try dsimp only
  with_reducible repeat' (first | assumption | apply asyncVendor_keeps | apply raise_keeps | (fail_if_no_progress refine keeps_upd ?_) |
                                 refine keeps_ite ?_ ?_ | split)

theorem logRepeat_keeps {z0 : State} (slot : Nat) (r : LogRec) (o : LogOcc) (s : State) (h : Keeps z0 s) : Keeps z0 (logRepeat slot r o s) := by
  unfold logRepeat
  try dsimp only
  with_reducible repeat' (first | assumption | (fail_if_no_progress refine keeps_upd ?_) | refine keeps_ite ?_ ?_ | split)

theorem logWriteOcc_keeps {z0 : State} (o : LogOcc) (s : State) (h : Keeps z0 s) : Keeps z0 (logWriteOcc o s) := by
  unfold logWriteOcc
  try dsimp only
  with_reducible repeat' (first | assumption | apply logRepeat_keeps | apply logNew_keeps | refine keeps_ite ?_ ?_ | split)

theorem logWriteNext_keeps {z0 : State} (s : State) (h : Keeps z0 s) : Keeps z0 (logWriteNext s) := by
  unfold logWriteNext
  try dsimp only
  with_reducible repeat' (first | assumption | apply logWriteOcc_keeps | apply logOcc_keeps | (fail_if_no_progress refine keeps_upd ?_) |
                                 refine keeps_ite ?_ ?_ | split)

theorem logDrain_keeps {z0 : State}  (x : Nat)  (s : State) (h : Keeps z0 s) : Keeps z0 (logDrain  x  s) := by
  induction x generalizing s  with
  | zero =>
    unfold logDrain
    with_reducible repeat' (first | assumption | apply logWriteNext_keeps | split)
  | succ n ih =>
    unfold logDrain
    try dsimp only
    with_reducible repeat' (first | assumption | apply ih | apply logWriteNext_keeps | split)

theorem logScan_keeps {z0 : State} (s : State) (h : Keeps z0 s) : Keeps z0 (logScan s) := by
  unfold logScan
  try dsimp only
  with_reducible repeat' (first | assumption | (fail_if_no_progress refine keeps_upd ?_) | refine keeps_ite ?_ ?_ | (intro _) | split)

theorem execLogRecordWrite_keeps {z0 : State} (s : State) (h : Keeps z0 s) : ∃ t, execLogRecordWrite s = .next t ∧ Keeps z0 t := by
  unfold execLogRecordWrite
  refine ⟨_, rfl, ?_⟩
  try dsimp only
  with_reducible repeat' (first | assumption | apply logWriteNext_keeps | refine keeps_ite ?_ ?_ | split)

theorem logMark_keeps {z0 : State} (v : Nat) (s : State) (h : Keeps z0 s) : Keeps z0 (logMark v s) := by
  unfold logMark
  try dsimp only
  with_reducible repeat' (first | assumption | apply logOcc_keeps)

theorem execLogMark_keeps {z0 : State} (value : Word) (s : State) (h : Keeps z0 s) : ∃ t, execLogMark value s = .next t ∧ Keeps z0 t := by
  unfold execLogMark
  refine ⟨_, rfl, ?_⟩
  try dsimp only
  with_reducible repeat' (first | assumption | apply logMark_keeps | refine keeps_ite ?_ ?_ | split)

theorem postOrWait_keeps {z0 : State} (handle : Nat) (flag : Nat) (cls : Nat) (s : State) (h : Keeps z0 s) : Keeps z0 (postOrWait handle flag cls s)
    := by
  unfold postOrWait
  try dsimp only
  with_reducible repeat' (first | assumption | apply raise_keeps | refine postTo_keeps_of_eq (by assumption) ?_ | apply postTo_keeps |
                                 (fail_if_no_progress refine keeps_upd ?_) | refine keeps_ite ?_ ?_ | split)

theorem putRecord_keeps {z0 : State} (wb : Waybill) (r : LegRecord) (s : State) (h : Keeps z0 s) : Keeps z0 (putRecord wb r s).1 := by
  unfold putRecord
  try dsimp only
  with_reducible repeat' (first | assumption | apply postOrWait_keeps | apply slmWrite_keeps | (fail_if_no_progress refine keeps_upd ?_) |
                                 refine keeps_ite ?_ ?_ | split)

theorem putRecord_keeps_of_eq {z0 : State} {wb : Waybill} {r : LegRecord} {s : State} {t : State} {x1} (e : putRecord wb r s = (t, x1)) (h : Keeps z0
    s) : Keeps z0 t := by
  have := putRecord_keeps wb r s h
  rw [e] at this
  exact this

theorem wbFinish_keeps {z0 : State} (wb : Waybill) (s : State) (h : Keeps z0 s) : Keeps z0 (wbFinish wb s) := by
  unfold wbFinish
  try dsimp only
  with_reducible repeat' (first | assumption | refine putRecord_keeps_of_eq (by assumption) ?_ | apply putRecord_keeps |
                                 (fail_if_no_progress refine keeps_upd ?_) | refine keeps_ite ?_ ?_ | split)

theorem legDeliver_keeps {z0 : State} (handle : Nat) (leg : Nat) (attempt : Nat) (status : Nat) (stamp : Nat) (out : List Byte) (required : Nat)
    (summary : LegSummary) (s : State) (h : Keeps z0 s) : Keeps z0 (legDeliver handle leg attempt status stamp out required summary s) := by
  unfold legDeliver
  try dsimp only
  with_reducible repeat' (first | assumption | apply wbFinish_keeps | refine putRecord_keeps_of_eq (by assumption) ?_ | apply putRecord_keeps |
                                 apply slmWrite_keeps | (fail_if_no_progress refine keeps_upd ?_) | refine keeps_ite ?_ ?_ | (intro _) | split)

theorem freeStaging_keeps {z0 : State} (rest : List RunLeg) (l : RunLeg) (s : State) (h : Keeps z0 s) : Keeps z0 (freeStaging rest l s) := by
  unfold freeStaging
  try dsimp only
  with_reducible repeat' (first | assumption | apply clearPages_keeps | (fail_if_no_progress refine keeps_upd ?_) | (intro _) | split)

theorem legRemove_keeps {z0 : State} (l : RunLeg) (s : State) (h : Keeps z0 s) : Keeps z0 (legRemove l s) := by
  unfold legRemove
  try dsimp only
  with_reducible repeat' (first | assumption | apply freeStaging_keeps | apply retireTask_keeps | refine keeps_foldl _ _ (fun _ _ _ => ?_) ?_ |
                                 (fail_if_no_progress refine keeps_upd ?_) | refine keeps_ite ?_ ?_ | refine keeps_foldl_fst _ _ (fun _ _ _ => ?_) ?_
                                 | (intro _) | split)

theorem legEnd_keeps {z0 : State} (l : RunLeg) (status : Nat) (s : State) (h : Keeps z0 s) : Keeps z0 (legEnd l status s) := by
  unfold legEnd
  try dsimp only
  with_reducible repeat' (first | assumption | apply legRemove_keeps | apply legDeliver_keeps | apply settleFn_keeps | apply cntMod_keeps |
                                 (fail_if_no_progress refine keeps_upd ?_) | refine keeps_ite ?_ ?_ | split)

theorem legUnstarted_keeps {z0 : State} (l : RunLeg) (s : State) (h : Keeps z0 s) : Keeps z0 (legUnstarted l s) := by
  unfold legUnstarted
  try dsimp only
  with_reducible repeat' (first | assumption | (fail_if_no_progress refine keeps_upd ?_))

theorem legDropped_keeps {z0 : State} (handle : Nat) (leg : Nat) (s : State) (h : Keeps z0 s) : Keeps z0 (legDropped handle leg s) := by
  unfold legDropped
  try dsimp only
  with_reducible repeat' (first | assumption | apply wbFinish_keeps | (fail_if_no_progress refine keeps_upd ?_) | (intro _) | split)

theorem updLeg_keeps {z0 : State} (station : Nat) (handle : Nat) (leg : Nat) (f : RunLeg → RunLeg) (s : State) (h : Keeps z0 s) : Keeps z0 (updLeg
    station handle leg f s) := by
  unfold updLeg
  try dsimp only
  with_reducible repeat' (first | assumption | (fail_if_no_progress refine keeps_upd ?_) | refine keeps_ite ?_ ?_ | (intro _) | split)

theorem legCheckEnd_keeps {z0 : State} (station : Nat) (handle : Nat) (leg : Nat) (s : State) (h : Keeps z0 s) : Keeps z0 (legCheckEnd station handle
    leg s) := by
  unfold legCheckEnd
  try dsimp only
  with_reducible repeat' (first | assumption | apply legEnd_keeps | refine keeps_ite ?_ ?_ | (intro _) | split)

theorem wbCancel_keeps {z0 : State} (handle : Nat) (discard : Bool) (s : State) (h : Keeps z0 s) : Keeps z0 (wbCancel handle discard s) := by
  unfold wbCancel
  try dsimp only
  with_reducible repeat' (first | assumption | apply legEnd_keeps | apply legRemove_keeps | apply wbFinish_keeps |
                                 refine keeps_foldl _ _ (fun _ _ _ => ?_) ?_ | (fail_if_no_progress refine keeps_upd ?_) | refine keeps_ite ?_ ?_ |
                                 (intro _) | split)

theorem endThread_keeps {z0 : State} (key : Nat) (st : Status) (dw0 : Nat) (dw1 : Nat) (s : State) (h : Keeps z0 s) : Keeps z0 (endThread key st dw0
    dw1 s) := by
  unfold endThread
  try dsimp only
  with_reducible repeat' (first | assumption | apply wbCancel_keeps | apply retireTask_keeps | apply completeCmd_keeps |
                                 refine keeps_foldl _ _ (fun _ _ _ => ?_) ?_ | (intro _) | split)

theorem threadExit_keeps {z0 : State} (key : Nat) (status : Nat) (s : State) (h : Keeps z0 s) : Keeps z0 (threadExit key status s) := by
  unfold threadExit
  try dsimp only
  with_reducible repeat' (first | assumption | apply endThread_keeps | refine keeps_ite ?_ ?_ | split)

theorem reduceEnd_keeps {z0 : State} (key : Nat) (s : State) (h : Keeps z0 s) : Keeps z0 (reduceEnd key s) := by
  unfold reduceEnd
  try dsimp only
  with_reducible repeat' (first | assumption | apply legCheckEnd_keeps | apply updLeg_keeps | apply retireTask_keeps |
                                 (fail_if_no_progress refine keeps_upd ?_) | refine keeps_ite ?_ ?_ | (intro _) | split)

theorem reissueLeg_keeps {z0 : State} (l : RunLeg) (w : Nat) (s : State) (h : Keeps z0 s) : Keeps z0 (reissueLeg l w s) := by
  unfold reissueLeg
  try dsimp only
  with_reducible repeat' (first | assumption | apply legRemove_keeps | (fail_if_no_progress refine keeps_upd ?_) | refine keeps_ite ?_ ?_ | (intro _)
                                 | split)

theorem taskLost_keeps {z0 : State} (key : Nat) (s : State) (h : Keeps z0 s) : Keeps z0 (taskLost key s) := by
  unfold taskLost
  try dsimp only
  with_reducible repeat' (first | assumption | apply reissueLeg_keeps | apply endThread_keeps | apply retireTask_keeps | split)

theorem taskFault_keeps {z0 : State} (key : Nat) (code : Nat) (pc : Nat) (s : State) (h : Keeps z0 s) : Keeps z0 (taskFault key code pc s) := by
  unfold taskFault
  try dsimp only
  with_reducible repeat' (first | assumption | apply endThread_keeps | apply legEnd_keeps | apply retireTask_keeps | apply updTask_keeps |
                                 apply cntCoreAt_keeps | apply logOcc_keeps | (fail_if_no_progress refine keeps_upd ?_) | refine keeps_ite ?_ ?_ |
                                 (intro _) | split)

theorem noteState_keeps {z0 : State} (before : Nat) (s : State) (h : Keeps z0 s) : Keeps z0 (noteState before s) := by
  unfold noteState
  try dsimp only
  with_reducible repeat' (first | assumption | apply logOcc_keeps | apply raise_keeps)

theorem setMode_keeps {z0 : State} (m : Mode) (reason : Nat) (s : State) (h : Keeps z0 s) : Keeps z0 (setMode m reason s) := by
  unfold setMode
  try dsimp only
  with_reducible repeat' (first | assumption | apply noteState_keeps | (fail_if_no_progress refine keeps_upd ?_))

theorem setWingBits_keeps {z0 : State} (out : BitVec 8) (fault : BitVec 8) (s : State) (h : Keeps z0 s) : Keeps z0 (setWingBits out fault s) := by
  unfold setWingBits
  try dsimp only
  with_reducible repeat' (first | assumption | apply wingFault_keeps | apply noteState_keeps | (fail_if_no_progress refine keeps_upd ?_) |
                                 refine keeps_ite ?_ ?_ | split)

theorem startFlush_keeps {z0 : State} (trigger : Nat) (toDark : Bool) (s : State) (h : Keeps z0 s) : Keeps z0 (startFlush trigger toDark s) := by
  unfold startFlush
  try dsimp only
  with_reducible repeat' (first | assumption | apply raise_keeps | (fail_if_no_progress refine keeps_upd ?_) | (intro _) | split)

theorem rollStop_keeps {z0 : State} (st : Status) (s : State) (h : Keeps z0 s) : Keeps z0 (rollStop st s) := by
  unfold rollStop
  try dsimp only
  with_reducible repeat' (first | assumption | apply completeCmd_keeps | (fail_if_no_progress refine keeps_upd ?_) | refine keeps_ite ?_ ?_ | split)

theorem progWrite_keeps {z0 : State} (kind : Nat) (action : Nat) (phase : Nat) (nsid : Nat) (start : Nat) (blocks : Nat) (s : State) (h : Keeps z0 s)
    : Keeps z0 (progWrite kind action phase nsid start blocks s) := by
  unfold progWrite
  try dsimp only
  with_reducible repeat' (first | assumption | (fail_if_no_progress refine keeps_upd ?_) | refine keeps_ite ?_ ?_ | split)

theorem sanitizeFail_keeps {z0 : State} (s : State) (h : Keeps z0 s) : Keeps z0 (sanitizeFail s) := by
  unfold sanitizeFail
  try dsimp only
  with_reducible repeat' (first | assumption | apply progWrite_keeps | (fail_if_no_progress refine keeps_upd ?_) | split)

theorem kindlingEnds_keeps {z0 : State} (s : State) (h : Keeps z0 s) : Keeps z0 (kindlingEnds s) := by
  unfold kindlingEnds
  try dsimp only
  with_reducible repeat' (first | assumption | (fail_if_no_progress refine keeps_upd ?_) | (intro _))

theorem extinguishBy_keeps {z0 : State} (reason : Nat) (trigger : Nat) (s : State) (h : Keeps z0 s) : Keeps z0 (extinguishBy reason trigger s) := by
  unfold extinguishBy
  try dsimp only
  with_reducible repeat' (first | assumption | apply kindlingEnds_keeps | apply sanitizeFail_keeps | apply startFlush_keeps | apply setMode_keeps |
                                 apply logOcc_keeps | (fail_if_no_progress refine keeps_upd ?_) | refine keeps_ite ?_ ?_ | split)

theorem extinguish_keeps {z0 : State} (reason : Nat) (s : State) (h : Keeps z0 s) : Keeps z0 (extinguish reason s) := by
  unfold extinguish
  try dsimp only
  with_reducible repeat' (first | assumption | apply extinguishBy_keeps)

theorem clearCores_keeps {z0 : State} (w : Nat) (s : State) (h : Keeps z0 s) : Keeps z0 (clearCores w s) := by
  unfold clearCores
  try dsimp only
  with_reducible repeat' (first | assumption | (fail_if_no_progress refine keeps_upd ?_) | (intro _))

theorem wingFault_keeps {z0 : State} (w : Nat) (cause : Nat) (s : State) (h : Keeps z0 s) : Keeps z0 (wingFault w cause s) := by
  unfold wingFault
  refine keeps_ite h ?_
  extract_lets +lift other s1 s2 p s3 threads s4 legs s5 s6 d s7 k s0 s8 s9
  have h3 : Keeps z0 s3 := setWingPwr_keeps _ _ _ (raise_keeps _ _ (logOcc_keeps _ _ _ _ (setWingBits_keeps _ _ _ h)))
  clear_value s3
  have h4 : Keeps z0 s4 := keeps_foldl _ _ (fun _ _ h => endThread_keeps _ _ _ _ _ h) h3
  clear_value s4
  have h5 : Keeps z0 s5 := keeps_foldl _ _ (fun _ _ h => reissueLeg_keeps _ _ _ h) h4
  clear_value s5
  have h6 : Keeps z0 s6 := keeps_foldl _ _ (fun _ _ h => retireTask_keeps _ _ h) h5
  clear_value s6
  have h7 : Keeps z0 s7 := clearCores_keeps _ _ (setWing_keeps _ _ _ h6)
  clear_value s7
  have h8 : Keeps z0 s8 := by
    show Keeps z0 (match s7.kin.returning with
      | some r => if r.wing = w then (match r.cmd with
          | some c => completeCmd c stInternalDnr 0 0 [] { s7 with kin := { s7.kin with returning := none } }
          | none => { s7 with kin := { s7.kin with returning := none } }) else s7
      | none => s7)
    have k : Keeps z0 { s7 with kin := { s7.kin with returning := none } } := keeps_upd h7
    split
    · refine keeps_ite ?_ h7
      split
      · exact completeCmd_keeps _ _ _ _ _ _ k
      · exact k
    · exact h7
  clear_value s8
  have h9 : Keeps z0 s9 := rollStop_keeps _ _ h8
  exact keeps_ite (extinguish_keeps _ _ h9) h9

theorem moveTask_keeps {z0 : State} (key : Nat) (s : State) (h : Keeps z0 s) : Keeps z0 (moveTask key s) := by
  unfold moveTask
  try dsimp only
  with_reducible repeat' (first | assumption | apply switchOut_keeps | apply makeReady_keeps | apply unready_keeps | apply setCore_keeps |
                                 (fail_if_no_progress refine keeps_upd ?_) | refine keeps_ite ?_ ?_ | split)

theorem withdrawWing_keeps {z0 : State} (w : Nat) (s : State) (h : Keeps z0 s) : Keeps z0 (withdrawWing w s) := by
  unfold withdrawWing
  try dsimp only
  with_reducible repeat' (first | assumption | apply moveTask_keeps | apply clearCores_keeps | apply setWingBits_keeps | apply jobLost_keeps |
                                 apply updTask_keeps | apply logOcc_keeps | apply raise_keeps | apply setWingPwr_keeps |
                                 refine keeps_foldl _ _ (fun _ _ _ => ?_) ?_ | (fail_if_no_progress refine keeps_upd ?_) | (intro _))

theorem returnWing_keeps {z0 : State} (w : Nat) (s : State) (h : Keeps z0 s) : Keeps z0 (returnWing w s) := by
  unfold returnWing
  try dsimp only
  with_reducible repeat' (first | assumption | apply moveTask_keeps | apply setWingBits_keeps | apply logOcc_keeps | apply raise_keeps |
                                 refine keeps_foldl _ _ (fun _ _ _ => ?_) ?_ | (intro _))

theorem undoRecord_keeps {z0 : State} (s : State) (r : JRec) (h : Keeps z0 s) : Keeps z0 (undoRecord s r) := by
  unfold undoRecord
  try dsimp only
  with_reducible repeat' (first | assumption | apply ledgerMove_keeps | apply setBlk_keeps | apply wipePages_keeps |
                                 (fail_if_no_progress refine keeps_upd ?_) | refine keeps_ite ?_ ?_ | split)

theorem undoBlocks_keeps {z0 : State} (l : List JRec) (s : State) (h : Keeps z0 s) : Keeps z0 (undoBlocks l s) := by
  unfold undoBlocks
  try dsimp only
  with_reducible repeat' (first | assumption | apply undoRecord_keeps | refine keeps_foldl _ _ (fun _ _ _ => ?_) ?_)

theorem tearUnits_keeps {z0 : State} (s : State) (h : Keeps z0 s) : Keeps z0 (tearUnits s) := by
  unfold tearUnits
  try dsimp only
  with_reducible repeat' (first | assumption | refine keeps_foldl _ _ (fun _ _ _ => ?_) ?_ | (fail_if_no_progress refine keeps_upd ?_) | (intro _))

theorem mediaDark_keeps {z0 : State} (s : State) (h : Keeps z0 s) : Keeps z0 (mediaDark s) := by
  unfold mediaDark
  try dsimp only
  with_reducible repeat' (first | assumption | apply tearUnits_keeps | apply undoBlocks_keeps | (fail_if_no_progress refine keeps_upd ?_) | (intro _))

theorem hostDown_keeps {z0 : State} (s : State) (h : Keeps z0 s) : Keeps z0 (hostDown s) := by
  unfold hostDown
  try dsimp only
  with_reducible repeat' (first | assumption | (fail_if_no_progress refine keeps_upd ?_))

theorem enterDark_keeps {z0 : State} (hold : Bool) (s : State) (h : Keeps z0 s) : Keeps z0 (enterDark hold s) := by
  have h1 : Keeps z0 (hostDown (mediaDark s)) := hostDown_keeps _ (mediaDark_keeps _ h)
  unfold enterDark
  exact keeps_of h1 rfl rfl (Nat.min_le_right _ _) (lor_refl _) (fun _ => ⟨writeBytes_wf rfl, writeBytes_wf rfl, fun _ hq => nomatch hq⟩)
    (Nat.le_refl _) (Nat.min_le_right _ _)

theorem updForeign_keeps {z0 : State} (r : PartRef) (f : ForeignPart → ForeignPart) (s : State) (h : Keeps z0 s) : Keeps z0 (updForeign r f s) := by
  unfold updForeign
  try dsimp only
  with_reducible repeat' (first | assumption | (fail_if_no_progress refine keeps_upd ?_) | refine keeps_ite ?_ ?_ | (intro _) | split)

theorem updPart_keeps {z0 : State} (r : PartRef) (f : Part → Part) (s : State) (h : Keeps z0 s) : Keeps z0 (updPart r f s) := by
  unfold updPart
  try dsimp only
  with_reducible repeat' (first | assumption | apply updForeign_keeps | apply updCmd_keeps | (fail_if_no_progress refine keeps_upd ?_) |
                                 refine keeps_ite ?_ ?_ | (intro _) | split)

theorem markRebuilt_keeps {z0 : State} (nsid : Nat) (slba : Nat) (nlb : Nat) (s : State) (h : Keeps z0 s) : Keeps z0 (markRebuilt nsid slba nlb s) :=
    by
  unfold markRebuilt
  try dsimp only
  with_reducible repeat' (first | assumption | refine keeps_foldl _ _ (fun _ _ _ => ?_) ?_ | (fail_if_no_progress refine keeps_upd ?_) |
                                 refine keeps_ite ?_ ?_ | refine keeps_foldl_fst _ _ (fun _ _ _ => ?_) ?_ | (intro _) | split)

theorem takeLock_keeps {z0 : State} (e : LockEntry) (s : State) (h : Keeps z0 s) : Keeps z0 (takeLock e s) := by
  unfold takeLock
  try dsimp only
  with_reducible repeat' (first | assumption | (fail_if_no_progress refine keeps_upd ?_))

theorem dropLock_keeps {z0 : State} (r : PartRef) (s : State) (h : Keeps z0 s) : Keeps z0 (dropLock r s) := by
  unfold dropLock
  try dsimp only
  with_reducible repeat' (first | assumption | (fail_if_no_progress refine keeps_upd ?_) |
                                 (fail_if_no_progress refine keeps_updf (Nat.le_add_right _ _) ?_) | refine keeps_ite ?_ ?_ | (intro _) | split)

theorem admitPart_keeps {z0 : State} (r : PartRef) (write : Bool) (s : State) (h : Keeps z0 s) : Keeps z0 (admitPart r write s) := by
  unfold admitPart
  try dsimp only
  with_reducible repeat' (first | assumption | apply takeLock_keeps | apply updPart_keeps | (fail_if_no_progress refine keeps_upd ?_) |
                                 refine keeps_ite ?_ ?_ | (intro _) | split)

theorem sendParts_keeps {z0 : State} (dest : Nat) (kind : MsgKind) (nums : List Nat) (bytes : List Byte) (s : State) (h : Keeps z0 s) : Keeps z0
    (sendParts dest kind nums bytes s) := by
  unfold sendParts
  try dsimp only
  with_reducible repeat' (first | assumption | apply send_keeps | (fail_if_no_progress refine keeps_upd ?_) | refine keeps_ite ?_ ?_ | split)

theorem releaseRouted_keeps {z0 : State} (s : State) (h : Keeps z0 s) : Keeps z0 (releaseRouted s) := by
  unfold releaseRouted
  try dsimp only
  with_reducible repeat' (first | assumption | (fail_if_no_progress refine keeps_upd ?_) | refine keeps_ite ?_ ?_ | (intro _) | split)

theorem forwardPart_keeps {z0 : State} (c : OutCmd) (p : Part) (owner : Nat) (s : State) (h : Keeps z0 s) : Keeps z0 (forwardPart c p owner s) := by
  unfold forwardPart
  try dsimp only
  with_reducible repeat' (first | assumption | apply sendParts_keeps | apply cntMod_keeps | apply cntFnAdd_keeps | refine keeps_ite ?_ ?_ | split)

theorem askPlacement_keeps {z0 : State} (nsid : Nat) (bale : Nat) (s : State) (h : Keeps z0 s) : Keeps z0 (askPlacement nsid bale s) := by
  unfold askPlacement
  try dsimp only
  with_reducible repeat' (first | assumption | apply send_keeps | (fail_if_no_progress refine keeps_upd ?_) | refine keeps_ite ?_ ?_ | split)

theorem admitOne_keeps {z0 : State} (c : OutCmd) (s : State) (p : Part) (h : Keeps z0 s) : Keeps z0 (admitOne c s p) := by
  unfold admitOne
  try dsimp only
  with_reducible repeat' (first | assumption | apply askPlacement_keeps | apply forwardPart_keeps | apply admitPart_keeps | apply updPart_keeps |
                                 apply updCmd_keeps | (fail_if_no_progress refine keeps_upd ?_) | refine keeps_ite ?_ ?_ | (intro _) | split)

theorem admitCmd_keeps {z0 : State} (r : CmdRef) (s : State) (h : Keeps z0 s) : Keeps z0 (admitCmd r s) := by
  unfold admitCmd
  try dsimp only
  with_reducible repeat' (first | assumption | apply admitOne_keeps | refine keeps_foldl _ _ (fun _ _ _ => ?_) ?_ | split)

theorem lifeDone_keeps {z0 : State} (c : OutCmd) (s : State) (h : Keeps z0 s) : Keeps z0 (lifeDone c s) := by
  unfold lifeDone
  try dsimp only
  with_reducible repeat' (first | assumption | (fail_if_no_progress refine keeps_upd ?_) | refine keeps_ite ?_ ?_ | split)

theorem finishCmd_keeps {z0 : State} (r : CmdRef) (s : State) (h : Keeps z0 s) : Keeps z0 (finishCmd r s) := by
  unfold finishCmd
  try dsimp only
  with_reducible repeat' (first | assumption | apply lifeDone_keeps | apply completeCmd_keeps | refine keeps_ite ?_ ?_ | split)

theorem returnPart_keeps {z0 : State} (r : PartRef) (st : Status) (s : State) (h : Keeps z0 s) : Keeps z0 (returnPart r st s) := by
  unfold returnPart
  try dsimp only
  with_reducible repeat' (first | assumption | apply send_keeps | (fail_if_no_progress refine keeps_upd ?_) | (intro _))

theorem passOn_keeps {z0 : State} (f : ForeignPart) (owner : Nat) (s : State) (h : Keeps z0 s) : Keeps z0 (passOn f owner s) := by
  unfold passOn
  try dsimp only
  with_reducible repeat' (first | assumption | apply sendParts_keeps | apply send_keeps | (fail_if_no_progress refine keeps_upd ?_) |
                                 refine keeps_ite ?_ ?_ | (intro _) | split)

theorem admitForeign1_keeps {z0 : State} (s : State) (f : ForeignPart) (h : Keeps z0 s) : Keeps z0 (admitForeign1 s f) := by
  unfold admitForeign1
  try dsimp only
  with_reducible repeat' (first | assumption | apply passOn_keeps | apply askPlacement_keeps | apply admitPart_keeps | apply updPart_keeps |
                                 apply updForeign_keeps | (fail_if_no_progress refine keeps_upd ?_) | refine keeps_ite ?_ ?_ | (intro _) | split)

theorem admitForeign_keeps {z0 : State} (s : State) (h : Keeps z0 s) : Keeps z0 (admitForeign s) := by
  unfold admitForeign
  try dsimp only
  with_reducible repeat' (first | assumption | apply admitForeign1_keeps | refine keeps_foldl _ _ (fun _ _ _ => ?_) ?_ | refine keeps_ite ?_ ?_ |
                                 (intro _) | split)

theorem debtCheck_keeps {z0 : State} (s : State) (h : Keeps z0 s) : Keeps z0 (debtCheck s) := by
  unfold debtCheck
  try dsimp only
  with_reducible repeat' (first | assumption | apply raise_keeps | (fail_if_no_progress refine keeps_upd ?_) | refine keeps_ite ?_ ?_ | split)

theorem mirrorsDone_keeps {z0 : State} (r : PartRef) (s : State) (h : Keeps z0 s) : Keeps z0 (mirrorsDone r s) := by
  unfold mirrorsDone
  try dsimp only
  with_reducible repeat' (first | assumption | apply debtCheck_keeps | (fail_if_no_progress refine keeps_upd ?_) | refine keeps_ite ?_ ?_ | (intro _)
                                 | split)

theorem dropMirrors_keeps {z0 : State} (gs : List GrainId) (s : State) (h : Keeps z0 s) : Keeps z0 (dropMirrors gs s) := by
  unfold dropMirrors
  try dsimp only
  with_reducible repeat' (first | assumption | apply send_keeps | refine keeps_ite ?_ ?_ | (intro _) | split)

theorem mirrorsBack_keeps {z0 : State} (r : PartRef) (s : State) (h : Keeps z0 s) : Keeps z0 (mirrorsBack r s) := by
  unfold mirrorsBack
  try dsimp only
  with_reducible repeat' (first | assumption | apply dropMirrors_keeps | apply send_keeps | (fail_if_no_progress refine keeps_upd ?_) |
                                 refine keeps_ite ?_ ?_ | (intro _) | split)

theorem releasePart_keeps {z0 : State} (r : PartRef) (st : Option Status) (s : State) (h : Keeps z0 s) : Keeps z0 (releasePart r st s) := by
  unfold releasePart
  try dsimp only
  with_reducible repeat' (first | assumption | apply mirrorsDone_keeps | apply admitForeign_keeps | apply returnPart_keeps | apply finishCmd_keeps |
                                 apply dropLock_keeps | apply updPart_keeps | (fail_if_no_progress refine keeps_upd ?_) | refine keeps_ite ?_ ?_ |
                                 (intro _) | split)

theorem commitCmd_keeps {z0 : State} (r : PartRef) (s : State) (h : Keeps z0 s) : Keeps z0 (commitCmd r s) := by
  unfold commitCmd
  try dsimp only
  with_reducible repeat' (first | assumption | apply updForeign_keeps | apply updCmd_keeps | (fail_if_no_progress refine keeps_upd ?_) |
                                 refine keeps_ite ?_ ?_ | (intro _) | split)

theorem dropPart_keeps {z0 : State} (r : PartRef) (s0 : State) (h : Keeps z0 s0) : Keeps z0 (dropPart r s0) := by
  unfold dropPart
  try dsimp only
  with_reducible repeat' (first | assumption | apply mirrorsBack_keeps | (fail_if_no_progress refine keeps_upd ?_) | refine keeps_ite ?_ ?_ |
                                 (intro _) | split)

theorem dropCmd_keeps {z0 : State} (r : CmdRef) (s : State) (h : Keeps z0 s) : Keeps z0 (dropCmd r s) := by
  unfold dropCmd
  try dsimp only
  with_reducible repeat' (first | assumption | apply dropPart_keeps | apply admitForeign_keeps | apply releaseRouted_keeps | apply dropLock_keeps |
                                 refine keeps_foldl _ _ (fun _ _ _ => ?_) ?_ | (fail_if_no_progress refine keeps_upd ?_) | (intro _) | split)

theorem endCmd_keeps {z0 : State} (r : CmdRef) (st : Status) (s : State) (h : Keeps z0 s) : Keeps z0 (endCmd r st s) := by
  unfold endCmd
  try dsimp only
  with_reducible repeat' (first | assumption | apply dropPart_keeps | apply admitForeign_keeps | apply releaseRouted_keeps | apply dropLock_keeps |
                                 apply completeCmd_keeps | refine keeps_foldl _ _ (fun _ _ _ => ?_) ?_ | (fail_if_no_progress refine keeps_upd ?_) |
                                 (intro _) | split)

theorem releaseHeld_keeps {z0 : State} (nsid : Nat) (s : State) (h : Keeps z0 s) : Keeps z0 (releaseHeld nsid s) := by
  unfold releaseHeld
  try dsimp only
  with_reducible repeat' (first | assumption | apply admitCmd_keeps | apply updCmd_keeps | refine keeps_foldl _ _ (fun _ _ _ => ?_) ?_ |
                                 (fail_if_no_progress refine keeps_upd ?_) | refine keeps_ite ?_ ?_ | (intro _) | split)

theorem execPartBegin_keeps {z0 : State} (station : Fin 64) (r : CmdRef) (part : Nat) (s : State) (h : Keeps z0 s) : ∃ t, execPartBegin station r part
    s = .next t ∧ Keeps z0 t := by
  unfold execPartBegin
  refine ⟨_, rfl, ?_⟩
  try dsimp only
  with_reducible repeat' (first | assumption | apply updPart_keeps | (fail_if_no_progress refine keeps_upd ?_) | refine keeps_ite ?_ ?_ | (intro _) |
                                 split)

theorem setPiece_keeps {z0 : State} (p : Piece) (s : State) (h : Keeps z0 s) : Keeps z0 (setPiece p s) := by
  unfold setPiece
  try dsimp only
  with_reducible repeat' (first | assumption | (fail_if_no_progress refine keeps_upd ?_) | refine keeps_ite ?_ ?_ | (intro _) | split)

theorem sendPiece_keeps {z0 : State} (id : Nat) (s : State) (h : Keeps z0 s) : Keeps z0 (sendPiece id s) := by
  unfold sendPiece
  try dsimp only
  with_reducible repeat' (first | assumption | apply setPiece_keeps | apply send_keeps | refine keeps_foldl _ _ (fun _ _ _ => ?_) ?_ |
                                 (fail_if_no_progress refine keeps_upd ?_) | refine keeps_ite ?_ ?_ | refine keeps_foldl_fst _ _ (fun _ _ _ => ?_) ?_
                                 | (intro _) | split)

theorem releaseDebt_keeps {z0 : State} (ids : List GrainId) (s : State) (h : Keeps z0 s) : Keeps z0 (releaseDebt ids s) := by
  unfold releaseDebt
  try dsimp only
  with_reducible repeat' (first | assumption | apply dropMirrors_keeps | apply debtCheck_keeps | (fail_if_no_progress refine keeps_upd ?_) |
                                 (fail_if_no_progress refine keeps_updf (Nat.le_add_right _ _) ?_) | refine keeps_ite ?_ ?_ | (intro _) | split)

theorem pieceAdd_keeps {z0 : State} (g : GrainId) (img : GrainImg) (e : Nat) (s : State) (h : Keeps z0 s) : Keeps z0 (pieceAdd g img e s) := by
  unfold pieceAdd
  try dsimp only
  with_reducible repeat' (first | assumption | apply sendPiece_keeps | apply setPiece_keeps | apply send_keeps |
                                 (fail_if_no_progress refine keeps_upd ?_) | refine keeps_ite ?_ ?_ | (intro _) | split)

theorem recodePiece_keeps {z0 : State} (seg : Nat) (s : State) (h : Keeps z0 s) : Keeps z0 (recodePiece seg s) := by
  unfold recodePiece
  try dsimp only
  with_reducible repeat' (first | assumption | apply pieceAdd_keeps | apply setPiece_keeps | refine keeps_foldl _ _ (fun _ _ _ => ?_) ?_ |
                                 (fail_if_no_progress refine keeps_upd ?_) | refine keeps_foldl_fst _ _ (fun _ _ _ => ?_) ?_ | (intro _) | split)

theorem recodeDone_keeps {z0 : State} (s : State) (h : Keeps z0 s) : Keeps z0 (recodeDone s) := by
  unfold recodeDone
  try dsimp only
  with_reducible repeat' (first | assumption | apply setPiece_keeps | apply send_keeps | refine keeps_foldl _ _ (fun _ _ _ => ?_) ?_ |
                                 (fail_if_no_progress refine keeps_upd ?_) | refine keeps_ite ?_ ?_ | (intro _) | split)

theorem segMember_keeps {z0 : State} (nums : List Nat) (s : State) (h : Keeps z0 s) : Keeps z0 (segMember nums s) := by
  unfold segMember
  try dsimp only
  with_reducible repeat' (first | assumption | apply recodePiece_keeps | apply releaseDebt_keeps | apply sendPiece_keeps | apply setPiece_keeps |
                                 refine keeps_foldl _ _ (fun _ _ _ => ?_) ?_ | (fail_if_no_progress refine keeps_upd ?_) | refine keeps_ite ?_ ?_ |
                                 refine keeps_foldl_fst _ _ (fun _ _ _ => ?_) ?_ | (intro _) | split)

theorem setSeg_keeps {z0 : State} (g : Nat) (x : Segment) (s : State) (h : Keeps z0 s) : Keeps z0 (setSeg g x s) := by
  unfold setSeg
  try dsimp only
  with_reducible repeat' (first | assumption | (fail_if_no_progress refine keeps_upd ?_))

theorem tellSeg_keeps {z0 : State} (ms : List Nat) (nums : List Nat) (s : State) (h : Keeps z0 s) : Keeps z0 (tellSeg ms nums s) := by
  unfold tellSeg
  try dsimp only
  with_reducible repeat' (first | assumption | apply send_keeps | refine keeps_foldl _ _ (fun _ _ _ => ?_) ?_ | (intro _))

theorem tellBound_keeps {z0 : State} (g : Nat) (s : State) (h : Keeps z0 s) : Keeps z0 (tellBound g s) := by
  unfold tellBound
  try dsimp only
  with_reducible repeat' (first | assumption | apply send_keeps | refine keeps_foldl _ _ (fun _ _ _ => ?_) ?_ | refine keeps_ite ?_ ?_ |
                                 refine keeps_foldl_fst _ _ (fun _ _ _ => ?_) ?_ | (intro _) | split)

theorem closeSeg_keeps {z0 : State} (g : Nat) (s : State) (h : Keeps z0 s) : Keeps z0 (closeSeg g s) := by
  unfold closeSeg
  try dsimp only
  with_reducible repeat' (first | assumption | apply tellBound_keeps | apply setSeg_keeps | refine keeps_foldl _ _ (fun _ _ _ => ?_) ?_ |
                                 (fail_if_no_progress refine keeps_upd ?_) | refine keeps_ite ?_ ?_ | refine keeps_foldl_fst _ _ (fun _ _ _ => ?_) ?_
                                 | (intro _) | split)

theorem bindPiece_keeps {z0 : State} (owner : Nat) (piece : Nat) (group : Nat) (s : State) (h : Keeps z0 s) : Keeps z0 (bindPiece owner piece group s)
    := by
  unfold bindPiece
  try dsimp only
  with_reducible repeat' (first | assumption | apply closeSeg_keeps | apply setSeg_keeps | (fail_if_no_progress refine keeps_upd ?_) |
                                 refine keeps_ite ?_ ?_ | (intro _) | split)

theorem checkSeg_keeps {z0 : State} (g : Nat) (s : State) (h : Keeps z0 s) : Keeps z0 (checkSeg g s) := by
  unfold checkSeg
  try dsimp only
  with_reducible repeat' (first | assumption | apply tellSeg_keeps | apply setSeg_keeps | refine keeps_foldl _ _ (fun _ _ _ => ?_) ?_ |
                                 (fail_if_no_progress refine keeps_upd ?_) | refine keeps_ite ?_ ?_ | (intro _) | split)

theorem tellLens_keeps {z0 : State} (g : Nat) (s : State) (h : Keeps z0 s) : Keeps z0 (tellLens g s) := by
  unfold tellLens
  try dsimp only
  with_reducible repeat' (first | assumption | apply checkSeg_keeps | apply tellSeg_keeps | refine keeps_ite ?_ ?_ | (intro _) | split)

theorem pieceEnds_keeps {z0 : State} (owner : Nat) (piece : Nat) (n : Nat) (s : State) (h : Keeps z0 s) : Keeps z0 (pieceEnds owner piece n s) := by
  unfold pieceEnds
  try dsimp only
  with_reducible repeat' (first | assumption | apply tellLens_keeps | apply setSeg_keeps | (fail_if_no_progress refine keeps_upd ?_) | (intro _) |
                                 split)

theorem checkRecode_keeps {z0 : State} (g : Nat) (s : State) (h : Keeps z0 s) : Keeps z0 (checkRecode g s) := by
  unfold checkRecode
  try dsimp only
  with_reducible repeat' (first | assumption | apply tellSeg_keeps | apply setSeg_keeps | (fail_if_no_progress refine keeps_upd ?_) |
                                 refine keeps_ite ?_ ?_ | (intro _) | split)

theorem checkRelease_keeps {z0 : State} (g : Nat) (s : State) (h : Keeps z0 s) : Keeps z0 (checkRelease g s) := by
  unfold checkRelease
  try dsimp only
  with_reducible repeat' (first | assumption | apply tellSeg_keeps | (fail_if_no_progress refine keeps_upd ?_) | refine keeps_ite ?_ ?_ | (intro _) |
                                 split)

theorem recodeOf_keeps {z0 : State} (m : Nat) (s : State) (h : Keeps z0 s) : Keeps z0 (recodeOf m s) := by
  unfold recodeOf
  try dsimp only
  with_reducible repeat' (first | assumption | apply checkRelease_keeps | apply tellSeg_keeps | apply setSeg_keeps |
                                 refine keeps_foldl _ _ (fun _ _ _ => ?_) ?_ | (fail_if_no_progress refine keeps_upd ?_) | refine keeps_ite ?_ ?_ |
                                 refine keeps_foldl_fst _ _ (fun _ _ _ => ?_) ?_ | (intro _) | split)

theorem replaceHolder_keeps {z0 : State} (m : Nat) (s : State) (h : Keeps z0 s) : Keeps z0 (replaceHolder m s) := by
  unfold replaceHolder
  try dsimp only
  with_reducible repeat' (first | assumption | apply tellLens_keeps | apply tellBound_keeps | apply setSeg_keeps |
                                 refine keeps_foldl _ _ (fun _ _ _ => ?_) ?_ | (fail_if_no_progress refine keeps_upd ?_) | refine keeps_ite ?_ ?_ |
                                 refine keeps_foldl_fst _ _ (fun _ _ _ => ?_) ?_ | (intro _) | split)

theorem segLead_keeps {z0 : State} (nums : List Nat) (s : State) (h : Keeps z0 s) : Keeps z0 (segLead nums s) := by
  unfold segLead
  try dsimp only
  with_reducible repeat' (first | assumption | apply checkRelease_keeps | apply checkRecode_keeps | apply checkSeg_keeps | apply setSeg_keeps |
                                 (fail_if_no_progress refine keeps_upd ?_) | refine keeps_ite ?_ ?_ | split)

theorem segMessage_keeps {z0 : State} (station : Nat) (m : StMsg) (s : State) (h : Keeps z0 s) : Keeps z0 (segMessage station m s) := by
  unfold segMessage
  try dsimp only
  with_reducible repeat' (first | assumption | apply segLead_keeps | apply pieceEnds_keeps | apply bindPiece_keeps | apply segMember_keeps |
                                 refine keeps_ite ?_ ?_ | split)

theorem drainSelf_keeps {z0 : State} (n : Nat) (s : State) (h : Keeps z0 s) : Keeps z0 (drainSelf n s) := by
  induction n generalizing s with
  | zero => exact h
  | succ n ih =>
    unfold drainSelf
    split
    · exact h
    · exact ih _ (segMessage_keeps _ _ _ (keeps_upd h))

theorem cacheAdd_keeps {z0 : State} (g : GrainItem) (wait : CacheWait) (w : Nat) (s : State) (h : Keeps z0 s) : Keeps z0 (cacheAdd g wait w s) := by
  unfold cacheAdd
  try dsimp only
  with_reducible repeat' (first | assumption | (fail_if_no_progress refine keeps_upd ?_))

theorem mergeInto_keeps {z0 : State} (k : Nat) (new : GrainItem) (s : State) (h : Keeps z0 s) : Keeps z0 (mergeInto k new s) := by
  unfold mergeInto
  try dsimp only
  with_reducible repeat' (first | assumption | apply cacheAdd_keeps | (fail_if_no_progress refine keeps_upd ?_) | refine keeps_ite ?_ ?_ | (intro _) |
                                 split)

theorem routeRaw_keeps {z0 : State} (w : Nat) (g : GrainItem) (s : State) (h : Keeps z0 s) : Keeps z0 (routeRaw w g s) := by
  unfold routeRaw
  try dsimp only
  with_reducible repeat' (first | assumption | apply cacheAdd_keeps | apply routeItem_keeps | refine placeItem_keeps_of_eq (by assumption) ?_ |
                                 apply placeItem_keeps | refine keeps_ite ?_ ?_ | split)

theorem startGrain_keeps {z0 : State} (w : Nat) (g : GrainItem) (s : State) (h : Keeps z0 s) : Keeps z0 (startGrain w g s) := by
  unfold startGrain
  try dsimp only
  with_reducible repeat' (first | assumption | apply routeRaw_keeps | apply cacheAdd_keeps | refine keeps_ite ?_ ?_ | split)

theorem beginGrain_keeps {z0 : State} (w : Nat) (g : GrainItem) (s : State) (h : Keeps z0 s) : Keeps z0 (beginGrain w g s) := by
  unfold beginGrain
  try dsimp only
  with_reducible repeat' (first | assumption | apply startGrain_keeps | apply cacheAdd_keeps | apply addRead_keeps | refine keeps_ite ?_ ?_ | split)

theorem landGrain_keeps {z0 : State} (g : GrainItem) (s : State) (h : Keeps z0 s) : Keeps z0 (landGrain g s) := by
  unfold landGrain
  try dsimp only
  with_reducible repeat' (first | assumption | apply beginGrain_keeps | apply mergeInto_keeps | apply cacheAdd_keeps |
                                 (fail_if_no_progress refine keeps_upd ?_) | refine keeps_ite ?_ ?_ | split)

theorem freeEarlier_keeps {z0 : State} (k : Nat) (s : State) (h : Keeps z0 s) : Keeps z0 (freeEarlier k s) := by
  unfold freeEarlier
  try dsimp only
  with_reducible repeat' (first | assumption | apply beginGrain_keeps | (fail_if_no_progress refine keeps_upd ?_) | refine keeps_ite ?_ ?_ | (intro _)
                                 | split)

theorem overlayRead_keeps {z0 : State} (id : GrainId) (s : State) (h : Keeps z0 s) : Keeps z0 (overlayRead id s) := by
  unfold overlayRead
  try dsimp only
  with_reducible repeat' (first | assumption | apply startGrain_keeps | (fail_if_no_progress refine keeps_upd ?_) | (intro _) | split)

theorem routeMove_keeps {z0 : State} (w : Nat) (g : GrainItem) (s : State) (h : Keeps z0 s) : Keeps z0 (routeMove w g s) := by
  unfold routeMove
  try dsimp only
  with_reducible repeat' (first | assumption | apply cacheAdd_keeps | refine placeItem_keeps_of_eq (by assumption) ?_ | apply placeItem_keeps |
                                 apply placeOn_keeps | (fail_if_no_progress refine keeps_upd ?_) | refine keeps_ite ?_ ?_ | split)

theorem placeGrain_keeps {z0 : State} (w : Nat) (g : GrainItem) (s : State) (h : Keeps z0 s) : Keeps z0 (placeGrain w g s) := by
  unfold placeGrain
  try dsimp only
  with_reducible repeat' (first | assumption | apply routeMove_keeps | apply routeRaw_keeps | refine keeps_ite ?_ ?_ | split)

theorem closePage_keeps {z0 : State} (k : Nat) (s : State) (h : Keeps z0 s) : Keeps z0 (closePage k s) := by
  unfold closePage
  try dsimp only
  with_reducible repeat' (first | assumption | apply routeItem_keeps | refine placeItem_keeps_of_eq (by assumption) ?_ | apply placeItem_keeps |
                                 (fail_if_no_progress refine keeps_upd ?_) | refine keeps_ite ?_ ?_ | split)

theorem closePacked_keeps {z0 : State} (w : Nat) (s : State) (h : Keeps z0 s) : Keeps z0 (closePacked w s) := by
  unfold closePacked
  try dsimp only
  with_reducible repeat' (first | assumption | apply closePage_keeps | refine keeps_ite ?_ ?_ | split)

theorem packGrain_keeps {z0 : State} (w : Nat) (g : GrainItem) (len : Nat) (s : State) (h : Keeps z0 s) : Keeps z0 (packGrain w g len s) := by
  unfold packGrain
  try dsimp only
  with_reducible repeat' (first | assumption | apply closePage_keeps | apply cacheAdd_keeps | (fail_if_no_progress refine keeps_upd ?_) |
                                 refine keeps_ite ?_ ?_ | split)

theorem retryRoom_keeps {z0 : State} (s : State) (h : Keeps z0 s) : Keeps z0 (retryRoom s) := by
  unfold retryRoom
  try dsimp only
  with_reducible repeat' (first | assumption | apply packGrain_keeps | apply placeGrain_keeps | refine keeps_foldl _ _ (fun _ _ _ => ?_) ?_ |
                                 (fail_if_no_progress refine keeps_upd ?_) | (intro _) | split)

theorem addRecords_keeps {z0 : State} (ps : List PartRef) (s : State) (h : Keeps z0 s) : Keeps z0 (addRecords ps s) := by
  unfold addRecords
  try dsimp only
  with_reducible repeat' (first | assumption | apply updPart_keeps | refine keeps_foldl _ _ (fun _ _ _ => ?_) ?_ |
                                 (fail_if_no_progress refine keeps_upd ?_) | (intro _))

theorem journalGrains_keeps {z0 : State} (l : List (GrainItem × Nat)) (s : State) (h : Keeps z0 s) : Keeps z0 (journalGrains l s) := by
  unfold journalGrains
  try dsimp only
  with_reducible repeat' (first | assumption | apply addRecords_keeps | apply jrn_keeps | refine keeps_foldl _ _ (fun _ _ _ => ?_) ?_ |
                                 refine keeps_foldl_fst _ _ (fun _ _ _ => ?_) ?_ | (intro _))

theorem journalLanded_keeps {z0 : State} (s : State) (h : Keeps z0 s) : Keeps z0 (journalLanded s) := by
  unfold journalLanded
  try dsimp only
  with_reducible repeat' (first | assumption | apply journalGrains_keeps | refine keeps_foldl _ _ (fun _ _ _ => ?_) ?_ |
                                 (fail_if_no_progress refine keeps_upd ?_) | refine keeps_ite ?_ ?_ | refine keeps_foldl_fst _ _ (fun _ _ _ => ?_) ?_
                                 | (intro _) | split)

theorem settlePart_keeps {z0 : State} (r : PartRef) (s : State) (h : Keeps z0 s) : Keeps z0 (settlePart r s) := by
  unfold settlePart
  try dsimp only
  with_reducible repeat' (first | assumption | apply releasePart_keeps | refine keeps_ite ?_ ?_ | split)

theorem pumpBlock_keeps {z0 : State} (bk : Nat) (w : Nat) (why : MoveWhy) (s : State) (h : Keeps z0 s) : Keeps z0 (pumpBlock bk w why s) := by
  unfold pumpBlock
  try dsimp only
  with_reducible repeat' (first | assumption | apply addRead_keeps | refine keeps_foldl _ _ (fun _ _ _ => ?_) ?_ | refine keeps_ite ?_ ?_ |
                                 refine keeps_foldl_fst _ _ (fun _ _ _ => ?_) ?_ | (intro _) | split)

theorem pumpAll_keeps {z0 : State} (s : State) (h : Keeps z0 s) : Keeps z0 (pumpAll s) := by
  unfold pumpAll
  try dsimp only
  with_reducible repeat' (first | assumption | apply pumpBlock_keeps | refine keeps_foldl _ _ (fun _ _ _ => ?_) ?_ |
                                 (fail_if_no_progress refine keeps_upd ?_) | refine keeps_ite ?_ ?_ | (intro _) | split)

theorem remapBlock_keeps {z0 : State} (host : List Nat) (bk : Nat) (s : State) (h : Keeps z0 s) : Keeps z0 (remapBlock host bk s) := by
  unfold remapBlock
  try dsimp only
  with_reducible repeat' (first | assumption | apply healthAdd_keeps | apply blkState_keeps | apply jrn_keeps | apply setBlk_keeps |
                                 refine keeps_foldl _ _ (fun _ _ _ => ?_) ?_ | (fail_if_no_progress refine keeps_upd ?_) | refine keeps_ite ?_ ?_ |
                                 (intro _) | split)

theorem sealNote_keeps {z0 : State} (bk : Nat) (s : State) (h : Keeps z0 s) : Keeps z0 (sealNote bk s) := by
  unfold sealNote
  try dsimp only
  with_reducible repeat' (first | assumption | (fail_if_no_progress refine keeps_upd ?_) | (intro _))

theorem sourcesDue_keeps {z0 : State} (s : State) (h : Keeps z0 s) : Keeps z0 (sourcesDue s) := by
  unfold sourcesDue
  try dsimp only
  with_reducible repeat' (first | assumption | apply remapBlock_keeps | apply blkState_keeps | refine keeps_foldl _ _ (fun _ _ _ => ?_) ?_ |
                                 (fail_if_no_progress refine keeps_upd ?_) | refine keeps_ite ?_ ?_ | refine keeps_foldl_fst _ _ (fun _ _ _ => ?_) ?_
                                 | (intro _) | split)

theorem startErases_keeps {z0 : State} (s : State) (h : Keeps z0 s) : Keeps z0 (startErases s) := by
  unfold startErases
  try dsimp only
  with_reducible repeat' (first | assumption | (fail_if_no_progress refine keeps_upd ?_) | refine keeps_ite ?_ ?_ | (intro _) | split)

theorem setEntry_keeps {z0 : State} (nsid : Nat) (bale : Nat) (grain : Nat) (e : Nat) (s : State) (h : Keeps z0 s) : Keeps z0 (setEntry nsid bale
    grain e s) := by
  unfold setEntry
  try dsimp only
  with_reducible repeat' (first | assumption | apply markDirty_keeps | apply touchRun_keeps | (fail_if_no_progress refine keeps_upd ?_) |
                                 refine keeps_ite ?_ ?_ | split)

theorem takeMapBlock_keeps {z0 : State} (nsid : Nat) (bale : Nat) (d : DirEntry) (s : State) (h : Keeps z0 s) : Keeps z0 (takeMapBlock nsid bale d s)
    := by
  unfold takeMapBlock
  try dsimp only
  with_reducible repeat' (first | assumption | apply clearPages_keeps | apply touchRun_keeps | refine keeps_foldl _ _ (fun _ _ _ => ?_) ?_ |
                                 refine keeps_ite ?_ ?_ | refine keeps_foldl_fst _ _ (fun _ _ _ => ?_) ?_ | (intro _) | split)

theorem setDir_keeps {z0 : State} (nsid : Nat) (bale : Nat) (d : DirEntry) (act : JAct) (s0 : State) (h : Keeps z0 s0) : Keeps z0 (setDir nsid bale d
    act s0) := by
  unfold setDir
  try dsimp only
  with_reducible repeat' (first | assumption | apply takeMapBlock_keeps | apply jrn_keeps | (fail_if_no_progress refine keeps_upd ?_))

theorem announceDir_keeps {z0 : State} (nsid : Nat) (bale : Nat) (d : DirEntry) (s : State) (h : Keeps z0 s) : Keeps z0 (announceDir nsid bale d s) :=
    by
  unfold announceDir
  try dsimp only
  with_reducible repeat' (first | assumption | apply sendAll_keeps | apply send_keeps | refine keeps_foldl _ _ (fun _ _ _ => ?_) ?_ |
                                 (fail_if_no_progress refine keeps_upd ?_) | refine keeps_ite ?_ ?_ | (intro _) | split)

theorem tellDir_keeps {z0 : State} (nsid : Nat) (bale : Nat) (d : DirEntry) (s : State) (h : Keeps z0 s) : Keeps z0 (tellDir nsid bale d s) := by
  unfold tellDir
  try dsimp only
  with_reducible repeat' (first | assumption | apply announceDir_keeps | apply send_keeps | refine keeps_ite ?_ ?_ | split)

theorem emptyBale_keeps {z0 : State} (nsid : Nat) (bale : Nat) (s : State) (h : Keeps z0 s) : Keeps z0 (emptyBale nsid bale s) := by
  unfold emptyBale
  try dsimp only
  with_reducible repeat' (first | assumption | apply tellDir_keeps | apply setDir_keeps | (fail_if_no_progress refine keeps_upd ?_) |
                                 refine keeps_ite ?_ ?_ | split)

theorem mediaSettle_keeps {z0 : State} (s : State) (h : Keeps z0 s) : Keeps z0 (mediaSettle s) := by
  unfold mediaSettle
  try dsimp only
  with_reducible repeat' (first | assumption | apply emptyBale_keeps | apply startErases_keeps | apply sourcesDue_keeps | apply pumpAll_keeps |
                                 refine keeps_foldl _ _ (fun _ _ _ => ?_) ?_ | refine keeps_foldl_fst _ _ (fun _ _ _ => ?_) ?_ | (intro _))

theorem lostClear_keeps {z0 : State} (k : Nat) (bits : Nat) (all : Bool) (s : State) (h : Keeps z0 s) : Keeps z0 (lostClear k bits all s) := by
  unfold lostClear
  try dsimp only
  with_reducible repeat' (first | assumption | (fail_if_no_progress refine keeps_upd ?_) | refine keeps_ite ?_ ?_ | split)

theorem markMove_keeps {z0 : State} (nsid : Nat) (bale : Nat) (grain : Nat) (s : State) (h : Keeps z0 s) : Keeps z0 (markMove nsid bale grain s) := by
  unfold markMove
  try dsimp only
  with_reducible repeat' (first | assumption | (fail_if_no_progress refine keeps_upd ?_) | refine keeps_ite ?_ ?_ | (intro _) | split)

theorem applySet_keeps {z0 : State} (moveIn : Bool) (nsid : Nat) (bale : Nat) (s : State) (x : Nat × Nat) (h : Keeps z0 s) : Keeps z0 (applySet moveIn
    nsid bale s x) := by
  unfold applySet
  try dsimp only
  with_reducible repeat' (first | assumption | apply markMove_keeps | apply lostClear_keeps | apply setEntry_keeps | apply freeEarlier_keeps |
                                 apply pieceAdd_keeps | apply markRebuilt_keeps | refine keeps_ite ?_ ?_ | split)

theorem applyMove_keeps {z0 : State} (why : MoveWhy) (nsid : Nat) (bale : Nat) (s : State) (x : Nat × Nat × Nat) (h : Keeps z0 s) : Keeps z0
    (applyMove why nsid bale s x) := by
  unfold applyMove
  try dsimp only
  with_reducible repeat' (first | assumption | apply setEntry_keeps | apply healthAdd_keeps | apply setBlk_keeps |
                                 (fail_if_no_progress refine keeps_upd ?_) | refine keeps_ite ?_ ?_ | (intro _) | split)

theorem applyTrim_keeps {z0 : State} (nsid : Nat) (bale : Nat) (first : Nat) (count : Nat) (s : State) (h : Keeps z0 s) : Keeps z0 (applyTrim nsid
    bale first count s) := by
  unfold applyTrim
  try dsimp only
  with_reducible repeat' (first | assumption | apply markMove_keeps | apply lostClear_keeps | apply emptyBale_keeps | apply setEntry_keeps |
                                 apply count_keeps | refine keeps_foldl _ _ (fun _ _ _ => ?_) ?_ | refine keeps_ite ?_ ?_ |
                                 refine keeps_foldl_fst _ _ (fun _ _ _ => ?_) ?_ | (intro _) | split)

theorem applyDir_keeps {z0 : State} (w : Nat) (s : State) (h : Keeps z0 s) : Keeps z0 (applyDir w s) := by
  unfold applyDir
  try dsimp only
  with_reducible repeat' (first | assumption | (fail_if_no_progress refine keeps_upd ?_) | refine keeps_ite ?_ ?_ | split)

theorem applyBody_keeps {z0 : State} (r : JRec) (s : State) (h : Keeps z0 s) : Keeps z0 (applyBody r s) := by
  unfold applyBody
  try dsimp only
  with_reducible repeat' (first | assumption | apply retire_keeps | apply applyDir_keeps | apply applyTrim_keeps | apply applyMove_keeps |
                                 apply applySet_keeps | refine keeps_foldl _ _ (fun _ _ _ => ?_) ?_ | refine keeps_ite ?_ ?_ | split)

end Sys2Proof.Machine
end

