-- ==== Sys2Proof/Laws/KeepsPlace.lean ====
section
/-! SUPPORT. What every step keeps (`Keeps`): sieve, placement, media and power commands. For each operation `f` the lemma `f_keeps` says that it keeps it;
for the meaning of a command it says that the command has a next state and keeps it. -/

namespace Sys2Proof.Machine

set_option Elab.async false
set_option linter.all false
set_option maxRecDepth 20000

theorem setSiv_keeps {z0 : State} (ch : Nat) (c : SivCh) (s : State) (h : Keeps z0 s) : Keeps z0 (setSiv ch c s) := by
  unfold setSiv
  try dsimp only
  with_reducible repeat' (first | assumption | (fail_if_no_progress refine keeps_upd ?_))

theorem onLeg_keeps {z0 : State} (l : RunLeg) (f : RunLeg → RunLeg) (s : State) (h : Keeps z0 s) : Keeps z0 (onLeg l f s) := by
  unfold onLeg
  try dsimp only
  with_reducible repeat' (first | assumption | apply updLeg_keeps)

theorem postBatch_keeps {z0 : State} (l : RunLeg) (b : Batch) (s : State) (h : Keeps z0 s) : Keeps z0 (postBatch l b s).1 := by
  unfold postBatch
  try dsimp only
  with_reducible repeat' (first | assumption | apply onLeg_keeps | apply stagingWrite_keeps | apply raise_keeps |
                                 refine postTo_keeps_of_eq (by assumption) ?_ | apply postTo_keeps | (fail_if_no_progress refine keeps_upd ?_) |
                                 refine keeps_ite ?_ ?_ | (intro _) | split)

theorem postBatch_keeps_of_eq {z0 : State} {l : RunLeg} {b : Batch} {s : State} {t : State} {x1} (e : postBatch l b s = (t, x1)) (h : Keeps z0 s) :
    Keeps z0 t := by
  have := postBatch_keeps l b s h
  rw [e] at this
  exact this

theorem openBatch_keeps {z0 : State} {l : RunLeg} {ch q : Nat} {e : List Byte} {s t : State} (he : openBatch l ch q e s = some t) (h : Keeps z0 s) :
    Keeps z0 t := by
  unfold openBatch at he
  split at he
  · cases he
  · split at he
    · cases he
    · cases he
      refine onLeg_keeps _ _ _ ?_
      exact stagingWrite_keeps _ _ _ _ h

theorem stageRec_keeps {z0 : State} (l : RunLeg) (ch : Nat) (r : RecEval) (s : State) (h : Keeps z0 s) : Keeps z0 (stageRec l ch r s).1 := by
  have open1 : ∀ (l : RunLeg) (s : State), Keeps z0 s → Keeps z0 (match openBatch l ch r.queue (batchEntry ch r) s with
      | some s1 => (s1, StageStop.staged) | none => (s, .noBatch)).1 := by
    intro l s h
    split
    · exact openBatch_keeps (by assumption) h
    · exact h
  unfold stageRec
  dsimp only
  split
  · exact open1 l s h
  · split
    · exact onLeg_keeps _ _ _ (stagingWrite_keeps _ _ _ _ h)
    · split
      · exact postBatch_keeps_of_eq (by assumption) h
      · exact open1 _ _ (postBatch_keeps_of_eq (by assumption) h)

theorem stageRec_keeps_of_eq {z0 : State} {l : RunLeg} {ch : Nat} {r : RecEval} {s : State} {t : State} {x1} (e : stageRec l ch r s = (t, x1)) (h :
    Keeps z0 s) : Keeps z0 t := by
  have := stageRec_keeps l ch r s h
  rw [e] at this
  exact this

theorem postPartial_keeps {z0 : State} (l : RunLeg) (ch : Nat) (s : State) (h : Keeps z0 s) : Keeps z0 (postPartial l ch s).1 := by
  unfold postPartial
  try dsimp only
  with_reducible repeat' (first | assumption | refine postBatch_keeps_of_eq (by assumption) ?_ | apply postBatch_keeps |
                                 refine keeps_foldl _ _ (fun _ _ _ => ?_) ?_ | refine keeps_ite ?_ ?_ |
                                 refine keeps_foldl_fst _ _ (fun _ _ _ => ?_) ?_ | (intro _) | split)

theorem postPartial_keeps_of_eq {z0 : State} {l : RunLeg} {ch : Nat} {s : State} {t : State} {x1} (e : postPartial l ch s = (t, x1)) (h : Keeps z0 s)
    : Keeps z0 t := by
  have := postPartial_keeps l ch s h
  rw [e] at this
  exact this

theorem legChannelEnd_keeps {z0 : State} (ch : Nat) (s : State) (l : RunLeg) (h : Keeps z0 s) : Keeps z0 (legChannelEnd ch s l) := by
  unfold legChannelEnd
  try dsimp only
  with_reducible repeat' (first | assumption | refine postPartial_keeps_of_eq (by assumption) ?_ | apply postPartial_keeps | apply onLeg_keeps |
                                 apply setSiv_keeps | apply legCheckEnd_keeps | (fail_if_no_progress refine keeps_upd ?_) | refine keeps_ite ?_ ?_ |
                                 (intro _) | split)

theorem legSweep_keeps {z0 : State} (ch : Nat) (s : State) (h : Keeps z0 s) : Keeps z0 (legSweep ch s) := by
  unfold legSweep
  try dsimp only
  with_reducible repeat' (first | assumption | apply legChannelEnd_keeps | refine keeps_foldl _ _ (fun _ _ _ => ?_) ?_)

theorem onSummary_keeps {z0 : State} (l : RunLeg) (f : LegSummary → LegSummary) (s : State) (h : Keeps z0 s) : Keeps z0 (onSummary l f s) := by
  unfold onSummary
  try dsimp only
  with_reducible repeat' (first | assumption | apply onLeg_keeps | (fail_if_no_progress refine keeps_upd ?_) | (intro _))

theorem sivMalformed_keeps {z0 : State} (ch : Nat) (cause : Nat) (l : RunLeg) (r : ScanRead) (s : State) (h : Keeps z0 s) : Keeps z0 (sivMalformed ch
    cause l r s) := by
  unfold sivMalformed
  try dsimp only
  with_reducible repeat' (first | assumption | apply onSummary_keeps | apply setSiv_keeps | apply raise_keeps |
                                 (fail_if_no_progress refine keeps_upd ?_) | refine keeps_ite ?_ ?_ | (intro _) | split)

theorem sivDrop_keeps {z0 : State} (ch : Nat) (s : State) (h : Keeps z0 s) : Keeps z0 (sivDrop ch s) := by
  unfold sivDrop
  try dsimp only
  with_reducible repeat' (first | assumption | apply setSiv_keeps | (fail_if_no_progress refine keeps_upd ?_))

theorem sivBegin_keeps {z0 : State} (ch : Nat) (r : ScanRead) (s : State) (h : Keeps z0 s) : Keeps z0 (sivBegin ch r s) := by
  unfold sivBegin
  try dsimp only
  with_reducible repeat' (first | assumption | apply sivDrop_keeps | apply onSummary_keeps | apply setSiv_keeps |
                                 (fail_if_no_progress refine keeps_upd ?_) | refine keeps_ite ?_ ?_ | (intro _) | split)

theorem sivPop_keeps {z0 : State} (l : RunLeg) (ch : Nat) (s : State) (h : Keeps z0 s) : Keeps z0 (sivPop l ch s) := by
  unfold sivPop
  try dsimp only
  with_reducible repeat' (first | assumption | apply onSummary_keeps | apply setSiv_keeps | (fail_if_no_progress refine keeps_upd ?_) |
                                 refine keeps_ite ?_ ?_ | (intro _) | split)

theorem sivRun_keeps {z0 : State} (ch : Nat) (read : ScanRead) (x : Nat)  (s : State) (h : Keeps z0 s) : Keeps z0 (sivRun ch read x  s) := by
  induction x generalizing s  with
  | zero =>
    unfold sivRun
    with_reducible repeat' (first | assumption | apply sivPop_keeps | apply sivDrop_keeps | apply sivMalformed_keeps | apply onSummary_keeps |
                                   refine stageRec_keeps_of_eq (by assumption) ?_ | apply stageRec_keeps | apply setSiv_keeps | apply stage_keeps |
                                   apply count_keeps | (fail_if_no_progress refine keeps_upd ?_) | (intro _) | split)
  | succ n ih =>
    unfold sivRun
    try dsimp only
    with_reducible repeat' (first | assumption | apply ih | apply sivPop_keeps | apply sivDrop_keeps | apply sivMalformed_keeps |
                                   apply onSummary_keeps | refine stageRec_keeps_of_eq (by assumption) ?_ | apply stageRec_keeps | apply setSiv_keeps
                                   | apply stage_keeps | apply count_keeps | (fail_if_no_progress refine keeps_upd ?_) | (intro _) | split)

theorem sivGo_keeps {z0 : State} (ch : Nat) (s : State) (h : Keeps z0 s) : Keeps z0 (sivGo ch s) := by
  unfold sivGo
  try dsimp only
  with_reducible repeat' (first | assumption | apply sivRun_keeps | apply sivBegin_keeps | apply legSweep_keeps | apply setSiv_keeps |
                                 (fail_if_no_progress refine keeps_upd ?_) | refine keeps_ite ?_ ?_ | split)

theorem sivRetry_keeps {z0 : State} (out : Bool) (post : Bool) (s : State) (ch : Nat) (h : Keeps z0 s) : Keeps z0 (sivRetry out post s ch) := by
  unfold sivRetry
  try dsimp only
  with_reducible repeat' (first | assumption | apply sivGo_keeps | refine keeps_ite ?_ ?_ | split)

theorem placeLocal_keeps {z0 : State} (nsid : Nat) (bale : Nat) (s : State) (h : Keeps z0 s) : Keeps z0 (placeLocal nsid bale s) := by
  unfold placeLocal
  try dsimp only
  with_reducible repeat' (first | assumption | apply setDir_keeps | (fail_if_no_progress refine keeps_upd ?_) | split)

theorem commitIf_keeps {z0 : State} (c : OutCmd) (r : PartRef) (s : State) (h : Keeps z0 s) : Keeps z0 (answerPlacement.commitIf c r s) := by
  unfold answerPlacement.commitIf
  split
  · exact updCmd_keeps _ _ _ h
  · exact h

theorem answerPlacement_keeps {z0 : State} (nsid : Nat) (bale : Nat) (owner : Nat) (s : State) (h : Keeps z0 s) : Keeps z0 (answerPlacement nsid bale
    owner s) := by
  unfold answerPlacement
  try dsimp only
  with_reducible repeat' (first | assumption | apply commitIf_keeps | apply admitForeign_keeps | apply passOn_keeps | apply forwardPart_keeps |
                                 apply admitPart_keeps | apply dropLock_keeps | apply updPart_keeps | apply updCmd_keeps |
                                 refine keeps_foldl _ _ (fun _ _ _ => ?_) ?_ | (fail_if_no_progress refine keeps_upd ?_) | refine keeps_ite ?_ ?_ |
                                 (intro _) | split)

theorem recutPart_keeps {z0 : State} (c : OutCmd) (p : Part) (s : State) (h : Keeps z0 s) : Keeps z0 (recutPart c p s) := by
  unfold recutPart
  try dsimp only
  with_reducible repeat' (first | assumption | apply admitOne_keeps | apply updCmd_keeps | refine keeps_foldl _ _ (fun _ _ _ => ?_) ?_ |
                                 (fail_if_no_progress refine keeps_upd ?_) | refine keeps_ite ?_ ?_ | refine keeps_foldl_fst _ _ (fun _ _ _ => ?_) ?_
                                 | (intro _) | split)

theorem rehome_keeps {z0 : State} (s : State) (h : Keeps z0 s) : Keeps z0 (rehome s) := by
  unfold rehome
  try dsimp only
  with_reducible repeat' (first | assumption | apply recutPart_keeps | refine keeps_foldl _ _ (fun _ _ _ => ?_) ?_ |
                                 (fail_if_no_progress refine keeps_upd ?_) | refine keeps_ite ?_ ?_ | refine keeps_foldl_fst _ _ (fun _ _ _ => ?_) ?_
                                 | (intro _) | split)

theorem recutOrder_keeps {z0 : State} (r : CmdRef) (index : Nat) (nsid : Nat) (owners : List (Nat × Nat)) (s : State) (h : Keeps z0 s) : Keeps z0
    (recutOrder r index nsid owners s) := by
  unfold recutOrder
  try dsimp only
  with_reducible repeat' (first | assumption | apply recutPart_keeps | apply releaseRouted_keeps | refine keeps_foldl _ _ (fun _ _ _ => ?_) ?_ |
                                 (fail_if_no_progress refine keeps_upd ?_) | refine keeps_ite ?_ ?_ | refine keeps_foldl_fst _ _ (fun _ _ _ => ?_) ?_
                                 | (intro _) | split)

theorem launchLeg_keeps {z0 : State} (wb : Waybill) (leg : Nat) (attempt : Nat) (station : Nat) (w : Nat) (bales : List Nat) (s : State) (h : Keeps z0
    s) : Keeps z0 (launchLeg wb leg attempt station w bales s) := by
  unfold launchLeg
  try dsimp only
  with_reducible repeat' (first | assumption | (fail_if_no_progress refine keeps_upd ?_) | refine keeps_ite ?_ ?_ | split)

theorem rehomeLeg_keeps {z0 : State} (wb : Waybill) (e : LegEntry) (s : State) (h : Keeps z0 s) : Keeps z0 (rehomeLeg wb e s) := by
  unfold rehomeLeg
  try dsimp only
  with_reducible repeat' (first | assumption | apply launchLeg_keeps | apply wbFinish_keeps | refine keeps_foldl _ _ (fun _ _ _ => ?_) ?_ |
                                 (fail_if_no_progress refine keeps_upd ?_) | refine keeps_ite ?_ ?_ | refine keeps_foldl_fst _ _ (fun _ _ _ => ?_) ?_
                                 | (intro _) | split)

theorem rehomeLegs_keeps {z0 : State} (s : State) (h : Keeps z0 s) : Keeps z0 (rehomeLegs s) := by
  unfold rehomeLegs
  try dsimp only
  with_reducible repeat' (first | assumption | apply rehomeLeg_keeps | refine keeps_foldl _ _ (fun _ _ _ => ?_) ?_ |
                                 refine keeps_foldl_fst _ _ (fun _ _ _ => ?_) ?_ | (intro _) | split)

theorem endPlacement_keeps {z0 : State} (s : State) (h : Keeps z0 s) : Keeps z0 (endPlacement s) := by
  unfold endPlacement
  try dsimp only
  with_reducible repeat' (first | assumption | apply answerPlacement_keeps | apply send_keeps | (fail_if_no_progress refine keeps_upd ?_) |
                                 refine keeps_ite ?_ ?_ | split)

theorem serveNext_keeps {z0 : State}  (x : Nat)  (s : State) (h : Keeps z0 s) : Keeps z0 (serveNext  x  s) := by
  induction x generalizing s  with
  | zero =>
    unfold serveNext
    with_reducible repeat' (first | assumption | apply endPlacement_keeps | apply placeLocal_keeps | apply send_keeps |
                                   (fail_if_no_progress refine keeps_upd ?_) | refine keeps_ite ?_ ?_ | split)
  | succ n ih =>
    unfold serveNext
    try dsimp only
    with_reducible repeat' (first | assumption | apply ih | apply endPlacement_keeps | apply placeLocal_keeps | apply send_keeps |
                                   (fail_if_no_progress refine keeps_upd ?_) | refine keeps_ite ?_ ?_ | split)

theorem placedAt_keeps {z0 : State} (nsid : Nat) (bale : Nat) (wing : Nat) (s : State) (h : Keeps z0 s) : Keeps z0 (placedAt nsid bale wing s) := by
  unfold placedAt
  try dsimp only
  with_reducible repeat' (first | assumption | apply serveNext_keeps | apply endPlacement_keeps | apply send_keeps |
                                 refine keeps_foldl _ _ (fun _ _ _ => ?_) ?_ | (fail_if_no_progress refine keeps_upd ?_) | refine keeps_ite ?_ ?_ |
                                 (intro _) | split)

theorem pumpMove_keeps {z0 : State} (m : Move) (s : State) (h : Keeps z0 s) : Keeps z0 (pumpMove m s) := by
  unfold pumpMove
  try dsimp only
  with_reducible repeat' (first | assumption | apply addRead_keeps | refine keeps_foldl _ _ (fun _ _ _ => ?_) ?_ | refine keeps_ite ?_ ?_ |
                                 refine keeps_foldl_fst _ _ (fun _ _ _ => ?_) ?_ | (intro _) | split)

theorem setMove_keeps {z0 : State} (m : Move) (s : State) (h : Keeps z0 s) : Keeps z0 (setMove m s) := by
  unfold setMove
  try dsimp only
  with_reducible repeat' (first | assumption | (fail_if_no_progress refine keeps_upd ?_) | refine keeps_ite ?_ ?_ | (intro _) | split)

theorem sentGrain_keeps {z0 : State} (nsid : Nat) (bale : Nat) (g : Nat) (img : GrainImg) (lost : Bool) (s : State) (h : Keeps z0 s) : Keeps z0
    (sentGrain nsid bale g img lost s) := by
  unfold sentGrain
  try dsimp only
  with_reducible repeat' (first | assumption | apply setMove_keeps | apply send_keeps | (fail_if_no_progress refine keeps_upd ?_) | split)

theorem pumpOut_keeps {z0 : State} (m : Move) (s : State) (h : Keeps z0 s) : Keeps z0 (pumpOut m s) := by
  unfold pumpOut
  try dsimp only
  with_reducible repeat' (first | assumption | apply sentGrain_keeps | apply addRead_keeps | refine keeps_foldl _ _ (fun _ _ _ => ?_) ?_ |
                                 (fail_if_no_progress refine keeps_upd ?_) | refine keeps_ite ?_ ?_ | (intro _) | split)

theorem moveForward_keeps {z0 : State} (s : State) (m : Move) (h : Keeps z0 s) : Keeps z0 (moveForward s m) := by
  unfold moveForward
  try dsimp only
  with_reducible repeat' (first | assumption | apply pumpOut_keeps | apply setMove_keeps | apply pumpMove_keeps | apply send_keeps |
                                 (fail_if_no_progress refine keeps_upd ?_) | refine keeps_ite ?_ ?_ | (intro _) | split)

theorem pumpParity_keeps {z0 : State} (s : State) (h : Keeps z0 s) : Keeps z0 (pumpParity s) := by
  unfold pumpParity
  try dsimp only
  with_reducible repeat' (first | assumption | apply routeMove_keeps | refine keeps_foldl _ _ (fun _ _ _ => ?_) ?_ |
                                 (fail_if_no_progress refine keeps_upd ?_) | refine keeps_ite ?_ ?_ | refine keeps_foldl_fst _ _ (fun _ _ _ => ?_) ?_
                                 | (intro _) | split)

theorem settleAll_keeps {z0 : State} (s : State) (h : Keeps z0 s) : Keeps z0 (settleAll s) := by
  unfold settleAll
  try dsimp only
  with_reducible repeat' (first | assumption | apply pumpParity_keeps | apply moveForward_keeps | apply mediaSettle_keeps | apply drainSelf_keeps |
                                 apply recodeDone_keeps | refine keeps_foldl _ _ (fun _ _ _ => ?_) ?_)

theorem startMove_keeps {z0 : State} (nsid : Nat) (bale : Nat) (dst : Nat) (reason : Nat) (s : State) (h : Keeps z0 s) : Keeps z0 (startMove nsid bale
    dst reason s) := by
  unfold startMove
  try dsimp only
  with_reducible repeat' (first | assumption | apply setDir_keeps | (fail_if_no_progress refine keeps_upd ?_))

theorem resumeMove_keeps {z0 : State} (nsid : Nat) (bale : Nat) (s : State) (h : Keeps z0 s) : Keeps z0 (resumeMove nsid bale s) := by
  unfold resumeMove
  try dsimp only
  with_reducible repeat' (first | assumption | (fail_if_no_progress refine keeps_upd ?_) | refine keeps_ite ?_ ?_ | split)

theorem endMove_keeps {z0 : State} (m : Move) (s : State) (h : Keeps z0 s) : Keeps z0 (endMove m s) := by
  unfold endMove
  try dsimp only
  with_reducible repeat' (first | assumption | (fail_if_no_progress refine keeps_upd ?_) | (intro _))

theorem dropMap_keeps {z0 : State} (nsid : Nat) (bale : Nat) (s : State) (h : Keeps z0 s) : Keeps z0 (dropMap nsid bale s) := by
  unfold dropMap
  try dsimp only
  with_reducible repeat' (first | assumption | (fail_if_no_progress refine keeps_upd ?_) | (intro _))

theorem passParts_keeps {z0 : State} (nsid : Nat) (bale : Nat) (owner : Nat) (s : State) (h : Keeps z0 s) : Keeps z0 (passParts nsid bale owner s) :=
    by
  unfold passParts
  try dsimp only
  with_reducible repeat' (first | assumption | apply recutPart_keeps | apply admitForeign_keeps | apply passOn_keeps | apply dropLock_keeps |
                                 refine keeps_foldl _ _ (fun _ _ _ => ?_) ?_ | (fail_if_no_progress refine keeps_upd ?_) | refine keeps_ite ?_ ?_ |
                                 (intro _) | split)

theorem streamMove_keeps {z0 : State} (nsid : Nat) (bale : Nat) (s : State) (h : Keeps z0 s) : Keeps z0 (streamMove nsid bale s) := by
  unfold streamMove
  try dsimp only
  with_reducible repeat' (first | assumption | apply moveForward_keeps | apply setMove_keeps | (fail_if_no_progress refine keeps_upd ?_) |
                                 refine keeps_ite ?_ ?_ | split)

theorem moveGone_keeps {z0 : State} (m : Move) (s : State) (h : Keeps z0 s) : Keeps z0 (moveGone m s) := by
  unfold moveGone
  try dsimp only
  with_reducible repeat' (first | assumption | apply passParts_keeps | apply dropMap_keeps | apply endMove_keeps | apply tellDir_keeps)

theorem dirDurable_keeps {z0 : State} (nsid : Nat) (bale : Nat) (s : State) (h : Keeps z0 s) : Keeps z0 (dirDurable nsid bale s) := by
  unfold dirDurable
  try dsimp only
  with_reducible repeat' (first | assumption | apply moveGone_keeps | apply streamMove_keeps | apply endMove_keeps | apply moveForward_keeps |
                                 apply setMove_keeps | apply placedAt_keeps | apply rehomeLegs_keeps | apply rehome_keeps | apply tellDir_keeps |
                                 apply announceDir_keeps | apply admitForeign_keeps | apply send_keeps | (fail_if_no_progress refine keeps_upd ?_) |
                                 refine keeps_ite ?_ ?_ | (intro _) | split)

theorem landed1_keeps {z0 : State} (s : State) (x : GrainItem × Nat) (h : Keeps z0 s) : Keeps z0 (landed1 s x) := by
  unfold landed1
  try dsimp only
  with_reducible repeat' (first | assumption | apply jrn_keeps | (fail_if_no_progress refine keeps_upd ?_) | split)

theorem writePages_keeps {z0 : State} (u : ProgUnit) (s : State) (h : Keeps z0 s) : Keeps z0 (writePages u s) := by
  unfold writePages
  try dsimp only
  with_reducible repeat' (first | assumption | refine keeps_foldl _ _ (fun _ _ _ => ?_) ?_ | (fail_if_no_progress refine keeps_upd ?_) |
                                 refine keeps_foldl_fst _ _ (fun _ _ _ => ?_) ?_ | (intro _))

theorem journalOthers_keeps {z0 : State} (s : State) (h : Keeps z0 s) : Keeps z0 (journalOthers s) := by
  unfold journalOthers
  try dsimp only
  with_reducible repeat' (first | assumption | apply jrn_keeps | refine keeps_foldl _ _ (fun _ _ _ => ?_) ?_ |
                                 (fail_if_no_progress refine keeps_upd ?_) | refine keeps_ite ?_ ?_ | refine keeps_foldl_fst _ _ (fun _ _ _ => ?_) ?_
                                 | (intro _) | split)

theorem portReady_keeps {z0 : State} (p : Nat) (ended : Bool) (s : State) (h : Keeps z0 s) : Keeps z0 (portReady p ended s) := by
  unfold portReady
  try dsimp only
  with_reducible repeat' (first | assumption | (fail_if_no_progress refine keeps_upd ?_) | refine keeps_ite ?_ ?_ | split)

theorem programPass_keeps {z0 : State} (u : ProgUnit) (s0 : State) (h : Keeps z0 s0) : Keeps z0 (programPass u s0) := by
  unfold programPass
  try dsimp only
  with_reducible repeat' (first | assumption | apply portReady_keeps | apply writePages_keeps | apply landed1_keeps | apply healthAdd_keeps |
                                 apply cntPort_keeps | refine keeps_foldl _ _ (fun _ _ _ => ?_) ?_ | (fail_if_no_progress refine keeps_upd ?_) |
                                 refine keeps_ite ?_ ?_ | refine keeps_foldl_fst _ _ (fun _ _ _ => ?_) ?_ | (intro _) | split)

theorem dropMember_keeps {z0 : State} (bk : Nat) (s : State) (h : Keeps z0 s) : Keeps z0 (dropMember bk s) := by
  unfold dropMember
  try dsimp only
  with_reducible repeat' (first | assumption | (fail_if_no_progress refine keeps_upd ?_) | refine keeps_ite ?_ ?_ | split)

theorem writeCopy_keeps {z0 : State} (p : Nat) (segs : List SegCopy) (s : State) (h : Keeps z0 s) : Keeps z0 (writeCopy p segs s) := by
  unfold writeCopy
  try dsimp only
  with_reducible repeat' (first | assumption | apply pushSlot_keeps | apply openMember_keeps | apply setBlk_keeps |
                                 (fail_if_no_progress refine keeps_upd ?_) | split)

theorem dirtyAgain_keeps {z0 : State} (ids : List (Bool × Nat × Nat × Nat)) (s : State) (h : Keeps z0 s) : Keeps z0 (dirtyAgain ids s) := by
  unfold dirtyAgain
  try dsimp only
  with_reducible repeat' (first | assumption | (fail_if_no_progress refine keeps_upd ?_) | (intro _))

theorem rewriteCkpt_keeps {z0 : State} (bk : Nat) (s : State) (segs : List SegCopy) (h : Keeps z0 s) : Keeps z0 (rewriteCkpt bk s segs) := by
  unfold rewriteCkpt
  try dsimp only
  with_reducible repeat' (first | assumption | apply dirtyAgain_keeps | apply writeCopy_keeps | (intro _) | split)

theorem openReserve_keeps {z0 : State} (p : Nat) (s : State) (h : Keeps z0 s) : Keeps z0 (openReserve p s) := by
  unfold openReserve
  try dsimp only
  with_reducible repeat' (first | assumption | apply openMember_keeps | refine keeps_foldl _ _ (fun _ _ _ => ?_) ?_ |
                                 (fail_if_no_progress refine keeps_upd ?_) | refine keeps_ite ?_ ?_ | refine keeps_foldl_fst _ _ (fun _ _ _ => ?_) ?_
                                 | (intro _) | split)

theorem reservePut_keeps {z0 : State} (w : Nat) (i : Nat) (g : GrainItem) (s : State) (h : Keeps z0 s) : Keeps z0 (reservePut w i g s) := by
  unfold reservePut
  try dsimp only
  with_reducible repeat' (first | assumption | apply openReserve_keeps | apply pushParity_keeps | apply pushSlot_keeps | refine keeps_ite ?_ ?_ |
                                 split)

theorem padUpTo_keeps {z0 : State} (bk : Nat) (n : Nat) (s : State) (h : Keeps z0 s) : Keeps z0 (padUpTo bk n s) := by
  unfold padUpTo
  try dsimp only
  with_reducible repeat' (first | assumption | apply pushSlot_keeps | refine keeps_foldl _ _ (fun _ _ _ => ?_) ?_ | refine keeps_ite ?_ ?_ | (intro _)
                                 | split)

theorem levelReserve_keeps {z0 : State} (s : State) (h : Keeps z0 s) : Keeps z0 (levelReserve s) := by
  unfold levelReserve
  try dsimp only
  with_reducible repeat' (first | assumption | apply padUpTo_keeps | refine keeps_foldl _ _ (fun _ _ _ => ?_) ?_ |
                                 refine keeps_foldl_fst _ _ (fun _ _ _ => ?_) ?_ | (intro _))

theorem rerouteBlock_keeps {z0 : State} (bk : Nat) (s : State) (h : Keeps z0 s) : Keeps z0 (rerouteBlock bk s) := by
  unfold rerouteBlock
  try dsimp only
  with_reducible repeat' (first | assumption | apply levelReserve_keeps | apply reservePut_keeps | apply rewriteCkpt_keeps | apply packGrain_keeps |
                                 apply placeGrain_keeps | apply cacheAdd_keeps | refine keeps_foldl _ _ (fun _ _ _ => ?_) ?_ |
                                 (fail_if_no_progress refine keeps_upd ?_) | refine keeps_ite ?_ ?_ | refine keeps_foldl_fst _ _ (fun _ _ _ => ?_) ?_
                                 | (intro _) | split)

theorem relocateBlock_keeps {z0 : State} (bk : Nat) (why : MoveWhy) (s : State) (h : Keeps z0 s) : Keeps z0 (relocateBlock bk why s) := by
  unfold relocateBlock
  try dsimp only
  with_reducible repeat' (first | assumption | (fail_if_no_progress refine keeps_upd ?_) | refine keeps_ite ?_ ?_ | split)

theorem relocateRows_keeps {z0 : State} (bk : Nat) (s : State) (h : Keeps z0 s) : Keeps z0 (relocateRows bk s) := by
  unfold relocateRows
  try dsimp only
  with_reducible repeat' (first | assumption | apply retire_keeps | apply addRead_keeps | refine keeps_foldl _ _ (fun _ _ _ => ?_) ?_ |
                                 refine keeps_ite ?_ ?_ | refine keeps_foldl_fst _ _ (fun _ _ _ => ?_) ?_ | (intro _) | split)

theorem restoreReserve_keeps {z0 : State} (s : State) (p : Nat) (h : Keeps z0 s) : Keeps z0 (restoreReserve s p) := by
  unfold restoreReserve
  try dsimp only
  with_reducible repeat' (first | assumption | (fail_if_no_progress refine keeps_upd ?_) | refine keeps_ite ?_ ?_ | split)

theorem retireBlock_keeps {z0 : State} (bk : Nat) (plane : Nat) (s : State) (h : Keeps z0 s) : Keeps z0 (retireBlock bk plane s) := by
  unfold retireBlock
  try dsimp only
  with_reducible repeat' (first | assumption | apply restoreReserve_keeps | apply dropMember_keeps | apply extinguish_keeps | apply blkState_keeps |
                                 apply setBlk_keeps | (fail_if_no_progress refine keeps_upd ?_) | refine keeps_ite ?_ ?_ | split)

theorem programFail_keeps {z0 : State} (u : ProgUnit) (plane : Nat) (s0 : State) (h : Keeps z0 s0) : Keeps z0 (programFail u plane s0) := by
  unfold programFail
  try dsimp only
  with_reducible repeat' (first | assumption | apply retire_keeps | apply retireBlock_keeps | apply relocateRows_keeps | apply relocateBlock_keeps |
                                 apply rerouteBlock_keeps | apply rewriteCkpt_keeps | apply portReady_keeps | apply chFailAdd_keeps |
                                 apply healthAdd_keeps | apply logOcc_keeps | apply raise_keeps | refine keeps_foldl _ _ (fun _ _ _ => ?_) ?_ |
                                 refine keeps_ite ?_ ?_ | (intro _) | split)

theorem faultPort_keeps {z0 : State} (p : Nat) (cause : Nat) (s : State) (h : Keeps z0 s) : Keeps z0 (faultPort p cause s) := by
  unfold faultPort
  try dsimp only
  with_reducible repeat' (first | assumption | apply relocateBlock_keeps | apply rerouteBlock_keeps | apply dropMember_keeps | apply extinguish_keeps
                                 | apply healthAdd_keeps | apply blkState_keeps | apply setBlk_keeps | apply logOcc_keeps | apply raise_keeps |
                                 refine keeps_foldl _ _ (fun _ _ _ => ?_) ?_ | (fail_if_no_progress refine keeps_upd ?_) | refine keeps_ite ?_ ?_ |
                                 (intro _) | split)

theorem afterProgram_keeps {z0 : State} (s : State) (h : Keeps z0 s) : Keeps z0 (afterProgram s) := by
  unfold afterProgram
  try dsimp only
  with_reducible repeat' (first | assumption | apply journalOthers_keeps | apply settleAll_keeps | apply journalLanded_keeps | apply retryRoom_keeps |
                                 refine keeps_ite ?_ ?_ | split)

theorem notWaiting_keeps {z0 : State} (p : Nat) (s : State) (h : Keeps z0 s) : Keeps z0 (notWaiting p s) := by
  unfold notWaiting
  try dsimp only
  with_reducible repeat' (first | assumption | (fail_if_no_progress refine keeps_upd ?_) | split)

theorem execProgramStatus_keeps {z0 : State} (port : Fin 1024) (st : DieStatus) (s : State) (h : Keeps z0 s) : ∃ t, execProgramStatus port st s =
    .next t ∧ Keeps z0 t := by
  unfold execProgramStatus
  refine ⟨_, rfl, ?_⟩
  try dsimp only
  with_reducible repeat' (first | assumption | apply notWaiting_keeps | apply afterProgram_keeps | apply faultPort_keeps | apply programFail_keeps |
                                 apply programPass_keeps | refine keeps_ite ?_ ?_ | split)

theorem execDieNotReadyTimeout_keeps {z0 : State} (port : Fin 1024) (s : State) (h : Keeps z0 s) : ∃ t, execDieNotReadyTimeout port s = .next t ∧
    Keeps z0 t := by
  unfold execDieNotReadyTimeout
  refine ⟨_, rfl, ?_⟩
  try dsimp only
  with_reducible repeat' (first | assumption | apply notWaiting_keeps | apply afterProgram_keeps | apply faultPort_keeps |
                                 (fail_if_no_progress refine keeps_upd ?_) | refine keeps_ite ?_ ?_ | split)

theorem execEraseStatus_keeps {z0 : State} (port : Fin 1024) (block : Fin 1024) (st : DieStatus) (s : State) (h : Keeps z0 s) : ∃ t, execEraseStatus
    port block st s = .next t ∧ Keeps z0 t := by
  unfold execEraseStatus
  refine ⟨_, rfl, ?_⟩
  try dsimp only
  with_reducible repeat' (first | assumption | apply faultPort_keeps | apply retireBlock_keeps | apply restoreReserve_keeps | apply portReady_keeps |
                                 apply settleAll_keeps | apply retryRoom_keeps | apply chFailAdd_keeps | apply healthAdd_keeps | apply blkState_keeps
                                 | apply setBlk_keeps | apply wipePages_keeps | apply cntPort_keeps | apply logOcc_keeps | apply raise_keeps |
                                 (fail_if_no_progress refine keeps_upd ?_) | refine keeps_ite ?_ ?_ | split)

theorem execDieBlockSeal_keeps {z0 : State} (port : Fin 1024) (block : Fin 1024) (decoded : Bool) (s : State) (h : Keeps z0 s) : ∃ t, execDieBlockSeal
    port block decoded s = .next t ∧ Keeps z0 t := by
  unfold execDieBlockSeal
  refine ⟨_, rfl, ?_⟩
  try dsimp only
  with_reducible repeat' (first | assumption | apply retire_keeps | apply retireBlock_keeps | apply relocateBlock_keeps | apply rerouteBlock_keeps |
                                 apply rewriteCkpt_keeps | apply settleAll_keeps | apply sealNote_keeps | apply chFailAdd_keeps |
                                 apply healthAdd_keeps | apply blkState_keeps | apply setBlk_keeps | apply sealCount_keeps | apply logOcc_keeps |
                                 apply raise_keeps | refine keeps_foldl _ _ (fun _ _ _ => ?_) ?_ | (fail_if_no_progress refine keeps_upd ?_) |
                                 refine keeps_ite ?_ ?_ | split)

theorem partRead_keeps {z0 : State} (r : PartRef) (s : State) (h : Keeps z0 s) : Keeps z0 (partRead r s) := by
  unfold partRead
  try dsimp only
  with_reducible repeat' (first | assumption | apply releasePart_keeps | apply send_keeps | refine keeps_ite ?_ ?_ | split)

theorem grainGone_keeps {z0 : State} (d : DieRead) (s : State) (h : Keeps z0 s) : Keeps z0 (grainGone d s) := by
  unfold grainGone
  try dsimp only
  with_reducible repeat' (first | assumption | apply chFailAdd_keeps | apply healthAdd_keeps | apply logOcc_keeps |
                                 refine keeps_foldl _ _ (fun _ _ _ => ?_) ?_ | (fail_if_no_progress refine keeps_upd ?_) | refine keeps_ite ?_ ?_ |
                                 refine keeps_foldl_fst _ _ (fun _ _ _ => ?_) ?_ | (intro _) | split)

theorem refreshGrain_keeps {z0 : State} (d : DieRead) (img : GrainImg) (s : State) (h : Keeps z0 s) : Keeps z0 (refreshGrain d img s) := by
  unfold refreshGrain
  try dsimp only
  with_reducible repeat' (first | assumption | apply packGrain_keeps | apply routeMove_keeps | (fail_if_no_progress refine keeps_upd ?_) |
                                 refine keeps_ite ?_ ?_ | split)

theorem readGood_keeps {z0 : State} (d : DieRead) (img : GrainImg) (s : State) (h : Keeps z0 s) : Keeps z0 (readGood d img s) := by
  unfold readGood
  try dsimp only
  with_reducible repeat' (first | assumption | apply partRead_keeps | apply sentGrain_keeps | apply packGrain_keeps | apply routeMove_keeps |
                                 apply overlayRead_keeps | apply send_keeps | (fail_if_no_progress refine keeps_upd ?_) | refine keeps_ite ?_ ?_ |
                                 split)

theorem overlayFail_keeps {z0 : State} (id : GrainId) (s : State) (h : Keeps z0 s) : Keeps z0 (overlayFail id s) := by
  unfold overlayFail
  try dsimp only
  with_reducible repeat' (first | assumption | apply settlePart_keeps | apply updPart_keeps | refine keeps_foldl _ _ (fun _ _ _ => ?_) ?_ |
                                 (fail_if_no_progress refine keeps_upd ?_) | (intro _) | split)

theorem readBad_keeps {z0 : State} (d : DieRead) (s : State) (h : Keeps z0 s) : Keeps z0 (readBad d s) := by
  unfold readBad
  try dsimp only
  with_reducible repeat' (first | assumption | apply overlayFail_keeps | apply partRead_keeps | apply sentGrain_keeps | apply updPart_keeps |
                                 (fail_if_no_progress refine keeps_upd ?_) | refine keeps_ite ?_ ?_ | (intro _) | split)

theorem askCode_keeps {z0 : State} (d : DieRead) (v : Nat × Nat × GrainImg) (s : State) (h : Keeps z0 s) : Keeps z0 (askCode d v s) := by
  unfold askCode
  try dsimp only
  with_reducible repeat' (first | assumption | apply sendAll_keeps | (fail_if_no_progress refine keeps_upd ?_) | refine keeps_ite ?_ ?_ | (intro _) |
                                 split)

theorem noteSuspend_keeps {z0 : State} (p : Nat) (s : State) (h : Keeps z0 s) : Keeps z0 (noteSuspend p s) := by
  unfold noteSuspend
  try dsimp only
  with_reducible repeat' (first | assumption | (fail_if_no_progress refine keeps_upd ?_) | refine keeps_ite ?_ ?_ | split)

theorem execFlashReadDone_keeps {z0 : State} (id : Nat) (outcome : ReadOutcome) (s : State) (h : Keeps z0 s) : ∃ t, execFlashReadDone id outcome s =
    .next t ∧ Keeps z0 t := by
  unfold execFlashReadDone
  refine ⟨_, rfl, ?_⟩
  try dsimp only
  with_reducible repeat' (first | assumption | apply noteSuspend_keeps | apply askCode_keeps | apply readBad_keeps | apply readGood_keeps |
                                 apply refreshGrain_keeps | apply grainGone_keeps | apply portReady_keeps | apply settleAll_keeps |
                                 apply chFailAdd_keeps | apply healthAdd_keeps | apply cntPort_keeps | apply raise_keeps |
                                 (fail_if_no_progress refine keeps_upd ?_) | refine keeps_ite ?_ ?_ | (intro _) | split)

theorem auditFail_keeps {z0 : State} (ledger : Nat) (index : Nat) (expected : Nat) (found : Nat) (s : State) (h : Keeps z0 s) : Keeps z0 (auditFail
    ledger index expected found s) := by
  unfold auditFail
  try dsimp only
  with_reducible repeat' (first | assumption | apply logOcc_keeps | apply raise_keeps)

theorem auditDisp_keeps {z0 : State} (s : State) (w : Nat) (h : Keeps z0 s) : Keeps z0 (auditDisp s w) := by
  unfold auditDisp
  try dsimp only
  with_reducible repeat' (first | assumption | apply auditFail_keeps | apply wingFault_keeps | apply raise_keeps | apply setWing_keeps |
                                 refine keeps_foldl _ _ (fun _ _ _ => ?_) ?_ | (fail_if_no_progress refine keeps_upd ?_) | refine keeps_ite ?_ ?_ |
                                 refine keeps_foldl_fst _ _ (fun _ _ _ => ?_) ?_ | (intro _) | split)

theorem auditAll_keeps {z0 : State} (s : State) (h : Keeps z0 s) : Keeps z0 (auditAll s) := by
  unfold auditAll
  try dsimp only
  with_reducible repeat' (first | assumption | apply auditDisp_keeps | apply auditFail_keeps | apply extinguish_keeps | apply healthAdd_keeps |
                                 refine keeps_foldl _ _ (fun _ _ _ => ?_) ?_ | (fail_if_no_progress refine keeps_upd ?_) | refine keeps_ite ?_ ?_ |
                                 refine keeps_foldl_fst _ _ (fun _ _ _ => ?_) ?_ | (intro _) | split)

theorem auditNow_keeps {z0 : State} (s : State) (h : Keeps z0 s) : Keeps z0 (auditNow s) := by
  unfold auditNow
  try dsimp only
  with_reducible repeat' (first | assumption | apply auditAll_keeps | (fail_if_no_progress refine keeps_upd ?_) | refine keeps_ite ?_ ?_ | (intro _) |
                                 split)

theorem retireDurable_keeps {z0 : State} (bk : Nat) (plane : Nat) (s : State) (h : Keeps z0 s) : Keeps z0 (retireDurable bk plane s) := by
  unfold retireDurable
  try dsimp only
  with_reducible repeat' (first | assumption | apply completeCmd_keeps | (fail_if_no_progress refine keeps_upd ?_) | (intro _) | split)

theorem retireBlockNow_keeps {z0 : State} (s : State) (bk : Nat) (h : Keeps z0 s) : Keeps z0 (retireBlockNow s bk) := by
  unfold retireBlockNow
  try dsimp only
  with_reducible repeat' (first | assumption | apply restoreReserve_keeps | apply remapBlock_keeps | apply blkState_keeps | apply setBlk_keeps |
                                 apply stage_keeps | (fail_if_no_progress refine keeps_upd ?_) | refine keeps_ite ?_ ?_ | (intro _) | split)

theorem retireForward_keeps {z0 : State} (s : State) (h : Keeps z0 s) : Keeps z0 (retireForward s) := by
  unfold retireForward
  try dsimp only
  with_reducible repeat' (first | assumption | apply retireBlockNow_keeps | refine keeps_foldl _ _ (fun _ _ _ => ?_) ?_)

theorem parityDurable_keeps {z0 : State} (seg : Nat) (code : Nat) (entry : Nat) (s : State) (h : Keeps z0 s) : Keeps z0 (parityDurable seg code entry
    s) := by
  unfold parityDurable
  try dsimp only
  with_reducible repeat' (first | assumption | apply send_keeps | (fail_if_no_progress refine keeps_upd ?_) | refine keeps_ite ?_ ?_ | (intro _) |
                                 split)

theorem recordAct_keeps {z0 : State} (r : JRec) (s : State) (h : Keeps z0 s) : Keeps z0 (recordAct r s) := by
  unfold recordAct
  try dsimp only
  with_reducible repeat' (first | assumption | apply parityDurable_keeps | apply dirDurable_keeps | apply settlePart_keeps | apply commitCmd_keeps |
                                 apply updPart_keeps | apply send_keeps | apply healthAdd_keeps | refine keeps_foldl _ _ (fun _ _ _ => ?_) ?_ |
                                 (fail_if_no_progress refine keeps_upd ?_) | refine keeps_ite ?_ ?_ | (intro _) | split)

theorem recordKind_keeps {z0 : State} (r : JRec) (s : State) (h : Keeps z0 s) : Keeps z0 (recordKind r s) := by
  unfold recordKind
  try dsimp only
  with_reducible repeat' (first | assumption | apply retireDurable_keeps | (fail_if_no_progress refine keeps_upd ?_) | refine keeps_ite ?_ ?_ | split)

theorem execJournalRecordDurable_keeps {z0 : State} (s : State) (h : Keeps z0 s) : ∃ t, execJournalRecordDurable s = .next t ∧ Keeps z0 t := by
  unfold execJournalRecordDurable
  refine ⟨_, rfl, ?_⟩
  try dsimp only
  with_reducible repeat' (first | assumption | apply recordKind_keeps | apply recordAct_keeps | apply retireForward_keeps | apply auditNow_keeps |
                                 apply settleAll_keeps | apply applyBody_keeps | apply retryRoom_keeps | (fail_if_no_progress refine keeps_upd ?_) |
                                 refine keeps_ite ?_ ?_ | (intro _) | split)

theorem writeSegs_keeps {z0 : State} (w : Nat) (segs : List SegCopy) (s : State) (h : Keeps z0 s) : Keeps z0 (writeSegs w segs s) := by
  unfold writeSegs
  try dsimp only
  with_reducible repeat' (first | assumption | apply writeCopy_keeps | (fail_if_no_progress refine keeps_upd ?_) | split)

theorem ckptChoose_keeps {z0 : State} (s : State) (h : Keeps z0 s) : Keeps z0 (ckptChoose s) := by
  unfold ckptChoose
  try dsimp only
  with_reducible repeat' (first | assumption | (fail_if_no_progress refine keeps_upd ?_))

theorem ckptWrite_keeps {z0 : State} (s : State) (h : Keeps z0 s) : Keeps z0 (ckptWrite s) := by
  unfold ckptWrite
  try dsimp only
  with_reducible repeat' (first | assumption | apply writeSegs_keeps | refine keeps_foldl _ _ (fun _ _ _ => ?_) ?_ |
                                 (fail_if_no_progress refine keeps_upd ?_) | refine keeps_ite ?_ ?_ | (intro _) | split)

theorem ckptFree_keeps {z0 : State} (s : State) (h : Keeps z0 s) : Keeps z0 (ckptFree s) := by
  unfold ckptFree
  try dsimp only
  with_reducible repeat' (first | assumption | apply blkState_keeps | apply jrn_keeps | refine keeps_foldl _ _ (fun _ _ _ => ?_) ?_ |
                                 (fail_if_no_progress refine keeps_upd ?_) | refine keeps_ite ?_ ?_ | (intro _) | split)

theorem execCheckpointStepDone_keeps {z0 : State} (s : State) (h : Keeps z0 s) : ∃ t, execCheckpointStepDone s = .next t ∧ Keeps z0 t := by
  unfold execCheckpointStepDone
  refine ⟨_, rfl, ?_⟩
  try dsimp only
  with_reducible repeat' (first | assumption | apply ckptFree_keeps | apply ckptWrite_keeps | apply ckptChoose_keeps | apply settleAll_keeps |
                                 apply jrn_keeps | (fail_if_no_progress refine keeps_upd ?_) | refine keeps_ite ?_ ?_ | split)

theorem fillUnit_keeps {z0 : State} (bk : Nat) (x : Nat)  (s : State) (h : Keeps z0 s) : Keeps z0 (fillUnit bk x  s) := by
  induction x generalizing s  with
  | zero =>
    unfold fillUnit
    with_reducible repeat' (first | assumption | apply pushSlot_keeps | refine keeps_ite ?_ ?_ | split)
  | succ n ih =>
    unfold fillUnit
    try dsimp only
    with_reducible repeat' (first | assumption | apply ih | apply pushSlot_keeps | refine keeps_ite ?_ ?_ | split)

theorem execGatherUnitTimeout_keeps {z0 : State} (port : Fin 1024) (s : State) (h : Keeps z0 s) : ∃ t, execGatherUnitTimeout port s = .next t ∧ Keeps
    z0 t := by
  unfold execGatherUnitTimeout
  refine ⟨_, rfl, ?_⟩
  try dsimp only
  with_reducible repeat' (first | assumption | apply fillUnit_keeps | refine keeps_ite ?_ ?_ | (intro _) | split)

theorem execStripePadTimeout_keeps {z0 : State} (port : Fin 1024) (block : Fin 1024) (s : State) (h : Keeps z0 s) : ∃ t, execStripePadTimeout port
    block s = .next t ∧ Keeps z0 t := by
  unfold execStripePadTimeout
  refine ⟨_, rfl, ?_⟩
  try dsimp only
  with_reducible repeat' (first | assumption | apply pushParity_keeps | apply pushSlot_keeps | refine keeps_ite ?_ ?_ | split)

theorem execPackedPageTimeout_keeps {z0 : State} (wing : Fin 8) (s : State) (h : Keeps z0 s) : ∃ t, execPackedPageTimeout wing s = .next t ∧ Keeps z0
    t := by
  unfold execPackedPageTimeout
  refine ⟨_, rfl, ?_⟩
  try dsimp only
  with_reducible repeat' (first | assumption | apply closePacked_keeps | refine keeps_ite ?_ ?_ | split)

theorem execPackedGrainFrame_keeps {z0 : State} (nsid : Nat) (bale : Nat) (grain : Nat) (outcome : PackOutcome) (s : State) (h : Keeps z0 s) : ∃ t,
    execPackedGrainFrame nsid bale grain outcome s = .next t ∧ Keeps z0 t := by
  unfold execPackedGrainFrame
  refine ⟨_, rfl, ?_⟩
  try dsimp only
  with_reducible repeat' (first | assumption | apply packGrain_keeps | apply placeGrain_keeps | apply verifyFailed_keeps | apply cmpCount_keeps |
                                 apply setCmp_keeps | (fail_if_no_progress refine keeps_upd ?_) | refine keeps_ite ?_ ?_ | (intro _) | split)

theorem takeSource_keeps {z0 : State} (bk : Nat) (s : State) (h : Keeps z0 s) : Keeps z0 (takeSource bk s) := by
  unfold takeSource
  try dsimp only
  with_reducible repeat' (first | assumption | (fail_if_no_progress refine keeps_upd ?_))

theorem execFoldStart_keeps {z0 : State} (wing : Fin 8) (idle : Bool) (s : State) (h : Keeps z0 s) : ∃ t, execFoldStart wing idle s = .next t ∧ Keeps
    z0 t := by
  unfold execFoldStart
  refine ⟨_, rfl, ?_⟩
  try dsimp only
  with_reducible repeat' (first | assumption | apply takeSource_keeps | apply settleAll_keeps | (fail_if_no_progress refine keeps_upd ?_) |
                                 refine keeps_ite ?_ ?_ | split)

theorem execReclaimStart_keeps {z0 : State} (wing : Fin 8) (s : State) (h : Keeps z0 s) : ∃ t, execReclaimStart wing s = .next t ∧ Keeps z0 t := by
  unfold execReclaimStart
  refine ⟨_, rfl, ?_⟩
  try dsimp only
  with_reducible repeat' (first | assumption | apply takeSource_keeps | apply settleAll_keeps | (fail_if_no_progress refine keeps_upd ?_) |
                                 refine keeps_ite ?_ ?_ | split)

theorem execForecourtRecompute_keeps {z0 : State} (s : State) (h : Keeps z0 s) : ∃ t, execForecourtRecompute s = .next t ∧ Keeps z0 t := by
  unfold execForecourtRecompute
  refine ⟨_, rfl, ?_⟩
  try dsimp only
  with_reducible repeat' (first | assumption | (fail_if_no_progress refine keeps_upd ?_) | refine keeps_ite ?_ ?_ | split)

theorem execLedgerAudit_keeps {z0 : State} (s : State) (h : Keeps z0 s) : ∃ t, execLedgerAudit s = .next t ∧ Keeps z0 t := by
  unfold execLedgerAudit
  refine ⟨_, rfl, ?_⟩
  try dsimp only
  with_reducible repeat' (first | assumption | apply auditNow_keeps | (fail_if_no_progress refine keeps_upd ?_) | refine keeps_ite ?_ ?_ | split)

theorem fcCtrlWrite_keeps {z0 : State} (v : Nat) (s : State) (h : Keeps z0 s) : Keeps z0 (fcCtrlWrite v s) := by
  unfold fcCtrlWrite
  try dsimp only
  with_reducible repeat' (first | assumption | (fail_if_no_progress refine keeps_upd ?_) | refine keeps_ite ?_ ?_ | split)

theorem rclWeightWrite_keeps {z0 : State} (v : Nat) (s : State) (h : Keeps z0 s) : Keeps z0 (rclWeightWrite v s) := by
  unfold rclWeightWrite
  try dsimp only
  with_reducible repeat' (first | assumption | (fail_if_no_progress refine keeps_upd ?_) | refine keeps_ite ?_ ?_ | split)

theorem rclCtrlWrite_keeps {z0 : State} (v : Nat) (s : State) (h : Keeps z0 s) : Keeps z0 (rclCtrlWrite v s) := by
  unfold rclCtrlWrite
  try dsimp only
  with_reducible repeat' (first | assumption | (fail_if_no_progress refine keeps_upd ?_) | refine keeps_ite ?_ ?_ | split)

theorem plcCtrlWrite_keeps {z0 : State} (v : Nat) (s : State) (h : Keeps z0 s) : Keeps z0 (plcCtrlWrite v s) := by
  unfold plcCtrlWrite
  try dsimp only
  with_reducible repeat' (first | assumption | (fail_if_no_progress refine keeps_upd ?_) | refine keeps_ite ?_ ?_ | split)

theorem plcWeightWrite_keeps {z0 : State} (v : Nat) (s : State) (h : Keeps z0 s) : Keeps z0 (plcWeightWrite v s) := by
  unfold plcWeightWrite
  try dsimp only
  with_reducible repeat' (first | assumption | (fail_if_no_progress refine keeps_upd ?_))

theorem execMedFcCtrlWrite_keeps {z0 : State} (value : Word) (s : State) (h : Keeps z0 s) : ∃ t, execMedFcCtrlWrite value s = .next t ∧ Keeps z0 t :=
    by
  unfold execMedFcCtrlWrite
  refine ⟨_, rfl, ?_⟩
  try dsimp only
  with_reducible repeat' (first | assumption | apply fcCtrlWrite_keeps | refine keeps_ite ?_ ?_ | split)

theorem execMscRclWeightWrite_keeps {z0 : State} (value : Word) (s : State) (h : Keeps z0 s) : ∃ t, execMscRclWeightWrite value s = .next t ∧ Keeps z0
    t := by
  unfold execMscRclWeightWrite
  refine ⟨_, rfl, ?_⟩
  try dsimp only
  with_reducible repeat' (first | assumption | apply rclWeightWrite_keeps | refine keeps_ite ?_ ?_ | split)

theorem execMscRclCtrlWrite_keeps {z0 : State} (value : Word) (s : State) (h : Keeps z0 s) : ∃ t, execMscRclCtrlWrite value s = .next t ∧ Keeps z0 t
    := by
  unfold execMscRclCtrlWrite
  refine ⟨_, rfl, ?_⟩
  try dsimp only
  with_reducible repeat' (first | assumption | apply rclCtrlWrite_keeps | refine keeps_ite ?_ ?_ | split)

theorem execMscPlcCtrlWrite_keeps {z0 : State} (value : Word) (s : State) (h : Keeps z0 s) : ∃ t, execMscPlcCtrlWrite value s = .next t ∧ Keeps z0 t
    := by
  unfold execMscPlcCtrlWrite
  refine ⟨_, rfl, ?_⟩
  try dsimp only
  with_reducible repeat' (first | assumption | apply plcCtrlWrite_keeps | refine keeps_ite ?_ ?_ | split)

theorem setSensor_keeps {z0 : State} (n : Nat) (x : Sensor) (s : State) (h : Keeps z0 s) : Keeps z0 (setSensor n x s) := by
  unfold setSensor
  try dsimp only
  with_reducible repeat' (first | assumption | (fail_if_no_progress refine keeps_upd ?_))

theorem castVote_keeps {z0 : State} (n : Nat) (t : Int) (s : State) (h : Keeps z0 s) : Keeps z0 (castVote n t s) := by
  unfold castVote
  try dsimp only
  with_reducible repeat' (first | assumption | apply extinguishBy_keeps | apply logOcc_keeps | apply raise_keeps |
                                 (fail_if_no_progress refine keeps_upd ?_) | refine keeps_ite ?_ ?_ | split)

theorem clampVcore_keeps {z0 : State} (s : State) (h : Keeps z0 s) : Keeps z0 (clampVcore s) := by
  unfold clampVcore
  try dsimp only
  with_reducible repeat' (first | assumption | apply setWingPwr_keeps | refine keeps_foldl _ _ (fun _ _ _ => ?_) ?_ |
                                 (fail_if_no_progress refine keeps_upd ?_) | refine keeps_ite ?_ ?_ | (intro _) | split)

theorem breakSensor_keeps {z0 : State} (n : Nat) (t : Int) (cause : Nat) (s : State) (h : Keeps z0 s) : Keeps z0 (breakSensor n t cause s) := by
  unfold breakSensor
  try dsimp only
  with_reducible repeat' (first | assumption | apply castVote_keeps | apply setSensor_keeps | apply logOcc_keeps | apply raise_keeps |
                                 (fail_if_no_progress refine keeps_upd ?_) | refine keeps_ite ?_ ?_ | split)

theorem readSensor_keeps {z0 : State} (n : Nat) (t : Int) (s : State) (h : Keeps z0 s) : Keeps z0 (readSensor n t s) := by
  unfold readSensor
  try dsimp only
  with_reducible repeat' (first | assumption | apply castVote_keeps | apply setSensor_keeps | apply raise_keeps | refine keeps_ite ?_ ?_ | (intro _) |
                                 split)

theorem execSensorRead_keeps {z0 : State} (sensor : Fin 94) (tenths : Int) (selfTest : Bool) (s : State) (h : Keeps z0 s) : ∃ t, execSensorRead sensor
    tenths selfTest s = .next t ∧ Keeps z0 t := by
  unfold execSensorRead
  refine ⟨_, rfl, ?_⟩
  try dsimp only
  with_reducible repeat' (first | assumption | apply readSensor_keeps | apply breakSensor_keeps | apply clampVcore_keeps | apply setCritWarn_keeps |
                                 refine keeps_ite ?_ ?_ | split)

theorem execSupplyMeasurement_keeps {z0 : State} (vin : Nat) (iin : Nat) (deciwatt : Nat) (vstore : Nat) (s : State) (h : Keeps z0 s) : ∃ t,
    execSupplyMeasurement vin iin deciwatt vstore s = .next t ∧ Keeps z0 t := by
  unfold execSupplyMeasurement
  refine ⟨_, rfl, ?_⟩
  try dsimp only
  with_reducible repeat' (first | assumption | (fail_if_no_progress refine keeps_upd ?_) | refine keeps_ite ?_ ?_ | split)

theorem startCheck_keeps {z0 : State} (s : State) (h : Keeps z0 s) : Keeps z0 (startCheck s) := by
  unfold startCheck
  try dsimp only
  with_reducible repeat' (first | assumption | (fail_if_no_progress refine keeps_upd ?_))

theorem execHoldupCheckDue_keeps {z0 : State} (s : State) (h : Keeps z0 s) : ∃ t, execHoldupCheckDue s = .next t ∧ Keeps z0 t := by
  unfold execHoldupCheckDue
  refine ⟨_, rfl, ?_⟩
  try dsimp only
  with_reducible repeat' (first | assumption | apply startCheck_keeps | refine keeps_ite ?_ ?_ | split)

theorem checkNow_keeps {z0 : State} (s : State) (h : Keeps z0 s) : Keeps z0 (checkNow s) := by
  unfold checkNow
  try dsimp only
  with_reducible repeat' (first | assumption | apply startCheck_keeps | refine keeps_ite ?_ ?_ | split)

theorem execCheckNow_keeps {z0 : State} (s : State) (h : Keeps z0 s) : ∃ t, execCheckNow s = .next t ∧ Keeps z0 t := by
  unfold execCheckNow
  refine ⟨_, rfl, ?_⟩
  try dsimp only
  with_reducible repeat' (first | assumption | apply checkNow_keeps | refine keeps_ite ?_ ?_ | split)

theorem holdupFailed_keeps {z0 : State} (s : State) (h : Keeps z0 s) : Keeps z0 (holdupFailed s) := by
  unfold holdupFailed
  try dsimp only
  with_reducible repeat' (first | assumption | apply extinguish_keeps | apply setCritWarn_keeps | (fail_if_no_progress refine keeps_upd ?_))

theorem execHoldupCheckDone_keeps {z0 : State} (capacitance : Nat) (energy : Nat) (s : State) (h : Keeps z0 s) : ∃ t, execHoldupCheckDone capacitance
    energy s = .next t ∧ Keeps z0 t := by
  unfold execHoldupCheckDone
  refine ⟨_, rfl, ?_⟩
  try dsimp only
  with_reducible repeat' (first | assumption | apply holdupFailed_keeps | apply logOcc_keeps | apply raise_keeps |
                                 (fail_if_no_progress refine keeps_upd ?_) | refine keeps_ite ?_ ?_ | split)

theorem execHoldupStoreLow_keeps {z0 : State} (s : State) (h : Keeps z0 s) : ∃ t, execHoldupStoreLow s = .next t ∧ Keeps z0 t := by
  unfold execHoldupStoreLow
  refine ⟨_, rfl, ?_⟩
  try dsimp only
  with_reducible repeat' (first | assumption | apply holdupFailed_keeps | refine keeps_ite ?_ ?_ | split)

theorem execHoldupCharged_keeps {z0 : State} (s : State) (h : Keeps z0 s) : ∃ t, execHoldupCharged s = .next t ∧ Keeps z0 t := by
  unfold execHoldupCharged
  refine ⟨_, rfl, ?_⟩
  try dsimp only
  with_reducible repeat' (first | assumption | apply startCheck_keeps | (fail_if_no_progress refine keeps_upd ?_) | refine keeps_ite ?_ ?_ | split)

theorem returnFails_keeps {z0 : State} (w : Nat) (s : State) (h : Keeps z0 s) : Keeps z0 (returnFails w s) := by
  unfold returnFails
  try dsimp only
  with_reducible repeat' (first | assumption | apply completeCmd_keeps | apply setWingPwr_keeps | (fail_if_no_progress refine keeps_upd ?_) | split)

theorem paceFault_keeps {z0 : State} (w : Nat) (m : Nat) (v : Nat) (vcore : Nat) (s : State) (h : Keeps z0 s) : Keeps z0 (paceFault w m v vcore s) :=
    by
  unfold paceFault
  try dsimp only
  with_reducible repeat' (first | assumption | apply returnFails_keeps | apply wingFault_keeps | apply logOcc_keeps | apply raise_keeps |
                                 refine keeps_ite ?_ ?_ | split)

theorem execPaceWindow_keeps {z0 : State} (wing : Fin 8) (m0 : BitVec 16) (m1 : BitVec 16) (m2 : BitVec 16) (m3 : BitVec 16) (s : State) (h : Keeps z0
    s) : ∃ t, execPaceWindow wing m0 m1 m2 m3 s = .next t ∧ Keeps z0 t := by
  unfold execPaceWindow
  refine ⟨_, rfl, ?_⟩
  try dsimp only
  with_reducible repeat' (first | assumption | apply paceFault_keeps | apply setWingPwr_keeps | (fail_if_no_progress refine keeps_upd ?_) |
                                 refine keeps_ite ?_ ?_ | (intro _) | split)

theorem execWingReturnHoldDone_keeps {z0 : State} (wing : Fin 8) (s : State) (h : Keeps z0 s) : ∃ t, execWingReturnHoldDone wing s = .next t ∧ Keeps
    z0 t := by
  unfold execWingReturnHoldDone
  refine ⟨_, rfl, ?_⟩
  try dsimp only
  with_reducible repeat' (first | assumption | apply returnWing_keeps | apply completeCmd_keeps | (fail_if_no_progress refine keeps_upd ?_) |
                                 refine keeps_ite ?_ ?_ | split)

theorem clearMin_keeps {z0 : State} (w : Nat) (s : State) (h : Keeps z0 s) : Keeps z0 (clearMin w s) := by
  unfold clearMin
  try dsimp only
  with_reducible repeat' (first | assumption | apply setWingPwr_keeps | (fail_if_no_progress refine keeps_upd ?_) | (intro _))

theorem execClrMin_keeps {z0 : State} (wing : Fin 8) (s : State) (h : Keeps z0 s) : ∃ t, execClrMin wing s = .next t ∧ Keeps z0 t := by
  unfold execClrMin
  refine ⟨_, rfl, ?_⟩
  try dsimp only
  with_reducible repeat' (first | assumption | apply clearMin_keeps | refine keeps_ite ?_ ?_ | split)

theorem execKeeperCoreFault_keeps {z0 : State} (wing : Fin 8) (kcore : BitVec 8) (code : BitVec 8) (pc : Word) (s : State) (h : Keeps z0 s) : ∃ t,
    execKeeperCoreFault wing kcore code pc s = .next t ∧ Keeps z0 t := by
  unfold execKeeperCoreFault
  refine ⟨_, rfl, ?_⟩
  try dsimp only
  with_reducible repeat' (first | assumption | apply wingFault_keeps | apply logOcc_keeps | apply raise_keeps |
                                 (fail_if_no_progress refine keeps_upd ?_) | refine keeps_ite ?_ ?_ | split)

theorem relockDebug_keeps {z0 : State} (s : State) (h : Keeps z0 s) : Keeps z0 (relockDebug s) := by
  unfold relockDebug
  try dsimp only
  with_reducible repeat' (first | assumption | apply logOcc_keeps | (fail_if_no_progress refine keeps_upd ?_) | split)

theorem eraseKeys_keeps {z0 : State} (s : State) (h : Keeps z0 s) : Keeps z0 (eraseKeys s) := by
  unfold eraseKeys
  try dsimp only
  with_reducible repeat' (first | assumption | apply digFree_keeps | apply sealWipe_keeps | (fail_if_no_progress refine keeps_upd ?_) |
                                 (fail_if_no_progress refine keeps_updf (Nat.le_add_right _ _) ?_))

theorem alarm_keeps {z0 : State} (causes : Nat) (s : State) (h : Keeps z0 s) : Keeps z0 (alarm causes s) := by
  unfold alarm
  try dsimp only
  with_reducible repeat' (first | assumption | apply eraseKeys_keeps | apply relockDebug_keeps | apply extinguish_keeps | apply roleEnds_keeps |
                                 apply logOcc_keeps | apply raise_keeps | (fail_if_no_progress refine keeps_upd ?_) | refine keeps_ite ?_ ?_ | split)

theorem execAlarm_keeps {z0 : State} (causes : BitVec 8) (s : State) (h : Keeps z0 s) : ∃ t, execAlarm causes s = .next t ∧ Keeps z0 t := by
  unfold execAlarm
  refine ⟨_, rfl, ?_⟩
  try dsimp only
  with_reducible repeat' (first | assumption | apply alarm_keeps | refine keeps_ite ?_ ?_ | split)

theorem setLocate_keeps {z0 : State} (v : Nat) (s : State) (h : Keeps z0 s) : Keeps z0 (setLocate v s) := by
  unfold setLocate
  try dsimp only
  with_reducible repeat' (first | assumption | (fail_if_no_progress refine keeps_upd ?_))

theorem execLocate_keeps {z0 : State} (value : BitVec 1) (s : State) (h : Keeps z0 s) : ∃ t, execLocate value s = .next t ∧ Keeps z0 t := by
  unfold execLocate
  refine ⟨_, rfl, ?_⟩
  try dsimp only
  with_reducible repeat' (first | assumption | apply setLocate_keeps | refine keeps_ite ?_ ?_ | split)

end Sys2Proof.Machine
end

