-- ==== Sys2Proof/Laws/KeepsBoot.lean ====
section
/-! SUPPORT. What every step keeps (`Keeps`): sanitize, flush, images, links and Kindling. For each operation `f` the lemma `f_keeps` says that it keeps it;
for the meaning of a command it says that the command has a next state and keeps it. -/

namespace Sys2Proof.Machine

set_option Elab.async false
set_option linter.all false
set_option maxRecDepth 20000

theorem onAdmin_keeps {z0 : State} (r : CmdRef) (opc : Nat) (f : OutCmd → State → State) (s : State) (h_f : ∀ (x0 : OutCmd) (x1 : State), Keeps z0 x1
    → Keeps z0 (f x0 x1)) (h : Keeps z0 s) : Keeps z0 (onAdmin r opc f s) := by
  unfold onAdmin
  try dsimp only
  with_reducible repeat' (first | assumption | apply h_f | split)

theorem orderAll_keeps {z0 : State} (code : Nat) (a : Nat) (b : Nat) (nums : List Nat) (bytes : List Byte) (cmd : Option CmdRef) (s : State) (h :
    Keeps z0 s) : Keeps z0 (orderAll code a b nums bytes cmd s) := by
  unfold orderAll
  try dsimp only
  with_reducible repeat' (first | assumption | apply sendAll_keeps | (fail_if_no_progress refine keeps_upd ?_))

theorem advanceNs_keeps {z0 : State} (nsid : Nat) (s : State) (h : Keeps z0 s) : Keeps z0 (advanceNs nsid s) := by
  unfold advanceNs
  try dsimp only
  with_reducible repeat' (first | assumption | (fail_if_no_progress refine keeps_upd ?_))

theorem emptyNamespace_keeps {z0 : State} (nsid : Nat) (s : State) (h : Keeps z0 s) : Keeps z0 (emptyNamespace nsid s) := by
  unfold emptyNamespace
  try dsimp only
  with_reducible repeat' (first | assumption | apply dropMap_keeps | apply setDir_keeps | refine keeps_foldl _ _ (fun _ _ _ => ?_) ?_ |
                                 (fail_if_no_progress refine keeps_upd ?_) | refine keeps_foldl_fst _ _ (fun _ _ _ => ?_) ?_ | (intro _))

theorem formatApply_keeps {z0 : State} (nsid : Nat) (ses : Nat) (lbaf : Nat) (ext : Bool) (pit : Nat) (pil : Bool) (s : State) (h : Keeps z0 s) :
    Keeps z0 (formatApply nsid ses lbaf ext pit pil s) := by
  unfold formatApply
  try dsimp only
  with_reducible repeat' (first | assumption | apply emptyNamespace_keeps | apply advanceNs_keeps | (fail_if_no_progress refine keeps_upd ?_) |
                                 refine keeps_ite ?_ ?_ | split)

theorem formatStop_keeps {z0 : State} (nsid : Nat) (s : State) (h : Keeps z0 s) : Keeps z0 (formatStop nsid s) := by
  unfold formatStop
  try dsimp only
  with_reducible repeat' (first | assumption | (fail_if_no_progress refine keeps_upd ?_) | refine keeps_ite ?_ ?_ | split)

theorem formatResume_keeps {z0 : State} (nsid : Nat) (s : State) (h : Keeps z0 s) : Keeps z0 (formatResume nsid s) := by
  unfold formatResume
  try dsimp only
  with_reducible repeat' (first | assumption | apply releaseHeld_keeps | apply admitForeign_keeps | (fail_if_no_progress refine keeps_upd ?_))

theorem formatBegin_keeps {z0 : State} (c : OutCmd) (s : State) (h : Keeps z0 s) : Keeps z0 (formatBegin c s) := by
  unfold formatBegin
  try dsimp only
  with_reducible repeat' (first | assumption | apply formatStop_keeps | apply sendAll_keeps | apply completeCmd_keeps |
                                 (fail_if_no_progress refine keeps_upd ?_) | refine keeps_ite ?_ ?_ | (intro _) | split)

theorem execFormatNvm_keeps {z0 : State} (r : CmdRef) (s : State) (h : Keeps z0 s) : ∃ t, execFormatNvm r s = .next t ∧ Keeps z0 t := by
  unfold execFormatNvm
  refine ⟨_, rfl, ?_⟩
  try dsimp only
  with_reducible repeat' (first | assumption | apply formatBegin_keeps | apply onAdmin_keeps | refine keeps_ite ?_ ?_ | (intro _) | split)

theorem formatNext_keeps {z0 : State} (o : FormatOp) (s : State) (h : Keeps z0 s) : Keeps z0 (formatNext o s) := by
  unfold formatNext
  try dsimp only
  with_reducible repeat' (first | assumption | apply formatResume_keeps | apply formatApply_keeps | apply settleAll_keeps | apply progWrite_keeps |
                                 apply sendAll_keeps | apply completeCmd_keeps | (fail_if_no_progress refine keeps_upd ?_) | refine keeps_ite ?_ ?_ |
                                 (intro _) | split)

theorem execFormatStepDone_keeps {z0 : State} (s : State) (h : Keeps z0 s) : ∃ t, execFormatStepDone s = .next t ∧ Keeps z0 t := by
  unfold execFormatStepDone
  refine ⟨_, rfl, ?_⟩
  try dsimp only
  with_reducible repeat' (first | assumption | apply formatNext_keeps | refine keeps_ite ?_ ?_ | split)

theorem formatFinish_keeps {z0 : State} (s : State) (h : Keeps z0 s) : Keeps z0 (formatFinish s) := by
  unfold formatFinish
  try dsimp only
  with_reducible repeat' (first | assumption | apply formatApply_keeps | apply progWrite_keeps | (fail_if_no_progress refine keeps_upd ?_) | split)

theorem sanitizeStop_keeps {z0 : State} (s : State) (h : Keeps z0 s) : Keeps z0 (sanitizeStop s) := by
  unfold sanitizeStop
  try dsimp only
  with_reducible repeat' (first | assumption | apply endCmd_keeps | apply dropPart_keeps | apply returnPart_keeps | apply dropLock_keeps |
                                 apply endThread_keeps | refine keeps_foldl _ _ (fun _ _ _ => ?_) ?_ | (fail_if_no_progress refine keeps_upd ?_) |
                                 refine keeps_ite ?_ ?_ | refine keeps_foldl_fst _ _ (fun _ _ _ => ?_) ?_ | (intro _) | split)

theorem sanitizeBegin_keeps {z0 : State} (action : Nat) (seq : Nat) (s : State) (h : Keeps z0 s) : Keeps z0 (sanitizeBegin action seq s) := by
  unfold sanitizeBegin
  try dsimp only
  with_reducible repeat' (first | assumption | apply sanitizeStop_keeps | apply progWrite_keeps | (fail_if_no_progress refine keeps_upd ?_))

theorem clearBeacon_keeps {z0 : State} (s : State) (h : Keeps z0 s) : Keeps z0 (clearBeacon s) := by
  unfold clearBeacon
  try dsimp only
  with_reducible repeat' (first | assumption | (fail_if_no_progress refine keeps_upd ?_) | (intro _))

theorem wipeBlock_keeps {z0 : State} (s : State) (bk : Nat) (h : Keeps z0 s) : Keeps z0 (wipeBlock s bk) := by
  unfold wipeBlock
  try dsimp only
  with_reducible repeat' (first | assumption | apply healthAdd_keeps | apply jrn_keeps | apply ledgerMove_keeps | apply setBlk_keeps |
                                 apply wipePages_keeps | (fail_if_no_progress refine keeps_upd ?_) | refine keeps_ite ?_ ?_ | split)

theorem eraseAll_keeps {z0 : State} (s : State) (h : Keeps z0 s) : Keeps z0 (eraseAll s) := by
  unfold eraseAll
  try dsimp only
  with_reducible repeat' (first | assumption | apply wipeBlock_keeps | apply logOcc_keeps | refine keeps_foldl _ _ (fun _ _ _ => ?_) ?_ |
                                 (fail_if_no_progress refine keeps_upd ?_) | refine keeps_foldl_fst _ _ (fun _ _ _ => ?_) ?_ | (intro _))

theorem clearPoison_keeps {z0 : State} (s : State) (w : Nat) (h : Keeps z0 s) : Keeps z0 (clearPoison s w) := by
  unfold clearPoison
  try dsimp only
  with_reducible repeat' (first | assumption | apply clearPages_keeps | apply setDram_keeps | (fail_if_no_progress refine keeps_upd ?_) | (intro _))

theorem sanitizeWork_keeps {z0 : State} (action : Nat) (s : State) (h : Keeps z0 s) : Keeps z0 (sanitizeWork action s) := by
  unfold sanitizeWork
  try dsimp only
  with_reducible repeat' (first | assumption | apply clearPoison_keeps | apply eraseAll_keeps | apply clearBeacon_keeps | apply emptyNamespace_keeps |
                                 apply advanceNs_keeps | apply settleAll_keeps | refine keeps_foldl _ _ (fun _ _ _ => ?_) ?_ |
                                 (fail_if_no_progress refine keeps_upd ?_) | refine keeps_ite ?_ ?_ | (intro _) | split)

theorem sanitizeCheck_keeps {z0 : State} (s : State) (h : Keeps z0 s) : Keeps z0 (sanitizeCheck s) := by
  unfold sanitizeCheck
  try dsimp only
  with_reducible repeat' (first | assumption | apply progWrite_keeps | (fail_if_no_progress refine keeps_upd ?_) | refine keeps_ite ?_ ?_ | split)

theorem sanitizeStart_keeps {z0 : State} (c : OutCmd) (action : Nat) (s : State) (h : Keeps z0 s) : Keeps z0 (sanitizeStart c action s) := by
  unfold sanitizeStart
  try dsimp only
  with_reducible repeat' (first | assumption | apply sanitizeBegin_keeps | apply orderAll_keeps | apply completeCmd_keeps | refine keeps_ite ?_ ?_ |
                                 split)

theorem execSanitizeBlockErase_keeps {z0 : State} (r : CmdRef) (s : State) (h : Keeps z0 s) : ∃ t, execSanitizeBlockErase r s = .next t ∧ Keeps z0 t
    := by
  unfold execSanitizeBlockErase
  refine ⟨_, rfl, ?_⟩
  try dsimp only
  with_reducible repeat' (first | assumption | apply sanitizeStart_keeps | apply onAdmin_keeps | apply completeCmd_keeps | refine keeps_ite ?_ ?_ |
                                 (intro _) | split)

theorem execSanitizeCryptoErase_keeps {z0 : State} (r : CmdRef) (s : State) (h : Keeps z0 s) : ∃ t, execSanitizeCryptoErase r s = .next t ∧ Keeps z0 t
    := by
  unfold execSanitizeCryptoErase
  refine ⟨_, rfl, ?_⟩
  try dsimp only
  with_reducible repeat' (first | assumption | apply sanitizeStart_keeps | apply onAdmin_keeps | refine keeps_ite ?_ ?_ | (intro _) | split)

theorem execSanitizeExitFailureMode_keeps {z0 : State} (r : CmdRef) (s : State) (h : Keeps z0 s) : ∃ t, execSanitizeExitFailureMode r s = .next t ∧
    Keeps z0 t := by
  unfold execSanitizeExitFailureMode
  refine ⟨_, rfl, ?_⟩
  try dsimp only
  with_reducible repeat' (first | assumption | apply onAdmin_keeps | apply completeCmd_keeps | (fail_if_no_progress refine keeps_upd ?_) |
                                 refine keeps_ite ?_ ?_ | (intro _) | split)

theorem execSanitizeOperationEnd_keeps {z0 : State} (s : State) (h : Keeps z0 s) : ∃ t, execSanitizeOperationEnd s = .next t ∧ Keeps z0 t := by
  unfold execSanitizeOperationEnd
  refine ⟨_, rfl, ?_⟩
  try dsimp only
  with_reducible repeat' (first | assumption | apply sanitizeCheck_keeps | apply sanitizeWork_keeps | apply send_keeps |
                                 refine keeps_foldl _ _ (fun _ _ _ => ?_) ?_ | (fail_if_no_progress refine keeps_upd ?_) | refine keeps_ite ?_ ?_ |
                                 (intro _) | split)

theorem sanitizeResume_keeps {z0 : State} (s : State) (h : Keeps z0 s) : Keeps z0 (sanitizeResume s) := by
  unfold sanitizeResume
  try dsimp only
  with_reducible repeat' (first | assumption | (fail_if_no_progress refine keeps_upd ?_) | split)

theorem flushProgram_keeps {z0 : State} (s : State) (h : Keeps z0 s) : Keeps z0 (flushProgram s) := by
  unfold flushProgram
  try dsimp only
  with_reducible repeat' (first | assumption | apply levelReserve_keeps | apply reservePut_keeps | refine keeps_foldl _ _ (fun _ _ _ => ?_) ?_ |
                                 (fail_if_no_progress refine keeps_upd ?_) | refine keeps_ite ?_ ?_ | refine keeps_foldl_fst _ _ (fun _ _ _ => ?_) ?_
                                 | (intro _) | split)

theorem flushJournal_keeps {z0 : State} (s : State) (h : Keeps z0 s) : Keeps z0 (flushJournal s) := by
  unfold flushJournal
  try dsimp only
  with_reducible repeat' (first | assumption | apply journalOthers_keeps | apply journalLanded_keeps | (fail_if_no_progress refine keeps_upd ?_) |
                                 (intro _) | split)

theorem flushLog_keeps {z0 : State} (s : State) (h : Keeps z0 s) : Keeps z0 (flushLog s) := by
  unfold flushLog
  try dsimp only
  with_reducible repeat' (first | assumption | apply logDrain_keeps | apply healthAdd_keeps | apply logOcc_keeps |
                                 (fail_if_no_progress refine keeps_upd ?_))

theorem flushAt_keeps {z0 : State} (f : Flush) (n : Nat) (s : State) (h : Keeps z0 s) : Keeps z0 (flushAt f n s) := by
  unfold flushAt
  try dsimp only
  with_reducible repeat' (first | assumption | (fail_if_no_progress refine keeps_upd ?_))

theorem execEmberFlushStepDone_keeps {z0 : State} (s : State) (h : Keeps z0 s) : ∃ t, execEmberFlushStepDone s = .next t ∧ Keeps z0 t := by
  unfold execEmberFlushStepDone
  refine ⟨_, rfl, ?_⟩
  try dsimp only
  with_reducible repeat' (first | assumption | apply flushAt_keeps | apply flushLog_keeps | apply flushJournal_keeps | apply flushProgram_keeps |
                                 refine keeps_ite ?_ ?_ | split)

theorem settleOne_keeps {z0 : State} (st : Status) (r : CmdRef) (s : State) (h : Keeps z0 s) : Keeps z0 (settleOne st r s) := by
  unfold settleOne
  try dsimp only
  with_reducible repeat' (first | assumption | apply endCmd_keeps | apply endThread_keeps | (fail_if_no_progress refine keeps_upd ?_) | (intro _) |
                                 split)

theorem keeps_settle {z0 s : State} {x} (h : Keeps z0 s) :
    Keeps z0 { s with host := x, chr := { s.chr with fnWait := [], commit := none, commitWait := [] } } :=
  keeps_of h rfl rfl (Nat.min_le_right _ _) (lor_refl _) (fun w => ⟨(h.2.2.2.2.1 w).1, (h.2.2.2.2.1 w).2.1, fun _ hq => nomatch hq⟩)
    (Nat.le_refl _) (Nat.min_le_right _ _)

theorem settleExt_keeps {z0 : State} (s : State) (h : Keeps z0 s) : Keeps z0 (settleExt s) := by
  unfold settleExt
  refine keeps_settle (keeps_foldl _ _ (fun _ _ h => returnPart_keeps _ _ _ (dropLock_keeps _ _ h)) (keeps_foldl _ _ (fun _ _ h => ?_) h))
  split
  · exact endCmd_keeps _ _ _ h
  · exact settleOne_keeps _ _ _ h

theorem inputLost_keeps {z0 : State} (trigger : Nat) (s : State) (h : Keeps z0 s) : Keeps z0 (inputLost trigger s) := by
  unfold inputLost
  try dsimp only
  with_reducible repeat' (first | assumption | apply enterDark_keeps | apply startFlush_keeps | (fail_if_no_progress refine keeps_upd ?_) |
                                 refine keeps_ite ?_ ?_ | split)

theorem execInputUndervoltage_keeps {z0 : State} (s : State) (h : Keeps z0 s) : ∃ t, execInputUndervoltage s = .next t ∧ Keeps z0 t := by
  unfold execInputUndervoltage
  refine ⟨_, rfl, ?_⟩
  try dsimp only
  with_reducible repeat' (first | assumption | apply inputLost_keeps)

theorem execInputOvervoltage_keeps {z0 : State} (s : State) (h : Keeps z0 s) : ∃ t, execInputOvervoltage s = .next t ∧ Keeps z0 t := by
  unfold execInputOvervoltage
  refine ⟨_, rfl, ?_⟩
  try dsimp only
  with_reducible repeat' (first | assumption | apply inputLost_keeps)

theorem execPwrEnDeasserted_keeps {z0 : State} (s : State) (h : Keeps z0 s) : ∃ t, execPwrEnDeasserted s = .next t ∧ Keeps z0 t := by
  unfold execPwrEnDeasserted
  refine ⟨_, rfl, ?_⟩
  try dsimp only
  with_reducible repeat' (first | assumption | apply enterDark_keeps | apply startFlush_keeps | (fail_if_no_progress refine keeps_upd ?_) |
                                 refine keeps_ite ?_ ?_ | split)

theorem bootTry_keeps_aux {z0 : State}  {l : List Nat} (ih : ∀ s, Keeps z0 s → Keeps z0 (bootTry  l s).2) {s t : State} {x} (e : bootTry  l s = (x,
    t)) (h : Keeps z0 s) : Keeps z0 t := by
  have := ih s h
  rw [e] at this
  exact this

theorem bootTry_keeps {z0 : State}  (x : List Nat)  (s : State) (h : Keeps z0 s) : Keeps z0 (bootTry  x  s).2 := by
  induction x generalizing s  with
  | nil =>
    unfold bootTry
    with_reducible repeat' (first | assumption | apply logOcc_keeps | apply raise_keeps | refine keeps_ite ?_ ?_ | split)
  | cons a l ih =>
    unfold bootTry
    try dsimp only
    with_reducible repeat' (first | assumption | refine bootTry_keeps_aux  ih (by assumption) ?_ | apply ih | apply logOcc_keeps | apply raise_keeps |
                                   refine keeps_ite ?_ ?_ | split)

theorem bootTry_keeps_of_eq {z0 : State}  {l : List Nat} {s t : State} {x} (e : bootTry  l s = (x, t)) (h : Keeps z0 s) : Keeps z0 t := by
  have := bootTry_keeps  l s h
  rw [e] at this
  exact this

theorem bootChoose_keeps {z0 : State} (readErrors : Nat) (s : State) (h : Keeps z0 s) : Keeps z0 (bootChoose readErrors s) := by
  unfold bootChoose
  try dsimp only
  with_reducible repeat' (first | assumption | apply rollWing_keeps | refine bootTry_keeps_of_eq (by assumption) ?_ | apply bootTry_keeps |
                                 apply extinguish_keeps | (fail_if_no_progress refine keeps_upd ?_) | refine keeps_ite ?_ ?_ | (intro _) | split)

theorem llApply_keeps {z0 : State} (s : State) (h : Keeps z0 s) : Keeps z0 (llApply s) := by
  unfold llApply
  try dsimp only
  with_reducible repeat' (first | assumption | refine keeps_foldl _ _ (fun _ _ _ => ?_) ?_ | (fail_if_no_progress refine keeps_upd ?_) |
                                 refine keeps_ite ?_ ?_ | refine keeps_foldl_fst _ _ (fun _ _ _ => ?_) ?_ | (intro _) | split)

theorem llNote_keeps {z0 : State} (copy : Nat) (cause : Nat) (s : State) (h : Keeps z0 s) : Keeps z0 (llNote copy cause s) := by
  unfold llNote
  try dsimp only
  with_reducible repeat' (first | assumption | apply logOcc_keeps | apply raise_keeps | refine keeps_ite ?_ ?_ | split)

theorem llSelect_keeps {z0 : State} (readErrors : Nat) (s : State) (h : Keeps z0 s) : Keeps z0 (llSelect readErrors s) := by
  unfold llSelect
  try dsimp only
  with_reducible repeat' (first | assumption | apply llNote_keeps | apply llApply_keeps | apply extinguish_keeps |
                                 (fail_if_no_progress refine keeps_upd ?_) | refine keeps_ite ?_ ?_ | split)

theorem updateRoutes_keeps {z0 : State} (s : State) (h : Keeps z0 s) : Keeps z0 (updateRoutes s) := by
  unfold updateRoutes
  try dsimp only
  with_reducible repeat' (first | assumption | refine keeps_foldl _ _ (fun _ _ _ => ?_) ?_ | (fail_if_no_progress refine keeps_upd ?_) |
                                 refine keeps_ite ?_ ?_ | (intro _) | split)

theorem setLink_keeps {z0 : State} (l : Nat) (x : Link) (s : State) (h : Keeps z0 s) : Keeps z0 (setLink l x s) := by
  unfold setLink
  try dsimp only
  with_reducible repeat' (first | assumption | (fail_if_no_progress refine keeps_upd ?_))

theorem checkPartition_keeps {z0 : State} (s : State) (h : Keeps z0 s) : Keeps z0 (checkPartition s) := by
  unfold checkPartition
  try dsimp only
  with_reducible repeat' (first | assumption | apply noticeAna_keeps | apply raise_keeps | (fail_if_no_progress refine keeps_upd ?_) |
                                 refine keeps_ite ?_ ?_ | split)

theorem linkChange_keeps {z0 : State} (s : State) (h : Keeps z0 s) : Keeps z0 (linkChange s) := by
  unfold linkChange
  try dsimp only
  with_reducible repeat' (first | assumption | apply checkPartition_keeps | apply updateRoutes_keeps | apply sendAll_keeps | apply raise_keeps)

theorem startLinks_keeps {z0 : State} (s : State) (h : Keeps z0 s) : Keeps z0 (startLinks s) := by
  unfold startLinks
  try dsimp only
  with_reducible repeat' (first | assumption | apply setLink_keeps | refine keeps_foldl _ _ (fun _ _ _ => ?_) ?_ | (intro _))

theorem sendFlit_keeps {z0 : State} (l : Nat) (f : Flit) (s : State) (h : Keeps z0 s) : Keeps z0 (sendFlit l f s) := by
  unfold sendFlit
  try dsimp only
  with_reducible repeat' (first | assumption | apply setLink_keeps | (fail_if_no_progress refine keeps_upd ?_))

theorem leaveBuffer_keeps {z0 : State} (k : Nat) (s : State) (h : Keeps z0 s) : Keeps z0 (leaveBuffer k s) := by
  unfold leaveBuffer
  try dsimp only
  with_reducible repeat' (first | assumption | apply setLink_keeps | (fail_if_no_progress refine keeps_upd ?_))

theorem forwardFlit_keeps {z0 : State} (k : Nat) (f : Flit) (s : State) (h : Keeps z0 s) : Keeps z0 (forwardFlit k f s) := by
  unfold forwardFlit
  try dsimp only
  with_reducible repeat' (first | assumption | apply sendFlit_keeps | apply setLink_keeps | (fail_if_no_progress refine keeps_upd ?_) |
                                 refine keeps_ite ?_ ?_ | split)

theorem drainQueue_keeps {z0 : State} (l : Nat) (s : State) (h : Keeps z0 s) : Keeps z0 (drainQueue l s) := by
  unfold drainQueue
  try dsimp only
  with_reducible repeat' (first | assumption | apply leaveBuffer_keeps | apply sendFlit_keeps | apply setLink_keeps |
                                 refine keeps_foldl _ _ (fun _ _ _ => ?_) ?_ | (fail_if_no_progress refine keeps_upd ?_) | refine keeps_ite ?_ ?_ |
                                 refine keeps_foldl_fst _ _ (fun _ _ _ => ?_) ?_ | (intro _) | split)

theorem rerouteFlits_keeps {z0 : State} (l : Nat) (fs : List Flit) (s : State) (h : Keeps z0 s) : Keeps z0 (rerouteFlits l fs s) := by
  unfold rerouteFlits
  try dsimp only
  with_reducible repeat' (first | assumption | apply forwardFlit_keeps | refine keeps_foldl _ _ (fun _ _ _ => ?_) ?_ |
                                 (fail_if_no_progress refine keeps_upd ?_) | (intro _))

theorem retrainLink_keeps {z0 : State} (l : Nat) (st : LinkSt) (s : State) (h : Keeps z0 s) : Keeps z0 (retrainLink l st s) := by
  unfold retrainLink
  try dsimp only
  with_reducible repeat' (first | assumption | apply rerouteFlits_keeps | apply leaveBuffer_keeps | apply linkChange_keeps | apply setLink_keeps |
                                 refine keeps_foldl _ _ (fun _ _ _ => ?_) ?_ | refine keeps_ite ?_ ?_ |
                                 refine keeps_foldl_fst _ _ (fun _ _ _ => ?_) ?_ | (intro _) | split)

theorem linkDown_keeps {z0 : State} (l : Nat) (held : Bool) (s : State) (h : Keeps z0 s) : Keeps z0 (linkDown l held s) := by
  unfold linkDown
  try dsimp only
  with_reducible repeat' (first | assumption | apply retrainLink_keeps | apply setLink_keeps | apply logOcc_keeps | apply raise_keeps |
                                 (fail_if_no_progress refine keeps_upd ?_) | refine keeps_ite ?_ ?_ | (intro _) | split)

theorem execLinkDown_keeps {z0 : State} (link : Fin 4) (s : State) (h : Keeps z0 s) : ∃ t, execLinkDown link s = .next t ∧ Keeps z0 t := by
  unfold execLinkDown
  refine ⟨_, rfl, ?_⟩
  try dsimp only
  with_reducible repeat' (first | assumption | apply linkDown_keeps | refine keeps_ite ?_ ?_ | split)

theorem retrainBit_keeps {z0 : State} (link : Nat) (s : State) (h : Keeps z0 s) : Keeps z0 (retrainBit link s) := by
  unfold retrainBit
  try dsimp only
  with_reducible repeat' (first | assumption | apply retrainLink_keeps | apply setLink_keeps | (fail_if_no_progress refine keeps_upd ?_) |
                                 refine keeps_ite ?_ ?_ | split)

theorem execRetrain_keeps {z0 : State} (link : Fin 4) (s : State) (h : Keeps z0 s) : ∃ t, execRetrain link s = .next t ∧ Keeps z0 t := by
  unfold execRetrain
  refine ⟨_, rfl, ?_⟩
  try dsimp only
  with_reducible repeat' (first | assumption | apply retrainBit_keeps | refine keeps_ite ?_ ?_ | split)

theorem execLinkSbChange_keeps {z0 : State} (link : Fin 4) (level : Bool) (s : State) (h : Keeps z0 s) : ∃ t, execLinkSbChange link level s = .next t
    ∧ Keeps z0 t := by
  unfold execLinkSbChange
  refine ⟨_, rfl, ?_⟩
  try dsimp only
  with_reducible repeat' (first | assumption | apply linkDown_keeps | apply retrainLink_keeps | apply setLink_keeps |
                                 (fail_if_no_progress refine keeps_upd ?_) | refine keeps_ite ?_ ?_ | split)

theorem startReplay_keeps {z0 : State} (l : Nat) (q : Nat) (s : State) (h : Keeps z0 s) : Keeps z0 (startReplay l q s) := by
  unfold startReplay
  try dsimp only
  with_reducible repeat' (first | assumption | apply linkDown_keeps | apply setLink_keeps | (fail_if_no_progress refine keeps_upd ?_) |
                                 refine keeps_ite ?_ ?_ | split)

theorem ackFlits_keeps {z0 : State} (l : Nat) (q : Nat) (s : State) (h : Keeps z0 s) : Keeps z0 (ackFlits l q s) := by
  unfold ackFlits
  try dsimp only
  with_reducible repeat' (first | assumption | apply setLink_keeps | (fail_if_no_progress refine keeps_upd ?_) | refine keeps_ite ?_ ?_ | split)

theorem dropFlit_keeps {z0 : State} (l : Nat) (crc : Bool) (kind : Nat) (s : State) (h : Keeps z0 s) : Keeps z0 (dropFlit l crc kind s) := by
  unfold dropFlit
  try dsimp only
  with_reducible repeat' (first | assumption | apply setLink_keeps | (fail_if_no_progress refine keeps_upd ?_) | refine keeps_ite ?_ ?_ | split)

theorem takeFlit_keeps {z0 : State} (f : Flit) (s : State) (h : Keeps z0 s) : Keeps z0 (takeFlit f s) := by
  unfold takeFlit
  try dsimp only
  with_reducible repeat' (first | assumption | (fail_if_no_progress refine keeps_upd ?_) | refine keeps_ite ?_ ?_ | (intro _) | split)

theorem goodFlit_keeps {z0 : State} (l : Nat) (f : Flit) (s : State) (h : Keeps z0 s) : Keeps z0 (goodFlit l f s) := by
  unfold goodFlit
  try dsimp only
  with_reducible repeat' (first | assumption | apply takeFlit_keeps | apply ackFlits_keeps | apply startReplay_keeps | apply drainQueue_keeps |
                                 apply forwardFlit_keeps | apply setLink_keeps | (fail_if_no_progress refine keeps_upd ?_) | refine keeps_ite ?_ ?_ |
                                 split)

theorem execFlitReceive_keeps {z0 : State} (link : Fin 4) (bytes : List Byte) (s : State) (h : Keeps z0 s) : ∃ t, execFlitReceive link bytes s = .next
    t ∧ Keeps z0 t := by
  unfold execFlitReceive
  refine ⟨_, rfl, ?_⟩
  try dsimp only
  with_reducible repeat' (first | assumption | apply goodFlit_keeps | apply dropFlit_keeps | refine keeps_ite ?_ ?_ | split)

theorem execNak_keeps {z0 : State} (link : Fin 4) (seq : BitVec 12) (s : State) (h : Keeps z0 s) : ∃ t, execNak link seq s = .next t ∧ Keeps z0 t :=
    by
  unfold execNak
  refine ⟨_, rfl, ?_⟩
  try dsimp only
  with_reducible repeat' (first | assumption | apply startReplay_keeps | refine keeps_ite ?_ ?_ | split)

theorem execAckTimer_keeps {z0 : State} (link : Fin 4) (s : State) (h : Keeps z0 s) : ∃ t, execAckTimer link s = .next t ∧ Keeps z0 t := by
  unfold execAckTimer
  refine ⟨_, rfl, ?_⟩
  try dsimp only
  with_reducible repeat' (first | assumption | apply setLink_keeps | (fail_if_no_progress refine keeps_upd ?_) | refine keeps_ite ?_ ?_ | split)

theorem execCreditCensus_keeps {z0 : State} (link : Fin 4) (s : State) (h : Keeps z0 s) : ∃ t, execCreditCensus link s = .next t ∧ Keeps z0 t := by
  unfold execCreditCensus
  refine ⟨_, rfl, ?_⟩
  try dsimp only
  with_reducible repeat' (first | assumption | apply sendFlit_keeps | refine keeps_ite ?_ ?_ | split)

theorem execCensusReceive_keeps {z0 : State} (link : Fin 4) (credits : List Nat) (inFlight : List Nat) (occupancy : List Nat) (s : State) (h : Keeps
    z0 s) : ∃ t, execCensusReceive link credits inFlight occupancy s = .next t ∧ Keeps z0 t := by
  unfold execCensusReceive
  refine ⟨_, rfl, ?_⟩
  try dsimp only
  with_reducible repeat' (first | assumption | apply retrainLink_keeps | apply logOcc_keeps | apply raise_keeps | refine keeps_ite ?_ ?_ | (intro _) |
                                 split)

theorem execLinkTrained_keeps {z0 : State} (link : Fin 4) (s : State) (h : Keeps z0 s) : ∃ t, execLinkTrained link s = .next t ∧ Keeps z0 t := by
  unfold execLinkTrained
  refine ⟨_, rfl, ?_⟩
  try dsimp only
  with_reducible repeat' (first | assumption | apply sendFlit_keeps | apply setLink_keeps | (fail_if_no_progress refine keeps_upd ?_) |
                                 refine keeps_ite ?_ ?_ | split)

theorem execHello_keeps {z0 : State} (link : Fin 4) (hello : HelloMsg) (s : State) (h : Keeps z0 s) : ∃ t, execHello link hello s = .next t ∧ Keeps z0
    t := by
  unfold execHello
  refine ⟨_, rfl, ?_⟩
  try dsimp only
  with_reducible repeat' (first | assumption | apply linkChange_keeps | apply setLink_keeps | apply logOcc_keeps | apply raise_keeps |
                                 (fail_if_no_progress refine keeps_upd ?_) | refine keeps_ite ?_ ?_ | split)

theorem execLinkStateNews_keeps {z0 : State} (station : Fin 64) (links : BitVec 4) (s : State) (h : Keeps z0 s) : ∃ t, execLinkStateNews station links
    s = .next t ∧ Keeps z0 t := by
  unfold execLinkStateNews
  refine ⟨_, rfl, ?_⟩
  try dsimp only
  with_reducible repeat' (first | assumption | apply checkPartition_keeps | apply updateRoutes_keeps | apply raise_keeps |
                                 (fail_if_no_progress refine keeps_upd ?_) | refine keeps_ite ?_ ?_ | split)

theorem startKindling_keeps {z0 : State} (dark : Bool) (s : State) (h : Keeps z0 s) : Keeps z0 (startKindling dark s) := by
  have h1 : Keeps z0 (enterDark false s) := enterDark_keeps _ _ h
  unfold startKindling
  extract_lets before clean flushed cfgs s1 now life r1 r2 r3 r4 r5 r6 r7 r8 s2 s3
  have h2 : Keeps z0 s2 := by
    refine keeps_of h1 rfl rfl (Nat.min_le_right _ _) (lor_refl _) h1.2.2.2.2.1 (Nat.le_refl _) ?_
    show min (2 ^ 24 - 1) s1.cnt.powerCycles ≤ if dark then satAdd (2 ^ 24 - 1) s1.cnt.powerCycles 1 else s1.cnt.powerCycles
    split
    · show min _ _ ≤ min _ _
      omega
    · exact Nat.min_le_right _ _
  have h3 : Keeps z0 s3 := logScan_keeps _ h2
  exact keeps_ite h3 (noteState_keeps _ _ h3)

theorem execPwrEnAsserted_keeps {z0 : State} (s : State) (h : Keeps z0 s) : ∃ t, execPwrEnAsserted s = .next t ∧ Keeps z0 t := by
  unfold execPwrEnAsserted
  refine ⟨_, rfl, ?_⟩
  try dsimp only
  with_reducible repeat' (first | assumption | apply startKindling_keeps | (fail_if_no_progress refine keeps_upd ?_) | refine keeps_ite ?_ ?_ | split)

theorem execInputRestored_keeps {z0 : State} (s : State) (h : Keeps z0 s) : ∃ t, execInputRestored s = .next t ∧ Keeps z0 t := by
  unfold execInputRestored
  refine ⟨_, rfl, ?_⟩
  try dsimp only
  with_reducible repeat' (first | assumption | apply startKindling_keeps | (fail_if_no_progress refine keeps_upd ?_) | refine keeps_ite ?_ ?_ | split)

theorem putDir_keeps {z0 : State} (nsid : Nat) (bale : Nat) (d : DirEntry) (s : State) (h : Keeps z0 s) : Keeps z0 (putDir nsid bale d s) := by
  unfold putDir
  try dsimp only
  with_reducible repeat' (first | assumption | (fail_if_no_progress refine keeps_upd ?_))

theorem bootDir_keeps {z0 : State} (nsid : Nat) (bale : Nat) (d : DirEntry) (s : State) (h : Keeps z0 s) : Keeps z0 (bootDir nsid bale d s) := by
  unfold bootDir
  try dsimp only
  with_reducible repeat' (first | assumption | apply putDir_keeps | (fail_if_no_progress refine keeps_upd ?_))

theorem replayRec_keeps {z0 : State} (segs : List SegCopy) (s : State) (r : JRec) (h : Keeps z0 s) : Keeps z0 (replayRec segs s r) := by
  unfold replayRec
  try dsimp only
  with_reducible repeat' (first | assumption | apply putDir_keeps | apply dropMap_keeps | apply applyDir_keeps | apply setEntry_keeps |
                                 refine keeps_foldl _ _ (fun _ _ _ => ?_) ?_ | refine keeps_ite ?_ ?_ |
                                 refine keeps_foldl_fst _ _ (fun _ _ _ => ?_) ?_ | (intro _) | split)

theorem cutJournal_keeps {z0 : State} (s : State) (h : Keeps z0 s) : Keeps z0 (cutJournal s) := by
  unfold cutJournal
  try dsimp only
  with_reducible repeat' (first | assumption | (fail_if_no_progress refine keeps_upd ?_))

theorem ownDir_keeps {z0 : State} (s : State) (h : Keeps z0 s) : Keeps z0 (ownDir s) := by
  unfold ownDir
  try dsimp only
  with_reducible repeat' (first | assumption | (fail_if_no_progress refine keeps_upd ?_) | refine keeps_ite ?_ ?_ | (intro _) | split)

theorem fillMapBlocks_keeps {z0 : State} (s : State) (h : Keeps z0 s) : Keeps z0 (fillMapBlocks s) := by
  unfold fillMapBlocks
  try dsimp only
  with_reducible repeat' (first | assumption | apply clearPages_keeps | apply touchRun_keeps | refine keeps_foldl _ _ (fun _ _ _ => ?_) ?_ |
                                 refine keeps_ite ?_ ?_ | refine keeps_foldl_fst _ _ (fun _ _ _ => ?_) ?_ | (intro _) | split)

theorem rebuildMap_keeps {z0 : State} (bad : List (Nat × Nat)) (s0 : State) (h : Keeps z0 s0) : Keeps z0 (rebuildMap bad s0) := by
  unfold rebuildMap
  try dsimp only
  with_reducible repeat' (first | assumption | apply fillMapBlocks_keeps | apply ownDir_keeps | apply cutJournal_keeps | apply replayRec_keeps |
                                 apply bootDir_keeps | refine keeps_foldl _ _ (fun _ _ _ => ?_) ?_ | (fail_if_no_progress refine keeps_upd ?_) |
                                 refine keeps_ite ?_ ?_ | refine keeps_foldl_fst _ _ (fun _ _ _ => ?_) ?_ | (intro _) | split)

theorem recoverOpen_keeps {z0 : State} (s : State) (bk : Nat) (h : Keeps z0 s) : Keeps z0 (recoverOpen s bk) := by
  unfold recoverOpen
  try dsimp only
  with_reducible repeat' (first | assumption | apply setBlk_keeps | (fail_if_no_progress refine keeps_upd ?_) | refine keeps_ite ?_ ?_ | (intro _) |
                                 split)

theorem recoverMove_keeps {z0 : State} (s : State) (e : Nat × DirEntry) (h : Keeps z0 s) : Keeps z0 (recoverMove s e) := by
  unfold recoverMove
  try dsimp only
  with_reducible repeat' (first | assumption | apply resumeMove_keeps | apply send_keeps | refine keeps_foldl _ _ (fun _ _ _ => ?_) ?_ |
                                 refine keeps_ite ?_ ?_ | refine keeps_foldl_fst _ _ (fun _ _ _ => ?_) ?_ | (intro _) | split)

theorem unansweredMove_keeps {z0 : State} (s : State) (e : Nat × DirEntry) (h : Keeps z0 s) : Keeps z0 (unansweredMove s e) := by
  unfold unansweredMove
  try dsimp only
  with_reducible repeat' (first | assumption | apply resumeMove_keeps | apply setDir_keeps | (fail_if_no_progress refine keeps_upd ?_) |
                                 refine keeps_ite ?_ ?_ | (intro _) | split)

theorem resumeRelocs_keeps {z0 : State} (s : State) (h : Keeps z0 s) : Keeps z0 (resumeRelocs s) := by
  unfold resumeRelocs
  try dsimp only
  with_reducible repeat' (first | assumption | apply retire_keeps | apply relocateBlock_keeps | refine keeps_foldl _ _ (fun _ _ _ => ?_) ?_ |
                                 refine keeps_ite ?_ ?_ | refine keeps_foldl_fst _ _ (fun _ _ _ => ?_) ?_ | (intro _) | split)

theorem recoverMedia_keeps {z0 : State} (s : State) (h : Keeps z0 s) : Keeps z0 (recoverMedia s) := by
  unfold recoverMedia
  extract_lets opened s1 idle s2 r1 s3 s4 erase empty r2 s5 s6
  have h1 : Keeps z0 s1 := keeps_foldl _ _ (fun _ _ h => recoverOpen_keeps _ _ h) h
  clear_value s1
  have h2 : Keeps z0 s2 := keeps_foldl _ _ (fun _ _ h => setBlk_keeps _ _ _ h) h1
  clear_value s2
  have h3 : Keeps z0 s3 := keeps_upd h2
  clear_value s3
  have h4 : Keeps z0 s4 := resumeRelocs_keeps _ (keeps_foldl _ _ (fun _ _ h => keeps_ite (restoreReserve_keeps _ _ h) h) h3)
  clear_value s4
  have h5 : Keeps z0 s5 := formatFinish_keeps _ (keeps_upd h4)
  clear_value s5
  have h6 : Keeps z0 s6 := keeps_foldl _ _ (fun _ _ h => recoverMove_keeps _ _ h) h5
  exact keeps_ite (sanitizeWork_keeps _ _ h6) h6

theorem unwrapRoot_keeps {z0 : State} (s : State) (h : Keeps z0 s) : Keeps z0 (unwrapRoot s) := by
  unfold unwrapRoot
  try dsimp only
  with_reducible repeat' (first | assumption | apply extinguish_keeps | apply raise_keeps | (fail_if_no_progress refine keeps_upd ?_) |
                                 (fail_if_no_progress refine keeps_updf (Nat.le_add_right _ _) ?_) | refine keeps_ite ?_ ?_ | split)

theorem markDevice_keeps {z0 : State} (w : Nat) (d : Nat) (byHost : Bool) (s : State) (h : Keeps z0 s) : Keeps z0 (markDevice w d byHost s) := by
  unfold markDevice
  try dsimp only
  with_reducible repeat' (first | assumption | apply logOcc_keeps | apply raise_keeps | apply setDram_keeps |
                                 (fail_if_no_progress refine keeps_upd ?_))

theorem trainDram_keeps {z0 : State} (devices : List (Nat × Nat)) (s : State) (h : Keeps z0 s) : Keeps z0 (trainDram devices s) := by
  unfold trainDram
  try dsimp only
  with_reducible repeat' (first | assumption | apply markDevice_keeps | apply extinguish_keeps | apply setDram_keeps |
                                 refine keeps_foldl _ _ (fun _ _ _ => ?_) ?_ | (fail_if_no_progress refine keeps_upd ?_) | refine keeps_ite ?_ ?_ |
                                 refine keeps_foldl_fst _ _ (fun _ _ _ => ?_) ?_ | (intro _) | split)

theorem burnFuses_keeps {z0 : State} (s : State) (h : Keeps z0 s) : Keeps z0 (burnFuses s) := by
  unfold burnFuses
  extract_lets img svn rev
  have hs : min 64 s.sec.svn ≤ svn := by
    show min 64 s.sec.svn ≤ if imgBurn img ∧ s.sec.svn < imgSvn img then min 64 (imgSvn img) else s.sec.svn
    split
    · omega
    · exact Nat.min_le_right _ _
  refine keeps_ite h (logOcc_keeps _ _ _ _ ?_)
  exact keeps_of h rfl rfl hs (lor_absorb _ _) h.2.2.2.2.1 (Nat.le_refl _) (Nat.min_le_right _ _)

theorem rejoinStart_keeps {z0 : State} (s : State) (h : Keeps z0 s) : Keeps z0 (rejoinStart s) := by
  unfold rejoinStart
  try dsimp only
  with_reducible repeat' (first | assumption | apply send_keeps | (fail_if_no_progress refine keeps_upd ?_) | refine keeps_ite ?_ ?_ | split)

theorem enterLit_keeps {z0 : State} (s : State) (h : Keeps z0 s) : Keeps z0 (enterLit s) := by
  unfold enterLit
  try dsimp only
  with_reducible repeat' (first | assumption | apply rejoinStart_keeps | apply burnFuses_keeps | apply sanitizeResume_keeps | apply settleAll_keeps |
                                 apply kindlingEnds_keeps | apply setMode_keeps)

theorem forecourtStart_keeps {z0 : State} (s : State) (h : Keeps z0 s) : Keeps z0 (forecourtStart s) := by
  unfold forecourtStart
  try dsimp only
  with_reducible repeat' (first | assumption | (fail_if_no_progress refine keeps_upd ?_) | refine keeps_ite ?_ ?_ | split)

theorem kindlingStep_keeps {z0 : State} (n : Nat) (bits : Nat) (devices : List (Nat × Nat)) (s : State) (h : Keeps z0 s) : Keeps z0 (kindlingStep n
    bits devices s) := by
  unfold kindlingStep
  try dsimp only
  with_reducible repeat' (first | assumption | apply forecourtStart_keeps | apply enterLit_keeps | apply trainDram_keeps | apply unwrapRoot_keeps |
                                 apply recoverMedia_keeps | apply unansweredMove_keeps | apply rebuildMap_keeps | apply startLinks_keeps |
                                 apply llSelect_keeps | apply bootChoose_keeps | apply auditAll_keeps | apply wingFault_keeps | apply extinguish_keeps
                                 | apply extinguishBy_keeps | refine keeps_foldl _ _ (fun _ _ _ => ?_) ?_ | (fail_if_no_progress refine keeps_upd ?_)
                                 | refine keeps_ite ?_ ?_ | (intro _) | split)

theorem execKindlingStepDone_keeps {z0 : State} (step : Fin 10) (bits : BitVec 8) (devices : List (Nat × Nat)) (s : State) (h : Keeps z0 s) : ∃ t,
    execKindlingStepDone step bits devices s = .next t ∧ Keeps z0 t := by
  unfold execKindlingStepDone
  refine ⟨_, rfl, ?_⟩
  try dsimp only
  with_reducible repeat' (first | assumption | apply kindlingStep_keeps | (fail_if_no_progress refine keeps_upd ?_) | refine keeps_ite ?_ ?_ |
                                 (intro _) | split)

theorem releaseReset_keeps {z0 : State} (s : State) (h : Keeps z0 s) : Keeps z0 (releaseReset s) := by
  unfold releaseReset
  try dsimp only
  with_reducible repeat' (first | assumption | apply startKindling_keeps | (fail_if_no_progress refine keeps_upd ?_) | refine keeps_ite ?_ ?_ | split)

theorem execEmberFlushEnd_keeps {z0 : State} (s : State) (h : Keeps z0 s) : ∃ t, execEmberFlushEnd s = .next t ∧ Keeps z0 t := by
  unfold execEmberFlushEnd
  refine ⟨_, rfl, ?_⟩
  try dsimp only
  with_reducible repeat' (first | assumption | apply releaseReset_keeps | apply settleExt_keeps | apply enterDark_keeps | apply sendAll_keeps |
                                 apply setCritWarn_keeps | apply postDeferred_keeps | (fail_if_no_progress refine keeps_upd ?_) |
                                 refine keeps_ite ?_ ?_ | (intro _) | split)

theorem execPerstAsserted_keeps {z0 : State} (s : State) (h : Keeps z0 s) : ∃ t, execPerstAsserted s = .next t ∧ Keeps z0 t := by
  unfold execPerstAsserted
  refine ⟨_, rfl, ?_⟩
  try dsimp only
  with_reducible repeat' (first | assumption | apply relockDebug_keeps | apply roleEnds_keeps | (fail_if_no_progress refine keeps_upd ?_) |
                                 refine keeps_ite ?_ ?_ | split)

theorem execPerstDeasserted_keeps {z0 : State} (s : State) (h : Keeps z0 s) : ∃ t, execPerstDeasserted s = .next t ∧ Keeps z0 t := by
  unfold execPerstDeasserted
  refine ⟨_, rfl, ?_⟩
  try dsimp only
  with_reducible repeat' (first | assumption | apply releaseReset_keeps | (fail_if_no_progress refine keeps_upd ?_) | refine keeps_ite ?_ ?_ | split)

theorem subsystemReset_keeps {z0 : State} (s : State) (h : Keeps z0 s) : Keeps z0 (subsystemReset s) := by
  unfold subsystemReset
  try dsimp only
  with_reducible repeat' (first | assumption | apply releaseReset_keeps | (fail_if_no_progress refine keeps_upd ?_) | refine keeps_ite ?_ ?_ | split)

theorem execNvmSubsystemReset_keeps {z0 : State} (s : State) (h : Keeps z0 s) : ∃ t, execNvmSubsystemReset s = .next t ∧ Keeps z0 t := by
  unfold execNvmSubsystemReset
  refine ⟨_, rfl, ?_⟩
  try dsimp only
  with_reducible repeat' (first | assumption | apply subsystemReset_keeps | refine keeps_ite ?_ ?_ | split)

theorem execMiReset_keeps {z0 : State} (s : State) (h : Keeps z0 s) : ∃ t, execMiReset s = .next t ∧ Keeps z0 t := by
  unfold execMiReset
  refine ⟨_, rfl, ?_⟩
  try dsimp only
  with_reducible repeat' (first | assumption | apply subsystemReset_keeps)

theorem execConfigRequest_keeps {z0 : State} (s : State) (h : Keeps z0 s) : ∃ t, execConfigRequest s = .next t ∧ Keeps z0 t := by
  unfold execConfigRequest
  refine ⟨_, rfl, ?_⟩
  try dsimp only
  with_reducible repeat' (first | assumption | (fail_if_no_progress refine keeps_upd ?_))

end Sys2Proof.Machine
end

