-- ==== Sys2Proof/Laws/KeepsHost.lean ====
section
/-! SUPPORT. What every step keeps (`Keeps`): host I/O, controllers and admin commands. For each operation `f` the lemma `f_keeps` says that it keeps it;
for the meaning of a command it says that the command has a next state and keeps it. -/

namespace Sys2Proof.Machine

set_option Elab.async false
set_option linter.all false
set_option maxRecDepth 20000

theorem addError_keeps {z0 : State} (fn : Nat) (sq : Nat) (cid : Nat) (st : Status) (loc : Nat) (lba : Nat) (nsid : Nat) (s : State) (h : Keeps z0 s)
    : Keeps z0 (addError fn sq cid st loc lba nsid s) := by
  unfold addError
  try dsimp only
  with_reducible repeat' (first | assumption | apply count_keeps | (fail_if_no_progress refine keeps_upd ?_))

theorem sqDoorbell_keeps {z0 : State} (fn : Nat) (y : Nat) (tail : Nat) (s : State) (h : Keeps z0 s) : Keeps z0 (sqDoorbell fn y tail s) := by
  unfold sqDoorbell
  try dsimp only
  with_reducible repeat' (first | assumption | apply addError_keeps | apply setCtrl_keeps | (fail_if_no_progress refine keeps_upd ?_) |
                                 refine keeps_ite ?_ ?_ | split)

theorem cqDoorbell_keeps {z0 : State} (fn : Nat) (y : Nat) (head : Nat) (s : State) (h : Keeps z0 s) : Keeps z0 (cqDoorbell fn y head s) := by
  unfold cqDoorbell
  try dsimp only
  with_reducible repeat' (first | assumption | apply addError_keeps | apply setCtrl_keeps | (fail_if_no_progress refine keeps_upd ?_) |
                                 refine keeps_ite ?_ ?_ | split)

theorem execSqTailDoorbell_keeps {z0 : State} (fn : Fin 1024) (sq : BitVec 16) (tail : BitVec 16) (s : State) (h : Keeps z0 s) : ∃ t,
    execSqTailDoorbell fn sq tail s = .next t ∧ Keeps z0 t := by
  unfold execSqTailDoorbell
  refine ⟨_, rfl, ?_⟩
  try dsimp only
  with_reducible repeat' (first | assumption | apply sqDoorbell_keeps | refine keeps_ite ?_ ?_ | split)

theorem execCqHeadDoorbell_keeps {z0 : State} (fn : Fin 1024) (cq : BitVec 16) (head : BitVec 16) (s : State) (h : Keeps z0 s) : ∃ t,
    execCqHeadDoorbell fn cq head s = .next t ∧ Keeps z0 t := by
  unfold execCqHeadDoorbell
  refine ⟨_, rfl, ?_⟩
  try dsimp only
  with_reducible repeat' (first | assumption | apply cqDoorbell_keeps | refine keeps_ite ?_ ?_ | split)

theorem takeEntry_keeps {z0 : State} (fn : Nat) (sq : Nat) (s : State) (h : Keeps z0 s) : Keeps z0 (takeEntry fn sq s) := by
  unfold takeEntry
  try dsimp only
  with_reducible repeat' (first | assumption | apply setCtrl_keeps | (fail_if_no_progress refine keeps_upd ?_) | split)

theorem addCmd_keeps {z0 : State} (c : OutCmd) (s : State) (h : Keeps z0 s) : Keeps z0 (addCmd c s) := by
  unfold addCmd
  try dsimp only
  with_reducible repeat' (first | assumption | (fail_if_no_progress refine keeps_upd ?_))

theorem fetchLocking_keeps {z0 : State} (fn : Nat) (sq : Nat) (c : OutCmd) (s : State) (h : Keeps z0 s) : Keeps z0 (fetchLocking fn sq c s) := by
  unfold fetchLocking
  try dsimp only
  with_reducible repeat' (first | assumption | apply addCmd_keeps | apply takeEntry_keeps | apply admitCmd_keeps | apply raise_keeps |
                                 (fail_if_no_progress refine keeps_upd ?_) | refine keeps_ite ?_ ?_ | (intro _) | split)

theorem execCommandFetch_keeps {z0 : State} (fn : Fin 1024) (sq : BitVec 16) (sqe : Sqe) (s : State) (h : Keeps z0 s) : ∃ t, execCommandFetch fn sq
    sqe s = .next t ∧ Keeps z0 t := by
  unfold execCommandFetch
  refine ⟨_, rfl, ?_⟩
  try dsimp only
  with_reducible repeat' (first | assumption | apply fetchLocking_keeps | apply addCmd_keeps | apply takeEntry_keeps | apply denied_keeps |
                                 apply completeCmd_keeps | apply cntMod_keeps | apply count_keeps | apply cntFnAdd_keeps |
                                 (fail_if_no_progress refine keeps_upd ?_) | refine keeps_ite ?_ ?_ | (intro _) | split)

theorem forParts_keeps {z0 : State} (station : Nat) (r : CmdRef) (opc : Nat) (f : PartRef → State → State) (s : State) (h_f : ∀ (x0 : PartRef) (x1 :
    State), Keeps z0 x1 → Keeps z0 (f x0 x1)) (h : Keeps z0 s) : Keeps z0 (forParts station r opc f s) := by
  unfold forParts
  try dsimp only
  with_reducible repeat' (first | assumption | apply h_f | refine keeps_foldl _ _ (fun _ _ _ => ?_) ?_ | refine keeps_ite ?_ ?_ | (intro _) | split)

theorem noteBytes_keeps {z0 : State} (nsid : Nat) (slba : Nat) (nlb : Nat) (write : Bool) (s : State) (h : Keeps z0 s) : Keeps z0 (noteBytes nsid slba
    nlb write s) := by
  unfold noteBytes
  try dsimp only
  with_reducible repeat' (first | assumption | refine keeps_foldl _ _ (fun _ _ _ => ?_) ?_ | (fail_if_no_progress refine keeps_upd ?_) |
                                 refine keeps_ite ?_ ?_ | refine keeps_foldl_fst _ _ (fun _ _ _ => ?_) ?_ | (intro _) | split)

theorem sendMirror_keeps {z0 : State} (r : PartRef) (grains : List (GrainId × GrainImg)) (bytes : Nat) (s : State) (h : Keeps z0 s) : Keeps z0
    (sendMirror r grains bytes s) := by
  unfold sendMirror
  try dsimp only
  with_reducible repeat' (first | assumption | apply updPart_keeps | apply send_keeps | (fail_if_no_progress refine keeps_upd ?_) |
                                 refine keeps_ite ?_ ?_ | (intro _) | split)

theorem writePart_keeps {z0 : State} (r : PartRef) (s : State) (h : Keeps z0 s) : Keeps z0 (writePart r s) := by
  unfold writePart
  try dsimp only
  with_reducible repeat' (first | assumption | apply sendMirror_keeps | apply noteBytes_keeps | apply placeLocal_keeps | apply landGrain_keeps |
                                 apply markRebuilt_keeps | apply updPart_keeps | apply cntMod_keeps | apply cntFnAdd_keeps |
                                 refine keeps_foldl _ _ (fun _ _ _ => ?_) ?_ | (fail_if_no_progress refine keeps_upd ?_) | refine keeps_ite ?_ ?_ |
                                 refine keeps_foldl_fst _ _ (fun _ _ _ => ?_) ?_ | (intro _) | split)

theorem execWrite_keeps {z0 : State} (station : Fin 64) (r : CmdRef) (s : State) (h : Keeps z0 s) : ∃ t, execWrite station r s = .next t ∧ Keeps z0 t
    := by
  unfold execWrite
  refine ⟨_, rfl, ?_⟩
  try dsimp only
  with_reducible repeat' (first | assumption | apply writePart_keeps | apply forParts_keeps)

theorem issueReads_keeps {z0 : State} (r : PartRef) (p : Part) (s : State) (h : Keeps z0 s) : Keeps z0 (issueReads r p s) := by
  unfold issueReads
  try dsimp only
  with_reducible repeat' (first | assumption | apply updPart_keeps | apply addRead_keeps | refine keeps_foldl _ _ (fun _ _ _ => ?_) ?_ |
                                 (fail_if_no_progress refine keeps_upd ?_) | refine keeps_ite ?_ ?_ | refine keeps_foldl_fst _ _ (fun _ _ _ => ?_) ?_
                                 | (intro _) | split)

theorem storeData_keeps {z0 : State} (r : PartRef) (p : Part) (n : NsInfo) (b : List Byte × List Byte) (s : State) (h : Keeps z0 s) : Keeps z0
    (storeData r p n b s) := by
  unfold storeData
  try dsimp only
  with_reducible repeat' (first | assumption | apply updForeign_keeps | apply updCmd_keeps | (fail_if_no_progress refine keeps_upd ?_) |
                                 refine keeps_ite ?_ ?_ | (intro _) | split)

theorem readPart_keeps {z0 : State} (use : Part → NsInfo → List (List Byte × List Byte) → State → State) (r : PartRef) (s : State) (h_use : ∀ (x0 :
    Part) (x1 : NsInfo) (x2 : List (List Byte × List Byte)) (x3 : State), Keeps z0 x3 → Keeps z0 (use x0 x1 x2 x3)) (h : Keeps z0 s) : Keeps z0
    (readPart use r s) := by
  unfold readPart
  try dsimp only
  with_reducible repeat' (first | assumption | apply h_use | apply issueReads_keeps | apply noteBytes_keeps | apply partRead_keeps |
                                 apply updPart_keeps | (fail_if_no_progress refine keeps_upd ?_) | (intro _) | split)

theorem execRead_keeps {z0 : State} (station : Fin 64) (r : CmdRef) (s : State) (h : Keeps z0 s) : ∃ t, execRead station r s = .next t ∧ Keeps z0 t :=
    by
  unfold execRead
  refine ⟨_, rfl, ?_⟩
  try dsimp only
  with_reducible repeat' (first | assumption | apply readPart_keeps | apply storeData_keeps | apply forParts_keeps | (intro _))

theorem execCompare_keeps {z0 : State} (station : Fin 64) (r : CmdRef) (s : State) (h : Keeps z0 s) : ∃ t, execCompare station r s = .next t ∧ Keeps
    z0 t := by
  unfold execCompare
  refine ⟨_, rfl, ?_⟩
  try dsimp only
  with_reducible repeat' (first | assumption | apply readPart_keeps | apply forParts_keeps | apply updPart_keeps |
                                 (fail_if_no_progress refine keeps_upd ?_) | refine keeps_ite ?_ ?_ | (intro _) | split)

theorem execVerify_keeps {z0 : State} (station : Fin 64) (r : CmdRef) (s : State) (h : Keeps z0 s) : ∃ t, execVerify station r s = .next t ∧ Keeps z0
    t := by
  unfold execVerify
  refine ⟨_, rfl, ?_⟩
  try dsimp only
  with_reducible repeat' (first | assumption | apply readPart_keeps | apply forParts_keeps | (intro _))

theorem trimPart_keeps {z0 : State} (r : PartRef) (s : State) (h : Keeps z0 s) : Keeps z0 (trimPart r s) := by
  unfold trimPart
  try dsimp only
  with_reducible repeat' (first | assumption | apply sendMirror_keeps | apply settlePart_keeps | apply addRecords_keeps | apply markRebuilt_keeps |
                                 apply updPart_keeps | apply jrn_keeps | refine keeps_foldl _ _ (fun _ _ _ => ?_) ?_ |
                                 (fail_if_no_progress refine keeps_upd ?_) | refine keeps_ite ?_ ?_ | refine keeps_foldl_fst _ _ (fun _ _ _ => ?_) ?_
                                 | (intro _) | split)

theorem execWriteZeroes_keeps {z0 : State} (station : Fin 64) (r : CmdRef) (s : State) (h : Keeps z0 s) : ∃ t, execWriteZeroes station r s = .next t ∧
    Keeps z0 t := by
  unfold execWriteZeroes
  refine ⟨_, rfl, ?_⟩
  try dsimp only
  with_reducible repeat' (first | assumption | apply trimPart_keeps | apply forParts_keeps)

theorem execDatasetManagement_keeps {z0 : State} (station : Fin 64) (r : CmdRef) (s : State) (h : Keeps z0 s) : ∃ t, execDatasetManagement station r s
    = .next t ∧ Keeps z0 t := by
  unfold execDatasetManagement
  refine ⟨_, rfl, ?_⟩
  try dsimp only
  with_reducible repeat' (first | assumption | apply trimPart_keeps | apply forParts_keeps | apply completeCmd_keeps | refine keeps_ite ?_ ?_ | split)

theorem execFlush_keeps {z0 : State} (r : CmdRef) (s : State) (h : Keeps z0 s) : ∃ t, execFlush r s = .next t ∧ Keeps z0 t := by
  unfold execFlush
  refine ⟨_, rfl, ?_⟩
  try dsimp only
  with_reducible repeat' (first | assumption | apply completeCmd_keeps | refine keeps_ite ?_ ?_ | split)

theorem countOut_keeps {z0 : State} (fn : Nat) (n : Nat) (s : State) (h : Keeps z0 s) : Keeps z0 (countOut fn n s) := by
  unfold countOut
  try dsimp only
  with_reducible repeat' (first | assumption | apply cntMod_keeps | apply cntFnAdd_keeps)

theorem transferFails_keeps {z0 : State} (r : CmdRef) (s : State) (h : Keeps z0 s) : Keeps z0 (transferFails r s) := by
  unfold transferFails
  try dsimp only
  with_reducible repeat' (first | assumption | apply endCmd_keeps | refine keeps_ite ?_ ?_ | (intro _) | split)

theorem execHostTransferDone_keeps {z0 : State} (station : Fin 64) (r : CmdRef) (part : Nat) (good : Bool) (s : State) (h : Keeps z0 s) : ∃ t,
    execHostTransferDone station r part good s = .next t ∧ Keeps z0 t := by
  unfold execHostTransferDone
  refine ⟨_, rfl, ?_⟩
  try dsimp only
  with_reducible repeat' (first | assumption | apply transferFails_keeps | apply countOut_keeps | apply releasePart_keeps | apply updPart_keeps |
                                 (fail_if_no_progress refine keeps_upd ?_) | refine keeps_ite ?_ ?_ | (intro _) | split)

theorem execForwardedPart_keeps {z0 : State} (station : Fin 64) (r : CmdRef) (part : Nat) (slba : Nat) (nlb : Nat) (gen : Nat) (sqe : Sqe) (s : State)
    (h : Keeps z0 s) : ∃ t, execForwardedPart station r part slba nlb gen sqe s = .next t ∧ Keeps z0 t := by
  unfold execForwardedPart
  refine ⟨_, rfl, ?_⟩
  try dsimp only
  with_reducible repeat' (first | assumption | apply admitForeign_keeps | apply returnPart_keeps | apply cntMod_keeps |
                                 (fail_if_no_progress refine keeps_upd ?_) | refine keeps_ite ?_ ?_ | split)

theorem copySlm_keeps {z0 : State} (r : CmdRef) (s : State) (h : Keeps z0 s) : Keeps z0 (copySlm r s) := by
  unfold copySlm
  try dsimp only
  with_reducible repeat' (first | assumption | apply slmWrite_keeps | apply updCmd_keeps | refine keeps_foldl _ _ (fun _ _ _ => ?_) ?_ |
                                 (fail_if_no_progress refine keeps_upd ?_) | refine keeps_ite ?_ ?_ | refine keeps_foldl_fst _ _ (fun _ _ _ => ?_) ?_
                                 | (intro _) | split)

theorem execForwardedData_keeps {z0 : State} (station : Fin 64) (r : CmdRef) (part : Nat) (atOwner : Bool) (data : List (BitVec 8)) (md : List (BitVec
    8)) (s : State) (h : Keeps z0 s) : ∃ t, execForwardedData station r part atOwner data md s = .next t ∧ Keeps z0 t := by
  unfold execForwardedData
  refine ⟨_, rfl, ?_⟩
  try dsimp only
  with_reducible repeat' (first | assumption | apply storeData_keeps | apply updPart_keeps | apply updForeign_keeps | apply slmWrite_keeps |
                                 apply updCmd_keeps | (fail_if_no_progress refine keeps_upd ?_) | refine keeps_ite ?_ ?_ | (intro _) | split)

theorem execPartStatus_keeps {z0 : State} (r : CmdRef) (part : Nat) (sct : Nat) (sc : Nat) (s : State) (h : Keeps z0 s) : ∃ t, execPartStatus r part
    sct sc s = .next t ∧ Keeps z0 t := by
  unfold execPartStatus
  refine ⟨_, rfl, ?_⟩
  try dsimp only
  with_reducible repeat' (first | assumption | apply copySlm_keeps | apply finishCmd_keeps | apply releaseRouted_keeps | apply updPart_keeps |
                                 (fail_if_no_progress refine keeps_upd ?_) | refine keeps_ite ?_ ?_ | (intro _) | split)

theorem recallParts_keeps {z0 : State} (c : OutCmd) (why : Nat) (s : State) (h : Keeps z0 s) : Keeps z0 (recallParts c why s) := by
  unfold recallParts
  try dsimp only
  with_reducible repeat' (first | assumption | apply sendParts_keeps | split)

theorem discardCmd_keeps {z0 : State} (c : OutCmd) (s : State) (h : Keeps z0 s) : Keeps z0 (discardCmd c s) := by
  unfold discardCmd
  try dsimp only
  with_reducible repeat' (first | assumption | apply recallParts_keeps | apply dropCmd_keeps | apply endThread_keeps |
                                 (fail_if_no_progress refine keeps_upd ?_) | (intro _) | split)

theorem resetCmds_keeps {z0 : State} (fn : Nat) (s : State) (h : Keeps z0 s) : Keeps z0 (resetCmds fn s) := by
  unfold resetCmds
  try dsimp only
  with_reducible repeat' (first | assumption | apply discardCmd_keeps | apply updCmd_keeps | refine keeps_foldl _ _ (fun _ _ _ => ?_) ?_ |
                                 (fail_if_no_progress refine keeps_upd ?_) | refine keeps_ite ?_ ?_ | (intro _) | split)

theorem resetRegs_keeps {z0 : State} (fn : Nat) (s : State) (h : Keeps z0 s) : Keeps z0 (resetRegs fn s) := by
  unfold resetRegs
  try dsimp only
  with_reducible repeat' (first | assumption | apply setCtrl_keeps | (fail_if_no_progress refine keeps_upd ?_) | refine keeps_ite ?_ ?_ | (intro _) |
                                 split)

theorem controllerReset_keeps {z0 : State} (fn : Nat) (s : State) (h : Keeps z0 s) : Keeps z0 (controllerReset fn s) := by
  unfold controllerReset
  try dsimp only
  with_reducible repeat' (first | assumption | apply resetRegs_keeps | apply resetCmds_keeps | apply roleEnds_keeps | apply settleFn_keeps |
                                 refine keeps_ite ?_ ?_ | split)

theorem execControllerReset_keeps {z0 : State} (fn : Fin 1024) (s : State) (h : Keeps z0 s) : ∃ t, execControllerReset fn s = .next t ∧ Keeps z0 t :=
    by
  unfold execControllerReset
  refine ⟨_, rfl, ?_⟩
  try dsimp only
  with_reducible repeat' (first | assumption | apply controllerReset_keeps | refine keeps_ite ?_ ?_ | split)

theorem ctrlEnable_keeps {z0 : State} (fn : Nat) (cc : Nat) (aqa : Nat) (asq : Nat) (acq : Nat) (s : State) (h : Keeps z0 s) : Keeps z0 (ctrlEnable fn
    cc aqa asq acq s) := by
  unfold ctrlEnable
  try dsimp only
  with_reducible repeat' (first | assumption | apply setCtrl_keeps | (fail_if_no_progress refine keeps_upd ?_))

theorem execControllerEnable_keeps {z0 : State} (fn : Fin 1024) (cc : BitVec 32) (aqa : BitVec 32) (asq : Word) (acq : Word) (s : State) (h : Keeps z0
    s) : ∃ t, execControllerEnable fn cc aqa asq acq s = .next t ∧ Keeps z0 t := by
  unfold execControllerEnable
  refine ⟨_, rfl, ?_⟩
  try dsimp only
  with_reducible repeat' (first | assumption | apply ctrlEnable_keeps | refine keeps_ite ?_ ?_ | split)

theorem ctrlNotify_keeps {z0 : State} (fn : Nat) (shn : Nat) (s : State) (h : Keeps z0 s) : Keeps z0 (ctrlNotify fn shn s) := by
  unfold ctrlNotify
  try dsimp only
  with_reducible repeat' (first | assumption | apply setCtrl_keeps | (fail_if_no_progress refine keeps_upd ?_) | refine keeps_ite ?_ ?_ | split)

theorem execShutdownNotification_keeps {z0 : State} (fn : Fin 1024) (shn : BitVec 2) (s : State) (h : Keeps z0 s) : ∃ t, execShutdownNotification fn
    shn s = .next t ∧ Keeps z0 t := by
  unfold execShutdownNotification
  refine ⟨_, rfl, ?_⟩
  try dsimp only
  with_reducible repeat' (first | assumption | apply ctrlNotify_keeps | refine keeps_ite ?_ ?_ | split)

theorem execShutdownProcessingDone_keeps {z0 : State} (fn : Fin 1024) (s : State) (h : Keeps z0 s) : ∃ t, execShutdownProcessingDone fn s = .next t ∧
    Keeps z0 t := by
  unfold execShutdownProcessingDone
  refine ⟨_, rfl, ?_⟩
  try dsimp only
  with_reducible repeat' (first | assumption | apply releaseReset_keeps | apply setCtrl_keeps | (fail_if_no_progress refine keeps_upd ?_) |
                                 refine keeps_ite ?_ ?_ | split)

theorem resetAll_keeps {z0 : State} (s : State) (h : Keeps z0 s) : Keeps z0 (resetAll s) := by
  unfold resetAll
  try dsimp only
  with_reducible repeat' (first | assumption | apply controllerReset_keeps | refine keeps_foldl _ _ (fun _ _ _ => ?_) ?_ | (intro _))

theorem execHotReset_keeps {z0 : State} (s : State) (h : Keeps z0 s) : ∃ t, execHotReset s = .next t ∧ Keeps z0 t := by
  unfold execHotReset
  refine ⟨_, rfl, ?_⟩
  try dsimp only
  with_reducible repeat' (first | assumption | apply resetAll_keeps | (fail_if_no_progress refine keeps_upd ?_) | refine keeps_ite ?_ ?_ | split)

theorem execDlUp_keeps {z0 : State} (s : State) (h : Keeps z0 s) : ∃ t, execDlUp s = .next t ∧ Keeps z0 t := by
  unfold execDlUp
  refine ⟨_, rfl, ?_⟩
  try dsimp only
  with_reducible repeat' (first | assumption | (fail_if_no_progress refine keeps_upd ?_) | refine keeps_ite ?_ ?_ | split)

theorem execLinkPowerStateChange_keeps {z0 : State} (inL1 : Bool) (width : Fin 9) (s : State) (h : Keeps z0 s) : ∃ t, execLinkPowerStateChange inL1
    width s = .next t ∧ Keeps z0 t := by
  unfold execLinkPowerStateChange
  refine ⟨_, rfl, ?_⟩
  try dsimp only
  with_reducible repeat' (first | assumption | (fail_if_no_progress refine keeps_upd ?_) | refine keeps_ite ?_ ?_ | split)

theorem execDevicePowerStateChange_keeps {z0 : State} (fn : Fin 1024) (d3 : Bool) (s : State) (h : Keeps z0 s) : ∃ t, execDevicePowerStateChange fn d3
    s = .next t ∧ Keeps z0 t := by
  unfold execDevicePowerStateChange
  refine ⟨_, rfl, ?_⟩
  try dsimp only
  with_reducible repeat' (first | assumption | apply postDeferred_keeps | apply setCtrl_keeps | (fail_if_no_progress refine keeps_upd ?_) |
                                 refine keeps_ite ?_ ?_ | (intro _) | split)

theorem endFnTasks_keeps {z0 : State} (fn : Nat) (s : State) (h : Keeps z0 s) : Keeps z0 (endFnTasks fn s) := by
  unfold endFnTasks
  try dsimp only
  with_reducible repeat' (first | assumption | apply wbCancel_keeps | apply retireTask_keeps | refine keeps_foldl _ _ (fun _ _ _ => ?_) ?_ |
                                 (intro _))

theorem dropImageOf_keeps {z0 : State} (fn : Nat) (s : State) (h : Keeps z0 s) : Keeps z0 (dropImageOf fn s) := by
  unfold dropImageOf
  try dsimp only
  with_reducible repeat' (first | assumption | apply dropImage_keeps | refine keeps_ite ?_ ?_ | split)

theorem vfReset_keeps {z0 : State} (fn : Nat) (s0 : State) (h : Keeps z0 s0) : Keeps z0 (vfReset fn s0) := by
  unfold vfReset
  try dsimp only
  with_reducible repeat' (first | assumption | apply dropImageOf_keeps | apply endFnTasks_keeps | apply resetRegs_keeps | apply resetCmds_keeps |
                                 apply settleFn_keeps | apply logOcc_keeps | apply raise_keeps | apply setCtrl_keeps |
                                 (fail_if_no_progress refine keeps_upd ?_) | refine keeps_ite ?_ ?_ | (intro _) | split)

theorem execFunctionLevelReset_keeps {z0 : State} (fn : Fin 1024) (s : State) (h : Keeps z0 s) : ∃ t, execFunctionLevelReset fn s = .next t ∧ Keeps z0
    t := by
  unfold execFunctionLevelReset
  refine ⟨_, rfl, ?_⟩
  try dsimp only
  with_reducible repeat' (first | assumption | apply vfReset_keeps | refine keeps_ite ?_ ?_ | split)

theorem execVfEnable_keeps {z0 : State} (num : Fin 1024) (s : State) (h : Keeps z0 s) : ∃ t, execVfEnable num s = .next t ∧ Keeps z0 t := by
  unfold execVfEnable
  refine ⟨_, rfl, ?_⟩
  try dsimp only
  with_reducible repeat' (first | assumption | (fail_if_no_progress refine keeps_upd ?_) | refine keeps_ite ?_ ?_ | split)

theorem execVfEnableCleared_keeps {z0 : State} (s : State) (h : Keeps z0 s) : ∃ t, execVfEnableCleared s = .next t ∧ Keeps z0 t := by
  unfold execVfEnableCleared
  refine ⟨_, rfl, ?_⟩
  try dsimp only
  with_reducible repeat' (first | assumption | apply vfReset_keeps | refine keeps_foldl _ _ (fun _ _ _ => ?_) ?_ |
                                 (fail_if_no_progress refine keeps_upd ?_) | refine keeps_ite ?_ ?_ | (intro _) | split)

theorem failCmd_keeps {z0 : State} (c : OutCmd) (st : Status) (s : State) (h : Keeps z0 s) : Keeps z0 (failCmd c st s) := by
  unfold failCmd
  try dsimp only
  with_reducible repeat' (first | assumption | apply completeCmd_keeps)

theorem answerData_keeps {z0 : State} (r : CmdRef) (dw0 : Nat) (data : List Byte) (s : State) (h : Keeps z0 s) : Keeps z0 (answerData r dw0 data s) :=
    by
  unfold answerData
  try dsimp only
  with_reducible repeat' (first | assumption | apply countOut_keeps | apply completeCmd_keeps)

theorem execCreateIoCq_keeps {z0 : State} (r : CmdRef) (s : State) (h : Keeps z0 s) : ∃ t, execCreateIoCq r s = .next t ∧ Keeps z0 t := by
  unfold execCreateIoCq
  refine ⟨_, rfl, ?_⟩
  try dsimp only
  with_reducible repeat' (first | assumption | apply failCmd_keeps | apply onAdmin_keeps | apply setCtrl_keeps |
                                 (fail_if_no_progress refine keeps_upd ?_) | refine keeps_ite ?_ ?_ | (intro _) | split)

theorem execCreateIoSq_keeps {z0 : State} (r : CmdRef) (s : State) (h : Keeps z0 s) : ∃ t, execCreateIoSq r s = .next t ∧ Keeps z0 t := by
  unfold execCreateIoSq
  refine ⟨_, rfl, ?_⟩
  try dsimp only
  with_reducible repeat' (first | assumption | apply failCmd_keeps | apply onAdmin_keeps | apply setCtrl_keeps |
                                 (fail_if_no_progress refine keeps_upd ?_) | refine keeps_ite ?_ ?_ | (intro _) | split)

theorem execDeleteIoCq_keeps {z0 : State} (r : CmdRef) (s : State) (h : Keeps z0 s) : ∃ t, execDeleteIoCq r s = .next t ∧ Keeps z0 t := by
  unfold execDeleteIoCq
  refine ⟨_, rfl, ?_⟩
  try dsimp only
  with_reducible repeat' (first | assumption | apply failCmd_keeps | apply onAdmin_keeps | apply setCtrl_keeps |
                                 (fail_if_no_progress refine keeps_upd ?_) | refine keeps_ite ?_ ?_ | (intro _) | split)

theorem abortAnswer_keeps {z0 : State} (r : CmdRef) (aborted : Bool) (s : State) (h : Keeps z0 s) : Keeps z0 (abortAnswer r aborted s) := by
  unfold abortAnswer
  try dsimp only
  with_reducible repeat' (first | assumption | apply completeCmd_keeps | refine keeps_ite ?_ ?_ | split)

theorem endUncommitted_keeps {z0 : State} (c : OutCmd) (why : Nat) (st : Status) (abort : Option CmdRef) (s : State) (h : Keeps z0 s) : Keeps z0
    (endUncommitted c why st abort s) := by
  unfold endUncommitted
  try dsimp only
  with_reducible repeat' (first | assumption | apply abortAnswer_keeps | apply recallParts_keeps | apply settleOne_keeps |
                                 (fail_if_no_progress refine keeps_upd ?_) | refine keeps_ite ?_ ?_ | (intro _) | split)

theorem abortDecided_keeps {z0 : State} (target : CmdRef) (why : Nat) (result : Nat) (abort : Option CmdRef) (s : State) (h : Keeps z0 s) : Keeps z0
    (abortDecided target why result abort s) := by
  unfold abortDecided
  try dsimp only
  with_reducible repeat' (first | assumption | apply abortAnswer_keeps | apply endCmd_keeps | apply updCmd_keeps |
                                 (fail_if_no_progress refine keeps_upd ?_) | refine keeps_ite ?_ ?_ | (intro _) | split)

theorem execDeleteIoSq_keeps {z0 : State} (r : CmdRef) (s : State) (h : Keeps z0 s) : ∃ t, execDeleteIoSq r s = .next t ∧ Keeps z0 t := by
  unfold execDeleteIoSq
  refine ⟨_, rfl, ?_⟩
  try dsimp only
  with_reducible repeat' (first | assumption | apply endUncommitted_keeps | apply failCmd_keeps | apply onAdmin_keeps | apply settleSq_keeps |
                                 apply setCtrl_keeps | refine keeps_foldl _ _ (fun _ _ _ => ?_) ?_ | (fail_if_no_progress refine keeps_upd ?_) |
                                 refine keeps_ite ?_ ?_ | (intro _) | split)

theorem execAbort_keeps {z0 : State} (r : CmdRef) (s : State) (h : Keeps z0 s) : ∃ t, execAbort r s = .next t ∧ Keeps z0 t := by
  unfold execAbort
  refine ⟨_, rfl, ?_⟩
  try dsimp only
  with_reducible repeat' (first | assumption | apply endUncommitted_keeps | apply abortAnswer_keeps | apply failCmd_keeps | apply onAdmin_keeps |
                                 (fail_if_no_progress refine keeps_upd ?_) | refine keeps_ite ?_ ?_ | (intro _) | split)

theorem execAsynchronousEventRequest_keeps {z0 : State} (r : CmdRef) (s : State) (h : Keeps z0 s) : ∃ t, execAsynchronousEventRequest r s = .next t ∧
    Keeps z0 t := by
  unfold execAsynchronousEventRequest
  refine ⟨_, rfl, ?_⟩
  try dsimp only
  with_reducible repeat' (first | assumption | apply failCmd_keeps | apply onAdmin_keeps | apply deliverEvents_keeps | apply setCtrl_keeps |
                                 (fail_if_no_progress refine keeps_upd ?_) | refine keeps_ite ?_ ?_ | (intro _) | split)

theorem putFeature_keeps {z0 : State} (fn : Nat) (fid : Nat) (sel : Nat) (v : Nat) (s : State) (h : Keeps z0 s) : Keeps z0 (putFeature fn fid sel v s)
    := by
  unfold putFeature
  try dsimp only
  with_reducible repeat' (first | assumption | apply setCtrl_keeps | (fail_if_no_progress refine keeps_upd ?_))

theorem execSetFeatures_keeps {z0 : State} (r : CmdRef) (s : State) (h : Keeps z0 s) : ∃ t, execSetFeatures r s = .next t ∧ Keeps z0 t := by
  unfold execSetFeatures
  refine ⟨_, rfl, ?_⟩
  try dsimp only
  with_reducible repeat' (first | assumption | apply putFeature_keeps | apply failCmd_keeps | apply onAdmin_keeps | apply setCritWarn_keeps |
                                 apply completeCmd_keeps | refine keeps_foldl _ _ (fun _ _ _ => ?_) ?_ | refine keeps_ite ?_ ?_ |
                                 refine keeps_foldl_fst _ _ (fun _ _ _ => ?_) ?_ | (intro _) | split)

theorem setHostTime_keeps {z0 : State} (t : Nat) (s : State) (h : Keeps z0 s) : Keeps z0 (setHostTime t s) := by
  unfold setHostTime
  try dsimp only
  with_reducible repeat' (first | assumption | apply raise_keeps | (fail_if_no_progress refine keeps_upd ?_) | refine keeps_ite ?_ ?_ | split)

theorem execTimestamp_keeps {z0 : State} (r : CmdRef) (s : State) (h : Keeps z0 s) : ∃ t, execTimestamp r s = .next t ∧ Keeps z0 t := by
  unfold execTimestamp
  refine ⟨_, rfl, ?_⟩
  try dsimp only
  with_reducible repeat' (first | assumption | apply setHostTime_keeps | apply failCmd_keeps | apply onAdmin_keeps | refine keeps_ite ?_ ?_ |
                                 (intro _) | split)

theorem execGetFeatures_keeps {z0 : State} (r : CmdRef) (s : State) (h : Keeps z0 s) : ∃ t, execGetFeatures r s = .next t ∧ Keeps z0 t := by
  unfold execGetFeatures
  refine ⟨_, rfl, ?_⟩
  try dsimp only
  with_reducible repeat' (first | assumption | apply answerData_keeps | apply failCmd_keeps | apply onAdmin_keeps | apply completeCmd_keeps |
                                 refine keeps_ite ?_ ?_ | (intro _) | split)

theorem putHint_keeps {z0 : State} (nsid : Nat) (v : Nat) (s : State) (h : Keeps z0 s) : Keeps z0 (putHint nsid v s) := by
  unfold putHint
  try dsimp only
  with_reducible repeat' (first | assumption | (fail_if_no_progress refine keeps_upd ?_))

theorem execPlacementHint_keeps {z0 : State} (r : CmdRef) (s : State) (h : Keeps z0 s) : ∃ t, execPlacementHint r s = .next t ∧ Keeps z0 t := by
  unfold execPlacementHint
  refine ⟨_, rfl, ?_⟩
  try dsimp only
  with_reducible repeat' (first | assumption | apply putHint_keeps | apply failCmd_keeps | apply onAdmin_keeps | apply send_keeps | apply denied_keeps
                                 | refine keeps_foldl _ _ (fun _ _ _ => ?_) ?_ | (fail_if_no_progress refine keeps_upd ?_) | refine keeps_ite ?_ ?_ |
                                 (intro _) | split)

theorem logCapture_keeps {z0 : State} (fn : Nat) (q : Sqe) (s : State) (h : Keeps z0 s) : Keeps z0 (logCapture fn q s) := by
  unfold logCapture
  try dsimp only
  with_reducible repeat' (first | assumption | (fail_if_no_progress refine keeps_upd ?_) | refine keeps_ite ?_ ?_ | split)

theorem logRead_keeps {z0 : State} (fn : Nat) (q : Sqe) (s : State) (h : Keeps z0 s) : Keeps z0 (logRead fn q s) := by
  unfold logRead
  try dsimp only
  with_reducible repeat' (first | assumption | apply setCtrl_keeps | (fail_if_no_progress refine keeps_upd ?_) | refine keeps_ite ?_ ?_ | (intro _) |
                                 split)

theorem answerLog_keeps {z0 : State} (c : OutCmd) (s : State) (h : Keeps z0 s) : Keeps z0 (answerLog c s) := by
  unfold answerLog
  try dsimp only
  with_reducible repeat' (first | assumption | apply logRead_keeps | apply logCapture_keeps | apply answerData_keeps | apply failCmd_keeps |
                                 apply deliverEvents_keeps | refine keeps_ite ?_ ?_ | split)

theorem onLog_keeps {z0 : State} (r : CmdRef) (lids : Nat → Bool) (s : State) (h : Keeps z0 s) : Keeps z0 (onLog r lids s) := by
  unfold onLog
  try dsimp only
  with_reducible repeat' (first | assumption | apply answerLog_keeps | apply onAdmin_keeps | refine keeps_ite ?_ ?_ | (intro _) | split)

theorem execGetLogPage_keeps {z0 : State} (r : CmdRef) (s : State) (h : Keeps z0 s) : ∃ t, execGetLogPage r s = .next t ∧ Keeps z0 t := by
  unfold execGetLogPage
  refine ⟨_, rfl, ?_⟩
  try dsimp only
  with_reducible repeat' (first | assumption | apply onLog_keeps | (intro _))

theorem execSmartHealthLog_keeps {z0 : State} (r : CmdRef) (s : State) (h : Keeps z0 s) : ∃ t, execSmartHealthLog r s = .next t ∧ Keeps z0 t := by
  unfold execSmartHealthLog
  refine ⟨_, rfl, ?_⟩
  try dsimp only
  with_reducible repeat' (first | assumption | apply onLog_keeps | (intro _))

theorem execTelemetryHostInitiated_keeps {z0 : State} (r : CmdRef) (s : State) (h : Keeps z0 s) : ∃ t, execTelemetryHostInitiated r s = .next t ∧
    Keeps z0 t := by
  unfold execTelemetryHostInitiated
  refine ⟨_, rfl, ?_⟩
  try dsimp only
  with_reducible repeat' (first | assumption | apply onLog_keeps | (intro _))

theorem execKeepersLogPage_keeps {z0 : State} (r : CmdRef) (s : State) (h : Keeps z0 s) : ∃ t, execKeepersLogPage r s = .next t ∧ Keeps z0 t := by
  unfold execKeepersLogPage
  refine ⟨_, rfl, ?_⟩
  try dsimp only
  with_reducible repeat' (first | assumption | apply onLog_keeps | (intro _))

theorem execPlacementReport_keeps {z0 : State} (r : CmdRef) (s : State) (h : Keeps z0 s) : ∃ t, execPlacementReport r s = .next t ∧ Keeps z0 t := by
  unfold execPlacementReport
  refine ⟨_, rfl, ?_⟩
  try dsimp only
  with_reducible repeat' (first | assumption | apply onLog_keeps | (intro _))

theorem execCounterSnapshot_keeps {z0 : State} (r : CmdRef) (s : State) (h : Keeps z0 s) : ∃ t, execCounterSnapshot r s = .next t ∧ Keeps z0 t := by
  unfold execCounterSnapshot
  refine ⟨_, rfl, ?_⟩
  try dsimp only
  with_reducible repeat' (first | assumption | apply onLog_keeps | (intro _))

theorem execCaravanStatusPage_keeps {z0 : State} (r : CmdRef) (s : State) (h : Keeps z0 s) : ∃ t, execCaravanStatusPage r s = .next t ∧ Keeps z0 t :=
    by
  unfold execCaravanStatusPage
  refine ⟨_, rfl, ?_⟩
  try dsimp only
  with_reducible repeat' (first | assumption | apply onLog_keeps | (intro _))

theorem execHealthAndRetirement_keeps {z0 : State} (r : CmdRef) (s : State) (h : Keeps z0 s) : ∃ t, execHealthAndRetirement r s = .next t ∧ Keeps z0 t
    := by
  unfold execHealthAndRetirement
  refine ⟨_, rfl, ?_⟩
  try dsimp only
  with_reducible repeat' (first | assumption | apply onLog_keeps | (intro _))

theorem execThermalAndPace_keeps {z0 : State} (r : CmdRef) (s : State) (h : Keeps z0 s) : ∃ t, execThermalAndPace r s = .next t ∧ Keeps z0 t := by
  unfold execThermalAndPace
  refine ⟨_, rfl, ?_⟩
  try dsimp only
  with_reducible repeat' (first | assumption | apply onLog_keeps | (intro _))

theorem execIdentify_keeps {z0 : State} (r : CmdRef) (s : State) (h : Keeps z0 s) : ∃ t, execIdentify r s = .next t ∧ Keeps z0 t := by
  unfold execIdentify
  refine ⟨_, rfl, ?_⟩
  try dsimp only
  with_reducible repeat' (first | assumption | apply answerData_keeps | apply failCmd_keeps | apply onAdmin_keeps | (intro _) | split)

theorem addNs_keeps {z0 : State} (nsid : Nat) (n : NsInfo) (s : State) (h : Keeps z0 s) : Keeps z0 (addNs nsid n s) := by
  unfold addNs
  try dsimp only
  with_reducible repeat' (first | assumption | (fail_if_no_progress refine keeps_upd ?_))

theorem tellNs_keeps {z0 : State} (l : List Nat) (nsid : Nat) (s : State) (h : Keeps z0 s) : Keeps z0 (tellNs l nsid s) := by
  unfold tellNs
  try dsimp only
  with_reducible repeat' (first | assumption | apply noticeNs_keeps | refine keeps_foldl _ _ (fun _ _ _ => ?_) ?_ | (intro _))

theorem deleteNs_keeps {z0 : State} (nsid : Nat) (s : State) (h : Keeps z0 s) : Keeps z0 (deleteNs nsid s) := by
  unfold deleteNs
  try dsimp only
  with_reducible repeat' (first | assumption | apply tellNs_keeps | apply putHint_keeps | apply emptyNamespace_keeps | apply advanceNs_keeps |
                                 apply endCmd_keeps | refine keeps_foldl _ _ (fun _ _ _ => ?_) ?_ | (fail_if_no_progress refine keeps_upd ?_) |
                                 (intro _))

theorem nsOrder_keeps {z0 : State} (r : CmdRef) (kind : Nat) (nsid : Nat) (nums : List Nat) (s : State) (h : Keeps z0 s) : Keeps z0 (nsOrder r kind
    nsid nums s) := by
  unfold nsOrder
  try dsimp only
  with_reducible repeat' (first | assumption | apply orderAll_keeps | apply completeCmd_keeps | refine keeps_ite ?_ ?_ | split)

theorem nsDelete_keeps {z0 : State} (c : OutCmd) (s : State) (h : Keeps z0 s) : Keeps z0 (nsDelete c s) := by
  unfold nsDelete
  try dsimp only
  with_reducible repeat' (first | assumption | apply nsOrder_keeps | apply deleteNs_keeps | apply failCmd_keeps |
                                 refine keeps_foldl _ _ (fun _ _ _ => ?_) ?_ | refine keeps_ite ?_ ?_ | (intro _) | split)

theorem execNamespaceManagement_keeps {z0 : State} (r : CmdRef) (s : State) (h : Keeps z0 s) : ∃ t, execNamespaceManagement r s = .next t ∧ Keeps z0 t
    := by
  unfold execNamespaceManagement
  refine ⟨_, rfl, ?_⟩
  try dsimp only
  with_reducible repeat' (first | assumption | apply nsDelete_keeps | apply nsOrder_keeps | apply addNs_keeps | apply failCmd_keeps |
                                 apply onAdmin_keeps | refine keeps_ite ?_ ?_ | (intro _) | split)

theorem attachNs_keeps {z0 : State} (nsid : Nat) (add : Bool) (l : List Nat) (s : State) (h : Keeps z0 s) : Keeps z0 (attachNs nsid add l s) := by
  unfold attachNs
  try dsimp only
  with_reducible repeat' (first | assumption | apply tellNs_keeps | (fail_if_no_progress refine keeps_upd ?_) | refine keeps_ite ?_ ?_ | (intro _) |
                                 split)

theorem execNamespaceAttachment_keeps {z0 : State} (r : CmdRef) (s : State) (h : Keeps z0 s) : ∃ t, execNamespaceAttachment r s = .next t ∧ Keeps z0 t
    := by
  unfold execNamespaceAttachment
  refine ⟨_, rfl, ?_⟩
  try dsimp only
  with_reducible repeat' (first | assumption | apply attachNs_keeps | apply nsOrder_keeps | apply failCmd_keeps | apply onAdmin_keeps |
                                 refine keeps_ite ?_ ?_ | (intro _) | split)

theorem assignVq_keeps {z0 : State} (fn : Nat) (n : Nat) (s : State) (h : Keeps z0 s) : Keeps z0 (assignVq fn n s) := by
  unfold assignVq
  try dsimp only
  with_reducible repeat' (first | assumption | (fail_if_no_progress refine keeps_upd ?_) | refine keeps_ite ?_ ?_ | split)

theorem assignRes_keeps {z0 : State} (c : OutCmd) (fn : Nat) (rt : Nat) (n : Nat) (s : State) (h : Keeps z0 s) : Keeps z0 (assignRes c fn rt n s) :=
    by
  unfold assignRes
  try dsimp only
  with_reducible repeat' (first | assumption | apply assignVq_keeps | apply failCmd_keeps | apply completeCmd_keeps |
                                 (fail_if_no_progress refine keeps_upd ?_) | refine keeps_ite ?_ ?_ | split)

theorem execVirtualizationManagement_keeps {z0 : State} (r : CmdRef) (s : State) (h : Keeps z0 s) : ∃ t, execVirtualizationManagement r s = .next t ∧
    Keeps z0 t := by
  unfold execVirtualizationManagement
  refine ⟨_, rfl, ?_⟩
  try dsimp only
  with_reducible repeat' (first | assumption | apply assignRes_keeps | apply failCmd_keeps | apply onAdmin_keeps |
                                 (fail_if_no_progress refine keeps_upd ?_) | refine keeps_ite ?_ ?_ | (intro _) | split)

theorem execSecondaryOffline_keeps {z0 : State} (r : CmdRef) (s : State) (h : Keeps z0 s) : ∃ t, execSecondaryOffline r s = .next t ∧ Keeps z0 t := by
  unfold execSecondaryOffline
  refine ⟨_, rfl, ?_⟩
  try dsimp only
  with_reducible repeat' (first | assumption | apply failCmd_keeps | apply controllerReset_keeps | apply onAdmin_keeps |
                                 (fail_if_no_progress refine keeps_upd ?_) | refine keeps_ite ?_ ?_ | (intro _) | split)

theorem execFirmwareImageDownload_keeps {z0 : State} (r : CmdRef) (s : State) (h : Keeps z0 s) : ∃ t, execFirmwareImageDownload r s = .next t ∧ Keeps
    z0 t := by
  unfold execFirmwareImageDownload
  refine ⟨_, rfl, ?_⟩
  try dsimp only
  with_reducible repeat' (first | assumption | apply failCmd_keeps | apply onAdmin_keeps | (fail_if_no_progress refine keeps_upd ?_) |
                                 refine keeps_ite ?_ ?_ | (intro _) | split)

theorem putBoot_keeps {z0 : State} (f : BootRec → BootRec) (s : State) (h : Keeps z0 s) : Keeps z0 (putBoot f s) := by
  unfold putBoot
  try dsimp only
  with_reducible repeat' (first | assumption | (fail_if_no_progress refine keeps_upd ?_))

theorem rollWing_keeps {z0 : State} (w : Nat) (s : State) (h : Keeps z0 s) : Keeps z0 (rollWing w s) := by
  unfold rollWing
  try dsimp only
  with_reducible repeat' (first | assumption | apply withdrawWing_keeps | apply setWingPwr_keeps | (fail_if_no_progress refine keeps_upd ?_))

theorem commitEnd_keeps {z0 : State} (o : CommitOp) (st : Status) (s : State) (h : Keeps z0 s) : Keeps z0 (commitEnd o st s) := by
  unfold commitEnd
  try dsimp only
  with_reducible repeat' (first | assumption | apply completeCmd_keeps | (fail_if_no_progress refine keeps_upd ?_) | refine keeps_ite ?_ ?_ | split)

theorem commitGo_keeps {z0 : State} (o : CommitOp) (s : State) (h : Keeps z0 s) : Keeps z0 (commitGo o s) := by
  unfold commitGo
  try dsimp only
  with_reducible repeat' (first | assumption | apply commitEnd_keeps | apply rollWing_keeps | apply putBoot_keeps |
                                 (fail_if_no_progress refine keeps_upd ?_) | refine keeps_ite ?_ ?_ | (intro _) | split)

theorem commitBegin_keeps {z0 : State} (r : CmdRef) (q : Sqe) (s : State) (h : Keeps z0 s) : Keeps z0 (commitBegin r q s) := by
  unfold commitBegin
  try dsimp only
  with_reducible repeat' (first | assumption | apply commitGo_keeps | apply commitEnd_keeps | apply orderAll_keeps |
                                 (fail_if_no_progress refine keeps_upd ?_) | refine keeps_ite ?_ ?_ | split)

theorem commitKick_keeps {z0 : State} (s : State) (h : Keeps z0 s) : Keeps z0 (commitKick s) := by
  unfold commitKick
  try dsimp only
  with_reducible repeat' (first | assumption | apply commitBegin_keeps | (fail_if_no_progress refine keeps_upd ?_) | split)

theorem onCommit_keeps {z0 : State} (r : CmdRef) (p : Nat → Bool) (s : State) (h : Keeps z0 s) : Keeps z0 (onCommit r p s) := by
  unfold onCommit
  try dsimp only
  with_reducible repeat' (first | assumption | apply commitKick_keeps | apply onAdmin_keeps | (fail_if_no_progress refine keeps_upd ?_) |
                                 refine keeps_ite ?_ ?_ | (intro _) | split)

theorem execFirmwareCommitReplace_keeps {z0 : State} (r : CmdRef) (s : State) (h : Keeps z0 s) : ∃ t, execFirmwareCommitReplace r s = .next t ∧ Keeps
    z0 t := by
  unfold execFirmwareCommitReplace
  refine ⟨_, rfl, ?_⟩
  try dsimp only
  with_reducible repeat' (first | assumption | apply onCommit_keeps | apply failCmd_keeps | apply onAdmin_keeps | refine keeps_ite ?_ ?_ | (intro _) |
                                 split)

theorem execFirmwareCommitNextReset_keeps {z0 : State} (r : CmdRef) (s : State) (h : Keeps z0 s) : ∃ t, execFirmwareCommitNextReset r s = .next t ∧
    Keeps z0 t := by
  unfold execFirmwareCommitNextReset
  refine ⟨_, rfl, ?_⟩
  try dsimp only
  with_reducible repeat' (first | assumption | apply onCommit_keeps | (intro _))

theorem execFirmwareCommitActivate_keeps {z0 : State} (r : CmdRef) (s : State) (h : Keeps z0 s) : ∃ t, execFirmwareCommitActivate r s = .next t ∧
    Keeps z0 t := by
  unfold execFirmwareCommitActivate
  refine ⟨_, rfl, ?_⟩
  try dsimp only
  with_reducible repeat' (first | assumption | apply onCommit_keeps | (intro _))

theorem execFirmwareCommitRoll_keeps {z0 : State} (r : CmdRef) (s : State) (h : Keeps z0 s) : ∃ t, execFirmwareCommitRoll r s = .next t ∧ Keeps z0 t
    := by
  unfold execFirmwareCommitRoll
  refine ⟨_, rfl, ?_⟩
  try dsimp only
  with_reducible repeat' (first | assumption | apply onCommit_keeps | (intro _))

theorem execFirmwareSlotWritten_keeps {z0 : State} (readBack : Bool) (s : State) (h : Keeps z0 s) : ∃ t, execFirmwareSlotWritten readBack s = .next t
    ∧ Keeps z0 t := by
  unfold execFirmwareSlotWritten
  refine ⟨_, rfl, ?_⟩
  try dsimp only
  with_reducible repeat' (first | assumption | apply commitKick_keeps | apply commitEnd_keeps | apply putBoot_keeps |
                                 (fail_if_no_progress refine keeps_upd ?_) | refine keeps_ite ?_ ?_ | (intro _) | split)

theorem rollDone_keeps {z0 : State} (o : CommitOp) (s : State) (h : Keeps z0 s) : Keeps z0 (rollDone o s) := by
  unfold rollDone
  try dsimp only
  with_reducible repeat' (first | assumption | apply commitKick_keeps | apply commitEnd_keeps | apply rollWing_keeps | apply putBoot_keeps |
                                 apply noticeFirmware_keeps | apply logOcc_keeps | apply raise_keeps | (fail_if_no_progress refine keeps_upd ?_) |
                                 refine keeps_ite ?_ ?_ | (intro _) | split)

theorem execRollWingDone_keeps {z0 : State} (s : State) (h : Keeps z0 s) : ∃ t, execRollWingDone s = .next t ∧ Keeps z0 t := by
  unfold execRollWingDone
  refine ⟨_, rfl, ?_⟩
  try dsimp only
  with_reducible repeat' (first | assumption | apply rollDone_keeps | apply rollWing_keeps | apply putBoot_keeps | apply returnWing_keeps |
                                 (fail_if_no_progress refine keeps_upd ?_) | refine keeps_ite ?_ ?_ | (intro _) | split)

theorem onWing_keeps {z0 : State} (r : CmdRef) (action : Nat) (f : OutCmd → Nat → State → State) (s : State) (h_f : ∀ (x0 : OutCmd) (x1 : Nat) (x2 :
    State), Keeps z0 x2 → Keeps z0 (f x0 x1 x2)) (h : Keeps z0 s) : Keeps z0 (onWing r action f s) := by
  unfold onWing
  try dsimp only
  with_reducible repeat' (first | assumption | apply h_f | apply failCmd_keeps | apply onAdmin_keeps | refine keeps_ite ?_ ?_ | (intro _) | split)

theorem execWingWithdraw_keeps {z0 : State} (r : CmdRef) (s : State) (h : Keeps z0 s) : ∃ t, execWingWithdraw r s = .next t ∧ Keeps z0 t := by
  unfold execWingWithdraw
  refine ⟨_, rfl, ?_⟩
  try dsimp only
  with_reducible repeat' (first | assumption | apply onWing_keeps | apply failCmd_keeps | apply withdrawWing_keeps | refine keeps_ite ?_ ?_ |
                                 (intro _) | split)

theorem execWingReturn_keeps {z0 : State} (r : CmdRef) (s : State) (h : Keeps z0 s) : ∃ t, execWingReturn r s = .next t ∧ Keeps z0 t := by
  unfold execWingReturn
  refine ⟨_, rfl, ?_⟩
  try dsimp only
  with_reducible repeat' (first | assumption | apply onWing_keeps | apply failCmd_keeps | apply setWingPwr_keeps |
                                 (fail_if_no_progress refine keeps_upd ?_) | refine keeps_ite ?_ ?_ | (intro _) | split)

theorem llRefuse_keeps {z0 : State} (c : OutCmd) (cause : Nat) (s : State) (h : Keeps z0 s) : Keeps z0 (llRefuse c cause s) := by
  unfold llRefuse
  try dsimp only
  with_reducible repeat' (first | assumption | apply completeCmd_keeps | (fail_if_no_progress refine keeps_upd ?_) | refine keeps_ite ?_ ?_ | split)

theorem execLightListWrite_keeps {z0 : State} (r : CmdRef) (readBack : Bool) (s : State) (h : Keeps z0 s) : ∃ t, execLightListWrite r readBack s =
    .next t ∧ Keeps z0 t := by
  unfold execLightListWrite
  refine ⟨_, rfl, ?_⟩
  try dsimp only
  with_reducible repeat' (first | assumption | apply llRefuse_keeps | apply onAdmin_keeps | apply completeCmd_keeps |
                                 (fail_if_no_progress refine keeps_upd ?_) | refine keeps_ite ?_ ?_ | (intro _) | split)

theorem redispatch_keeps {z0 : State} (k : Nat) (s : State) (h : Keeps z0 s) : Keeps z0 (redispatch k s) := by
  unfold redispatch
  try dsimp only
  with_reducible repeat' (first | assumption | apply switchOut_keeps | apply setCore_keeps | apply updTask_keeps | apply cntCoreAt_keeps |
                                 (fail_if_no_progress refine keeps_upd ?_) | (intro _) | split)

theorem commitFinish_keeps {z0 : State} (r : CmdRef) (s : State) (h : Keeps z0 s) : Keeps z0 (commitFinish r s) := by
  unfold commitFinish
  try dsimp only
  with_reducible repeat' (first | assumption | apply completeCmd_keeps | (fail_if_no_progress refine keeps_upd ?_))

theorem sendEntries_keeps {z0 : State} (fs : List Nat) (s : State) (h : Keeps z0 s) : Keeps z0 (sendEntries fs s) := by
  unfold sendEntries
  try dsimp only
  with_reducible repeat' (first | assumption | apply sendAll_keeps | (intro _))

theorem commitApply_keeps {z0 : State} (q : CommitReq) (s : State) (hq : CharterWf z0.chr.staging z0.chr.active z0.chr.commitWait → Memory.wf q.copy =
    true)
    (h : Keeps z0 s) : Keeps z0 (commitApply q s) := by
  unfold commitApply
  extract_lets c fs gen s1 s2 c2 s3 r3
  have h1 : Keeps z0 s1 := keeps_chr (fun w => ⟨(h.2.2.2.2.1 w).1, hq w, (h.2.2.2.2.1 w).2.2⟩) h
  clear_value s1
  have h2 : Keeps z0 s2 := keeps_foldl _ _ (fun _ _ h => redispatch_keeps _ _ h) h1
  clear_value s2
  have h3 : Keeps z0 s3 := sendEntries_keeps _ _ (keeps_upd h2)
  clear_value s3
  split
  · exact completeCmd_keeps _ _ _ _ _ _ (keeps_upd h)
  · exact keeps_ite (commitFinish_keeps _ _ h2) (keeps_upd h3)

theorem commitTurn_keeps {z0 : State} (n : Nat) (s : State) (h : Keeps z0 s) : Keeps z0 (commitTurn n s) := by
  induction n generalizing s with
  | zero => exact h
  | succ n ih =>
    unfold commitTurn
    split
    · rename_i q rest hc hw
      have k := h.2.2.2.2.1
      rw [hw] at k
      have h1 : Keeps z0 { s with chr := { s.chr with commitWait := rest } } :=
        keeps_chr (fun w => ⟨(k w).1, (k w).2.1, fun x hx => (k w).2.2 x (List.mem_cons_of_mem _ hx)⟩) h
      refine ih _ ?_
      dsimp only
      split
      · exact commitApply_keeps _ _ (fun w => (k w).2.2 q (List.mem_cons_self ..)) h1
      · exact h1
    · exact h

theorem execCharterCommit_keeps {z0 : State} (r : CmdRef) (s : State) (h : Keeps z0 s) : ∃ t, execCharterCommit r s = .next t ∧ Keeps z0 t := by
  refine ⟨_, rfl, onAdmin_keeps _ _ _ _ ?_ h⟩
  intro c s h
  dsimp only
  split
  · exact h
  · refine commitTurn_keeps _ _ (keeps_chr (fun w => ⟨(h.2.2.2.2.1 w).1, (h.2.2.2.2.1 w).2.1, fun x hx => ?_⟩) h)
    rcases List.mem_append.1 hx with hx | hx
    · exact (h.2.2.2.2.1 w).2.2 x hx
    · rw [List.mem_singleton.1 hx]
      exact (h.2.2.2.2.1 w).1

theorem setFnMode_keeps {z0 : State} (f : Nat) (m : FnMode) (s : State) (h : Keeps z0 s) : Keeps z0 (setFnMode f m s) := by
  unfold setFnMode
  try dsimp only
  with_reducible repeat' (first | assumption | (fail_if_no_progress refine keeps_upd ?_))

theorem onFn_keeps {z0 : State} (r : CmdRef) (opc : Nat) (p : Sqe → Bool) (f : OutCmd → Nat → State → State) (s : State) (h_f : ∀ (x0 : OutCmd) (x1 :
    Nat) (x2 : State), Keeps z0 x2 → Keeps z0 (f x0 x1 x2)) (h : Keeps z0 s) : Keeps z0 (onFn r opc p f s) := by
  unfold onFn
  try dsimp only
  with_reducible repeat' (first | assumption | apply h_f | apply failCmd_keeps | apply onAdmin_keeps | refine keeps_ite ?_ ?_ | (intro _) | split)

theorem fnAwait_keeps {z0 : State} (c : OutCmd) (f : Nat) (freeze : Bool) (s : State) (h : Keeps z0 s) : Keeps z0 (fnAwait c f freeze s) := by
  unfold fnAwait
  try dsimp only
  with_reducible repeat' (first | assumption | apply setFnMode_keeps | apply settleFn_keeps | (fail_if_no_progress refine keeps_upd ?_) |
                                 refine keeps_ite ?_ ?_ | split)

theorem quiesceFrom_keeps {z0 : State} (c : OutCmd) (f : Nat) (s : State) (h : Keeps z0 s) : Keeps z0 (quiesceFrom c f s) := by
  unfold quiesceFrom
  try dsimp only
  with_reducible repeat' (first | assumption | apply fnAwait_keeps | apply failCmd_keeps | refine keeps_ite ?_ ?_ | split)

theorem execQuiesceFunction_keeps {z0 : State} (r : CmdRef) (s : State) (h : Keeps z0 s) : ∃ t, execQuiesceFunction r s = .next t ∧ Keeps z0 t := by
  unfold execQuiesceFunction
  refine ⟨_, rfl, ?_⟩
  try dsimp only
  with_reducible repeat' (first | assumption | apply quiesceFrom_keeps | apply onFn_keeps | apply failCmd_keeps | refine keeps_ite ?_ ?_ | (intro _) |
                                 split)

theorem execQuiesceEndingThreads_keeps {z0 : State} (r : CmdRef) (s : State) (h : Keeps z0 s) : ∃ t, execQuiesceEndingThreads r s = .next t ∧ Keeps z0
    t := by
  unfold execQuiesceEndingThreads
  refine ⟨_, rfl, ?_⟩
  try dsimp only
  with_reducible repeat' (first | assumption | apply quiesceFrom_keeps | apply onFn_keeps | apply failCmd_keeps | apply endThread_keeps |
                                 refine keeps_foldl _ _ (fun _ _ _ => ?_) ?_ | refine keeps_ite ?_ ?_ |
                                 refine keeps_foldl_fst _ _ (fun _ _ _ => ?_) ?_ | (intro _) | split)

theorem resumeFn_keeps {z0 : State} (c : OutCmd) (f : Nat) (s : State) (h : Keeps z0 s) : Keeps z0 (resumeFn c f s) := by
  unfold resumeFn
  try dsimp only
  with_reducible repeat' (first | assumption | apply setFnMode_keeps | apply failCmd_keeps | apply makeReady_keeps |
                                 refine keeps_foldl _ _ (fun _ _ _ => ?_) ?_ | (fail_if_no_progress refine keeps_upd ?_) | refine keeps_ite ?_ ?_ |
                                 refine keeps_foldl_fst _ _ (fun _ _ _ => ?_) ?_ | (intro _) | split)

theorem execQuiesceResume_keeps {z0 : State} (r : CmdRef) (s : State) (h : Keeps z0 s) : ∃ t, execQuiesceResume r s = .next t ∧ Keeps z0 t := by
  unfold execQuiesceResume
  refine ⟨_, rfl, ?_⟩
  try dsimp only
  with_reducible repeat' (first | assumption | apply resumeFn_keeps | apply onFn_keeps | (intro _))

theorem freezeThread_keeps {z0 : State} (key : Nat) (s : State) (h : Keeps z0 s) : Keeps z0 (freezeThread key s) := by
  unfold freezeThread
  try dsimp only
  with_reducible repeat' (first | assumption | apply runNext_keeps | apply switchOut_keeps | apply refill_keeps | apply unready_keeps |
                                 apply setCore_keeps | apply updTask_keeps | (fail_if_no_progress refine keeps_upd ?_) | refine keeps_ite ?_ ?_ |
                                 (intro _) | split)

theorem execFreezeFunction_keeps {z0 : State} (r : CmdRef) (s : State) (h : Keeps z0 s) : ∃ t, execFreezeFunction r s = .next t ∧ Keeps z0 t := by
  unfold execFreezeFunction
  refine ⟨_, rfl, ?_⟩
  try dsimp only
  with_reducible repeat' (first | assumption | apply freezeThread_keeps | apply fnAwait_keeps | apply onFn_keeps | apply setFnMode_keeps |
                                 apply failCmd_keeps | apply engineFreeze_keeps | refine keeps_foldl _ _ (fun _ _ _ => ?_) ?_ | refine keeps_ite ?_ ?_
                                 | refine keeps_foldl_fst _ _ (fun _ _ _ => ?_) ?_ | (intro _) | split)

theorem execSaveFunctionState_keeps {z0 : State} (r : CmdRef) (s : State) (h : Keeps z0 s) : ∃ t, execSaveFunctionState r s = .next t ∧ Keeps z0 t :=
    by
  unfold execSaveFunctionState
  refine ⟨_, rfl, ?_⟩
  try dsimp only
  with_reducible repeat' (first | assumption | apply onFn_keeps | apply answerData_keeps | apply failCmd_keeps | refine keeps_ite ?_ ?_ | (intro _) |
                                 split)

theorem restoreTask_keeps {z0 : State} (f : Nat) (sets : List SavedSet) (t : List Byte) (s : State) (h : Keeps z0 s) : Keeps z0 (restoreTask f sets t
    s) := by
  unfold restoreTask
  try dsimp only
  with_reducible repeat' (first | assumption | apply setTask_keeps | apply setWing_keeps | apply setJob_keeps |
                                 (fail_if_no_progress refine keeps_upd ?_))

theorem restoreApply_keeps {z0 : State} (f : Nat) (b : List Byte) (x : SavedState) (s : State) (h : Keeps z0 s) : Keeps z0 (restoreApply f b x s) :=
    by
  unfold restoreApply
  try dsimp only
  with_reducible repeat' (first | assumption | apply restoreTask_keeps | apply setFnMode_keeps | apply slmWrite_keeps | apply setCtrl_keeps |
                                 refine keeps_foldl _ _ (fun _ _ _ => ?_) ?_ | (fail_if_no_progress refine keeps_upd ?_) |
                                 refine keeps_foldl_fst _ _ (fun _ _ _ => ?_) ?_ | (intro _) | split)

theorem restoreRefuse_keeps {z0 : State} (c : OutCmd) (code : Nat) (s : State) (h : Keeps z0 s) : Keeps z0 (restoreRefuse c code s) := by
  unfold restoreRefuse
  try dsimp only
  with_reducible repeat' (first | assumption | apply dropImage_keeps | apply completeCmd_keeps | refine keeps_ite ?_ ?_ | split)

theorem restorePiece_keeps {z0 : State} (c : OutCmd) (f : Nat) (i : RestoreImage) (s : State) (h : Keeps z0 s) : Keeps z0 (restorePiece c f i s) := by
  unfold restorePiece
  try dsimp only
  with_reducible repeat' (first | assumption | apply restoreRefuse_keeps | apply restoreApply_keeps | apply setFnMode_keeps | apply failCmd_keeps |
                                 (fail_if_no_progress refine keeps_upd ?_) | refine keeps_ite ?_ ?_ | split)

theorem execRestoreFunctionState_keeps {z0 : State} (r : CmdRef) (s : State) (h : Keeps z0 s) : ∃ t, execRestoreFunctionState r s = .next t ∧ Keeps z0
    t := by
  unfold execRestoreFunctionState
  refine ⟨_, rfl, ?_⟩
  try dsimp only
  with_reducible repeat' (first | assumption | apply restorePiece_keeps | apply restoreRefuse_keeps | apply onFn_keeps | apply failCmd_keeps |
                                 (fail_if_no_progress refine keeps_upd ?_) | refine keeps_ite ?_ ?_ | (intro _) | split)

theorem genDone_keeps {z0 : State} (c : OutCmd) (g : Nat) (s : State) (h : Keeps z0 s) : Keeps z0 (genDone c g s) := by
  unfold genDone
  try dsimp only
  with_reducible repeat' (first | assumption | apply completeCmd_keeps)

theorem execKeyGenAdvanceSlot_keeps {z0 : State} (r : CmdRef) (s : State) (h : Keeps z0 s) : ∃ t, execKeyGenAdvanceSlot r s = .next t ∧ Keeps z0 t :=
    by
  unfold execKeyGenAdvanceSlot
  refine ⟨_, rfl, ?_⟩
  try dsimp only
  with_reducible repeat' (first | assumption | apply genDone_keeps | apply failCmd_keeps | apply onAdmin_keeps | apply slotLoad_keeps |
                                 refine keeps_ite ?_ ?_ | (intro _) | split)

theorem execKeyGenAdvanceFunction_keeps {z0 : State} (r : CmdRef) (s : State) (h : Keeps z0 s) : ∃ t, execKeyGenAdvanceFunction r s = .next t ∧ Keeps
    z0 t := by
  unfold execKeyGenAdvanceFunction
  refine ⟨_, rfl, ?_⟩
  try dsimp only
  with_reducible repeat' (first | assumption | apply genDone_keeps | apply failCmd_keeps | apply onAdmin_keeps |
                                 (fail_if_no_progress refine keeps_upd ?_) | refine keeps_ite ?_ ?_ | (intro _) | split)

end Sys2Proof.Machine
end

