-- ==== Sys2Proof/Laws/KeepsDoors.lean ====
section
/-! SUPPORT. What every step keeps (`Keeps`): doors, the Yusil core and security commands. For each operation `f` the lemma `f_keeps` says that it keeps it;
for the meaning of a command it says that the command has a next state and keeps it. -/

namespace Sys2Proof.Machine

set_option Elab.async false
set_option linter.all false
set_option maxRecDepth 20000

theorem sealLockWrite_keeps {z0 : State} (ctx : Nat) (v : Nat) (s : State) (h : Keeps z0 s) : Keeps z0 (sealLockWrite ctx v s) := by
  unfold sealLockWrite
  try dsimp only
  with_reducible repeat' (first | assumption | apply sealAcquire_keeps | apply sealRelease_keeps | refine keeps_ite ?_ ?_ | split)

theorem sealModeWrite_keeps {z0 : State} (ctx : Nat) (v : Nat) (s : State) (h : Keeps z0 s) : Keeps z0 (sealModeWrite ctx v s) := by
  unfold sealModeWrite
  try dsimp only
  with_reducible repeat' (first | assumption | apply sealAbort_keeps | apply sealGo_keeps | apply setSeal_keeps |
                                 (fail_if_no_progress refine keeps_upd ?_) | refine keeps_ite ?_ ?_ | split)

theorem sealWrite_keeps {z0 : State} (ctx : Nat) (off : Nat) (v : Nat) (s : State) (h : Keeps z0 s) : Keeps z0 (sealWrite ctx off v s) := by
  unfold sealWrite
  try dsimp only
  with_reducible repeat' (first | assumption | apply sealModeWrite_keeps | apply sealLockWrite_keeps | apply sealPiece_keeps | apply setSeal_keeps |
                                 (fail_if_no_progress refine keeps_upd ?_) | refine keeps_ite ?_ ?_ | split)

theorem digCtrlWrite_keeps {z0 : State} (ctx : Nat) (v : Nat) (s : State) (h : Keeps z0 s) : Keeps z0 (digCtrlWrite ctx v s) := by
  unfold digCtrlWrite
  try dsimp only
  with_reducible repeat' (first | assumption | apply digRelease_keeps | apply digOpen_keeps | apply setDig_keeps |
                                 (fail_if_no_progress refine keeps_upd ?_) | refine keeps_ite ?_ ?_ | split)

theorem digCmdWrite_keeps {z0 : State} (ctx : Nat) (v : Nat) (s : State) (h : Keeps z0 s) : Keeps z0 (digCmdWrite ctx v s) := by
  unfold digCmdWrite
  try dsimp only
  with_reducible repeat' (first | assumption | apply digImport_keeps | apply digExport_keeps | refine keeps_ite ?_ ?_ | split)

theorem digWrite_keeps {z0 : State} (ctx : Nat) (off : Nat) (v : Nat) (s : State) (h : Keeps z0 s) : Keeps z0 (digWrite ctx off v s) := by
  unfold digWrite
  try dsimp only
  with_reducible repeat' (first | assumption | apply digCmdWrite_keeps | apply digCtrlWrite_keeps | apply digLast_keeps | apply digData_keeps |
                                 apply setDig_keeps | (fail_if_no_progress refine keeps_upd ?_) | refine keeps_ite ?_ ?_ | split)

theorem jobSetupWrite_keeps {z0 : State} (ctx : Nat) (w : Nat) (v : Nat) (s : State) (h : Keeps z0 s) : Keeps z0 (jobSetupWrite ctx w v s) := by
  unfold jobSetupWrite
  try dsimp only
  with_reducible repeat' (first | assumption | apply jobCancel_keeps | apply jobOpen_keeps | apply setJob_keeps |
                                 (fail_if_no_progress refine keeps_upd ?_) | refine keeps_ite ?_ ?_ | split)

theorem jobWrite_keeps {z0 : State} (ctx : Nat) (w : Nat) (off : Nat) (v : Nat) (bad : Bool) (s : State) (h : Keeps z0 s) : Keeps z0 (jobWrite ctx w
    off v bad s) := by
  unfold jobWrite
  try dsimp only
  with_reducible repeat' (first | assumption | apply jobSetupWrite_keeps | apply jobPiece_keeps | apply setJob_keeps |
                                 (fail_if_no_progress refine keeps_upd ?_) | split)

theorem engineWrite_keeps {z0 : State} (key : Nat) (n : Nat) (off : Nat) (v : Nat) (s : State) (h : Keeps z0 s) : Keeps z0 (engineWrite key n off v s)
    := by
  unfold engineWrite
  try dsimp only
  with_reducible repeat' (first | assumption | apply jobWrite_keeps | apply digWrite_keeps | apply sealWrite_keeps | split)

theorem btNext_keeps {z0 : State} (key : Nat) (s : State) (h : Keeps z0 s) : Keeps z0 (btNext key s).2 := by
  unfold btNext
  try dsimp only
  with_reducible repeat' (first | assumption | apply updLeg_keeps | apply updTask_keeps | (fail_if_no_progress refine keeps_upd ?_) |
                                 refine keeps_ite ?_ ?_ | (intro _) | split)

theorem btNext_keeps_of_eq {z0 : State} {key : Nat} {s : State} {t : State} {x1} (e : btNext key s = (x1, t)) (h : Keeps z0 s) : Keeps z0 t := by
  have := btNext_keeps key s h
  rw [e] at this
  exact this

theorem btDone_keeps {z0 : State} (key : Nat) (v : Nat) (s : State) (h : Keeps z0 s) : Keeps z0 (btDone key v s) := by
  unfold btDone
  try dsimp only
  with_reducible repeat' (first | assumption | apply sivRetry_keeps | apply updLeg_keeps | apply updTask_keeps |
                                 refine keeps_foldl _ _ (fun _ _ _ => ?_) ?_ | (fail_if_no_progress refine keeps_upd ?_) | refine keeps_ite ?_ ?_ |
                                 refine keeps_foldl_fst _ _ (fun _ _ _ => ?_) ?_ | (intro _) | split)

theorem btAppend_keeps {z0 : State} (key : Nat) (n : Nat) (s : State) (h : Keeps z0 s) : Keeps z0 (btAppend key n s) := by
  unfold btAppend
  try dsimp only
  with_reducible repeat' (first | assumption | apply updLeg_keeps | apply stagingWrite_keeps | (fail_if_no_progress refine keeps_upd ?_) | (intro _) |
                                 split)

theorem ctlAppend_keeps {z0 : State} (key : Nat) (n : Nat) (s : State) (h : Keeps z0 s) : Keeps z0 (ctlAppend key n s) := by
  unfold ctlAppend
  try dsimp only
  with_reducible repeat' (first | assumption | apply slmWrite_keeps | apply updTask_keeps | (fail_if_no_progress refine keeps_upd ?_) | (intro _) |
                                 split)

theorem copyRun_keeps {z0 : State} (key : Nat) (n : Nat) (s : State) (h : Keeps z0 s) : Keeps z0 (copyRun key n s) := by
  unfold copyRun
  try dsimp only
  with_reducible repeat' (first | assumption | apply writeSpace_keeps | apply updTask_keeps | (fail_if_no_progress refine keeps_upd ?_) | (intro _) |
                                 split)

theorem wbGo_keeps {z0 : State} (key : Nat) (s : State) (h : Keeps z0 s) : Keeps z0 (wbGo key s) := by
  unfold wbGo
  split
  · exact h
  · extract_lets +lift d img plan code s0
    have h0 : Keeps z0 s0 := keeps_ite (denied_keeps _ _ _ h) h
    clear_value s0
    refine keeps_ite (updTask_keeps _ _ _ h0) ?_
    extract_lets +lift
    exact wbFinish_keeps _ _ (updTask_keeps _ _ _ (keeps_upd h0))

theorem wbCancelBy_keeps {z0 : State} (key : Nat) (v : Nat) (s : State) (h : Keeps z0 s) : Keeps z0 (wbCancelBy key v s) := by
  unfold wbCancelBy
  try dsimp only
  with_reducible repeat' (first | assumption | apply wbCancel_keeps | refine keeps_ite ?_ ?_ | split)

theorem doorPost_keeps {z0 : State} (key : Nat) (v : Nat) (s : State) (h : Keeps z0 s) : Keeps z0 (doorPost key v s) := by
  unfold doorPost
  try dsimp only
  with_reducible repeat' (first | assumption | apply denied_keeps | apply updTask_keeps | apply raise_keeps |
                                 refine postTo_keeps_of_eq (by assumption) ?_ | apply postTo_keeps | (fail_if_no_progress refine keeps_upd ?_) |
                                 refine keeps_ite ?_ ?_ | (intro _) | split)

theorem reRank_keeps {z0 : State} (k : Nat) (s : State) (h : Keeps z0 s) : Keeps z0 (reRank k s) := by
  unfold reRank
  try dsimp only
  with_reducible repeat' (first | assumption | apply yieldCore_keeps | apply place_keeps | refine keeps_ite ?_ ?_ | split)

theorem setOwnPrio_keeps {z0 : State} (key : Nat) (v : Nat) (s : State) (h : Keeps z0 s) : Keeps z0 (setOwnPrio key v s) := by
  unfold setOwnPrio
  try dsimp only
  with_reducible repeat' (first | assumption | apply reRank_keeps | apply setTask_keeps | (fail_if_no_progress refine keeps_upd ?_) | split)

theorem setOwnAffinity_keeps {z0 : State} (key : Nat) (v : Nat) (s : State) (h : Keeps z0 s) : Keeps z0 (setOwnAffinity key v s) := by
  unfold setOwnAffinity
  try dsimp only
  with_reducible repeat' (first | assumption | apply updTask_keeps | (fail_if_no_progress refine keeps_upd ?_) | refine keeps_ite ?_ ?_ | (intro _) |
                                 split)

theorem doorRead_keeps {z0 : State} (s : State) (key : Nat) (n : Nat) (off : Nat) (h : Keeps z0 s) : Keeps z0 (doorRead s key n off).2 := by
  unfold doorRead
  try dsimp only
  with_reducible repeat' (first | assumption | refine btNext_keeps_of_eq (by assumption) ?_ | apply btNext_keeps | refine keeps_ite ?_ ?_ | split)

theorem doorRead_keeps_of_eq {z0 : State} {s : State} {key : Nat} {n : Nat} {off : Nat} {t : State} {x1} (e : doorRead s key n off = (x1, t)) (h :
    Keeps z0 s) : Keeps z0 t := by
  have := doorRead_keeps s key n off h
  rw [e] at this
  exact this

theorem btEnd_keeps {z0 : State} (key : Nat) (s : State) (h : Keeps z0 s) : Keeps z0 (btEnd key s) := by
  unfold btEnd
  try dsimp only
  with_reducible repeat' (first | assumption | apply sivRetry_keeps | apply reduceEnd_keeps | refine keeps_foldl _ _ (fun _ _ _ => ?_) ?_ | split)

theorem doorStore_keeps {z0 : State} (key : Nat) (n : Nat) (off : Nat) (v : Nat) (s : State) (h : Keeps z0 s) : Keeps z0 (doorStore key n off v s) :=
    by
  unfold doorStore
  try dsimp only
  with_reducible repeat' (first | assumption | apply btEnd_keeps | apply setOwnAffinity_keeps | apply setOwnPrio_keeps | apply doorPost_keeps |
                                 apply wbCancelBy_keeps | apply wbGo_keeps | apply copyRun_keeps | apply ctlAppend_keeps | apply btAppend_keeps |
                                 apply btDone_keeps | apply engineWrite_keeps | apply threadExit_keeps | apply bcnCommand_keeps | apply bcnGo_keeps |
                                 apply setBcnCtx_keeps | apply updTask_keeps | (fail_if_no_progress refine keeps_upd ?_) | refine keeps_ite ?_ ?_ |
                                 (intro _) | split)

theorem doorWrite_keeps {z0 : State} (key : Nat) (n : Nat) (off : Nat) (v : Nat) (s : State) (h : Keeps z0 s) : Keeps z0 (doorWrite key n off v s) :=
    by
  unfold doorWrite
  try dsimp only
  with_reducible repeat' (first | assumption | apply doorStore_keeps | apply taskLost_keeps | refine keeps_ite ?_ ?_ | split)

theorem markStall_keeps {z0 : State} (w : Nat) (cls : Nat) (s : State) (h : Keeps z0 s) : Keeps z0 (markStall w cls s) := by
  unfold markStall
  try dsimp only
  with_reducible repeat' (first | assumption | apply setWing_keeps | (fail_if_no_progress refine keeps_upd ?_))

theorem readLoc_keeps {z0 : State} (s : State) (key : Nat) (l : Option Loc) (sz : Nat) (h : Keeps z0 s) : Keeps z0 (readLoc s key l sz).2 := by
  unfold readLoc
  try dsimp only
  with_reducible repeat' (first | assumption | refine doorRead_keeps_of_eq (by assumption) ?_ | apply doorRead_keeps | split)

theorem readLoc_keeps_of_eq {z0 : State} {s : State} {key : Nat} {l : Option Loc} {sz : Nat} {t : State} {x1} (e : readLoc s key l sz = (x1, t)) (h :
    Keeps z0 s) : Keeps z0 t := by
  have := readLoc_keeps s key l sz h
  rw [e] at this
  exact this

theorem retire_keeps {z0 : State} (k : Nat) (key : Nat) (handle : Nat) (pc : Nat) (len : Nat) (a : Accesses) (loops : Nat) (miss : Bool) (s : State)
    (h : Keeps z0 s) : Keeps z0 (retire k key handle pc len a loops miss s) := by
  unfold retire
  try dsimp only
  with_reducible repeat' (first | assumption | apply setCore_keeps | apply cntCoreAt_keeps | apply noteRetired_keeps | refine keeps_ite ?_ ?_ | split)

theorem writeLoc_keeps {z0 : State} (key : Nat) (l : Option Loc) (sz : Nat) (v : Nat) (s : State) (h : Keeps z0 s) : Keeps z0 (writeLoc key l sz v s)
    := by
  unfold writeLoc
  try dsimp only
  with_reducible repeat' (first | assumption | apply doorWrite_keeps | apply writeSpace_keeps | apply updTask_keeps |
                                 (fail_if_no_progress refine keeps_upd ?_) | (intro _) | split)

theorem stopTask_keeps {z0 : State} (key : Nat) (t : Task) (code : Nat) (pc : Nat) (kind : Nat) (s : State) (h : Keeps z0 s) : Keeps z0 (stopTask key
    t code pc kind s) := by
  unfold stopTask
  try dsimp only
  with_reducible repeat' (first | assumption | apply taskFault_keeps | apply denied_keeps | refine keeps_ite ?_ ?_ | split)

theorem complete_keeps {z0 : State} (k : Nat) (key : Nat) (t : Task) (i : YInstr) (d : Option Loc) (a : Accesses) (miss : Bool) (s : State) (r :
    YRegs) (v : Option Nat) (next : Nat) (transfer : Bool) (h : Keeps z0 s) : Keeps z0 (complete k key t i d a miss s r v next transfer) := by
  unfold complete
  try dsimp only
  with_reducible repeat' (first | assumption | apply stopTask_keeps | apply writeLoc_keeps | apply retire_keeps | apply markStall_keeps |
                                 apply blockTask_keeps | apply updTask_keeps | (fail_if_no_progress refine keeps_upd ?_) | refine keeps_ite ?_ ?_ |
                                 (intro _) | split)

/-- The states an outcome of a Yusil instruction holds keep what a step keeps. -/
def YKeeps (z0 : State) : YOut → Prop
  | .done s _ _ _ _ => Keeps z0 s
  | .yields s _ _ => Keeps z0 s
  | .atomic s _ _ _ _ => Keeps z0 s
  | .frame s _ _ _ _ => Keeps z0 s
  | _ => True

theorem yk_done {z0 s : State} {r v n tr} (h : Keeps z0 s) : YKeeps z0 (.done s r v n tr) := h

theorem yk_yields {z0 s : State} {r v} (h : Keeps z0 s) : YKeeps z0 (.yields s r v) := h

theorem yk_atomic {z0 s : State} {a w r n} (h : Keeps z0 s) : YKeeps z0 (.atomic s a w r n) := h

theorem yk_frame {z0 s : State} {a w r n} (h : Keeps z0 s) : YKeeps z0 (.frame s a w r n) := h

theorem yk_fault {z0 : State} {c} : YKeeps z0 (.fault c) := trivial

theorem yk_block {z0 : State} {m a} : YKeeps z0 (.block m a) := trivial

theorem yk_stall {z0 : State} {w c} : YKeeps z0 (.stall w c) := trivial

theorem yk_entry {z0 : State} {r l} : YKeeps z0 (.entryReturn r l) := trivial

theorem yk_ite {z0 : State} {a b : YOut} {p : Prop} [Decidable p] (ha : YKeeps z0 a) (hb : YKeeps z0 b) : YKeeps z0 (if p then a else b) := by
  split
  · exact ha
  · exact hb

theorem finishOut_keeps {z0 : State} (k : Nat) (key : Nat) (t : Task) (i : YInstr) (d : Option Loc) (a : Accesses) (miss : Bool) (s0 : State) (o :
    YOut) (hf : YKeeps z0 o) (h : Keeps z0 s0) : Keeps z0 (finishOut k key t i d a miss s0 o) := by
  cases o
  all_goals
    unfold finishOut
    try replace hf := hf
    try dsimp only [YKeeps] at hf
    try dsimp only
    with_reducible repeat' (first | assumption | apply complete_keeps | apply stopTask_keeps | apply retire_keeps | apply markStall_keeps |
                                   apply btEnd_keeps | apply threadExit_keeps | apply yieldCore_keeps | apply blockTask_keeps | apply updTask_keeps |
                                   (fail_if_no_progress refine keeps_upd ?_) | refine keeps_ite ?_ ?_ | (intro _) | split)

theorem finish_keeps {z0 : State} (k : Nat) (key : Nat) (t : Task) (i : YInstr) (d : Option Loc) (a : Accesses) (miss : Bool) (s0 : State) (o : YOut)
    (hf : YKeeps z0 o) (h : Keeps z0 s0) : Keeps z0 (finish k key t i d a miss s0 o) := by
  unfold finish
  split
  · exact taskLost_keeps _ _ h
  · exact finishOut_keeps _ _ _ _ _ _ _ _ _ hf h

theorem yRun_keeps {z0 : State} (op : YOp) (use : YInstr → DestUse) (f : State → Nat → Task → YInstr → YRegs → Nat → Nat → Option Loc → YOut) (k :
    Nat) (miss : Bool) (s : State) (hf : ∀ s1 key t i r a b d, Keeps z0 s1 → YKeeps z0 (f s1 key t i r a b d)) (h : Keeps z0 s) : Keeps z0 (yRun op
    use f k miss s) := by
  unfold yRun
  try dsimp only
  repeat' (first | assumption | apply stopTask_keeps | (refine finish_keeps _ _ _ _ _ _ _ _ _ (hf _ _ _ _ _ _ _ _ ?_) ?_) | apply readLoc_keeps |
                                 (refine keeps_ite ?_ ?_) | split)

theorem yBin_keeps {z0 : State} (op : YOp) (g : Nat → Nat → Nat → YFlags → YResult) (k : Nat) (miss : Bool) (s : State) (h : Keeps z0 s) : Keeps z0
    (yBin op g k miss s) := by
  unfold yBin
  refine yRun_keeps _ _ _ _ _ _ (fun _ _ _ _ _ _ _ _ hs => ?_) h
  try dsimp only
  with_reducible repeat' (first | assumption | apply yk_done | apply yk_yields | apply yk_atomic | apply yk_frame | exact yk_fault | exact yk_block |
                                 exact yk_stall | exact yk_entry | refine yk_ite ?_ ?_ | split | apply yRun_keeps | (intro _))

theorem yUn_keeps {z0 : State} (op : YOp) (g : Nat → Nat → YResult) (k : Nat) (miss : Bool) (s : State) (h : Keeps z0 s) : Keeps z0 (yUn op g k miss
    s) := by
  unfold yUn
  refine yRun_keeps _ _ _ _ _ _ (fun _ _ _ _ _ _ _ _ hs => ?_) h
  try dsimp only
  with_reducible repeat' (first | assumption | apply yk_done | apply yk_yields | apply yk_atomic | apply yk_frame | exact yk_fault | exact yk_block |
                                 exact yk_stall | exact yk_entry | refine yk_ite ?_ ?_ | split | apply yRun_keeps | (intro _))

theorem yUnNf_keeps {z0 : State} (op : YOp) (g : Nat → Nat → Nat) (k : Nat) (miss : Bool) (s : State) (h : Keeps z0 s) : Keeps z0 (yUnNf op g k miss
    s) := by
  unfold yUnNf
  refine yRun_keeps _ _ _ _ _ _ (fun _ _ _ _ _ _ _ _ hs => ?_) h
  try dsimp only
  with_reducible repeat' (first | assumption | apply yk_done | apply yk_yields | apply yk_atomic | apply yk_frame | exact yk_fault | exact yk_block |
                                 exact yk_stall | exact yk_entry | refine yk_ite ?_ ?_ | split | apply yRun_keeps | (intro _))

theorem yDiv_keeps {z0 : State} (op : YOp) (g : Nat → Nat → Nat → Option YResult) (k : Nat) (miss : Bool) (s : State) (h : Keeps z0 s) : Keeps z0
    (yDiv op g k miss s) := by
  unfold yDiv
  refine yRun_keeps _ _ _ _ _ _ (fun _ _ _ _ _ _ _ _ hs => ?_) h
  try dsimp only
  with_reducible repeat' (first | assumption | apply yk_done | apply yk_yields | apply yk_atomic | apply yk_frame | exact yk_fault | exact yk_block |
                                 exact yk_stall | exact yk_entry | refine yk_ite ?_ ?_ | split | apply yRun_keeps |
                                 (fail_if_no_progress refine keeps_upd ?_) | (intro _) | split)

theorem yCmp_keeps {z0 : State} (op : YOp) (g : Nat → Nat → Nat → YResult) (k : Nat) (miss : Bool) (s : State) (h : Keeps z0 s) : Keeps z0 (yCmp op g
    k miss s) := by
  unfold yCmp
  refine yRun_keeps _ _ _ _ _ _ (fun _ _ _ _ _ _ _ _ hs => ?_) h
  try dsimp only
  with_reducible repeat' (first | assumption | apply yk_done | apply yk_yields | apply yk_atomic | apply yk_frame | exact yk_fault | exact yk_block |
                                 exact yk_stall | exact yk_entry | refine yk_ite ?_ ?_ | split | apply yRun_keeps | (intro _))

theorem yImm_keeps {z0 : State} (op : YOp) (wr : Bool) (g : Nat → Nat → YResult) (k : Nat) (miss : Bool) (s : State) (h : Keeps z0 s) : Keeps z0 (yImm
    op wr g k miss s) := by
  unfold yImm
  refine yRun_keeps _ _ _ _ _ _ (fun _ _ _ _ _ _ _ _ hs => ?_) h
  try dsimp only
  with_reducible repeat' (first | assumption | apply yk_done | apply yk_yields | apply yk_atomic | apply yk_frame | exact yk_fault | exact yk_block |
                                 exact yk_stall | exact yk_entry | refine yk_ite ?_ ?_ | split | apply yRun_keeps | refine keeps_ite ?_ ?_ | (intro _)
                                 | split)

theorem doorReadBy_keeps {z0 : State} (core : Nat) (n : Nat) (off : Nat) (s : State) (h : Keeps z0 s) : Keeps z0 (doorReadBy core n off s) := by
  unfold doorReadBy
  try dsimp only
  with_reducible repeat' (first | assumption | apply stopTask_keeps | refine doorRead_keeps_of_eq (by assumption) ?_ | apply doorRead_keeps |
                                 refine keeps_ite ?_ ?_ | split)

theorem doorOpBy_keeps {z0 : State} (core : Nat) (n : Nat) (off : Nat) (v : Nat) (op : Nat → State → State) (s : State) (h_op : ∀ (x0 : Nat) (x1 :
    State), Keeps z0 x1 → Keeps z0 (op x0 x1)) (h : Keeps z0 s) : Keeps z0 (doorOpBy core n off v op s) := by
  unfold doorOpBy
  try dsimp only
  with_reducible repeat' (first | assumption | apply h_op | apply stopTask_keeps | apply markStall_keeps | apply blockTask_keeps |
                                 (fail_if_no_progress refine keeps_upd ?_) | refine keeps_ite ?_ ?_ | (intro _) | split)

theorem doorWriteBy_keeps {z0 : State} (core : Nat) (n : Nat) (off : Nat) (v : Nat) (s : State) (h : Keeps z0 s) : Keeps z0 (doorWriteBy core n off v
    s) := by
  unfold doorWriteBy
  try dsimp only
  with_reducible repeat' (first | assumption | apply doorOpBy_keeps | apply doorWrite_keeps | (intro _))

theorem execWbGo_keeps {z0 : State} (core : Fin 256) (s : State) (h : Keeps z0 s) : ∃ t, execWbGo core s = .next t ∧ Keeps z0 t := by
  unfold execWbGo
  refine ⟨_, rfl, ?_⟩
  try dsimp only
  with_reducible repeat' (first | assumption | apply doorWriteBy_keeps)

theorem execWbCancel_keeps {z0 : State} (core : Fin 256) (handle : Word) (s : State) (h : Keeps z0 s) : ∃ t, execWbCancel core handle s = .next t ∧
    Keeps z0 t := by
  unfold execWbCancel
  refine ⟨_, rfl, ?_⟩
  try dsimp only
  with_reducible repeat' (first | assumption | apply doorWriteBy_keeps)

theorem execBtNext_keeps {z0 : State} (core : Fin 256) (s : State) (h : Keeps z0 s) : ∃ t, execBtNext core s = .next t ∧ Keeps z0 t := by
  unfold execBtNext
  refine ⟨_, rfl, ?_⟩
  try dsimp only
  with_reducible repeat' (first | assumption | apply doorReadBy_keeps)

theorem execBtDone_keeps {z0 : State} (core : Fin 256) (batch : Word) (s : State) (h : Keeps z0 s) : ∃ t, execBtDone core batch s = .next t ∧ Keeps z0
    t := by
  unfold execBtDone
  refine ⟨_, rfl, ?_⟩
  try dsimp only
  with_reducible repeat' (first | assumption | apply doorWriteBy_keeps)

theorem execBtAppLen_keeps {z0 : State} (core : Fin 256) (len : Word) (s : State) (h : Keeps z0 s) : ∃ t, execBtAppLen core len s = .next t ∧ Keeps z0
    t := by
  unfold execBtAppLen
  refine ⟨_, rfl, ?_⟩
  try dsimp only
  with_reducible repeat' (first | assumption | apply doorWriteBy_keeps)

theorem execBtEnd_keeps {z0 : State} (core : Fin 256) (s : State) (h : Keeps z0 s) : ∃ t, execBtEnd core s = .next t ∧ Keeps z0 t := by
  unfold execBtEnd
  refine ⟨_, rfl, ?_⟩
  try dsimp only
  with_reducible repeat' (first | assumption | apply doorWriteBy_keeps)

theorem execCtlAppLen_keeps {z0 : State} (core : Fin 256) (len : Word) (s : State) (h : Keeps z0 s) : ∃ t, execCtlAppLen core len s = .next t ∧ Keeps
    z0 t := by
  unfold execCtlAppLen
  refine ⟨_, rfl, ?_⟩
  try dsimp only
  with_reducible repeat' (first | assumption | apply doorWriteBy_keeps)

theorem execCtlExit_keeps {z0 : State} (core : Fin 256) (status : Word) (s : State) (h : Keeps z0 s) : ∃ t, execCtlExit core status s = .next t ∧
    Keeps z0 t := by
  unfold execCtlExit
  refine ⟨_, rfl, ?_⟩
  try dsimp only
  with_reducible repeat' (first | assumption | apply doorWriteBy_keeps)

theorem execCpLen_keeps {z0 : State} (core : Fin 256) (len : Word) (s : State) (h : Keeps z0 s) : ∃ t, execCpLen core len s = .next t ∧ Keeps z0 t :=
    by
  unfold execCpLen
  refine ⟨_, rfl, ?_⟩
  try dsimp only
  with_reducible repeat' (first | assumption | apply doorWriteBy_keeps)

theorem execDoorPost_keeps {z0 : State} (core : Fin 256) (mask : Word) (s : State) (h : Keeps z0 s) : ∃ t, execDoorPost core mask s = .next t ∧ Keeps
    z0 t := by
  unfold execDoorPost
  refine ⟨_, rfl, ?_⟩
  try dsimp only
  with_reducible repeat' (first | assumption | apply doorWriteBy_keeps)

theorem execPstPrio_keeps {z0 : State} (core : Fin 256) (prio : Word) (s : State) (h : Keeps z0 s) : ∃ t, execPstPrio core prio s = .next t ∧ Keeps z0
    t := by
  unfold execPstPrio
  refine ⟨_, rfl, ?_⟩
  try dsimp only
  with_reducible repeat' (first | assumption | apply doorWriteBy_keeps)

theorem execPstAffinity_keeps {z0 : State} (core : Fin 256) (mask : Word) (s : State) (h : Keeps z0 s) : ∃ t, execPstAffinity core mask s = .next t ∧
    Keeps z0 t := by
  unfold execPstAffinity
  refine ⟨_, rfl, ?_⟩
  try dsimp only
  with_reducible repeat' (first | assumption | apply doorWriteBy_keeps)

theorem unitWrite_keeps {z0 : State} (r : Requester) (n : Nat) (off : Nat) (v : Nat) (pfOp : State → State) (s : State) (h_pfOp : ∀ (x0 : State),
    Keeps z0 x0 → Keeps z0 (pfOp x0)) (h : Keeps z0 s) : Keeps z0 (unitWrite r n off v pfOp s) := by
  unfold unitWrite
  try dsimp only
  with_reducible repeat' (first | assumption | apply h_pfOp | apply doorWriteBy_keeps | refine keeps_ite ?_ ?_ | split)

theorem execBcnSGo_keeps {z0 : State} (r : Requester) (s : State) (h : Keeps z0 s) : ∃ t, execBcnSGo r s = .next t ∧ Keeps z0 t := by
  unfold execBcnSGo
  refine ⟨_, rfl, ?_⟩
  try dsimp only
  with_reducible repeat' (first | assumption | apply unitWrite_keeps | apply bcnGo_keeps)

theorem execBcnWrite_keeps {z0 : State} (r : Requester) (s : State) (h : Keeps z0 s) : ∃ t, execBcnWrite r s = .next t ∧ Keeps z0 t := by
  unfold execBcnWrite
  refine ⟨_, rfl, ?_⟩
  try dsimp only
  with_reducible repeat' (first | assumption | apply unitWrite_keeps | apply bcnCommand_keeps)

theorem execBcnInvalidate_keeps {z0 : State} (r : Requester) (s : State) (h : Keeps z0 s) : ∃ t, execBcnInvalidate r s = .next t ∧ Keeps z0 t := by
  unfold execBcnInvalidate
  refine ⟨_, rfl, ?_⟩
  try dsimp only
  with_reducible repeat' (first | assumption | apply unitWrite_keeps | apply bcnCommand_keeps)

theorem execBcnRead_keeps {z0 : State} (r : Requester) (s : State) (h : Keeps z0 s) : ∃ t, execBcnRead r s = .next t ∧ Keeps z0 t := by
  unfold execBcnRead
  refine ⟨_, rfl, ?_⟩
  try dsimp only
  with_reducible repeat' (first | assumption | apply unitWrite_keeps | apply bcnCommand_keeps)

theorem execBcnInsert_keeps {z0 : State} (r : Requester) (s : State) (h : Keeps z0 s) : ∃ t, execBcnInsert r s = .next t ∧ Keeps z0 t := by
  unfold execBcnInsert
  refine ⟨_, rfl, ?_⟩
  try dsimp only
  with_reducible repeat' (first | assumption | apply unitWrite_keeps | apply bcnCommand_keeps)

theorem execBcnAppend_keeps {z0 : State} (r : Requester) (s : State) (h : Keeps z0 s) : ∃ t, execBcnAppend r s = .next t ∧ Keeps z0 t := by
  unfold execBcnAppend
  refine ⟨_, rfl, ?_⟩
  try dsimp only
  with_reducible repeat' (first | assumption | apply unitWrite_keeps | apply bcnCommand_keeps)

theorem execBcnClear_keeps {z0 : State} (r : Requester) (s : State) (h : Keeps z0 s) : ∃ t, execBcnClear r s = .next t ∧ Keeps z0 t := by
  unfold execBcnClear
  refine ⟨_, rfl, ?_⟩
  try dsimp only
  with_reducible repeat' (first | assumption | apply unitWrite_keeps | apply bcnCommand_keeps)

theorem execBcnCreate_keeps {z0 : State} (r : Requester) (s : State) (h : Keeps z0 s) : ∃ t, execBcnCreate r s = .next t ∧ Keeps z0 t := by
  unfold execBcnCreate
  refine ⟨_, rfl, ?_⟩
  try dsimp only
  with_reducible repeat' (first | assumption | apply unitWrite_keeps | apply bcnCommand_keeps)

theorem execBcnGrow_keeps {z0 : State} (r : Requester) (s : State) (h : Keeps z0 s) : ∃ t, execBcnGrow r s = .next t ∧ Keeps z0 t := by
  unfold execBcnGrow
  refine ⟨_, rfl, ?_⟩
  try dsimp only
  with_reducible repeat' (first | assumption | apply unitWrite_keeps | apply bcnCommand_keeps)

theorem execBcnDelete_keeps {z0 : State} (r : Requester) (s : State) (h : Keeps z0 s) : ∃ t, execBcnDelete r s = .next t ∧ Keeps z0 t := by
  unfold execBcnDelete
  refine ⟨_, rfl, ?_⟩
  try dsimp only
  with_reducible repeat' (first | assumption | apply unitWrite_keeps | apply bcnCommand_keeps)

theorem jobLenBy_keeps {z0 : State} (r : Requester) (w : Nat) (v : Nat) (bad : Bool) (s : State) (h : Keeps z0 s) : Keeps z0 (jobLenBy r w v bad s) :=
    by
  unfold jobLenBy
  try dsimp only
  with_reducible repeat' (first | assumption | apply doorOpBy_keeps | apply jobWrite_keeps | apply taskLost_keeps | refine keeps_ite ?_ ?_ | (intro _)
                                 | split)

theorem execCmpJLen_keeps {z0 : State} (r : Requester) (wing : Fin 8) (value : Word) (verifyFail : Bool) (s : State) (h : Keeps z0 s) : ∃ t,
    execCmpJLen r wing value verifyFail s = .next t ∧ Keeps z0 t := by
  unfold execCmpJLen
  refine ⟨_, rfl, ?_⟩
  try dsimp only
  with_reducible repeat' (first | assumption | apply jobLenBy_keeps)

theorem execCmpJLenLast_keeps {z0 : State} (r : Requester) (wing : Fin 8) (value : Word) (verifyFail : Bool) (s : State) (h : Keeps z0 s) : ∃ t,
    execCmpJLenLast r wing value verifyFail s = .next t ∧ Keeps z0 t := by
  unfold execCmpJLenLast
  refine ⟨_, rfl, ?_⟩
  try dsimp only
  with_reducible repeat' (first | assumption | apply jobLenBy_keeps)

theorem execJobOpen_keeps {z0 : State} (r : Requester) (wing : Fin 8) (value : Word) (s : State) (h : Keeps z0 s) : ∃ t, execJobOpen r wing value s =
    .next t ∧ Keeps z0 t := by
  unfold execJobOpen
  refine ⟨_, rfl, ?_⟩
  try dsimp only
  with_reducible repeat' (first | assumption | apply unitWrite_keeps | apply jobWrite_keeps)

theorem execJobCancel_keeps {z0 : State} (r : Requester) (wing : Fin 8) (value : Word) (s : State) (h : Keeps z0 s) : ∃ t, execJobCancel r wing value
    s = .next t ∧ Keeps z0 t := by
  unfold execJobCancel
  refine ⟨_, rfl, ?_⟩
  try dsimp only
  with_reducible repeat' (first | assumption | apply unitWrite_keeps | apply jobWrite_keeps)

theorem execSealAcquire_keeps {z0 : State} (r : Requester) (s : State) (h : Keeps z0 s) : ∃ t, execSealAcquire r s = .next t ∧ Keeps z0 t := by
  unfold execSealAcquire
  refine ⟨_, rfl, ?_⟩
  try dsimp only
  with_reducible repeat' (first | assumption | apply unitWrite_keeps | apply sealWrite_keeps)

theorem execSealRelease_keeps {z0 : State} (r : Requester) (s : State) (h : Keeps z0 s) : ∃ t, execSealRelease r s = .next t ∧ Keeps z0 t := by
  unfold execSealRelease
  refine ⟨_, rfl, ?_⟩
  try dsimp only
  with_reducible repeat' (first | assumption | apply unitWrite_keeps | apply sealWrite_keeps)

theorem execSealGo_keeps {z0 : State} (r : Requester) (value : Word) (s : State) (h : Keeps z0 s) : ∃ t, execSealGo r value s = .next t ∧ Keeps z0 t
    := by
  unfold execSealGo
  refine ⟨_, rfl, ?_⟩
  try dsimp only
  with_reducible repeat' (first | assumption | apply unitWrite_keeps | apply sealWrite_keeps)

theorem execSealAbort_keeps {z0 : State} (r : Requester) (value : Word) (s : State) (h : Keeps z0 s) : ∃ t, execSealAbort r value s = .next t ∧ Keeps
    z0 t := by
  unfold execSealAbort
  refine ⟨_, rfl, ?_⟩
  try dsimp only
  with_reducible repeat' (first | assumption | apply unitWrite_keeps | apply sealWrite_keeps)

theorem execSealPiece_keeps {z0 : State} (r : Requester) (value : Word) (s : State) (h : Keeps z0 s) : ∃ t, execSealPiece r value s = .next t ∧ Keeps
    z0 t := by
  unfold execSealPiece
  refine ⟨_, rfl, ?_⟩
  try dsimp only
  with_reducible repeat' (first | assumption | apply unitWrite_keeps | apply sealWrite_keeps)

theorem execSealPieceLast_keeps {z0 : State} (r : Requester) (value : Word) (s : State) (h : Keeps z0 s) : ∃ t, execSealPieceLast r value s = .next t
    ∧ Keeps z0 t := by
  unfold execSealPieceLast
  refine ⟨_, rfl, ?_⟩
  try dsimp only
  with_reducible repeat' (first | assumption | apply unitWrite_keeps | apply sealWrite_keeps)

theorem execDigOpen_keeps {z0 : State} (r : Requester) (value : Word) (s : State) (h : Keeps z0 s) : ∃ t, execDigOpen r value s = .next t ∧ Keeps z0 t
    := by
  unfold execDigOpen
  refine ⟨_, rfl, ?_⟩
  try dsimp only
  with_reducible repeat' (first | assumption | apply unitWrite_keeps | apply digWrite_keeps)

theorem execDigRelease_keeps {z0 : State} (r : Requester) (s : State) (h : Keeps z0 s) : ∃ t, execDigRelease r s = .next t ∧ Keeps z0 t := by
  unfold execDigRelease
  refine ⟨_, rfl, ?_⟩
  try dsimp only
  with_reducible repeat' (first | assumption | apply unitWrite_keeps | apply digWrite_keeps)

theorem execDigData_keeps {z0 : State} (r : Requester) (value : Word) (s : State) (h : Keeps z0 s) : ∃ t, execDigData r value s = .next t ∧ Keeps z0 t
    := by
  unfold execDigData
  refine ⟨_, rfl, ?_⟩
  try dsimp only
  with_reducible repeat' (first | assumption | apply unitWrite_keeps | apply digWrite_keeps)

theorem execDigLast_keeps {z0 : State} (r : Requester) (value : Word) (s : State) (h : Keeps z0 s) : ∃ t, execDigLast r value s = .next t ∧ Keeps z0 t
    := by
  unfold execDigLast
  refine ⟨_, rfl, ?_⟩
  try dsimp only
  with_reducible repeat' (first | assumption | apply unitWrite_keeps | apply digWrite_keeps)

theorem execDigCtxExport_keeps {z0 : State} (r : Requester) (s : State) (h : Keeps z0 s) : ∃ t, execDigCtxExport r s = .next t ∧ Keeps z0 t := by
  unfold execDigCtxExport
  refine ⟨_, rfl, ?_⟩
  try dsimp only
  with_reducible repeat' (first | assumption | apply unitWrite_keeps | apply digWrite_keeps)

theorem execDigCtxImport_keeps {z0 : State} (r : Requester) (s : State) (h : Keeps z0 s) : ∃ t, execDigCtxImport r s = .next t ∧ Keeps z0 t := by
  unfold execDigCtxImport
  refine ⟨_, rfl, ?_⟩
  try dsimp only
  with_reducible repeat' (first | assumption | apply unitWrite_keeps | apply digWrite_keeps)

theorem sealBreakWrite_keeps {z0 : State} (v : Nat) (s : State) (h : Keeps z0 s) : Keeps z0 (sealBreakWrite v s) := by
  unfold sealBreakWrite
  try dsimp only
  with_reducible repeat' (first | assumption | apply sealBreak_keeps | refine keeps_ite ?_ ?_ | split)

theorem execSealBreak_keeps {z0 : State} (s : State) (h : Keeps z0 s) : ∃ t, execSealBreak s = .next t ∧ Keeps z0 t := by
  unfold execSealBreak
  refine ⟨_, rfl, ?_⟩
  try dsimp only
  with_reducible repeat' (first | assumption | apply sealBreakWrite_keeps | refine keeps_ite ?_ ?_ | split)

theorem digBreakWrite_keeps {z0 : State} (v : Nat) (s : State) (h : Keeps z0 s) : Keeps z0 (digBreakWrite v s) := by
  unfold digBreakWrite
  try dsimp only
  with_reducible repeat' (first | assumption | apply digBreak_keeps | refine keeps_ite ?_ ?_ | split)

theorem execDigBreak_keeps {z0 : State} (s : State) (h : Keeps z0 s) : ∃ t, execDigBreak s = .next t ∧ Keeps z0 t := by
  unfold execDigBreak
  refine ⟨_, rfl, ?_⟩
  try dsimp only
  with_reducible repeat' (first | assumption | apply digBreakWrite_keeps | refine keeps_ite ?_ ?_ | split)

theorem keyCmd_keeps {z0 : State} (v : Nat) (s : State) (h : Keeps z0 s) : Keeps z0 (keyCmd v s) := by
  unfold keyCmd
  try dsimp only
  with_reducible repeat' (first | assumption | apply keyUnload_keeps | apply keyClear_keeps | apply keyUnwrapCmd_keeps | apply keyDerive_keeps |
                                 apply keyDone_keeps | refine keeps_ite ?_ ?_ | split)

theorem keyWrite_keeps {z0 : State} (off : Nat) (v : Nat) (s : State) (h : Keeps z0 s) : Keeps z0 (keyWrite off v s) := by
  unfold keyWrite
  try dsimp only
  with_reducible repeat' (first | assumption | apply keyCmd_keeps | apply alarm_keeps | (fail_if_no_progress refine keeps_upd ?_) |
                                 refine keeps_ite ?_ ?_ | split)

theorem execKeyDerive_keeps {z0 : State} (value : Word) (s : State) (h : Keeps z0 s) : ∃ t, execKeyDerive value s = .next t ∧ Keeps z0 t := by
  unfold execKeyDerive
  refine ⟨_, rfl, ?_⟩
  try dsimp only
  with_reducible repeat' (first | assumption | apply keyCmd_keeps | refine keeps_ite ?_ ?_ | split)

theorem execKeyUnwrap_keeps {z0 : State} (value : Word) (s : State) (h : Keeps z0 s) : ∃ t, execKeyUnwrap value s = .next t ∧ Keeps z0 t := by
  unfold execKeyUnwrap
  refine ⟨_, rfl, ?_⟩
  try dsimp only
  with_reducible repeat' (first | assumption | apply keyCmd_keeps | refine keeps_ite ?_ ?_ | split)

theorem execKeyClearLoad_keeps {z0 : State} (value : Word) (s : State) (h : Keeps z0 s) : ∃ t, execKeyClearLoad value s = .next t ∧ Keeps z0 t := by
  unfold execKeyClearLoad
  refine ⟨_, rfl, ?_⟩
  try dsimp only
  with_reducible repeat' (first | assumption | apply keyCmd_keeps | refine keeps_ite ?_ ?_ | split)

theorem execKeyUnload_keeps {z0 : State} (value : Word) (s : State) (h : Keeps z0 s) : ∃ t, execKeyUnload value s = .next t ∧ Keeps z0 t := by
  unfold execKeyUnload
  refine ⟨_, rfl, ?_⟩
  try dsimp only
  with_reducible repeat' (first | assumption | apply keyCmd_keeps | refine keeps_ite ?_ ?_ | split)

end Sys2Proof.Machine
end

