-- ==== Sys2Proof/Laws/KeepsRows.lean ====
section
/-! SUPPORT. What every step keeps (`Keeps`): DRAM, program, sieve and placement commands. For each operation `f` the lemma `f_keeps` says that it keeps it;
for the meaning of a command it says that the command has a next state and keeps it. -/

namespace Sys2Proof.Machine

set_option Elab.async false
set_option linter.all false
set_option maxRecDepth 20000

theorem moveSegs_keeps {z0 : State} (bk : Nat) (s : State) (h : Keeps z0 s) : Keeps z0 (moveSegs bk s) := by
  unfold moveSegs
  try dsimp only
  with_reducible repeat' (first | assumption | apply writeSegs_keeps | refine keeps_foldl _ _ (fun _ _ _ => ?_) ?_ | (intro _))

theorem stopWriting_keeps {z0 : State} (bk : Nat) (s : State) (h : Keeps z0 s) : Keeps z0 (stopWriting bk s) := by
  unfold stopWriting
  try dsimp only
  with_reducible repeat' (first | assumption | apply rerouteBlock_keeps | apply dropMember_keeps | apply setBlk_keeps |
                                 (fail_if_no_progress refine keeps_upd ?_) | refine keeps_ite ?_ ?_ | split)

theorem retireStart_keeps {z0 : State} (r : CmdRef) (bk : Nat) (plane : Nat) (s : State) (h : Keeps z0 s) : Keeps z0 (retireStart r bk plane s) := by
  unfold retireStart
  try dsimp only
  with_reducible repeat' (first | assumption | apply stopWriting_keeps | apply moveSegs_keeps | apply retire_keeps | apply retireForward_keeps |
                                 apply relocateBlock_keeps | apply settleAll_keeps | apply stage_keeps | (fail_if_no_progress refine keeps_upd ?_) |
                                 refine keeps_ite ?_ ?_ | split)

theorem execRetireFlashBlock_keeps {z0 : State} (r : CmdRef) (s : State) (h : Keeps z0 s) : ∃ t, execRetireFlashBlock r s = .next t ∧ Keeps z0 t := by
  unfold execRetireFlashBlock
  refine ⟨_, rfl, ?_⟩
  try dsimp only
  with_reducible repeat' (first | assumption | apply retireStart_keeps | apply failCmd_keeps | apply onAdmin_keeps | apply completeCmd_keeps |
                                 refine keeps_ite ?_ ?_ | (intro _) | split)

theorem retireRecord_keeps {z0 : State} (w : Nat) (kind : Nat) (off : Nat) (s : State) (h : Keeps z0 s) : Keeps z0 (retireRecord w kind off s) := by
  unfold retireRecord
  try dsimp only
  with_reducible repeat' (first | assumption | apply logOcc_keeps)

theorem execRetireDramPage_keeps {z0 : State} (r : CmdRef) (s : State) (h : Keeps z0 s) : ∃ t, execRetireDramPage r s = .next t ∧ Keeps z0 t := by
  unfold execRetireDramPage
  refine ⟨_, rfl, ?_⟩
  try dsimp only
  with_reducible repeat' (first | assumption | apply retireRecord_keeps | apply failCmd_keeps | apply onAdmin_keeps | apply extinguish_keeps |
                                 apply completeCmd_keeps | apply setDram_keeps | (fail_if_no_progress refine keeps_upd ?_) | refine keeps_ite ?_ ?_ |
                                 (intro _) | split)

theorem execRetireDramBank_keeps {z0 : State} (r : CmdRef) (s : State) (h : Keeps z0 s) : ∃ t, execRetireDramBank r s = .next t ∧ Keeps z0 t := by
  refine ⟨_, rfl, onAdmin_keeps _ _ _ _ ?_ h⟩
  intro c s h
  extract_lets +lift
  refine keeps_ite h (keeps_ite (failCmd_keeps _ _ _ h) (keeps_ite (completeCmd_keeps _ _ _ _ _ _ h) ?_))
  split
  · exact extinguish_keeps _ _ h
  · exact completeCmd_keeps _ _ _ _ _ _ (retireRecord_keeps _ _ _ _ (setDram_keeps _ _ _ (keeps_upd h)))

theorem markAndCheck_keeps {z0 : State} (w : Nat) (d : Nat) (byHost : Bool) (s : State) (h : Keeps z0 s) : Keeps z0 (markAndCheck w d byHost s) := by
  unfold markAndCheck
  try dsimp only
  with_reducible repeat' (first | assumption | apply markDevice_keeps | apply extinguish_keeps | refine keeps_ite ?_ ?_ | split)

theorem dramCorrected_keeps {z0 : State} (w : Nat) (off : Nat) (d : Nat) (n : Nat) (s : State) (h : Keeps z0 s) : Keeps z0 (dramCorrected w off d n s)
    := by
  unfold dramCorrected
  try dsimp only
  with_reducible repeat' (first | assumption | apply markAndCheck_keeps | apply logOcc_keeps | apply setDram_keeps |
                                 (fail_if_no_progress refine keeps_upd ?_) | refine keeps_ite ?_ ?_ | (intro _) | split)

theorem regionLost_keeps {z0 : State} (w : Nat) (off : Nat) (o : Nat) (keeper : Option (Fin 8)) (s : State) (h : Keeps z0 s) : Keeps z0 (regionLost w
    off o keeper s) := by
  unfold regionLost
  try dsimp only
  with_reducible repeat' (first | assumption | apply wingFault_keeps | apply taskLost_keeps | apply reissueLeg_keeps | apply bcnLose_keeps |
                                 apply setDram_keeps | refine keeps_foldl _ _ (fun _ _ _ => ?_) ?_ | (fail_if_no_progress refine keeps_upd ?_) |
                                 refine keeps_ite ?_ ?_ | (intro _) | split)

theorem dramUncorrectable_keeps {z0 : State} (w : Nat) (off : Nat) (o : Nat) (keeper : Option (Fin 8)) (s : State) (h : Keeps z0 s) : Keeps z0
    (dramUncorrectable w off o keeper s) := by
  unfold dramUncorrectable
  try dsimp only
  with_reducible repeat' (first | assumption | apply regionLost_keeps | apply logOcc_keeps | apply raise_keeps | apply setDram_keeps |
                                 (fail_if_no_progress refine keeps_upd ?_))

theorem scrubLine_keeps {z0 : State} (w : Nat) (line : Nat) (keeper : Option (Fin 8)) (outcome : DramOutcome) (s : State) (h : Keeps z0 s) : Keeps z0
    (scrubLine w line keeper outcome s) := by
  unfold scrubLine
  try dsimp only
  with_reducible repeat' (first | assumption | apply dramUncorrectable_keeps | apply dramCorrected_keeps | refine keeps_ite ?_ ?_ | split)

theorem execPatrolScrub_keeps {z0 : State} (wing : Fin 8) (line : Nat) (keeper : Option (Fin 8)) (outcome : DramOutcome) (s : State) (h : Keeps z0 s)
    : ∃ t, execPatrolScrub wing line keeper outcome s = .next t ∧ Keeps z0 t := by
  unfold execPatrolScrub
  refine ⟨_, rfl, ?_⟩
  try dsimp only
  with_reducible repeat' (first | assumption | apply scrubLine_keeps | apply setDram_keeps | (fail_if_no_progress refine keeps_upd ?_) |
                                 refine keeps_ite ?_ ?_ | split)

theorem drmCtrlWrite_keeps {z0 : State} (w : Nat) (v : Nat) (s : State) (h : Keeps z0 s) : Keeps z0 (drmCtrlWrite w v s) := by
  unfold drmCtrlWrite
  try dsimp only
  with_reducible repeat' (first | assumption | apply setDram_keeps | (fail_if_no_progress refine keeps_upd ?_) | refine keeps_ite ?_ ?_ | split)

theorem execScrubNow_keeps {z0 : State} (wing : Fin 8) (s : State) (h : Keeps z0 s) : ∃ t, execScrubNow wing s = .next t ∧ Keeps z0 t := by
  unfold execScrubNow
  refine ⟨_, rfl, ?_⟩
  try dsimp only
  with_reducible repeat' (first | assumption | apply drmCtrlWrite_keeps | refine keeps_ite ?_ ?_ | split)

theorem drmDevWrite_keeps {z0 : State} (w : Nat) (v : Nat) (s : State) (h : Keeps z0 s) : Keeps z0 (drmDevWrite w v s) := by
  unfold drmDevWrite
  try dsimp only
  with_reducible repeat' (first | assumption | apply markAndCheck_keeps | refine keeps_ite ?_ ?_ | split)

theorem execDeviceMark_keeps {z0 : State} (wing : Fin 8) (device : Fin 64) (s : State) (h : Keeps z0 s) : ∃ t, execDeviceMark wing device s = .next t
    ∧ Keeps z0 t := by
  unfold execDeviceMark
  refine ⟨_, rfl, ?_⟩
  try dsimp only
  with_reducible repeat' (first | assumption | apply drmDevWrite_keeps | refine keeps_ite ?_ ?_ | split)

theorem execDramCalibration_keeps {z0 : State} (_wing : Fin 8) (s : State) (h : Keeps z0 s) : ∃ t, execDramCalibration _wing s = .next t ∧ Keeps z0 t
    := by
  unfold execDramCalibration
  refine ⟨_, rfl, ?_⟩
  try dsimp only
  with_reducible repeat' (first | assumption)

theorem execRefreshWindow_keeps {z0 : State} (wing : Fin 8) (activations : List (Nat × Nat)) (coins : List Nat) (rfm : Nat) (s : State) (h : Keeps z0
    s) : ∃ t, execRefreshWindow wing activations coins rfm s = .next t ∧ Keeps z0 t := by
  unfold execRefreshWindow
  refine ⟨_, rfl, ?_⟩
  try dsimp only
  with_reducible repeat' (first | assumption | apply setDram_keeps | refine keeps_foldl _ _ (fun _ _ _ => ?_) ?_ |
                                 (fail_if_no_progress refine keeps_upd ?_) | refine keeps_ite ?_ ?_ | refine keeps_foldl_fst _ _ (fun _ _ _ => ?_) ?_
                                 | (intro _) | split)

theorem drmTestWrite_keeps {z0 : State} (w : Nat) (v : Nat) (s : State) (h : Keeps z0 s) : Keeps z0 (drmTestWrite w v s) := by
  unfold drmTestWrite
  try dsimp only
  with_reducible repeat' (first | assumption | apply setDram_keeps | (fail_if_no_progress refine keeps_upd ?_) | refine keeps_ite ?_ ?_ | split)

theorem execDramTestWrite_keeps {z0 : State} (wing : Fin 8) (value : Word) (s : State) (h : Keeps z0 s) : ∃ t, execDramTestWrite wing value s = .next
    t ∧ Keeps z0 t := by
  unfold execDramTestWrite
  refine ⟨_, rfl, ?_⟩
  try dsimp only
  with_reducible repeat' (first | assumption | apply drmTestWrite_keeps | refine keeps_ite ?_ ?_ | split)

theorem execDramTestRead_keeps {z0 : State} (wing : Fin 8) (value : Word) (s : State) (h : Keeps z0 s) : ∃ t, execDramTestRead wing value s = .next t
    ∧ Keeps z0 t := by
  unfold execDramTestRead
  refine ⟨_, rfl, ?_⟩
  try dsimp only
  with_reducible repeat' (first | assumption | apply drmTestWrite_keeps | refine keeps_ite ?_ ?_ | split)

theorem setDramCfg_keeps {z0 : State} (w : Nat) (c : DramCfg) (s : State) (h : Keeps z0 s) : Keeps z0 (setDramCfg w c s) := by
  unfold setDramCfg
  try dsimp only
  with_reducible repeat' (first | assumption | (fail_if_no_progress refine keeps_upd ?_))

theorem hashWrite_keeps {z0 : State} (w : Nat) (k : Nat) (v : Nat) (s : State) (h : Keeps z0 s) : Keeps z0 (hashWrite w k v s) := by
  unfold hashWrite
  try dsimp only
  with_reducible repeat' (first | assumption | apply setDramCfg_keeps | (fail_if_no_progress refine keeps_upd ?_) | refine keeps_ite ?_ ?_ | split)

theorem execDrmHashNextWrite_keeps {z0 : State} (wing : Fin 8) (bit : Fin 5) (value : Word) (s : State) (h : Keeps z0 s) : ∃ t, execDrmHashNextWrite
    wing bit value s = .next t ∧ Keeps z0 t := by
  unfold execDrmHashNextWrite
  refine ⟨_, rfl, ?_⟩
  try dsimp only
  with_reducible repeat' (first | assumption | apply hashWrite_keeps | refine keeps_ite ?_ ?_ | split)

theorem layoutWrite_keeps {z0 : State} (w : Nat) (v : Nat) (s : State) (h : Keeps z0 s) : Keeps z0 (layoutWrite w v s) := by
  unfold layoutWrite
  try dsimp only
  with_reducible repeat' (first | assumption | apply setDramCfg_keeps | (fail_if_no_progress refine keeps_upd ?_) | refine keeps_ite ?_ ?_ | split)

theorem execDrmLayoutNextWrite_keeps {z0 : State} (wing : Fin 8) (value : Word) (s : State) (h : Keeps z0 s) : ∃ t, execDrmLayoutNextWrite wing value
    s = .next t ∧ Keeps z0 t := by
  unfold execDrmLayoutNextWrite
  refine ⟨_, rfl, ?_⟩
  try dsimp only
  with_reducible repeat' (first | assumption | apply layoutWrite_keeps | refine keeps_ite ?_ ?_ | split)

theorem drmWrite_keeps {z0 : State} (w : Nat) (off : Nat) (v : Nat) (s : State) (h : Keeps z0 s) : Keeps z0 (drmWrite w off v s) := by
  unfold drmWrite
  try dsimp only
  with_reducible repeat' (first | assumption | apply layoutWrite_keeps | apply hashWrite_keeps | apply drmTestWrite_keeps | apply drmDevWrite_keeps |
                                 apply drmCtrlWrite_keeps | apply setDram_keeps | (fail_if_no_progress refine keeps_upd ?_) | refine keeps_ite ?_ ?_ |
                                 split)

theorem setSlot_keeps {z0 : State} (i : Nat) (x : ProgSlot) (s : State) (h : Keeps z0 s) : Keeps z0 (setSlot i x s) := by
  unfold setSlot
  try dsimp only
  with_reducible repeat' (first | assumption | (fail_if_no_progress refine keeps_upd ?_))

theorem orderThen_keeps {z0 : State} (code : Nat) (a : Nat) (b : Nat) (nums : List Nat) (bytes : List Byte) (r : CmdRef) (s : State) (h : Keeps z0 s)
    : Keeps z0 (orderThen code a b nums bytes r s) := by
  unfold orderThen
  try dsimp only
  with_reducible repeat' (first | assumption | apply orderAll_keeps | apply completeCmd_keeps | refine keeps_ite ?_ ?_ | split)

theorem execLoadProgram_keeps {z0 : State} (r : CmdRef) (s : State) (h : Keeps z0 s) : ∃ t, execLoadProgram r s = .next t ∧ Keeps z0 t := by
  unfold execLoadProgram
  refine ⟨_, rfl, ?_⟩
  try dsimp only
  with_reducible repeat' (first | assumption | apply orderThen_keeps | apply setSlot_keeps | apply failCmd_keeps | apply onAdmin_keeps |
                                 apply completeCmd_keeps | refine keeps_ite ?_ ?_ | (intro _) | split)

theorem execProgramActivationManagement_keeps {z0 : State} (r : CmdRef) (s : State) (h : Keeps z0 s) : ∃ t, execProgramActivationManagement r s =
    .next t ∧ Keeps z0 t := by
  unfold execProgramActivationManagement
  refine ⟨_, rfl, ?_⟩
  try dsimp only
  with_reducible repeat' (first | assumption | apply orderThen_keeps | apply setSlot_keeps | apply failCmd_keeps | apply onAdmin_keeps |
                                 (fail_if_no_progress refine keeps_upd ?_) | refine keeps_ite ?_ ?_ | (intro _) | split)

theorem execMemoryRangeSetManagement_keeps {z0 : State} (r : CmdRef) (s : State) (h : Keeps z0 s) : ∃ t, execMemoryRangeSetManagement r s = .next t ∧
    Keeps z0 t := by
  unfold execMemoryRangeSetManagement
  refine ⟨_, rfl, ?_⟩
  try dsimp only
  with_reducible repeat' (first | assumption | apply failCmd_keeps | apply onAdmin_keeps | apply completeCmd_keeps |
                                 (fail_if_no_progress refine keeps_upd ?_) | refine keeps_ite ?_ ?_ | (intro _) | split)

theorem beginTask_keeps {z0 : State} (key : Nat) (t : Task) (s : State) (h : Keeps z0 s) : Keeps z0 (beginTask key t s) := by
  unfold beginTask
  try dsimp only
  with_reducible repeat' (first | assumption | apply createAt_keeps | (fail_if_no_progress refine keeps_upd ?_))

theorem execExecuteProgram_keeps {z0 : State} (r : CmdRef) (s : State) (h : Keeps z0 s) : ∃ t, execExecuteProgram r s = .next t ∧ Keeps z0 t := by
  unfold execExecuteProgram
  refine ⟨_, rfl, ?_⟩
  try dsimp only
  with_reducible repeat' (first | assumption | apply failCmd_keeps | (fail_if_no_progress refine keeps_upd ?_) | refine keeps_ite ?_ ?_ | split)

theorem startThread_keeps {z0 : State} (q : ThreadReq) (gen : Nat) (key : Nat) (s : State) (h : Keeps z0 s) : Keeps z0 (startThread q gen key s) := by
  unfold startThread
  try dsimp only
  with_reducible repeat' (first | assumption | apply beginTask_keeps | (fail_if_no_progress refine keeps_upd ?_) | (intro _))

theorem execThreadStart_keeps {z0 : State} (r : CmdRef) (s : State) (h : Keeps z0 s) : ∃ t, execThreadStart r s = .next t ∧ Keeps z0 t := by
  unfold execThreadStart
  refine ⟨_, rfl, ?_⟩
  try dsimp only
  with_reducible repeat' (first | assumption | apply startThread_keeps | refine keeps_ite ?_ ?_ | (intro _) | split)

theorem execMemoryRead_keeps {z0 : State} (r : CmdRef) (s : State) (h : Keeps z0 s) : ∃ t, execMemoryRead r s = .next t ∧ Keeps z0 t := by
  unfold execMemoryRead
  refine ⟨_, rfl, ?_⟩
  try dsimp only
  with_reducible repeat' (first | assumption | apply failCmd_keeps | apply countOut_keeps | apply completeCmd_keeps | refine keeps_ite ?_ ?_ | split)

theorem execMemoryWrite_keeps {z0 : State} (r : CmdRef) (s : State) (h : Keeps z0 s) : ∃ t, execMemoryWrite r s = .next t ∧ Keeps z0 t := by
  unfold execMemoryWrite
  refine ⟨_, rfl, ?_⟩
  try dsimp only
  with_reducible repeat' (first | assumption | apply slmWrite_keeps | apply completeCmd_keeps | split)

theorem copyPart_keeps {z0 : State} (r : PartRef) (s : State) (h : Keeps z0 s) : Keeps z0 (copyPart r s) := by
  unfold copyPart
  try dsimp only
  with_reducible repeat' (first | assumption | apply readPart_keeps | apply storeData_keeps | apply slmWrite_keeps | apply updCmd_keeps |
                                 (fail_if_no_progress refine keeps_upd ?_) | refine keeps_ite ?_ ?_ | (intro _) | split)

theorem execMemoryCopy_keeps {z0 : State} (station : Fin 64) (r : CmdRef) (s : State) (h : Keeps z0 s) : ∃ t, execMemoryCopy station r s = .next t ∧
    Keeps z0 t := by
  unfold execMemoryCopy
  refine ⟨_, rfl, ?_⟩
  try dsimp only
  with_reducible repeat' (first | assumption | apply copyPart_keeps | apply copySlm_keeps | apply completeCmd_keeps |
                                 refine keeps_foldl _ _ (fun _ _ _ => ?_) ?_ | refine keeps_ite ?_ ?_ |
                                 refine keeps_foldl_fst _ _ (fun _ _ _ => ?_) ?_ | (intro _) | split)

theorem startReduce_keeps {z0 : State} (l : RunLeg) (pool : Nat) (s : State) (q : Nat) (h : Keeps z0 s) : Keeps z0 (startReduce l pool s q) := by
  unfold startReduce
  try dsimp only
  with_reducible repeat' (first | assumption | apply beginTask_keeps | split)

theorem execLegStart_keeps {z0 : State} (wing : Fin 8) (s : State) (h : Keeps z0 s) : ∃ t, execLegStart wing s = .next t ∧ Keeps z0 t := by
  unfold execLegStart
  refine ⟨_, rfl, ?_⟩
  try dsimp only
  with_reducible repeat' (first | assumption | apply startReduce_keeps | apply updLeg_keeps | refine keeps_foldl _ _ (fun _ _ _ => ?_) ?_ |
                                 (fail_if_no_progress refine keeps_upd ?_) | refine keeps_ite ?_ ?_ | (intro _) | split)

theorem issueScan_keeps {z0 : State} (ch : Nat) (l : RunLeg) (g : Nat × Nat × Nat) (s : State) (h : Keeps z0 s) : Keeps z0 (issueScan ch l g s) := by
  unfold issueScan
  try dsimp only
  with_reducible repeat' (first | assumption | apply onLeg_keeps | apply setSiv_keeps | apply addRead_keeps |
                                 (fail_if_no_progress refine keeps_upd ?_) | refine keeps_ite ?_ ?_ | (intro _) | split)

theorem execScanReadIssue_keeps {z0 : State} (channel : Fin 128) (s : State) (h : Keeps z0 s) : ∃ t, execScanReadIssue channel s = .next t ∧ Keeps z0
    t := by
  unfold execScanReadIssue
  refine ⟨_, rfl, ?_⟩
  try dsimp only
  with_reducible repeat' (first | assumption | apply issueScan_keeps | apply legSweep_keeps | refine keeps_ite ?_ ?_ | (intro _) | split)

theorem execSieveGrainEvaluation_keeps {z0 : State} (channel : Fin 128) (s : State) (h : Keeps z0 s) : ∃ t, execSieveGrainEvaluation channel s = .next
    t ∧ Keeps z0 t := by
  unfold execSieveGrainEvaluation
  refine ⟨_, rfl, ?_⟩
  try dsimp only
  with_reducible repeat' (first | assumption | apply sivGo_keeps | refine keeps_ite ?_ ?_ | split)

theorem execSieveBeaconResult_keeps {z0 : State} (channel : Fin 128) (s : State) (h : Keeps z0 s) : ∃ t, execSieveBeaconResult channel s = .next t ∧
    Keeps z0 t := by
  unfold execSieveBeaconResult
  refine ⟨_, rfl, ?_⟩
  try dsimp only
  with_reducible repeat' (first | assumption | apply sivGo_keeps | apply onSummary_keeps | apply setSiv_keeps | apply bcnFix_keeps |
                                 apply bcnSlot_keeps | (fail_if_no_progress refine keeps_upd ?_) | (intro _) | split)

theorem execLegOutputReceive_keeps {z0 : State} (station : Fin 64) (handle : Nat) (leg : Nat) (attempt : Nat) (record : List Byte) (output : List
    Byte) (s : State) (h : Keeps z0 s) : ∃ t, execLegOutputReceive station handle leg attempt record output s = .next t ∧ Keeps z0 t := by
  unfold execLegOutputReceive
  refine ⟨_, rfl, ?_⟩
  try dsimp only
  with_reducible repeat' (first | assumption | apply legDropped_keeps | apply legDeliver_keeps | refine keeps_ite ?_ ?_ | split)

theorem ackTo_keeps {z0 : State} (st : Nat) (code : Nat) (a : Nat) (b : Nat) (result : Nat) (s : State) (h : Keeps z0 s) : Keeps z0 (ackTo st code a b
    result s) := by
  unfold ackTo
  try dsimp only
  with_reducible repeat' (first | assumption | apply send_keeps)

theorem await_keeps {z0 : State} (code : Nat) (a : Nat) (b : Nat) (left : List Nat) (s : State) (h : Keeps z0 s) : Keeps z0 (await code a b left s) :=
    by
  unfold await
  try dsimp only
  with_reducible repeat' (first | assumption | (fail_if_no_progress refine keeps_upd ?_))

theorem resendMirrors_keeps {z0 : State} (s : State) (h : Keeps z0 s) : Keeps z0 (resendMirrors s) := by
  unfold resendMirrors
  try dsimp only
  with_reducible repeat' (first | assumption | apply send_keeps | refine keeps_foldl _ _ (fun _ _ _ => ?_) ?_ | (intro _))

theorem choosePartner_keeps {z0 : State} (s : State) (h : Keeps z0 s) : Keeps z0 (choosePartner s) := by
  unfold choosePartner
  try dsimp only
  with_reducible repeat' (first | assumption | apply resendMirrors_keeps | apply settlePart_keeps | apply dropMirrors_keeps | apply debtCheck_keeps |
                                 apply updPart_keeps | refine keeps_foldl _ _ (fun _ _ _ => ?_) ?_ | (fail_if_no_progress refine keeps_upd ?_) |
                                 refine keeps_ite ?_ ?_ | (intro _) | split)

theorem forgetCaravan_keeps {z0 : State} (s : State) (h : Keeps z0 s) : Keeps z0 (forgetCaravan s) := by
  unfold forgetCaravan
  try dsimp only
  with_reducible repeat' (first | assumption | (fail_if_no_progress refine keeps_upd ?_) | (intro _))

theorem relink_keeps {z0 : State} (s : State) (l : Nat) (h : Keeps z0 s) : Keeps z0 (relink s l) := by
  unfold relink
  try dsimp only
  with_reducible repeat' (first | assumption | apply retrainLink_keeps | refine keeps_ite ?_ ?_ | split)

theorem takeRecord_keeps {z0 : State} (action : Nat) (subject : Nat) (r : CarRecord) (s : State) (h : Keeps z0 s) : Keeps z0 (takeRecord action
    subject r s) := by
  unfold takeRecord
  try dsimp only
  with_reducible repeat' (first | assumption | apply forgetCaravan_keeps | (fail_if_no_progress refine keeps_upd ?_) | refine keeps_ite ?_ ?_ | split)

theorem writeRecord_keeps {z0 : State} (action : Nat) (subject : Nat) (r : CarRecord) (s : State) (h : Keeps z0 s) : Keeps z0 (writeRecord action
    subject r s) := by
  unfold writeRecord
  extract_lets detail s2 s3 r4
  have h2 : Keeps z0 s2 := keeps_foldl _ _ (fun _ _ h => relink_keeps _ _ h) (raise_keeps _ _ (logOcc_keeps _ _ _ _ (takeRecord_keeps _ _ _ _ h)))
  clear_value s2
  have h3 : Keeps z0 s3 := checkPartition_keeps _ (updateRoutes_keeps _ (choosePartner_keeps _ h2))
  clear_value s3
  split
  · exact keeps_ite h3 (completeCmd_keeps _ _ _ _ _ _ (keeps_upd h3))
  · exact h3

theorem removeMember_keeps {z0 : State} (m : Nat) (s : State) (h : Keeps z0 s) : Keeps z0 (removeMember m s) := by
  unfold removeMember
  try dsimp only
  with_reducible repeat' (first | assumption | apply writeRecord_keeps | apply sendAll_keeps | (fail_if_no_progress refine keeps_upd ?_) | (intro _))

theorem execPlacementRequest_keeps {z0 : State} (asker : Fin 64) (nsid : Nat) (bale : Nat) (s : State) (h : Keeps z0 s) : ∃ t, execPlacementRequest
    asker nsid bale s = .next t ∧ Keeps z0 t := by
  unfold execPlacementRequest
  refine ⟨_, rfl, ?_⟩
  try dsimp only
  with_reducible repeat' (first | assumption | apply settleAll_keeps | apply serveNext_keeps | (fail_if_no_progress refine keeps_upd ?_) |
                                 refine keeps_ite ?_ ?_ | split)

theorem execPlacementAnswer_keeps {z0 : State} (nsid : Nat) (bale : Nat) (owner : Fin 64) (s : State) (h : Keeps z0 s) : ∃ t, execPlacementAnswer nsid
    bale owner s = .next t ∧ Keeps z0 t := by
  unfold execPlacementAnswer
  refine ⟨_, rfl, ?_⟩
  try dsimp only
  with_reducible repeat' (first | assumption | apply answerPlacement_keeps | refine keeps_ite ?_ ?_ | split)

theorem forgetMove_keeps {z0 : State} (nsid : Nat) (bale : Nat) (s : State) (h : Keeps z0 s) : Keeps z0 (forgetMove nsid bale s) := by
  unfold forgetMove
  try dsimp only
  with_reducible repeat' (first | assumption | (fail_if_no_progress refine keeps_upd ?_) | (intro _))

theorem dropCopies_keeps {z0 : State} (nsid : Nat) (bale : Nat) (s : State) (h : Keeps z0 s) : Keeps z0 (dropCopies nsid bale s) := by
  unfold dropCopies
  try dsimp only
  with_reducible repeat' (first | assumption | apply dropMirrors_keeps | (fail_if_no_progress refine keeps_upd ?_) | refine keeps_ite ?_ ?_ |
                                 (intro _) | split)

theorem dropMove_keeps {z0 : State} (nsid : Nat) (bale : Nat) (s : State) (h : Keeps z0 s) : Keeps z0 (dropMove nsid bale s) := by
  unfold dropMove
  try dsimp only
  with_reducible repeat' (first | assumption | apply dropCopies_keeps | apply forgetMove_keeps | apply tellDir_keeps | apply setDir_keeps |
                                 apply jrn_keeps | (fail_if_no_progress refine keeps_upd ?_) | refine keeps_ite ?_ ?_ | split)

theorem takeMove_keeps {z0 : State} (nsid : Nat) (bale : Nat) (src : Nat) (dst : Nat) (reason : Nat) (s : State) (h : Keeps z0 s) : Keeps z0 (takeMove
    nsid bale src dst reason s).1 := by
  unfold takeMove
  try dsimp only
  with_reducible repeat' (first | assumption | (fail_if_no_progress refine keeps_upd ?_) | refine keeps_ite ?_ ?_ | split)

theorem takeMove_keeps_of_eq {z0 : State} {nsid : Nat} {bale : Nat} {src : Nat} {dst : Nat} {reason : Nat} {s : State} {t : State} {x1} (e : takeMove
    nsid bale src dst reason s = (t, x1)) (h : Keeps z0 s) : Keeps z0 t := by
  have := takeMove_keeps nsid bale src dst reason s h
  rw [e] at this
  exact this

theorem execMoveOrder_keeps {z0 : State} (nsid : Nat) (bale : Nat) (src : Fin 64) (dst : Fin 64) (reason : Fin 8) (s : State) (h : Keeps z0 s) : ∃ t,
    execMoveOrder nsid bale src dst reason s = .next t ∧ Keeps z0 t := by
  unfold execMoveOrder
  refine ⟨_, rfl, ?_⟩
  try dsimp only
  with_reducible repeat' (first | assumption | refine takeMove_keeps_of_eq (by assumption) ?_ | apply takeMove_keeps | apply ackTo_keeps |
                                 refine keeps_ite ?_ ?_ | split)

theorem moveSource_keeps {z0 : State} (nsid : Nat) (bale : Nat) (s : State) (h : Keeps z0 s) : Keeps z0 (moveSource nsid bale s) := by
  unfold moveSource
  try dsimp only
  with_reducible repeat' (first | assumption | apply setMove_keeps | apply setDir_keeps | (fail_if_no_progress refine keeps_upd ?_) |
                                 refine keeps_ite ?_ ?_ | split)

theorem orderMove_keeps {z0 : State} (nsid : Nat) (bale : Nat) (src : Nat) (dst : Nat) (reason : Nat) (s : State) (h : Keeps z0 s) : Keeps z0
    (orderMove nsid bale src dst reason s) := by
  unfold orderMove
  try dsimp only
  with_reducible repeat' (first | assumption | refine takeMove_keeps_of_eq (by assumption) ?_ | apply takeMove_keeps | apply await_keeps |
                                 apply send_keeps | refine keeps_foldl _ _ (fun _ _ _ => ?_) ?_ | refine keeps_ite ?_ ?_ | (intro _) | split)

theorem movesAnswered_keeps {z0 : State} (nsid : Nat) (bale : Nat) (fails : List (Nat × Nat)) (s : State) (h : Keeps z0 s) : Keeps z0 (movesAnswered
    nsid bale fails s) := by
  unfold movesAnswered
  try dsimp only
  with_reducible repeat' (first | assumption | apply moveSource_keeps | apply dropMove_keeps | apply send_keeps |
                                 refine keeps_foldl _ _ (fun _ _ _ => ?_) ?_ | refine keeps_ite ?_ ?_ | (intro _) | split)

theorem mirrorIn_keeps {z0 : State} (gs : List (GrainId × GrainImg)) (s : State) (h : Keeps z0 s) : Keeps z0 (mirrorIn gs s) := by
  unfold mirrorIn
  try dsimp only
  with_reducible repeat' (first | assumption | apply send_keeps | (fail_if_no_progress refine keeps_upd ?_) | refine keeps_ite ?_ ?_ | split)

theorem moveGrainIn_keeps {z0 : State} (src : Nat) (w : Nat) (s : State) (g : GrainMsg) (h : Keeps z0 s) : Keeps z0 (moveGrainIn src w s g) := by
  unfold moveGrainIn
  try dsimp only
  with_reducible repeat' (first | assumption | apply mirrorIn_keeps | apply placeGrain_keeps | apply send_keeps | apply jrn_keeps |
                                 (fail_if_no_progress refine keeps_upd ?_) | refine keeps_ite ?_ ?_ | split)

theorem execMoveGrains_keeps {z0 : State} (station : Fin 64) (grains : List GrainMsg) (s : State) (h : Keeps z0 s) : ∃ t, execMoveGrains station
    grains s = .next t ∧ Keeps z0 t := by
  unfold execMoveGrains
  refine ⟨_, rfl, ?_⟩
  try dsimp only
  with_reducible repeat' (first | assumption | apply moveGrainIn_keeps | apply settleAll_keeps | refine keeps_foldl _ _ (fun _ _ _ => ?_) ?_ |
                                 refine keeps_ite ?_ ?_ | (intro _) | split)

theorem execMoveStallDone_keeps {z0 : State} (nsid : Nat) (bale : Nat) (s : State) (h : Keeps z0 s) : ∃ t, execMoveStallDone nsid bale s = .next t ∧
    Keeps z0 t := by
  unfold execMoveStallDone
  refine ⟨_, rfl, ?_⟩
  try dsimp only
  with_reducible repeat' (first | assumption | apply settleAll_keeps | apply setMove_keeps | apply setDir_keeps |
                                 (fail_if_no_progress refine keeps_upd ?_) | refine keeps_ite ?_ ?_ | split)

theorem noteDir_keeps {z0 : State} (nsid : Nat) (bale : Nat) (st : Nat) (wing : Nat) (state : Nat) (s : State) (h : Keeps z0 s) : Keeps z0 (noteDir
    nsid bale st wing state s) := by
  unfold noteDir
  try dsimp only
  with_reducible repeat' (first | assumption | apply forgetMove_keeps | apply putDir_keeps | apply passParts_keeps | apply dropMap_keeps |
                                 apply setMove_keeps | apply rehomeLegs_keeps | apply rehome_keeps | apply setDir_keeps | apply admitForeign_keeps |
                                 (fail_if_no_progress refine keeps_upd ?_) | refine keeps_ite ?_ ?_ | split)

theorem moveAnswer_keeps {z0 : State} (nsid : Nat) (bale : Nat) (st : Nat) (wing : Nat) (state : Nat) (s : State) (h : Keeps z0 s) : Keeps z0
    (moveAnswer nsid bale st wing state s) := by
  unfold moveAnswer
  try dsimp only
  with_reducible repeat' (first | assumption | apply dropMap_keeps | apply resumeMove_keeps | apply setDir_keeps |
                                 (fail_if_no_progress refine keeps_upd ?_) | refine keeps_ite ?_ ?_ | split)

theorem execDirectoryAnnouncement_keeps {z0 : State} (nsid : Nat) (bale : Nat) (station : Fin 64) (wing : Fin 8) (state : Fin 4) (s : State) (h :
    Keeps z0 s) : ∃ t, execDirectoryAnnouncement nsid bale station wing state s = .next t ∧ Keeps z0 t := by
  unfold execDirectoryAnnouncement
  refine ⟨_, rfl, ?_⟩
  try dsimp only
  with_reducible repeat' (first | assumption | apply moveAnswer_keeps | apply noteDir_keeps | apply ackTo_keeps | apply settleAll_keeps |
                                 apply announceDir_keeps | refine keeps_ite ?_ ?_ | split)

theorem dirAnswered_keeps {z0 : State} (nsid : Nat) (bale : Nat) (s : State) (h : Keeps z0 s) : Keeps z0 (dirAnswered nsid bale s) := by
  unfold dirAnswered
  try dsimp only
  with_reducible repeat' (first | assumption | apply streamMove_keeps | apply send_keeps | refine keeps_ite ?_ ?_ | split)

theorem moveWingBales_keeps {z0 : State} (reason : Nat) (ks : List Nat) (s : State) (h : Keeps z0 s) : Keeps z0 (moveWingBales reason ks s) := by
  unfold moveWingBales
  try dsimp only
  with_reducible repeat' (first | assumption | apply startMove_keeps | refine keeps_foldl _ _ (fun _ _ _ => ?_) ?_ | refine keeps_ite ?_ ?_ |
                                 (intro _) | split)

theorem moveStationBales_keeps {z0 : State} (reason : Nat) (src : Nat) (dwell : Bool) (ks : List Nat) (s : State) (h : Keeps z0 s) : Keeps z0
    (moveStationBales reason src dwell ks s) := by
  unfold moveStationBales
  try dsimp only
  with_reducible repeat' (first | assumption | apply orderMove_keeps | refine keeps_foldl _ _ (fun _ _ _ => ?_) ?_ | refine keeps_ite ?_ ?_ |
                                 (intro _) | split)

theorem wingTriggers_keeps {z0 : State} (s : State) (w : Nat) (h : Keeps z0 s) : Keeps z0 (wingTriggers s w) := by
  unfold wingTriggers
  try dsimp only
  with_reducible repeat' (first | assumption | apply moveWingBales_keeps | refine keeps_ite ?_ ?_ | (intro _) | split)

theorem stationTriggers_keeps {z0 : State} (s : State) (i : Nat) (h : Keeps z0 s) : Keeps z0 (stationTriggers s i) := by
  unfold stationTriggers
  try dsimp only
  with_reducible repeat' (first | assumption | apply moveStationBales_keeps | refine keeps_ite ?_ ?_ | (intro _) | split)

theorem joinTrigger_keeps {z0 : State} (s : State) (h : Keeps z0 s) : Keeps z0 (joinTrigger s) := by
  unfold joinTrigger
  try dsimp only
  with_reducible repeat' (first | assumption | apply moveStationBales_keeps | refine keeps_foldl _ _ (fun _ _ _ => ?_) ?_ |
                                 (fail_if_no_progress refine keeps_upd ?_) | refine keeps_ite ?_ ?_ | (intro _) | split)

theorem tellCurrent_keeps {z0 : State} (s : State) (h : Keeps z0 s) : Keeps z0 (tellCurrent s) := by
  unfold tellCurrent
  try dsimp only
  with_reducible repeat' (first | assumption | apply send_keeps | refine keeps_foldl _ _ (fun _ _ _ => ?_) ?_ | (intro _))

theorem recodeAbsent_keeps {z0 : State} (s : State) (h : Keeps z0 s) : Keeps z0 (recodeAbsent s) := by
  unfold recodeAbsent
  try dsimp only
  with_reducible repeat' (first | assumption | apply recodeOf_keeps | refine keeps_foldl _ _ (fun _ _ _ => ?_) ?_ | refine keeps_ite ?_ ?_ | (intro _)
                                 | split)

theorem rollWindow_keeps {z0 : State} (load : List Nat) (s : State) (h : Keeps z0 s) : Keeps z0 (rollWindow load s) := by
  unfold rollWindow
  try dsimp only
  with_reducible repeat' (first | assumption | refine keeps_foldl _ _ (fun _ _ _ => ?_) ?_ | (fail_if_no_progress refine keeps_upd ?_) |
                                 refine keeps_ite ?_ ?_ | (intro _) | split)

theorem sendReport_keeps {z0 : State} (st : Nat) (s : State) (h : Keeps z0 s) : Keeps z0 (sendReport st s) := by
  unfold sendReport
  try dsimp only
  with_reducible repeat' (first | assumption | apply send_keeps | (intro _))

theorem noteBales_keeps {z0 : State} (st : Nat) (nums : List Nat) (s : State) (h : Keeps z0 s) : Keeps z0 (noteBales st nums s) := by
  unfold noteBales
  try dsimp only
  with_reducible repeat' (first | assumption | (fail_if_no_progress refine keeps_upd ?_) | (intro _))

theorem leaveReady_keeps {z0 : State} (s : State) (h : Keeps z0 s) : Keeps z0 (leaveReady s) := by
  unfold leaveReady
  try dsimp only
  with_reducible repeat' (first | assumption | apply removeMember_keeps | apply ackTo_keeps | refine keeps_ite ?_ ?_ | (intro _) | split)

theorem resumeMoves_keeps {z0 : State} (s : State) (h : Keeps z0 s) : Keeps z0 (resumeMoves s) := by
  unfold resumeMoves
  try dsimp only
  with_reducible repeat' (first | assumption | apply resumeMove_keeps | refine keeps_foldl _ _ (fun _ _ _ => ?_) ?_ |
                                 refine keeps_foldl_fst _ _ (fun _ _ _ => ?_) ?_ | (intro _))

theorem execPlacementWindowEnd_keeps {z0 : State} (load : List Nat) (s : State) (h : Keeps z0 s) : ∃ t, execPlacementWindowEnd load s = .next t ∧
    Keeps z0 t := by
  unfold execPlacementWindowEnd
  refine ⟨_, rfl, ?_⟩
  try dsimp only
  with_reducible repeat' (first | assumption | apply resumeMoves_keeps | apply leaveReady_keeps | apply sendReport_keeps | apply rollWindow_keeps |
                                 apply recodeAbsent_keeps | apply tellCurrent_keeps | apply joinTrigger_keeps | apply stationTriggers_keeps |
                                 apply wingTriggers_keeps | apply settleAll_keeps | refine keeps_foldl _ _ (fun _ _ _ => ?_) ?_ |
                                 refine keeps_ite ?_ ?_ | split)

theorem execStationReport_keeps {z0 : State} (station : Fin 64) (load : Nat) (wear : Nat) (heat : Nat) (owned : Nat) (debt : Nat) (held : Nat) (left :
    Nat) (moved : Nat) (excl : Fin 3) (s : State) (h : Keeps z0 s) : ∃ t, execStationReport station load wear heat owned debt held left moved excl s =
    .next t ∧ Keeps z0 t := by
  unfold execStationReport
  refine ⟨_, rfl, ?_⟩
  try dsimp only
  with_reducible repeat' (first | assumption | (fail_if_no_progress refine keeps_upd ?_) | refine keeps_ite ?_ ?_ | split)

theorem putHeld_keeps {z0 : State} (owner : Nat) (g : GrainId) (img : GrainImg) (s : State) (h : Keeps z0 s) : Keeps z0 (putHeld owner g img s) := by
  unfold putHeld
  try dsimp only
  with_reducible repeat' (first | assumption | (fail_if_no_progress refine keeps_upd ?_) | refine keeps_ite ?_ ?_ | (intro _) | split)

theorem mirrorGrain_keeps {z0 : State} (owner : Nat) (tag : Nat) (s : State) (g : GrainMsg) (h : Keeps z0 s) : Keeps z0 (mirrorGrain owner tag s g) :=
    by
  unfold mirrorGrain
  try dsimp only
  with_reducible repeat' (first | assumption | apply putHeld_keeps | apply placeGrain_keeps | (fail_if_no_progress refine keeps_upd ?_) |
                                 refine keeps_ite ?_ ?_ | split)

theorem mirrorTrim_keeps {z0 : State} (owner : Nat) (tag : Nat) (g : GrainMsg) (last : Bool) (s : State) (h : Keeps z0 s) : Keeps z0 (mirrorTrim owner
    tag g last s) := by
  unfold mirrorTrim
  try dsimp only
  with_reducible repeat' (first | assumption | apply putHeld_keeps | apply jrn_keeps | (fail_if_no_progress refine keeps_upd ?_) |
                                 refine keeps_ite ?_ ?_ | split)

theorem execMirrorGrains_keeps {z0 : State} (owner : Fin 64) (tag : Nat) (grains : List GrainMsg) (s : State) (h : Keeps z0 s) : ∃ t, execMirrorGrains
    owner tag grains s = .next t ∧ Keeps z0 t := by
  unfold execMirrorGrains
  refine ⟨_, rfl, ?_⟩
  try dsimp only
  with_reducible repeat' (first | assumption | apply mirrorTrim_keeps | apply mirrorGrain_keeps | apply settleAll_keeps |
                                 refine keeps_foldl _ _ (fun _ _ _ => ?_) ?_ | refine keeps_ite ?_ ?_ |
                                 refine keeps_foldl_fst _ _ (fun _ _ _ => ?_) ?_ | (intro _) | split)

theorem execMirrorAcknowledgement_keeps {z0 : State} (tag : Nat) (s : State) (h : Keeps z0 s) : ∃ t, execMirrorAcknowledgement tag s = .next t ∧ Keeps
    z0 t := by
  unfold execMirrorAcknowledgement
  refine ⟨_, rfl, ?_⟩
  try dsimp only
  with_reducible repeat' (first | assumption | apply settleAll_keeps | apply settlePart_keeps | apply debtCheck_keeps | apply updPart_keeps |
                                 refine keeps_foldl _ _ (fun _ _ _ => ?_) ?_ | (fail_if_no_progress refine keeps_upd ?_) | refine keeps_ite ?_ ?_ |
                                 (intro _) | split)

theorem execMirrorDrop_keeps {z0 : State} (owner : Fin 64) (grains : List GrainMsg) (s : State) (h : Keeps z0 s) : ∃ t, execMirrorDrop owner grains s
    = .next t ∧ Keeps z0 t := by
  unfold execMirrorDrop
  refine ⟨_, rfl, ?_⟩
  try dsimp only
  with_reducible repeat' (first | assumption | apply putHeld_keeps | apply settleAll_keeps | apply jrn_keeps |
                                 refine keeps_foldl _ _ (fun _ _ _ => ?_) ?_ | refine keeps_ite ?_ ?_ | (intro _) | split)

theorem execParityContribution_keeps {z0 : State} (owner : Fin 64) (seg : Nat) (pos : Nat) (index : Nat) (q : Bool) (data : List Byte) (md : List
    Byte) (s : State) (h : Keeps z0 s) : ∃ t, execParityContribution owner seg pos index q data md s = .next t ∧ Keeps z0 t := by
  unfold execParityContribution
  refine ⟨_, rfl, ?_⟩
  try dsimp only
  with_reducible repeat' (first | assumption | apply settleAll_keeps | (fail_if_no_progress refine keeps_upd ?_) | refine keeps_ite ?_ ?_ | (intro _)
                                 | split)

theorem execPieceClose_keeps {z0 : State} (group : Fin 8) (s : State) (h : Keeps z0 s) : ∃ t, execPieceClose group s = .next t ∧ Keeps z0 t := by
  unfold execPieceClose
  refine ⟨_, rfl, ?_⟩
  try dsimp only
  with_reducible repeat' (first | assumption | apply settleAll_keeps | apply setPiece_keeps | apply send_keeps |
                                 (fail_if_no_progress refine keeps_upd ?_) | refine keeps_ite ?_ ?_ | (intro _) | split)

theorem execSegmentClose_keeps {z0 : State} (seg : Nat) (s : State) (h : Keeps z0 s) : ∃ t, execSegmentClose seg s = .next t ∧ Keeps z0 t := by
  unfold execSegmentClose
  refine ⟨_, rfl, ?_⟩
  try dsimp only
  with_reducible repeat' (first | assumption | apply settleAll_keeps | apply tellLens_keeps | apply closeSeg_keeps | refine keeps_ite ?_ ?_ | split)

theorem execRebuildRead_keeps {z0 : State} (station : Fin 64) (seg : Nat) (index : Nat) (tag : Nat) (s : State) (h : Keeps z0 s) : ∃ t,
    execRebuildRead station seg index tag s = .next t ∧ Keeps z0 t := by
  unfold execRebuildRead
  refine ⟨_, rfl, ?_⟩
  try dsimp only
  with_reducible repeat' (first | assumption | apply addRead_keeps | (fail_if_no_progress refine keeps_upd ?_) | refine keeps_ite ?_ ?_ | (intro _) |
                                 split)

theorem rebuildGrain_keeps {z0 : State} (w : Nat) (s : State) (g : GrainMsg) (h : Keeps z0 s) : Keeps z0 (rebuildGrain w s g) := by
  unfold rebuildGrain
  try dsimp only
  with_reducible repeat' (first | assumption | apply placeGrain_keeps | apply markRebuilt_keeps | apply healthAdd_keeps | apply jrn_keeps |
                                 (fail_if_no_progress refine keeps_upd ?_) | refine keeps_ite ?_ ?_ | split)

theorem heldLeft_keeps {z0 : State} (nsid : Nat) (bale : Nat) (s : State) (h : Keeps z0 s) : Keeps z0 (heldLeft nsid bale s) := by
  unfold heldLeft
  try dsimp only
  with_reducible repeat' (first | assumption | apply placeGrain_keeps | refine keeps_foldl _ _ (fun _ _ _ => ?_) ?_ | refine keeps_ite ?_ ?_ |
                                 refine keeps_foldl_fst _ _ (fun _ _ _ => ?_) ?_ | (intro _) | split)

theorem rebuildEnd_keeps {z0 : State} (nsid : Nat) (bale : Nat) (s : State) (h : Keeps z0 s) : Keeps z0 (rebuildEnd nsid bale s) := by
  unfold rebuildEnd
  try dsimp only
  with_reducible repeat' (first | assumption | apply emptyBale_keeps | apply jrn_keeps | refine keeps_foldl _ _ (fun _ _ _ => ?_) ?_ |
                                 (fail_if_no_progress refine keeps_upd ?_) | refine keeps_foldl_fst _ _ (fun _ _ _ => ?_) ?_ | (intro _))

theorem execBackgroundRebuild_keeps {z0 : State} (nsid : Nat) (bale : Nat) (grains : List GrainMsg) (rest : Bool) (s : State) (h : Keeps z0 s) : ∃ t,
    execBackgroundRebuild nsid bale grains rest s = .next t ∧ Keeps z0 t := by
  unfold execBackgroundRebuild
  refine ⟨_, rfl, ?_⟩
  try dsimp only
  with_reducible repeat' (first | assumption | apply rebuildEnd_keeps | apply heldLeft_keeps | apply rebuildGrain_keeps | apply settleAll_keeps |
                                 apply admitForeign_keeps | refine keeps_foldl _ _ (fun _ _ _ => ?_) ?_ | refine keeps_ite ?_ ?_ |
                                 refine keeps_foldl_fst _ _ (fun _ _ _ => ?_) ?_ | (intro _) | split)

end Sys2Proof.Machine
end

