-- ==== Sys2Proof/Laws/KeepsCaravan.lean ====
section
/-! SUPPORT. What every step keeps (`Keeps`): caravan, dispatcher, event, management and register commands. For each operation `f` the lemma `f_keeps` says that it keeps it;
for the meaning of a command it says that the command has a next state and keeps it. -/

namespace Sys2Proof.Machine

set_option Elab.async false
set_option linter.all false
set_option maxRecDepth 20000

theorem noteAck_keeps {z0 : State} (st : Nat) (code : Nat) (a : Nat) (b : Nat) (result : Nat) (s : State) (h : Keeps z0 s) : Keeps z0 (noteAck st code
    a b result s) := by
  unfold noteAck
  try dsimp only
  with_reducible repeat' (first | assumption | (fail_if_no_progress refine keeps_upd ?_) | refine keeps_ite ?_ ?_ | (intro _) | split)

theorem dropAwaited_keeps {z0 : State} (st : Nat) (s : State) (h : Keeps z0 s) : Keeps z0 (dropAwaited st s) := by
  unfold dropAwaited
  try dsimp only
  with_reducible repeat' (first | assumption | (fail_if_no_progress refine keeps_upd ?_) | (intro _))

theorem carCommand_keeps {z0 : State} (r : CmdRef) (action : Nat) (f : OutCmd → List Byte → State → State) (s : State) (h_f : ∀ (x0 : OutCmd) (x1 :
    List Byte) (x2 : State), Keeps z0 x2 → Keeps z0 (f x0 x1 x2)) (h : Keeps z0 s) : Keeps z0 (carCommand r action f s) := by
  unfold carCommand
  try dsimp only
  with_reducible repeat' (first | assumption | apply h_f | apply failCmd_keeps | apply onAdmin_keeps | refine keeps_ite ?_ ?_ | (intro _) | split)

theorem refuseForm_keeps {z0 : State} (r : CmdRef) (station : Nat) (code : Nat) (s : State) (h : Keeps z0 s) : Keeps z0 (refuseForm r station code s)
    := by
  unfold refuseForm
  try dsimp only
  with_reducible repeat' (first | assumption | apply completeCmd_keeps | (fail_if_no_progress refine keeps_upd ?_) | refine keeps_ite ?_ ?_ | split)

theorem askAll_keeps {z0 : State} (ms : List Nat) (a : Nat) (b : Nat) (nums : List Nat) (cmd : Option CmdRef) (s : State) (h : Keeps z0 s) : Keeps z0
    (askAll ms a b nums cmd s) := by
  unfold askAll
  try dsimp only
  with_reducible repeat' (first | assumption | apply send_keeps | refine keeps_foldl _ _ (fun _ _ _ => ?_) ?_ |
                                 (fail_if_no_progress refine keeps_upd ?_) | (intro _))

theorem formCheck_keeps {z0 : State} (o : CarOp) (s : State) (h : Keeps z0 s) : Keeps z0 (formCheck o s) := by
  unfold formCheck
  try dsimp only
  with_reducible repeat' (first | assumption | apply askAll_keeps | (fail_if_no_progress refine keeps_upd ?_))

theorem giveCharter_keeps {z0 : State} (m : Nat) (s : State) (h : Keeps z0 s) : Keeps z0 (giveCharter m s) := by
  unfold giveCharter
  try dsimp only
  with_reducible repeat' (first | assumption | apply send_keeps | (intro _))

theorem giveAll_keeps {z0 : State} (m : Nat) (s : State) (h : Keeps z0 s) : Keeps z0 (giveAll m s) := by
  unfold giveAll
  try dsimp only
  with_reducible repeat' (first | assumption | apply giveCharter_keeps | apply await_keeps | apply send_keeps |
                                 refine keeps_foldl _ _ (fun _ _ _ => ?_) ?_ | refine keeps_ite ?_ ?_ |
                                 refine keeps_foldl_fst _ _ (fun _ _ _ => ?_) ?_ | (intro _) | split)

theorem takeOver_keeps {z0 : State} (nsid : Nat) (bale : Nat) (absent : Nat) (s : State) (h : Keeps z0 s) : Keeps z0 (takeOver nsid bale absent s) :=
    by
  unfold takeOver
  try dsimp only
  with_reducible repeat' (first | assumption | apply placeLocal_keeps | apply sendAll_keeps | (fail_if_no_progress refine keeps_upd ?_) |
                                 refine keeps_ite ?_ ?_ | split)

theorem reassignBale_keeps {z0 : State} (m : Nat) (s : State) (k : Nat) (h : Keeps z0 s) : Keeps z0 (reassignBale m s k) := by
  unfold reassignBale
  try dsimp only
  with_reducible repeat' (first | assumption | apply takeOver_keeps | apply putDir_keeps | apply send_keeps |
                                 (fail_if_no_progress refine keeps_upd ?_) | refine keeps_ite ?_ ?_ | (intro _) | split)

theorem askMoved_keeps {z0 : State} (nsid : Nat) (bale : Nat) (s : State) (h : Keeps z0 s) : Keeps z0 (askMoved nsid bale s) := by
  unfold askMoved
  try dsimp only
  with_reducible repeat' (first | assumption | apply await_keeps | apply sendAll_keeps)

theorem movedAnswered_keeps {z0 : State} (nsid : Nat) (bale : Nat) (s : State) (h : Keeps z0 s) : Keeps z0 (movedAnswered nsid bale s) := by
  unfold movedAnswered
  try dsimp only
  with_reducible repeat' (first | assumption | apply reassignBale_keeps | refine keeps_ite ?_ ?_ | split)

theorem reassign_keeps {z0 : State} (m : Nat) (s : State) (h : Keeps z0 s) : Keeps z0 (reassign m s) := by
  unfold reassign
  try dsimp only
  with_reducible repeat' (first | assumption | apply askMoved_keeps | apply reassignBale_keeps | refine keeps_foldl _ _ (fun _ _ _ => ?_) ?_ |
                                 refine keeps_ite ?_ ?_ | (intro _) | split)

theorem askHoldings_keeps {z0 : State} (ms : List Nat) (s : State) (h : Keeps z0 s) : Keeps z0 (askHoldings ms s) := by
  unfold askHoldings
  try dsimp only
  with_reducible repeat' (first | assumption | apply await_keeps | apply send_keeps | refine keeps_foldl _ _ (fun _ _ _ => ?_) ?_ | (intro _))

theorem reconciled_keeps {z0 : State} (s : State) (h : Keeps z0 s) : Keeps z0 (reconciled s) := by
  unfold reconciled
  try dsimp only
  with_reducible repeat' (first | assumption | apply reassign_keeps | apply giveAll_keeps | apply serveNext_keeps | apply replaceHolder_keeps |
                                 apply raise_keeps | refine keeps_foldl _ _ (fun _ _ _ => ?_) ?_ | (fail_if_no_progress refine keeps_upd ?_) |
                                 refine keeps_ite ?_ ?_ | (intro _) | split)

theorem askAgain_keeps {z0 : State} (s : State) (h : Keeps z0 s) : Keeps z0 (askAgain s) := by
  unfold askAgain
  try dsimp only
  with_reducible repeat' (first | assumption | apply askPlacement_keeps | refine keeps_foldl _ _ (fun _ _ _ => ?_) ?_ |
                                 refine keeps_foldl_fst _ _ (fun _ _ _ => ?_) ?_ | (intro _))

theorem absentHere_keeps {z0 : State} (m : Nat) (s : State) (h : Keeps z0 s) : Keeps z0 (absentHere m s) := by
  unfold absentHere
  extract_lets r1 s1 s2 s3 s4 r2 s5 s6 away s7
  have h2 : Keeps z0 s2 := raise_keeps _ _ (logOcc_keeps _ _ _ _ (keeps_upd h))
  clear_value s2
  have h3 : Keeps z0 s3 := dropAwaited_keeps _ _ h2
  clear_value s3
  have h4 : Keeps z0 s4 := keeps_ite (sanitizeFail_keeps _ h3) h3
  clear_value s4
  have h5 : Keeps z0 s5 := by
    show Keeps z0 (match s4.plc.serving with
      | some o => if o.owner = m then { s4 with plc := { s4.plc with serving := none, requests := (o.asker, o.nsid, o.bale) :: s4.plc.requests } }
          else endPlacement { s4 with plc := { s4.plc with serving := some { o with acks := o.acks.filter (· ≠ m) } } }
      | none => s4)
    split
    · exact keeps_ite (keeps_upd h4) (endPlacement_keeps _ (keeps_upd h4))
    · exact h4
  clear_value s5
  have h6 : Keeps z0 s6 := keeps_foldl _ _ (fun _ _ h => settleFn_keeps _ _ (legRemove_keeps _ _ h)) h5
  clear_value s6
  have h7 : Keeps z0 s7 := keeps_foldl _ _ (fun _ _ h => dropMove_keeps _ _ _ h) h6
  clear_value s7
  exact rehomeLegs_keeps _ (rehome_keeps _ (checkPartition_keeps _ (updateRoutes_keeps _ (choosePartner_keeps _ h7))))

theorem declareAbsent_keeps {z0 : State} (m : Nat) (s : State) (h : Keeps z0 s) : Keeps z0 (declareAbsent m s) := by
  unfold declareAbsent
  extract_lets took s1 s2
  have h2 : Keeps z0 s2 := sendAll_keeps _ _ _ _ (absentHere_keeps _ _ h)
  clear_value s2
  exact keeps_ite (askHoldings_keeps _ _ (raise_keeps _ _ (keeps_upd h2)))
    (keeps_ite h2 (serveNext_keeps _ _ (replaceHolder_keeps _ _ (reassign_keeps _ _ h2))))

theorem execAbsenceDeclaredWith_keeps {z0 : State} (done : State → State) (m : Nat) (s : State) (h_done : ∀ (x0 : State), Keeps z0 x0 → Keeps z0 (done
    x0)) (h : Keeps z0 s) : Keeps z0 (execAbsenceDeclaredWith done m s) := by
  unfold execAbsenceDeclaredWith
  try dsimp only
  with_reducible repeat' (first | assumption | apply h_done | apply declareAbsent_keeps | refine keeps_ite ?_ ?_ | split)

theorem recordsWritten_keeps {z0 : State} (o : CarOp) (s : State) (h : Keeps z0 s) : Keeps z0 (recordsWritten o s) := by
  unfold recordsWritten
  try dsimp only
  with_reducible repeat' (first | assumption | apply giveAll_keeps | apply completeCmd_keeps | (fail_if_no_progress refine keeps_upd ?_) |
                                 refine keeps_ite ?_ ?_ | split)

theorem formWrite_keeps {z0 : State} (o : CarOp) (s : State) (h : Keeps z0 s) : Keeps z0 (formWrite o s) := by
  unfold formWrite
  try dsimp only
  with_reducible repeat' (first | assumption | apply askAll_keeps | apply writeRecord_keeps | (fail_if_no_progress refine keeps_upd ?_) |
                                 refine keeps_ite ?_ ?_ | split)

theorem formRefused_keeps {z0 : State} (o : CarOp) (x : Nat × Nat) (s : State) (h : Keeps z0 s) : Keeps z0 (formRefused o x s) := by
  unfold formRefused
  try dsimp only
  with_reducible repeat' (first | assumption | apply refuseForm_keeps | apply ackTo_keeps | (fail_if_no_progress refine keeps_upd ?_) | split)

theorem formAnswered_keeps {z0 : State} (w : AckWait) (s : State) (h : Keeps z0 s) : Keeps z0 (formAnswered w s) := by
  unfold formAnswered
  try dsimp only
  with_reducible repeat' (first | assumption | apply formRefused_keeps | apply formWrite_keeps | apply recordsWritten_keeps | apply askAll_keeps |
                                 refine keeps_foldl _ _ (fun _ _ _ => ?_) ?_ | (fail_if_no_progress refine keeps_upd ?_) | refine keeps_ite ?_ ?_ |
                                 refine keeps_foldl_fst _ _ (fun _ _ _ => ?_) ?_ | (intro _) | split)

theorem waitDone_keeps {z0 : State} (w : AckWait) (s : State) (h : Keeps z0 s) : Keeps z0 (waitDone w s) := by
  unfold waitDone
  try dsimp only
  with_reducible repeat' (first | assumption | apply formAnswered_keeps | apply reconciled_keeps | apply movedAnswered_keeps | apply dirAnswered_keeps
                                 | apply movesAnswered_keeps | apply choosePartner_keeps | apply commitTurn_keeps | apply commitFinish_keeps |
                                 apply commitKick_keeps | apply commitGo_keeps | apply commitEnd_keeps | apply abortDecided_keeps |
                                 apply checkPartition_keeps | apply updateRoutes_keeps | apply sendAll_keeps | apply completeCmd_keeps |
                                 apply raise_keeps | (fail_if_no_progress refine keeps_upd ?_) | refine keeps_ite ?_ ?_ | (intro _) | split)

theorem endWaits_keeps {z0 : State} (n : Nat) (s : State) (h : Keeps z0 s) : Keeps z0 (endWaits n s) := by
  induction n generalizing s with
  | zero => exact h
  | succ n ih =>
    unfold endWaits
    split
    · exact h
    · exact ih _ (waitDone_keeps _ _ (keeps_upd h))

theorem settleWaits_keeps {z0 : State} (s : State) (h : Keeps z0 s) : Keeps z0 (settleWaits s) := by
  unfold settleWaits
  try dsimp only
  with_reducible repeat' (first | assumption | apply endWaits_keeps | apply settleAll_keeps)

theorem execCaravanForm_keeps {z0 : State} (r : CmdRef) (identity : Word) (s : State) (h : Keeps z0 s) : ∃ t, execCaravanForm r identity s = .next t ∧
    Keeps z0 t := by
  unfold execCaravanForm
  refine ⟨_, rfl, ?_⟩
  try dsimp only
  with_reducible repeat' (first | assumption | apply settleWaits_keeps | apply formCheck_keeps | apply carCommand_keeps | apply failCmd_keeps |
                                 refine keeps_foldl _ _ (fun _ _ _ => ?_) ?_ | (fail_if_no_progress refine keeps_upd ?_) | refine keeps_ite ?_ ?_ |
                                 (intro _) | split)

theorem execCaravanJoin_keeps {z0 : State} (r : CmdRef) (s : State) (h : Keeps z0 s) : ∃ t, execCaravanJoin r s = .next t ∧ Keeps z0 t := by
  unfold execCaravanJoin
  refine ⟨_, rfl, ?_⟩
  try dsimp only
  with_reducible repeat' (first | assumption | apply refuseForm_keeps | apply carCommand_keeps | apply send_keeps |
                                 (fail_if_no_progress refine keeps_upd ?_) | refine keeps_ite ?_ ?_ | (intro _) | split)

theorem execJoinRequest_keeps {z0 : State} (station : Fin 64) (variant200 : Bool) (fwSet : Nat) (group : Fin 8) (identity : Nat) (s : State) (h :
    Keeps z0 s) : ∃ t, execJoinRequest station variant200 fwSet group identity s = .next t ∧ Keeps z0 t := by
  unfold execJoinRequest
  refine ⟨_, rfl, ?_⟩
  try dsimp only
  with_reducible repeat' (first | assumption | apply settleWaits_keeps | apply formCheck_keeps | apply ackTo_keeps | apply send_keeps |
                                 (fail_if_no_progress refine keeps_upd ?_) | refine keeps_ite ?_ ?_ | split)

theorem leaveBegin_keeps {z0 : State} (m : Nat) (s : State) (h : Keeps z0 s) : Keeps z0 (leaveBegin m s) := by
  unfold leaveBegin
  try dsimp only
  with_reducible repeat' (first | assumption | apply dropMove_keeps | apply choosePartner_keeps | apply await_keeps | apply replaceHolder_keeps |
                                 apply tellSeg_keeps | apply sendAll_keeps | apply send_keeps | apply raise_keeps |
                                 refine keeps_foldl _ _ (fun _ _ _ => ?_) ?_ | (fail_if_no_progress refine keeps_upd ?_) | refine keeps_ite ?_ ?_ |
                                 (intro _) | split)

theorem execCaravanLeave_keeps {z0 : State} (r : CmdRef) (s : State) (h : Keeps z0 s) : ∃ t, execCaravanLeave r s = .next t ∧ Keeps z0 t := by
  unfold execCaravanLeave
  refine ⟨_, rfl, ?_⟩
  try dsimp only
  with_reducible repeat' (first | assumption | apply leaveBegin_keeps | apply carCommand_keeps | apply failCmd_keeps | apply settleAll_keeps |
                                 apply send_keeps | (fail_if_no_progress refine keeps_upd ?_) | refine keeps_ite ?_ ?_ | (intro _) | split)

theorem execCaravanDissolve_keeps {z0 : State} (r : CmdRef) (s : State) (h : Keeps z0 s) : ∃ t, execCaravanDissolve r s = .next t ∧ Keeps z0 t := by
  unfold execCaravanDissolve
  refine ⟨_, rfl, ?_⟩
  try dsimp only
  with_reducible repeat' (first | assumption | apply settleWaits_keeps | apply askAll_keeps | apply carCommand_keeps | apply writeRecord_keeps |
                                 apply failCmd_keeps | apply onAdmin_keeps | (fail_if_no_progress refine keeps_upd ?_) | refine keeps_ite ?_ ?_ |
                                 (intro _) | split)

theorem execHeartbeatSend_keeps {z0 : State} (s : State) (h : Keeps z0 s) : ∃ t, execHeartbeatSend s = .next t ∧ Keeps z0 t := by
  unfold execHeartbeatSend
  refine ⟨_, rfl, ?_⟩
  try dsimp only
  with_reducible repeat' (first | assumption | apply send_keeps | refine keeps_foldl _ _ (fun _ _ _ => ?_) ?_ | refine keeps_ite ?_ ?_ | (intro _) |
                                 split)

theorem heardFrom_keeps {z0 : State} (m : Nat) (s : State) (h : Keeps z0 s) : Keeps z0 (heardFrom m s) := by
  unfold heardFrom
  try dsimp only
  with_reducible repeat' (first | assumption | apply askHoldings_keeps | apply giveAll_keeps | apply choosePartner_keeps | apply raise_keeps |
                                 (fail_if_no_progress refine keeps_upd ?_) | refine keeps_ite ?_ ?_ | (intro _) | split)

theorem execHeartbeat_keeps {z0 : State} (station : Fin 64) (s : State) (h : Keeps z0 s) : ∃ t, execHeartbeat station s = .next t ∧ Keeps z0 t := by
  unfold execHeartbeat
  refine ⟨_, rfl, ?_⟩
  try dsimp only
  with_reducible repeat' (first | assumption | apply heardFrom_keeps | apply checkPartition_keeps | apply settleAll_keeps |
                                 (fail_if_no_progress refine keeps_upd ?_) | refine keeps_ite ?_ ?_ | split)

theorem execAbsenceDeclared_keeps {z0 : State} (station : Fin 64) (announced : Bool) (s : State) (h : Keeps z0 s) : ∃ t, execAbsenceDeclared station
    announced s = .next t ∧ Keeps z0 t := by
  unfold execAbsenceDeclared
  refine ⟨_, rfl, ?_⟩
  try dsimp only
  with_reducible repeat' (first | assumption | apply settleWaits_keeps | apply execAbsenceDeclaredWith_keeps | refine keeps_ite ?_ ?_ | split)

theorem execCaravanResumption_keeps {z0 : State} (s : State) (h : Keeps z0 s) : ∃ t, execCaravanResumption s = .next t ∧ Keeps z0 t := by
  unfold execCaravanResumption
  refine ⟨_, rfl, ?_⟩
  try dsimp only
  with_reducible repeat' (first | assumption | apply settleWaits_keeps | apply execAbsenceDeclaredWith_keeps | apply checkPartition_keeps |
                                 apply settleAll_keeps | refine keeps_foldl _ _ (fun _ _ _ => ?_) ?_ | (fail_if_no_progress refine keeps_upd ?_) |
                                 refine keeps_ite ?_ ?_ | (intro _) | split)

theorem execCharterPropagation_keeps {z0 : State} (station : Fin 64) (generation : Nat) (entries : List (Nat × List (BitVec 8))) (s : State) (h :
    Keeps z0 s) : ∃ t, execCharterPropagation station generation entries s = .next t ∧ Keeps z0 t := by
  unfold execCharterPropagation
  refine ⟨_, rfl, ?_⟩
  try dsimp only
  with_reducible repeat' (first | assumption | apply ackTo_keeps | refine keeps_foldl _ _ (fun _ _ _ => ?_) ?_ |
                                 (fail_if_no_progress refine keeps_upd ?_) | refine keeps_ite ?_ ?_ | refine keeps_foldl_fst _ _ (fun _ _ _ => ?_) ?_
                                 | (intro _) | split)

theorem execHintPropagation_keeps {z0 : State} (station : Fin 64) (nsid : Nat) (value : Nat) (s : State) (h : Keeps z0 s) : ∃ t, execHintPropagation
    station nsid value s = .next t ∧ Keeps z0 t := by
  unfold execHintPropagation
  refine ⟨_, rfl, ?_⟩
  try dsimp only
  with_reducible repeat' (first | assumption | apply ackTo_keeps | apply putHint_keeps | refine keeps_ite ?_ ?_ | split)

theorem ackEffect_keeps {z0 : State} (st : Nat) (code : Nat) (a : Nat) (b : Nat) (result : Nat) (s : State) (h : Keeps z0 s) : Keeps z0 (ackEffect st
    code a b result s) := by
  unfold ackEffect
  try dsimp only
  with_reducible repeat' (first | assumption | apply refuseForm_keeps | apply removeMember_keeps | apply putDir_keeps | apply sanitizeCheck_keeps |
                                 apply setMove_keeps | apply placedAt_keeps | apply serveNext_keeps | apply endPlacement_keeps |
                                 apply rehomeLegs_keeps | apply rehome_keeps | apply announceDir_keeps | apply setDir_keeps |
                                 (fail_if_no_progress refine keeps_upd ?_) | refine keeps_ite ?_ ?_ | split)

theorem execMemberAcknowledgement_keeps {z0 : State} (station : Fin 64) (code : Nat) (a : Nat) (b : Nat) (result : Nat) (s : State) (h : Keeps z0 s) :
    ∃ t, execMemberAcknowledgement station code a b result s = .next t ∧ Keeps z0 t := by
  unfold execMemberAcknowledgement
  refine ⟨_, rfl, ?_⟩
  try dsimp only
  with_reducible repeat' (first | assumption | apply ackEffect_keeps | apply settleWaits_keeps | apply noteAck_keeps | refine keeps_ite ?_ ?_ | split)

theorem abortAtOwner_keeps {z0 : State} (station : Nat) (r : CmdRef) (why : Nat) (s : State) (h : Keeps z0 s) : Keeps z0 (abortAtOwner station r why
    s) := by
  unfold abortAtOwner
  try dsimp only
  with_reducible repeat' (first | assumption | apply ackTo_keeps | apply dropPart_keeps | apply admitForeign_keeps | apply dropLock_keeps |
                                 refine keeps_foldl _ _ (fun _ _ _ => ?_) ?_ | (fail_if_no_progress refine keeps_upd ?_) | refine keeps_ite ?_ ?_ |
                                 (intro _) | split)

theorem namespaceOrder_keeps {z0 : State} (st : Nat) (kind : Nat) (nsid : Nat) (l : List Nat) (s : State) (h : Keeps z0 s) : Keeps z0 (namespaceOrder
    st kind nsid l s) := by
  unfold namespaceOrder
  try dsimp only
  with_reducible repeat' (first | assumption | apply ackTo_keeps | apply attachNs_keeps | apply deleteNs_keeps | apply addNs_keeps |
                                 refine keeps_foldl _ _ (fun _ _ _ => ?_) ?_ | (intro _) | split)

theorem recordOrder_keeps {z0 : State} (st : Nat) (nums : List Nat) (s : State) (h : Keeps z0 s) : Keeps z0 (recordOrder st nums s) := by
  unfold recordOrder
  try dsimp only
  with_reducible repeat' (first | assumption | apply writeRecord_keeps | apply ackTo_keeps | refine keeps_foldl _ _ (fun _ _ _ => ?_) ?_ |
                                 (fail_if_no_progress refine keeps_upd ?_) | refine keeps_ite ?_ ?_ | refine keeps_foldl_fst _ _ (fun _ _ _ => ?_) ?_
                                 | (intro _) | split)

theorem stateOrder_keeps {z0 : State} (st : Nat) (m : Nat) (code : Nat) (s : State) (h : Keeps z0 s) : Keeps z0 (stateOrder st m code s) := by
  unfold stateOrder
  try dsimp only
  with_reducible repeat' (first | assumption | apply absentHere_keeps | apply askAgain_keeps | apply giveCharter_keeps | apply choosePartner_keeps |
                                 apply ackTo_keeps | apply checkPartition_keeps | apply updateRoutes_keeps | apply dropMap_keeps |
                                 apply completeCmd_keeps | apply raise_keeps | refine keeps_foldl _ _ (fun _ _ _ => ?_) ?_ |
                                 (fail_if_no_progress refine keeps_upd ?_) | refine keeps_ite ?_ ?_ | refine keeps_foldl_fst _ _ (fun _ _ _ => ?_) ?_
                                 | (intro _) | split)

theorem tellHoldings_keeps {z0 : State} (st : Nat) (s : State) (h : Keeps z0 s) : Keeps z0 (tellHoldings st s) := by
  unfold tellHoldings
  try dsimp only
  with_reducible repeat' (first | assumption | apply sendReport_keeps | apply ackTo_keeps | apply setPiece_keeps | apply send_keeps |
                                 refine keeps_foldl _ _ (fun _ _ _ => ?_) ?_ | (fail_if_no_progress refine keeps_upd ?_) | refine keeps_ite ?_ ?_ |
                                 refine keeps_foldl_fst _ _ (fun _ _ _ => ?_) ?_ | (intro _) | split)

theorem learnPiece_keeps {z0 : State} (st : Nat) (n : Nat → Nat) (s : State) (h : Keeps z0 s) : Keeps z0 (learnPiece st n s) := by
  unfold learnPiece
  try dsimp only
  with_reducible repeat' (first | assumption | apply setSeg_keeps | (fail_if_no_progress refine keeps_upd ?_) | refine keeps_ite ?_ ?_ | split)

theorem segmentOrder_keeps {z0 : State} (st : Nat) (nums : List Nat) (s : State) (h : Keeps z0 s) : Keeps z0 (segmentOrder st nums s) := by
  unfold segmentOrder
  try dsimp only
  with_reducible repeat' (first | assumption | apply learnPiece_keeps | apply segLead_keeps | apply pieceEnds_keeps | apply bindPiece_keeps |
                                 apply tellBound_keeps | apply segMember_keeps | refine keeps_ite ?_ ?_ | (intro _) | split)

theorem commitMove_keeps {z0 : State} (nsid : Nat) (bale : Nat) (s : State) (h : Keeps z0 s) : Keeps z0 (commitMove nsid bale s) := by
  unfold commitMove
  try dsimp only
  with_reducible repeat' (first | assumption | apply setMove_keeps | apply setDir_keeps | (fail_if_no_progress refine keeps_upd ?_) |
                                 refine keeps_ite ?_ ?_ | (intro _) | split)

theorem partnerOrder_keeps {z0 : State} (st : Nat) (nums : List Nat) (s : State) (h : Keeps z0 s) : Keeps z0 (partnerOrder st nums s) := by
  unfold partnerOrder
  try dsimp only
  with_reducible repeat' (first | assumption | apply debtCheck_keeps | apply send_keeps | (fail_if_no_progress refine keeps_upd ?_) |
                                 refine keeps_ite ?_ ?_ | (intro _) | split)

theorem sanitizeOrder_keeps {z0 : State} (st : Nat) (seq : Nat) (action : Nat) (late : Nat) (s : State) (h : Keeps z0 s) : Keeps z0 (sanitizeOrder st
    seq action late s) := by
  unfold sanitizeOrder
  try dsimp only
  with_reducible repeat' (first | assumption | apply ackTo_keeps | apply sanitizeBegin_keeps | (fail_if_no_progress refine keeps_upd ?_) |
                                 refine keeps_ite ?_ ?_ | (intro _) | split)

theorem moveAsked_keeps {z0 : State} (st : Nat) (nsid : Nat) (bale : Nat) (lead : Bool) (s : State) (h : Keeps z0 s) : Keeps z0 (moveAsked st nsid
    bale lead s) := by
  unfold moveAsked
  try dsimp only
  with_reducible repeat' (first | assumption | apply ackTo_keeps | apply send_keeps | refine keeps_ite ?_ ?_ | (intro _) | split)

theorem noteMove_keeps {z0 : State} (nsid : Nat) (bale : Nat) (src : Nat) (dst : Nat) (s : State) (h : Keeps z0 s) : Keeps z0 (noteMove nsid bale src
    dst s) := by
  unfold noteMove
  try dsimp only
  with_reducible repeat' (first | assumption | (fail_if_no_progress refine keeps_upd ?_) | refine keeps_ite ?_ ?_ | split)

theorem keepDir_keeps {z0 : State} (ks : List Nat) (s : State) (h : Keeps z0 s) : Keeps z0 (keepDir ks s) := by
  unfold keepDir
  try dsimp only
  with_reducible repeat' (first | assumption | apply putDir_keeps | apply dropMap_keeps | apply setDir_keeps |
                                 refine keeps_foldl _ _ (fun _ _ _ => ?_) ?_ | refine keeps_ite ?_ ?_ |
                                 refine keeps_foldl_fst _ _ (fun _ _ _ => ?_) ?_ | (intro _) | split)

theorem stationOrder_keeps {z0 : State} (st : Nat) (code : Nat) (nums : List Nat) (bytes : List Byte) (s : State) (h : Keeps z0 s) : Keeps z0
    (stationOrder st code nums bytes s) := by
  unfold stationOrder
  try dsimp only
  with_reducible repeat' (first | assumption | apply keepDir_keeps | apply noteMove_keeps | apply moveAsked_keeps | apply sanitizeOrder_keeps |
                                 apply partnerOrder_keeps | apply commitMove_keeps | apply segmentOrder_keeps | apply tellHoldings_keeps |
                                 apply stateOrder_keeps | apply recordOrder_keeps | apply namespaceOrder_keeps | apply abortAtOwner_keeps |
                                 apply leaveBegin_keeps | apply settleWaits_keeps | apply takeOver_keeps | apply noteBales_keeps |
                                 apply moveSource_keeps | apply dropMove_keeps | apply ackTo_keeps | apply setSlot_keeps | apply formatResume_keeps |
                                 apply formatStop_keeps | apply formatApply_keeps | apply dirDurable_keeps | apply streamMove_keeps |
                                 apply settleAll_keeps | apply recutOrder_keeps | apply placeLocal_keeps | apply progWrite_keeps |
                                 apply legUnstarted_keeps | apply legEnd_keeps | apply legRemove_keeps | apply settleFn_keeps |
                                 (fail_if_no_progress refine keeps_upd ?_) | refine keeps_ite ?_ ?_ | (intro _) | split)

theorem execStationOperationRequest_keeps {z0 : State} (station : Fin 64) (code : Nat) (nums : List Nat) (bytes : List (BitVec 8)) (s : State) (h :
    Keeps z0 s) : ∃ t, execStationOperationRequest station code nums bytes s = .next t ∧ Keeps z0 t := by
  unfold execStationOperationRequest
  refine ⟨_, rfl, ?_⟩
  try dsimp only
  with_reducible repeat' (first | assumption | apply stationOrder_keeps | refine keeps_ite ?_ ?_ | split)

theorem retryEvent_keeps {z0 : State} (w : Nat) (s : State) (i : Nat) (h : Keeps z0 s) : Keeps z0 (retryEvent w s i) := by
  unfold retryEvent
  try dsimp only
  with_reducible repeat' (first | assumption | apply runNotes_keeps | refine deliver_keeps_of_eq (by assumption) ?_ | apply deliver_keeps |
                                 refine keeps_ite ?_ ?_ | split)

theorem retryBacklog_keeps {z0 : State} (w : Nat) (s : State) (b : Nat × BitVec 32 × Nat) (h : Keeps z0 s) : Keeps z0 (retryBacklog w s b) := by
  unfold retryBacklog
  try dsimp only
  with_reducible repeat' (first | assumption | apply raise_keeps | refine postTo_keeps_of_eq (by assumption) ?_ | apply postTo_keeps |
                                 (fail_if_no_progress refine keeps_upd ?_) | refine keeps_ite ?_ ?_ | split)

theorem postRoom_keeps {z0 : State} (w : Nat) (s : State) (h : Keeps z0 s) : Keeps z0 (postRoom w s) := by
  unfold postRoom
  try dsimp only
  with_reducible repeat' (first | assumption | apply retryBacklog_keeps | apply retryEvent_keeps | apply sivRetry_keeps | apply makeReady_keeps |
                                 refine keeps_foldl _ _ (fun _ _ _ => ?_) ?_ | (fail_if_no_progress refine keeps_upd ?_) | (intro _))

theorem execPostEntryApply_keeps {z0 : State} (wing : Fin 8) (s : State) (h : Keeps z0 s) :
    ∃ t, execPostEntryApply wing s = .next t ∧ Keeps z0 t := by
  unfold execPostEntryApply
  dsimp only
  split
  · exact ⟨_, rfl, h⟩
  · refine ⟨_, rfl, postRoom_keeps _ _ ?_⟩
    with_reducible repeat' (first | assumption | apply applyFlags_keeps | apply setWing_keeps | split)

theorem execNextSlotLoaded_keeps {z0 : State} (core : Fin 256) (s : State) (h : Keeps z0 s) : ∃ t, execNextSlotLoaded core s = .next t ∧ Keeps z0 t :=
    by
  unfold execNextSlotLoaded
  refine ⟨_, rfl, ?_⟩
  try dsimp only
  with_reducible repeat' (first | assumption | apply nextLoadedAt_keeps)

theorem execQuantumExpiry_keeps {z0 : State} (core : Fin 256) (s : State) (h : Keeps z0 s) :
    ∃ t, execQuantumExpiry core s = .next t ∧ Keeps z0 t := by
  unfold execQuantumExpiry
  with_reducible repeat' (first | exact ⟨_, rfl, h⟩ | exact ⟨_, rfl, yieldCore_keeps _ _ _ h⟩ | split)

theorem execHoldPageFill_keeps {z0 : State} (core : Fin 256) (page : Fin 64) (s : State) (h : Keeps z0 s) :
    ∃ t, execHoldPageFill core page s = .next t ∧ Keeps z0 t := by
  unfold execHoldPageFill
  with_reducible repeat' (first | exact ⟨_, rfl, h⟩ | exact ⟨_, rfl, setCore_keeps _ _ _ h⟩ | split)

theorem clearMax_keeps {z0 : State} (w : Nat) (s : State) (h : Keeps z0 s) : Keeps z0 (clearMax w s) := by
  unfold clearMax
  try dsimp only
  with_reducible repeat' (first | assumption | apply setWing_keeps | (fail_if_no_progress refine keeps_upd ?_))

theorem setQuantum_keeps {z0 : State} (w : Nat) (q : Nat) (s : State) (h : Keeps z0 s) : Keeps z0 (setQuantum w q s) := by
  unfold setQuantum
  try dsimp only
  with_reducible repeat' (first | assumption | apply setWing_keeps | (fail_if_no_progress refine keeps_upd ?_) | refine keeps_ite ?_ ?_ | split)

theorem execClrMax_keeps {z0 : State} (wing : Fin 8) (s : State) (h : Keeps z0 s) : ∃ t, execClrMax wing s = .next t ∧ Keeps z0 t := by
  unfold execClrMax
  refine ⟨_, rfl, ?_⟩
  try dsimp only
  with_reducible repeat' (first | assumption | apply clearMax_keeps | refine keeps_ite ?_ ?_ | split)

theorem execQuantumWrite_keeps {z0 : State} (wing : Fin 8) (quantum : BitVec 16) (s : State) (h : Keeps z0 s) : ∃ t, execQuantumWrite wing quantum s =
    .next t ∧ Keeps z0 t := by
  unfold execQuantumWrite
  refine ⟨_, rfl, ?_⟩
  try dsimp only
  with_reducible repeat' (first | assumption | apply setQuantum_keeps | refine keeps_ite ?_ ?_ | split)

theorem queryWrite_keeps {z0 : State} (w : Nat) (v : Nat) (s : State) (h : Keeps z0 s) : Keeps z0 (queryWrite w v s) := by
  unfold queryWrite
  try dsimp only
  with_reducible repeat' (first | assumption | apply setWing_keeps | (fail_if_no_progress refine keeps_upd ?_) |
                                 (fail_if_no_progress refine keeps_updf (Nat.le_add_right _ _) ?_) | refine keeps_ite ?_ ?_ | split)

theorem execWngDspQuery_keeps {z0 : State} (wing : Fin 8) (value : BitVec 32) (s : State) (h : Keeps z0 s) : ∃ t, execWngDspQuery wing value s = .next
    t ∧ Keeps z0 t := by
  unfold execWngDspQuery
  refine ⟨_, rfl, ?_⟩
  try dsimp only
  with_reducible repeat' (first | assumption | apply queryWrite_keeps | refine keeps_ite ?_ ?_ | split)

theorem evtPut_keeps {z0 : State} (i : Nat) (v : Word) (s : State) (h : Keeps z0 s) : Keeps z0 (evtPut i v s) := by
  unfold evtPut
  try dsimp only
  with_reducible repeat' (first | assumption | apply setEvtSrc_keeps | refine keeps_ite ?_ ?_ | split)

theorem evtSrcWrite_keeps {z0 : State} (i : Nat) (v : Word) (s : State) (h : Keeps z0 s) : Keeps z0 (evtSrcWrite i v s) := by
  unfold evtSrcWrite
  try dsimp only
  with_reducible repeat' (first | assumption | apply evtPut_keeps | apply setEvtSrc_keeps)

theorem execEvtSrcWrite_keeps {z0 : State} (index : Fin 1088) (value : Word) (s : State) (h : Keeps z0 s) : ∃ t, execEvtSrcWrite index value s = .next
    t ∧ Keeps z0 t := by
  unfold execEvtSrcWrite
  refine ⟨_, rfl, ?_⟩
  try dsimp only
  with_reducible repeat' (first | assumption | apply evtSrcWrite_keeps | refine keeps_ite ?_ ?_ | split)

theorem maskAllSet_keeps {z0 : State} (m : Bool) (s : State) (h : Keeps z0 s) : Keeps z0 (maskAllSet m s) := by
  unfold maskAllSet
  try dsimp only
  with_reducible repeat' (first | assumption | apply runNotes_keeps | refine deliver_keeps_of_eq (by assumption) ?_ | apply deliver_keeps |
                                 refine keeps_foldl _ _ (fun _ _ _ => ?_) ?_ | (fail_if_no_progress refine keeps_upd ?_) | refine keeps_ite ?_ ?_ |
                                 refine keeps_foldl_fst _ _ (fun _ _ _ => ?_) ?_ | (intro _) | split)

theorem execMaskAll_keeps {z0 : State} (mask : Bool) (s : State) (h : Keeps z0 s) : ∃ t, execMaskAll mask s = .next t ∧ Keeps z0 t := by
  unfold execMaskAll
  refine ⟨_, rfl, ?_⟩
  try dsimp only
  with_reducible repeat' (first | assumption | apply maskAllSet_keeps | refine keeps_ite ?_ ?_ | split)

theorem evtClear_keeps {z0 : State} (s : State) (h : Keeps z0 s) : Keeps z0 (evtClear s) := by
  unfold evtClear
  try dsimp only
  with_reducible repeat' (first | assumption | apply setEvtSrc_keeps | refine keeps_foldl _ _ (fun _ _ _ => ?_) ?_ |
                                 refine keeps_foldl_fst _ _ (fun _ _ _ => ?_) ?_ | (intro _))

theorem execClrAll_keeps {z0 : State} (s : State) (h : Keeps z0 s) : ∃ t, execClrAll s = .next t ∧ Keeps z0 t := by
  unfold execClrAll
  refine ⟨_, rfl, ?_⟩
  try dsimp only
  with_reducible repeat' (first | assumption | apply evtClear_keeps | refine keeps_ite ?_ ?_ | split)

theorem evtCtrlWrite_keeps {z0 : State} (v : Nat) (s : State) (h : Keeps z0 s) : Keeps z0 (evtCtrlWrite v s) := by
  unfold evtCtrlWrite
  try dsimp only
  with_reducible repeat' (first | assumption | apply evtClear_keeps | apply maskAllSet_keeps | refine keeps_ite ?_ ?_ | split)

theorem evtInjectWrite_keeps {z0 : State} (v : Nat) (s : State) (h : Keeps z0 s) : Keeps z0 (evtInjectWrite v s) := by
  unfold evtInjectWrite
  try dsimp only
  with_reducible repeat' (first | assumption | apply raise_keeps)

theorem execEvtInject_keeps {z0 : State} (value : Word) (s : State) (h : Keeps z0 s) : ∃ t, execEvtInject value s = .next t ∧ Keeps z0 t := by
  unfold execEvtInject
  refine ⟨_, rfl, ?_⟩
  try dsimp only
  with_reducible repeat' (first | assumption | apply evtInjectWrite_keeps | refine keeps_ite ?_ ?_ | split)

theorem evtBulkWrite_keeps {z0 : State} (v : Nat) (s : State) (h : Keeps z0 s) : Keeps z0 (evtBulkWrite v s) := by
  unfold evtBulkWrite
  try dsimp only
  with_reducible repeat' (first | assumption | apply evtPut_keeps | refine keeps_foldl _ _ (fun _ _ _ => ?_) ?_ |
                                 (fail_if_no_progress refine keeps_upd ?_) | refine keeps_ite ?_ ?_ | (intro _) | split)

theorem execEvtBulkRange_keeps {z0 : State} (value : Word) (s : State) (h : Keeps z0 s) : ∃ t, execEvtBulkRange value s = .next t ∧ Keeps z0 t := by
  unfold execEvtBulkRange
  refine ⟨_, rfl, ?_⟩
  try dsimp only
  with_reducible repeat' (first | assumption | apply evtBulkWrite_keeps | refine keeps_ite ?_ ?_ | split)

theorem latchPort_keeps {z0 : State} (s : State) (p : Nat) (h : Keeps z0 s) : Keeps z0 (latchPort s p) := by
  unfold latchPort
  try dsimp only
  with_reducible repeat' (first | assumption | (fail_if_no_progress refine keeps_upd ?_))

theorem execWindowEnd_keeps {z0 : State} (s : State) (h : Keeps z0 s) : ∃ t, execWindowEnd s = .next t ∧ Keeps z0 t := by
  unfold execWindowEnd
  refine ⟨_, rfl, ?_⟩
  try dsimp only
  with_reducible repeat' (first | assumption | apply latchPort_keeps | refine keeps_foldl _ _ (fun _ _ _ => ?_) ?_ |
                                 (fail_if_no_progress refine keeps_upd ?_) | refine keeps_ite ?_ ?_ | split)

theorem winCtrlWrite_keeps {z0 : State} (v : Nat) (s : State) (h : Keeps z0 s) : Keeps z0 (winCtrlWrite v s) := by
  unfold winCtrlWrite
  try dsimp only
  with_reducible repeat' (first | assumption | (fail_if_no_progress refine keeps_upd ?_) | refine keeps_ite ?_ ?_ | split)

theorem execCntWinCtrlWrite_keeps {z0 : State} (value : Word) (s : State) (h : Keeps z0 s) : ∃ t, execCntWinCtrlWrite value s = .next t ∧ Keeps z0 t
    := by
  unfold execCntWinCtrlWrite
  refine ⟨_, rfl, ?_⟩
  try dsimp only
  with_reducible repeat' (first | assumption | apply winCtrlWrite_keeps | refine keeps_ite ?_ ?_ | split)

theorem smpRestart_keeps {z0 : State} (s : State) (h : Keeps z0 s) : Keeps z0 (smpRestart s) := by
  unfold smpRestart
  try dsimp only
  with_reducible repeat' (first | assumption | refine keeps_foldl _ _ (fun _ _ _ => ?_) ?_ | (fail_if_no_progress refine keeps_upd ?_) |
                                 refine keeps_ite ?_ ?_ | (intro _) | split)

theorem smpCtrlWrite_keeps {z0 : State} (v : Nat) (s : State) (h : Keeps z0 s) : Keeps z0 (smpCtrlWrite v s) := by
  unfold smpCtrlWrite
  try dsimp only
  with_reducible repeat' (first | assumption | apply smpRestart_keeps | (fail_if_no_progress refine keeps_upd ?_) | refine keeps_ite ?_ ?_ | split)

theorem execCntSmpCtrlWrite_keeps {z0 : State} (value : Word) (s : State) (h : Keeps z0 s) : ∃ t, execCntSmpCtrlWrite value s = .next t ∧ Keeps z0 t
    := by
  unfold execCntSmpCtrlWrite
  refine ⟨_, rfl, ?_⟩
  try dsimp only
  with_reducible repeat' (first | assumption | apply smpCtrlWrite_keeps | refine keeps_ite ?_ ?_ | split)

theorem smpPeriodWrite_keeps {z0 : State} (v : Nat) (s : State) (h : Keeps z0 s) : Keeps z0 (smpPeriodWrite v s) := by
  unfold smpPeriodWrite
  try dsimp only
  with_reducible repeat' (first | assumption | apply smpRestart_keeps | (fail_if_no_progress refine keeps_upd ?_) | refine keeps_ite ?_ ?_ | split)

theorem execCntSmpPeriodWrite_keeps {z0 : State} (value : Word) (s : State) (h : Keeps z0 s) : ∃ t, execCntSmpPeriodWrite value s = .next t ∧ Keeps z0
    t := by
  unfold execCntSmpPeriodWrite
  refine ⟨_, rfl, ?_⟩
  try dsimp only
  with_reducible repeat' (first | assumption | apply smpPeriodWrite_keeps | refine keeps_ite ?_ ?_ | split)

theorem smpTailWrite_keeps {z0 : State} (v : Nat) (s : State) (h : Keeps z0 s) : Keeps z0 (smpTailWrite v s) := by
  unfold smpTailWrite
  try dsimp only
  with_reducible repeat' (first | assumption | (fail_if_no_progress refine keeps_upd ?_) | refine keeps_ite ?_ ?_ | split)

theorem smpRingWrite_keeps {z0 : State} (v : Nat) (s : State) (h : Keeps z0 s) : Keeps z0 (smpRingWrite v s) := by
  unfold smpRingWrite
  try dsimp only
  with_reducible repeat' (first | assumption | apply smpTailWrite_keeps | (fail_if_no_progress refine keeps_upd ?_) | refine keeps_ite ?_ ?_ | split)

theorem execTailWrite_keeps {z0 : State} (value : Word) (s : State) (h : Keeps z0 s) : ∃ t, execTailWrite value s = .next t ∧ Keeps z0 t := by
  unfold execTailWrite
  refine ⟨_, rfl, ?_⟩
  try dsimp only
  with_reducible repeat' (first | assumption | apply smpRingWrite_keeps | refine keeps_ite ?_ ?_ | split)

theorem wrapClear_keeps {z0 : State} (s : State) (h : Keeps z0 s) : Keeps z0 (wrapClear s) := by
  unfold wrapClear
  try dsimp only
  with_reducible repeat' (first | assumption | (fail_if_no_progress refine keeps_upd ?_))

theorem execClrWrap_keeps {z0 : State} (s : State) (h : Keeps z0 s) : ∃ t, execClrWrap s = .next t ∧ Keeps z0 t := by
  unfold execClrWrap
  refine ⟨_, rfl, ?_⟩
  try dsimp only
  with_reducible repeat' (first | assumption | apply wrapClear_keeps | refine keeps_ite ?_ ?_ | split)

theorem execOpSecondsTick_keeps {z0 : State} (s : State) (h : Keeps z0 s) : ∃ t, execOpSecondsTick s = .next t ∧ Keeps z0 t := by
  unfold execOpSecondsTick
  refine ⟨_, rfl, ?_⟩
  try dsimp only
  with_reducible repeat' (first | assumption | (fail_if_no_progress refine keeps_upd ?_) | refine keeps_ite ?_ ?_ | (intro _) | split)

theorem execBasicManagementCommand_keeps {z0 : State} (s : State) (h : Keeps z0 s) : ∃ t, execBasicManagementCommand s = .next t ∧ Keeps z0 t := by
  unfold execBasicManagementCommand
  refine ⟨_, rfl, ?_⟩
  try dsimp only
  with_reducible repeat' (first | assumption | apply miSend_keeps | (fail_if_no_progress refine keeps_upd ?_) | refine keeps_ite ?_ ?_ | split)

theorem execReadNvmeMiDataStructure_keeps {z0 : State} (kind : Fin 4) (index : Nat) (s : State) (h : Keeps z0 s) : ∃ t, execReadNvmeMiDataStructure
    kind index s = .next t ∧ Keeps z0 t := by
  unfold execReadNvmeMiDataStructure
  refine ⟨_, rfl, ?_⟩
  try dsimp only
  with_reducible repeat' (first | assumption | apply miSend_keeps | refine keeps_ite ?_ ?_ | split)

theorem miPoll_keeps {z0 : State} (fn : Option Nat) (s : State) (h : Keeps z0 s) : Keeps z0 (miPoll fn s).2 := by
  unfold miPoll
  try dsimp only
  with_reducible repeat' (first | assumption | (fail_if_no_progress refine keeps_upd ?_) |
                                 (fail_if_no_progress refine keeps_updf (Nat.le_add_right _ _) ?_) | refine keeps_ite ?_ ?_ | split)

theorem miPoll_keeps_of_eq {z0 : State} {fn : Option Nat} {s : State} {t : State} {x1} (e : miPoll fn s = (x1, t)) (h : Keeps z0 s) : Keeps z0 t := by
  have := miPoll_keeps fn s h
  rw [e] at this
  exact this

theorem execHealthStatusPoll_keeps {z0 : State} (controller : Option (Fin 1024)) (s : State) (h : Keeps z0 s) : ∃ t, execHealthStatusPoll controller s
    = .next t ∧ Keeps z0 t := by
  unfold execHealthStatusPoll
  refine ⟨_, rfl, ?_⟩
  try dsimp only
  with_reducible repeat' (first | assumption | refine miPoll_keeps_of_eq (by assumption) ?_ | apply miPoll_keeps | apply miSend_keeps |
                                 refine keeps_ite ?_ ?_ | split)

theorem miConfigSet_keeps {z0 : State} (ident : Nat) (value : Nat) (s : State) (h : Keeps z0 s) : Keeps z0 (miConfigSet ident value s).2 := by
  unfold miConfigSet
  try dsimp only
  with_reducible repeat' (first | assumption | (fail_if_no_progress refine keeps_upd ?_) | refine keeps_ite ?_ ?_ | split)

theorem miConfigSet_keeps_of_eq {z0 : State} {ident : Nat} {value : Nat} {s : State} {t : State} {x1} (e : miConfigSet ident value s = (x1, t)) (h :
    Keeps z0 s) : Keeps z0 t := by
  have := miConfigSet_keeps ident value s h
  rw [e] at this
  exact this

theorem execConfigurationSet_keeps {z0 : State} (ident : Nat) (value : Nat) (s : State) (h : Keeps z0 s) : ∃ t, execConfigurationSet ident value s =
    .next t ∧ Keeps z0 t := by
  unfold execConfigurationSet
  refine ⟨_, rfl, ?_⟩
  try dsimp only
  with_reducible repeat' (first | assumption | refine miConfigSet_keeps_of_eq (by assumption) ?_ | apply miConfigSet_keeps | apply miSend_keeps |
                                 refine keeps_ite ?_ ?_ | split)

theorem execConfigurationGet_keeps {z0 : State} (ident : Nat) (s : State) (h : Keeps z0 s) : ∃ t, execConfigurationGet ident s = .next t ∧ Keeps z0 t
    := by
  unfold execConfigurationGet
  refine ⟨_, rfl, ?_⟩
  try dsimp only
  with_reducible repeat' (first | assumption | apply miSend_keeps | refine keeps_ite ?_ ?_ | split)

theorem execVpdRead_keeps {z0 : State} (offset : Nat) (count : Nat) (s : State) (h : Keeps z0 s) : ∃ t, execVpdRead offset count s = .next t ∧ Keeps
    z0 t := by
  unfold execVpdRead
  refine ⟨_, rfl, ?_⟩
  try dsimp only
  with_reducible repeat' (first | assumption | apply miSend_keeps | apply count_keeps | refine keeps_ite ?_ ?_ | split)

theorem execTunnelledAdmin_keeps {z0 : State} (sqe : Sqe) (s : State) (h : Keeps z0 s) : ∃ t, execTunnelledAdmin sqe s = .next t ∧ Keeps z0 t := by
  unfold execTunnelledAdmin
  refine ⟨_, rfl, ?_⟩
  try dsimp only
  with_reducible repeat' (first | assumption | apply addCmd_keeps | apply miSend_keeps | (fail_if_no_progress refine keeps_upd ?_) |
                                 refine keeps_ite ?_ ?_ | split)

theorem miRun_keeps {z0 : State} (b : List Byte) (s : State) (h : Keeps z0 s) : Keeps z0 (miRun b s).2 := by
  unfold miRun
  try dsimp only
  with_reducible repeat' (first | assumption | refine miConfigSet_keeps_of_eq (by assumption) ?_ | apply miConfigSet_keeps |
                                 refine miPoll_keeps_of_eq (by assumption) ?_ | apply miPoll_keeps | refine keeps_ite ?_ ?_ | split)

theorem miRun_keeps_of_eq {z0 : State} {b : List Byte} {s : State} {t : State} {x1} (e : miRun b s = (x1, t)) (h : Keeps z0 s) : Keeps z0 t := by
  have := miRun_keeps b s h
  rw [e] at this
  exact this

theorem execNvmeMiSend_keeps {z0 : State} (r : CmdRef) (s : State) (h : Keeps z0 s) : ∃ t, execNvmeMiSend r s = .next t ∧ Keeps z0 t := by
  unfold execNvmeMiSend
  refine ⟨_, rfl, ?_⟩
  try dsimp only
  with_reducible repeat' (first | assumption | refine miRun_keeps_of_eq (by assumption) ?_ | apply miRun_keeps | apply subsystemReset_keeps |
                                 apply onAdmin_keeps | apply completeCmd_keeps | (fail_if_no_progress refine keeps_upd ?_) | refine keeps_ite ?_ ?_ |
                                 (intro _) | split)

theorem execNvmeMiReceive_keeps {z0 : State} (r : CmdRef) (s : State) (h : Keeps z0 s) : ∃ t, execNvmeMiReceive r s = .next t ∧ Keeps z0 t := by
  unfold execNvmeMiReceive
  refine ⟨_, rfl, ?_⟩
  try dsimp only
  with_reducible repeat' (first | assumption | apply answerData_keeps | apply failCmd_keeps | apply onAdmin_keeps |
                                 (fail_if_no_progress refine keeps_upd ?_) | (intro _) | split)

theorem freeBytes_keeps {z0 : State} (n : Nat) (s : State) (h : Keeps z0 s) : Keeps z0 (freeBytes n s).2 := by
  unfold freeBytes
  try dsimp only
  with_reducible repeat' (first | assumption | (fail_if_no_progress refine keeps_upd ?_) |
                                 (fail_if_no_progress refine keeps_updf (Nat.le_add_right _ _) ?_) | (intro _))

theorem freeBytes_keeps_of_eq {z0 : State} {n : Nat} {s : State} {t : State} {x1} (e : freeBytes n s = (x1, t)) (h : Keeps z0 s) : Keeps z0 t := by
  have := freeBytes_keeps n s h
  rw [e] at this
  exact this

theorem randomBytes_keeps {z0 : State} (s : State) (h : Keeps z0 s) : Keeps z0 (randomBytes s).2 := by
  unfold randomBytes
  try dsimp only
  with_reducible repeat' (first | assumption | (fail_if_no_progress refine keeps_upd ?_) |
                                 (fail_if_no_progress refine keeps_updf (Nat.le_add_right _ _) ?_))

theorem randomBytes_keeps_of_eq {z0 : State} {s : State} {t : State} {x1} (e : randomBytes s = (x1, t)) (h : Keeps z0 s) : Keeps z0 t := by
  have := randomBytes_keeps s h
  rw [e] at this
  exact this

theorem spdmSend_keeps {z0 : State} (b : List Byte) (s : State) (h : Keeps z0 s) : Keeps z0 (spdmSend b s) := by
  unfold spdmSend
  try dsimp only
  with_reducible repeat' (first | assumption | (fail_if_no_progress refine keeps_upd ?_))

theorem spdmError_keeps {z0 : State} (ver : Nat) (code : Nat) (data : Nat) (s : State) (h : Keeps z0 s) : Keeps z0 (spdmError ver code data s) := by
  unfold spdmError
  try dsimp only
  with_reducible repeat' (first | assumption | apply spdmSend_keeps)

theorem spdmCert_keeps {z0 : State} (ver : Nat) (slot : Nat) (off : Nat) (len : Nat) (s : State) (h : Keeps z0 s) : Keeps z0 (spdmCert ver slot off
    len s) := by
  unfold spdmCert
  try dsimp only
  with_reducible repeat' (first | assumption | apply spdmError_keeps | apply spdmSend_keeps | refine keeps_ite ?_ ?_ | split)

theorem spdmChallenge_keeps {z0 : State} (ver : Nat) (slot : Nat) (kind : Nat) (req : List Byte) (s : State) (h : Keeps z0 s) : Keeps z0
    (spdmChallenge ver slot kind req s) := by
  unfold spdmChallenge
  try dsimp only
  with_reducible repeat' (first | assumption | apply spdmError_keeps | apply spdmSend_keeps | refine randomBytes_keeps_of_eq (by assumption) ?_ |
                                 apply randomBytes_keeps | refine freeBytes_keeps_of_eq (by assumption) ?_ | apply freeBytes_keeps |
                                 refine keeps_ite ?_ ?_ | split)

theorem spdmMeasure_keeps {z0 : State} (ver : Nat) (attr : Nat) (index : Nat) (req : List Byte) (s : State) (h : Keeps z0 s) : Keeps z0 (spdmMeasure
    ver attr index req s) := by
  unfold spdmMeasure
  try dsimp only
  with_reducible repeat' (first | assumption | apply spdmError_keeps | apply spdmSend_keeps | refine randomBytes_keeps_of_eq (by assumption) ?_ |
                                 apply randomBytes_keeps | refine freeBytes_keeps_of_eq (by assumption) ?_ | apply freeBytes_keeps |
                                 refine keeps_ite ?_ ?_ | split)

theorem spdmExchange_keeps {z0 : State} (ver : Nat) (kind : Nat) (req : List Byte) (s : State) (h : Keeps z0 s) : Keeps z0 (spdmExchange ver kind req
    s) := by
  unfold spdmExchange
  try dsimp only
  with_reducible repeat' (first | assumption | apply spdmSend_keeps | refine randomBytes_keeps_of_eq (by assumption) ?_ | apply randomBytes_keeps |
                                 refine freeBytes_keeps_of_eq (by assumption) ?_ | apply freeBytes_keeps | (fail_if_no_progress refine keeps_upd ?_) |
                                 refine keeps_ite ?_ ?_ | split)

theorem spdmFinish_keeps {z0 : State} (ver : Nat) (session : Nat) (signed : Nat) (req : List Byte) (s : State) (h : Keeps z0 s) : Keeps z0 (spdmFinish
    ver session signed req s) := by
  unfold spdmFinish
  try dsimp only
  with_reducible repeat' (first | assumption | apply spdmError_keeps | apply spdmSend_keeps | (fail_if_no_progress refine keeps_upd ?_) |
                                 refine keeps_ite ?_ ?_ | split)

theorem endSession_keeps {z0 : State} (session : Nat) (s : State) (h : Keeps z0 s) : Keeps z0 (endSession session s) := by
  unfold endSession
  try dsimp only
  with_reducible repeat' (first | assumption | apply relockDebug_keeps | apply roleEnds_keeps | (fail_if_no_progress refine keeps_upd ?_) |
                                 refine keeps_ite ?_ ?_ | (intro _) | split)

theorem execSpdmSessionEnd_keeps {z0 : State} (session : Nat) (s : State) (h : Keeps z0 s) : ∃ t, execSpdmSessionEnd session s = .next t ∧ Keeps z0 t
    := by
  unfold execSpdmSessionEnd
  refine ⟨_, rfl, ?_⟩
  try dsimp only
  with_reducible repeat' (first | assumption | apply endSession_keeps | refine keeps_ite ?_ ?_ | split)

theorem spdmInside_keeps {z0 : State} (ver : Nat) (code : Nat) (p1 : Nat) (p2 : Nat) (session : Nat) (req : List Byte) (s : State) (h : Keeps z0 s) :
    Keeps z0 (spdmInside ver code p1 p2 session req s) := by
  unfold spdmInside
  try dsimp only
  with_reducible repeat' (first | assumption | apply endSession_keeps | apply spdmError_keeps | apply spdmSend_keeps |
                                 (fail_if_no_progress refine keeps_upd ?_) | refine keeps_ite ?_ ?_ | split)

theorem spdmAnswer_keeps {z0 : State} (session : Nat) (req : List Byte) (s : State) (h : Keeps z0 s) : Keeps z0 (spdmAnswer session req s) := by
  unfold spdmAnswer
  try dsimp only
  with_reducible repeat' (first | assumption | apply spdmInside_keeps | apply spdmFinish_keeps | apply spdmExchange_keeps | apply spdmMeasure_keeps |
                                 apply spdmChallenge_keeps | apply spdmCert_keeps | apply spdmError_keeps | apply spdmSend_keeps |
                                 refine freeBytes_keeps_of_eq (by assumption) ?_ | apply freeBytes_keeps | refine keeps_ite ?_ ?_ | (intro _) | split)

theorem execSpdmRequest_keeps {z0 : State} (session : Nat) (request : List (BitVec 8)) (s : State) (h : Keeps z0 s) : ∃ t, execSpdmRequest session
    request s = .next t ∧ Keeps z0 t := by
  unfold execSpdmRequest
  refine ⟨_, rfl, ?_⟩
  try dsimp only
  with_reducible repeat' (first | assumption | apply spdmAnswer_keeps | refine keeps_ite ?_ ?_ | split)

theorem execIdeKm_keeps {z0 : State} (session : Nat) (stream : Nat) (key : BitVec 256) (s : State) (h : Keeps z0 s) : ∃ t, execIdeKm session stream
    key s = .next t ∧ Keeps z0 t := by
  unfold execIdeKm
  refine ⟨_, rfl, ?_⟩
  try dsimp only
  with_reducible repeat' (first | assumption | (fail_if_no_progress refine keeps_upd ?_) | refine keeps_ite ?_ ?_ | split)

theorem execDebugUnlock_keeps {z0 : State} (session : Nat) (chain : List (BitVec 8)) (s : State) (h : Keeps z0 s) : ∃ t, execDebugUnlock session chain
    s = .next t ∧ Keeps z0 t := by
  unfold execDebugUnlock
  refine ⟨_, rfl, ?_⟩
  try dsimp only
  with_reducible repeat' (first | assumption | apply logOcc_keeps | (fail_if_no_progress refine keeps_upd ?_) | refine keeps_ite ?_ ?_ | split)

theorem claimRole_keeps {z0 : State} (s : State) (h : Keeps z0 s) : Keeps z0 (claimRole s) := by
  unfold claimRole
  try dsimp only
  with_reducible repeat' (first | assumption | (fail_if_no_progress refine keeps_upd ?_) | refine keeps_ite ?_ ?_ | (intro _) | split)

theorem execClaim_keeps {z0 : State} (s : State) (h : Keeps z0 s) : ∃ t, execClaim s = .next t ∧ Keeps z0 t := by
  unfold execClaim
  refine ⟨_, rfl, ?_⟩
  try dsimp only
  with_reducible repeat' (first | assumption | apply claimRole_keeps | refine keeps_ite ?_ ?_ | split)

theorem releaseRole_keeps {z0 : State} (s : State) (h : Keeps z0 s) : Keeps z0 (releaseRole s) := by
  unfold releaseRole
  try dsimp only
  with_reducible repeat' (first | assumption | apply roleEnds_keeps | refine keeps_ite ?_ ?_ | split)

theorem execRelease_keeps {z0 : State} (s : State) (h : Keeps z0 s) : ∃ t, execRelease s = .next t ∧ Keeps z0 t := by
  unfold execRelease
  refine ⟨_, rfl, ?_⟩
  try dsimp only
  with_reducible repeat' (first | assumption | apply releaseRole_keeps | refine keeps_ite ?_ ?_ | split)

theorem setStaging_keeps {z0 : State} (m : Memory) (s : State) (hm : CharterWf z0.chr.staging z0.chr.active z0.chr.commitWait → Memory.wf m = true)
    (h : Keeps z0 s) : Keeps z0 (setStaging m s) := by
  unfold setStaging
  split
  · exact keeps_chr (fun w => ⟨hm w, (h.2.2.2.2.1 w).2⟩) h
  · exact h

theorem setStaging_keeps_active {z0 s : State} (h : Keeps z0 s) : Keeps z0 (setStaging s.chr.active s) :=
  setStaging_keeps _ _ (fun w => (h.2.2.2.2.1 w).2.1) h

theorem execStageClear_keeps {z0 : State} (s : State) (h : Keeps z0 s) : ∃ t, execStageClear s = .next t ∧ Keeps z0 t := by
  unfold execStageClear
  refine ⟨_, rfl, ?_⟩
  try dsimp only
  with_reducible repeat' (first | assumption | refine setStaging_keeps _ _ (fun _ => rfl) ?_ | refine setStaging_keeps_active ?_ |
                                 refine keeps_ite ?_ ?_ | split)

theorem execStageCopy_keeps {z0 : State} (s : State) (h : Keeps z0 s) : ∃ t, execStageCopy s = .next t ∧ Keeps z0 t := by
  refine ⟨_, rfl, ?_⟩
  split
  · exact setStaging_keeps_active h
  · exact h

theorem stagingPut_keeps {z0 : State} (o n v : Nat) (s : State) (h : Keeps z0 s) : Keeps z0 (stagingPut o n v s) :=
  setStaging_keeps _ _ (fun w => writeBytes_wf (h.2.2.2.2.1 w).1) h

theorem execCharterStagingWrite_keeps {z0 : State} (offset : Fin 32768) (value : Word) (s : State) (h : Keeps z0 s) : ∃ t, execCharterStagingWrite
    offset value s = .next t ∧ Keeps z0 t := by
  unfold execCharterStagingWrite
  refine ⟨_, rfl, ?_⟩
  try dsimp only
  with_reducible repeat' (first | assumption | apply stagingPut_keeps | refine keeps_ite ?_ ?_ | split)

theorem execRestoreAbort_keeps {z0 : State} (s : State) (h : Keeps z0 s) : ∃ t, execRestoreAbort s = .next t ∧ Keeps z0 t := by
  unfold execRestoreAbort
  refine ⟨_, rfl, ?_⟩
  try dsimp only
  with_reducible repeat' (first | assumption | apply dropImage_keeps | refine keeps_ite ?_ ?_ | split)

theorem clearUnq_keeps {z0 : State} (s : State) (h : Keeps z0 s) : Keeps z0 (clearUnq s) := by
  unfold clearUnq
  try dsimp only
  with_reducible repeat' (first | assumption | (fail_if_no_progress refine keeps_upd ?_))

theorem execClrUnq_keeps {z0 : State} (s : State) (h : Keeps z0 s) : ∃ t, execClrUnq s = .next t ∧ Keeps z0 t := by
  unfold execClrUnq
  refine ⟨_, rfl, ?_⟩
  try dsimp only
  with_reducible repeat' (first | assumption | apply clearUnq_keeps | refine keeps_ite ?_ ?_ | split)

theorem cmpCtrlWrite_keeps {z0 : State} (w : Nat) (v : Nat) (s : State) (h : Keeps z0 s) : Keeps z0 (cmpCtrlWrite w v s) := by
  unfold cmpCtrlWrite
  try dsimp only
  with_reducible repeat' (first | assumption | apply setCmp_keeps | (fail_if_no_progress refine keeps_upd ?_) | refine keeps_ite ?_ ?_ | split)

theorem execCmpCtrlWrite_keeps {z0 : State} (wing : Fin 8) (value : Word) (s : State) (h : Keeps z0 s) : ∃ t, execCmpCtrlWrite wing value s = .next t
    ∧ Keeps z0 t := by
  unfold execCmpCtrlWrite
  refine ⟨_, rfl, ?_⟩
  try dsimp only
  with_reducible repeat' (first | assumption | apply cmpCtrlWrite_keeps | refine keeps_ite ?_ ?_ | split)

theorem rteCfgWrite_keeps {z0 : State} (v : Nat) (s : State) (h : Keeps z0 s) : Keeps z0 (rteCfgWrite v s) := by
  unfold rteCfgWrite
  try dsimp only
  with_reducible repeat' (first | assumption | (fail_if_no_progress refine keeps_upd ?_) | refine keeps_ite ?_ ?_ | split)

theorem execRteCfgWrite_keeps {z0 : State} (value : Word) (s : State) (h : Keeps z0 s) : ∃ t, execRteCfgWrite value s = .next t ∧ Keeps z0 t := by
  unfold execRteCfgWrite
  refine ⟨_, rfl, ?_⟩
  try dsimp only
  with_reducible repeat' (first | assumption | apply rteCfgWrite_keeps | refine keeps_ite ?_ ?_ | split)

theorem wrMsc_keeps {z0 : State} (ok : Bool) (o : Nat) (v : Nat) (s : State) (h : Keeps z0 s) : Keeps z0 (wrMsc ok o v s) := by
  unfold wrMsc
  try dsimp only
  with_reducible repeat' (first | assumption | apply setLocate_keeps | apply plcWeightWrite_keeps | apply plcCtrlWrite_keeps |
                                 apply rclCtrlWrite_keeps | apply rclWeightWrite_keeps | (fail_if_no_progress refine keeps_upd ?_) |
                                 refine keeps_ite ?_ ?_ | split)

theorem wrCht_keeps {z0 : State} (ok : Bool) (o : Nat) (v : Nat) (s : State) (h : Keeps z0 s) : Keeps z0 (wrCht ok o v s) := by
  unfold wrCht
  try dsimp only
  with_reducible repeat' (first | assumption | refine setStaging_keeps _ _ (fun _ => rfl) ?_ | refine setStaging_keeps_active ?_ |
                                 apply releaseRole_keeps | apply claimRole_keeps | apply denied_keeps | (fail_if_no_progress refine keeps_upd ?_) |
                                 refine keeps_ite ?_ ?_ | split)

theorem wrEvt_keeps {z0 : State} (o : Nat) (v : Nat) (s : State) (h : Keeps z0 s) : Keeps z0 (wrEvt o v s) := by
  unfold wrEvt
  try dsimp only
  with_reducible repeat' (first | assumption | apply evtBulkWrite_keeps | apply evtInjectWrite_keeps | apply evtCtrlWrite_keeps |
                                 apply evtSrcWrite_keeps | (fail_if_no_progress refine keeps_upd ?_) | refine keeps_ite ?_ ?_ | split)

theorem wrCnt_keeps {z0 : State} (ok : Bool) (o : Nat) (v : Nat) (s : State) (h : Keeps z0 s) : Keeps z0 (wrCnt ok o v s) := by
  unfold wrCnt
  try dsimp only
  with_reducible repeat' (first | assumption | apply wrapClear_keeps | apply smpRingWrite_keeps | apply smpPeriodWrite_keeps |
                                 apply smpCtrlWrite_keeps | apply winCtrlWrite_keeps | refine keeps_ite ?_ ?_ | split)

theorem wrLog_keeps {z0 : State} (ok : Bool) (o : Nat) (v : Nat) (s : State) (h : Keeps z0 s) : Keeps z0 (wrLog ok o v s) := by
  unfold wrLog
  try dsimp only
  with_reducible repeat' (first | assumption | apply logMark_keeps | (fail_if_no_progress refine keeps_upd ?_) | refine keeps_ite ?_ ?_ | split)

theorem wrHk_keeps {z0 : State} (ok : Bool) (o : Nat) (v : Nat) (s : State) (h : Keeps z0 s) : Keeps z0 (wrHk ok o v s) := by
  unfold wrHk
  try dsimp only
  with_reducible repeat' (first | assumption | apply clearMin_keeps | apply checkNow_keeps | apply setWingPwr_keeps |
                                 (fail_if_no_progress refine keeps_upd ?_) | refine keeps_ite ?_ ?_ | split)

theorem wrLl_keeps {z0 : State} (o : Nat) (v : Nat) (s : State) (h : Keeps z0 s) : Keeps z0 (wrLl o v s) := by
  unfold wrLl
  try dsimp only
  with_reducible repeat' (first | assumption | (fail_if_no_progress refine keeps_upd ?_) | refine keeps_ite ?_ ?_ | split)

theorem wrSeal_keeps {z0 : State} (o : Nat) (v : Nat) (s : State) (h : Keeps z0 s) : Keeps z0 (wrSeal o v s) := by
  unfold wrSeal
  try dsimp only
  with_reducible repeat' (first | assumption | apply sealBreakWrite_keeps | apply sealWrite_keeps | refine keeps_ite ?_ ?_ | split)

theorem wrDig_keeps {z0 : State} (o : Nat) (v : Nat) (s : State) (h : Keeps z0 s) : Keeps z0 (wrDig o v s) := by
  unfold wrDig
  try dsimp only
  with_reducible repeat' (first | assumption | apply digBreakWrite_keeps | apply digWrite_keeps | refine keeps_ite ?_ ?_ | split)

theorem wrBcn_keeps {z0 : State} (ok : Bool) (o : Nat) (v : Nat) (s : State) (h : Keeps z0 s) : Keeps z0 (wrBcn ok o v s) := by
  unfold wrBcn
  try dsimp only
  with_reducible repeat' (first | assumption | apply bcnCommand_keeps | apply bcnGo_keeps | apply setBcnCtx_keeps | apply setBcnTable_keeps |
                                 (fail_if_no_progress refine keeps_upd ?_) | refine keeps_ite ?_ ?_ | split)

theorem wrDrm_keeps {z0 : State} (ok : Bool) (w : Nat) (o : Nat) (v : Nat) (s : State) (h : Keeps z0 s) : Keeps z0 (wrDrm ok w o v s) := by
  unfold wrDrm
  try dsimp only
  with_reducible repeat' (first | assumption | apply drmWrite_keeps | refine keeps_ite ?_ ?_ | split)

theorem wrMed_keeps {z0 : State} (ok : Bool) (o : Nat) (v : Nat) (s : State) (h : Keeps z0 s) : Keeps z0 (wrMed ok o v s) := by
  unfold wrMed
  try dsimp only
  with_reducible repeat' (first | assumption | apply fcCtrlWrite_keeps | (fail_if_no_progress refine keeps_upd ?_) | refine keeps_ite ?_ ?_ | split)

theorem wrSiv_keeps {z0 : State} (ch : Nat) (o : Nat) (v : Nat) (s : State) (h : Keeps z0 s) : Keeps z0 (wrSiv ch o v s) := by
  unfold wrSiv
  try dsimp only
  with_reducible repeat' (first | assumption | apply setSiv_keeps | (fail_if_no_progress refine keeps_upd ?_) | refine keeps_ite ?_ ?_ | split)

theorem wrWng_keeps {z0 : State} (ok : Bool) (w : Nat) (o : Nat) (v : Nat) (s : State) (h : Keeps z0 s) : Keeps z0 (wrWng ok w o v s) := by
  unfold wrWng
  try dsimp only
  with_reducible repeat' (first | assumption | apply queryWrite_keeps | apply setQuantum_keeps | apply clearMax_keeps | apply setWing_keeps |
                                 (fail_if_no_progress refine keeps_upd ?_) | refine keeps_ite ?_ ?_ | split)

theorem wrCmp_keeps {z0 : State} (ok : Bool) (w : Nat) (o : Nat) (v : Nat) (s : State) (h : Keeps z0 s) : Keeps z0 (wrCmp ok w o v s) := by
  unfold wrCmp
  try dsimp only
  with_reducible repeat' (first | assumption | apply cmpCtrlWrite_keeps | apply jobWrite_keeps | apply setCmp_keeps |
                                 (fail_if_no_progress refine keeps_upd ?_) | refine keeps_ite ?_ ?_ | split)

theorem wrRte_keeps {z0 : State} (ok : Bool) (o : Nat) (v : Nat) (s : State) (h : Keeps z0 s) : Keeps z0 (wrRte ok o v s) := by
  unfold wrRte
  try dsimp only
  with_reducible repeat' (first | assumption | apply rteCfgWrite_keeps | apply retrainBit_keeps | (fail_if_no_progress refine keeps_upd ?_) |
                                 refine keeps_ite ?_ ?_ | split)

theorem wrVfm_keeps {z0 : State} (o : Nat) (v : Nat) (s : State) (h : Keeps z0 s) : Keeps z0 (wrVfm o v s) := by
  unfold wrVfm
  try dsimp only
  with_reducible repeat' (first | assumption | apply clearUnq_keeps | apply dropImage_keeps | (fail_if_no_progress refine keeps_upd ?_) |
                                 refine keeps_ite ?_ ?_ | split)

theorem unitPut_keeps {z0 : State} (ok : Bool) (u : Nat) (o : Nat) (v : Nat) (s : State) (h : Keeps z0 s) : Keeps z0 (unitPut ok u o v s) := by
  unfold unitPut
  try dsimp only
  with_reducible repeat' (first | assumption | apply wrVfm_keeps | apply wrRte_keeps | apply wrCmp_keeps | apply wrWng_keeps | apply wrSiv_keeps |
                                 apply wrMed_keeps | apply wrDrm_keeps | apply wrBcn_keeps | apply wrDig_keeps | apply wrSeal_keeps | apply wrLl_keeps
                                 | apply wrHk_keeps | apply wrLog_keeps | apply wrCnt_keeps | apply wrEvt_keeps | apply wrCht_keeps |
                                 apply wrMsc_keeps | apply keyWrite_keeps | refine keeps_ite ?_ ?_ | split)

theorem regWrite_keeps {z0 : State} (off : Nat) (v : Nat) (s : State) (h : Keeps z0 s) : Keeps z0 (regWrite off v s) := by
  unfold regWrite
  try dsimp only
  with_reducible repeat' (first | assumption | apply unitPut_keeps | refine keeps_ite ?_ ?_ | split)

theorem arrayWrite_keeps {z0 : State} (off : Nat) (n : Nat) (v : Nat) (s : State) (h : Keeps z0 s) : Keeps z0 (arrayWrite off n v s) := by
  unfold arrayWrite
  try dsimp only
  with_reducible repeat' (first | assumption | apply stagingPut_keeps | (fail_if_no_progress refine keeps_upd ?_) | refine keeps_ite ?_ ?_ | (intro _)
                                 | split)

theorem msixPut_keeps {z0 : State} (fn : Nat) (o : Nat) (v : Nat) (s : State) (h : Keeps z0 s) : Keeps z0 (msixPut fn o v s) := by
  unfold msixPut
  try dsimp only
  with_reducible repeat' (first | assumption | apply sendMsix_keeps | apply setCtrl_keeps | (fail_if_no_progress refine keeps_upd ?_) |
                                 refine keeps_ite ?_ ?_ | split)

theorem ccPut_keeps {z0 : State} (fn : Nat) (v : Nat) (s : State) (h : Keeps z0 s) : Keeps z0 (ccPut fn v s) := by
  unfold ccPut
  try dsimp only
  with_reducible repeat' (first | assumption | apply ctrlNotify_keeps | apply ctrlEnable_keeps | apply controllerReset_keeps | refine keeps_ite ?_ ?_
                                 | split)

theorem nvmePut_keeps {z0 : State} (fn : Nat) (o : Nat) (v : Nat) (s : State) (h : Keeps z0 s) : Keeps z0 (nvmePut fn o v s) := by
  unfold nvmePut
  try dsimp only
  with_reducible repeat' (first | assumption | apply ccPut_keeps | apply setCtrl_keeps | (fail_if_no_progress refine keeps_upd ?_) |
                                 refine keeps_ite ?_ ?_ | split)

theorem lowPut_keeps {z0 : State} (fn : Nat) (base : Nat) (last : Nat) (off : Nat) (v : Nat) (s : State) (h : Keeps z0 s) : Keeps z0 (lowPut fn base
    last off v s) := by
  unfold lowPut
  try dsimp only
  with_reducible repeat' (first | assumption | apply nvmePut_keeps | apply msixPut_keeps | apply cqDoorbell_keeps | apply sqDoorbell_keeps |
                                 refine keeps_ite ?_ ?_ | split)

theorem execRegisterWrite_keeps {z0 : State} (fn : Fin 1024) (offset : Nat) (value : Word) (s : State) (h : Keeps z0 s) : ∃ t, execRegisterWrite fn
    offset value s = .next t ∧ Keeps z0 t := by
  unfold execRegisterWrite
  refine ⟨_, rfl, ?_⟩
  try dsimp only
  with_reducible repeat' (first | assumption | apply lowPut_keeps | apply arrayWrite_keeps | apply regWrite_keeps | refine keeps_ite ?_ ?_ | split)

theorem execLowHalfRead_keeps {z0 : State} (offset : Nat) (s : State) (h : Keeps z0 s) : ∃ t, execLowHalfRead offset s = .next t ∧ Keeps z0 t := by
  unfold execLowHalfRead
  refine ⟨_, rfl, ?_⟩
  try dsimp only
  with_reducible repeat' (first | assumption | (fail_if_no_progress refine keeps_upd ?_) | refine keeps_ite ?_ ?_ | split)

theorem execLowHalfWrite_keeps {z0 : State} (offset : Nat) (value : BitVec 32) (s : State) (h : Keeps z0 s) : ∃ t, execLowHalfWrite offset value s =
    .next t ∧ Keeps z0 t := by
  unfold execLowHalfWrite
  refine ⟨_, rfl, ?_⟩
  try dsimp only
  with_reducible repeat' (first | assumption | apply arrayWrite_keeps | apply regWrite_keeps | (fail_if_no_progress refine keeps_upd ?_) |
                                 refine keeps_ite ?_ ?_ | split)

theorem execHighHalfWrite_keeps {z0 : State} (offset : Nat) (value : BitVec 32) (s : State) (h : Keeps z0 s) : ∃ t, execHighHalfWrite offset value s =
    .next t ∧ Keeps z0 t := by
  unfold execHighHalfWrite
  refine ⟨_, rfl, ?_⟩
  try dsimp only
  with_reducible repeat' (first | assumption | apply arrayWrite_keeps | apply regWrite_keeps | (fail_if_no_progress refine keeps_upd ?_) |
                                 refine keeps_ite ?_ ?_ | split)

end Sys2Proof.Machine
end

