-- ==== Sys2Proof/Laws/KeepsYusil.lean ====
section
/-! SUPPORT. What every step keeps (`Keeps`): Yusil instructions. For each operation `f` the lemma `f_keeps` says that it keeps it;
for the meaning of a command it says that the command has a next state and keeps it. -/

namespace Sys2Proof.Machine

set_option Elab.async false
set_option linter.all false
set_option maxRecDepth 20000

theorem execAdd_keeps {z0 : State} (core : Fin 256) (miss : Bool) (s : State) (h : Keeps z0 s) : ∃ t, execAdd core miss s = .next t ∧ Keeps z0 t := by
  unfold execAdd
  refine ⟨_, rfl, ?_⟩
  try dsimp only
  with_reducible repeat' (first | assumption | apply yBin_keeps | (intro _))

theorem execAdc_keeps {z0 : State} (core : Fin 256) (miss : Bool) (s : State) (h : Keeps z0 s) : ∃ t, execAdc core miss s = .next t ∧ Keeps z0 t := by
  unfold execAdc
  refine ⟨_, rfl, ?_⟩
  try dsimp only
  with_reducible repeat' (first | assumption | apply yBin_keeps | (intro _))

theorem execSub_keeps {z0 : State} (core : Fin 256) (miss : Bool) (s : State) (h : Keeps z0 s) : ∃ t, execSub core miss s = .next t ∧ Keeps z0 t := by
  unfold execSub
  refine ⟨_, rfl, ?_⟩
  try dsimp only
  with_reducible repeat' (first | assumption | apply yBin_keeps | (intro _))

theorem execSbc_keeps {z0 : State} (core : Fin 256) (miss : Bool) (s : State) (h : Keeps z0 s) : ∃ t, execSbc core miss s = .next t ∧ Keeps z0 t := by
  unfold execSbc
  refine ⟨_, rfl, ?_⟩
  try dsimp only
  with_reducible repeat' (first | assumption | apply yBin_keeps | (intro _))

theorem execNeg_keeps {z0 : State} (core : Fin 256) (miss : Bool) (s : State) (h : Keeps z0 s) : ∃ t, execNeg core miss s = .next t ∧ Keeps z0 t := by
  unfold execNeg
  refine ⟨_, rfl, ?_⟩
  try dsimp only
  with_reducible repeat' (first | assumption | apply yUn_keeps | (intro _))

theorem execMul_keeps {z0 : State} (core : Fin 256) (miss : Bool) (s : State) (h : Keeps z0 s) : ∃ t, execMul core miss s = .next t ∧ Keeps z0 t := by
  unfold execMul
  refine ⟨_, rfl, ?_⟩
  try dsimp only
  with_reducible repeat' (first | assumption | apply yBin_keeps | (intro _))

theorem execMulhu_keeps {z0 : State} (core : Fin 256) (miss : Bool) (s : State) (h : Keeps z0 s) : ∃ t, execMulhu core miss s = .next t ∧ Keeps z0 t
    := by
  unfold execMulhu
  refine ⟨_, rfl, ?_⟩
  try dsimp only
  with_reducible repeat' (first | assumption | apply yBin_keeps | (intro _))

theorem execMulhs_keeps {z0 : State} (core : Fin 256) (miss : Bool) (s : State) (h : Keeps z0 s) : ∃ t, execMulhs core miss s = .next t ∧ Keeps z0 t
    := by
  unfold execMulhs
  refine ⟨_, rfl, ?_⟩
  try dsimp only
  with_reducible repeat' (first | assumption | apply yBin_keeps | (intro _))

theorem execDivu_keeps {z0 : State} (core : Fin 256) (miss : Bool) (s : State) (h : Keeps z0 s) : ∃ t, execDivu core miss s = .next t ∧ Keeps z0 t :=
    by
  unfold execDivu
  refine ⟨_, rfl, ?_⟩
  try dsimp only
  with_reducible repeat' (first | assumption | apply yDiv_keeps)

theorem execDivs_keeps {z0 : State} (core : Fin 256) (miss : Bool) (s : State) (h : Keeps z0 s) : ∃ t, execDivs core miss s = .next t ∧ Keeps z0 t :=
    by
  unfold execDivs
  refine ⟨_, rfl, ?_⟩
  try dsimp only
  with_reducible repeat' (first | assumption | apply yDiv_keeps)

theorem execRemu_keeps {z0 : State} (core : Fin 256) (miss : Bool) (s : State) (h : Keeps z0 s) : ∃ t, execRemu core miss s = .next t ∧ Keeps z0 t :=
    by
  unfold execRemu
  refine ⟨_, rfl, ?_⟩
  try dsimp only
  with_reducible repeat' (first | assumption | apply yDiv_keeps)

theorem execRems_keeps {z0 : State} (core : Fin 256) (miss : Bool) (s : State) (h : Keeps z0 s) : ∃ t, execRems core miss s = .next t ∧ Keeps z0 t :=
    by
  unfold execRems
  refine ⟨_, rfl, ?_⟩
  try dsimp only
  with_reducible repeat' (first | assumption | apply yDiv_keeps)

theorem execMinu_keeps {z0 : State} (core : Fin 256) (miss : Bool) (s : State) (h : Keeps z0 s) : ∃ t, execMinu core miss s = .next t ∧ Keeps z0 t :=
    by
  unfold execMinu
  refine ⟨_, rfl, ?_⟩
  try dsimp only
  with_reducible repeat' (first | assumption | apply yBin_keeps | (intro _))

theorem execMaxu_keeps {z0 : State} (core : Fin 256) (miss : Bool) (s : State) (h : Keeps z0 s) : ∃ t, execMaxu core miss s = .next t ∧ Keeps z0 t :=
    by
  unfold execMaxu
  refine ⟨_, rfl, ?_⟩
  try dsimp only
  with_reducible repeat' (first | assumption | apply yBin_keeps | (intro _))

theorem execMins_keeps {z0 : State} (core : Fin 256) (miss : Bool) (s : State) (h : Keeps z0 s) : ∃ t, execMins core miss s = .next t ∧ Keeps z0 t :=
    by
  unfold execMins
  refine ⟨_, rfl, ?_⟩
  try dsimp only
  with_reducible repeat' (first | assumption | apply yBin_keeps | (intro _))

theorem execMaxs_keeps {z0 : State} (core : Fin 256) (miss : Bool) (s : State) (h : Keeps z0 s) : ∃ t, execMaxs core miss s = .next t ∧ Keeps z0 t :=
    by
  unfold execMaxs
  refine ⟨_, rfl, ?_⟩
  try dsimp only
  with_reducible repeat' (first | assumption | apply yBin_keeps | (intro _))

theorem execCmp_keeps {z0 : State} (core : Fin 256) (miss : Bool) (s : State) (h : Keeps z0 s) : ∃ t, execCmp core miss s = .next t ∧ Keeps z0 t := by
  unfold execCmp
  refine ⟨_, rfl, ?_⟩
  try dsimp only
  with_reducible repeat' (first | assumption | apply yCmp_keeps | (intro _))

theorem execTst_keeps {z0 : State} (core : Fin 256) (miss : Bool) (s : State) (h : Keeps z0 s) : ∃ t, execTst core miss s = .next t ∧ Keeps z0 t := by
  unfold execTst
  refine ⟨_, rfl, ?_⟩
  try dsimp only
  with_reducible repeat' (first | assumption | apply yCmp_keeps | (intro _))

theorem execAddi_keeps {z0 : State} (core : Fin 256) (miss : Bool) (s : State) (h : Keeps z0 s) : ∃ t, execAddi core miss s = .next t ∧ Keeps z0 t :=
    by
  unfold execAddi
  refine ⟨_, rfl, ?_⟩
  try dsimp only
  with_reducible repeat' (first | assumption | apply yImm_keeps | (intro _))

theorem execSubi_keeps {z0 : State} (core : Fin 256) (miss : Bool) (s : State) (h : Keeps z0 s) : ∃ t, execSubi core miss s = .next t ∧ Keeps z0 t :=
    by
  unfold execSubi
  refine ⟨_, rfl, ?_⟩
  try dsimp only
  with_reducible repeat' (first | assumption | apply yImm_keeps | (intro _))

theorem execCmpi_keeps {z0 : State} (core : Fin 256) (miss : Bool) (s : State) (h : Keeps z0 s) : ∃ t, execCmpi core miss s = .next t ∧ Keeps z0 t :=
    by
  unfold execCmpi
  refine ⟨_, rfl, ?_⟩
  try dsimp only
  with_reducible repeat' (first | assumption | apply yImm_keeps | (intro _))

theorem execBr_keeps {z0 : State} (core : Fin 256) (miss : Bool) (s : State) (h : Keeps z0 s) : ∃ t, execBr core miss s = .next t ∧ Keeps z0 t := by
  refine ⟨_, rfl, ?_⟩
  refine yRun_keeps _ _ _ _ _ _ (fun _ _ _ _ _ _ _ _ hs => ?_) h
  try dsimp only
  with_reducible repeat' (first | assumption | apply yk_done | apply yk_yields | apply yk_atomic | apply yk_frame | exact yk_fault | exact yk_block |
                                 exact yk_stall | exact yk_entry | refine yk_ite ?_ ?_ | split | apply yRun_keeps | refine keeps_ite ?_ ?_ | (intro _)
                                 | split)

theorem execJmp_keeps {z0 : State} (core : Fin 256) (miss : Bool) (s : State) (h : Keeps z0 s) : ∃ t, execJmp core miss s = .next t ∧ Keeps z0 t := by
  refine ⟨_, rfl, ?_⟩
  refine yRun_keeps _ _ _ _ _ _ (fun _ _ _ _ _ _ _ _ hs => ?_) h
  try dsimp only
  with_reducible repeat' (first | assumption | apply yk_done | apply yk_yields | apply yk_atomic | apply yk_frame | exact yk_fault | exact yk_block |
                                 exact yk_stall | exact yk_entry | refine yk_ite ?_ ?_ | split | apply yRun_keeps | refine keeps_ite ?_ ?_ | (intro _)
                                 | split)

theorem storeWords_keeps {z0 : State} (key : Nat) (x : List (Nat × Nat))  (s : State) (h : Keeps z0 s) : Keeps z0 (storeWords key x  s) := by
  induction x generalizing s  with
  | nil =>
    unfold storeWords
    with_reducible repeat' (first | assumption | apply writeLoc_keeps | split)
  | cons a l ih =>
    unfold storeWords
    try dsimp only
    with_reducible repeat' (first | assumption | apply ih | apply writeLoc_keeps | split)

theorem execCall_keeps {z0 : State} (core : Fin 256) (miss : Bool) (s : State) (h : Keeps z0 s) : ∃ t, execCall core miss s = .next t ∧ Keeps z0 t :=
    by
  refine ⟨_, rfl, ?_⟩
  refine yRun_keeps _ _ _ _ _ _ (fun _ _ _ _ _ _ _ _ hs => ?_) h
  try dsimp only
  with_reducible repeat' (first | assumption | apply yk_done | apply yk_yields | apply yk_atomic | apply yk_frame | exact yk_fault | exact yk_block |
                                 exact yk_stall | exact yk_entry | refine yk_ite ?_ ?_ | split | apply storeWords_keeps | apply yRun_keeps |
                                 (fail_if_no_progress refine keeps_upd ?_) | refine keeps_ite ?_ ?_ | (intro _) | split)

theorem readWords_keeps_aux {z0 : State} (key : Nat) {l : List Nat} (ih : ∀ s, Keeps z0 s → Keeps z0 (readWords key l s).2) {s t : State} {x} (e :
    readWords key l s = (x, t)) (h : Keeps z0 s) : Keeps z0 t := by
  have := ih s h
  rw [e] at this
  exact this

theorem readWords_keeps {z0 : State} (key : Nat) (x : List Nat)  (s : State) (h : Keeps z0 s) : Keeps z0 (readWords key x  s).2 := by
  induction x generalizing s  with
  | nil =>
    unfold readWords
    with_reducible repeat' (first | assumption | refine readLoc_keeps_of_eq (by assumption) ?_ | apply readLoc_keeps | split)
  | cons a l ih =>
    unfold readWords
    try dsimp only
    with_reducible repeat' (first | assumption | refine readWords_keeps_aux key ih (by assumption) ?_ | apply ih |
                                   refine readLoc_keeps_of_eq (by assumption) ?_ | apply readLoc_keeps | split)

theorem readWords_keeps_of_eq {z0 : State} {key : Nat} {l : List Nat} {s t : State} {x} (e : readWords key l s = (x, t)) (h : Keeps z0 s) : Keeps z0 t
    := by
  have := readWords_keeps key l s h
  rw [e] at this
  exact this

theorem execRet_keeps {z0 : State} (core : Fin 256) (miss : Bool) (s : State) (h : Keeps z0 s) : ∃ t, execRet core miss s = .next t ∧ Keeps z0 t := by
  refine ⟨_, rfl, ?_⟩
  refine yRun_keeps _ _ _ _ _ _ (fun _ _ _ _ _ _ _ _ hs => ?_) h
  try dsimp only
  with_reducible repeat' (first | assumption | apply yk_done | apply yk_yields | apply yk_atomic | apply yk_frame | exact yk_fault | exact yk_block |
                                 exact yk_stall | exact yk_entry | refine yk_ite ?_ ?_ | split | refine readWords_keeps_of_eq (by assumption) ?_ |
                                 apply readWords_keeps | apply yRun_keeps | refine readLoc_keeps_of_eq (by assumption) ?_ | apply readLoc_keeps |
                                 refine keeps_ite ?_ ?_ | (intro _) | split)

theorem execLoop_keeps {z0 : State} (core : Fin 256) (miss : Bool) (s : State) (h : Keeps z0 s) : ∃ t, execLoop core miss s = .next t ∧ Keeps z0 t :=
    by
  refine ⟨_, rfl, ?_⟩
  refine yRun_keeps _ _ _ _ _ _ (fun _ _ _ _ _ _ _ _ hs => ?_) h
  try dsimp only
  with_reducible repeat' (first | assumption | apply yk_done | apply yk_yields | apply yk_atomic | apply yk_frame | exact yk_fault | exact yk_block |
                                 exact yk_stall | exact yk_entry | refine yk_ite ?_ ?_ | split | apply yRun_keeps |
                                 (fail_if_no_progress refine keeps_upd ?_) | refine keeps_ite ?_ ?_ | (intro _) | split)

theorem execLeave_keeps {z0 : State} (core : Fin 256) (miss : Bool) (s : State) (h : Keeps z0 s) : ∃ t, execLeave core miss s = .next t ∧ Keeps z0 t
    := by
  refine ⟨_, rfl, ?_⟩
  refine yRun_keeps _ _ _ _ _ _ (fun _ _ _ _ _ _ _ _ hs => ?_) h
  try dsimp only
  with_reducible repeat' (first | assumption | apply yk_done | apply yk_yields | apply yk_atomic | apply yk_frame | exact yk_fault | exact yk_block |
                                 exact yk_stall | exact yk_entry | refine yk_ite ?_ ?_ | split | apply yRun_keeps |
                                 (fail_if_no_progress refine keeps_upd ?_) | refine keeps_ite ?_ ?_ | (intro _) | split)

theorem execAnd_keeps {z0 : State} (core : Fin 256) (miss : Bool) (s : State) (h : Keeps z0 s) : ∃ t, execAnd core miss s = .next t ∧ Keeps z0 t := by
  unfold execAnd
  refine ⟨_, rfl, ?_⟩
  try dsimp only
  with_reducible repeat' (first | assumption | apply yBin_keeps | (intro _))

theorem execOr_keeps {z0 : State} (core : Fin 256) (miss : Bool) (s : State) (h : Keeps z0 s) : ∃ t, execOr core miss s = .next t ∧ Keeps z0 t := by
  unfold execOr
  refine ⟨_, rfl, ?_⟩
  try dsimp only
  with_reducible repeat' (first | assumption | apply yBin_keeps | (intro _))

theorem execXor_keeps {z0 : State} (core : Fin 256) (miss : Bool) (s : State) (h : Keeps z0 s) : ∃ t, execXor core miss s = .next t ∧ Keeps z0 t := by
  unfold execXor
  refine ⟨_, rfl, ?_⟩
  try dsimp only
  with_reducible repeat' (first | assumption | apply yBin_keeps | (intro _))

theorem execAndn_keeps {z0 : State} (core : Fin 256) (miss : Bool) (s : State) (h : Keeps z0 s) : ∃ t, execAndn core miss s = .next t ∧ Keeps z0 t :=
    by
  unfold execAndn
  refine ⟨_, rfl, ?_⟩
  try dsimp only
  with_reducible repeat' (first | assumption | apply yBin_keeps | (intro _))

theorem execNot_keeps {z0 : State} (core : Fin 256) (miss : Bool) (s : State) (h : Keeps z0 s) : ∃ t, execNot core miss s = .next t ∧ Keeps z0 t := by
  unfold execNot
  refine ⟨_, rfl, ?_⟩
  try dsimp only
  with_reducible repeat' (first | assumption | apply yUn_keeps)

theorem execShl_keeps {z0 : State} (core : Fin 256) (miss : Bool) (s : State) (h : Keeps z0 s) : ∃ t, execShl core miss s = .next t ∧ Keeps z0 t := by
  unfold execShl
  refine ⟨_, rfl, ?_⟩
  try dsimp only
  with_reducible repeat' (first | assumption | apply yBin_keeps | (intro _))

theorem execShr_keeps {z0 : State} (core : Fin 256) (miss : Bool) (s : State) (h : Keeps z0 s) : ∃ t, execShr core miss s = .next t ∧ Keeps z0 t := by
  unfold execShr
  refine ⟨_, rfl, ?_⟩
  try dsimp only
  with_reducible repeat' (first | assumption | apply yBin_keeps | (intro _))

theorem execSar_keeps {z0 : State} (core : Fin 256) (miss : Bool) (s : State) (h : Keeps z0 s) : ∃ t, execSar core miss s = .next t ∧ Keeps z0 t := by
  unfold execSar
  refine ⟨_, rfl, ?_⟩
  try dsimp only
  with_reducible repeat' (first | assumption | apply yBin_keeps | (intro _))

theorem execRol_keeps {z0 : State} (core : Fin 256) (miss : Bool) (s : State) (h : Keeps z0 s) : ∃ t, execRol core miss s = .next t ∧ Keeps z0 t := by
  unfold execRol
  refine ⟨_, rfl, ?_⟩
  try dsimp only
  with_reducible repeat' (first | assumption | apply yBin_keeps | (intro _))

theorem execRor_keeps {z0 : State} (core : Fin 256) (miss : Bool) (s : State) (h : Keeps z0 s) : ∃ t, execRor core miss s = .next t ∧ Keeps z0 t := by
  unfold execRor
  refine ⟨_, rfl, ?_⟩
  try dsimp only
  with_reducible repeat' (first | assumption | apply yBin_keeps | (intro _))

theorem execPopc_keeps {z0 : State} (core : Fin 256) (miss : Bool) (s : State) (h : Keeps z0 s) : ∃ t, execPopc core miss s = .next t ∧ Keeps z0 t :=
    by
  unfold execPopc
  refine ⟨_, rfl, ?_⟩
  try dsimp only
  with_reducible repeat' (first | assumption | apply yUn_keeps)

theorem execClz_keeps {z0 : State} (core : Fin 256) (miss : Bool) (s : State) (h : Keeps z0 s) : ∃ t, execClz core miss s = .next t ∧ Keeps z0 t := by
  unfold execClz
  refine ⟨_, rfl, ?_⟩
  try dsimp only
  with_reducible repeat' (first | assumption | apply yUn_keeps)

theorem execCtz_keeps {z0 : State} (core : Fin 256) (miss : Bool) (s : State) (h : Keeps z0 s) : ∃ t, execCtz core miss s = .next t ∧ Keeps z0 t := by
  unfold execCtz
  refine ⟨_, rfl, ?_⟩
  try dsimp only
  with_reducible repeat' (first | assumption | apply yUn_keeps)

theorem execShli_keeps {z0 : State} (core : Fin 256) (miss : Bool) (s : State) (h : Keeps z0 s) : ∃ t, execShli core miss s = .next t ∧ Keeps z0 t :=
    by
  unfold execShli
  refine ⟨_, rfl, ?_⟩
  try dsimp only
  with_reducible repeat' (first | assumption | apply yImm_keeps | (intro _))

theorem execShri_keeps {z0 : State} (core : Fin 256) (miss : Bool) (s : State) (h : Keeps z0 s) : ∃ t, execShri core miss s = .next t ∧ Keeps z0 t :=
    by
  unfold execShri
  refine ⟨_, rfl, ?_⟩
  try dsimp only
  with_reducible repeat' (first | assumption | apply yImm_keeps | (intro _))

theorem execSari_keeps {z0 : State} (core : Fin 256) (miss : Bool) (s : State) (h : Keeps z0 s) : ∃ t, execSari core miss s = .next t ∧ Keeps z0 t :=
    by
  unfold execSari
  refine ⟨_, rfl, ?_⟩
  try dsimp only
  with_reducible repeat' (first | assumption | apply yImm_keeps | (intro _))

theorem execMov_keeps {z0 : State} (core : Fin 256) (miss : Bool) (s : State) (h : Keeps z0 s) : ∃ t, execMov core miss s = .next t ∧ Keeps z0 t := by
  unfold execMov
  refine ⟨_, rfl, ?_⟩
  try dsimp only
  with_reducible repeat' (first | assumption | apply yUnNf_keeps | (intro _))

theorem execMovi_keeps {z0 : State} (core : Fin 256) (miss : Bool) (s : State) (h : Keeps z0 s) : ∃ t, execMovi core miss s = .next t ∧ Keeps z0 t :=
    by
  refine ⟨_, rfl, ?_⟩
  refine yRun_keeps _ _ _ _ _ _ (fun _ _ _ _ _ _ _ _ hs => ?_) h
  try dsimp only
  with_reducible repeat' (first | assumption | apply yk_done | apply yk_yields | apply yk_atomic | apply yk_frame | exact yk_fault | exact yk_block |
                                 exact yk_stall | exact yk_entry | refine yk_ite ?_ ?_ | split | apply yRun_keeps | (intro _))

theorem execBswap_keeps {z0 : State} (core : Fin 256) (miss : Bool) (s : State) (h : Keeps z0 s) : ∃ t, execBswap core miss s = .next t ∧ Keeps z0 t
    := by
  unfold execBswap
  refine ⟨_, rfl, ?_⟩
  try dsimp only
  with_reducible repeat' (first | assumption | apply yUnNf_keeps)

theorem execSext_keeps {z0 : State} (core : Fin 256) (miss : Bool) (s : State) (h : Keeps z0 s) : ∃ t, execSext core miss s = .next t ∧ Keeps z0 t :=
    by
  unfold execSext
  refine ⟨_, rfl, ?_⟩
  try dsimp only
  with_reducible repeat' (first | assumption | apply yUnNf_keeps | (intro _))

theorem execZext_keeps {z0 : State} (core : Fin 256) (miss : Bool) (s : State) (h : Keeps z0 s) : ∃ t, execZext core miss s = .next t ∧ Keeps z0 t :=
    by
  unfold execZext
  refine ⟨_, rfl, ?_⟩
  try dsimp only
  with_reducible repeat' (first | assumption | apply yUnNf_keeps | (intro _))

theorem execSet_keeps {z0 : State} (core : Fin 256) (miss : Bool) (s : State) (h : Keeps z0 s) : ∃ t, execSet core miss s = .next t ∧ Keeps z0 t := by
  refine ⟨_, rfl, ?_⟩
  refine yRun_keeps _ _ _ _ _ _ (fun _ _ _ _ _ _ _ _ hs => ?_) h
  try dsimp only
  with_reducible repeat' (first | assumption | apply yk_done | apply yk_yields | apply yk_atomic | apply yk_frame | exact yk_fault | exact yk_block |
                                 exact yk_stall | exact yk_entry | refine yk_ite ?_ ?_ | split | apply yRun_keeps | (intro _))

theorem execCas_keeps {z0 : State} (core : Fin 256) (miss : Bool) (s : State) (h : Keeps z0 s) : ∃ t, execCas core miss s = .next t ∧ Keeps z0 t := by
  refine ⟨_, rfl, ?_⟩
  refine yRun_keeps _ _ _ _ _ _ (fun _ _ _ _ _ _ _ _ hs => ?_) h
  try dsimp only
  with_reducible repeat' (first | assumption | apply yk_done | apply yk_yields | apply yk_atomic | apply yk_frame | exact yk_fault | exact yk_block |
                                 exact yk_stall | exact yk_entry | refine yk_ite ?_ ?_ | split | apply yRun_keeps | apply writeLoc_keeps |
                                 refine readLoc_keeps_of_eq (by assumption) ?_ | apply readLoc_keeps | (fail_if_no_progress refine keeps_upd ?_) |
                                 refine keeps_ite ?_ ?_ | (intro _) | split)

theorem execMovst_keeps {z0 : State} (core : Fin 256) (miss : Bool) (s : State) (h : Keeps z0 s) : ∃ t, execMovst core miss s = .next t ∧ Keeps z0 t
    := by
  refine ⟨_, rfl, ?_⟩
  refine yRun_keeps _ _ _ _ _ _ (fun _ _ _ _ _ _ _ _ hs => ?_) h
  try dsimp only
  with_reducible repeat' (first | assumption | apply yk_done | apply yk_yields | apply yk_atomic | apply yk_frame | exact yk_fault | exact yk_block |
                                 exact yk_stall | exact yk_entry | refine yk_ite ?_ ?_ | split | apply yRun_keeps |
                                 (fail_if_no_progress refine keeps_upd ?_) | (intro _))

theorem execSetst_keeps {z0 : State} (core : Fin 256) (miss : Bool) (s : State) (h : Keeps z0 s) : ∃ t, execSetst core miss s = .next t ∧ Keeps z0 t
    := by
  refine ⟨_, rfl, ?_⟩
  refine yRun_keeps _ _ _ _ _ _ (fun _ _ _ _ _ _ _ _ hs => ?_) h
  try dsimp only
  with_reducible repeat' (first | assumption | apply yk_done | apply yk_yields | apply yk_atomic | apply yk_frame | exact yk_fault | exact yk_block |
                                 exact yk_stall | exact yk_entry | refine yk_ite ?_ ?_ | split | apply yRun_keeps | (intro _))

theorem execBtst_keeps {z0 : State} (core : Fin 256) (miss : Bool) (s : State) (h : Keeps z0 s) : ∃ t, execBtst core miss s = .next t ∧ Keeps z0 t :=
    by
  refine ⟨_, rfl, ?_⟩
  refine yRun_keeps _ _ _ _ _ _ (fun _ _ _ _ _ _ _ _ hs => ?_) h
  try dsimp only
  with_reducible repeat' (first | assumption | apply yk_done | apply yk_yields | apply yk_atomic | apply yk_frame | exact yk_fault | exact yk_block |
                                 exact yk_stall | exact yk_entry | refine yk_ite ?_ ?_ | split | apply yRun_keeps |
                                 (fail_if_no_progress refine keeps_upd ?_) | (intro _))

theorem execBset_keeps {z0 : State} (core : Fin 256) (miss : Bool) (s : State) (h : Keeps z0 s) : ∃ t, execBset core miss s = .next t ∧ Keeps z0 t :=
    by
  refine ⟨_, rfl, ?_⟩
  refine yRun_keeps _ _ _ _ _ _ (fun _ _ _ _ _ _ _ _ hs => ?_) h
  try dsimp only
  with_reducible repeat' (first | assumption | apply yk_done | apply yk_yields | apply yk_atomic | apply yk_frame | exact yk_fault | exact yk_block |
                                 exact yk_stall | exact yk_entry | refine yk_ite ?_ ?_ | split | apply yRun_keeps | (intro _))

theorem execBclr_keeps {z0 : State} (core : Fin 256) (miss : Bool) (s : State) (h : Keeps z0 s) : ∃ t, execBclr core miss s = .next t ∧ Keeps z0 t :=
    by
  refine ⟨_, rfl, ?_⟩
  refine yRun_keeps _ _ _ _ _ _ (fun _ _ _ _ _ _ _ _ hs => ?_) h
  try dsimp only
  with_reducible repeat' (first | assumption | apply yk_done | apply yk_yields | apply yk_atomic | apply yk_frame | exact yk_fault | exact yk_block |
                                 exact yk_stall | exact yk_entry | refine yk_ite ?_ ?_ | split | apply yRun_keeps | (intro _))

theorem execNop_keeps {z0 : State} (core : Fin 256) (miss : Bool) (s : State) (h : Keeps z0 s) : ∃ t, execNop core miss s = .next t ∧ Keeps z0 t := by
  refine ⟨_, rfl, ?_⟩
  refine yRun_keeps _ _ _ _ _ _ (fun _ _ _ _ _ _ _ _ hs => ?_) h
  try dsimp only
  with_reducible repeat' (first | assumption | apply yk_done | apply yk_yields | apply yk_atomic | apply yk_frame | exact yk_fault | exact yk_block |
                                 exact yk_stall | exact yk_entry | refine yk_ite ?_ ?_ | split | apply yRun_keeps | (intro _))

theorem execYield_keeps {z0 : State} (core : Fin 256) (miss : Bool) (s : State) (h : Keeps z0 s) : ∃ t, execYield core miss s = .next t ∧ Keeps z0 t
    := by
  refine ⟨_, rfl, ?_⟩
  refine yRun_keeps _ _ _ _ _ _ (fun _ _ _ _ _ _ _ _ hs => ?_) h
  try dsimp only
  with_reducible repeat' (first | assumption | apply yk_done | apply yk_yields | apply yk_atomic | apply yk_frame | exact yk_fault | exact yk_block |
                                 exact yk_stall | exact yk_entry | refine yk_ite ?_ ?_ | split | apply yRun_keeps | (intro _))

theorem execRdcnt_keeps {z0 : State} (core : Fin 256) (miss : Bool) (s : State) (h : Keeps z0 s) : ∃ t, execRdcnt core miss s = .next t ∧ Keeps z0 t
    := by
  refine ⟨_, rfl, ?_⟩
  refine yRun_keeps _ _ _ _ _ _ (fun _ _ _ _ _ _ _ _ hs => ?_) h
  try dsimp only
  with_reducible repeat' (first | assumption | apply yk_done | apply yk_yields | apply yk_atomic | apply yk_frame | exact yk_fault | exact yk_block |
                                 exact yk_stall | exact yk_entry | refine yk_ite ?_ ?_ | split | apply yRun_keeps | refine keeps_ite ?_ ?_ | (intro _)
                                 | split)

theorem execWait_keeps {z0 : State} (core : Fin 256) (miss : Bool) (s : State) (h : Keeps z0 s) : ∃ t, execWait core miss s = .next t ∧ Keeps z0 t :=
    by
  refine ⟨_, rfl, ?_⟩
  refine yRun_keeps _ _ _ _ _ _ (fun _ _ _ _ _ _ _ _ hs => ?_) h
  try dsimp only
  with_reducible repeat' (first | assumption | apply yk_done | apply yk_yields | apply yk_atomic | apply yk_frame | exact yk_fault | exact yk_block |
                                 exact yk_stall | exact yk_entry | refine yk_ite ?_ ?_ | split | apply yRun_keeps | apply updTask_keeps |
                                 (fail_if_no_progress refine keeps_upd ?_) | refine keeps_ite ?_ ?_ | (intro _) | split)

theorem execPost_keeps {z0 : State} (core : Fin 256) (miss : Bool) (s : State) (h : Keeps z0 s) : ∃ t, execPost core miss s = .next t ∧ Keeps z0 t :=
    by
  refine ⟨_, rfl, ?_⟩
  refine yRun_keeps _ _ _ _ _ _ (fun _ _ _ _ _ _ _ _ hs => ?_) h
  try dsimp only
  with_reducible repeat' (first | assumption | apply yk_done | apply yk_yields | apply yk_atomic | apply yk_frame | exact yk_fault | exact yk_block |
                                 exact yk_stall | exact yk_entry | refine yk_ite ?_ ?_ | split | apply yRun_keeps | apply raise_keeps |
                                 refine postTo_keeps_of_eq (by assumption) ?_ | apply postTo_keeps | (fail_if_no_progress refine keeps_upd ?_) |
                                 refine keeps_ite ?_ ?_ | (intro _) | split)

end Sys2Proof.Machine
end

