-- ==== Sys2Proof/Laws/State.lean ====
section
/-! SUPPORT. The parts of the state that each setter leaves alone, and what reads back after it. -/

namespace Sys2Proof.Machine

/-! setWing changes disp only. -/

@[simp] theorem setWing_pending (w : Nat) (d : WingDisp) (s : State) : (setWing w d s).pending = s.pending := rfl
@[simp] theorem setWing_cfg (w : Nat) (d : WingDisp) (s : State) : (setWing w d s).cfg = s.cfg := rfl
@[simp] theorem setWing_td17 (w : Nat) (d : WingDisp) (s : State) : (setWing w d s).td17 = s.td17 := rfl
@[simp] theorem setWing_mode (w : Nat) (d : WingDisp) (s : State) : (setWing w d s).mode = s.mode := rfl
@[simp] theorem setWing_regs (w : Nat) (d : WingDisp) (s : State) : (setWing w d s).regs = s.regs := rfl
@[simp] theorem setWing_cnt (w : Nat) (d : WingDisp) (s : State) : (setWing w d s).cnt = s.cnt := rfl
@[simp] theorem setWing_evt (w : Nat) (d : WingDisp) (s : State) : (setWing w d s).evt = s.evt := rfl
@[simp] theorem setWing_log (w : Nat) (d : WingDisp) (s : State) : (setWing w d s).log = s.log := rfl
@[simp] theorem setWing_prog (w : Nat) (d : WingDisp) (s : State) : (setWing w d s).prog = s.prog := rfl
@[simp] theorem setWing_siv (w : Nat) (d : WingDisp) (s : State) : (setWing w d s).siv = s.siv := rfl
@[simp] theorem setWing_bcn (w : Nat) (d : WingDisp) (s : State) : (setWing w d s).bcn = s.bcn := rfl
@[simp] theorem setWing_chr (w : Nat) (d : WingDisp) (s : State) : (setWing w d s).chr = s.chr := rfl
@[simp] theorem setWing_host (w : Nat) (d : WingDisp) (s : State) : (setWing w d s).host = s.host := rfl
@[simp] theorem setWing_med (w : Nat) (d : WingDisp) (s : State) : (setWing w d s).med = s.med := rfl
@[simp] theorem setWing_plc (w : Nat) (d : WingDisp) (s : State) : (setWing w d s).plc = s.plc := rfl
@[simp] theorem setWing_rte (w : Nat) (d : WingDisp) (s : State) : (setWing w d s).rte = s.rte := rfl
@[simp] theorem setWing_pwr (w : Nat) (d : WingDisp) (s : State) : (setWing w d s).pwr = s.pwr := rfl
@[simp] theorem setWing_kin (w : Nat) (d : WingDisp) (s : State) : (setWing w d s).kin = s.kin := rfl
@[simp] theorem setWing_sec (w : Nat) (d : WingDisp) (s : State) : (setWing w d s).sec = s.sec := rfl
@[simp] theorem setWing_drm (w : Nat) (d : WingDisp) (s : State) : (setWing w d s).drm = s.drm := rfl
@[simp] theorem setWing_cmp (w : Nat) (d : WingDisp) (s : State) : (setWing w d s).cmp = s.cmp := rfl
@[simp] theorem setWing_free (w : Nat) (d : WingDisp) (s : State) : (setWing w d s).free = s.free := rfl

/-! setCore changes disp only. -/

@[simp] theorem setCore_pending (k : Nat) (c : Core) (s : State) : (setCore k c s).pending = s.pending := rfl
@[simp] theorem setCore_cfg (k : Nat) (c : Core) (s : State) : (setCore k c s).cfg = s.cfg := rfl
@[simp] theorem setCore_td17 (k : Nat) (c : Core) (s : State) : (setCore k c s).td17 = s.td17 := rfl
@[simp] theorem setCore_mode (k : Nat) (c : Core) (s : State) : (setCore k c s).mode = s.mode := rfl
@[simp] theorem setCore_regs (k : Nat) (c : Core) (s : State) : (setCore k c s).regs = s.regs := rfl
@[simp] theorem setCore_cnt (k : Nat) (c : Core) (s : State) : (setCore k c s).cnt = s.cnt := rfl
@[simp] theorem setCore_evt (k : Nat) (c : Core) (s : State) : (setCore k c s).evt = s.evt := rfl
@[simp] theorem setCore_log (k : Nat) (c : Core) (s : State) : (setCore k c s).log = s.log := rfl
@[simp] theorem setCore_prog (k : Nat) (c : Core) (s : State) : (setCore k c s).prog = s.prog := rfl
@[simp] theorem setCore_siv (k : Nat) (c : Core) (s : State) : (setCore k c s).siv = s.siv := rfl
@[simp] theorem setCore_bcn (k : Nat) (c : Core) (s : State) : (setCore k c s).bcn = s.bcn := rfl
@[simp] theorem setCore_chr (k : Nat) (c : Core) (s : State) : (setCore k c s).chr = s.chr := rfl
@[simp] theorem setCore_host (k : Nat) (c : Core) (s : State) : (setCore k c s).host = s.host := rfl
@[simp] theorem setCore_med (k : Nat) (c : Core) (s : State) : (setCore k c s).med = s.med := rfl
@[simp] theorem setCore_plc (k : Nat) (c : Core) (s : State) : (setCore k c s).plc = s.plc := rfl
@[simp] theorem setCore_rte (k : Nat) (c : Core) (s : State) : (setCore k c s).rte = s.rte := rfl
@[simp] theorem setCore_pwr (k : Nat) (c : Core) (s : State) : (setCore k c s).pwr = s.pwr := rfl
@[simp] theorem setCore_kin (k : Nat) (c : Core) (s : State) : (setCore k c s).kin = s.kin := rfl
@[simp] theorem setCore_sec (k : Nat) (c : Core) (s : State) : (setCore k c s).sec = s.sec := rfl
@[simp] theorem setCore_drm (k : Nat) (c : Core) (s : State) : (setCore k c s).drm = s.drm := rfl
@[simp] theorem setCore_cmp (k : Nat) (c : Core) (s : State) : (setCore k c s).cmp = s.cmp := rfl
@[simp] theorem setCore_free (k : Nat) (c : Core) (s : State) : (setCore k c s).free = s.free := rfl

/-! setTask changes disp only. -/

@[simp] theorem setTask_pending (key : Nat) (t : Task) (s : State) : (setTask key t s).pending = s.pending := rfl
@[simp] theorem setTask_cfg (key : Nat) (t : Task) (s : State) : (setTask key t s).cfg = s.cfg := rfl
@[simp] theorem setTask_td17 (key : Nat) (t : Task) (s : State) : (setTask key t s).td17 = s.td17 := rfl
@[simp] theorem setTask_mode (key : Nat) (t : Task) (s : State) : (setTask key t s).mode = s.mode := rfl
@[simp] theorem setTask_regs (key : Nat) (t : Task) (s : State) : (setTask key t s).regs = s.regs := rfl
@[simp] theorem setTask_cnt (key : Nat) (t : Task) (s : State) : (setTask key t s).cnt = s.cnt := rfl
@[simp] theorem setTask_evt (key : Nat) (t : Task) (s : State) : (setTask key t s).evt = s.evt := rfl
@[simp] theorem setTask_log (key : Nat) (t : Task) (s : State) : (setTask key t s).log = s.log := rfl
@[simp] theorem setTask_prog (key : Nat) (t : Task) (s : State) : (setTask key t s).prog = s.prog := rfl
@[simp] theorem setTask_siv (key : Nat) (t : Task) (s : State) : (setTask key t s).siv = s.siv := rfl
@[simp] theorem setTask_bcn (key : Nat) (t : Task) (s : State) : (setTask key t s).bcn = s.bcn := rfl
@[simp] theorem setTask_chr (key : Nat) (t : Task) (s : State) : (setTask key t s).chr = s.chr := rfl
@[simp] theorem setTask_host (key : Nat) (t : Task) (s : State) : (setTask key t s).host = s.host := rfl
@[simp] theorem setTask_med (key : Nat) (t : Task) (s : State) : (setTask key t s).med = s.med := rfl
@[simp] theorem setTask_plc (key : Nat) (t : Task) (s : State) : (setTask key t s).plc = s.plc := rfl
@[simp] theorem setTask_rte (key : Nat) (t : Task) (s : State) : (setTask key t s).rte = s.rte := rfl
@[simp] theorem setTask_pwr (key : Nat) (t : Task) (s : State) : (setTask key t s).pwr = s.pwr := rfl
@[simp] theorem setTask_kin (key : Nat) (t : Task) (s : State) : (setTask key t s).kin = s.kin := rfl
@[simp] theorem setTask_sec (key : Nat) (t : Task) (s : State) : (setTask key t s).sec = s.sec := rfl
@[simp] theorem setTask_drm (key : Nat) (t : Task) (s : State) : (setTask key t s).drm = s.drm := rfl
@[simp] theorem setTask_cmp (key : Nat) (t : Task) (s : State) : (setTask key t s).cmp = s.cmp := rfl
@[simp] theorem setTask_free (key : Nat) (t : Task) (s : State) : (setTask key t s).free = s.free := rfl

/-! setCtrl changes host only. -/

@[simp] theorem setCtrl_pending (fn : Nat) (c : Ctrl) (s : State) : (setCtrl fn c s).pending = s.pending := rfl
@[simp] theorem setCtrl_cfg (fn : Nat) (c : Ctrl) (s : State) : (setCtrl fn c s).cfg = s.cfg := rfl
@[simp] theorem setCtrl_td17 (fn : Nat) (c : Ctrl) (s : State) : (setCtrl fn c s).td17 = s.td17 := rfl
@[simp] theorem setCtrl_mode (fn : Nat) (c : Ctrl) (s : State) : (setCtrl fn c s).mode = s.mode := rfl
@[simp] theorem setCtrl_regs (fn : Nat) (c : Ctrl) (s : State) : (setCtrl fn c s).regs = s.regs := rfl
@[simp] theorem setCtrl_cnt (fn : Nat) (c : Ctrl) (s : State) : (setCtrl fn c s).cnt = s.cnt := rfl
@[simp] theorem setCtrl_evt (fn : Nat) (c : Ctrl) (s : State) : (setCtrl fn c s).evt = s.evt := rfl
@[simp] theorem setCtrl_log (fn : Nat) (c : Ctrl) (s : State) : (setCtrl fn c s).log = s.log := rfl
@[simp] theorem setCtrl_disp (fn : Nat) (c : Ctrl) (s : State) : (setCtrl fn c s).disp = s.disp := rfl
@[simp] theorem setCtrl_prog (fn : Nat) (c : Ctrl) (s : State) : (setCtrl fn c s).prog = s.prog := rfl
@[simp] theorem setCtrl_siv (fn : Nat) (c : Ctrl) (s : State) : (setCtrl fn c s).siv = s.siv := rfl
@[simp] theorem setCtrl_bcn (fn : Nat) (c : Ctrl) (s : State) : (setCtrl fn c s).bcn = s.bcn := rfl
@[simp] theorem setCtrl_chr (fn : Nat) (c : Ctrl) (s : State) : (setCtrl fn c s).chr = s.chr := rfl
@[simp] theorem setCtrl_med (fn : Nat) (c : Ctrl) (s : State) : (setCtrl fn c s).med = s.med := rfl
@[simp] theorem setCtrl_plc (fn : Nat) (c : Ctrl) (s : State) : (setCtrl fn c s).plc = s.plc := rfl
@[simp] theorem setCtrl_rte (fn : Nat) (c : Ctrl) (s : State) : (setCtrl fn c s).rte = s.rte := rfl
@[simp] theorem setCtrl_pwr (fn : Nat) (c : Ctrl) (s : State) : (setCtrl fn c s).pwr = s.pwr := rfl
@[simp] theorem setCtrl_kin (fn : Nat) (c : Ctrl) (s : State) : (setCtrl fn c s).kin = s.kin := rfl
@[simp] theorem setCtrl_sec (fn : Nat) (c : Ctrl) (s : State) : (setCtrl fn c s).sec = s.sec := rfl
@[simp] theorem setCtrl_drm (fn : Nat) (c : Ctrl) (s : State) : (setCtrl fn c s).drm = s.drm := rfl
@[simp] theorem setCtrl_cmp (fn : Nat) (c : Ctrl) (s : State) : (setCtrl fn c s).cmp = s.cmp := rfl
@[simp] theorem setCtrl_free (fn : Nat) (c : Ctrl) (s : State) : (setCtrl fn c s).free = s.free := rfl

/-! updCmd changes host only. -/

@[simp] theorem updCmd_pending (r : CmdRef) (f : OutCmd → OutCmd) (s : State) : (updCmd r f s).pending = s.pending := rfl
@[simp] theorem updCmd_cfg (r : CmdRef) (f : OutCmd → OutCmd) (s : State) : (updCmd r f s).cfg = s.cfg := rfl
@[simp] theorem updCmd_td17 (r : CmdRef) (f : OutCmd → OutCmd) (s : State) : (updCmd r f s).td17 = s.td17 := rfl
@[simp] theorem updCmd_mode (r : CmdRef) (f : OutCmd → OutCmd) (s : State) : (updCmd r f s).mode = s.mode := rfl
@[simp] theorem updCmd_regs (r : CmdRef) (f : OutCmd → OutCmd) (s : State) : (updCmd r f s).regs = s.regs := rfl
@[simp] theorem updCmd_cnt (r : CmdRef) (f : OutCmd → OutCmd) (s : State) : (updCmd r f s).cnt = s.cnt := rfl
@[simp] theorem updCmd_evt (r : CmdRef) (f : OutCmd → OutCmd) (s : State) : (updCmd r f s).evt = s.evt := rfl
@[simp] theorem updCmd_log (r : CmdRef) (f : OutCmd → OutCmd) (s : State) : (updCmd r f s).log = s.log := rfl
@[simp] theorem updCmd_disp (r : CmdRef) (f : OutCmd → OutCmd) (s : State) : (updCmd r f s).disp = s.disp := rfl
@[simp] theorem updCmd_prog (r : CmdRef) (f : OutCmd → OutCmd) (s : State) : (updCmd r f s).prog = s.prog := rfl
@[simp] theorem updCmd_siv (r : CmdRef) (f : OutCmd → OutCmd) (s : State) : (updCmd r f s).siv = s.siv := rfl
@[simp] theorem updCmd_bcn (r : CmdRef) (f : OutCmd → OutCmd) (s : State) : (updCmd r f s).bcn = s.bcn := rfl
@[simp] theorem updCmd_chr (r : CmdRef) (f : OutCmd → OutCmd) (s : State) : (updCmd r f s).chr = s.chr := rfl
@[simp] theorem updCmd_med (r : CmdRef) (f : OutCmd → OutCmd) (s : State) : (updCmd r f s).med = s.med := rfl
@[simp] theorem updCmd_plc (r : CmdRef) (f : OutCmd → OutCmd) (s : State) : (updCmd r f s).plc = s.plc := rfl
@[simp] theorem updCmd_rte (r : CmdRef) (f : OutCmd → OutCmd) (s : State) : (updCmd r f s).rte = s.rte := rfl
@[simp] theorem updCmd_pwr (r : CmdRef) (f : OutCmd → OutCmd) (s : State) : (updCmd r f s).pwr = s.pwr := rfl
@[simp] theorem updCmd_kin (r : CmdRef) (f : OutCmd → OutCmd) (s : State) : (updCmd r f s).kin = s.kin := rfl
@[simp] theorem updCmd_sec (r : CmdRef) (f : OutCmd → OutCmd) (s : State) : (updCmd r f s).sec = s.sec := rfl
@[simp] theorem updCmd_drm (r : CmdRef) (f : OutCmd → OutCmd) (s : State) : (updCmd r f s).drm = s.drm := rfl
@[simp] theorem updCmd_cmp (r : CmdRef) (f : OutCmd → OutCmd) (s : State) : (updCmd r f s).cmp = s.cmp := rfl
@[simp] theorem updCmd_free (r : CmdRef) (f : OutCmd → OutCmd) (s : State) : (updCmd r f s).free = s.free := rfl

/-! setEvtSrc changes evt only. -/

@[simp] theorem setEvtSrc_pending (i : Nat) (v : Word) (s : State) : (setEvtSrc i v s).pending = s.pending := rfl
@[simp] theorem setEvtSrc_cfg (i : Nat) (v : Word) (s : State) : (setEvtSrc i v s).cfg = s.cfg := rfl
@[simp] theorem setEvtSrc_td17 (i : Nat) (v : Word) (s : State) : (setEvtSrc i v s).td17 = s.td17 := rfl
@[simp] theorem setEvtSrc_mode (i : Nat) (v : Word) (s : State) : (setEvtSrc i v s).mode = s.mode := rfl
@[simp] theorem setEvtSrc_regs (i : Nat) (v : Word) (s : State) : (setEvtSrc i v s).regs = s.regs := rfl
@[simp] theorem setEvtSrc_cnt (i : Nat) (v : Word) (s : State) : (setEvtSrc i v s).cnt = s.cnt := rfl
@[simp] theorem setEvtSrc_log (i : Nat) (v : Word) (s : State) : (setEvtSrc i v s).log = s.log := rfl
@[simp] theorem setEvtSrc_disp (i : Nat) (v : Word) (s : State) : (setEvtSrc i v s).disp = s.disp := rfl
@[simp] theorem setEvtSrc_prog (i : Nat) (v : Word) (s : State) : (setEvtSrc i v s).prog = s.prog := rfl
@[simp] theorem setEvtSrc_siv (i : Nat) (v : Word) (s : State) : (setEvtSrc i v s).siv = s.siv := rfl
@[simp] theorem setEvtSrc_bcn (i : Nat) (v : Word) (s : State) : (setEvtSrc i v s).bcn = s.bcn := rfl
@[simp] theorem setEvtSrc_chr (i : Nat) (v : Word) (s : State) : (setEvtSrc i v s).chr = s.chr := rfl
@[simp] theorem setEvtSrc_host (i : Nat) (v : Word) (s : State) : (setEvtSrc i v s).host = s.host := rfl
@[simp] theorem setEvtSrc_med (i : Nat) (v : Word) (s : State) : (setEvtSrc i v s).med = s.med := rfl
@[simp] theorem setEvtSrc_plc (i : Nat) (v : Word) (s : State) : (setEvtSrc i v s).plc = s.plc := rfl
@[simp] theorem setEvtSrc_rte (i : Nat) (v : Word) (s : State) : (setEvtSrc i v s).rte = s.rte := rfl
@[simp] theorem setEvtSrc_pwr (i : Nat) (v : Word) (s : State) : (setEvtSrc i v s).pwr = s.pwr := rfl
@[simp] theorem setEvtSrc_kin (i : Nat) (v : Word) (s : State) : (setEvtSrc i v s).kin = s.kin := rfl
@[simp] theorem setEvtSrc_sec (i : Nat) (v : Word) (s : State) : (setEvtSrc i v s).sec = s.sec := rfl
@[simp] theorem setEvtSrc_drm (i : Nat) (v : Word) (s : State) : (setEvtSrc i v s).drm = s.drm := rfl
@[simp] theorem setEvtSrc_cmp (i : Nat) (v : Word) (s : State) : (setEvtSrc i v s).cmp = s.cmp := rfl
@[simp] theorem setEvtSrc_free (i : Nat) (v : Word) (s : State) : (setEvtSrc i v s).free = s.free := rfl

/-! tallyAdd changes evt only. -/

@[simp] theorem tallyAdd_pending (i : Nat) (s : State) : (tallyAdd i s).pending = s.pending := rfl
@[simp] theorem tallyAdd_cfg (i : Nat) (s : State) : (tallyAdd i s).cfg = s.cfg := rfl
@[simp] theorem tallyAdd_td17 (i : Nat) (s : State) : (tallyAdd i s).td17 = s.td17 := rfl
@[simp] theorem tallyAdd_mode (i : Nat) (s : State) : (tallyAdd i s).mode = s.mode := rfl
@[simp] theorem tallyAdd_regs (i : Nat) (s : State) : (tallyAdd i s).regs = s.regs := rfl
@[simp] theorem tallyAdd_cnt (i : Nat) (s : State) : (tallyAdd i s).cnt = s.cnt := rfl
@[simp] theorem tallyAdd_log (i : Nat) (s : State) : (tallyAdd i s).log = s.log := rfl
@[simp] theorem tallyAdd_disp (i : Nat) (s : State) : (tallyAdd i s).disp = s.disp := rfl
@[simp] theorem tallyAdd_prog (i : Nat) (s : State) : (tallyAdd i s).prog = s.prog := rfl
@[simp] theorem tallyAdd_siv (i : Nat) (s : State) : (tallyAdd i s).siv = s.siv := rfl
@[simp] theorem tallyAdd_bcn (i : Nat) (s : State) : (tallyAdd i s).bcn = s.bcn := rfl
@[simp] theorem tallyAdd_chr (i : Nat) (s : State) : (tallyAdd i s).chr = s.chr := rfl
@[simp] theorem tallyAdd_host (i : Nat) (s : State) : (tallyAdd i s).host = s.host := rfl
@[simp] theorem tallyAdd_med (i : Nat) (s : State) : (tallyAdd i s).med = s.med := rfl
@[simp] theorem tallyAdd_plc (i : Nat) (s : State) : (tallyAdd i s).plc = s.plc := rfl
@[simp] theorem tallyAdd_rte (i : Nat) (s : State) : (tallyAdd i s).rte = s.rte := rfl
@[simp] theorem tallyAdd_pwr (i : Nat) (s : State) : (tallyAdd i s).pwr = s.pwr := rfl
@[simp] theorem tallyAdd_kin (i : Nat) (s : State) : (tallyAdd i s).kin = s.kin := rfl
@[simp] theorem tallyAdd_sec (i : Nat) (s : State) : (tallyAdd i s).sec = s.sec := rfl
@[simp] theorem tallyAdd_drm (i : Nat) (s : State) : (tallyAdd i s).drm = s.drm := rfl
@[simp] theorem tallyAdd_cmp (i : Nat) (s : State) : (tallyAdd i s).cmp = s.cmp := rfl
@[simp] theorem tallyAdd_free (i : Nat) (s : State) : (tallyAdd i s).free = s.free := rfl

/-! setWingPwr changes pwr only. -/

@[simp] theorem setWingPwr_pending (w : Nat) (p : WingPwr) (s : State) : (setWingPwr w p s).pending = s.pending := rfl
@[simp] theorem setWingPwr_cfg (w : Nat) (p : WingPwr) (s : State) : (setWingPwr w p s).cfg = s.cfg := rfl
@[simp] theorem setWingPwr_td17 (w : Nat) (p : WingPwr) (s : State) : (setWingPwr w p s).td17 = s.td17 := rfl
@[simp] theorem setWingPwr_mode (w : Nat) (p : WingPwr) (s : State) : (setWingPwr w p s).mode = s.mode := rfl
@[simp] theorem setWingPwr_regs (w : Nat) (p : WingPwr) (s : State) : (setWingPwr w p s).regs = s.regs := rfl
@[simp] theorem setWingPwr_cnt (w : Nat) (p : WingPwr) (s : State) : (setWingPwr w p s).cnt = s.cnt := rfl
@[simp] theorem setWingPwr_evt (w : Nat) (p : WingPwr) (s : State) : (setWingPwr w p s).evt = s.evt := rfl
@[simp] theorem setWingPwr_log (w : Nat) (p : WingPwr) (s : State) : (setWingPwr w p s).log = s.log := rfl
@[simp] theorem setWingPwr_disp (w : Nat) (p : WingPwr) (s : State) : (setWingPwr w p s).disp = s.disp := rfl
@[simp] theorem setWingPwr_prog (w : Nat) (p : WingPwr) (s : State) : (setWingPwr w p s).prog = s.prog := rfl
@[simp] theorem setWingPwr_siv (w : Nat) (p : WingPwr) (s : State) : (setWingPwr w p s).siv = s.siv := rfl
@[simp] theorem setWingPwr_bcn (w : Nat) (p : WingPwr) (s : State) : (setWingPwr w p s).bcn = s.bcn := rfl
@[simp] theorem setWingPwr_chr (w : Nat) (p : WingPwr) (s : State) : (setWingPwr w p s).chr = s.chr := rfl
@[simp] theorem setWingPwr_host (w : Nat) (p : WingPwr) (s : State) : (setWingPwr w p s).host = s.host := rfl
@[simp] theorem setWingPwr_med (w : Nat) (p : WingPwr) (s : State) : (setWingPwr w p s).med = s.med := rfl
@[simp] theorem setWingPwr_plc (w : Nat) (p : WingPwr) (s : State) : (setWingPwr w p s).plc = s.plc := rfl
@[simp] theorem setWingPwr_rte (w : Nat) (p : WingPwr) (s : State) : (setWingPwr w p s).rte = s.rte := rfl
@[simp] theorem setWingPwr_kin (w : Nat) (p : WingPwr) (s : State) : (setWingPwr w p s).kin = s.kin := rfl
@[simp] theorem setWingPwr_sec (w : Nat) (p : WingPwr) (s : State) : (setWingPwr w p s).sec = s.sec := rfl
@[simp] theorem setWingPwr_drm (w : Nat) (p : WingPwr) (s : State) : (setWingPwr w p s).drm = s.drm := rfl
@[simp] theorem setWingPwr_cmp (w : Nat) (p : WingPwr) (s : State) : (setWingPwr w p s).cmp = s.cmp := rfl
@[simp] theorem setWingPwr_free (w : Nat) (p : WingPwr) (s : State) : (setWingPwr w p s).free = s.free := rfl

/-! setDram changes drm only. -/

@[simp] theorem setDram_pending (w : Nat) (c : DramCh) (s : State) : (setDram w c s).pending = s.pending := rfl
@[simp] theorem setDram_cfg (w : Nat) (c : DramCh) (s : State) : (setDram w c s).cfg = s.cfg := rfl
@[simp] theorem setDram_td17 (w : Nat) (c : DramCh) (s : State) : (setDram w c s).td17 = s.td17 := rfl
@[simp] theorem setDram_mode (w : Nat) (c : DramCh) (s : State) : (setDram w c s).mode = s.mode := rfl
@[simp] theorem setDram_regs (w : Nat) (c : DramCh) (s : State) : (setDram w c s).regs = s.regs := rfl
@[simp] theorem setDram_cnt (w : Nat) (c : DramCh) (s : State) : (setDram w c s).cnt = s.cnt := rfl
@[simp] theorem setDram_evt (w : Nat) (c : DramCh) (s : State) : (setDram w c s).evt = s.evt := rfl
@[simp] theorem setDram_log (w : Nat) (c : DramCh) (s : State) : (setDram w c s).log = s.log := rfl
@[simp] theorem setDram_disp (w : Nat) (c : DramCh) (s : State) : (setDram w c s).disp = s.disp := rfl
@[simp] theorem setDram_prog (w : Nat) (c : DramCh) (s : State) : (setDram w c s).prog = s.prog := rfl
@[simp] theorem setDram_siv (w : Nat) (c : DramCh) (s : State) : (setDram w c s).siv = s.siv := rfl
@[simp] theorem setDram_bcn (w : Nat) (c : DramCh) (s : State) : (setDram w c s).bcn = s.bcn := rfl
@[simp] theorem setDram_chr (w : Nat) (c : DramCh) (s : State) : (setDram w c s).chr = s.chr := rfl
@[simp] theorem setDram_host (w : Nat) (c : DramCh) (s : State) : (setDram w c s).host = s.host := rfl
@[simp] theorem setDram_med (w : Nat) (c : DramCh) (s : State) : (setDram w c s).med = s.med := rfl
@[simp] theorem setDram_plc (w : Nat) (c : DramCh) (s : State) : (setDram w c s).plc = s.plc := rfl
@[simp] theorem setDram_rte (w : Nat) (c : DramCh) (s : State) : (setDram w c s).rte = s.rte := rfl
@[simp] theorem setDram_pwr (w : Nat) (c : DramCh) (s : State) : (setDram w c s).pwr = s.pwr := rfl
@[simp] theorem setDram_kin (w : Nat) (c : DramCh) (s : State) : (setDram w c s).kin = s.kin := rfl
@[simp] theorem setDram_sec (w : Nat) (c : DramCh) (s : State) : (setDram w c s).sec = s.sec := rfl
@[simp] theorem setDram_cmp (w : Nat) (c : DramCh) (s : State) : (setDram w c s).cmp = s.cmp := rfl
@[simp] theorem setDram_free (w : Nat) (c : DramCh) (s : State) : (setDram w c s).free = s.free := rfl

/-! setCmp changes cmp only. -/

@[simp] theorem setCmp_pending (w : Nat) (c : CmpWing) (s : State) : (setCmp w c s).pending = s.pending := rfl
@[simp] theorem setCmp_cfg (w : Nat) (c : CmpWing) (s : State) : (setCmp w c s).cfg = s.cfg := rfl
@[simp] theorem setCmp_td17 (w : Nat) (c : CmpWing) (s : State) : (setCmp w c s).td17 = s.td17 := rfl
@[simp] theorem setCmp_mode (w : Nat) (c : CmpWing) (s : State) : (setCmp w c s).mode = s.mode := rfl
@[simp] theorem setCmp_regs (w : Nat) (c : CmpWing) (s : State) : (setCmp w c s).regs = s.regs := rfl
@[simp] theorem setCmp_cnt (w : Nat) (c : CmpWing) (s : State) : (setCmp w c s).cnt = s.cnt := rfl
@[simp] theorem setCmp_evt (w : Nat) (c : CmpWing) (s : State) : (setCmp w c s).evt = s.evt := rfl
@[simp] theorem setCmp_log (w : Nat) (c : CmpWing) (s : State) : (setCmp w c s).log = s.log := rfl
@[simp] theorem setCmp_disp (w : Nat) (c : CmpWing) (s : State) : (setCmp w c s).disp = s.disp := rfl
@[simp] theorem setCmp_prog (w : Nat) (c : CmpWing) (s : State) : (setCmp w c s).prog = s.prog := rfl
@[simp] theorem setCmp_siv (w : Nat) (c : CmpWing) (s : State) : (setCmp w c s).siv = s.siv := rfl
@[simp] theorem setCmp_bcn (w : Nat) (c : CmpWing) (s : State) : (setCmp w c s).bcn = s.bcn := rfl
@[simp] theorem setCmp_chr (w : Nat) (c : CmpWing) (s : State) : (setCmp w c s).chr = s.chr := rfl
@[simp] theorem setCmp_host (w : Nat) (c : CmpWing) (s : State) : (setCmp w c s).host = s.host := rfl
@[simp] theorem setCmp_med (w : Nat) (c : CmpWing) (s : State) : (setCmp w c s).med = s.med := rfl
@[simp] theorem setCmp_plc (w : Nat) (c : CmpWing) (s : State) : (setCmp w c s).plc = s.plc := rfl
@[simp] theorem setCmp_rte (w : Nat) (c : CmpWing) (s : State) : (setCmp w c s).rte = s.rte := rfl
@[simp] theorem setCmp_pwr (w : Nat) (c : CmpWing) (s : State) : (setCmp w c s).pwr = s.pwr := rfl
@[simp] theorem setCmp_kin (w : Nat) (c : CmpWing) (s : State) : (setCmp w c s).kin = s.kin := rfl
@[simp] theorem setCmp_sec (w : Nat) (c : CmpWing) (s : State) : (setCmp w c s).sec = s.sec := rfl
@[simp] theorem setCmp_drm (w : Nat) (c : CmpWing) (s : State) : (setCmp w c s).drm = s.drm := rfl
@[simp] theorem setCmp_free (w : Nat) (c : CmpWing) (s : State) : (setCmp w c s).free = s.free := rfl

/-! setJob changes cmp only. -/

@[simp] theorem setJob_pending (k : Nat) (j : CmpJob) (s : State) : (setJob k j s).pending = s.pending := rfl
@[simp] theorem setJob_cfg (k : Nat) (j : CmpJob) (s : State) : (setJob k j s).cfg = s.cfg := rfl
@[simp] theorem setJob_td17 (k : Nat) (j : CmpJob) (s : State) : (setJob k j s).td17 = s.td17 := rfl
@[simp] theorem setJob_mode (k : Nat) (j : CmpJob) (s : State) : (setJob k j s).mode = s.mode := rfl
@[simp] theorem setJob_regs (k : Nat) (j : CmpJob) (s : State) : (setJob k j s).regs = s.regs := rfl
@[simp] theorem setJob_cnt (k : Nat) (j : CmpJob) (s : State) : (setJob k j s).cnt = s.cnt := rfl
@[simp] theorem setJob_evt (k : Nat) (j : CmpJob) (s : State) : (setJob k j s).evt = s.evt := rfl
@[simp] theorem setJob_log (k : Nat) (j : CmpJob) (s : State) : (setJob k j s).log = s.log := rfl
@[simp] theorem setJob_disp (k : Nat) (j : CmpJob) (s : State) : (setJob k j s).disp = s.disp := rfl
@[simp] theorem setJob_prog (k : Nat) (j : CmpJob) (s : State) : (setJob k j s).prog = s.prog := rfl
@[simp] theorem setJob_siv (k : Nat) (j : CmpJob) (s : State) : (setJob k j s).siv = s.siv := rfl
@[simp] theorem setJob_bcn (k : Nat) (j : CmpJob) (s : State) : (setJob k j s).bcn = s.bcn := rfl
@[simp] theorem setJob_chr (k : Nat) (j : CmpJob) (s : State) : (setJob k j s).chr = s.chr := rfl
@[simp] theorem setJob_host (k : Nat) (j : CmpJob) (s : State) : (setJob k j s).host = s.host := rfl
@[simp] theorem setJob_med (k : Nat) (j : CmpJob) (s : State) : (setJob k j s).med = s.med := rfl
@[simp] theorem setJob_plc (k : Nat) (j : CmpJob) (s : State) : (setJob k j s).plc = s.plc := rfl
@[simp] theorem setJob_rte (k : Nat) (j : CmpJob) (s : State) : (setJob k j s).rte = s.rte := rfl
@[simp] theorem setJob_pwr (k : Nat) (j : CmpJob) (s : State) : (setJob k j s).pwr = s.pwr := rfl
@[simp] theorem setJob_kin (k : Nat) (j : CmpJob) (s : State) : (setJob k j s).kin = s.kin := rfl
@[simp] theorem setJob_sec (k : Nat) (j : CmpJob) (s : State) : (setJob k j s).sec = s.sec := rfl
@[simp] theorem setJob_drm (k : Nat) (j : CmpJob) (s : State) : (setJob k j s).drm = s.drm := rfl
@[simp] theorem setJob_free (k : Nat) (j : CmpJob) (s : State) : (setJob k j s).free = s.free := rfl

/-! setSeal changes sec only. -/

@[simp] theorem setSeal_pending (e : SealState) (s : State) : (setSeal e s).pending = s.pending := rfl
@[simp] theorem setSeal_cfg (e : SealState) (s : State) : (setSeal e s).cfg = s.cfg := rfl
@[simp] theorem setSeal_td17 (e : SealState) (s : State) : (setSeal e s).td17 = s.td17 := rfl
@[simp] theorem setSeal_mode (e : SealState) (s : State) : (setSeal e s).mode = s.mode := rfl
@[simp] theorem setSeal_regs (e : SealState) (s : State) : (setSeal e s).regs = s.regs := rfl
@[simp] theorem setSeal_cnt (e : SealState) (s : State) : (setSeal e s).cnt = s.cnt := rfl
@[simp] theorem setSeal_evt (e : SealState) (s : State) : (setSeal e s).evt = s.evt := rfl
@[simp] theorem setSeal_log (e : SealState) (s : State) : (setSeal e s).log = s.log := rfl
@[simp] theorem setSeal_disp (e : SealState) (s : State) : (setSeal e s).disp = s.disp := rfl
@[simp] theorem setSeal_prog (e : SealState) (s : State) : (setSeal e s).prog = s.prog := rfl
@[simp] theorem setSeal_siv (e : SealState) (s : State) : (setSeal e s).siv = s.siv := rfl
@[simp] theorem setSeal_bcn (e : SealState) (s : State) : (setSeal e s).bcn = s.bcn := rfl
@[simp] theorem setSeal_chr (e : SealState) (s : State) : (setSeal e s).chr = s.chr := rfl
@[simp] theorem setSeal_host (e : SealState) (s : State) : (setSeal e s).host = s.host := rfl
@[simp] theorem setSeal_med (e : SealState) (s : State) : (setSeal e s).med = s.med := rfl
@[simp] theorem setSeal_plc (e : SealState) (s : State) : (setSeal e s).plc = s.plc := rfl
@[simp] theorem setSeal_rte (e : SealState) (s : State) : (setSeal e s).rte = s.rte := rfl
@[simp] theorem setSeal_pwr (e : SealState) (s : State) : (setSeal e s).pwr = s.pwr := rfl
@[simp] theorem setSeal_kin (e : SealState) (s : State) : (setSeal e s).kin = s.kin := rfl
@[simp] theorem setSeal_drm (e : SealState) (s : State) : (setSeal e s).drm = s.drm := rfl
@[simp] theorem setSeal_cmp (e : SealState) (s : State) : (setSeal e s).cmp = s.cmp := rfl
@[simp] theorem setSeal_free (e : SealState) (s : State) : (setSeal e s).free = s.free := rfl

/-! setDig changes sec only. -/

@[simp] theorem setDig_pending (d : DigState) (s : State) : (setDig d s).pending = s.pending := rfl
@[simp] theorem setDig_cfg (d : DigState) (s : State) : (setDig d s).cfg = s.cfg := rfl
@[simp] theorem setDig_td17 (d : DigState) (s : State) : (setDig d s).td17 = s.td17 := rfl
@[simp] theorem setDig_mode (d : DigState) (s : State) : (setDig d s).mode = s.mode := rfl
@[simp] theorem setDig_regs (d : DigState) (s : State) : (setDig d s).regs = s.regs := rfl
@[simp] theorem setDig_cnt (d : DigState) (s : State) : (setDig d s).cnt = s.cnt := rfl
@[simp] theorem setDig_evt (d : DigState) (s : State) : (setDig d s).evt = s.evt := rfl
@[simp] theorem setDig_log (d : DigState) (s : State) : (setDig d s).log = s.log := rfl
@[simp] theorem setDig_disp (d : DigState) (s : State) : (setDig d s).disp = s.disp := rfl
@[simp] theorem setDig_prog (d : DigState) (s : State) : (setDig d s).prog = s.prog := rfl
@[simp] theorem setDig_siv (d : DigState) (s : State) : (setDig d s).siv = s.siv := rfl
@[simp] theorem setDig_bcn (d : DigState) (s : State) : (setDig d s).bcn = s.bcn := rfl
@[simp] theorem setDig_chr (d : DigState) (s : State) : (setDig d s).chr = s.chr := rfl
@[simp] theorem setDig_host (d : DigState) (s : State) : (setDig d s).host = s.host := rfl
@[simp] theorem setDig_med (d : DigState) (s : State) : (setDig d s).med = s.med := rfl
@[simp] theorem setDig_plc (d : DigState) (s : State) : (setDig d s).plc = s.plc := rfl
@[simp] theorem setDig_rte (d : DigState) (s : State) : (setDig d s).rte = s.rte := rfl
@[simp] theorem setDig_pwr (d : DigState) (s : State) : (setDig d s).pwr = s.pwr := rfl
@[simp] theorem setDig_kin (d : DigState) (s : State) : (setDig d s).kin = s.kin := rfl
@[simp] theorem setDig_drm (d : DigState) (s : State) : (setDig d s).drm = s.drm := rfl
@[simp] theorem setDig_cmp (d : DigState) (s : State) : (setDig d s).cmp = s.cmp := rfl
@[simp] theorem setDig_free (d : DigState) (s : State) : (setDig d s).free = s.free := rfl

/-! setBcnTable changes bcn only. -/

@[simp] theorem setBcnTable_pending (t : Nat) (b : BcnTable) (s : State) : (setBcnTable t b s).pending = s.pending := rfl
@[simp] theorem setBcnTable_cfg (t : Nat) (b : BcnTable) (s : State) : (setBcnTable t b s).cfg = s.cfg := rfl
@[simp] theorem setBcnTable_td17 (t : Nat) (b : BcnTable) (s : State) : (setBcnTable t b s).td17 = s.td17 := rfl
@[simp] theorem setBcnTable_mode (t : Nat) (b : BcnTable) (s : State) : (setBcnTable t b s).mode = s.mode := rfl
@[simp] theorem setBcnTable_regs (t : Nat) (b : BcnTable) (s : State) : (setBcnTable t b s).regs = s.regs := rfl
@[simp] theorem setBcnTable_cnt (t : Nat) (b : BcnTable) (s : State) : (setBcnTable t b s).cnt = s.cnt := rfl
@[simp] theorem setBcnTable_evt (t : Nat) (b : BcnTable) (s : State) : (setBcnTable t b s).evt = s.evt := rfl
@[simp] theorem setBcnTable_log (t : Nat) (b : BcnTable) (s : State) : (setBcnTable t b s).log = s.log := rfl
@[simp] theorem setBcnTable_disp (t : Nat) (b : BcnTable) (s : State) : (setBcnTable t b s).disp = s.disp := rfl
@[simp] theorem setBcnTable_prog (t : Nat) (b : BcnTable) (s : State) : (setBcnTable t b s).prog = s.prog := rfl
@[simp] theorem setBcnTable_siv (t : Nat) (b : BcnTable) (s : State) : (setBcnTable t b s).siv = s.siv := rfl
@[simp] theorem setBcnTable_chr (t : Nat) (b : BcnTable) (s : State) : (setBcnTable t b s).chr = s.chr := rfl
@[simp] theorem setBcnTable_host (t : Nat) (b : BcnTable) (s : State) : (setBcnTable t b s).host = s.host := rfl
@[simp] theorem setBcnTable_med (t : Nat) (b : BcnTable) (s : State) : (setBcnTable t b s).med = s.med := rfl
@[simp] theorem setBcnTable_plc (t : Nat) (b : BcnTable) (s : State) : (setBcnTable t b s).plc = s.plc := rfl
@[simp] theorem setBcnTable_rte (t : Nat) (b : BcnTable) (s : State) : (setBcnTable t b s).rte = s.rte := rfl
@[simp] theorem setBcnTable_pwr (t : Nat) (b : BcnTable) (s : State) : (setBcnTable t b s).pwr = s.pwr := rfl
@[simp] theorem setBcnTable_kin (t : Nat) (b : BcnTable) (s : State) : (setBcnTable t b s).kin = s.kin := rfl
@[simp] theorem setBcnTable_sec (t : Nat) (b : BcnTable) (s : State) : (setBcnTable t b s).sec = s.sec := rfl
@[simp] theorem setBcnTable_drm (t : Nat) (b : BcnTable) (s : State) : (setBcnTable t b s).drm = s.drm := rfl
@[simp] theorem setBcnTable_cmp (t : Nat) (b : BcnTable) (s : State) : (setBcnTable t b s).cmp = s.cmp := rfl
@[simp] theorem setBcnTable_free (t : Nat) (b : BcnTable) (s : State) : (setBcnTable t b s).free = s.free := rfl

/-! setBcnCtx changes bcn only. -/

@[simp] theorem setBcnCtx_pending (q : Nat) (c : BcnCtx) (s : State) : (setBcnCtx q c s).pending = s.pending := rfl
@[simp] theorem setBcnCtx_cfg (q : Nat) (c : BcnCtx) (s : State) : (setBcnCtx q c s).cfg = s.cfg := rfl
@[simp] theorem setBcnCtx_td17 (q : Nat) (c : BcnCtx) (s : State) : (setBcnCtx q c s).td17 = s.td17 := rfl
@[simp] theorem setBcnCtx_mode (q : Nat) (c : BcnCtx) (s : State) : (setBcnCtx q c s).mode = s.mode := rfl
@[simp] theorem setBcnCtx_regs (q : Nat) (c : BcnCtx) (s : State) : (setBcnCtx q c s).regs = s.regs := rfl
@[simp] theorem setBcnCtx_cnt (q : Nat) (c : BcnCtx) (s : State) : (setBcnCtx q c s).cnt = s.cnt := rfl
@[simp] theorem setBcnCtx_evt (q : Nat) (c : BcnCtx) (s : State) : (setBcnCtx q c s).evt = s.evt := rfl
@[simp] theorem setBcnCtx_log (q : Nat) (c : BcnCtx) (s : State) : (setBcnCtx q c s).log = s.log := rfl
@[simp] theorem setBcnCtx_disp (q : Nat) (c : BcnCtx) (s : State) : (setBcnCtx q c s).disp = s.disp := rfl
@[simp] theorem setBcnCtx_prog (q : Nat) (c : BcnCtx) (s : State) : (setBcnCtx q c s).prog = s.prog := rfl
@[simp] theorem setBcnCtx_siv (q : Nat) (c : BcnCtx) (s : State) : (setBcnCtx q c s).siv = s.siv := rfl
@[simp] theorem setBcnCtx_chr (q : Nat) (c : BcnCtx) (s : State) : (setBcnCtx q c s).chr = s.chr := rfl
@[simp] theorem setBcnCtx_host (q : Nat) (c : BcnCtx) (s : State) : (setBcnCtx q c s).host = s.host := rfl
@[simp] theorem setBcnCtx_med (q : Nat) (c : BcnCtx) (s : State) : (setBcnCtx q c s).med = s.med := rfl
@[simp] theorem setBcnCtx_plc (q : Nat) (c : BcnCtx) (s : State) : (setBcnCtx q c s).plc = s.plc := rfl
@[simp] theorem setBcnCtx_rte (q : Nat) (c : BcnCtx) (s : State) : (setBcnCtx q c s).rte = s.rte := rfl
@[simp] theorem setBcnCtx_pwr (q : Nat) (c : BcnCtx) (s : State) : (setBcnCtx q c s).pwr = s.pwr := rfl
@[simp] theorem setBcnCtx_kin (q : Nat) (c : BcnCtx) (s : State) : (setBcnCtx q c s).kin = s.kin := rfl
@[simp] theorem setBcnCtx_sec (q : Nat) (c : BcnCtx) (s : State) : (setBcnCtx q c s).sec = s.sec := rfl
@[simp] theorem setBcnCtx_drm (q : Nat) (c : BcnCtx) (s : State) : (setBcnCtx q c s).drm = s.drm := rfl
@[simp] theorem setBcnCtx_cmp (q : Nat) (c : BcnCtx) (s : State) : (setBcnCtx q c s).cmp = s.cmp := rfl
@[simp] theorem setBcnCtx_free (q : Nat) (c : BcnCtx) (s : State) : (setBcnCtx q c s).free = s.free := rfl

/-! setSiv changes siv only. -/

@[simp] theorem setSiv_pending (ch : Nat) (c : SivCh) (s : State) : (setSiv ch c s).pending = s.pending := rfl
@[simp] theorem setSiv_cfg (ch : Nat) (c : SivCh) (s : State) : (setSiv ch c s).cfg = s.cfg := rfl
@[simp] theorem setSiv_td17 (ch : Nat) (c : SivCh) (s : State) : (setSiv ch c s).td17 = s.td17 := rfl
@[simp] theorem setSiv_mode (ch : Nat) (c : SivCh) (s : State) : (setSiv ch c s).mode = s.mode := rfl
@[simp] theorem setSiv_regs (ch : Nat) (c : SivCh) (s : State) : (setSiv ch c s).regs = s.regs := rfl
@[simp] theorem setSiv_cnt (ch : Nat) (c : SivCh) (s : State) : (setSiv ch c s).cnt = s.cnt := rfl
@[simp] theorem setSiv_evt (ch : Nat) (c : SivCh) (s : State) : (setSiv ch c s).evt = s.evt := rfl
@[simp] theorem setSiv_log (ch : Nat) (c : SivCh) (s : State) : (setSiv ch c s).log = s.log := rfl
@[simp] theorem setSiv_disp (ch : Nat) (c : SivCh) (s : State) : (setSiv ch c s).disp = s.disp := rfl
@[simp] theorem setSiv_prog (ch : Nat) (c : SivCh) (s : State) : (setSiv ch c s).prog = s.prog := rfl
@[simp] theorem setSiv_bcn (ch : Nat) (c : SivCh) (s : State) : (setSiv ch c s).bcn = s.bcn := rfl
@[simp] theorem setSiv_chr (ch : Nat) (c : SivCh) (s : State) : (setSiv ch c s).chr = s.chr := rfl
@[simp] theorem setSiv_host (ch : Nat) (c : SivCh) (s : State) : (setSiv ch c s).host = s.host := rfl
@[simp] theorem setSiv_med (ch : Nat) (c : SivCh) (s : State) : (setSiv ch c s).med = s.med := rfl
@[simp] theorem setSiv_plc (ch : Nat) (c : SivCh) (s : State) : (setSiv ch c s).plc = s.plc := rfl
@[simp] theorem setSiv_rte (ch : Nat) (c : SivCh) (s : State) : (setSiv ch c s).rte = s.rte := rfl
@[simp] theorem setSiv_pwr (ch : Nat) (c : SivCh) (s : State) : (setSiv ch c s).pwr = s.pwr := rfl
@[simp] theorem setSiv_kin (ch : Nat) (c : SivCh) (s : State) : (setSiv ch c s).kin = s.kin := rfl
@[simp] theorem setSiv_sec (ch : Nat) (c : SivCh) (s : State) : (setSiv ch c s).sec = s.sec := rfl
@[simp] theorem setSiv_drm (ch : Nat) (c : SivCh) (s : State) : (setSiv ch c s).drm = s.drm := rfl
@[simp] theorem setSiv_cmp (ch : Nat) (c : SivCh) (s : State) : (setSiv ch c s).cmp = s.cmp := rfl
@[simp] theorem setSiv_free (ch : Nat) (c : SivCh) (s : State) : (setSiv ch c s).free = s.free := rfl

/-! setBlk changes med only. -/

@[simp] theorem setBlk_pending (bk : Nat) (b : DieBlock) (s : State) : (setBlk bk b s).pending = s.pending := rfl
@[simp] theorem setBlk_cfg (bk : Nat) (b : DieBlock) (s : State) : (setBlk bk b s).cfg = s.cfg := rfl
@[simp] theorem setBlk_td17 (bk : Nat) (b : DieBlock) (s : State) : (setBlk bk b s).td17 = s.td17 := rfl
@[simp] theorem setBlk_mode (bk : Nat) (b : DieBlock) (s : State) : (setBlk bk b s).mode = s.mode := rfl
@[simp] theorem setBlk_regs (bk : Nat) (b : DieBlock) (s : State) : (setBlk bk b s).regs = s.regs := rfl
@[simp] theorem setBlk_cnt (bk : Nat) (b : DieBlock) (s : State) : (setBlk bk b s).cnt = s.cnt := rfl
@[simp] theorem setBlk_evt (bk : Nat) (b : DieBlock) (s : State) : (setBlk bk b s).evt = s.evt := rfl
@[simp] theorem setBlk_log (bk : Nat) (b : DieBlock) (s : State) : (setBlk bk b s).log = s.log := rfl
@[simp] theorem setBlk_disp (bk : Nat) (b : DieBlock) (s : State) : (setBlk bk b s).disp = s.disp := rfl
@[simp] theorem setBlk_prog (bk : Nat) (b : DieBlock) (s : State) : (setBlk bk b s).prog = s.prog := rfl
@[simp] theorem setBlk_siv (bk : Nat) (b : DieBlock) (s : State) : (setBlk bk b s).siv = s.siv := rfl
@[simp] theorem setBlk_bcn (bk : Nat) (b : DieBlock) (s : State) : (setBlk bk b s).bcn = s.bcn := rfl
@[simp] theorem setBlk_chr (bk : Nat) (b : DieBlock) (s : State) : (setBlk bk b s).chr = s.chr := rfl
@[simp] theorem setBlk_host (bk : Nat) (b : DieBlock) (s : State) : (setBlk bk b s).host = s.host := rfl
@[simp] theorem setBlk_plc (bk : Nat) (b : DieBlock) (s : State) : (setBlk bk b s).plc = s.plc := rfl
@[simp] theorem setBlk_rte (bk : Nat) (b : DieBlock) (s : State) : (setBlk bk b s).rte = s.rte := rfl
@[simp] theorem setBlk_pwr (bk : Nat) (b : DieBlock) (s : State) : (setBlk bk b s).pwr = s.pwr := rfl
@[simp] theorem setBlk_kin (bk : Nat) (b : DieBlock) (s : State) : (setBlk bk b s).kin = s.kin := rfl
@[simp] theorem setBlk_sec (bk : Nat) (b : DieBlock) (s : State) : (setBlk bk b s).sec = s.sec := rfl
@[simp] theorem setBlk_drm (bk : Nat) (b : DieBlock) (s : State) : (setBlk bk b s).drm = s.drm := rfl
@[simp] theorem setBlk_cmp (bk : Nat) (b : DieBlock) (s : State) : (setBlk bk b s).cmp = s.cmp := rfl
@[simp] theorem setBlk_free (bk : Nat) (b : DieBlock) (s : State) : (setBlk bk b s).free = s.free := rfl

/-! setLink changes rte only. -/

@[simp] theorem setLink_pending (l : Nat) (x : Link) (s : State) : (setLink l x s).pending = s.pending := rfl
@[simp] theorem setLink_cfg (l : Nat) (x : Link) (s : State) : (setLink l x s).cfg = s.cfg := rfl
@[simp] theorem setLink_td17 (l : Nat) (x : Link) (s : State) : (setLink l x s).td17 = s.td17 := rfl
@[simp] theorem setLink_mode (l : Nat) (x : Link) (s : State) : (setLink l x s).mode = s.mode := rfl
@[simp] theorem setLink_regs (l : Nat) (x : Link) (s : State) : (setLink l x s).regs = s.regs := rfl
@[simp] theorem setLink_cnt (l : Nat) (x : Link) (s : State) : (setLink l x s).cnt = s.cnt := rfl
@[simp] theorem setLink_evt (l : Nat) (x : Link) (s : State) : (setLink l x s).evt = s.evt := rfl
@[simp] theorem setLink_log (l : Nat) (x : Link) (s : State) : (setLink l x s).log = s.log := rfl
@[simp] theorem setLink_disp (l : Nat) (x : Link) (s : State) : (setLink l x s).disp = s.disp := rfl
@[simp] theorem setLink_prog (l : Nat) (x : Link) (s : State) : (setLink l x s).prog = s.prog := rfl
@[simp] theorem setLink_siv (l : Nat) (x : Link) (s : State) : (setLink l x s).siv = s.siv := rfl
@[simp] theorem setLink_bcn (l : Nat) (x : Link) (s : State) : (setLink l x s).bcn = s.bcn := rfl
@[simp] theorem setLink_chr (l : Nat) (x : Link) (s : State) : (setLink l x s).chr = s.chr := rfl
@[simp] theorem setLink_host (l : Nat) (x : Link) (s : State) : (setLink l x s).host = s.host := rfl
@[simp] theorem setLink_med (l : Nat) (x : Link) (s : State) : (setLink l x s).med = s.med := rfl
@[simp] theorem setLink_plc (l : Nat) (x : Link) (s : State) : (setLink l x s).plc = s.plc := rfl
@[simp] theorem setLink_pwr (l : Nat) (x : Link) (s : State) : (setLink l x s).pwr = s.pwr := rfl
@[simp] theorem setLink_kin (l : Nat) (x : Link) (s : State) : (setLink l x s).kin = s.kin := rfl
@[simp] theorem setLink_sec (l : Nat) (x : Link) (s : State) : (setLink l x s).sec = s.sec := rfl
@[simp] theorem setLink_drm (l : Nat) (x : Link) (s : State) : (setLink l x s).drm = s.drm := rfl
@[simp] theorem setLink_cmp (l : Nat) (x : Link) (s : State) : (setLink l x s).cmp = s.cmp := rfl
@[simp] theorem setLink_free (l : Nat) (x : Link) (s : State) : (setLink l x s).free = s.free := rfl

/-! send changes rte only. -/

@[simp] theorem send_pending (dest : Nat) (kind : MsgKind) (nums : List Nat) (bytes : List Byte) (grains : List (GrainId × GrainImg)) (s : State) : (send dest kind nums bytes grains s).pending = s.pending := rfl
@[simp] theorem send_cfg (dest : Nat) (kind : MsgKind) (nums : List Nat) (bytes : List Byte) (grains : List (GrainId × GrainImg)) (s : State) : (send dest kind nums bytes grains s).cfg = s.cfg := rfl
@[simp] theorem send_td17 (dest : Nat) (kind : MsgKind) (nums : List Nat) (bytes : List Byte) (grains : List (GrainId × GrainImg)) (s : State) : (send dest kind nums bytes grains s).td17 = s.td17 := rfl
@[simp] theorem send_mode (dest : Nat) (kind : MsgKind) (nums : List Nat) (bytes : List Byte) (grains : List (GrainId × GrainImg)) (s : State) : (send dest kind nums bytes grains s).mode = s.mode := rfl
@[simp] theorem send_regs (dest : Nat) (kind : MsgKind) (nums : List Nat) (bytes : List Byte) (grains : List (GrainId × GrainImg)) (s : State) : (send dest kind nums bytes grains s).regs = s.regs := rfl
@[simp] theorem send_cnt (dest : Nat) (kind : MsgKind) (nums : List Nat) (bytes : List Byte) (grains : List (GrainId × GrainImg)) (s : State) : (send dest kind nums bytes grains s).cnt = s.cnt := rfl
@[simp] theorem send_evt (dest : Nat) (kind : MsgKind) (nums : List Nat) (bytes : List Byte) (grains : List (GrainId × GrainImg)) (s : State) : (send dest kind nums bytes grains s).evt = s.evt := rfl
@[simp] theorem send_log (dest : Nat) (kind : MsgKind) (nums : List Nat) (bytes : List Byte) (grains : List (GrainId × GrainImg)) (s : State) : (send dest kind nums bytes grains s).log = s.log := rfl
@[simp] theorem send_disp (dest : Nat) (kind : MsgKind) (nums : List Nat) (bytes : List Byte) (grains : List (GrainId × GrainImg)) (s : State) : (send dest kind nums bytes grains s).disp = s.disp := rfl
@[simp] theorem send_prog (dest : Nat) (kind : MsgKind) (nums : List Nat) (bytes : List Byte) (grains : List (GrainId × GrainImg)) (s : State) : (send dest kind nums bytes grains s).prog = s.prog := rfl
@[simp] theorem send_siv (dest : Nat) (kind : MsgKind) (nums : List Nat) (bytes : List Byte) (grains : List (GrainId × GrainImg)) (s : State) : (send dest kind nums bytes grains s).siv = s.siv := rfl
@[simp] theorem send_bcn (dest : Nat) (kind : MsgKind) (nums : List Nat) (bytes : List Byte) (grains : List (GrainId × GrainImg)) (s : State) : (send dest kind nums bytes grains s).bcn = s.bcn := rfl
@[simp] theorem send_chr (dest : Nat) (kind : MsgKind) (nums : List Nat) (bytes : List Byte) (grains : List (GrainId × GrainImg)) (s : State) : (send dest kind nums bytes grains s).chr = s.chr := rfl
@[simp] theorem send_host (dest : Nat) (kind : MsgKind) (nums : List Nat) (bytes : List Byte) (grains : List (GrainId × GrainImg)) (s : State) : (send dest kind nums bytes grains s).host = s.host := rfl
@[simp] theorem send_med (dest : Nat) (kind : MsgKind) (nums : List Nat) (bytes : List Byte) (grains : List (GrainId × GrainImg)) (s : State) : (send dest kind nums bytes grains s).med = s.med := rfl
@[simp] theorem send_plc (dest : Nat) (kind : MsgKind) (nums : List Nat) (bytes : List Byte) (grains : List (GrainId × GrainImg)) (s : State) : (send dest kind nums bytes grains s).plc = s.plc := rfl
@[simp] theorem send_pwr (dest : Nat) (kind : MsgKind) (nums : List Nat) (bytes : List Byte) (grains : List (GrainId × GrainImg)) (s : State) : (send dest kind nums bytes grains s).pwr = s.pwr := rfl
@[simp] theorem send_kin (dest : Nat) (kind : MsgKind) (nums : List Nat) (bytes : List Byte) (grains : List (GrainId × GrainImg)) (s : State) : (send dest kind nums bytes grains s).kin = s.kin := rfl
@[simp] theorem send_sec (dest : Nat) (kind : MsgKind) (nums : List Nat) (bytes : List Byte) (grains : List (GrainId × GrainImg)) (s : State) : (send dest kind nums bytes grains s).sec = s.sec := rfl
@[simp] theorem send_drm (dest : Nat) (kind : MsgKind) (nums : List Nat) (bytes : List Byte) (grains : List (GrainId × GrainImg)) (s : State) : (send dest kind nums bytes grains s).drm = s.drm := rfl
@[simp] theorem send_cmp (dest : Nat) (kind : MsgKind) (nums : List Nat) (bytes : List Byte) (grains : List (GrainId × GrainImg)) (s : State) : (send dest kind nums bytes grains s).cmp = s.cmp := rfl
@[simp] theorem send_free (dest : Nat) (kind : MsgKind) (nums : List Nat) (bytes : List Byte) (grains : List (GrainId × GrainImg)) (s : State) : (send dest kind nums bytes grains s).free = s.free := rfl

/-! setSlot changes prog only. -/

@[simp] theorem setSlot_pending (i : Nat) (x : ProgSlot) (s : State) : (setSlot i x s).pending = s.pending := rfl
@[simp] theorem setSlot_cfg (i : Nat) (x : ProgSlot) (s : State) : (setSlot i x s).cfg = s.cfg := rfl
@[simp] theorem setSlot_td17 (i : Nat) (x : ProgSlot) (s : State) : (setSlot i x s).td17 = s.td17 := rfl
@[simp] theorem setSlot_mode (i : Nat) (x : ProgSlot) (s : State) : (setSlot i x s).mode = s.mode := rfl
@[simp] theorem setSlot_regs (i : Nat) (x : ProgSlot) (s : State) : (setSlot i x s).regs = s.regs := rfl
@[simp] theorem setSlot_cnt (i : Nat) (x : ProgSlot) (s : State) : (setSlot i x s).cnt = s.cnt := rfl
@[simp] theorem setSlot_evt (i : Nat) (x : ProgSlot) (s : State) : (setSlot i x s).evt = s.evt := rfl
@[simp] theorem setSlot_log (i : Nat) (x : ProgSlot) (s : State) : (setSlot i x s).log = s.log := rfl
@[simp] theorem setSlot_disp (i : Nat) (x : ProgSlot) (s : State) : (setSlot i x s).disp = s.disp := rfl
@[simp] theorem setSlot_siv (i : Nat) (x : ProgSlot) (s : State) : (setSlot i x s).siv = s.siv := rfl
@[simp] theorem setSlot_bcn (i : Nat) (x : ProgSlot) (s : State) : (setSlot i x s).bcn = s.bcn := rfl
@[simp] theorem setSlot_chr (i : Nat) (x : ProgSlot) (s : State) : (setSlot i x s).chr = s.chr := rfl
@[simp] theorem setSlot_host (i : Nat) (x : ProgSlot) (s : State) : (setSlot i x s).host = s.host := rfl
@[simp] theorem setSlot_med (i : Nat) (x : ProgSlot) (s : State) : (setSlot i x s).med = s.med := rfl
@[simp] theorem setSlot_plc (i : Nat) (x : ProgSlot) (s : State) : (setSlot i x s).plc = s.plc := rfl
@[simp] theorem setSlot_rte (i : Nat) (x : ProgSlot) (s : State) : (setSlot i x s).rte = s.rte := rfl
@[simp] theorem setSlot_pwr (i : Nat) (x : ProgSlot) (s : State) : (setSlot i x s).pwr = s.pwr := rfl
@[simp] theorem setSlot_kin (i : Nat) (x : ProgSlot) (s : State) : (setSlot i x s).kin = s.kin := rfl
@[simp] theorem setSlot_sec (i : Nat) (x : ProgSlot) (s : State) : (setSlot i x s).sec = s.sec := rfl
@[simp] theorem setSlot_drm (i : Nat) (x : ProgSlot) (s : State) : (setSlot i x s).drm = s.drm := rfl
@[simp] theorem setSlot_cmp (i : Nat) (x : ProgSlot) (s : State) : (setSlot i x s).cmp = s.cmp := rfl
@[simp] theorem setSlot_free (i : Nat) (x : ProgSlot) (s : State) : (setSlot i x s).free = s.free := rfl

/-! setFnMode changes chr only. -/

@[simp] theorem setFnMode_pending (f : Nat) (m : FnMode) (s : State) : (setFnMode f m s).pending = s.pending := rfl
@[simp] theorem setFnMode_cfg (f : Nat) (m : FnMode) (s : State) : (setFnMode f m s).cfg = s.cfg := rfl
@[simp] theorem setFnMode_td17 (f : Nat) (m : FnMode) (s : State) : (setFnMode f m s).td17 = s.td17 := rfl
@[simp] theorem setFnMode_mode (f : Nat) (m : FnMode) (s : State) : (setFnMode f m s).mode = s.mode := rfl
@[simp] theorem setFnMode_regs (f : Nat) (m : FnMode) (s : State) : (setFnMode f m s).regs = s.regs := rfl
@[simp] theorem setFnMode_cnt (f : Nat) (m : FnMode) (s : State) : (setFnMode f m s).cnt = s.cnt := rfl
@[simp] theorem setFnMode_evt (f : Nat) (m : FnMode) (s : State) : (setFnMode f m s).evt = s.evt := rfl
@[simp] theorem setFnMode_log (f : Nat) (m : FnMode) (s : State) : (setFnMode f m s).log = s.log := rfl
@[simp] theorem setFnMode_disp (f : Nat) (m : FnMode) (s : State) : (setFnMode f m s).disp = s.disp := rfl
@[simp] theorem setFnMode_prog (f : Nat) (m : FnMode) (s : State) : (setFnMode f m s).prog = s.prog := rfl
@[simp] theorem setFnMode_siv (f : Nat) (m : FnMode) (s : State) : (setFnMode f m s).siv = s.siv := rfl
@[simp] theorem setFnMode_bcn (f : Nat) (m : FnMode) (s : State) : (setFnMode f m s).bcn = s.bcn := rfl
@[simp] theorem setFnMode_host (f : Nat) (m : FnMode) (s : State) : (setFnMode f m s).host = s.host := rfl
@[simp] theorem setFnMode_med (f : Nat) (m : FnMode) (s : State) : (setFnMode f m s).med = s.med := rfl
@[simp] theorem setFnMode_plc (f : Nat) (m : FnMode) (s : State) : (setFnMode f m s).plc = s.plc := rfl
@[simp] theorem setFnMode_rte (f : Nat) (m : FnMode) (s : State) : (setFnMode f m s).rte = s.rte := rfl
@[simp] theorem setFnMode_pwr (f : Nat) (m : FnMode) (s : State) : (setFnMode f m s).pwr = s.pwr := rfl
@[simp] theorem setFnMode_kin (f : Nat) (m : FnMode) (s : State) : (setFnMode f m s).kin = s.kin := rfl
@[simp] theorem setFnMode_sec (f : Nat) (m : FnMode) (s : State) : (setFnMode f m s).sec = s.sec := rfl
@[simp] theorem setFnMode_drm (f : Nat) (m : FnMode) (s : State) : (setFnMode f m s).drm = s.drm := rfl
@[simp] theorem setFnMode_cmp (f : Nat) (m : FnMode) (s : State) : (setFnMode f m s).cmp = s.cmp := rfl
@[simp] theorem setFnMode_free (f : Nat) (m : FnMode) (s : State) : (setFnMode f m s).free = s.free := rfl

/-! What is set reads back, and every other key is untouched. -/

theorem getWing_setWing (k : Nat) (v : WingDisp) (s : State) (h : Tbl.rising s.disp.wings = true) : getWing (setWing k v s) k = v := by
  simp [getWing, setWing, get_put h]

theorem getWing_setWing_ne (k i : Nat) (v : WingDisp) (s : State) (h : k ≠ i) : getWing (setWing k v s) i = getWing s i :=
  get_put_ne h

theorem getCore_setCore (k : Nat) (v : Core) (s : State) (h : Tbl.rising s.disp.cores = true) : getCore (setCore k v s) k = v := by
  simp [getCore, setCore, get_put h]

theorem getCore_setCore_ne (k i : Nat) (v : Core) (s : State) (h : k ≠ i) : getCore (setCore k v s) i = getCore s i :=
  get_put_ne h

theorem getCtrl_setCtrl (k : Nat) (v : Ctrl) (s : State) (h : Tbl.rising s.host.ctrls = true) : getCtrl (setCtrl k v s) k = v := by
  simp [getCtrl, setCtrl, get_put h]

theorem getCtrl_setCtrl_ne (k i : Nat) (v : Ctrl) (s : State) (h : k ≠ i) : getCtrl (setCtrl k v s) i = getCtrl s i :=
  get_put_ne h

theorem getDram_setDram (k : Nat) (v : DramCh) (s : State) (h : Tbl.rising s.drm.chans = true) : getDram (setDram k v s) k = v := by
  simp [getDram, setDram, get_put h]

theorem getDram_setDram_ne (k i : Nat) (v : DramCh) (s : State) (h : k ≠ i) : getDram (setDram k v s) i = getDram s i :=
  get_put_ne h

theorem getSiv_setSiv (k : Nat) (v : SivCh) (s : State) (h : Tbl.rising s.siv = true) : getSiv (setSiv k v s) k = v := by
  simp [getSiv, setSiv, get_put h]

theorem getSiv_setSiv_ne (k i : Nat) (v : SivCh) (s : State) (h : k ≠ i) : getSiv (setSiv k v s) i = getSiv s i :=
  get_put_ne h

theorem getBlk_setBlk (k : Nat) (v : DieBlock) (s : State) (h : Tbl.rising s.med.blocks = true) : getBlk (setBlk k v s) k = v := by
  simp [getBlk, setBlk, get_put h]

theorem getBlk_setBlk_ne (k i : Nat) (v : DieBlock) (s : State) (h : k ≠ i) : getBlk (setBlk k v s) i = getBlk s i :=
  get_put_ne h

theorem wingPwr_setWingPwr (k : Nat) (v : WingPwr) (s : State) (h : Tbl.rising s.pwr.wings = true) : wingPwr (setWingPwr k v s) k = v := by
  simp [wingPwr, setWingPwr, get_put h]

theorem wingPwr_setWingPwr_ne (k i : Nat) (v : WingPwr) (s : State) (h : k ≠ i) : wingPwr (setWingPwr k v s) i = wingPwr s i :=
  get_put_ne h

@[simp] theorem getTask_setTask (k : Nat) (v : Task) (s : State) : getTask (setTask k v s) k = some v := by
  simp [getTask, setTask, find_insert]

theorem getTask_setTask_ne (k i : Nat) (v : Task) (s : State) (h : k ≠ i) : getTask (setTask k v s) i = getTask s i := by
  simp [getTask, setTask, find_insert, h]

end Sys2Proof.Machine
end

