-- ==== Sys2Proof/Laws/Yusil.lean ====
section
/-! SUPPORT. What running a Yusil instruction comes to once its operands are read. -/

namespace Sys2Proof.Machine

/-- An instruction whose operands resolve with no fault comes to its operation's outcome. -/
theorem yRun_of_reads {op : YOp} {use : YInstr → DestUse}
    {f : State → Nat → Task → YInstr → YRegs → Nat → Nat → Option Loc → YOut} {k key : Nat} {miss : Bool} {s s2 : State} {t : Task} {i : YInstr}
    {r : YRegs} {a b : Nat} {la lb ld : Option Loc} (ho : i.op = op) (h : YReads s k key t i (use i) r a b la lb ld s2) :
    yRun op use f k miss s =
      finish k key t i ld (operandAccesses la lb ld (use i) i.brief) miss s (f s2 key t i r a b ld) := by
  obtain ⟨⟨hr, ht, hd, hc⟩, hop, ⟨s1, h1, h2⟩, -⟩ := h
  unfold yRun
  simp only [hr, ht, hd, ho, ne_eq, not_true_eq_false, if_false, hc, Bool.false_eq_true]
  simp only [hop, h1, h2]

/-- An outcome whose reads meet no poisoned line is carried out. -/
theorem finish_of_clean {k key : Nat} {t : Task} {i : YInstr} {d : Option Loc} {a : Accesses} {miss : Bool} {s : State} {o : YOut}
    (h : (a.reads ++ outReads o).any (fun x => readPoisoned s x 1) = false) :
    finish k key t i d a miss s o = finishOut k key t i d a miss s o := by
  unfold finish
  rw [if_neg (by simp [h])]

/-- An outcome that reads nothing beside the operands is carried out. -/
theorem finish_of_reads {use : YInstr → DestUse} {k key : Nat} {miss : Bool} {s s2 : State} {t : Task} {i : YInstr} {r : YRegs} {a b : Nat}
    {la lb ld : Option Loc} {o : YOut} (h : YReads s k key t i (use i) r a b la lb ld s2) (hn : outReads o = []) :
    finish k key t i ld (operandAccesses la lb ld (use i) i.brief) miss s o =
      finishOut k key t i ld (operandAccesses la lb ld (use i) i.brief) miss s o :=
  finish_of_clean (by rw [hn, List.append_nil]; exact h.2.2.2)

/-- Completing with no result retires. -/
theorem complete_none (k key : Nat) (t : Task) (i : YInstr) (d : Option Loc) (a : Accesses) (miss : Bool) (s : State) (r : YRegs) (next : Nat) :
    complete k key t i d a miss s r none next false = retires k key t i a miss r next s := rfl

/-- Completing with a transfer transfers. -/
theorem complete_transfer (k key : Nat) (t : Task) (i : YInstr) (d : Option Loc) (a : Accesses) (miss : Bool) (s : State) (r : YRegs) (next : Nat) :
    complete k key t i d a miss s r none next true = transfers k key t i a miss r next s := rfl

end Sys2Proof.Machine
end

