-- ==== Sys2Proof/Machine/Layout.lean ====
section
/-! DEFINITION. The bytes of what State holds as data: map blocks, directory, pages, journal records, grains as the compressor and the XTS
engine take them, pins, and the configuration space (chapters 2, 11, 12, 16 and 21). -/

namespace Sys2Proof.Machine

/-! The map and the directory in DRAM (R63, R67, R70, R748). -/

/-- A map entry as it is stored: 6 bytes, little-endian (R63). -/
def mapEntryBytes (e : Nat) : List Byte := leBytes 6 e

/-- A map block: 4,096 entries in grain order, 24,576 bytes (R67). -/
def mapBlockBytes (s : State) (nsid bale : Nat) : List Byte := (List.range 4096).flatMap (fun g => mapEntryBytes (mapEntry s (mapKey nsid bale g)))

/-- The module DRAM address of a map entry: in the map block of its bale (R67, R70). -/
def entryAddr (d : DirEntry) (grain : Nat) : Nat := 0x400000000 * d.wing + mapBlockAddr d.blockIx + 6 * grain

/-- The 16 bytes of a directory entry (R70). -/
def dirBytes (s : State) (nsid bale : Nat) : List Byte := leBytes 16 (dirWord nsid bale (dirEntry s nsid bale))

/-- The module DRAM address of a directory entry, and the channel and channel offset it lies at: the directory share is a privileged interleaved
region (R70, R747, R748). The order of the entries is not stated: `Config.dirIndex` (log entry 95). -/
def dirAddr (nsid bale : Nat) : Nat := 0x4000000000 + 0x88000000 + 16 * Config.dirIndex nsid bale
def dirPlace (nsid bale : Nat) : Nat × Nat :=
  let i := 16 * Config.dirIndex nsid bale
  (i / 4096 % 8, 0x88000000 + i / 32768 * 4096 + i % 4096)

/-! Grains as the compressor and the XTS engine take them (R104 to R107, R477, R696, R697). -/

/-- The metadata bytes of the blocks of a namespace. -/
def nsMd (s : State) (nsid : Nat) : Nat := ((nsInfo s nsid).map mdSize).getD 0

/-- First logical block of a grain (R62). -/
def grainLba (g : GrainId) : Nat := 16384 * g.bale + 4 * g.grain

/-- A block of a grain in clear: zeros where its PRESENT bit is clear. -/
def clearBlock (img : GrainImg) (i : Nat) : List Byte := if bitOf img.present i then Memory.readBytes img.data (4096 * i) 4096 else zeroBytes 4096

/-- The compressor's input for a grain: its data bytes, then its metadata (R104). -/
def packInput (s : State) (g : GrainId) (img : GrainImg) : List Byte :=
  (List.range 4).flatMap (clearBlock img) ++
    (List.range 4).flatMap (fun i => if bitOf img.present i then Memory.readBytes img.md (64 * i) (nsMd s g.nsid) else zeroBytes (nsMd s g.nsid))

/-- The frame that the compressor makes of a grain: one block, no checksum (R477, R480). -/
def grainFrame (s : State) (g : GrainId) (img : GrainImg) : List Byte :=
  let b := packInput s g img
  frameOf b.length false [b]

/-- A packed grain on its page: compressed, padded to its KiB, and then encrypted as one data unit (R106, R107, R696). -/
def packedBytes (s : State) (i : PackedItem) : List Byte :=
  xtsEnc (nsKeys s i.id.nsid i.img.gen) (2 ^ 65 + grainLba i.id) (fitBytes (1024 * i.len) (grainFrame s i.id i.img))

/-- What a read of a packed grain gives: decrypted, and then decompressed by the channel's sieve in pass-through mode (R107). None where that
fails or gives another length than 16,384 plus the namespace's metadata (R236). -/
def unpackBytes (s : State) (g : GrainId) (bytes : List Byte) : Option (List Byte) :=
  match grainFrames (xtsDec (nsKeys s g.nsid (nsGeneration s g.nsid)) (2 ^ 65 + grainLba g) bytes) with
  | .ok b => if b.length = 16384 + 4 * nsMd s g.nsid then some b else none
  | _ => none

/-! Pages (R60, R61, R106, R152). -/

/-- The KIND of a page header; none for a page that a power loss cut short. -/
def pageKind : PageBody → Option Nat
  | .raw _ _ => some 1
  | .packed _ => some 2
  | .ckpt _ => some 3
  | .parity _ => some 4
  | .pad => some 5
  | .torn => none

/-- The 64 bytes of a page header, the last four the CRC-32C of the others (R61). -/
def pageHeader (p : Page) : List Byte :=
  let id : List Byte := match p.body with
    | .raw g _ => leBytes 4 g.nsid ++ leBytes 4 g.bale ++ leBytes 2 g.grain
    | _ => zeroBytes 10
  let h := leBytes 1 ((pageKind p.body).getD 0) ++ leBytes 1 p.band ++ zeroBytes 2 ++ id ++ zeroBytes 2 ++ leBytes 8 p.stamp ++ zeroBytes 36
  h ++ leBytes 4 (crc32c h)

/-- An entry of the packed-grain directory (R106). -/
def packedDirEntry (i : PackedItem) : List Byte :=
  leBytes 4 i.id.nsid ++ leBytes 4 i.id.bale ++ leBytes 2 i.id.grain ++ leBytes 1 i.off ++ leBytes 1 i.len ++ leBytes 1 i.img.present ++ zeroBytes 3

/-- The bytes of a segment: 512 entries of a map, or 192 entries of the directory (R83). -/
def segBytes (c : SegCopy) : List Byte :=
  if c.dir then (List.range 192).flatMap (fun i => leBytes 16 (Tbl.get 0 c.entries (192 * c.seg + i)))
  else (List.range 512).flatMap (fun i => mapEntryBytes (Tbl.get 0 c.entries (512 * c.seg + i)))

/-- The 32-byte header of a segment: its identity and capture sequence. Their places are not stated: `Config.segHeader` (log entry 95). -/
def segHead (c : SegCopy) : List Byte := fitBytes 32 (Config.segHeader c.dir c.nsid c.bale c.seg c.cap)

/-- The 16,384 data bytes that a slot has, and bytes 0 to 255 of its spare area: what XOR parity covers beside the header (R60, R152, R696). -/
def termData (s : State) : TermBody → List Byte × List Byte
  | .raw g img =>
    let k := nsKeys s g.nsid img.gen
    ((List.range 4).flatMap (fun i => xtsEnc k (grainLba g + i) (clearBlock img i)),
     if nsMd s g.nsid = 0 then zeroBytes 256
     else xtsEnc k (2 ^ 64 + grainLba g) ((List.range 4).flatMap (fun i =>
       if bitOf img.present i then Memory.readBytes img.md (64 * i) 64 else zeroBytes 64)))
  | .packed items =>
    (items.foldl (fun b i => spliceAt b (1024 * i.off) (packedBytes s i)) (zeroBytes 16384), fitBytes 256 (items.flatMap packedDirEntry))
  | .pad => (zeroBytes 16384, zeroBytes 256)

/-- The data bytes of a page and bytes 0 to 255 of its spare area. Checkpoint and parity pages are not encrypted (R697). -/
def pageData (s : State) : PageBody → List Byte × List Byte
  | .raw g img => termData s (.raw g img)
  | .packed items => termData s (.packed items)
  | .ckpt segs => (fitBytes 16384 (segs.flatMap segBytes), fitBytes 256 (segs.flatMap segHead))
  | .parity terms =>
    terms.foldl (fun x t => let d := termData s t.2; (xorBytes x.1 d.1, xorBytes x.2 d.2)) (zeroBytes 16384, zeroBytes 256)
  | .pad => (zeroBytes 16384, zeroBytes 256)
  | .torn => (zeroBytes 16384, zeroBytes 256)

/-- The 2,048-byte spare area of a page: its content, the header, and LDPC parity over the data and both. The code is not stated:
`Config.ldpc` (R60; log entry 95). -/
def pageSpare (s : State) (p : Page) : List Byte :=
  let d := pageData s p.body
  let front := d.2 ++ pageHeader p
  front ++ fitBytes 1728 (Config.ldpc (d.1 ++ front))

/-- A page as it lies on the die: 16,384 bytes and the spare area; of a page that a power loss cut short nothing can be read (R60, R139). -/
def pageImage (s : State) (p : Page) : Option (List Byte × List Byte) := (pageKind p.body).map (fun _ => ((pageData s p.body).1, pageSpare s p))

/-! Journal records (R76, R77). -/

/-- The TYPE of a record; every other value is reserved. -/
def recordType : JBody → Nat
  | .mapSet .. => 0x01
  | .mapMove .. => 0x02
  | .mapTrim .. => 0x03
  | .blockState .. => 0x04
  | .baleDir _ => 0x05
  | .ckptBegin _ => 0x06
  | .ckptMark .. => 0x07
  | .planeRemap .. => 0x08

/-- A bale key: NSID, bale, count. -/
def recordKey (nsid bale n : Nat) : List Byte := leBytes 4 nsid ++ leBytes 4 bale ++ leBytes 2 n ++ zeroBytes 6

/-- The payload of a record (R77). -/
def recordPayload : JBody → List Byte
  | .mapSet n b items => recordKey n b items.length ++ items.flatMap (fun i => leBytes 8 (i.2 % 2 ^ 48 + 2 ^ 48 * i.1))
  | .mapMove n b items => recordKey n b items.length ++ items.flatMap (fun i => mapEntryBytes i.2.1 ++ mapEntryBytes i.2.2 ++ leBytes 2 i.1 ++ zeroBytes 2)
  | .mapTrim n b first count => leBytes 4 n ++ leBytes 4 b ++ leBytes 2 first ++ leBytes 2 count ++ zeroBytes 4
  | .blockState port block role old new erases =>
    leBytes 2 port ++ leBytes 2 block ++ leBytes 1 role.code ++ leBytes 1 old.code ++ leBytes 1 new.code ++ zeroBytes 1 ++ leBytes 2 erases ++ zeroBytes 6
  | .baleDir w => leBytes 16 w
  | .ckptBegin n => leBytes 8 n ++ zeroBytes 8
  | .ckptMark n start => leBytes 8 n ++ leBytes 8 start
  | .planeRemap port plane block phys => leBytes 2 port ++ leBytes 1 plane ++ zeroBytes 1 ++ leBytes 2 block ++ leBytes 2 phys ++ zeroBytes 8

/-- A record as it is written: the 16-byte header with the CRC-32C of the whole record, the payload, and zeros to a multiple of 16 (R76). -/
def recordImage (r : JRec) : List Byte :=
  let n := jrnSize r.body
  let head := leBytes 1 (recordType r.body) ++ leBytes 1 (n / 16) ++ leBytes 2 r.source ++ leBytes 8 r.seq
  let rest := fitBytes (n - 16) (recordPayload r.body)
  head ++ leBytes 4 (crc32c (head ++ zeroBytes 4 ++ rest)) ++ rest

/-! Reads and programs by temperature band (R110). -/

/-- The retry table of a read of a die block: 5 × its band at opening + the present band of its package. -/
def retryTable (s : State) (bk : Nat) : Nat := 5 * (getBlk s bk).band + portBand s (blkPort bk)

/-- The program trim set of a port: that of the present band. -/
def programTrim (s : State) (port : Nat) : Nat := portBand s port

/-! The compressor's two ports (R497). -/

/-- Eighths of a compressor's input rate that packed grains and program jobs get: packed grains come first, jobs take at least PROG_SHARE while
one has a piece waiting, and what one port leaves the other has. -/
def portShares (s : State) (w : Nat) (grains jobs : Bool) : Nat × Nat :=
  if grains ∧ jobs then (8 - (getCmp s w).progShare, (getCmp s w).progShare) else (if grains then 8 else 0, if jobs then 8 else 0)

/-- The job of a compressor that is served after another: the jobs with a piece waiting in rotation, one piece at a time. -/
def nextJob (waiting : List Nat) (last : Nat) : Option Nat :=
  match waiting.find? (fun k => decide (last < k)) with
  | some k => some k
  | none => waiting.head?

/-! Pins that follow from the state (R876 to R878, R887). -/

/-- CLKREQ# is held low from the start of Kindling on and never released; an unpowered module drives nothing (R878). -/
def clkreqLow (s : State) : Bool := decide (s.mode.mode ≠ .dark)

/-- PRSNT# is tied to GND (R876, R877). -/
def prsntLow : Bool := true

/-- SVC_UART_TX is idle high, and SVC_UART_RX is ignored, until the debug port is unlocked (R551, R889). -/
def uartIdle (s : State) : Bool := s.host.debugBy.isNone

/-- Link l is Failed or Refused. -/
def linkStuck (s : State) (l : Nat) : Bool := decide ((getLink s l).state = .failed ∨ (getLink s l).state = .refused)

/-- The module drives LINK_SB of a link low: before Kindling step 4, after its leave as Extinguished is announced, which its ember flush ends
with, and while the link is Failed or Refused. Unpowered it is high-impedance (R887). -/
def linkSbDrive (s : State) (l : Nat) : Bool :=
  match s.mode.mode with
  | .dark => false
  | .kindling => !s.kin.done.contains 3 || linkStuck s l
  | .extinguished => s.med.flush.isNone || linkStuck s l
  | .lit => linkStuck s l

/-- LINK_SB of a link reads low: one end drives it. `sideband` is what the other end drives. -/
def linkSbLow (s : State) (l : Nat) : Bool := linkSbDrive s l || (getLink s l).sideband

/-! The configuration space (R502, R503, R505, R506, R508, R509, R511, R512). -/

/-- The Revision ID: the stepping, letter in bits 7:4 (A = 1), digit in bits 3:0. This is stepping B1. -/
def revisionId : Nat := 0x21

/-- A double word of a function's configuration header (R502, R509), at the places that PCI gives the fields. The subsystem IDs of a VF are the
PF's. BAR0 of the PF is 64-bit and not prefetchable, and no other BAR is implemented; a VF's is in the SR-IOV capability. -/
def configRead (s : State) (fn o : Nat) : Nat :=
  match o with
  | 0x00 => if fn = 0 then pack [(0x1F3C, 0, 16), (0x9100, 16, 16)] else 0xFFFFFFFF
  | 0x08 => pack [(revisionId, 0, 8), (0x010802, 8, 24)]
  | 0x10 => if fn = 0 then 4 else 0
  | 0x2C => pack [(0x1F3C, 0, 16), (subsysId s, 16, 16)]
  | _ => 0

/-- Size of a function's BAR0 (R509). -/
def bar0Size (fn : Nat) : Nat := if fn = 0 then 16 * 2 ^ 20 else 32 * 2 ^ 10

/-- A double word of the SR-IOV capability, at the places that PCI gives the fields (R508, R511): VF Enable and VF Memory Space Enable as one,
InitialVFs and TotalVFs, NumVFs, First VF Offset and VF Stride, VF Device ID, Supported Page Sizes, VF BAR0 and no VF migration. -/
def sriovRead (s : State) (o : Nat) : Nat :=
  match o with
  | 0x08 => b2n s.host.vfEnable
  | 0x0C => pack [(totalVfs s, 0, 16), (totalVfs s, 16, 16)]
  | 0x10 => s.host.numVfs
  | 0x14 => pack [(1, 0, 16), (1, 16, 16)]
  | 0x18 => 0x9101 * 2 ^ 16
  | 0x1C => 1
  | 0x24 => 4
  | _ => 0

/-- A function's MSI-X capability after its header: the table's size less 1, and where BAR0 has the table and the pending bits (R509). -/
def msixRead (fn o : Nat) : Nat :=
  match o with
  | 0x00 => (if fn = 0 then 2047 else 63) * 2 ^ 16
  | 0x04 => if fn = 0 then 0xC0000 else 0x4000
  | 0x08 => if fn = 0 then 0xC8000 else 0x5000
  | _ => 0

/-- The Power Management Control/Status register of a function: PowerState D0 or D3hot, No_Soft_Reset 1 (R506). -/
def pmcsr (s : State) (fn : Nat) : Nat := pack [(if (getCtrl s fn).d3 then 3 else 0, 0, 2), (1, 3, 1)]

/-- Link Capabilities: ASPM L1 is advertised when the Light List permits it, and then with L1 Exit Latency 100b; L0s never is (R505, R508). -/
def linkCaps (s : State) : Nat :=
  let l1 := llByte s 8 0 0 % 2
  pack [(6, 0, 4), (8, 4, 6), (2 * l1, 10, 2), (4, 15, 3)]

/-- The bus and function number of a function under ARI: four bus numbers, from that of the PF on (R511, R512). -/
def routingId (base fn : Nat) : Nat × Nat := (base + fn / 256, fn % 256)

/-- Bus numbers that the functions need while so many VFs are enabled: one up to 255 VFs (R512). -/
def busCount (vfs : Nat) : Nat := vfs / 256 + 1

end Sys2Proof.Machine
end

