-- ==== Sys2Proof/WellFormed.lean ====
section
/-! DEFINITION. Which commands are well formed: operands whose type is wider than what they name are in range. -/

namespace Sys2Proof

/-- The names of a command fit their fields of a completion. -/
def CmdRef.ok (r : CmdRef) : Bool := decide (r.fn < 1024 ∧ r.sq < 65536 ∧ r.cid < 65536)

/-- The fields of a submission queue entry fit their widths. -/
def Sqe.ok (e : Sqe) : Bool :=
  decide (e.opc < 256 ∧ e.fuse < 4 ∧ e.cid < 65536 ∧ e.nsid < 2 ^ 32 ∧ e.prp1 < 2 ^ 64) &&
    [e.cdw10, e.cdw11, e.cdw12, e.cdw13, e.cdw14, e.cdw15].all (fun d => decide (d < 2 ^ 32))

/-- A grain that a station sends: four blocks, each written or not (R63, R64). -/
def GrainMsg.ok (g : GrainMsg) : Bool := decide (g.nsid < 2 ^ 32 ∧ g.bits < 16)

/-- The offset of a slot of a unit register or of an array word in PF BAR0 (R899 to R901). -/
def slotOk (off : Nat) : Bool := decide (off % 8 = 0 ∧ 0x100000 ≤ off ∧ off < 0x1000000)

/-- The command is well formed. -/
def Instr.wellFormed (i : Instr) : Bool :=
  match i with
  | .pwrEnAsserted => true
  | .pwrEnDeasserted => true
  | .inputUndervoltage => true
  | .inputOvervoltage => true
  | .inputRestored => true
  | .emberFlushStepDone => true
  | .emberFlushEnd => true
  | .alarm .. => true
  | .sensorRead .. => true
  | .supplyMeasurement .. => true
  | .holdupCheckDue => true
  | .checkNow => true
  | .holdupCheckDone .. => true
  | .holdupStoreLow => true
  | .holdupCharged => true
  | .paceWindow .. => true
  | .keeperCoreFault .. => true
  | .wingReturnHoldDone .. => true
  | .kindlingStepDone step bits devices => decide (step.val ≠ 0) && devices.all (fun d => decide (d.1 < 8 ∧ d.2 < 10))
  | .configRequest => true
  | .perstAsserted => true
  | .perstDeasserted => true
  | .nvmSubsystemReset => true
  | .hotReset => true
  | .controllerReset .. => true
  | .controllerEnable .. => true
  | .shutdownNotification fn shn => decide (shn = 1 ∨ shn = 2)
  | .shutdownProcessingDone .. => true
  | .functionLevelReset .. => true
  | .vfEnable .. => true
  | .vfEnableCleared => true
  | .devicePowerStateChange .. => true
  | .sqTailDoorbell fn sq tail => decide (sq.toNat ≤ if fn.val = 0 then 8192 else 1024)
  | .cqHeadDoorbell fn cq head => decide (cq.toNat ≤ if fn.val = 0 then 8192 else 1024)
  | .commandFetch fn sq sqe => sqe.ok
  | .partBegin _ r _ => r.ok
  | .deleteIoSq r => r.ok
  | .deleteIoCq r => r.ok
  | .createIoSq r => r.ok
  | .createIoCq r => r.ok
  | .getLogPage r => r.ok
  | .smartHealthLog r => r.ok
  | .telemetryHostInitiated r => r.ok
  | .keepersLogPage r => r.ok
  | .placementReport r => r.ok
  | .counterSnapshot r => r.ok
  | .caravanStatusPage r => r.ok
  | .healthAndRetirement r => r.ok
  | .thermalAndPace r => r.ok
  | .identify r => r.ok
  | .abort r => r.ok
  | .setFeatures r => r.ok
  | .getFeatures r => r.ok
  | .timestamp r => r.ok
  | .placementHint r => r.ok
  | .asynchronousEventRequest r => r.ok
  | .namespaceManagement r => r.ok
  | .namespaceAttachment r => r.ok
  | .firmwareImageDownload r => r.ok
  | .firmwareCommitReplace r => r.ok
  | .firmwareCommitNextReset r => r.ok
  | .firmwareCommitActivate r => r.ok
  | .firmwareCommitRoll r => r.ok
  | .rollWingDone => true
  | .virtualizationManagement r => r.ok
  | .secondaryOffline r => r.ok
  | .nvmeMiSend r => r.ok
  | .nvmeMiReceive r => r.ok
  | .formatNvm r => r.ok
  | .formatStepDone => true
  | .sanitizeBlockErase r => r.ok
  | .sanitizeCryptoErase r => r.ok
  | .sanitizeExitFailureMode r => r.ok
  | .sanitizeOperationEnd => true
  | .charterCommit r => r.ok
  | .retireFlashBlock r => r.ok
  | .retireDramPage r => r.ok
  | .retireDramBank r => r.ok
  | .caravanForm r _ => r.ok
  | .caravanJoin r => r.ok
  | .caravanLeave r => r.ok
  | .caravanDissolve r => r.ok
  | .quiesceFunction r => r.ok
  | .quiesceEndingThreads r => r.ok
  | .quiesceResume r => r.ok
  | .freezeFunction r => r.ok
  | .saveFunctionState r => r.ok
  | .restoreFunctionState r => r.ok
  | .wingWithdraw r => r.ok
  | .wingReturn r => r.ok
  | .lightListWrite r _ => r.ok
  | .keyGenAdvanceSlot r => r.ok
  | .keyGenAdvanceFunction r => r.ok
  | .loadProgram r => r.ok
  | .programActivationManagement r => r.ok
  | .memoryRangeSetManagement r => r.ok
  | .executeProgram r => r.ok
  | .threadStart r => r.ok
  | .memoryRead r => r.ok
  | .memoryWrite r => r.ok
  | .memoryCopy _ r => r.ok
  | .flush r => r.ok
  | .write _ r => r.ok
  | .read _ r => r.ok
  | .compare _ r => r.ok
  | .writeZeroes _ r => r.ok
  | .datasetManagement _ r => r.ok
  | .verify _ r => r.ok
  | .programStatus .. => true
  | .eraseStatus .. => true
  | .flashReadDone .. => true
  | .dieNotReadyTimeout .. => true
  | .dieBlockSeal .. => true
  | .journalRecordDurable => true
  | .checkpointStepDone => true
  | .gatherUnitTimeout .. => true
  | .stripePadTimeout .. => true
  | .packedPageTimeout .. => true
  | .foldStart .. => true
  | .reclaimStart .. => true
  | .forecourtRecompute => true
  | .ledgerAudit => true
  | .packedGrainFrame nsid _ _ _ => decide (nsid < 2 ^ 32)
  | .placementWindowEnd .. => true
  | .moveStallDone nsid _ => decide (nsid < 2 ^ 32)
  | .placementRequest _ nsid _ => decide (nsid < 2 ^ 32)
  | .placementAnswer nsid _ _ => decide (nsid < 2 ^ 32)
  | .directoryAnnouncement nsid _ _ _ _ => decide (nsid < 2 ^ 32)
  | .moveOrder nsid bale src dst reason => decide (nsid < 2 ^ 32 ∧ src ≠ dst)
  | .stationReport .. => true
  | .mirrorGrains _ _ grains => grains.all GrainMsg.ok
  | .mirrorAcknowledgement .. => true
  | .mirrorDrop _ grains => grains.all GrainMsg.ok
  | .parityContribution .. => true
  | .pieceClose .. => true
  | .segmentClose .. => true
  | .backgroundRebuild nsid _ grains _ => decide (nsid < 2 ^ 32) && grains.all GrainMsg.ok
  | .flitReceive .. => true
  | .nak .. => true
  | .ackTimer .. => true
  | .linkDown .. => true
  | .hello .. => true
  | .linkSbChange .. => true
  | .creditCensus .. => true
  | .censusReceive .. => true
  | .heartbeatSend => true
  | .heartbeat .. => true
  | .absenceDeclared .. => true
  | .caravanResumption => true
  | .forwardedPart station r part slba nlb gen sqe => r.ok && sqe.ok && decide (nlb < 65536)
  | .partStatus r _ _ _ => r.ok
  | .charterPropagation station generation entries => entries.all (fun e => decide (e.1 < 1024 ∧ e.2.length = 256))
  | .hintPropagation _ nsid _ => decide (nsid < 2 ^ 32)
  | .wbGo .. => true
  | .wbCancel .. => true
  | .legStart .. => true
  | .scanReadIssue .. => true
  | .sieveGrainEvaluation .. => true
  | .sieveBeaconResult .. => true
  | .btNext .. => true
  | .btDone .. => true
  | .btAppLen .. => true
  | .btEnd .. => true
  | .legOutputReceive .. => true
  | .ctlAppLen .. => true
  | .ctlExit .. => true
  | .cpLen .. => true
  | .postEntryApply .. => true
  | .nextSlotLoaded .. => true
  | .quantumExpiry .. => true
  | .holdPageFill .. => true
  | .doorPost .. => true
  | .pstPrio .. => true
  | .pstAffinity .. => true
  | .mov .. => true
  | .add .. => true
  | .adc .. => true
  | .sub .. => true
  | .sbc .. => true
  | .neg .. => true
  | .mul .. => true
  | .mulhu .. => true
  | .mulhs .. => true
  | .divu .. => true
  | .divs .. => true
  | .remu .. => true
  | .rems .. => true
  | .minu .. => true
  | .maxu .. => true
  | .mins .. => true
  | .maxs .. => true
  | .and .. => true
  | .or .. => true
  | .xor .. => true
  | .andn .. => true
  | .not .. => true
  | .shl .. => true
  | .shr .. => true
  | .sar .. => true
  | .rol .. => true
  | .ror .. => true
  | .popc .. => true
  | .clz .. => true
  | .ctz .. => true
  | .bswap .. => true
  | .sext .. => true
  | .zext .. => true
  | .cmp .. => true
  | .tst .. => true
  | .set .. => true
  | .cas .. => true
  | .movst .. => true
  | .setst .. => true
  | .btst .. => true
  | .bset .. => true
  | .bclr .. => true
  | .br .. => true
  | .jmp .. => true
  | .call .. => true
  | .ret .. => true
  | .loop .. => true
  | .leave .. => true
  | .rdcnt .. => true
  | .wait .. => true
  | .post .. => true
  | .yield .. => true
  | .nop .. => true
  | .movi .. => true
  | .addi .. => true
  | .subi .. => true
  | .cmpi .. => true
  | .shli .. => true
  | .shri .. => true
  | .sari .. => true
  | .bcnSGo .. => true
  | .bcnWrite .. => true
  | .bcnInvalidate .. => true
  | .bcnRead .. => true
  | .bcnInsert .. => true
  | .bcnAppend .. => true
  | .bcnClear .. => true
  | .bcnCreate .. => true
  | .bcnGrow .. => true
  | .bcnDelete .. => true
  | .beaconScrubPass .. => true
  | .jobOpen .. => true
  | .jobCancel .. => true
  | .cmpJLen .. => true
  | .cmpJLenLast .. => true
  | .sealAcquire .. => true
  | .sealRelease .. => true
  | .sealGo .. => true
  | .sealAbort .. => true
  | .sealPiece .. => true
  | .sealPieceLast .. => true
  | .sealBreak => true
  | .digOpen .. => true
  | .digRelease .. => true
  | .digData .. => true
  | .digLast .. => true
  | .digCtxExport .. => true
  | .digCtxImport .. => true
  | .digBreak => true
  | .keyDerive .. => true
  | .keyUnwrap .. => true
  | .keyClearLoad .. => true
  | .keyUnload .. => true
  | .patrolScrub .. => true
  | .scrubNow .. => true
  | .deviceMark wing device => decide (device.val < 16)
  | .dramCalibration .. => true
  | .refreshWindow wing activations coins rfm => activations.all (fun a => decide (a.1 < 32 ∧ a.2 < 65536)) && coins.all (fun c => decide (c < activations.length))
  | .dramTestWrite .. => true
  | .dramTestRead .. => true
  | .drmHashNextWrite .. => true
  | .drmLayoutNextWrite .. => true
  | .evtSrcWrite .. => true
  | .maskAll .. => true
  | .clrAll => true
  | .evtInject .. => true
  | .evtBulkRange .. => true
  | .windowEnd => true
  | .cntWinCtrlWrite .. => true
  | .cntSmpCtrlWrite .. => true
  | .cntSmpPeriodWrite .. => true
  | .tailWrite .. => true
  | .clrWrap => true
  | .opSecondsTick => true
  | .logRecordWrite => true
  | .logMark .. => true
  | .basicManagementCommand => true
  | .readNvmeMiDataStructure .. => true
  | .healthStatusPoll .. => true
  | .configurationSet .. => true
  | .configurationGet .. => true
  | .vpdRead .. => true
  | .miReset => true
  | .tunnelledAdmin sqe => sqe.ok
  | .spdmRequest .. => true
  | .ideKm .. => true
  | .debugUnlock .. => true
  | .spdmSessionEnd .. => true
  | .claim => true
  | .release => true
  | .stageClear => true
  | .stageCopy => true
  | .charterStagingWrite .. => true
  | .restoreAbort => true
  | .clrUnq => true
  | .clrMax .. => true
  | .quantumWrite .. => true
  | .wngDspQuery .. => true
  | .retrain .. => true
  | .clrMin .. => true
  | .locate .. => true
  | .medFcCtrlWrite .. => true
  | .mscRclWeightWrite .. => true
  | .mscRclCtrlWrite .. => true
  | .mscPlcCtrlWrite .. => true
  | .cmpCtrlWrite .. => true
  | .rteCfgWrite .. => true
  | .lowHalfRead offset => slotOk offset
  | .lowHalfWrite offset value => slotOk offset
  | .highHalfWrite offset value => slotOk offset
  | .registerWrite fn offset value => decide (offset % 4 = 0 ∧ offset < if fn.val = 0 then 0x1000000 else 0x8000)
  | .hostTransferDone _ r _ _ => r.ok
  | .dlUp => true
  | .linkPowerStateChange inL1 width => [1, 2, 4, 8].contains width.val
  | .linkTrained .. => true
  | .linkStateNews .. => true
  | .moveGrains _ grains => grains.all GrainMsg.ok
  | .rebuildRead .. => true
  | .joinRequest .. => true
  | .forwardedData _ r _ _ _ _ => r.ok
  | .memberAcknowledgement .. => true
  | .stationOperationRequest .. => true
  | .firmwareSlotWritten .. => true

end Sys2Proof
end

