-- ==== Sys2Proof/Tests/Slice0.lean ====
section
/-! SUPPORT. Tests: ill-formed commands that WellFormed refuses, words of the Yusil encoding written out from the spec's tables, and for every
statement with hypotheses a concrete state and operands that meet them (wit_<statement>). Expected values come from the spec. -/

set_option Elab.async false

namespace Sys2Proof.Tests

open Sys2Proof Sys2Proof.Machine

/-! States of the tests. -/

/-- A Lit module with power and link, Kindling done, the PF as manager. -/
def demo : State :=
  { State.reset with
    mode := { State.reset.mode with mode := .lit }
    pwr := { State.reset.pwr with pwrEn := true, mainIn := true, charged := true, wings := (List.range 8).map (fun w => (w, WingPwr.up)) }
    host := { State.reset.host with perst := false, linkUp := true }
    chr := { State.reset.chr with mgrHeld := true }
    kin := { State.reset.kin with done := List.range 10 }
    sec := { State.reset.sec with xts := true } }

/-- A command whose entry has nothing but an opcode. -/
def sqe0 (opc : Nat) : Sqe :=
  { opc := opc, fuse := 0, cid := 7, nsid := 0, cdw10 := 0, cdw11 := 0, cdw12 := 0, cdw13 := 0, cdw14 := 0, cdw15 := 0, data := [], md := [],
    dptrZero := true, prp1 := 0, sgl := none }

/-- Command 7 of the PF's admin queue. -/
def ref0 : CmdRef := { fn := 0, sq := 0, cid := 7 }

/-- An outstanding command with an entry. -/
def cmdOf (q : Sqe) : OutCmd :=
  { cmd := ref0, sqe := q, gen := 1, admin := true, write := false, parts := [], committed := false, silent := false, held := false, data := [],
    copied := false }

/-- A state with a list of outstanding commands. -/
def withOut (l : List OutCmd) (s : State) : State := { s with host := { s.host with out := l } }

/-- A state with one admin command outstanding. -/
def adm (q : Sqe) (s : State) : State := withOut [cmdOf q] s

/-! Well-formed commands. -/

theorem test_wf_names :
    [Instr.identify { fn := 1024, sq := 0, cid := 0 }, .identify { fn := 0, sq := 65536, cid := 0 }, .identify { fn := 0, sq := 0, cid := 65536 }].all
      (fun i => !i.wellFormed) = true ∧ (Instr.identify { fn := 1023, sq := 65535, cid := 65535 }).wellFormed = true := by decide +kernel

theorem test_wf_entry :
    ([{ sqe0 256 with cid := 1 }, { sqe0 0 with fuse := 4 }, { sqe0 0 with cid := 65536 }, { sqe0 0 with nsid := 2 ^ 32 }, { sqe0 0 with prp1 := 2 ^ 64 },
      { sqe0 0 with cdw10 := 2 ^ 32 }, { sqe0 0 with cdw11 := 2 ^ 32 }, { sqe0 0 with cdw12 := 2 ^ 32 }, { sqe0 0 with cdw13 := 2 ^ 32 },
      { sqe0 0 with cdw14 := 2 ^ 32 }, { sqe0 0 with cdw15 := 2 ^ 32 }].all
        (fun q => !(Instr.commandFetch 0 0 q).wellFormed && !(Instr.tunnelledAdmin q).wellFormed)) = true ∧
    (Instr.commandFetch 0 0 { sqe0 255 with cdw15 := 2 ^ 32 - 1 }).wellFormed = true := by decide +kernel

/-- A grain of namespace 1. -/
def grain0 : GrainMsg := { nsid := 1, bale := 0, grain := 0, bits := 15, data := [], md := [] }

theorem test_wf_stations :
    [Instr.mirrorGrains 1 0 [{ grain0 with nsid := 2 ^ 32 }], .mirrorGrains 1 0 [{ grain0 with bits := 16 }], .mirrorDrop 1 [{ grain0 with bits := 16 }],
     .backgroundRebuild (2 ^ 32) 0 [] false, .backgroundRebuild 1 0 [{ grain0 with bits := 16 }] false, .moveGrains 1 [{ grain0 with bits := 16 }],
     .packedGrainFrame (2 ^ 32) 0 0 .notSmaller, .moveStallDone (2 ^ 32) 0, .placementRequest 1 (2 ^ 32) 0, .placementAnswer (2 ^ 32) 0 1,
     .directoryAnnouncement (2 ^ 32) 0 1 0 0, .moveOrder (2 ^ 32) 0 1 2 0, .moveOrder 1 0 2 2 0, .hintPropagation 1 (2 ^ 32) 0,
     .forwardedPart 1 { ref0 with fn := 1024 } 0 0 1 1 (sqe0 2), .forwardedPart 1 ref0 0 0 65536 1 (sqe0 2), .forwardedPart 1 ref0 0 0 1 1 (sqe0 256),
     .charterPropagation 1 2 [(1024, List.replicate 256 0)], .charterPropagation 1 2 [(0, List.replicate 255 0)]].all (fun i => !i.wellFormed) = true ∧
    [Instr.moveOrder 1 0 1 2 0, .charterPropagation 1 2 [(1023, List.replicate 256 0)], .forwardedPart 1 ref0 0 0 65535 1 (sqe0 2),
     .moveGrains 1 [grain0]].all (fun i => i.wellFormed) = true := by decide +kernel

theorem test_wf_operands :
    [Instr.kindlingStepDone 0 0 [], .kindlingStepDone 1 0 [(8, 0)], .kindlingStepDone 1 0 [(0, 10)], .shutdownNotification 0 0, .shutdownNotification 0 3,
     .sqTailDoorbell 0 8193 0, .sqTailDoorbell 1 1025 0, .cqHeadDoorbell 0 8193 0, .cqHeadDoorbell 1 1025 0, .deviceMark 0 16,
     .refreshWindow 0 [(32, 0)] [] 0, .refreshWindow 0 [(0, 65536)] [] 0, .refreshWindow 0 [(0, 0)] [1] 0, .linkPowerStateChange false 3,
     .lowHalfRead 0x100004, .lowHalfWrite 0xFFFF8 0, .highHalfWrite 0x1000000 0, .registerWrite 0 2 0, .registerWrite 0 0x1000000 0,
     .registerWrite 1 0x8000 0].all (fun i => !i.wellFormed) = true ∧
    [Instr.kindlingStepDone 9 0 [(7, 9)], .shutdownNotification 0 1, .sqTailDoorbell 0 8192 0, .cqHeadDoorbell 1 1024 0, .deviceMark 0 15,
     .refreshWindow 0 [(31, 65535)] [0] 0, .linkPowerStateChange true 8, .lowHalfRead 0x100000, .highHalfWrite 0xFFFFF8 0, .registerWrite 1 0x7FFC 0].all
       (fun i => i.wellFormed) = true := by decide +kernel

theorem test_no_row_has_bits : decodeTableWord 32 0 = none := rfl

/-! Yusil words, written out from the tables of R352, R355, R356, R397 and R398. -/

/-- Full forms: 11, opcode, size, destination, source 1, source 2. -/
def fullBits (opc sz d s1 s2 : Nat) : Nat := 0b11 * 2 ^ 30 + opc * 2 ^ 23 + sz * 2 ^ 21 + d * 2 ^ 14 + s1 * 2 ^ 7 + s2

/-- What a full form of three specifiers decodes to. -/
def three (op : YOp) (sz dsz : Nat) (d s1 s2 : Option Spec) : YInstr :=
  { op := op, len := 4, brief := false, size := sz, dsize := dsz, d := d, s1 := s1, s2 := s2, n := 0, cond := 0, disp := 0, mask := 0, level := 0,
    body := 0 }

/-- ADD.d [p1]+, [p1]+, [p1]+: the worked case of R361. -/
theorem test_word_add : decodeFull 0b11_0000001_11_0100001_0100001_0100001 = some (three .add 8 8 (some (.post 1)) (some (.post 1)) (some (.post 1))) := by
  decide +kernel

/-- SEXT.h p2, [p3]. -/
theorem test_word_sext : decodeFull 0b11_0011111_01_0000010_0010011_0000000 = some (three .sext 2 8 (some (.reg 2)) (some (.ind 3)) none) := by
  decide +kernel

/-- CMP.b p4, -1. -/
theorem test_word_cmp : decodeFull 0b11_0100001_00_0000000_0000100_1111111 = some (three .cmp 1 1 none (some (.reg 4)) (some (.imm 15))) := by
  decide +kernel

/-- BR.NE back by one halfword; a condition of 15 is reserved. -/
theorem test_word_br : (decodeFull 0b11_0110000_00_0010_11111111111111111).map (fun i => (i.op, i.cond, i.disp)) = some (.br, 2, 131071) ∧
    decodeFull 0b11_0110000_00_1111_00000000000000000 = none := by decide +kernel

/-- CALL p0 that saves p1 and p14; LOOP level 1 by p2, body of 3 halfwords. -/
theorem test_word_call_loop :
    (decodeFull 0b11_0110010_00_0100000000000010_00000).map (fun i => (i.op, i.mask, i.s1)) = some (.call, 0x4002, some (.reg 0)) ∧
    (decodeFull 0b11_0110011_11_01_0000010_000000000011).map (fun i => (i.op, i.level, i.s1, i.body)) = some (.loop, 1, some (.reg 2), 3) := by decide +kernel

/-- WAIT.w p1, p2, 1; it has no size .d. -/
theorem test_word_wait :
    decodeFull 0b11_0111001_10_0000001_0000010_1110001 = some (three .wait 4 4 (some (.reg 1)) (some (.reg 2)) (some (.imm 1))) ∧
    decodeFull 0b11_0111001_11_0000001_0000010_1110001 = none := by decide +kernel

/-- Brief forms: ADDI p3, 31; MOV.h [p2]+, slot 5; RET; the zero halfword. -/
theorem test_word_brief :
    (decodeBrief 0b011010_00011_11111).map (fun i => (i.op, i.d, i.n)) = some (.addi, some (.reg 3), 31) ∧
    (decodeBrief 0b000100_10010_11101).map (fun i => (i.op, i.size, i.d, i.s1)) = some (.mov, 2, some (.post 2), some (.frame 5)) ∧
    (decodeBrief 0b101100_00000_00000).map (·.op) = some .ret ∧ decodeBrief 0 = none := by decide +kernel

/-- Reserved opcodes, a size that is not allowed, a field that must be zero, a destination that never is one. -/
theorem test_word_illegal :
    [fullBits 0x2A 3 0 0 0, fullBits 0x3B 3 0 0 0, fullBits 0x7F 3 0 0 0, fullBits 0x25 2 0 0 0, fullBits 0x00 3 1 2 1, fullBits 0x01 3 0x60 1 2,
     fullBits 0x01 3 0x70 1 2, fullBits 0x24 3 1 2 3].all (fun w => (decodeFull w).isNone) = true := by decide +kernel

/-! Yusil instructions at a core. -/

/-- A task of wing 0 with a program, registers and 64 bytes of data hold. -/
def yTask (code : List Byte) (regs : YRegs) : Task :=
  { blankTask with incarn := 1, state := .running, code := Memory.writeBytes [] 0 code, data := Memory.writeBytes [] 0 (leBytes 16 0x1122334455667788),
                   regs := { regs with pc := 0x10000 }, flags := 3, doorMask := 0x3FF }

/-- Registers: p0 an even code address, p1 3, p2 5, p3 a data address, p15 a stack in the data hold. -/
def yRegs : YRegs :=
  setReg (setReg (setReg (setReg (setReg YRegs.zero 0 0x10010) 1 3) 2 5) 3 0x20008) 15 0x20100

/-- Core 0 of wing 0 at an instruction. -/
def yAt (regs : YRegs) (i : YInstr) : State :=
  { demo with disp := { demo.disp with tasks := [(0, yTask (encodeYusil i) regs)], cores := [(0, { Core.empty with run := some 0 })] } }

/-- The core is at the instruction and its operands resolve with no fault. -/
def yReady (regs : YRegs) (u : DestUse) (i : YInstr) : Bool :=
  let s := yAt regs i
  let t := yTask (encodeYusil i) regs
  decide (fetchDecode t.code 0x10000 = .ok i) && !crossesLoop t.regs 0x10000 i.len &&
  match (if i.brief then briefOperands s t i u.rd u.wr else fullOperands s t i u.rd u.wr) with
  | .ok _ la lb ld => !(operandAccesses la lb ld u i.brief).reads.any (fun x => readPoisoned s x 1)
  | .bad _ => false

/-- A core that is ready for an instruction meets the hypotheses of the statements about it. -/
theorem yReads_of_ready {regs : YRegs} {u : DestUse} {i : YInstr} (h : yReady regs u i = true) :
    ∃ r a b la lb ld s2, YReads (yAt regs i) 0 0 (yTask (encodeYusil i) regs) i u r a b la lb ld s2 := by
  simp only [yReady, Bool.and_eq_true, decide_eq_true_eq, Bool.not_eq_true'] at h
  obtain ⟨⟨h1, h2⟩, h3⟩ := h
  cases ho : (if i.brief then briefOperands (yAt regs i) (yTask (encodeYusil i) regs) i u.rd u.wr
      else fullOperands (yAt regs i) (yTask (encodeYusil i) regs) i u.rd u.wr) with
  | bad c => rw [ho] at h3; simp at h3
  | ok r la lb ld =>
    rw [ho] at h3
    exact ⟨r, _, _, la, lb, ld, _, ⟨rfl, rfl, h1, h2⟩, ho, ⟨_, rfl, rfl⟩, by simpa using h3⟩

/-- A brief form of two specifiers. -/
def brief2 (op : YOp) (d s : Option Spec) : YInstr := { three op 8 8 d s none with len := 2, brief := true }

theorem wit_TwoSourceOperationsComplete :
    [YOp.add, .adc, .sub, .sbc, .mul, .mulhu, .mulhs, .minu, .maxu, .mins, .maxs, .band, .bor, .bxor, .andn, .shl, .shr, .sar, .rol, .ror].all (fun op =>
      yReady yRegs { rd := false, wr := true } (three op 8 8 (some (.reg 4)) (some (.reg 1)) (some (.ind 3)))) = true ∧
    yReady yRegs { rd := true, wr := true } (brief2 .add (some (.reg 1)) (some (.reg 2))) = true := by decide +kernel

theorem wit_OneSourceOperationsComplete :
    [YOp.neg, .bnot, .popc, .clz, .ctz, .mov, .bswap].all (fun op => yReady yRegs { rd := false, wr := true } (three op 8 8 (some (.reg 4)) (some (.reg 1)) none)) = true ∧
    [YOp.sext, .zext].all (fun op => yReady yRegs { rd := false, wr := true } (three op 4 8 (some (.reg 4)) (some (.reg 1)) none)) = true ∧
    [YOp.addi, .subi, .shli, .shri, .sari].all (fun op => yReady yRegs { rd := true, wr := true } { brief2 op (some (.reg 1)) none with n := 31 }) = true ∧
    yReady yRegs { rd := true, wr := false } { brief2 .cmpi (some (.reg 1)) none with n := 31 } = true ∧
    yReady yRegs { rd := false, wr := true } { brief2 .movi (some (.reg 1)) none with n := 31 } = true ∧
    yReady yRegs { rd := false, wr := true } { three .setc 8 8 (some (.reg 4)) none none with cond := 14 } = true ∧
    yReady yRegs { rd := false, wr := true } (three .movst 8 8 (some (.reg 4)) none none) = true := by decide +kernel

theorem wit_DivisionsCompleteOrFault :
    [YOp.divu, .divs, .remu, .rems].all (fun op =>
      yReady yRegs { rd := false, wr := true } (three op 8 8 (some (.reg 4)) (some (.reg 1)) (some (.reg 2))) &&
      yReady yRegs { rd := false, wr := true } (three op 8 8 (some (.reg 4)) (some (.reg 1)) (some (.reg 5)))) = true ∧
    (getReg yRegs 2, getReg yRegs 5) = (5, 0) := by decide +kernel

theorem wit_ComparisonsAndBitsComplete :
    [YOp.cmp, .tst, .btst].all (fun op => yReady yRegs { rd := false, wr := false } (three op 8 8 none (some (.reg 1)) (some (.ind 3)))) = true ∧
    [YOp.bset, .bclr].all (fun op => yReady yRegs { rd := false, wr := true } (three op 8 8 (some (.reg 4)) (some (.reg 1)) (some (.reg 2)))) = true ∧
    yReady yRegs { rd := true, wr := false } { brief2 .btst (some (.reg 1)) none with n := 31 } = true ∧
    yReady yRegs { rd := false, wr := false } (three .setst 8 8 none (some (.reg 1)) none) = true := by decide +kernel

/-- CAS.d [p3], p1, p2. -/
def casAt : YInstr := three .cas 8 8 (some (.ind 3)) (some (.reg 1)) (some (.reg 2))

theorem wit_CompletedInstructionWritesItsDestination :
    yReady yRegs { rd := false, wr := false } casAt = true ∧
    (fullOperands (yAt yRegs casAt) (yTask (encodeYusil casAt) yRegs) casAt false false = .ok { yRegs with pc := 0x10000 } (some (.reg 1 3)) (some (.reg 2 5)) (some (.mem 0x20008))) ∧
    regionOf 0x20008 = .data 8 ∧ mayAccess (yTask (encodeYusil casAt) yRegs) 0x20008 8 true = true ∧ readPoisoned (yAt yRegs casAt) 0x20008 1 = false ∧
    regionOf 0x300000000 = .staging 0 := by decide +kernel

/-- BR AL to itself, BR EQ, BR out of the code hold; JMP p0, JMP p3. -/
theorem wit_BranchesTransferOrFallThrough :
    [(0, 0), (1, 0), (0, 0x10000)].all (fun c => yReady yRegs { rd := false, wr := false } { three .br 1 1 none none none with cond := c.1, disp := c.2 }) = true ∧
    [0, 3].all (fun n => yReady yRegs { rd := false, wr := false } (three .jmp 8 8 none (some (.reg n)) none)) = true ∧
    yReady yRegs { rd := true, wr := false } (brief2 .jmp (some (.reg 0)) none) = true ∧
    condHolds 0 (flagsOf yRegs) = true ∧ condHolds 1 (flagsOf yRegs) = false ∧ (getReg yRegs 0).toNat = 0x10010 ∧
    (((0x10000 : Int) + 2 * signed 17 0x10000) % 2 ^ 64).toNat = 2 ^ 64 - 0x10000 := by decide +kernel

/-- A stack frame: header with LD 0 and p1 saved, return address 0x10020; then p1's value. -/
def retState : State :=
  let s := yAt yRegs (brief2 .ret none none)
  updTask 0 (fun t => { t with data := Memory.writeBytes t.data 0x100 (leBytes 8 (2 ^ 49 + 0x10020) ++ leBytes 8 9) }) s

theorem wit_CallPushesAndRetPops :
    yReady yRegs { rd := false, wr := false } { three .call 8 8 none (some (.reg 0)) none with mask := 0x4002 } = true ∧
    yReady yRegs { rd := false, wr := false } (brief2 .ret none none) = true ∧
    (readLoc retState 0 (some (.mem 0x20100)) 8).1 = 2 ^ 49 + 0x10020 ∧
    (getTask retState 0).map (fun t => accessFault retState t 0x20100 8 false) = some 0 ∧
    (getTask retState 0).map (fun t => storesFault retState 0 t [(0x200F8, 3), (0x200F0, 0), (0x200E8, 5)]) = some 0 ∧
    bitsOf (2 ^ 49 + 0x10020) 47 45 = yRegs.ld ∧ (2 ^ 49 + 0x10020).testBit 0 = false ∧ targetOk (2 * bitsOf (2 ^ 49 + 0x10020) 44 1) = true ∧
    (2 ^ 49 + 1).testBit 0 = true := by decide +kernel

/-- LOOP at the level of each clause: too deep, wrong level, end outside the hold, count too big, count 0, a loop that opens. -/
theorem wit_LoopsOpenAndClose :
    [(4, 0, 3, 3), (0, 1, 3, 3), (0, 0, 3, 4), (0, 0, 3, 6), (0, 0, 5, 3), (0, 0, 1, 3), (3, 3, 1, 4095)].all (fun c =>
      yReady { yRegs with ld := c.1 } { rd := false, wr := false } { three .loop 8 8 none (some (.reg c.2.2.1)) none with level := c.2.1, body := c.2.2.2 }) = true ∧
    [0, 1].all (fun l => yReady { yRegs with ld := l, lb := Vector.replicate 4 0x10000, le := Vector.replicate 4 0x10100 } { rd := false, wr := false } (brief2 .leave none none)) = true ∧
    (getReg (setReg yRegs 3 (BitVec.ofNat 64 (2 ^ 32))) 3).toNat = 2 ^ 32 ∧ 0x1FFFC + 4 + 2 * 1 = 0x20002 := by decide +kernel

theorem wit_TaskInstructionsComplete :
    [0, 5, 6, 16].all (fun n => yReady (setReg yRegs 1 (BitVec.ofNat 64 n)) { rd := false, wr := true } (three .rdcnt 8 8 (some (.reg 4)) (some (.reg 1)) none)) = true ∧
    yReady yRegs { rd := false, wr := true } (three .wait 4 4 (some (.reg 4)) (some (.reg 1)) (some (.reg 5))) = true ∧
    waitMet 3 1 false = true ∧ waitMet 3 4 false = false ∧ waitMet 3 7 true = false ∧
    yReady yRegs { rd := false, wr := false } (three .post 4 4 none (some (.reg 1)) (some (.reg 2))) = true ∧
    liveTask (yAt yRegs casAt) 3 = none ∧ liveTask (yAt yRegs casAt) 65536 = some 0 ∧
    (postTo 65536 5 3 (yAt yRegs casAt)).2.1 = .posted ∧
    yReady yRegs { rd := false, wr := false } (brief2 .nop none none) = true ∧ yReady yRegs { rd := false, wr := false } (brief2 .yld none none) = true ∧
    chrCounter demo 1 5 = false ∧ chrCounter demo 0 6 = true ∧ counterSlot 6 = true ∧ counterSlot 16 = false := by decide +kernel

/-! The block as a whole. -/

theorem wit_StepRunsTheFrontCommand : { demo with pending := [Instr.checkNow] }.pending = Instr.checkNow :: [] := rfl

theorem wit_EmptyQueueTicksTd17 :
    demo.pending = [] ∧ demo.mode.mode ≠ .dark ∧ State.reset.pending = [] ∧ State.reset.mode.mode = .dark := by decide +kernel

theorem wit_EveryStepKeeps : (∃ t, step { demo with pending := [.checkNow] } = .next t) ∧ CharterWf demo.chr.staging demo.chr.active demo.chr.commitWait :=
  ⟨⟨_, rfl⟩, by unfold CharterWf; decide +kernel⟩

theorem wit_YusilDecodeOfEncode :
    (three .add 8 8 (some (.post 1)) (some (.post 1)) (some (.post 1))).fullOk = true ∧ (brief2 .add (some (.reg 1)) (some (.frame 7))).briefOk = true ∧
    (2 ^ 32 - 1) / 2 ^ 30 = 3 ∧ (decodeFull (fullBits 1 3 0x21 0x21 0x21)).isSome = true ∧ (decodeBrief (0b011010 * 1024)).isSome = true := by decide +kernel

theorem wit_YusilFetchOfEncode :
    let i := brief2 .add (some (.reg 1)) (some (.reg 2));
    let j := three .add 8 8 (some (.reg 1)) (some (.reg 1)) (some (.reg 2));
    i.briefOk = true ∧ j.fullOk = true ∧ Memory.readBytes (Memory.writeBytes [] 0xFFFE (encodeYusil i)) 0xFFFE 2 = encodeYusil i ∧ 0x1FFFE + i.len ≤ 0x20000 ∧
    Memory.readBytes (Memory.writeBytes [] 0 (encodeYusil j)) 0 4 = encodeYusil j := by decide +kernel

theorem wit_YusilArithmeticIsTwosComplement : (1 : BitVec 8) ≠ 0 ∧ (0 < 8 ∧ 7 < 8) := by decide

/-! Power, alarms, pace, Kindling. -/

/-- A module in a mode. -/
def inMode (m : Mode) : State := { demo with mode := { demo.mode with mode := m } }

/-- Dark, with PWR_EN asserted. -/
def darkOn : State := { inMode .dark with pwr := { demo.pwr with needHold := false } }

theorem wit_InputPowerStartsKindlingOrFlush :
    darkOn.mode.mode = .dark ∧ darkOn.pwr.needHold = false ∧ darkOn.pwr.pwrEn = true ∧ demo.mode.mode = .lit ∧ demo.med.flush = none := by decide +kernel

/-- A flush at a step. -/
def flushAt (n : Nat) : Flush := { step := n, trigger := 1, toDark := false, led := (0, 0), wait := [] }

/-- A module at a step of its flush. -/
def inFlush (n : Nat) (m : Mode) (mainIn : Bool) : State :=
  { inMode m with med := { demo.med with flush := some (flushAt n) }, pwr := { demo.pwr with mainIn := mainIn } }

theorem wit_EmberFlushStepsToItsEnd :
    [3, 4, 5, 6].all (fun n => decide ((inFlush n .lit true).med.flush = some (flushAt n))) = true ∧ (flushAt 3).wait = [] ∧
    (inFlush 4 .lit true).med.units.any (·.issued) = false ∧ (inFlush 4 .lit true).sec.xts = true ∧ allDurable (inFlush 5 .lit true) = true ∧
    (inFlush 6 .extinguished false).pwr.mainIn = false ∧ (inFlush 6 .lit true).mode.mode ≠ .extinguished := by decide +kernel

/-- A module whose wing 3 had a keeper-core fault at TD17 0. -/
def keeperBad : State := { demo with disp := { demo.disp with keeperFault := [(3, 0)] }, td17 := 999999999 }

theorem wit_AlarmsSensorsAndSupply :
    demo.mode.mode = .lit ∧ (8 : BitVec 8).toNat % 16 ≠ 0 ∧ demo.chr.spdmReq = false ∧ llByte demo 6 0 0 % 2 = 0 ∧ (getSensor demo 93).cause = 0 ∧
    demo.mode.wingOut.getLsbD 3 = false ∧ (15 : BitVec 8).toNat / 4 = 3 ∧ Tbl.find demo.disp.keeperFault 3 = none ∧ Tbl.find keeperBad.disp.keeperFault 3 = some 0 ∧
    keeperBad.td17 < 0 + 1000000000 := by decide +kernel

/-- A check is due, runs for the second time, or is the first after charging. -/
def checkDue : State := { demo with cnt := { demo.cnt with opSeconds := 86400 } }
def checking (second : Bool) : State := { demo with pwr := { demo.pwr with checking := true, second := second } }
def charging : State := { inMode .kindling with pwr := { demo.pwr with charged := false }, kin := { demo.kin with done := [1, 2, 3] } }

theorem wit_HoldupChecksRun :
    pfWrites demo = true ∧ demo.pwr.checking = false ∧ checkDue.pwr.checkedAt + 86400 ≤ checkDue.cnt.opSeconds ∧ charging.mode.mode = .kindling ∧
    charging.kin.done.contains 3 = true ∧ charging.pwr.charged = false ∧ (checking false).pwr.checking = true ∧ (checking false).pwr.second = false ∧
    (checking true).pwr.second = true ∧ (2240 * 5000000 - 400000000) / 5400000 = 2000 ∧ (2240 * 5000000 - 400000001) / 5400000 = 1999 := by decide +kernel

/-- A return of wing 2 holds; Kindling stands before step 1, or before step 9. -/
def wingBack (cmd : Option CmdRef) : State := { demo with kin := { demo.kin with returning := some { wing := 2, cmd := cmd } } }
/-- Wing 7 at its ceiling, its first monitor low for `n` windows, and a window's monitors all at `v`. -/
def paceAt (n : Nat) : State :=
  setWingPwr 7 { wingPwr demo 7 with vcore := ceilingOf demo 7, mons := List.replicate 4 { pace := 0, minPace := 0, seen := false, lowRun := n, deepRun := 0 } } demo
def paceLate (s : State) (v : Nat) : Option (PaceMon × Nat) :=
  (((wingPwr s 7).mons.zip [v, v, v, v]).zipIdx.map (fun e => paceStep (wingPwr s 7).vcore (ceilingOf s 7) e.2 e.1.2 e.1.1)).zipIdx.find? (fun e =>
    decide (1000 ≤ e.1.lowRun) || decide (5 ≤ e.1.deepRun))
def kindleAt (l : List Nat) : State := { inMode .kindling with kin := { demo.kin with done := l }, pwr := { demo.pwr with passed := true } }

theorem wit_PaceReturnAndKindlingSteps :
    (wingPwr (paceAt 999) 7).vcore ≠ 0 ∧ (paceLate (paceAt 999) 0).isSome = true ∧ (paceLate (paceAt 998) 65535).isNone = true ∧
    [none, some ref0].all (fun c => decide ((wingBack c).kin.returning = some { wing := 2, cmd := c }) && !rollActive (wingBack c)) = true ∧ demo.mode.mode = .lit ∧
    [(1, []), (2, [1]), (3, [1, 2]), (4, [1, 2, 3]), (5, [1, 2, 3]), (6, [1, 2, 3, 4]), (7, [6]), (8, [7]), (9, [1, 2, 3, 4, 5, 6, 7, 8])].all (fun c =>
      let s := kindleAt c.2;
      decide (s.mode.mode = .kindling ∧ s.med.flush = none ∧ s.kin.resetPending = false) && !s.kin.done.contains c.1 &&
        (stepAfter c.1).all (fun m => s.kin.done.contains m) && stepReady s c.1) = true ∧
    (kindlingStep 4 0 [] (kindleAt [1, 2, 3])).mode.mode = .kindling ∧ (kindlingStep 9 0 [] (kindleAt [1, 2, 3, 4, 5, 6, 7, 8])).mode.mode ≠ .kindling := by decide +kernel

/-! Resets, controllers, doorbells. -/

/-- VFs 1 to 8 enabled, VF 8 in D3hot or not. -/
def vfs (d3 : Bool) : State := { demo with host := { demo.host with vfEnable := true, numVfs := 8, ctrls := [(8, { Ctrl.reset with d3 := d3 })] } }
def inReset : State := { demo with host := { demo.host with perst := true } }
def toReset (m : Mode) : State := { inReset with mode := { demo.mode with mode := m }, kin := { demo.kin with resetPending := true } }

theorem wit_ResetsAndLinkEvents :
    demo.host.perst = false ∧ demo.mode.mode ≠ .dark ∧ inReset.host.perst = true ∧ inReset.kin.resetPending = false ∧ demo.host.linkUp = true ∧
    [Mode.kindling, .extinguished].all (fun m => decide ((toReset m).kin.resetPending = true ∧ (toReset m).med.flush = none ∧ (toReset m).mode.mode = m)) = true ∧
    isClosed { toReset .lit with host := { (toReset .lit).host with perst := false } } = true ∧
    fnPresent (vfs false) 8 = true ∧ fnPresent (vfs false) 9 = false ∧ fnReach demo 0 = true ∧ demo.host.vfEnable = false ∧ 1023 ≤ totalVfs demo ∧
    fnReach (vfs false) 0 = true ∧ (vfs false).host.vfEnable = true ∧ (getCtrl (vfs false) 8).d3 = false ∧ (getCtrl (vfs true) 8).d3 = true := by decide +kernel

/-- The PF's controller, enabled: admin queue 0 and I/O queue 1 of 16 entries, one entry waiting in each. -/
def ctl0 : Ctrl :=
  { Ctrl.reset with
    en := true, rdy := true, vqNow := 64
    sqs := [(0, { size := 16, cq := 0, prio := 0, base := 0, tail := 1, head := 0, deleting := none }),
            (1, { size := 16, cq := 1, prio := 0, base := 0, tail := 1, head := 0, deleting := none })]
    cqs := [(0, { size := 16, base := 0, vector := 0, ien := true, head := 0, tail := 0, phase := true }),
            (1, { size := 16, base := 0, vector := 0, ien := true, head := 0, tail := 0, phase := true })] }

/-- A namespace of 1,000 blocks of 4,096 bytes. -/
def ns1 : NsInfo := { size := 1000, cap := 1000, lbaf := 0, extended := false, pit := 0, pil := false, guard64 := false, packed := false, shared := true }

/-- The module with the PF's controller enabled and namespace 1 attached to it. -/
def host1 : State := { demo with host := { demo.host with ctrls := [(0, ctl0)], namespaces := [(1, ns1)], attached := [(1, [0])] } }

/-- A shutdown of function f is in progress. -/
def shutting (f : Nat) : State := { vfs false with host := { (vfs false).host with ctrls := [(f, { ctl0 with shst := 1, sqs := [] })] } }

theorem wit_ControllersAndDoorbells :
    fnReach demo 0 = true ∧ (getCtrl demo 0).en = false ∧ fnReach host1 0 = true ∧ (getCtrl host1 0).en = true ∧ (getCtrl host1 0).shst = 0 ∧
    (shutting 3).kin.resetPending = false ∧ (toReset .lit).kin.resetPending = true ∧ fnReach (toReset .lit) 0 = true ∧ (getCtrl (shutting 3) 3).shst = 1 ∧ fnReach (shutting 3) 3 = true ∧ (cmdsOf (shutting 3) 3).all (fun c => c.admin && decide (c.sqe.opc = 0x0C)) = true ∧
    (getCtrl (shutting 0) 0).shst = 1 ∧ isClosed (shutting 0) = true ∧ 8192 ≤ doorbellLimit 0 ∧
    (Tbl.find (getCtrl host1 0).sqs 1).map (·.size) = some 16 ∧ (Tbl.find (getCtrl host1 0).cqs 1).map (·.size) = some 16 ∧
    Tbl.find (getCtrl host1 0).sqs 2 = none ∧ Tbl.find (getCtrl host1 0).cqs 8192 = none := by decide +kernel

/-! Fetching, queues, log pages, features. -/

/-- A part of command 9 of queue 1 that waits for its lock, and the entry before it in the table. -/
def ref1 : CmdRef := { fn := 0, sq := 1, cid := 9 }
def part0 (st : PartState) : Part :=
  { index := 0, nsid := 1, slba := 0, nlb := 4, owner := 0, state := st, status := none, records := 0, begun := false, mirrors := 0, off := 0 }

/-- An I/O command on namespace 1 with one part. -/
def ioAt (opc : Nat) (st : PartState) : State :=
  withOut [{ cmdOf { sqe0 opc with nsid := 1, cdw12 := 3 } with cmd := ref1, admin := false, parts := [part0 st] }] host1
def lock0 : LockEntry := { station := 0, cmd := ref1, part := 0, write := false, nsid := 1, slba := 0, nlb := 4, running := false }
def locked : State := let s := ioAt 0x02 .waiting; { s with host := { s.host with locks := [lock0] } }

theorem wit_FetchTakesAnEntryAndPartsBegin :
    mayFetch host1 0 0 = true ∧ mayFetch host1 0 1 = true ∧ findCmd host1 ref0 = none ∧
    ((Tbl.find (getCtrl host1 0).sqs 0).all (fun x => x.deleting = none) && (Tbl.find (getCtrl host1 0).sqs 1).all (fun x => x.deleting = none)) = true ∧
    adminCheck host1 0 (sqe0 0xFF) = some stOpcode ∧ stOpcode ≠ stDenied ∧ adminCheck host1 0 (sqe0 0x06) = none ∧ toModule true (sqe0 0x06) = false ∧
    ioCheck host1 0 { sqe0 0 with nsid := 0xFFFFFFFF } = none ∧ toModule false { sqe0 0 with nsid := 0xFFFFFFFF } = false ∧
    mkParts host1 false 1 (lockRanges { sqe0 0 with nsid := 0xFFFFFFFF }).1 = [] ∧
    ioCheck host1 0 { sqe0 2 with nsid := 1 } = none ∧ toModule false { sqe0 2 with nsid := 1 } = false ∧
    mkParts host1 false 1 (lockRanges { sqe0 2 with nsid := 1 }).1 ≠ [] ∧
    locked.host.locks = [lock0] ∧ partOf locked { station := 0, cmd := ref1, index := 0 } = some (part0 .waiting) ∧ partStalled locked false 1 0 4 = false := by decide +kernel

/-- Create I/O queue 2 of 16 entries; the deletion of queue 1. -/
def createQ (opc hi : Nat) : Sqe := { sqe0 opc with cdw10 := 15 * 2 ^ 16 + 2, cdw11 := hi * 2 ^ 16 + 3 }
def deleteQ (opc id : Nat) : Sqe := { sqe0 opc with cdw10 := id }

/-- A completion queue that no submission queue uses. -/
def spareCq : State :=
  { host1 with host := { host1.host with ctrls := [(0, { ctl0 with cqs := ctl0.cqs ++ [(5, { size := 2, base := 0, vector := 0, ien := false, head := 0, tail := 0, phase := true })] })] } }

/-- An Abort of command 9 of queue 1, with n Aborts before it. -/
def abortAt (n : Nat) (l : List OutCmd) : State :=
  withOut ((List.range n).map (fun i => { cmdOf (sqe0 0x08) with cmd := { ref0 with cid := 100 + i } }) ++ l ++ [cmdOf { sqe0 0x08 with cdw10 := 9 * 2 ^ 16 + 1 }]) host1
def victim (committed : Bool) : OutCmd := { cmdOf { sqe0 2 with nsid := 1 } with cmd := ref1, admin := false, committed := committed }

theorem wit_QueuesAndAbort :
    adminOf (adm (createQ 1 1) host1) ref0 0x01 = some (cmdOf (createQ 1 1)) ∧ queueRefusal host1 (cmdOf (createQ 1 1)) false = none ∧ 1 ≤ (getCtrl host1 0).vqNow ∧
    Tbl.find (getCtrl host1 0).sqs 2 = none ∧ (Tbl.find (getCtrl host1 0).cqs 1).isSome = true ∧
    adminOf (adm (createQ 5 2047) host1) ref0 0x05 = some (cmdOf (createQ 5 2047)) ∧ 2047 < vectorsOf host1 0 ∧
    adminOf (adm (deleteQ 4 5) spareCq) ref0 0x04 = some (cmdOf (deleteQ 4 5)) ∧ (Tbl.find (getCtrl spareCq 0).cqs 5).isSome = true ∧
    (getCtrl spareCq 0).sqs.any (fun e => decide (e.1 ≠ 0 ∧ e.2.cq = 5)) = false ∧
    adminOf (adm (deleteQ 0 1) host1) ref0 0x00 = some (cmdOf (deleteQ 0 1)) ∧ (Tbl.find (getCtrl host1 0).sqs 1).isSome = true ∧
    (∀ o ∈ cmdsOf (adm (deleteQ 0 1) host1) 0, o.cmd.sq ≠ 1) := by decide +kernel

theorem wit_QueuesAndAbort_aborts :
    (adminOf (abortAt 16 []) ref0 0x08).isSome = true ∧
    ((((abortAt 16 []).host.out.takeWhile (fun x => x.cmd ≠ ref0)).filter (fun x => x.admin ∧ x.sqe.opc = 0x08)).length,
     (((abortAt 15 []).host.out.takeWhile (fun x => x.cmd ≠ ref0)).filter (fun x => x.admin ∧ x.sqe.opc = 0x08)).length) = (16, 15) ∧
    findCmd (abortAt 15 []) ref1 = none ∧ findCmd (abortAt 0 [victim true]) ref1 = some (victim true) ∧
    findCmd (abortAt 0 [victim false]) ref1 = some (victim false) ∧ (victim false).admin = false ∧ (victim true).committed = true := by decide +kernel

/-- Get Log Page of a page, from an offset, 64 bytes. -/
def logPage (lid off : Nat) : Sqe := { sqe0 0x02 with cdw10 := 15 * 2 ^ 16 + lid, cdw12 := off }

/-- A page is found and the offset lies in it. -/
def pageAt (lid off : Nat) : Bool :=
  let s := adm (logPage lid off) host1;
  decide (adminOf s ref0 0x02 = some (cmdOf (logPage lid off))) && lidKnown 0 lid &&
  match findPage (logCapture 0 (logPage lid off) s) 0 (logPage lid off) with
  | .ok p => decide (off % 4 = 0 ∧ off < p.size) && decide ((logCapture 0 (logPage lid off) s).mode.mode ≠ .kindling)
  | .error _ => false

theorem wit_LogPagesAreAnswered :
    [0x02, 0x07, 0xC8, 0xC9, 0xCC, 0xCD, 0x03].all (fun l => pageAt l 0) = true ∧ pageAt 0x02 508 = true ∧ pageAt 0x02 510 = false ∧ pageAt 0x02 512 = false ∧
    lidKnown 0 0x06 = false ∧ ownRow 0x06 = false ∧ ownRow 0x03 = false := by decide +kernel

theorem wit_LogPagesAreAnswered_wide :
    pageAt 0xCB 0 = true ∧ (match findPage host1 0 (logPage 0xCA 0) with | .ok _ => lidKnown 0 0xCA | .error _ => false) = true := by decide +kernel

/-- An admin command with dwords 10 and 11. -/
def feat (opc d10 d11 : Nat) : Sqe := { sqe0 opc with nsid := 1, cdw10 := d10, cdw11 := d11 }

theorem wit_IdentifyFeaturesAndEventRequests :
    (match idData host1 0 (feat 6 1 0) with | .ok _ => true | .error _ => false) = true ∧ (match idData host1 0 (feat 6 0xFF 0) with | .ok _ => false | .error _ => true) = true ∧
    [0x01, 0x02, 0x05, 0x07, 0x08, 0x09, 0x0A, 0x0B, 0x0E, 0xC0].all (fun f => featureKnown f && decide (adminOf (adm (feat 9 f 0) host1) ref0 0x09 = some (cmdOf (feat 9 f 0)))) = true ∧
    bitOf (feat 9 0xC0 1).cdw10 31 = false ∧ awaits host1 ref0 = false ∧ chrFlag host1 0 3 = true ∧ (nsInfo host1 1).isSome = true ∧ otherLit host1 = [] ∧
    (members host1).contains 0 = true ∧ bitsOf (feat 10 0x0E 0).cdw10 10 8 < 3 ∧ bitsOf (feat 10 (3 * 2 ^ 8 + 0x0E) 0).cdw10 10 8 = 3 ∧
    adminOf (adm (feat 10 0x0E 0) host1) ref0 0x0A = some (cmdOf (feat 10 0x0E 0)) ∧
    adminOf (adm (feat 12 0 0) host1) ref0 0x0C = some (cmdOf (feat 12 0 0)) ∧ (getCtrl host1 0).aers.length < 16 ∧ (getCtrl host1 0).aers.contains ref0 = false ∧
    ((List.range 16).map (fun i => ({ ref0 with cid := 50 + i } : CmdRef))).contains ref0 = false := by decide +kernel

theorem wit_ReadingCommandsChangeOnlyTheHostSide : Instr.identify ref0 ∈ [Instr.identify ref0, .getFeatures ref0, .saveFunctionState ref0] := by decide

/-! Namespaces, virtual functions, firmware, format and sanitize. -/

/-- Data of a namespace to be created: 100 blocks. -/
def createData : List Byte := leBytes 8 100 ++ leBytes 8 100

/-- A controller list of one controller. -/
def oneCtrl (c : Nat) : List Byte := leBytes 2 1 ++ leBytes 2 c

/-- VF 3: Online or not, with resources, Running or Quiesced. -/
def vfAt (online : Bool) (m : FnMode) : State :=
  { vfs false with host := { (vfs false).host with online := if online then [(3, true)] else [], vq := [(3, 1)], vi := [(3, 1)] },
                   chr := { demo.chr with fnMode := if m = .running then [] else [(3, m)] } }

theorem wit_NamespacesAndVirtualization :
    let q := { sqe0 0x0D with data := createData };
    let d := { sqe0 0x0D with cdw10 := 1, nsid := 1 };
    adminOf (adm q host1) ref0 0x0D = some (cmdOf q) ∧ awaits (adm q host1) ref0 = false ∧ createRefusal host1 createData 0 = none ∧ lowestNs host1 = some 2 ∧
    adminOf (adm d host1) ref0 0x0D = some (cmdOf d) ∧ (nsInfo host1 1).isSome = true ∧ host1.host.stoppedNs.contains 1 = false := by decide +kernel

/-- Attachment of namespace 1 to controller 3 (0) or its removal from controller 0 (1), and an attachment of shard namespace 1,026. -/
def attachCmd (k : Nat) : Sqe := { sqe0 0x15 with data := oneCtrl (if k = 1 then 0 else 3), nsid := if k = 2 then 1026 else 1, cdw10 := if k = 1 then 1 else 0 }

theorem wit_NamespacesAndVirtualization_attachment :
    adminOf (adm (attachCmd 0) host1) ref0 0x15 = some (cmdOf (attachCmd 0)) ∧ nsExists host1 1 = true ∧ ctrlList (attachCmd 0).data = some [3] ∧
    ctrlExists host1 3 = true ∧ (Tbl.get [] host1.host.attached 1).contains 3 = false ∧ isPrivate host1 1 = false := by decide +kernel

theorem wit_NamespacesAndVirtualization_detachment :
    adminOf (adm (attachCmd 1) host1) ref0 0x15 = some (cmdOf (attachCmd 1)) ∧ ctrlList (attachCmd 1).data = some [0] ∧
    (Tbl.get [] host1.host.attached 1).contains 0 = true ∧
    nsExists host1 (attachCmd 2).nsid = true ∧ 3 / 1024 = (attachCmd 2).nsid - 1026 := by decide +kernel

theorem wit_NamespacesAndVirtualization_functions :
    let v := fun (a : Nat) (c : Nat) => { sqe0 0x1C with cdw10 := c * 2 ^ 16 + a };
    adminOf (adm (v 1 0) host1) ref0 0x1C = some (cmdOf (v 1 0)) ∧ bitsOf (v 1 0).cdw10 31 16 = cntlid host1 0 ∧
    secondaryOf (vfAt false .running) 3 = some 3 ∧ secondaryOf (vfAt false .running) 0 = none ∧ secondaryOf (vfAt false .running) 1023 = some 1023 ∧
    bitsOf (v 8 3).cdw10 31 16 = 3 ∧ (v 8 3).cdw10 % 16 = 8 ∧ Tbl.get false (vfAt false .running).host.online 3 = false ∧
    vfEnabled (vfAt false .running) 3 = true ∧ 1 ≤ Tbl.get 0 (vfAt false .running).host.vq 3 ∧ 1 ≤ Tbl.get 0 (vfAt false .running).host.vi 3 ∧
    Tbl.get false (vfAt true .quiesced).host.online 3 = true ∧ fnMode (vfAt true .quiesced) 3 = .quiesced ∧ fnMode (vfAt true .frozen) 3 = .frozen ∧
    fnMode (vfAt true .running) 3 = .running := by decide +kernel

/-- An image that may follow itself in a roll, signed with a key of these tests. -/
def rollPub : List Byte :=
  0x04 :: beBytes 48 0xe11a13c176223af905d2dd9a433a4df6606738ad6e20ec1b5d8e2169dedeb319fc247e9e317cfeb959088ecea8b38861 ++
    beBytes 48 0xb59c61ff3854831fb19d48927a72f167b58c97a2eed93ad266f4f7887ce6bd56240a9e2ac0a764b1845ea9628f7e39ad
def rollImage : List Byte :=
  ([0x59, 0x46, 0x57, 0x49] : List Byte) ++ leBytes 4 1 ++ ([0x31, 0x2E, 0x30, 0x30, 0x2E, 0x30, 0x30, 0x31] : List Byte) ++
  leBytes 4 0x01000001 ++ leBytes 4 1 ++ leBytes 4 544 ++ leBytes 2 1 ++ leBytes 2 1 ++ leBytes 2 0 ++ leBytes 2 1 ++
  List.replicate 220 0 ++ beBytes 16 0x21210001010001000100010000000000 ++ leBytes 4 0x01000001 ++ List.replicate 12 0 ++
  ([0x59, 0x53, 0x49, 0x47, 0, 0, 0, 0] : List Byte) ++ rollPub ++ List.replicate 55 0 ++
    beBytes 48 0x4e47a237cc608f03d38bf953c2c25c8cb99de4bbada9288a6b43656520b2559143f1fd344dde210802bbc630315996be ++
    beBytes 48 0x3056cfd08ad94ce89fa452daf589b0908fbe27505c0b7afa743da077a84b169b4b0c9eadef8bbec91d76ef692fde024d

/-- The module runs that image from slot 1 and has it in slot 2. -/
def fwHost : State :=
  { demo with
    kin := { demo.kin with running := 1, image := rollImage, images := [(1, rollImage), (2, rollImage)], download := Memory.writeBytes [] 0 rollImage,
                           pieces := [(0, 544)] }
    sec := { demo.sec with keyHash := [beBytes 48 0x4da0ba11da2b64c911c352f117664ffb6e8cc1806555cd821816b9a9d65bf668d06828026c8cb5dfaf5495d356599206, [], [], []] } }

/-- Firmware Commit of an action to a slot. -/
def fwCommit (a slot : Nat) : Sqe := { sqe0 0x10 with cdw10 := 8 * a + slot }

theorem wit_FirmwareIsDownloadedCommittedAndRolled :
    let q := { sqe0 0x11 with cdw10 := 8 * 2 ^ 20 - 1, cdw11 := 0 };
    adminOf (adm q demo) ref0 0x11 = some (cmdOf q) ∧ 4 * (q.cdw11 % 2 ^ 32) + 4 * (q.cdw10 % 2 ^ 32 + 1) = 33554432 ∧
    [0, 1, 2, 3].all (fun a => decide (adminOf (adm (fwCommit a 2) fwHost) ref0 0x10 = some (cmdOf (fwCommit a 2)) ∧ bitsOf (fwCommit a 2).cdw10 5 3 = a ∧
      commitSlot fwHost a ((fwCommit a 2).cdw10 % 8) = some 2)) = true ∧
    fwHost.kin.commit = none ∧ fwHost.kin.commitWait = [] ∧ inCaravan fwHost = false ∧ fwHost.kin.running ≠ 2 ∧
    Tbl.find fwHost.kin.images 2 = some rollImage ∧ (imgCohabs rollImage).contains (imgVersion fwHost.kin.image) = true ∧ fwHost.mode.wingOut = 0 ∧
    fwHost.mode.mode = .lit := by decide +kernel

theorem rollImage_length : rollImage.length = 544 := by decide +kernel
theorem rollImage_size : leNat ((rollImage.drop 24).take 4) = 544 := by decide +kernel
theorem rollImage_read (i n : Nat) (h : i + n ≤ 544) : Memory.readBytes (Memory.writeBytes [] 0 rollImage) (0 + i) n = (rollImage.drop i).take n :=
  readBytes_writeBytes rfl (by rw [rollImage_length]; exact h)
theorem rollImage_whole : (rollImage.drop 0).take 544 = rollImage := by
  rw [List.drop_zero]; exact List.take_of_length_le (le_of_eq rollImage_length)

theorem wit_FirmwareIsDownloadedCommittedAndRolled_downloaded : downloaded fwHost = some rollImage := by
  have e : fwHost.kin.download = Memory.writeBytes [] 0 rollImage := by dsimp only [fwHost]
  have h1 := rollImage_read 24 4 (by omega)
  have h2 := rollImage_read 0 544 (by omega)
  rw [Nat.zero_add] at h1
  rw [Nat.zero_add, rollImage_whole] at h2
  unfold downloaded
  rw [e, h1, rollImage_size]
  dsimp only
  rw [h2, if_pos (by decide +kernel)]

theorem wit_FirmwareIsDownloadedCommittedAndRolled_signed :
    imgCause fwHost (some rollImage) false = 0 ∧ [0, 1, 2, 3].all (fun a => decide (causeStatus fwHost a 0 = none)) = true := by decide +kernel

/-- A commit at a phase, and a roll in which wing w returns. -/
def commitAt (a phase wing : Nat) : CommitOp := { cmd := ref0, slot := 2, action := a, image := rollImage, phase := phase, wing := wing }
def committing (a phase wing : Nat) : State :=
  { fwHost with kin := { fwHost.kin with commit := some (commitAt a phase wing), returning := some { wing := wing, cmd := none } } }

theorem wit_FirmwareIsDownloadedCommittedAndRolled_steps :
    [0, 1, 2].all (fun a => decide ((committing a 0 0).kin.commit = some (commitAt a 0 0) ∧ (commitAt a 0 0).phase = 0)) = true ∧
    (committing 3 3 0).kin.commit = some (commitAt 3 3 0) ∧ (committing 3 3 0).med.flush = none ∧
    [0, 7].all (fun w => decide ((committing 3 2 w).kin.commit = some (commitAt 3 2 w) ∧ (committing 3 2 w).kin.returning = some { wing := w, cmd := none })) = true := by
  decide +kernel

/-- A Format of namespace 1 at a step. -/
def formatOp (n : Nat) : FormatOp := { cmd := ref0, nsid := 1, ses := 2, lbaf := 2, extended := false, pit := 3, pil := false, step := n, acks := [] }
def formatting (n : Nat) : State := { host1 with host := { host1.host with format := some (formatOp n) } }
def sanOp : SanitizeOp := { action := 4, begun := [], ended := [], localDone := false }
def sanitizing : State := { host1 with host := { host1.host with sanitize := some sanOp, sanStatus := 2 } }

theorem wit_ManagementFormatAndSanitize :
    let f := { sqe0 0x80 with nsid := 1, cdw10 := 2 * 2 ^ 9 + 3 * 2 ^ 5 + 2 };
    let z := fun (n : Nat) => { sqe0 0x84 with cdw10 := n };
    adminOf (adm (sqe0 0x1D) host1) ref0 0x1D = some (cmdOf (sqe0 0x1D)) ∧ imgField (sqe0 0x1D).data 0 1 ≠ 7 ∧ imgField [7] 0 1 = 7 ∧
    adminOf (adm (sqe0 0x1E) host1) ref0 0x1E = some (cmdOf (sqe0 0x1E)) ∧ Tbl.find host1.host.miPending 0 = none ∧
    adminOf (adm f host1) ref0 0x80 = some (cmdOf f) ∧ host1.host.format = none ∧ host1.host.stoppedNs.contains 1 = false ∧ (nsInfo host1 1).isSome = true ∧
    (bitsOf f.cdw10 11 9, bitsOf f.cdw10 7 5, bitsOf f.cdw10 3 0, bitsOf f.cdw10 13 12) = (2, 3, 2, 0) ∧
    [1, 2, 3, 4].all (fun n => decide ((formatting n).host.format = some (formatOp n))) = true ∧ formatBusy (formatting 2) 1 = false ∧
    [2, 4, 1, 0, 3, 5].all (fun n => decide (adminOf (adm (z n) host1) ref0 0x84 = some (cmdOf (z n)))) = true ∧ host1.host.sanitize = none ∧
    otherLit (sanitizeBegin 2 1 host1) = [] ∧ host1.host.sanStatus ≠ 3 ∧ sanitizing.host.sanitize = some sanOp ∧ sanOp.localDone = false ∧
    sanitizing.host.locks = [] ∧ sanitizing.host.out = [] := by decide +kernel

/-! Vendor commands. -/

/-- Retire of a kind with the bytes of its target. -/
def retire0 (kind : Nat) (target : List Byte) : Sqe := { sqe0 0xC1 with cdw10 := 15, data := leBytes 1 kind ++ List.replicate 7 0 ++ target }

/-- Spares of a plane used, a die block retired, pages and a bank of DRAM retired, no spare page left. -/
def worn : State :=
  { demo with
    med := { demo.med with sparesUsed := [(4 * 1023 + 3, 54)], blocks := [(blkKey 1 2, { DieBlock.fresh with state := .retired })] }
    drm := { demo.drm with chans := [(0, { DramCh.reset with remap := [(5, { target := 9, bank := false })], bankRetired := 1 }), (1, { DramCh.reset with left := 0 })] } }

theorem wit_VendorCommandsTakeEffect_retire :
    let f := retire0 1 (leBytes 2 1023 ++ [3, 0] ++ leBytes 2 1023);
    let g := retire0 1 (leBytes 2 1 ++ [0, 0] ++ leBytes 2 2);
    let p := retire0 2 ([7] ++ List.replicate 7 0 ++ leBytes 8 (2 ^ 34 - 4096));
    let b := retire0 3 [7, 1, 7, 3];
    adminOf (adm f demo) ref0 0xC1 = some (cmdOf f) ∧ 64 ≤ adminLen f ∧ zeros (fitBytes 64 f.data) 1 7 = true ∧ zeros (fitBytes 64 f.data) 24 40 = true ∧
    (imgField (fitBytes 64 f.data) 8 2, imgField (fitBytes 64 f.data) 10 1, imgField (fitBytes 64 f.data) 12 2) = (1023, 3, 1023) ∧ 1023 < dieBlocks demo ∧
    zeros (fitBytes 64 f.data) 11 1 = true ∧ demo.med.retires = [] ∧ portOk demo 1023 = true ∧ demo.med.jrnStall = false ∧ 2 < sparesFree demo 1023 3 ∧ sparesFree worn 1023 3 = 2 ∧
    (imgField (fitBytes 64 g.data) 8 2, imgField (fitBytes 64 g.data) 12 2) = (1, 2) ∧ (getBlk worn (blkKey 1 2)).state = .retired ∧ (getBlk demo (blkKey 1023 1023)).state ≠ .retired ∧
    imgField (fitBytes 64 p.data) 8 1 = 7 ∧ imgField (fitBytes 64 p.data) 16 8 = 2 ^ 34 - 4096 ∧
    (imgField (fitBytes 64 b.data) 8 1, imgField (fitBytes 64 b.data) 9 1, imgField (fitBytes 64 b.data) 10 1, imgField (fitBytes 64 b.data) 11 1) = (7, 1, 7, 3) ∧
    pageRetired (getDram worn 0) 5 = true ∧ pageRetired (getDram worn 1) 5 = false ∧ retirePage (getDram worn 1) 5 = none ∧
    (retirePage (getDram demo 7) 6).isSome = true ∧ pageRetired (getDram demo 7) 6 = false ∧ (getDram worn 0).bankRetired.getLsbD 0 = true ∧
    (getDram demo 7).bankRetired.getLsbD 31 = false := by decide +kernel

/-- The module with a firmware image, and Light List copies A and B, or B alone. -/
def llHost (a : Bool) : State :=
  { demo with kin := { demo.kin with image := madeImage, copyA := if a then some madeList else none, causeA := if a then 0 else 1,
                                     copyB := if a then none else some madeList, causeB := if a then 1 else 0 } }

theorem wit_VendorCommandsTakeEffect_list :
    let q := { sqe0 0xC8 with cdw10 := 15, data := madeList };
    [true, false].all (fun a =>
      let s := adm q (llHost a);
      decide (adminOf s ref0 opLightList = some (cmdOf q)) && firstLlWrite s ref0 && decide (llCause s (some (fitBytes (adminLen q) q.data)) false = 0)) = true ∧
    fitBytes (adminLen q) q.data = madeList ∧ madeList.length = 64 ∧ llLength madeList = 64 ∧ ((llTarget (llHost true)).1, (llTarget (llHost false)).1) = (1, 0) := by decide +kernel

/-- A derived key in slot 63. -/
def keyed : State :=
  { demo with sec := { demo.sec with root := some (List.replicate 32 1),
                                     slots := [(63, { key := List.replicate 32 2, kind := .derive, fixed := 0, epoch := 0, used := 0, label := List.replicate 32 3, gen := 1 })] } }

theorem wit_VendorCommandsTakeEffect_keys_and_wings :
    let w := fun (d : Nat) => { sqe0 0xC7 with cdw11 := d };
    let k := fun (d e : Nat) => { sqe0 0xC9 with cdw11 := d, cdw12 := e };
    let out := { demo with mode := { demo.mode with wingOut := 128 } };
    adminOf (adm (sqe0 0xC0) demo) ref0 0xC0 = some (cmdOf (sqe0 0xC0)) ∧ demo.chr.commit.map (·.cmd) ≠ some ref0 ∧
    adminOf (adm (w (7 * 16)) demo) ref0 0xC7 = some (cmdOf (w (7 * 16))) ∧ bitsOf (w (7 * 16)).cdw11 6 4 = 7 ∧ bitsOf (w (7 * 16)).cdw11 3 1 = 0 ∧
    (w (7 * 16)).cdw11 / 2 ^ 7 = 0 ∧ rollActive demo = false ∧ demo.mode.wingOut = 0 ∧ (w (7 * 16 + 1)).cdw11 % 2 = 1 ∧ out.mode.wingOut.getLsbD 7 = true ∧
    out.kin.returning = none ∧ adminOf (adm (k 0 63) keyed) ref0 0xC9 = some (cmdOf (k 0 63)) ∧ (keySlot keyed 63).map (·.kind) = some .derive ∧
    (keySlot keyed 63).map (·.gen) = some 1 ∧ keyed.sec.root = some (List.replicate 32 1) ∧ slotInUse keyed 63 = false ∧ keyed.sec.epoch < 2 ^ 32 - 1 ∧
    (k 1 1023).cdw12 % 2 ^ 10 = 1023 ∧ Tbl.get 1 demo.sec.fnGen 1023 < max64 := by decide +kernel

/-- Form of all 16 members as a ring; the module as member 0 of that caravan, with every other member Lit or only itself. -/
def carData : List Byte := [1, 0, 1, 0, 0, 0, 0, 0] ++ leBytes 8 0 ++ leBytes 8 0xFFFF ++ [16] ++ List.replicate 39 0 ++ List.replicate 64 0
def carOf (n : Nat) (lit : Bool) : State :=
  { host1 with rte := { demo.rte with record := { CarRecord.lone with id := 1, epoch := 1, code := 1, members := BitVec.ofNat 64 (2 ^ n - 1) },
                                      states := if lit then (List.range n).map (fun i => (i, 1)) else [] } }

theorem wit_CaravanAndFunctionCommandsTakeEffect :
    let q := fun (a : Nat) => { sqe0 0xC2 with cdw11 := a, data := carData };
    [0, 1, 2, 3].all (fun a => decide (adminOf (adm (q a) host1) ref0 0xC2 = some (cmdOf (q a)))) = true ∧
    (host1.rte.forming = none ∧ host1.rte.joining = none ∧ host1.rte.leaving = none) ∧ imgField (fitBytes 128 carData) 0 1 = 1 ∧
    zeros (fitBytes 128 carData) 3 5 = true ∧ zeros (fitBytes 128 carData) 25 39 = true ∧ zeros (fitBytes 128 carData) 8 8 = true ∧
    (BitVec.ofNat 64 (imgField (fitBytes 128 carData) 16 8)).getLsbD (ownStation host1) = true ∧
    inCaravan host1 = false ∧ imgField (fitBytes 128 carData) 64 1 ≤ 7 ∧
    imgField (fitBytes 128 carData) 24 1 = 16 ∧ inCaravan (carOf 17 true) = true ∧ (members (carOf 17 true)).contains 16 = true ∧ 17 ≤ (members (carOf 17 true)).length ∧
    codeK 1 + codeM 1 + 2 ≤ ((members (carOf 17 true)).filter (fun i => Tbl.get 0 (carOf 17 true).rte.record.groups i = Tbl.get 0 (carOf 17 true).rte.record.groups 16)).length ∧
    leaveRuns (carOf 17 true) 16 = false ∧ { carOf 17 true with host := demo.host }.host.namespaces = [] := by decide +kernel

/-- A link Up, to ask a caravan through; the lead of a caravan, and a member that is not. -/
def linkUp0 : State := { host1 with rte := { host1.rte with links := [(0, { Link.reset with state := .up, peer := 1 })] } }
def memberOf (own : Nat) : State := let s := carOf 17 true; { s with rte := { s.rte with station := own } }

theorem wit_CaravanAndFunctionCommandsTakeEffect_roles :
    (List.range 4).find? (fun l => (getLink linkUp0 l).state = .up) = some 0 ∧ leads (memberOf 0) = true ∧ leads (memberOf 5) = false := by decide +kernel

theorem wit_CaravanAndFunctionCommandsTakeEffect_functions :
    let f := fun (opc d : Nat) => { sqe0 opc with cdw11 := d };
    [.running, .quiesced, .frozen].all (fun m => decide (vfEnabled (vfAt true m) 3 = true ∧ fnMode (vfAt true m) 3 = m)) = true ∧
    [(0xC3, 3), (0xC3, 3 + 1024), (0xC3, 3 + 2048), (0xC4, 3), (0xC4, 3 + 1024), (0xC5, 3), (0xC6, 3)].all (fun x =>
      decide (adminOf (adm (f x.1 x.2) (vfAt true .running)) ref0 x.1 = some (cmdOf (f x.1 x.2)) ∧ (f x.1 x.2).cdw11 % 2 ^ 10 = 3)) = true ∧
    (bitsOf (3 + 1024) 11 10, bitsOf (3 + 2048) 11 10, bitOf (3 + 1024) 10) = (1, 2, true) ∧
    Tbl.find (vfAt true .running).chr.fnWait 3 = none ∧ imageOff (f 0xC5 3) % 4 = 0 ∧ imageOff (f 0xC5 3) < imageLen (vfAt true .frozen) 3 ∧
    (vfAt true .frozen).chr.restore = none ∧ restoreTarget (vfAt true .frozen) 3 = true ∧ imageOff (f 0xC6 3) = 0 := by decide +kernel

/-! Programs, local memory, I/O and media. -/

/-- A program image of one instruction: RET. -/
def progImg : List Byte :=
  ([0x59, 0x53, 0x4C, 0x49, 1, 0, 1, 0] : List Byte) ++ leBytes 4 2 ++ leBytes 4 0 ++ leBytes 4 4096 ++ leBytes 4 4096 ++ List.replicate 16 0 ++ leBytes 8 258 ++
    leBytes 4 3104591835 ++ List.replicate 204 0 ++ [0, 0x68]

/-- A thread of command 9 of queue 1 that runs with range set 255. -/
def thread0 : Task := { blankTask with incarn := 1, state := .running, cmd := some ref1, rset := 255 }

/-- Slot 63 holds the image, activated or not; range set 255 exists, and a thread uses it or not. -/
def progs (act used : Bool) : State :=
  { host1 with prog := { host1.prog with slots := [(63, { arriving := [], image := some progImg, activated := act })], rsets := [(255, [(0, 4096)])] }
               disp := { host1.disp with tasks := if used then [(0, thread0)] else [] } }

/-- Load Program of bytes at an offset into slot 63; deletion and creation of range sets. -/
def loadQ (off : Nat) (b : List Byte) : Sqe := { sqe0 0x85 with nsid := 1025, cdw10 := 0xC0 * 2 ^ 16 + 63, cdw12 := b.length, cdw13 := off, data := b }
def setQ (sel n : Nat) (l : List (Nat × Nat)) : Sqe :=
  { sqe0 0x89 with cdw10 := sel * 2 ^ 16 + n, cdw11 := l.length, data := l.flatMap (fun x => leBytes 4 1026 ++ leBytes 4 x.2 ++ leBytes 8 x.1) }

theorem wit_ActivatedSlotsAndUsedRangeSetsAreKept :
    adminOf (adm (loadQ 0 []) (progs true false)) ref0 opLoadProgram = some (cmdOf (loadQ 0 [])) ∧ awaits (adm (loadQ 0 []) (progs true false)) ref0 = false ∧
    (loadQ 0 []).cdw10 % 2 ^ 16 = 63 ∧ bitsOf (loadQ 0 []).cdw10 23 16 = 0xC0 ∧ (progSlot (progs true false) 63).activated = true ∧
    adminOf (adm (setQ 1 255 []) (progs true true)) ref0 opRangeSet = some (cmdOf (setQ 1 255 [])) ∧ bitsOf (setQ 1 255 []).cdw10 17 16 = 1 ∧
    (setQ 1 255 []).cdw10 % 2 ^ 16 = 255 ∧ (Tbl.find (progs true true).prog.rsets 255).isSome = true ∧
    (∃ e ∈ (progs true true).disp.tasks, e.2.kind = .thread ∧ e.2.rset = 255) := by decide +kernel

/-- The first 47 bytes of the image are in slot 63. -/
def arriving : State := { host1 with prog := { host1.prog with slots := [(63, { arriving := progImg.take 47, image := none, activated := false })] } }

theorem wit_ProgramsAndLocalMemory_load :
    let a := loadQ 0 (progImg.take 47);
    let b := loadQ 47 (progImg.drop 47);
    adminOf (adm a host1) ref0 opLoadProgram = some (cmdOf a) ∧ (progSlot host1 63).activated = false ∧ (fitBytes a.cdw12 a.data).length = 47 ∧
    adminOf (adm b arriving) ref0 opLoadProgram = some (cmdOf b) ∧ b.cdw13 = (progSlot arriving 63).arriving.length ∧
    (progSlot arriving 63).arriving ++ fitBytes b.cdw12 b.data = progImg := by decide +kernel

theorem wit_ProgramsAndLocalMemory_image :
    progImg.length = 258 ∧ imgLen progImg = 258 ∧ imgLen (progImg.take 48) ≠ 48 ∧
    let x := { sqe0 0x88 with nsid := 1025, cdw10 := 2 ^ 16 + 63 };
    let y := { x with cdw10 := 0 };
    adminOf (adm x (progs false false)) ref0 opProgAct = some (cmdOf x) ∧ bitsOf x.cdw10 19 16 = 1 ∧ (progSlot (progs false false) 63).image ≠ none ∧
    adminOf (adm y host1) ref0 opProgAct = some (cmdOf y) ∧ bitsOf y.cdw10 19 16 = 0 := by decide +kernel

/-- Stretches of 20 bytes with the running CRC after each. -/
def cutsOf (b : List Byte) (l : List (BitVec 32)) : List (List Byte × BitVec 32) := l.zipIdx.map (fun x => ((b.drop (20 * x.2)).take 20, x.1))
def progCuts : List (List Byte × BitVec 32) :=
  cutsOf (zeroRun progImg 48 4) [3555379473#32, 3882549147, 569047660, 921079924, 3486603688, 2899419978, 3183326720, 2890373312, 229526636, 1130298375, 52833672, 2813191723, 1190375460]

/-- Each stretch of a fold takes the value before it to its own. -/
def cutsOk {α β : Type} [DecidableEq β] (f : β → α → β) : β → List (List α × β) → Bool
  | _, [] => true
  | c, x :: l => decide (x.1.foldl f c = x.2) && cutsOk f x.2 l

theorem cutsOk_fold {α β : Type} [DecidableEq β] (f : β → α → β) (l : List (List α × β)) :
    ∀ c, cutsOk f c l = true → (l.flatMap (·.1)).foldl f c = (l.map (·.2)).getLastD c := by
  induction l with
  | nil => intro c _; rfl
  | cons x l ih =>
    intro c h
    simp only [cutsOk, Bool.and_eq_true, decide_eq_true_eq] at h
    rw [List.flatMap_cons, List.foldl_append, h.1, ih _ h.2, List.map_cons, List.getLastD_cons]

theorem progCuts_ok : cutsOk crcByte 0xFFFFFFFF#32 progCuts = true := by decide +kernel
theorem progCuts_whole : progCuts.flatMap (·.1) = zeroRun progImg 48 4 := by decide +kernel
theorem progCuts_last : (((progCuts.map (·.2)).getLastD 0xFFFFFFFF#32) ^^^ 0xFFFFFFFF#32).toNat = 3104591835 := by decide +kernel
theorem progImg_crc : crc32c (zeroRun progImg 48 4) = 3104591835 := by
  unfold crc32c
  rw [← progCuts_whole, cutsOk_fold _ _ _ progCuts_ok, progCuts_last]

theorem wit_ProgramsAndLocalMemory_check : imgCheck progImg = 0 := by
  have h1 : imgBad1 (progImg ++ zeroBytes (256 - progImg.length)) = false := by decide +kernel
  have h2 : imgBad2 (progImg ++ zeroBytes (256 - progImg.length)) = false := by decide +kernel
  have h3 : imgCrc progImg = 3104591835 := by decide +kernel
  simp only [imgCheck, h1, h2, h3, progImg_crc, Bool.false_eq_true, if_false, ne_eq, not_true_eq_false]

theorem wit_ProgramsAndLocalMemory_sets :
    let c := setQ 0 0 ((List.range 16).map (fun i => (2 ^ 30 * (i % 8), 2 ^ 30)));
    adminOf (adm c host1) ref0 opRangeSet = some (cmdOf c) ∧ bitsOf c.cdw10 17 16 = 0 ∧ (rangeList c).length = 16 ∧ (rangeList c).all (rangeOk host1) = true ∧
    (List.range 256).find? (fun i => (Tbl.find host1.prog.rsets i).isNone) = some 0 ∧
    adminOf (adm (setQ 1 255 []) (progs false false)) ref0 opRangeSet = some (cmdOf (setQ 1 255 [])) ∧
    (Tbl.find (progs false false).prog.rsets 255).isSome = true ∧ setRunning (progs false false) 255 = false := by decide +kernel

/-- An Execute Program of slot 63 with range set 255, fetched, or waiting for a thread. -/
def executeCmd : OutCmd := { cmdOf { sqe0 0x01 with nsid := 1025, cdw10 := 255 * 2 ^ 16 + 63, cdw11 := 16 } with cmd := ref1, admin := false }
def executing (w : Bool) : State :=
  withOut [executeCmd] { progs true false with prog := { (progs true false).prog with
    waiting := if w then [{ cmd := ref1, prog := 63, rset := 255, param := [], image := progImg }] else [] } }

theorem wit_ProgramsAndLocalMemory_threads :
    freshExecute (executing false) ref1 = some executeCmd ∧ (executing false).med.flush = none ∧ (executing false).mode.mode = .lit ∧
    (progSlot (executing false) 63).activated = true ∧ (progSlot (executing false) 63).image = some progImg ∧
    (Tbl.find (executing false).prog.rsets (bitsOf executeCmd.sqe.cdw10 31 16)).isSome = true ∧ executeCmd.sqe.cdw10 % 2 ^ 16 = 63 ∧
    (executing true).prog.waiting.find? (fun w => mayThread (executing true) w.cmd.fn) = some { cmd := ref1, prog := 63, rset := 255, param := [], image := progImg } ∧
    (threadWing (executing true)).isSome = true ∧ findCmd (executing true) ref1 = some executeCmd ∧ threadCount (executing true) < 1024 ∧
    freeSlot (executing true) 0 = some 0 := by decide +kernel

/-- A command on the SLM namespace at byte a, n bytes; its module has the line at 64 of wing 0 poisoned or not. -/
def slmOut (opc a n : Nat) (d : List Byte) : OutCmd :=
  { cmdOf { sqe0 opc with nsid := 1026, cdw10 := a % 2 ^ 32, cdw11 := a / 2 ^ 32, cdw12 := n, data := d } with cmd := ref1, admin := false }
def slmAt (c : OutCmd) (bad : Bool) : State :=
  withOut [c] { host1 with drm := { host1.drm with chans := if bad then [(0, { DramCh.reset with poison := [64] })] else [] } }
/-- A Memory Copy of 8 bytes of the SLM namespace. -/
def copyOut : OutCmd := slmOut 0x19 128 0 (leBytes 8 1026 ++ leBytes 8 64 ++ leBytes 8 8 ++ List.replicate 8 0)

theorem wit_ProgramsAndLocalMemory_slm :
    let rd := slmOut 0x02 56 64 [];
    let wr := slmOut 0x01 (2 ^ 33 - 8) 8 [1, 2, 3, 4, 5, 6, 7, 8];
    slmCmd (slmAt rd false) ref1 opMemRead = some rd ∧ slmPoisoned (slmAt rd false) 56 64 = false ∧ slmCmd (slmAt rd true) ref1 opMemRead = some rd ∧
    slmPoisoned (slmAt rd true) (sqeSlba rd.sqe) rd.sqe.cdw12 = true ∧ slmPoisoned (slmAt rd true) 128 64 = false ∧ slmPoisoned (slmAt rd true) 0 64 = false ∧
    slmCmd (slmAt wr false) ref1 opMemWrite = some wr ∧ sqeSlba wr.sqe = 2 ^ 33 - 8 ∧
    slmCmd (slmAt copyOut false) ref1 opMemCopy = some copyOut ∧ copyOut.parts = [] ∧ copySources copyOut.sqe = [(1026, 64, 8)] ∧
    (copySources copyOut.sqe).all (fun x => !(decide (1024 < x.1) && slmPoisoned (slmAt copyOut false) x.2.1 x.2.2)) = true := by decide +kernel

theorem wit_MemoryWriteChangesItsRangeOnly :
    let wr := slmOut 0x01 (2 ^ 33 - 8) 8 [1, 2, 3, 4, 5, 6, 7, 8];
    slmCmd (slmAt wr true) ref1 opMemWrite = some wr ∧ slmPoisoned (slmAt wr true) (sqeSlba wr.sqe) wr.sqe.cdw12 = false ∧
    Memory.wf (slmAt wr true).prog.slm = true := by decide +kernel

/-- A command whose one part on bale 0 runs, the bale Open here or Empty; or one without parts. -/
def ioRun (opc : Nat) (placed : Bool) : State :=
  { ioAt opc .running with med := { demo.med with dir := if placed then [(2 ^ 32, { station := 0, wing := 0, state := 1, blockIx := 1 })] else [] } }
def pr1 : PartRef := { station := 0, cmd := ref1, index := 0 }
def noPart (opc : Nat) : State := withOut [{ cmdOf { sqe0 opc with nsid := 1 } with cmd := ref1, admin := false }] host1

theorem wit_IoCommandsRunTheirParts :
    noParts (noPart 0x00) ref1 0x00 = true ∧ noParts (noPart 0x09) ref1 0x09 = true ∧ host1.med.flush = none ∧
    [0x01, 0x02, 0x05, 0x08, 0x09, 0x0C].all (fun o =>
      decide (partsAt (ioRun o true) 0 ref1 = [pr1] ∧ partOf (ioRun o true) pr1 = some (part0 .running) ∧ nsInfo (ioRun o true) 1 = some ns1) &&
        canBegin (ioRun o true) pr1 o) = true ∧
    noParts (ioRun 0x09 true) ref1 0x09 = false ∧ pr1.station = ownStation (ioRun 0x01 true) ∧ (sqeOf (ioRun 0x01 true) pr1).map (·.nsid) = some 1 ∧
    baleList 0 4 = [0] ∧ baleList 16383 2 = [0, 1] ∧ (baleOwner (ioRun 0x01 true) 1 0).isSome = true ∧ ownsBale (ioRun 0x01 true) 1 0 = true ∧
    (baleOwner (ioRun 0x01 false) 1 0).isSome = false := by decide +kernel

/-- A write cache page that is unit, an erase that runs, a read, a full block, a record, an open set with a lagging member. -/
def unit0 (issued : Bool) : ProgUnit := { port := 1023, block := blkKey 1023 7, slot := 0, oneBit := true, issued := issued, held := false, items := [.pad] }
def read0 : DieRead := { id := 3, grain := { nsid := 1, bale := 0, grain := 0 }, entry := mkEntry 4 3 40 7 false 0 0 15, old := 0, why := .host pr1, asked := false }
def mediaAt (issued : Bool) : State :=
  { demo with med := { demo.med with
      units := [unit0 issued], reads := [read0], notReady := [(5, 2)], journal := [{ seq := 1, source := 0, body := .ckptBegin 1, act := .nothing, torn := false }], seq := 1
      blocks := [(blkKey 0 1023, { DieBlock.fresh with state := .pending, erasing := true }),
                 (blkKey 1 2, { DieBlock.fresh with state := .opened, next := slotsOf .qlc }),
                 (blkKey 2 3, { DieBlock.fresh with state := .opened, set := 1, next := 0 }),
                 (blkKey 3 3, { DieBlock.fresh with state := .opened, set := 1, pos := 1, next := 1 })]
      sets := [(0, { role := .qlc, members := [some (blkKey 2 3), some (blkKey 3 3)], dropped := [] })] } }
def ckptAt (n : Nat) : State := { demo with med := { demo.med with ckptStep := n, ckptNum := 1, ckptBegin := 1 } }

theorem wit_MediaEventsTakeTheirPaths :
    (mediaAt true).mode.mode ≠ .dark ∧ (mediaAt true).med.flush = none ∧
    nextUnit (mediaAt true) 1023 = some (unit0 true) ∧
    (getBlk (mediaAt true) (blkKey 0 1023)).erasing = true ∧ (mediaAt true).med.reads.find? (fun d => d.id = 3) = some read0 ∧
    readWaits (mediaAt true) read0 = false ∧ readStep (mediaAt true) read0 .hard = .hard ∧
    (mediaAt true).med.faulted.contains 5 = false ∧ Tbl.get 0 (mediaAt true).med.notReady 5 + 1 = 3 ∧ Tbl.get 0 (mediaAt true).med.notReady 6 + 1 < 3 ∧
    blockFull (mediaAt true) (blkKey 1 2) (getBlk (mediaAt true) (blkKey 1 2)) = true ∧
    ((mediaAt true).med.journal.find? (fun r => (mediaAt true).med.durSeq < r.seq)).isSome = true ∧
    [2, 6, 5, 4].all (fun n => decide ((ckptAt n).med.ckptStep = n)) = true ∧ ckptPending (ckptAt 5) = false ∧
    (mediaAt false).med.units.find? (fun u => u.port = (1023 : Fin 1024).val ∧ ¬ u.issued) = some (unit0 false) ∧
    (let b := getBlk (mediaAt true) (blkKey 2 3); b.set ≠ 0 ∧ b.state = .opened ∧ setAhead (mediaAt true) b = true ∧ b.next < slotsOf b.role) := by decide +kernel

/-! Maintenance, placement, the caravan and its links. -/

/-- A GL-9100-100 whose wing 0 has port 0 only, 63 Free blocks on it and the others sealed, and reclaims below 64. -/
def maint : State :=
  { demo with cfg := { demo.cfg with variant := .v100A }
              med := { demo.med with rclStart := 64, faulted := (List.range 127).map (· + 1)
                                     blocks := (List.range 434).map (fun i => (blkKey 0 (15 + i), { DieBlock.fresh with state := .sealed, sealOrder := i })) } }
/-- A compatible forecourt of one block, which is sealed. -/
def full : State :=
  { demo with med := { demo.med with compat := true, fcBlocks := 1, foldStart := 95
                                     blocks := [(blkKey 1023 3, { DieBlock.fresh with state := .sealed, role := .forecourt, sealOrder := 1 })] } }

/-- A host grain that waits for the compressor. -/
def frame0 : CacheGrain := { item := { id := { nsid := 1, bale := 0, grain := 4095 }, img := GrainImg.zero, why := .host [pr1] 15 }, wait := .frame, wing := 3, cmp := 3 }
def moveOf (src dst sw dw step : Nat) : Move :=
  { nsid := 1, bale := 0, srcStation := src, srcWing := sw, dstStation := dst, dstWing := dw, reason := 1, step := step, todo := [], marked := [4095],
    passes := 1, start := 0, stalled := true, out := 0, drained := false, block := 0 }
def withMove (m : Move) (s : State) : State := { s with plc := { s.plc with moves := [m] } }

theorem wit_MaintenanceAndWindows :
    demo.mode.mode = .lit ∧ demo.med.flush = none ∧ Tbl.find full.med.folds 7 = none ∧ foldSource full 7 = some (blkKey 1023 3) ∧ full.med.foldStart ≤ occPct full ∧
    foldRuns full 7 = true ∧ demo.med.compat = false ∧ demo.med.journal.all (fun r => decide (r.seq ≤ demo.med.durSeq)) = true ∧
    (let s := setCmp 3 { getCmp demo 3 with threshPct := 50 } { demo with med := { demo.med with cache := [frame0] } };
      s.med.cache.find? (fun c => c.wait = .frame ∧ c.item.id = { nsid := 1, bale := 0, grain := 4095 }) = some frame0 ∧ frameWing s frame0 = 3 ∧
        notSmaller 8192 (inputBytes s 1) (getCmp s 3).threshPct = false ∧ notSmaller 8193 (inputBytes s 1) (getCmp s 3).threshPct = true) ∧
    (let s := withMove (moveOf 0 0 7 3 3) demo;
      findMove s 1 0 = some (moveOf 0 0 7 3 3) ∧ legHolds s 1 0 = false ∧ baleRunning s 1 0 = false ∧ inWing s 1 0 7 = false) ∧
    (let s := withMove (moveOf 0 5 7 3 6) demo;
      findMove s 1 0 = some (moveOf 0 5 7 3 6) ∧ legHolds s 1 0 = false ∧ baleRunning s 1 0 = false ∧ ownStation s = 0) := by decide +kernel

/-- An audit that is due waits for this record. -/
theorem wit_MaintenanceAndWindows_audit :
    let s := { demo with med := { demo.med with journal := [{ seq := 1, source := 0, body := .blockState 0 0 .qlc .free .opened 0, act := .nothing, torn := false }], seq := 1 } };
    s.mode.mode = .lit ∧ s.med.journal.any (fun r => decide (s.med.durSeq < r.seq) && decide (r.body = .blockState 0 0 .qlc .free .opened 0)) = true := by decide +kernel

theorem wit_MaintenanceAndWindows_window :
    let s := { demo with plc := { demo.plc with migrEn := false } };
    inCaravan (resumeMoves (rollWindow [] s)) = false ∧ (resumeMoves (rollWindow [] s)).plc.migrEn = false := by decide +kernel

theorem wit_MaintenanceAndWindows_reclaim :
    Tbl.find maint.med.reclaims 0 = none ∧ maint.mode.mode = .lit ∧ maint.med.flush = none ∧ belowLevel maint 0 maint.med.rclStart = true := by decide +kernel

theorem wit_MaintenanceAndWindows_source : (reclaimSource maint 0).isSome = true := by decide +kernel

/-- What a station may hold of its redundancy: a mirror in flight, parity that gathers, a piece open or closed. -/
def mirror0 : MirrorItem := { tag := 3, parts := [], grains := [], bytes := 4096, acked := false }
def parity0 (got : List Nat) : ParityGrain := { seg := 0, idx := 0, q := true, got := got, sum := GrainImg.zero, placed := false, programmed := false, entry := 0 }
def piece0 (closed : Bool) (seg : Nat) : Piece :=
  { id := 1, group := 7, versions := [({ nsid := 1, bale := 0, grain := 0 }, GrainImg.zero, 2 ^ 63)], opened := 0, closed := closed, seg := seg, pos := 0,
    pHolder := 0, qHolder := 0, sent := 0, sealed := false, recoding := false, recodeTo := 0 }
def redundant (got : List Nat) : State :=
  let s := memberOf 5;
  { s with plc := { s.plc with mirrors := [mirror0], rebuilding := [(1, 0, 3)] }
           rte := { s.rte with parity := [parity0 got], pieces := [piece0 false 0, piece0 true 1] }
           med := { s.med with dir := [(2 ^ 32, { station := 5, wing := 0, state := 1, blockIx := 1 })] } }

theorem wit_CaravanPlacementAndRedundancy :
    serving (memberOf 0) = true ∧ inCaravan (memberOf 0) = true ∧ leads (memberOf 0) = true ∧ (memberOf 0).plc.reconcile = false ∧
    (let s := { memberOf 0 with plc := { demo.plc with reconcile := true } }; leads s = true ∧ s.plc.reconcile = true) ∧
    serving (memberOf 5) = true ∧ leads (memberOf 5) = false ∧ leads (noteDir 1 0 3 7 3 (memberOf 5)) = false ∧ leads (noteDir 1 0 5 7 3 (memberOf 5)) = false ∧
    ownStation (memberOf 5) = 5 ∧ (5 : Fin 64) ≠ 6 ∧ (members (memberOf 5)).contains 3 = true ∧ grain0.data = [] ∧ ({ grain0 with data := [1] } : GrainMsg).data ≠ [] ∧
    (redundant []).plc.mirrors.find? (fun m => m.tag = 3 ∧ ¬ m.acked) = some mirror0 := by decide +kernel

theorem wit_CaravanPlacementAndRedundancy_parity :
    serving (redundant []) = true ∧ inCaravan (redundant []) = true ∧ (redundant []).rte.parity = [parity0 []] ∧ (parity0 []).placed = false ∧
    (parity0 []).got.contains 13 = false ∧ (redundant [13]).rte.parity = [parity0 [13]] ∧ (parity0 [13]).got.contains 13 = true ∧
    (redundant []).rte.pieces.find? (fun p => ¬ p.closed ∧ p.group = (7 : Fin 8).val) = some (piece0 false 0) ∧
    baleRebuilding (redundant []) 1 0 = true ∧ ownsBale (redundant []) 1 0 = true ∧
    (∀ g ∈ [{ grain0 with data := [1], grain := 4095 }], g.nsid = 1 ∧ g.bale = 0 ∧ g.grain < 4096 ∧ g.bits < 16) ∧
    (redundant []).rte.pieces.find? (fun p => p.seg = 0 + 1) = some (piece0 true 1) ∧
    (piece0 true 1).versions[0]? = some ({ nsid := 1, bale := 0, grain := 0 }, GrainImg.zero, 2 ^ 63) ∧
    findMove (withMove (moveOf 3 5 0 7 4) (memberOf 5)) 1 0 = some (moveOf 3 5 0 7 4) := by decide +kernel

/-- Link 3 in a state. -/
def linkAt (x : Link) (s : State) : State := { s with rte := { s.rte with links := [(3, x)] } }
def upLink : Link := { Link.reset with state := .up, peer := 1, unacked := 1 }
def flitBytes (l : List Byte) : List Byte := l ++ List.replicate (252 - l.length) 0
def goodBytes : List Byte := flitBytes [1, 0, 0, 0, 1, 1]
def badBytes : List Byte := flitBytes [0, 0, 1, 0]
def goodCuts : List (List Byte × BitVec 32) :=
  cutsOf goodBytes [3791367811#32, 1768583318, 2499150001, 3423042331, 4268250612, 3289838350, 1038992287, 745306277, 540089361, 132142487, 268417470, 938282440, 3788590182]
def badCuts : List (List Byte × BitVec 32) :=
  cutsOf badBytes [1280551914#32, 3845122050, 276898874, 2651543494, 497903949, 1266976058, 3055690709, 1981280310, 987363791, 2094752644, 2307046257, 2012882378, 3005324048]
theorem goodCuts_ok : cutsOk crcByte 0xFFFFFFFF#32 goodCuts = true := by decide +kernel
theorem badCuts_ok : cutsOk crcByte 0xFFFFFFFF#32 badCuts = true := by decide +kernel
theorem flitCuts_whole : goodCuts.flatMap (·.1) = goodBytes ∧ badCuts.flatMap (·.1) = badBytes := by decide +kernel
theorem goodBytes_crc : crc32c goodBytes = 506377113 := by
  have h : (((goodCuts.map (·.2)).getLastD 0xFFFFFFFF#32) ^^^ 0xFFFFFFFF#32).toNat = 506377113 := by decide +kernel
  unfold crc32c
  rw [← flitCuts_whole.1, cutsOk_fold _ _ _ goodCuts_ok, h]
theorem badBytes_crc : crc32c badBytes = 1289643247 := by
  have h : (((badCuts.map (·.2)).getLastD 0xFFFFFFFF#32) ^^^ 0xFFFFFFFF#32).toNat = 1289643247 := by decide +kernel
  unfold crc32c
  rw [← flitCuts_whole.2, cutsOk_fold _ _ _ badCuts_ok, h]
/-- A peer of the same variant outside any caravan. -/
def hello0 (v : List Nat) : HelloMsg := { versions := v, station := 1, link := 1, caravan := 0, x := 0, y := 0, is200 := is200 demo, fwSet := 1 }

theorem wit_RouteLinksTakeFlitsAndTrain :
    (getLink (linkAt upLink demo) 3).state = .up ∧ 0 < upLink.unacked ∧
    (∀ i < 8, listGet 0 [16, 16, 64, 64, 0, 64, 255, 0] i + listGet 0 [0, 0, 0, 0, 64, 0, 0, 0] i + listGet 0 [0, 0, 0, 0, 0, 0, 1, 256] i = vcBuffer (i / 2)) ∧
    listGet 0 [15] 0 + listGet 0 [] 0 + listGet 0 [] 0 ≠ vcBuffer 0 ∧
    (getLink (linkAt { Link.reset with state := .training, lock := 3 } demo) 3).state = .training ∧ helloCause demo 3 (hello0 [2, 1]) = 0 ∧
    helloCause demo 3 (hello0 [2]) = 1 ∧ helloCause demo 3 { hello0 [1] with is200 := !is200 demo } = 4 ∧
    (getLink (linkAt { Link.reset with sideband := true } demo) 3).sideband = true ∧ demo.kin.done.contains 4 = true ∧
    inCaravan (memberOf 5) = true ∧ ownStation (memberOf 5) ≠ 4 := by decide +kernel

theorem wit_RouteLinksTakeFlitsAndTrain_flits :
    let g := fitBytes 256 (goodBytes ++ leBytes 4 506377113);
    let b := fitBytes 256 (badBytes ++ leBytes 4 1289643247);
    g.take 252 = goodBytes ∧ imgField g 252 4 = 506377113 ∧ flitOk g (parseFlit g) = true ∧ (parseFlit g).kind = 1 ∧
    b.take 252 = badBytes ∧ imgField b 252 4 = 1289643247 ∧ flitOk b (parseFlit b) = false ∧
    imgField (fitBytes 256 goodBytes) 252 4 = 0 ∧ (fitBytes 256 goodBytes).take 252 = goodBytes := by decide +kernel

/-- A member's outstanding commands and the parts of others. -/
def part1 (st : PartState) (b : Bool) : Part := { part0 st with begun := b }
def foreign0 (st : PartState) (b : Bool) : ForeignPart :=
  { station := 3, cmd := ref1, sqe := { sqe0 0x02 with nsid := 1 }, gen := 1, write := false, part := part1 st b, admitted := true, committed := false, data := [] }
def withParts (own foreign : List Part) : State :=
  { memberOf 5 with host := { host1.host with
      out := own.map (fun p => { cmdOf { sqe0 0x02 with nsid := 1, cdw12 := 3 } with cmd := ref1, admin := false, parts := [p] })
      foreign := foreign.map (fun p => { foreign0 .running true with part := p }) } }

theorem wit_CaravanMessagesAndTransfers :
    serving (memberOf 5) = true ∧ inCaravan (memberOf 5) = true ∧ (memberOf 5).rte.mismatched = false ∧ droverLead (memberOf 5) ≠ ownStation (memberOf 5) ∧
    droverLead (memberOf 0) = ownStation (memberOf 0) ∧ (members (memberOf 5)).contains 3 = true ∧ leads (memberOf 5) = false ∧
    (let s := { memberOf 0 with rte := { (memberOf 0).rte with routes := (List.range 17).map (fun i => (i, { reach := true, hops := 1, first := 0 })) } };
      declares s 16 = true ∧ minority s = false ∧ s.rte.resumedAt = none) ∧
    findForeign (memberOf 5) { station := 3, cmd := ref1, index := 0 } = none ∧ (memberOf 5).mode.mode = .lit ∧ sanRunning (memberOf 5) = false ∧
    (let s := withParts [part1 .forwarded false] []; partOf s { station := 5, cmd := ref1, index := 0 } = some (part1 .forwarded false)) ∧
    (let s := withParts [part1 .running true] []; let r : PartRef := { station := 5, cmd := ref1, index := 0 };
      partOf s r = some (part1 .running true) ∧ partTransfers s r = true ∧ partReads s r = false) ∧
    (let s := withParts [] [part1 .running true]; let r : PartRef := { station := 3, cmd := ref1, index := 0 };
      partOf s r = some (part1 .running true) ∧ partTransfers s r = true ∧ partReads s r = false) ∧
    demo.host.perst = false ∧ demo.host.linkUp = true ∧ { demo.host with linkUp := false }.linkUp = false := by decide +kernel

theorem wit_CaravanMessagesAndTransfers_extinguished :
    let s := { memberOf 5 with mode := { demo.mode with mode := .extinguished } };
    s.mode.mode = .extinguished ∧ inCaravan s = true ∧ findForeign s { station := 3, cmd := ref1, index := 0 } = none := by decide +kernel

/-! Doors, legs, sieves and the dispatcher. -/

/-- A door write to which nothing stands against, as a check. -/
def doorOpen (s : State) (k key : Nat) (t : Task) (n off v : Nat) : Bool :=
  decide ((getCore s k).run = some key) && decide (getTask s key = some t) && decide (accessFault s t (0x100000 + 0x1000 * n + off) 8 true = 0) &&
    decide (doorWriteFault s key t n off v = 0) && (doorWaits s t n off).isNone && !doorReadsBad s key n off v

theorem doorOpen_sound {s : State} {k key : Nat} {t : Task} {n off v : Nat} (h : doorOpen s k key t n off v = true) : DoorOpen s k key t n off v := by
  simp only [doorOpen, Bool.and_eq_true, decide_eq_true_eq, Option.isNone_iff_eq_none, Bool.not_eq_true'] at h
  obtain ⟨⟨⟨⟨⟨a, b⟩, c⟩, d⟩, e⟩, f⟩ := h
  exact ⟨a, b, c, d, e, f⟩

/-- The task of core 31 of wing 7 with a descriptor and buffers in its data hold; its handle's target is itself. -/
def doorTask (kd : TaskKind) : Task :=
  { blankTask with kind := kd, incarn := 1, state := .running, core := 31, doorMask := 0x3FF, data := Memory.writeBytes [] 24 (leBytes 8 0x20100 ++ leBytes 4 16)
                   wbDesc := 0x20000, appSrc := 0x20000, btSrc := 0x20000, cpSrc := 0x100000000, cpDst := 0x100000008, pstTarget := BitVec.ofNat 64 (65536 + 14336)
                   ranges := [(0, 4096)], outPos := 4096 }
def waybill0 (key : Nat) : Waybill :=
  { handle := 9, task := key, incarn := 1, nsid := 1, flagLeg := 0, resBase := 0, resLen := 0, recBase := 0, recLen := 0, resPos := 0, recPos := 0, resFull := false,
    maxStatus := 0, legs := [{ leg := 4, station := 0, wing := 7, bales := [0], attempt := 1, done := none }], cancelled := false, totalOut := 0, totalReq := 0,
    summary := LegSummary.zero, launch := ([], []) }
def doorAt (kd : TaskKind) (owner : Nat) : State :=
  { demo with disp := { demo.disp with tasks := [(14336, doorTask kd)], cores := [(255, { Core.empty with run := some 14336 })] }
              prog := { demo.prog with waybills := [(9, waybill0 owner)] } }

theorem wit_DoorWordsHaveTheirEffects :
    [(1, 0x08, 0), (1, 0x18, 9), (0, 0x210, 16), (0, 0x218, 65536 + 7), (9, 0x10, 8), (3, 0x28, 1), (3, 0x10, 7), (3, 0x18, 2 ^ 32), (3, 0x18, 1)].all (fun d =>
      doorOpen (doorAt .thread 14336) 255 14336 (doorTask .thread) d.1 d.2.1 d.2.2) = true ∧
    [(2, 0x08, 0), (2, 0x18, 16), (2, 0x20, 0)].all (fun d => doorOpen (doorAt .reduce 14336) 255 14336 (doorTask .reduce) d.1 d.2.1 d.2.2) = true ∧
    accessFault (doorAt .reduce 14336) (doorTask .reduce) 0x102000 8 false = 0 ∧
    (Tbl.find (doorAt .thread 14336).prog.waybills 9).map (·.task) = some 14336 ∧ (Tbl.find (doorAt .thread 0).prog.waybills 9).map (·.task) = some 0 ∧
    doorOpen (doorAt .thread 0) 255 14336 (doorTask .thread) 1 0x18 9 = true ∧ (doorTask .thread).outPos.toNat ≤ range0Len (doorTask .thread) := by decide +kernel

/-- A leg of wing 7 over bale 0, with a plan of one queue. -/
def plan0 : Plan := { framing := 0, frames := false, skipZero := false, pfxBe := false, delim := 0, reclen := 64, queues := 1, ops := [0], consts := [] }
def leg0 (st : LegState) : RunLeg :=
  { station := 0, handle := 9, leg := 4, attempt := 1, wing := 7, pool := 7, state := st, slot := 0, nsid := 1, bales := [0], firstGrain := 0, lastGrain := 4095,
    plan := plan0, fn := 0, gen := 1, progSlot := 0, image := progImg, doorMask := 0, parent := 0, prio := 0, flagBatch := 0, redEntry := 0, descAddr := 0,
    batchBytes := 4096, depth := 2, legOutMax := 0, base := 0, size := 8192, arrival := 1, progress := [], doneCh := [], batches := [], nextSeq := [], nextPost := 0,
    outBytes := 0, outRequired := 0, outTrunc := false, ended := [], summary := LegSummary.zero }
/-- Grain 4,095 of bale 0 lies on port 1,023 of channel 127. -/
def entry0 : Nat := mkEntry 1023 3 40 7 false 0 0 15
def scan0 : ScanRead := { station := 0, handle := 9, leg := 4, attempt := 1, nsid := 1, grain := 0, content := none }
def rec0 : RecEval :=
  { bytes := [1], off := 0, grain := 0, pc := 0, phase := .searching, stack := [], key := [1], keyAbsent := false, latches := [], multi := false, out := [], queue := 0,
    short := false }
def legAt (st : LegState) : State :=
  { demo with prog := { demo.prog with legs := [leg0 st], waybills := [(9, waybill0 0)] }
              siv := [(127, { SivCh.reset with reads := [scan0], recs := [rec0] })]
              med := { demo.med with map := [(mapKey 1 0 4095, entry0)] } }
/-- Wing 7 with a post queued for a task of an incarnation, a staged peer of the running task, or nothing. -/
def postAt (inc : Nat) : State :=
  let s := doorAt .thread 0;
  { s with disp := { s.disp with wings := [(7, { WingDisp.reset with postQ := [{ key := 14336, incarn := inc, mask := 1, cls := 0 }], ready := [(0, [14337])] })]
                                 tasks := [(14336, doorTask .thread), (14337, { doorTask .thread with state := .ready })] } }

theorem wit_LegsSievesAndTheDispatcher :
    poolFor (legAt .waiting) 7 = 7 ∧ oldestLeg (legAt .waiting) 7 = some (leg0 .waiting) ∧ moveHolds (legAt .waiting) (leg0 .waiting) = false ∧ (legAt .waiting).mode.wingOut.getLsbD 7 = false ∧
    (leg0 .waiting).plan.queues ≤ slotsFreeAt (legAt .waiting) 7 ∧ stagingAt (legAt .waiting) 7 8192 = some 0 ∧ planSlot (legAt .waiting) 7 = some 0 ∧
    (getSiv (legAt .running) 127).reads ≠ [] ∧ (getSiv (legAt .running) 127).reads.length < 16 ∧
    (legsInTurn (legAt .running) 127).find? (fun l => (nextGrain (legAt .running) l 127).isSome) = some (leg0 .running) ∧
    (nextGrain (legAt .running) (leg0 .running) 127).isSome = true ∧ (getSiv (legAt .running) 127).reads = [scan0] ∧ (getSiv (legAt .running) 127).recs = [rec0] ∧
    rec0.phase = .searching ∧ legOfRead (legAt .running) scan0 = some (leg0 .running) ∧ legAwaited (legAt .running) 0 9 4 1 = true ∧
    legAwaited (legAt .running) 0 9 4 0 = false := by decide +kernel

theorem wit_LegsSievesAndTheDispatcher_tasks :
    [1, 2].all (fun n => decide ((getWing (postAt n) 7).postQ = [{ key := 14336, incarn := n, mask := 1, cls := 0 }])) = true ∧
    (getTask (postAt 1) 14336).map (·.incarn) = some 1 ∧ getTask { postAt 1 with disp := { (postAt 1).disp with tasks := [] } } 14336 = none ∧
    (getCore (postAt 1) 255).run = some 14336 ∧ getTask (postAt 1) 14336 = some (doorTask .thread) ∧ (getWing (postAt 1) (255 / 32)).quantum ≠ 0 ∧
    hasPeer (postAt 1) 255 14336 0 = true ∧ hasPeer (doorAt .thread 0) 255 14336 0 = false := by decide +kernel

/-! The beacon, jobs, keys and engines. -/

theorem wit_UnitOpen : (∀ n off v, UnitOpen demo .pf n off v 0) ∧
    (∀ d ∈ [(4, 0x20, 0), (5, 0x140, 1), (5, 0x140, 6), (6, 0x00, 2 ^ 62), (6, 0x48, 2 ^ 63 + 1), (7, 0x18, 1), (7, 0x28, 1), (8, 0x20, 2 ^ 62)],
      UnitOpen (doorAt .thread 0) (.core 255) d.1 d.2.1 d.2.2 14337) := by
  constructor
  · intro n off v
    exact Or.inl ⟨rfl, by decide +kernel, rfl⟩
  · have h : [(4, 0x20, 0), (5, 0x140, 1), (5, 0x140, 6), (6, 0x00, 2 ^ 62), (6, 0x48, 2 ^ 63 + 1), (7, 0x18, 1), (7, 0x28, 1), (8, 0x20, 2 ^ 62)].all (fun d =>
        doorOpen (doorAt .thread 0) 255 14336 (doorTask .thread) d.1 d.2.1 d.2.2) = true := by decide +kernel
    intro d hd
    exact Or.inr ⟨255, 14336, doorTask .thread, rfl, doorOpen_sound (List.all_eq_true.mp h d hd), rfl⟩

/-- Table 15 Active over bank 0, its append position at a hole; table 3 configured and free; the PF's context names a table. -/
def bcnAt (t : Nat) (banks : BitVec 16) : State :=
  { demo with bcn := { demo.bcn with
      tables := [(15, { BcnTable.reset with active := true, banks := 1, width := 3, append := 15, cfgBanks := banks }),
                 (3, { BcnTable.reset with cfgBanks := banks, cfgWidth := 3 })]
      ctxs := [(0, { BcnCtx.zero with sTable := t, uTable := t, uIndex := 32767 })] } }

theorem wit_BeaconCommandsComplete :
    (bcnTable (bcnAt 15 3) 15).active = true ∧ (bcnCtx (bcnAt 15 3) 0).sTable = 15 ∧ (bcnCtx (bcnAt 15 3) 0).uTable = 15 ∧
    (bcnCtx (bcnAt 15 3) 0).uIndex < bcnEntries (bcnTable (bcnAt 15 3) 15) ∧ bcnFits (bcnTable (bcnAt 15 3) 15) (bcnCtx (bcnAt 15 3) 0) = true ∧
    skipHoles (holeN 1) 15 = 16 ∧ 16 < bcnEntries (bcnTable (bcnAt 15 3) 15) ∧ pfWrites (bcnAt 15 3) = true ∧
    (let s := bcnAt 3 2; let b := bcnTable s 3; b.active = false ∧ b.cfgWidth ≠ 0 ∧ b.cfgHole ≠ 3 ∧ b.cfgBanks ≠ 0 ∧ otherBanks (bcnSlot 2 b.banks s) 3 &&& b.cfgBanks = 0) ∧
    (let s := bcnAt 15 3; let b := bcnTable s 15; let u := bcnSlot 2 b.banks s; let add := b.cfgBanks &&& ~~~b.banks;
      b.cfgBanks ≠ 0 ∧ legsNaming u 15 = 0 ∧ otherBanks u 15 &&& add = 0 ∧ (bankList add).any (fun x => (bankList b.banks).any (fun y => decide (x < y))) = false) := by
  decide +kernel

/-- KEY_DATA with a label, or with 32 bytes of 1 to 32 wrapped under a key of zeros, which slot 1 holds; slot 63 holds a key. -/
def keySlot0 : KeySlot := { key := List.replicate 32 0, kind := .clear, fixed := 0, epoch := 1, used := 0, label := [], gen := 0 }
def keysAt (data : List Nat) (used : Bool) (epoch : Nat) : State :=
  { demo with sec := { demo.sec with data := data, root := some (List.replicate 32 1), epoch := epoch, slots := [(1, keySlot0), (63, keySlot0)]
                                     dig := { demo.sec.dig with ctx := if used then some { alg := 0, keyed := true, slot := 63, state := [], part := [], fed := 0,
                                                                                             bytes := 0, declared := 0, trunc := false } else none } } }
def labelData : List Nat := [1, 0, 0, 0, 1]
def wrapped : List Nat := [0x715fe32d415a566, 0x644c7092b2f26806, 0xb5ff12fa2fdecf65, 0x647faacd923ae7aa, 0x5243a340df90ec45]
/-- KEY_CMD: destination slot 63, key-encryption key in slot 1. -/
def keyWord : Word := BitVec.ofNat 64 (63 * 2 ^ 40 + 1 * 2 ^ 48)

theorem wit_JobsAndKeysComplete :
    let w1 := bitsSet (0 : Word).toNat 63 63 1;
    let wc := bitsSet (0 : Word).toNat 62 62 1;
    let k := keysAt labelData false 7;
    bitOf w1 62 = false ∧ bitOf wc 63 = false ∧ pfWrites k = true ∧ k.chr.mgrHeld = true ∧ ((keyDataBytes k).take 32).headD 0 ≠ 0 ∧
    k.sec.root = some (List.replicate 32 1) ∧ [1, 3].all (fun o => decide (loadRefusal k (bitsOf (bitsSet keyWord.toNat 63 60 o) 45 40) = none)) = true ∧
    keySlot (keysAt wrapped false 7) (bitsOf (bitsSet keyWord.toNat 63 60 2) 53 48) = some keySlot0 ∧
    loadRefusal (keysAt wrapped false 7) (bitsOf (bitsSet keyWord.toNat 63 60 2) 45 40) = none ∧
    keySlot k (bitsOf (bitsSet keyWord.toNat 63 60 4) 45 40) = some keySlot0 ∧ slotInUse k 63 = false := by decide +kernel

/-- The key-encryption key's round keys; the unwrap's state from its two numbers, and after each four of its 24 steps. -/
def kekRounds : List (List Byte) := roundKeys keySlot0.key
def unwrapAt (x : Nat × Nat) : List Byte × List (List Byte) := (beBytes 8 x.1, chunks 8 (beBytes 32 x.2))
def unwrapCuts : List (List Nat × (List Byte × List (List Byte))) :=
  ([(6556194916107767519, 62702109068968664717599386734215968659065921439845205082175952141272468963675),
    (12139502394539655852, 108007719944391537254828508216840102782663051032217833380248615677142533552300),
    (4521659741084477515, 18387007892282960505547115535811310879907559495730678986140982752494937982891),
    (2660611526266614513, 1100105066126817269838987570474871583705608663578389356293980880075172857772),
    (3896806754646816712, 97992606565769961791238178044500885838364428711851676848951860144393710565437),
    (11986710452722728992, 455867356320691211509944977504407603390036387149619137164185182714736811808)] : List (Nat × Nat)).zipIdx.map
      (fun x => ((List.range 4).map (fun i => 24 - (4 * x.2 + i)), unwrapAt x.1))

theorem unwrapCuts_ok : cutsOk (unwrapStep kekRounds) ((wrapped.flatMap (leBytes 8)).take 8, chunks 8 ((wrapped.flatMap (leBytes 8)).drop 8)) unwrapCuts = true := by
  decide +kernel
theorem unwrapCuts_whole : unwrapCuts.flatMap (·.1) = (List.range (6 * 4)).map (fun i => 6 * 4 - i) := by decide +kernel
theorem unwrapCuts_last (c) : (unwrapCuts.map (·.2)).getLastD c =
    unwrapAt (11986710452722728992, 455867356320691211509944977504407603390036387149619137164185182714736811808) := rfl
theorem wrapped_length : (wrapped.flatMap (leBytes 8)).length = 40 := by decide +kernel

theorem wit_JobsAndKeysComplete_unwrap :
    keyUnwrap keySlot0.key (keyDataBytes (keysAt wrapped false 7)) = some ((List.range 32).map (fun i => BitVec.ofNat 8 (i + 1))) := by
  have e : keyDataBytes (keysAt wrapped false 7) = wrapped.flatMap (leBytes 8) := by simp only [keyDataBytes, keysAt]
  have h := cutsOk_fold _ _ _ unwrapCuts_ok
  rw [unwrapCuts_whole, unwrapCuts_last] at h
  rw [e]
  simp only [keyUnwrap, wrapped_length, Nat.reduceDiv, Nat.reduceSub]
  rw [if_neg (show ¬ (4 : Nat) = 1 by decide), show roundKeys keySlot0.key = kekRounds from rfl, h]
  decide +kernel

theorem wit_KeyLoadsAreRefused :
    let u := keysAt labelData true 7;
    let x := keysAt labelData false (2 ^ 32 - 1);
    bitsOf keyWord.toNat 45 40 = 63 ∧ bitsOf keyWord.toNat 53 48 = 1 ∧ slotInUse u 63 = true ∧ slotInUse x 63 = false ∧ x.sec.epoch = 2 ^ 32 - 1 ∧
    [u, x].all (fun s => pfWrites s && s.chr.mgrHeld && decide (((keyDataBytes s).take 32).headD 0 ≠ 0) && (keySlot s 1).isSome && (keySlot s 63).isSome) = true := by
  decide +kernel

/-- The seal and the digest engine owned by a context. -/
def owned (x : Nat) : State :=
  let o : EngOwner := { fn := 0, handle := 0, ctx := x, since := 0 };
  { demo with sec := { demo.sec with sealEng := { demo.sec.sealEng with owner := some o }, dig := { demo.sec.dig with owner := some o, slot := 63, alg := 3 } } }

theorem wit_SealAndDigestComplete :
    demo.sec.sealEng.owner = none ∧ ((owned 0).sec.sealEng.owner).map (·.ctx) = some 0 ∧ ((owned 5).sec.sealEng.owner).map (·.ctx) = some 5 ∧
    ownsSeal (owned 0) 0 = true ∧ ownsDig (owned 0) 0 = true ∧ (owned 0).sec.dig.slot < 64 ∧ (owned 0).sec.dig.alg < 4 ∧ pfWrites (owned 0) = true ∧
    demo.chr.mgrHeld = true ∧ bitOf (bitsSet (0 : Word).toNat 63 63 1) 62 = false ∧ bitOf (bitsSet (0 : Word).toNat 62 62 1) 63 = false := by decide +kernel

/-! DRAM channels, events, counters, the management interface, control registers. -/

/-- Channel 7 trained, its scrub at line 5 or between passes, device 0 marked; reserved. -/
def dramAt (pos : Option Nat) : State :=
  { demo with drm := { demo.drm with chans := [(7, { DramCh.reset with trainDone := true, scrubPos := pos, devs := [(0, { DramDev.fresh with failed := true })] })] } }

theorem wit_DramChannelCommandsComplete :
    pfWrites (dramAt none) = true ∧ (dramAt none).chr.mgrHeld = true ∧ (dramAt none).mode.mode ≠ .dark ∧ (dramAt none).med.flush = none ∧
    (Tbl.get DramDev.fresh (getDram (dramAt none) 7).devs 9).failed = false ∧ (Tbl.get DramDev.fresh (getDram (dramAt none) 7).devs 1).failed = false ∧
    (failedDevs (getDram (markDevice 7 1 true (dramAt none)) 7) 0).length = 2 ∧ (failedDevs (getDram (markDevice 7 9 true (dramAt none)) 7) 1).length = 1 ∧
    (getDram (dramAt none) 7).trainDone = true ∧ (getDram (dramAt none) 7).scrubHours ≠ 0 ∧ (getDram (dramAt (some 5)) 7).scrubPos ≠ none ∧
    (getDram (dramAt (some 5)) 7).scrubPos.getD 0 ≤ 2 ^ 28 - 1 ∧ (getDram (dramAt none) 7).scrubPos.getD 0 ≤ 2 ^ 28 ∧
    (BitVec.ofNat 64 (2 ^ 31)).getLsbD 31 = true ∧ (BitVec.ofNat 64 (2 ^ 31)).getLsbD 29 = false ∧ (BitVec.ofNat 64 (2 ^ 31)).getLsbD 30 = false ∧
    [8, 20].all (fun g => decide (8 ≤ g % 32 ∧ g % 32 ≤ 20)) = true ∧ [7, 21].all (fun g => decide (g % 32 < 8 ∨ 20 < g % 32)) = true := by decide +kernel

theorem wit_HashMasksKeepAPageWhole :
    let good : Nat → Word := fun k => BitVec.ofNat 64 (2 ^ (13 + k) + 2 ^ 33);
    pfWrites demo = true ∧
    (∀ k : Fin 5, ¬ ((good k).getLsbD (13 + k.val) = false ∨ (∃ j : Fin 5, j ≠ k ∧ (good k).getLsbD (13 + j.val) = true) ∨ (∃ j : Fin 13, (good k).getLsbD j.val = true))) ∧
    (0 : Word).getLsbD 17 = false ∧ (BitVec.ofNat 64 (2 ^ 13 + 2 ^ 17)).getLsbD (13 + 4) = true ∧ (BitVec.ofNat 64 (2 ^ 13 + 2 ^ 12)).getLsbD 12 = true := by decide +kernel

/-- An occurrence, and a queue with one more than n of them, m losses to record. -/
def occ0 : LogOcc := { typ := 0xB003, source := 0xFFFF, detail := [], stamp := 0, opSeconds := 0, powerCycles := 0, listVer := 0, snapshot := [] }
def logAt (n m : Nat) : State := { demo with log := { demo.log with queue := occ0 :: List.replicate n occ0, lostUnlogged := m } }

theorem wit_EventsAndLogComplete :
    pfReach demo = true ∧ evtSrcOk (BitVec.ofNat 64 (2 ^ 58 + 2047 * 2 ^ 32)).toNat = true ∧ evtSrcOk (BitVec.ofNat 64 (3 * 2 ^ 58)).toNat = false ∧
    { demo.evt with maskAll := true }.maskAll = true ∧
    (let v : Word := BitVec.ofNat 64 (2 ^ 63 + 2 ^ 32 + 1087); v.getLsbD 63 = true ∧ v.toNat % 2048 + v.toNat / 2 ^ 32 % 2048 = 1088) ∧
    (let v : Word := BitVec.ofNat 64 (2 ^ 63 + 2 ^ 32 + 1088); v.getLsbD 63 = true ∧ 1088 < v.toNat % 2048 + v.toNat / 2 ^ 32 % 2048) ∧
    [(127, 1), (128, 0), (128, 1)].all (fun x => decide ((logAt x.1 x.2).log.queue = occ0 :: List.replicate x.1 occ0 ∧ (logAt x.1 x.2).log.lostUnlogged = x.2)) = true ∧
    (List.replicate 127 occ0).length ≠ 128 ∧ (List.replicate 128 occ0).length = 128 := by decide +kernel

theorem wit_CountersAndSamplerComplete :
    demo.mode.mode ≠ .dark ∧ pfWrites demo = true ∧
    [1, 100000].all (fun v => decide (1 ≤ (BitVec.ofNat 64 v).toNat % 2 ^ 17 ∧ (BitVec.ofNat 64 v).toNat % 2 ^ 17 ≤ 100000)) = true ∧
    (BitVec.ofNat 64 (2 ^ 17)).toNat % 2 ^ 17 = 0 ∧ 100000 < (BitVec.ofNat 64 100001).toNat % 2 ^ 17 ∧
    (BitVec.ofNat 64 5).toNat % 8 ≤ 5 ∧ 5 < (BitVec.ofNat 64 6).toNat % 8 ∧ 1000 ≤ (BitVec.ofNat 64 1000).toNat % 2 ^ 40 ∧ (BitVec.ofNat 64 999).toNat % 2 ^ 40 < 1000 ∧
    (let s := { demo with cnt := { demo.cnt with smpHead := 3, smpTail := 8190 } };
      [8190, 3].all (fun q => decide ((s.cnt.smpHead + 8192 - q) % 8192 ≤ (s.cnt.smpHead + 8192 - s.cnt.smpTail) % 8192))) = true := by decide +kernel

/-- Sessions 1, which is mutually authenticated, and 2, which is not. -/
def inSession : State := { demo with host := { demo.host with sessions := [(1, true), (2, false)] }, chr := { demo.chr with spdmReq := true, mgrHeld := false } }

theorem wit_ManagementAndMailboxMessages :
    host1.mode.mode ≠ .dark ∧ (miStructure host1 0 0).isSome = true ∧ (miStructure host1 1 1).isSome = true ∧ (miStructure host1 2 0).isSome = true ∧
    (miStructure host1 3 0).isSome = true ∧ 255 + 1 ≤ 256 ∧ host1.med.flush = none ∧ findCmd host1 { fn := 0, sq := miQueue, cid := 7 } = none ∧
    tunnelled (sqe0 0x06) = true ∧ adminCheck host1 0 (sqe0 0x06) = none ∧ mailbox inSession = true ∧ Tbl.find inSession.host.sessions 2 ≠ none ∧
    Tbl.find inSession.host.sessions 1 = some true ∧ Tbl.find inSession.host.sessions 2 = some false ∧ inSession.host.debugBy ≠ some 2 ∧
    inSession.mode.mode ≠ .dark := by decide +kernel

/-- A state image of function 5 is arriving. -/
def restoring : State := { demo with chr := { demo.chr with restore := some { fn := 5, bytes := [1], prior := .frozen } } }

theorem wit_ManagerRoleAndStaging :
    pfReach inSession = true ∧ inSession.chr.mgrHeld = false ∧ inSession.host.sessions.any (fun e => e.2) = true ∧ State.reset.chr.spdmReq = false ∧
    { inSession with host := demo.host }.chr.spdmReq = true ∧ demo.host.sessions.any (fun e => e.2) = false ∧ demo.chr.mgrHeld = true ∧ pfWrites demo = true ∧
    Memory.wf demo.chr.staging = true ∧ demo.chr.restore = none ∧ restoring.chr.restore = some { fn := 5, bytes := [1], prior := .frozen } := by decide +kernel

theorem wit_StagingNeedsAManager : inSession.chr.mgrHeld = false ∧ 0x240000 ≤ 0x27FFF8 ∧ 0x27FFFC < 0x280000 ∧ 0x3FFF8 < 0x40000 := by decide +kernel

/-- The fields of a settings word: bits 23:16, 15:12, 47:32, 15:8 and 7:0. -/
def settings (v : Word) : List Nat := [v.toNat / 2 ^ 16 % 256, v.toNat / 2 ^ 12 % 16, v.toNat / 2 ^ 32 % 2 ^ 16, v.toNat / 2 ^ 8 % 256, v.toNat % 256]

theorem wit_SettingsKeepTheirRanges : pfWrites demo = true ∧
    [(10 * 2 ^ 16 + 1 * 2 ^ 12, [10, 1, 0, 16, 0]), (90 * 2 ^ 16 + 8 * 2 ^ 12, [90, 8, 0, 128, 0]), (9 * 2 ^ 16, [9, 0, 0, 0, 0]),
     (91 * 2 ^ 16 + 9 * 2 ^ 12, [91, 9, 0, 144, 0]), (1 * 2 ^ 32, [0, 0, 1, 0, 0]), (3650 * 2 ^ 32, [0, 0, 3650, 0, 0]), (3651 * 2 ^ 32, [0, 0, 3651, 0, 0]),
     (1 * 2 ^ 8 + 2, [0, 0, 0, 1, 2]), (63 * 2 ^ 8 + 64, [0, 3, 0, 63, 64]), (64 * 2 ^ 8 + 64, [0, 4, 0, 64, 64]), (1 * 2 ^ 8 + 65, [0, 0, 0, 1, 65]),
     (1, [0, 0, 0, 0, 1])].all (fun x => decide (settings (BitVec.ofNat 64 x.1) = x.2)) = true := by decide +kernel

theorem wit_ControlRegistersTakeEffect :
    pfReach demo = true ∧ pfWrites demo = true ∧ (10000 : BitVec 16).toNat ≤ 10000 ∧ 10000 < (10001 : BitVec 16).toNat ∧
    [50, 100].all (fun v => decide (50 ≤ (BitVec.ofNat 64 v).toNat % 128 ∧ (BitVec.ofNat 64 v).toNat % 128 ≤ 100)) = true ∧
    (BitVec.ofNat 64 49).toNat % 128 < 50 ∧ 100 < (BitVec.ofNat 64 101).toNat % 128 ∧ (getLink demo 3).state ≠ .unused ∧
    (let f := fun (v : Word) => (v.toNat / 2 ^ 24 % 256, v.toNat / 2 ^ 16 % 256, v.toNat / 2 ^ 8 % 256);
      f (BitVec.ofNat 64 (50 * 2 ^ 16 + 50 * 2 ^ 8)) = (0, 50, 50) ∧ f (BitVec.ofNat 64 (98 * 2 ^ 8)) = (0, 0, 98) ∧ f (BitVec.ofNat 64 (51 * 2 ^ 16)) = (0, 51, 0) ∧
      f (BitVec.ofNat 64 (99 * 2 ^ 8)) = (0, 0, 99) ∧ f (BitVec.ofNat 64 (1 * 2 ^ 24 + 1 * 2 ^ 16 + 5 * 2 ^ 8)) = (1, 1, 5) ∧
      f (BitVec.ofNat 64 (16 * 2 ^ 24 + 255 * 2 ^ 16 + 100 * 2 ^ 8)) = (16, 255, 100) ∧ f (BitVec.ofNat 64 (17 * 2 ^ 24 + 2 ^ 16 + 101 * 2 ^ 8)) = (17, 1, 101) ∧
      f (BitVec.ofNat 64 (2 ^ 24 + 4 * 2 ^ 8)) = (1, 0, 4)) := by decide +kernel

theorem wit_HalvesOfARegister : pfReach demo = true ∧ 0x100008 % 8 = 0 ∧ regWide 0x100008 = some true ∧ arrayRead demo 0x100008 = none := by decide +kernel

theorem wit_RegisterWritesReachTheirRegister :
    regWide 0x100000 = some false ∧ arrayRead demo 0x100000 = none ∧ regWide 0x100008 = some true ∧ Tbl.find demo.regs.lowPending 0x100008 = none ∧
    lowWoOnly 0x100008 0 = false ∧ lowWoOnly 0x900140 0 = true ∧ regWide 0x900140 = some true ∧ arrayRead demo 0x900140 = none := by decide +kernel

end Sys2Proof.Tests
end

section
/-! SUPPORT. Accesses of 4 bytes to 64-bit unit registers (R9, R10, R911): what each half does, and the statement about both. -/

namespace Sys2Proof.Machine

/-! The state after each half. -/

/-- A low half waits for the high half of its register (R911). -/
def pendLow (o : Nat) (l : BitVec 32) (s : State) : State := { s with regs := { s.regs with lowPending := Tbl.insert s.regs.lowPending o l } }

/-- No low half waits for a register. -/
def dropLow (o : Nat) (s : State) : State := { s with regs := { s.regs with lowPending := Tbl.erase s.regs.lowPending o } }

/-- The high half of a register as it now reads is latched (R9). -/
def latchHigh (o : Nat) (s : State) : State :=
  { s with regs := { s.regs with highLatch := Tbl.insert s.regs.highLatch o (BitVec.ofNat 32 (regRead s o / 2 ^ 32)) } }

/-- The second of two values listed under one key replaces the first. -/
theorem insert_insert {α : Type} (t : Tbl α) (k : Nat) (a b : α) : Tbl.insert (Tbl.insert t k a) k b = Tbl.insert t k b := by
  induction t with
  | nil => simp [Tbl.insert]
  | cons e r ih =>
    obtain ⟨j, w⟩ := e
    rcases Nat.lt_trichotomy j k with hlt | rfl | hgt
    · simp [Tbl.insert, hlt, hlt.ne, ih]
    · simp [Tbl.insert]
    · simp [Tbl.insert, hgt.ne', hgt.not_gt]

@[simp] theorem find_insert_self {α : Type} (t : Tbl α) (k : Nat) (v : α) : Tbl.find (Tbl.insert t k v) k = some v := by
  simp [find_insert]

@[simp] theorem pfReach_pendLow (o : Nat) (l : BitVec 32) (s : State) : pfReach (pendLow o l s) = pfReach s := rfl
@[simp] theorem pfReach_dropLow (o : Nat) (s : State) : pfReach (dropLow o s) = pfReach s := rfl
@[simp] theorem arrayRead_pendLow (o : Nat) (l : BitVec 32) (s : State) (p : Nat) : arrayRead (pendLow o l s) p = arrayRead s p := rfl
@[simp] theorem arrayRead_dropLow (o : Nat) (s : State) (p : Nat) : arrayRead (dropLow o s) p = arrayRead s p := rfl

/-- A second low half replaces the first (R911). -/
@[simp] theorem pendLow_pendLow (o : Nat) (l1 l : BitVec 32) (s : State) : pendLow o l (pendLow o l1 s) = pendLow o l s := by
  simp [pendLow, insert_insert]

/-! Which accesses reach a unit register. -/

/-- The PF is always present, so its BAR0 is reached as any function's. -/
theorem fnReach_zero (s : State) : fnReach s 0 = pfReach s := by
  simp [fnReach, pfReach, fnPresent, getCtrl]

/-- Unit registers lie at 0x100000 and above. -/
theorem le_of_regWide {o : Nat} {wide : Bool} (h : regWide o = some wide) : 0x100000 ≤ o := by
  by_contra hlt
  have hnone : unitOf o = none := if_pos (Or.inl (by omega))
  simp [regWide, hnone] at h

/-! What each access does. -/

section
variable {s : State} {o : Nat}

/-- An 8-byte write of the PF at a slot above its NVMe registers and outside the arrays is the write of the register there. -/
theorem exec_registerWrite_unit (hr : pfReach s = true) (ho : o % 8 = 0) (ha : arrayRead s o = none) (hlo : 0x100000 ≤ o) (v : Word) :
    exec (.registerWrite 0 o v) s = .next (regWrite o v.toNat s) := by
  change execRegisterWrite 0 o v s = _
  simp [execRegisterWrite, fnReach_zero, hr, ho, ha, Nat.not_lt.2 hlo]

/-- A low half written to a 64-bit register waits, and nothing else happens. -/
theorem exec_lowHalfWrite_wide (hr : pfReach s = true) (ho : o % 8 = 0) (hw : regWide o = some true) (ha : arrayRead s o = none) (l : BitVec 32) :
    exec (.lowHalfWrite o l) s = .next (pendLow o l s) := by
  change execLowHalfWrite o l s = _
  simp [execLowHalfWrite, pendLow, hr, ho, hw, ha]

/-- A high half written while a low half waits is the write of both as one value. -/
theorem exec_highHalfWrite_of_pending (hr : pfReach s = true) (ho : o % 8 = 0) (hw : regWide o = some true) (ha : arrayRead s o = none)
    {l : BitVec 32} (hl : Tbl.find s.regs.lowPending o = some l) (h : BitVec 32) :
    exec (.highHalfWrite o h) s = .next (regWrite o (h ++ l).toNat (dropLow o s)) := by
  have hv : (h ++ l).toNat = h.toNat * 2 ^ 32 + l.toNat := by
    rw [BitVec.toNat_append, ← Nat.shiftLeft_add_eq_or_of_lt l.isLt, Nat.shiftLeft_eq]
  change execHighHalfWrite o h s = _
  simp [execHighHalfWrite, lowHalf, dropLow, hr, ho, hw, ha, hl, hv]

/-- A read of the low half of a 64-bit register latches the high half, and nothing else happens. -/
theorem exec_lowHalfRead_wide (hr : pfReach s = true) (hw : regWide o = some true) : exec (.lowHalfRead o) s = .next (latchHigh o s) := by
  change execLowHalfRead o s = _
  simp [execLowHalfRead, latchHigh, hr, hw]

end

/-- A high half reads as it was latched. -/
theorem highRead_latchHigh (o : Nat) (s : State) : highRead (latchHigh o s) o = regRead s o / 2 ^ 32 % 2 ^ 32 := by
  simp [highRead, latchHigh]

/-- The latches of other registers stay. -/
theorem find_latchHigh_ne {o p : Nat} (h : p ≠ o) (s : State) : Tbl.find (latchHigh o s).regs.highLatch p = Tbl.find s.regs.highLatch p := by
  simp [latchHigh, find_insert, h.symm]

/-- Two halves that follow each other are one write of their value in the state without a pending half (R10). -/
theorem exec_highHalfWrite_pendLow {s : State} {o : Nat} (hr : pfReach s = true) (ho : o % 8 = 0) (hw : regWide o = some true)
    (ha : arrayRead s o = none) (l h : BitVec 32) :
    exec (.highHalfWrite o h) (pendLow o l s) = exec (.registerWrite 0 o (h ++ l)) (dropLow o (pendLow o l s)) := by
  have hfind : Tbl.find (pendLow o l s).regs.lowPending o = some l := find_insert_self _ _ _
  rw [exec_highHalfWrite_of_pending (by simpa using hr) ho hw (by simpa using ha) hfind h,
    exec_registerWrite_unit (by simpa using hr) ho (by simpa using ha) (le_of_regWide hw)]

/-- Settles O59: two halves that follow each other are one write of 64 bits (R10, R911), and the latch holds the high half as the read of the
low half found it (R9). -/
theorem halvesOfARegister : Obligations.HalvesOfARegister := by
  refine ⟨fun s o l l1 h hr ho hw ha => ⟨?store, ?replace, ?apply⟩, fun s o hr hw => ⟨?latch, ?read, ?others⟩⟩
  case store => exact exec_lowHalfWrite_wide hr ho hw ha l
  case replace =>
    intro x hx
    obtain rfl : pendLow o l1 s = x := by simpa [exec_lowHalfWrite_wide hr ho hw ha] using hx
    exact (exec_lowHalfWrite_wide (by simpa using hr) ho hw (by simpa using ha) l).trans (congrArg _ (pendLow_pendLow o l1 l s))
  case apply => exact exec_highHalfWrite_pendLow hr ho hw ha l h
  case latch => exact exec_lowHalfRead_wide hr hw
  case read => exact highRead_latchHigh o s
  case others => exact fun p hp => find_latchHigh_ne hp s

end Sys2Proof.Machine
end

section
/-! SUPPORT. A step on an empty queue, the input power and the ember flush (R17, R31, R33, R41, R161, R813, R821, R822, R885): what each shared
operation does in each module state, and the statements about them. -/

namespace Sys2Proof.Machine

/-! The queue is empty (R17). -/

/-- TD17 stands still without power. -/
theorem tick_of_dark {s : State} (h : s.mode.mode = .dark) : tick s = s := if_pos h

/-- TD17 runs in every other state. -/
theorem tick_of_powered {s : State} (h : s.mode.mode ≠ .dark) : tick s = { s with td17 := s.td17 + 1 } := if_neg h

theorem step_of_empty {s : State} (h : s.pending = []) : step s = .next (tick s) := by
  simp only [step, h]

/-- Settles O2: a step on an empty queue is a tick, and TD17 runs outside Dark (R17). -/
theorem emptyQueueTicksTd17 : Obligations.EmptyQueueTicksTd17 := by
  intro s hq
  rw [step_of_empty hq]
  exact ⟨fun hp => congrArg _ (tick_of_powered hp), fun hd => congrArg _ (tick_of_dark hd)⟩

/-! The input power (R31, R33, R813, R821, R822, R885). -/

section
variable {s : State}

/-- A Dark module only notes that its input is lost. -/
theorem inputLost_of_dark (trigger : Nat) (hd : s.mode.mode = .dark) : inputLost trigger s = { s with pwr := { s.pwr with mainIn := false } } :=
  if_pos hd

/-- A Lit module that loses its input begins the flush that ends Dark. -/
theorem inputLost_of_lit (trigger : Nat) (hl : s.mode.mode = .lit) (hf : s.med.flush = none) :
    inputLost trigger s = startFlush trigger true { s with pwr := { s.pwr with mainIn := false } } := by
  simp [inputLost, hl, hf]

/-- A Dark module that waits for no hold kindles when PWR_EN is asserted, with its input there. -/
theorem execPwrEnAsserted_of_dark (hd : s.mode.mode = .dark) (hn : s.pwr.needHold = false) :
    execPwrEnAsserted s = .next (startKindling true { s with pwr := { s.pwr with pwrEn := true, mainIn := true } }) := by
  simp [execPwrEnAsserted, hd, hn]

/-- A Dark module only notes that PWR_EN is deasserted. -/
theorem execPwrEnDeasserted_of_dark (hd : s.mode.mode = .dark) :
    execPwrEnDeasserted s = .next { s with pwr := { s.pwr with pwrEn := false } } := by
  simp only [execPwrEnDeasserted, hd]

/-- A Lit module whose PWR_EN is deasserted begins the flush that ends Dark. -/
theorem execPwrEnDeasserted_of_lit (hl : s.mode.mode = .lit) :
    execPwrEnDeasserted s = .next (startFlush 2 true { s with pwr := { s.pwr with pwrEn := false } }) := by
  simp only [execPwrEnDeasserted, hl]

/-- A Dark module whose PWR_EN is asserted kindles when its input returns. -/
theorem execInputRestored_of_dark (hd : s.mode.mode = .dark) (he : s.pwr.pwrEn = true) :
    execInputRestored s = .next (startKindling true { s with pwr := { s.pwr with mainIn := true, needHold := false } }) :=
  congrArg _ (if_pos ⟨hd, he⟩)

end

/-- Settles O18: power that comes starts Kindling, power that goes starts the flush of a Lit module, and a Dark module notes it. -/
theorem inputPowerStartsKindlingOrFlush : Obligations.InputPowerStartsKindlingOrFlush := by
  refine fun s => ⟨?enabled, ?disabledDark, ?disabledLit, ?lostDark, ?lostLit, ?restored⟩
  case enabled => exact execPwrEnAsserted_of_dark
  case disabledDark => exact execPwrEnDeasserted_of_dark
  case disabledLit => exact execPwrEnDeasserted_of_lit
  case lostDark => exact fun hd => ⟨congrArg _ (inputLost_of_dark 1 hd), congrArg _ (inputLost_of_dark 3 hd)⟩
  case lostLit => exact fun hl hf => ⟨congrArg _ (inputLost_of_lit 1 hl hf), congrArg _ (inputLost_of_lit 3 hl hf)⟩
  case restored => exact execInputRestored_of_dark

/-! What going Dark keeps of the supply's record and of the mark that the store is clean (R41, R73, R822). -/

/-- From s to t the supply and the mark that the store is clean stay. -/
def SupplyKept (s t : State) : Prop := t.pwr = s.pwr ∧ t.med.clean = s.med.clean

theorem SupplyKept.trans {s t u : State} (h : SupplyKept s t) (g : SupplyKept t u) : SupplyKept s u := ⟨g.1.trans h.1, g.2.trans h.2⟩

theorem ledgerMove_supplyKept (ch a b : Nat) (s : State) : SupplyKept s (ledgerMove ch a b s) := ⟨rfl, rfl⟩
theorem setBlk_supplyKept (k : Nat) (d : DieBlock) (s : State) : SupplyKept s (setBlk k d s) := ⟨rfl, rfl⟩
theorem wipePages_supplyKept (k : Nat) (s : State) : SupplyKept s (wipePages k s) := ⟨rfl, rfl⟩

/-- Taking a journal record back changes blocks, planes and the ledger. -/
theorem undoRecord_supplyKept (s : State) (r : JRec) : SupplyKept s (undoRecord s r) := by
  unfold undoRecord
  split
  next p b _ old new n _ =>
    have hblock := fun d => (ledgerMove_supplyKept (portChannel p) new.code old.code s).trans (setBlk_supplyKept (blkKey p b) d _)
    dsimp only
    split
    · exact (hblock _).trans (wipePages_supplyKept _ _)
    · exact hblock _
  next => exact ⟨rfl, rfl⟩
  next => exact ⟨rfl, rfl⟩

/-- A fold keeps them when each of its operations does. -/
theorem foldl_supplyKept {α : Type} (f : State → α → State) (hf : ∀ s x, SupplyKept s (f s x)) (l : List α) (s : State) :
    SupplyKept s (l.foldl f s) :=
  List.foldlRecOn l f ⟨rfl, rfl⟩ fun t ht x _ => ht.trans (hf t x)

/-- Programs cut short change pages. -/
theorem tearUnits_supplyKept (s : State) : SupplyKept s (tearUnits s) := by
  unfold tearUnits
  refine foldl_supplyKept _ (fun t _ => foldl_supplyKept _ ?_ _ t) _ s
  exact fun _ _ => ⟨rfl, rfl⟩

theorem mediaDark_supplyKept (s : State) : SupplyKept s (mediaDark s) :=
  (tearUnits_supplyKept s).trans (foldl_supplyKept undoRecord undoRecord_supplyKept _ (tearUnits s))

/-- A module that goes Dark keeps the length of its last flush and the mark that its store is clean. -/
theorem enterDark_keeps_flushRecord (hold : Bool) (s : State) :
    (enterDark hold s).pwr.flushLast = s.pwr.flushLast ∧ (enterDark hold s).med.clean = s.med.clean := by
  obtain ⟨hpwr, hclean⟩ := mediaDark_supplyKept s
  have hlast : (mediaDark s).pwr.flushLast = s.pwr.flushLast := by rw [hpwr]
  exact ⟨hlast, hclean⟩

/-! The ember flush (R41, R43, R161, R822). -/

section
variable {s : State} {f : Flush}

theorem execEmberFlushStepDone_programs (hf : s.med.flush = some f) (h3 : f.step = 3) (hw : f.wait = []) :
    execEmberFlushStepDone s = .next (flushAt f 4 (flushProgram s)) := by
  simp [execEmberFlushStepDone, hf, h3, hw]

theorem execEmberFlushStepDone_journals (hf : s.med.flush = some f) (h4 : f.step = 4) (hi : s.med.units.any (·.issued) = false)
    (hx : s.sec.xts = true) : execEmberFlushStepDone s = .next (flushAt f 5 (flushJournal s)) := by
  simp only [execEmberFlushStepDone, hf, h4, hi, hx]
  simp

theorem execEmberFlushStepDone_logs (hf : s.med.flush = some f) (h5 : f.step = 5) (hd : allDurable s = true) :
    execEmberFlushStepDone s = .next (flushAt f 6 (flushLog s)) := by
  simp [execEmberFlushStepDone, hf, h5, hd]

/-- The flush's end is noted: its length, the longest, and whether the store was clean. -/
def flushEnded (s : State) : State :=
  let us := min 65535 ((s.td17 - s.pwr.flushStart) / 1000)
  { s with
    pwr := { s.pwr with flushLast := us, flushMax := max s.pwr.flushMax us }
    med := { s.med with flush := none, clean := !(s.pwr.lostMain || !s.pwr.mainIn) }
    log := { s.log with flushing := false } }

/-- A flush that is to end Dark, lost its input, or ran in a module that is not Extinguished ends Dark. -/
theorem execEmberFlushEnd_dark (hf : s.med.flush = some f) (h6 : f.step = 6)
    (hd : f.toDark = true ∨ s.pwr.lostMain = true ∨ s.pwr.mainIn = false ∨ s.mode.mode ≠ .extinguished) :
    execEmberFlushEnd s = .next (enterDark true (flushEnded s)) := by
  have hends : f.toDark = true ∨ (s.pwr.lostMain || !s.pwr.mainIn) = true ∨ s.mode.mode ≠ .extinguished := by
    simpa [or_assoc] using hd
  simp only [execEmberFlushEnd, hf, h6, if_pos hends]
  rfl

end

/-- Settles O19: each step of the flush leads to the next, and its end is noted before the module goes Dark. -/
theorem emberFlushStepsToItsEnd : Obligations.EmberFlushStepsToItsEnd := by
  refine fun s f hf => ⟨?programs, ?journals, ?logs, ?ends⟩
  case programs => exact execEmberFlushStepDone_programs hf
  case journals => exact execEmberFlushStepDone_journals hf
  case logs => exact execEmberFlushStepDone_logs hf
  case ends =>
    intro h6 hd
    obtain ⟨hlast, hclean⟩ := enterDark_keeps_flushRecord true (flushEnded s)
    exact ⟨_, execEmberFlushEnd_dark hf h6 hd, rfl, rfl, rfl, hclean, hlast⟩

end Sys2Proof.Machine
end

section
/-! SUPPORT. Resets and the link (R34, R39, R50, R506, R507, R511, R516, R551, R653, R675, R676): what a released reset leads to in each module
state, what each event of the link does, and the statement about them. -/

namespace Sys2Proof.Machine

/-! A reset that is released (R39, R50). -/

section
variable {s : State}

/-- During an ember flush a reset waits. -/
theorem releaseReset_of_flush (hf : s.med.flush.isSome = true) : releaseReset s = s := if_pos hf

/-- A Kindling starts over, and an Extinguished module that has flushed kindles. -/
theorem releaseReset_of_notServing (hf : s.med.flush = none) (hm : s.mode.mode = .kindling ∨ s.mode.mode = .extinguished) :
    releaseReset s = startKindling false s := by
  obtain hm | hm := hm <;> simp [releaseReset, hf, hm]

/-- A Lit module that has closed kindles, with its store clean. -/
theorem releaseReset_of_closed (hf : s.med.flush = none) (hl : s.mode.mode = .lit) (hc : isClosed s = true) :
    releaseReset s = startKindling false { s with med := { s.med with clean := true } } := by
  simp [releaseReset, hf, hl, hc]

/-- A Lit module that has not closed goes on closing. -/
theorem releaseReset_of_open (hl : s.mode.mode = .lit) (hc : isClosed s = false) : releaseReset s = s := by
  simp [releaseReset, hl, hc]

/-- An NVM Subsystem Reset of a module with power is pending from then on, and goes on where it can. -/
theorem subsystemReset_of_powered (hm : s.mode.mode ≠ .dark) :
    subsystemReset s = releaseReset { s with kin := { s.kin with resetPending := true } } :=
  if_neg hm

/-! PERST# (R34, R39, R551, R653). -/

/-- PERST# is noted as released. -/
def perstReleased (s : State) : State := { s with host := { s.host with perst := false } }

theorem execPerstAsserted_of_powered (hp : s.host.perst = false) (hm : s.mode.mode ≠ .dark) :
    execPerstAsserted s =
      .next (relockDebug (roleEnds { s with host := { s.host with perst := true, linkUp := false }, kin := { s.kin with resetPending := true } })) := by
  simp [execPerstAsserted, hp, hm]

/-- With no reset pending, and in a Dark module, the release is only noted. -/
theorem execPerstDeasserted_noted (hp : s.host.perst = true) (h : s.kin.resetPending = false ∨ s.mode.mode = .dark) :
    execPerstDeasserted s = .next (perstReleased s) := by
  have hnone : s.mode.mode = .dark ∨ ¬ s.kin.resetPending := by simpa [or_comm] using h
  rw [execPerstDeasserted, if_neg (by simp [hp]), if_pos hnone, perstReleased]

/-- With a reset pending, the release lets it go on. -/
theorem execPerstDeasserted_releases (hp : s.host.perst = true) (hr : s.kin.resetPending = true) (hm : s.mode.mode ≠ .dark) :
    execPerstDeasserted s = .next (releaseReset (perstReleased s)) := by
  simp [execPerstDeasserted, hp, hr, hm, perstReleased]

/-- A pending reset of a module that does not serve begins its Kindling at once. -/
theorem execPerstDeasserted_of_notServing (hp : s.host.perst = true) (hr : s.kin.resetPending = true) (hf : s.med.flush = none)
    (hm : s.mode.mode = .kindling ∨ s.mode.mode = .extinguished) : execPerstDeasserted s = .next (startKindling false (perstReleased s)) := by
  have hpow : s.mode.mode ≠ .dark := by obtain hm | hm := hm <;> simp [hm]
  rw [execPerstDeasserted_releases hp hr hpow, releaseReset_of_notServing (s := perstReleased s) hf hm]

/-- A pending reset of a Lit module that has closed begins its Kindling with the store clean. -/
theorem execPerstDeasserted_of_closed (hp : s.host.perst = true) (hr : s.kin.resetPending = true) (hf : s.med.flush = none)
    (hl : s.mode.mode = .lit) (hc : isClosed (perstReleased s) = true) :
    execPerstDeasserted s =
      .next (startKindling false { perstReleased s with med := { (perstReleased s).med with clean := true } }) := by
  rw [execPerstDeasserted_releases hp hr (by simp [hl]), releaseReset_of_closed (s := perstReleased s) hf hl hc]

/-- A pending reset waits for a flush to end and for a Lit module to close. -/
theorem execPerstDeasserted_waits (hp : s.host.perst = true) (hr : s.kin.resetPending = true)
    (h : s.med.flush.isSome = true ∨ (s.mode.mode = .lit ∧ isClosed (perstReleased s) = false)) :
    execPerstDeasserted s = .next (perstReleased s) := by
  by_cases hm : s.mode.mode = .dark
  · exact execPerstDeasserted_noted hp (.inr hm)
  · have hwaits : releaseReset (perstReleased s) = perstReleased s := by
      obtain hf | ⟨hl, hc⟩ := h
      · exact releaseReset_of_flush (s := perstReleased s) hf
      · exact releaseReset_of_open (s := perstReleased s) hl hc
    rw [execPerstDeasserted_releases hp hr hm, hwaits]

/-! The link, VFs, power states (R39, R506, R507, R511, R516, R675, R676). -/

theorem execNvmSubsystemReset_of_link (hu : s.host.linkUp = true) (hm : s.mode.mode ≠ .dark) :
    execNvmSubsystemReset s = .next (releaseReset { s with kin := { s.kin with resetPending := true } }) := by
  rw [execNvmSubsystemReset, if_pos hu, subsystemReset_of_powered hm]

theorem execHotReset_of_link (hu : s.host.linkUp = true) :
    execHotReset s = .next { resetAll s with host := { (resetAll s).host with linkUp := false } } :=
  congrArg _ (if_pos hu)

theorem execFunctionLevelReset_of_vf (f : Fin 1024) (hm : s.mode.mode ≠ .dark) (hu : s.host.linkUp = true) (h0 : f.val ≠ 0)
    (hp : fnPresent s f = true) : execFunctionLevelReset f s = .next (vfReset f s) := by
  simp only [execFunctionLevelReset, hm, hu, h0, hp, not_true_eq_false, or_self, if_false]

theorem execVfEnable_of_room (n : Fin 1024) (hr : fnReach s 0 = true) (hv : s.host.vfEnable = false) (hn : n.val ≤ totalVfs s) :
    execVfEnable n s = .next { s with host := { s.host with numVfs := n.val, vfEnable := true } } := by
  simp [execVfEnable, hr, hv, Nat.not_lt.2 hn]

theorem execVfEnableCleared_of_enabled (hr : fnReach s 0 = true) (hv : s.host.vfEnable = true) :
    let u := (List.range s.host.numVfs).foldl (fun s i => vfReset (i + 1) s) s
    execVfEnableCleared s = .next { u with host := { u.host with vfEnable := false, numVfs := 0, online := [] } } := by
  simp [execVfEnableCleared, hr, hv]

/-- A function whose power state changes takes the new one; back in D0 its held completions are posted. -/
theorem execDevicePowerStateChange_of_present (f : Fin 1024) (d3 : Bool) (hm : s.mode.mode ≠ .dark) (hu : s.host.linkUp = true)
    (hp : fnPresent s f = true) (hd : (getCtrl s f).d3 ≠ d3) :
    execDevicePowerStateChange f d3 s =
      let u := setCtrl f { getCtrl s f with d3 := d3 } s
      .next (if d3 then u else postDeferred (fun d => decide (d.cmd.fn = f.val)) u) := by
  simp only [execDevicePowerStateChange, hm, hu, hp, hd, not_true_eq_false, or_self, if_false]

/-- The held completions of a function are posted in turn, and no longer held. -/
theorem postDeferred_of_fn (fn : Nat) (s : State) :
    postDeferred (fun d => decide (d.cmd.fn = fn)) s =
      (s.host.deferred.filter (fun d => d.cmd.fn = fn)).foldl (fun s d => postCpl d s)
        { s with host := { s.host with deferred := s.host.deferred.filter (fun d => d.cmd.fn ≠ fn) } } := by
  simp [postDeferred]

end

/-- Settles O23: each reset and each event of the link, where it is not refused. -/
theorem resetsAndLinkEvents : Obligations.ResetsAndLinkEvents := by
  refine fun s => ⟨?config, ?asserted, ?deasserted, ?subsystem, ?hot, ?function, ?enable, ?cleared, ?power⟩
  case config =>
    rintro _ rfl
    rfl
  case asserted => exact execPerstAsserted_of_powered
  case deasserted =>
    exact fun hp => ⟨execPerstDeasserted_noted hp, execPerstDeasserted_of_notServing hp, execPerstDeasserted_of_closed hp,
      execPerstDeasserted_waits hp⟩
  case subsystem => exact execNvmSubsystemReset_of_link
  case hot => exact execHotReset_of_link
  case function => exact execFunctionLevelReset_of_vf
  case enable => exact execVfEnable_of_room
  case cleared => exact execVfEnableCleared_of_enabled
  case power =>
    refine fun f hm hu hp => ⟨fun hd => ?toD3, fun hd => ?toD0⟩
    case toD3 => exact execDevicePowerStateChange_of_present f true hm hu hp (by simp [hd])
    case toD0 =>
      exact (execDevicePowerStateChange_of_present f false hm hu hp (by simp [hd])).trans (congrArg _ (postDeferred_of_fn f.val _))

end Sys2Proof.Machine
end

section
/-! SUPPORT. The caravan's messages, transfers and the host link (R46, R505, R560, R565, R566, R595, R624, R630 to R633, R666): what each does where
nothing stands against it, and the statement about them. -/

namespace Sys2Proof.Machine

section
variable {s : State}

/-- A serving module is Lit, with no ember flush. -/
theorem serving_iff : serving s = true ↔ s.mode.mode = .lit ∧ s.med.flush = none := by
  simp [serving]

/-! Heartbeats, absence, resumption, joining (R624, R630 to R632). -/

section
variable (hs : serving s = true) (hc : inCaravan s = true) (hm : s.rte.mismatched = false)
include hs hc hm

/-- A member's heartbeats go to the drover lead. -/
theorem execHeartbeatSend_of_member (hl : droverLead s ≠ ownStation s) :
    execHeartbeatSend s = .next (send (droverLead s) .heartbeat [ownStation s] [] [] s) := by
  simp [execHeartbeatSend, hs, hc, hm, hl]

/-- The lead's heartbeats go to every other member. -/
theorem execHeartbeatSend_of_lead (hl : droverLead s = ownStation s) :
    execHeartbeatSend s =
      .next (((members s).filter (· ≠ ownStation s)).foldl (fun s m => send m .heartbeat [ownStation s] [] [] s) s) := by
  simp [execHeartbeatSend, hs, hc, hm, hl]

theorem execHeartbeat_of_member (st : Fin 64) (hst : (members s).contains st.val = true) (hne : st.val ≠ ownStation s) :
    execHeartbeat st s =
      .next (settleAll (checkPartition (heardFrom st { s with rte := { s.rte with lastSeen := Tbl.insert s.rte.lastSeen st s.td17 } }))) := by
  simp only [execHeartbeat, hs, hc, hm, hst, hne, not_true_eq_false, Bool.false_eq_true, or_self, if_false]

/-- A caravan whose majority is Lit resumes for the first time. -/
theorem execCaravanResumption_first (hmin : minority s = false) (hr : s.rte.resumedAt = none) :
    execCaravanResumption s = .next (settleAll (checkPartition { s with rte := { s.rte with resumedAt := some s.td17 } })) := by
  simp [execCaravanResumption, hs, hc, hm, hmin, hr]

/-- A station that is not the lead passes a join request on to it. -/
theorem execJoinRequest_of_member (st : Fin 64) (v : Bool) (f : Nat) (g : Fin 8) (d : Nat) (hl : leads s = false)
    (hne : st.val ≠ ownStation s) :
    execJoinRequest st v f g d s = .next (send (droverLead s) .joinRequest [st, b2n v, f, g, d] [] [] s) := by
  simp [execJoinRequest, hs, hc, hm, hl, hne]

end

/-- A station that the checks declare absent is absent (R631). -/
theorem execAbsenceDeclared_of_declares (st : Fin 64) (h : declares s st = true) :
    execAbsenceDeclared st false s = .next (settleWaits (declareAbsent st s)) := by
  simp [execAbsenceDeclared, execAbsenceDeclaredWith, h]

/-! Propagation, acknowledgements, orders (R221, R624, R666). -/

section
variable (hs : serving s = true) (st : Fin 64) (hne : st.val ≠ ownStation s)
include hs hne

/-- A propagated entry of a member's charter is kept with its generation, and acknowledged. -/
theorem execCharterPropagation_of_member (hc : inCaravan s = true) (g f : Nat) (e : List Byte) (hst : (members s).contains st.val = true)
    (hf : f < 1024) :
    execCharterPropagation st g [(f, e)] s =
      .next (ackTo st ordCharter g 0 0 { s with chr := { s.chr with
        peerGen := Tbl.put 0 s.chr.peerGen st (g % 2 ^ 64)
        peerEntries := Tbl.put [] s.chr.peerEntries st
          (Memory.writeBytes (Tbl.get [] s.chr.peerEntries st.val) (256 * f) (fitBytes 256 e)) } }) := by
  simp only [execCharterPropagation, hs, hc, hst, hne, hf, List.foldl_cons, List.foldl_nil, not_true_eq_false, or_self, if_false, if_true]

theorem execHintPropagation_of_other (hc : inCaravan s = true) (nsid v : Nat) :
    execHintPropagation st nsid v s = .next (ackTo st ordHint nsid v 0 (putHint nsid (v % 2 ^ 32) s)) := by
  simp [execHintPropagation, hs, hc, hne]

theorem execMemberAcknowledgement_of_other (code a b res : Nat) :
    execMemberAcknowledgement st code a b res s = .next (settleWaits (ackEffect st code a b res (noteAck st code a b res s))) := by
  obtain ⟨hlit, hflush⟩ := serving_iff.1 hs
  simp [execMemberAcknowledgement, hlit, hflush, hne]

theorem execStationOperationRequest_of_other (code : Nat) (ns : List Nat) (bs : List Byte) :
    execStationOperationRequest st code ns bs s = .next (stationOrder st code ns bs s) := by
  simp [execStationOperationRequest, hs, hne]

end

/-! Forwarded parts, transfers (R46, R560, R565, R566, R595, R633). -/

/-- A part as its owner first has it. -/
def arrivedPart (s : State) (i slba nlb : Nat) (q : Sqe) : Part :=
  { index := i, nsid := foreignNsid q slba, slba := slba, nlb := nlb, owner := ownStation s, state := .waiting, status := none,
    records := 0, begun := false, mirrors := 0, off := 0 }

/-- A part of another station's command as its owner first has it. -/
def arrivedForeign (s : State) (st : Fin 64) (r : CmdRef) (i slba nlb g : Nat) (q : Sqe) : ForeignPart :=
  { station := st, cmd := r, sqe := { q with data := [], md := [] }, gen := g,
    write := decide (q.nsid ≤ 1024) && [0x01, 0x08, 0x09].contains q.opc, part := arrivedPart s i slba nlb q, admitted := false,
    committed := false, data := [] }

section
variable (st : Fin 64) (r : CmdRef) (i : Nat)

/-- A part that reaches an Extinguished owner goes back. -/
theorem execForwardedPart_of_extinguished {slba nlb g : Nat} {q : Sqe} (hc : inCaravan s = true) (hne : st.val ≠ ownStation s)
    (hf : findForeign s { station := st, cmd := r, index := i } = none) (hn : nlb ≠ 0) (he : s.mode.mode = .extinguished) :
    execForwardedPart st r i slba nlb g q s =
      .next (returnPart { station := st, cmd := r, index := i } stExtinguishedStation (cntMod 4 1 s)) := by
  simp [execForwardedPart, hc, hne, hf, hn, he]

/-- A part that reaches a Lit owner outside a sanitize joins the foreign parts and seeks its lock. -/
theorem execForwardedPart_of_lit {slba nlb g : Nat} {q : Sqe} (hc : inCaravan s = true) (hne : st.val ≠ ownStation s)
    (hf : findForeign s { station := st, cmd := r, index := i } = none) (hn : nlb ≠ 0) (hl : s.mode.mode = .lit)
    (hsan : sanRunning s = false) :
    let u := cntMod 4 1 s
    execForwardedPart st r i slba nlb g q s =
      .next (admitForeign { u with host := { u.host with foreign := u.host.foreign ++ [arrivedForeign s st r i slba nlb g q] } }) := by
  simp [execForwardedPart, hc, hne, hf, hn, hl, hsan, arrivedForeign, arrivedPart]

/-- The good status of a forwarded part ends it with the status it had. -/
theorem execPartStatus_good {p : Part} (hp : partOf s { station := ownStation s, cmd := r, index := i } = some p) (hst : p.state = .forwarded)
    (hm : s.mode.mode ≠ .dark) :
    execPartStatus r i 0 0 s = .next (releaseRouted (finishCmd r (updPart { station := ownStation s, cmd := r, index := i }
      (fun x => { x with state := .done, status := p.status }) (copySlm r s)))) := by
  simp [execPartStatus, hp, hst, hm]

/-- A write's data reaches its part at the owner. -/
theorem execForwardedData_atOwner (d m : List Byte) (hm : s.mode.mode ≠ .dark) (hc : inCaravan s = true) :
    execForwardedData st r i true d m s =
      .next (updForeign { station := st, cmd := r, index := i } (fun f => { f with sqe := { f.sqe with data := d, md := m } }) s) := by
  simp [execForwardedData, hm, hc]

/-- The transfer of a running part ends: the part is released, with Data Transfer Error where the transfer failed. -/
theorem execHostTransferDone_of_running {p : Part} (good : Bool) (hm : s.mode.mode ≠ .dark)
    (hp : partOf s { station := st, cmd := r, index := i } = some p)
    (ht : partTransfers s { station := st, cmd := r, index := i } = true) (hb : p.begun = true)
    (hr : partReads s { station := st, cmd := r, index := i } = false) (hst : p.state = .running) :
    execHostTransferDone st r i good s =
      .next (if good then releasePart { station := st, cmd := r, index := i } none (if st = ownStation s then countOut r.fn (partLen s p) s else s)
        else releasePart { station := st, cmd := r, index := i } (some stTransfer) s) := by
  simp only [execHostTransferDone, hm, hp, ht, hb, hr, hst, if_false, if_true, Bool.false_eq_true, not_false_eq_true, and_self]

end

/-! The host link (R505). -/

/-- The link comes up at its full width in L0. -/
theorem execDlUp_of_down (hm : s.mode.mode ≠ .dark) (hp : s.host.perst = false) (hu : s.host.linkUp = false) :
    execDlUp s = .next { s with host := { s.host with linkUp := true, linkWidth := 8, inL1 := false } } := by
  simp [execDlUp, hm, hp, hu]

/-- A live link in L0 takes any width that it has. -/
theorem execLinkPowerStateChange_width (w : Fin 9) (hu : s.host.linkUp = true) (hw : [1, 2, 4, 8].contains w.val = true) :
    execLinkPowerStateChange false w s = .next { s with host := { s.host with inL1 := false, linkWidth := w.val } } := by
  simp only [execLinkPowerStateChange, hu, hw, not_true_eq_false, Bool.false_eq_true, false_and, or_self, if_false]

end

/-- Settles O43: the caravan's messages, forwarded parts, transfers and the host link, each where nothing stands against it. -/
theorem caravanMessagesAndTransfers : Obligations.CaravanMessagesAndTransfers := by
  refine fun s st r i => ⟨?membership, ?propagation, ?forwarded, ?status, ?data, ?transfer, ?linkUp, ?linkWidth⟩
  case membership =>
    exact fun hs hc hm => ⟨execHeartbeatSend_of_member hs hc hm, execHeartbeatSend_of_lead hs hc hm, execHeartbeat_of_member hs hc hm st,
      execAbsenceDeclared_of_declares st, execCaravanResumption_first hs hc hm, execJoinRequest_of_member hs hc hm st⟩
  case propagation =>
    exact fun hs hc hne => ⟨execCharterPropagation_of_member hs st hne hc, execHintPropagation_of_other hs st hne hc,
      execMemberAcknowledgement_of_other hs st hne, execStationOperationRequest_of_other hs st hne⟩
  case forwarded =>
    exact fun slba nlb g q hc hne hf hn =>
      ⟨execForwardedPart_of_extinguished st r i hc hne hf hn, execForwardedPart_of_lit st r i hc hne hf hn⟩
  case status => exact fun p => execPartStatus_good r i
  case data => exact execForwardedData_atOwner st r i
  case transfer =>
    exact fun p hm hp ht hb hr hst =>
      ⟨execHostTransferDone_of_running st r i true hm hp ht hb hr hst, execHostTransferDone_of_running st r i false hm hp ht hb hr hst⟩
  case linkUp => exact execDlUp_of_down
  case linkWidth => exact execLinkPowerStateChange_width

end Sys2Proof.Machine
end

section
/-! SUPPORT. The management interface and the PF's mailbox (R39, R548 to R554, R653): the answer to each message, and the statement about them. -/

namespace Sys2Proof.Machine

/-! Messages of known length. -/

@[simp] theorem length_leBytes (n v : Nat) : (leBytes n v).length = n := by
  induction n generalizing v with
  | zero => rfl
  | succ n ih => simp [leBytes, ih]

@[simp] theorem length_zeroBytes (n : Nat) : (zeroBytes n).length = n := List.length_replicate

/-- A text is padded or cut to its field. -/
@[simp] theorem length_padText (n : Nat) (b : List Byte) : (padText n b).length = n := by
  simp [padText]
  omega

section
variable {s : State}

/-! The management interface (R553, R554). -/

section
variable (hm : s.mode.mode ≠ .dark)
include hm

/-- The basic management command sends one message of 30 bytes and releases SMB_ALERT#. -/
theorem execBasicManagementCommand_of_powered :
    ∃ b, execBasicManagementCommand s = .next { s with host := { s.host with miOut := s.host.miOut ++ [b], smbAlert := false } } ∧ b.length = 30 := by
  refine ⟨_, congrArg _ (if_neg hm), ?_⟩
  simp

theorem execReadNvmeMiDataStructure_of_some (k : Fin 4) (i : Nat) (d : List Byte) (hd : miStructure s k i = some d) :
    execReadNvmeMiDataStructure k i s = .next (miSend (miAnswer 0 d.length d) s) := by
  simp [execReadNvmeMiDataStructure, hm, miRead, hd]

/-- A health poll of the subsystem sends its health with one free value for the changes that are not given. -/
theorem execHealthStatusPoll_subsystem :
    execHealthStatusPoll none s =
      .next (miSend (miHealth s ((Config.freeValue s.free).toNat % 2 ^ 16)) { s with free := s.free + 1 }) :=
  congrArg _ (if_neg hm)

/-- A configuration set sends its answer in the state with the setting. -/
theorem execConfigurationSet_of_powered (ident value : Nat) :
    execConfigurationSet ident value s = .next (miSend (miConfigSet ident value s).1 (miConfigSet ident value s).2) :=
  congrArg _ (if_neg hm)

theorem execConfigurationGet_frequency :
    execConfigurationGet 1 s = .next (miSend (miAnswer 0 (if s.host.miFreq = 400 then 2 else 1) []) s) :=
  congrArg _ (if_neg hm)

theorem execVpdRead_within (o n : Nat) (hn : o + n ≤ 256) :
    execVpdRead o n s = .next (miSend (miAnswer 0 0 (((vpdBytes s).drop o).take n)) s) := by
  simp [execVpdRead, hm, miVpd, Nat.not_lt.2 hn]

end

/-- An admin command that is tunnelled, as it joins the outstanding ones. -/
def tunnelledCmd (s : State) (q : Sqe) : OutCmd :=
  { cmd := { fn := 0, sq := miQueue, cid := q.cid }, sqe := q, gen := s.chr.generation, admin := true, write := false, parts := [],
    committed := false, silent := false, held := false, data := [], copied := false }

/-- A command that may be tunnelled and passes its checks joins the outstanding ones. -/
theorem execTunnelledAdmin_joins (hm : s.mode.mode ≠ .dark) (q : Sqe) (hf : s.med.flush = none)
    (hnew : findCmd s { fn := 0, sq := miQueue, cid := q.cid } = none) (ht : tunnelled q = true) (hc : adminCheck s 0 q = none) :
    execTunnelledAdmin q s = .next (addCmd (tunnelledCmd s q) s) := by
  simp [execTunnelledAdmin, hm, hf, hnew, ht, hc, tunnelledCmd]

/-! The mailbox (R548 to R551, R653). -/

/-- A request that reaches the mailbox is answered. -/
theorem execSpdmRequest_of_mailbox (hb : mailbox s = true) (n : Nat) (q : List Byte) : execSpdmRequest n q s = .next (spdmAnswer n q s) :=
  congrArg _ (if_pos hb)

/-- GET_VERSION is answered with versions 1.2 and 1.3. -/
theorem spdmAnswer_getVersion (n : Nat) : spdmAnswer n [0x10, 0x84, 0, 0] s = spdmSend [0x10, 0x04, 0, 0, 0, 2, 0, 0x12, 0, 0x13] s := rfl

/-- A request of version 1.1 is answered with VersionMismatch. -/
theorem spdmAnswer_otherVersion (n : Nat) : spdmAnswer n [0x11, 0xE1, 0, 0] s = spdmSend [0x12, 0x7F, 0x41, 0] s := rfl

theorem execIdeKm_inSession (hb : mailbox s = true) (n m : Nat) (k : BitVec 256) (hn : Tbl.find s.host.sessions n ≠ none) (hm : m ≤ 4) :
    execIdeKm n m k s = .next { s with host := { s.host with ideKeys := Tbl.insert s.host.ideKeys m k } } := by
  simp [execIdeKm, hb, hn, Nat.not_lt.2 hm]

/-- Inside a mutually authenticated session the debug port unlocks for a requester of the service root and for no other. -/
theorem execDebugUnlock_inSession (hb : mailbox s = true) (n : Nat) (chain : List Byte) (hn : Tbl.find s.host.sessions n = some true) :
    execDebugUnlock n chain s =
      .next (if Config.serviceChain chain then logOcc 0x5002 1067 (leBytes 4 n) { s with host := { s.host with debugBy := some n } } else s) := by
  simp [execDebugUnlock, hb, hn]

/-- A session on which neither the debug port nor a manager role rests only closes. -/
theorem endSession_unbound (n : Nat) (both : Bool) (hn : Tbl.find s.host.sessions n = some both) (hd : s.host.debugBy ≠ some n)
    (hr : both = false ∨ s.chr.spdmReq = false) :
    endSession n s = { s with host := { s.host with sessions := Tbl.erase s.host.sessions n } } := by
  obtain rfl | hr := hr
  · simp [endSession, hn, hd]
  · simp [endSession, hn, hd, hr]

end

/-- Settles O54: each message outside Dark, and each mailbox request while the PF's mailbox is reached. -/
theorem managementAndMailboxMessages : Obligations.ManagementAndMailboxMessages := by
  refine ⟨fun s => ⟨fun hm => ⟨?basic, ?dataStructure, ?health, ?freq100, ?freq400, ?freqGet, ?vpd, ?tunnelled⟩, ?reset⟩,
    fun s => ⟨fun hb => ⟨?version, ?mismatch, ?ideKey, ?debug⟩, ?sessionEnd⟩⟩
  case basic => exact execBasicManagementCommand_of_powered hm
  case dataStructure => exact execReadNvmeMiDataStructure_of_some hm
  case health => exact execHealthStatusPoll_subsystem hm
  case freq100 => exact execConfigurationSet_of_powered hm 1 1
  case freq400 => exact execConfigurationSet_of_powered hm 1 2
  case freqGet => exact execConfigurationGet_frequency hm
  case vpd => exact execVpdRead_within hm
  case tunnelled => exact execTunnelledAdmin_joins hm
  case reset => rfl
  case version => exact fun n => (execSpdmRequest_of_mailbox hb n _).trans (congrArg _ (spdmAnswer_getVersion n))
  case mismatch => exact fun n => (execSpdmRequest_of_mailbox hb n _).trans (congrArg _ (spdmAnswer_otherVersion n))
  case ideKey => exact execIdeKm_inSession hb
  case debug => exact execDebugUnlock_inSession hb
  case sessionEnd =>
    exact fun n both hm hn hd hr => congrArg _ ((if_neg hm).trans (endSession_unbound n both hn hd hr))

end Sys2Proof.Machine
end

section
/-! SUPPORT. The work of a command's part (R64, R65, R74, R79, R108, R530, R555, R574): what begins it, what each kind of part does, and the
statement about the I/O commands. -/

namespace Sys2Proof.Machine

section
variable {s : State} {r : CmdRef} {pr : PartRef} {p : Part} {n : NsInfo} {opc : Nat}

/-- A command's one part at a station does its work when it can begin. -/
theorem forParts_of_single {st : Nat} (hs : partsAt s st r = [pr]) (hb : canBegin s pr opc = true) (f : PartRef → State → State) :
    forParts st r opc f s = f pr s := by
  simp only [forParts, hs, List.foldl_cons, List.foldl_nil, hb, if_true]

/-! Commands without a part (R79, R530). -/

theorem execFlush_of_noParts (hn : noParts s r 0x00 = true) (hf : s.med.flush = none) :
    execFlush r s = .next (completeCmd r stOk 0 0 [] s) := by
  simp [execFlush, hn, hf]

theorem execDatasetManagement_of_noParts (st : Fin 64) (hst : st.val = ownStation s) (hn : noParts s r 0x09 = true) (hf : s.med.flush = none) :
    execDatasetManagement st r s = .next (completeCmd r stOk 0 0 [] s) := by
  simp [execDatasetManagement, hst, hn, hf]

/-! Parts that read (R65, R108, R555, R574). -/

/-- A part that reads has begun, and its bytes are noted. -/
def readBegun (pr : PartRef) (p : Part) (s : State) : State :=
  updPart pr (fun x => { x with begun := true }) (noteBytes p.nsid p.slba p.nlb false s)

/-- A part that reads gives its content to its command and issues its media reads. -/
theorem readPart_of_some (hp : partOf s pr = some p) (hn : nsInfo s p.nsid = some n)
    (use : Part → NsInfo → List (List Byte × List Byte) → State → State) :
    readPart use pr s = partRead pr (issueReads pr p (use p n (partContent s n p) (readBegun pr p s))) := by
  simp only [readPart, hp, hn, readBegun]

section
variable (st : Fin 64) (hs : partsAt s st r = [pr]) (hp : partOf s pr = some p) (hn : nsInfo s p.nsid = some n)
include hs hp hn

theorem execRead_of_single (hb : canBegin s pr 0x02 = true) :
    execRead st r s =
      .next (partRead pr (issueReads pr p (storeData pr p n (bufBytes n (partContent s n p)) (readBegun pr p s)))) := by
  rw [execRead, forParts_of_single hs hb, readPart_of_some hp hn]

/-- A Compare's part that holds what the host gave only reads (R574). -/
theorem execCompare_of_same (hb : canBegin s pr 0x05 = true) (hc : sameContent (readBegun pr p s) pr p n (partContent s n p) = true) :
    execCompare st r s = .next (partRead pr (issueReads pr p (readBegun pr p s))) := by
  rw [execCompare, forParts_of_single hs hb, readPart_of_some hp hn, if_pos hc]

/-- A Compare's part that differs from what the host gave fails with Compare Failure (R574). -/
theorem execCompare_of_different (hb : canBegin s pr 0x05 = true)
    (hc : sameContent (readBegun pr p s) pr p n (partContent s n p) = false) :
    execCompare st r s =
      .next (partRead pr (issueReads pr p (updPart pr (fun x => { x with status := some stCompare }) (readBegun pr p s)))) := by
  rw [execCompare, forParts_of_single hs hb, readPart_of_some hp hn, if_neg (by simp [hc])]

theorem execVerify_of_single (hb : canBegin s pr 0x0C = true) :
    execVerify st r s = .next (partRead pr (issueReads pr p (readBegun pr p s))) := by
  rw [execVerify, forParts_of_single hs hb, readPart_of_some hp hn]

end

/-! Parts that deallocate (R64, R79, R555). -/

theorem execWriteZeroes_of_single (st : Fin 64) (hs : partsAt s st r = [pr]) (hb : canBegin s pr 0x08 = true) :
    execWriteZeroes st r s = .next (trimPart pr s) := by
  rw [execWriteZeroes, forParts_of_single hs hb]

theorem execDatasetManagement_of_single (st : Fin 64) (hs : partsAt s st r = [pr]) (hb : canBegin s pr 0x09 = true)
    (hn : noParts s r 0x09 = false) : execDatasetManagement st r s = .next (trimPart pr s) := by
  rw [execDatasetManagement, if_neg (by simp [hn]), forParts_of_single hs hb]

/-! Parts that write (R74, R183, R190). -/

/-- Bales that have an owner are not placed again (R183). -/
theorem foldl_placeLocal_of_placed {nsid : Nat} {l : List Nat} (hl : ∀ b ∈ l, (baleOwner s nsid b).isSome = true) :
    l.foldl (fun s b => if (baleOwner s nsid b).isNone then placeLocal nsid b s else s) s = s := by
  induction l with
  | nil => rfl
  | cons b l ih =>
    obtain ⟨hb, hrest⟩ := List.forall_mem_cons.1 hl
    rw [List.foldl_cons, if_neg (by simp [Option.isSome_iff_ne_none.1 hb]), ih hrest]

/-- The grains of a part with the content that its command gives them. -/
def writtenGrains (s : State) (pr : PartRef) (p : Part) (n : NsInfo) (q : Sqe) : List (GrainId × GrainImg × Nat) :=
  (rangeGrains p.slba p.nlb).map (fun g =>
    (GrainId.mk p.nsid g.1 g.2.1, writtenImg s n q (bufBase s pr p q) g.1 g.2.1 g.2.2, g.2.2))

/-- A part that writes has begun, its bytes are noted, and its grains count as rebuilt. -/
def writeBegun (pr : PartRef) (p : Part) (s : State) : State :=
  updPart pr (fun p => { p with begun := true }) (noteBytes p.nsid p.slba p.nlb true (markRebuilt p.nsid p.slba p.nlb s))

/-- The data bytes of a part are counted for the module and for its function (R778). -/
def countIn (pr : PartRef) (p : Part) (n : NsInfo) (s : State) : State :=
  let k := p.nlb * (blockLen n + sepLen n)
  cntFnAdd pr.cmd.fn 2 k (cntMod 2 k s)

/-- A part of this station's Write whose bales are placed here lands its grains, with the blocks that it writes present, and mirrors them. -/
theorem writePart_of_owned {q : Sqe} (hp : partOf s pr = some p) (hq : sqeOf s pr = some q) (hid : q.nsid = p.nsid)
    (hn : nsInfo s p.nsid = some n) (hown : pr.station = ownStation s)
    (hb : ∀ b ∈ baleList p.slba p.nlb, (baleOwner s p.nsid b).isSome = true ∧ ownsBale s p.nsid b = true) :
    writePart pr s =
      sendMirror pr ((writtenGrains s pr p n q).map (fun g => (g.1, g.2.1))) (4096 * p.nlb)
        ((writtenGrains s pr p n q).foldl (fun s g => landGrain { id := g.1, img := { g.2.1 with present := g.2.2 }, why := .host [pr] g.2.2 } s)
          (countIn pr p n (writeBegun pr p s))) := by
  have hplaced := foldl_placeLocal_of_placed (s := s) (nsid := p.nsid) (fun b h => (hb b h).1)
  have howned : (baleList p.slba p.nlb).any (fun b => !ownsBale s p.nsid b) = false := by
    simpa using fun b h => (hb b h).2
  simp only [writePart, hp, hq, hid, hn, hplaced, howned, hown, ite_self, ne_eq, not_true_eq_false, false_and, Bool.false_eq_true, or_self,
    if_false, if_true, writtenGrains, countIn, writeBegun]

end

/-- Settles O38: a command's one part does its work when it can begin, and a command without a part completes. -/
theorem ioCommandsRunTheirParts : Obligations.IoCommandsRunTheirParts := by
  refine fun s r => ⟨?flush, ?noRange, fun st pr p n hs hp hn => ⟨?read, ?compare, ?verify, ?zeroes, ?trim, ?write⟩⟩
  case flush => exact execFlush_of_noParts
  case noRange => exact execDatasetManagement_of_noParts
  case read => exact execRead_of_single st hs hp hn
  case compare => exact fun hb => ⟨execCompare_of_same st hs hp hn hb, execCompare_of_different st hs hp hn hb⟩
  case verify => exact execVerify_of_single st hs hp hn
  case zeroes => exact execWriteZeroes_of_single st hs
  case trim => exact execDatasetManagement_of_single st hs
  case write =>
    intro q hb _ hown hq hid hbales
    exact congrArg Host.Outcome.next
      ((forParts_of_single hs hb writePart).trans (writePart_of_owned hp hq hid hn hown hbales))

end Sys2Proof.Machine
end

section
/-! SUPPORT. What the media's rows do in a module that has power and does not flush (R73, R74, R84, R90, R106, R109, R119, R133, R140, R147, R153),
and the statement about them. -/

namespace Sys2Proof.Machine

section
variable {s : State}

/-! A module that does not flush holds back no program status and waits for none (R161). -/

theorem mayReturn_of_noFlush (hf : s.med.flush = none) (p : Nat) : mayReturn s p = true := by simp only [mayReturn, hf]

theorem notWaiting_of_noFlush (hf : s.med.flush = none) (p : Nat) : notWaiting p s = s := by simp only [notWaiting, hf]

section
variable (hm : s.mode.mode ≠ .dark)
include hm

/-! Programs (R74, R140, R147). -/

/-- What the end of a unit's program does before what waited on it goes on. -/
def programEnded (port : Nat) (u : ProgUnit) : DieStatus → State → State
  | .pass, s => programPass u s
  | .fail pl, s => programFail u pl s
  | .fault, s => faultPort port 2 s

theorem execProgramStatus_of_unit {port : Fin 1024} {u : ProgUnit} (hf : s.med.flush = none) (hu : nextUnit s port = some u) (st : DieStatus) :
    execProgramStatus port st s = .next (afterProgram (programEnded port u st s)) := by
  simp only [execProgramStatus, hu, hm, mayReturn_of_noFlush hf, notWaiting_of_noFlush hf, not_true_eq_false, or_self, if_false]
  cases st <;> rfl

/-- The state after a die port has again not returned ready. -/
def notReadyAgain (port : Fin 1024) (s : State) : State :=
  { s with med := { s.med with notReady := Tbl.put 0 s.med.notReady port.val (Tbl.get 0 s.med.notReady port.val + 1) } }

/-- A die port that is not ready for the first or second time in a row is only noted. -/
theorem execDieNotReadyTimeout_below {port : Fin 1024} (hp : s.med.faulted.contains port.val = false)
    (hn : Tbl.get 0 s.med.notReady port.val + 1 < 3) : execDieNotReadyTimeout port s = .next (notReadyAgain port s) := by
  simp only [execDieNotReadyTimeout, hm, hp, Nat.not_le.2 hn, Bool.false_eq_true, or_self, if_false, notReadyAgain]

/-- The third time in a row faults the port (R147). -/
theorem execDieNotReadyTimeout_third {port : Fin 1024} (hf : s.med.flush = none) (hp : s.med.faulted.contains port.val = false)
    (hn : 3 ≤ Tbl.get 0 s.med.notReady port.val + 1) :
    execDieNotReadyTimeout port s = .next (afterProgram (faultPort port 1 (notReadyAgain port s))) := by
  have hwait := notWaiting_of_noFlush (s := notReadyAgain port s) hf port
  simp only [execDieNotReadyTimeout, hm, hp, hn, Bool.false_eq_true, or_self, if_false, if_true]
  exact congrArg (fun u => Host.Outcome.next (afterProgram (faultPort port 1 u))) hwait

/-! Erases (R133, R140). -/

section
variable {port block : Fin 1024} (he : (getBlk s (blkKey port block)).erasing = true)
include he

/-- A die block as a passed erase leaves it. -/
def erasedBlock (b : DieBlock) : DieBlock :=
  { b with erasing := false, erases := satAdd 65535 b.erases 1, set := 0, pos := 0, next := 0, skipped := [], targets := [], heldBy := [] }

/-- An erased block is Free with one erase more. -/
theorem execEraseStatus_pass :
    let bk := blkKey port block
    let b := getBlk s bk
    execEraseStatus port block .pass s =
      .next (settleAll (retryRoom (healthAdd (if b.role = .qlc then 8 else 9) 1 (cntPort port 1 1
        (restoreReserve (blkState bk .free (wipePages bk (setBlk bk (erasedBlock b) (portReady port true s)))) port))))) := by
  simp [execEraseStatus, hm, he, erasedBlock]

/-- A block whose erase fails is logged and retired. -/
theorem execEraseStatus_fail (pl : Fin 4) :
    let bk := blkKey port block
    execEraseStatus port block (.fail pl) s =
      .next (settleAll (retireBlock bk pl (raise port (logOcc 0x1002 port (leBytes 1 pl.val ++ leBytes 2 block.val)
        (healthAdd 11 1 (chFailAdd (portChannel port) 1 65535
          (setBlk bk { getBlk s bk with erasing := false } (portReady port true s)))))))) := by
  simp [execEraseStatus, hm, he]

end

/-! Reads (R109, R114). -/

/-- The state after a die read has ended at its first step: the read is over, its port is ready, and one page is counted. -/
def readEnded (n : Nat) (d : DieRead) (s : State) : State :=
  let p := enPort d.entry
  portReady p false (cntPort p 1 1 (cntPort p 0 (pageBytes * 1) (noteSuspend p
    { s with med := { s.med with reads := s.med.reads.filter (fun x => x.id ≠ n) } })))

/-- A read that need not wait and decodes at once is done with its image. -/
theorem execFlashReadDone_hard {n : Nat} {d : DieRead} (hd : s.med.reads.find? (fun d => d.id = n) = some d) (hw : readWaits s d = false)
    (hs : readStep s d .hard = .hard) :
    execFlashReadDone n .hard s = .next (settleAll (readGood d (imgAt s d.entry) (readEnded n d s))) := by
  simp only [execFlashReadDone, hd, hm, hw, hs, Bool.false_eq_true, or_self, if_false, readsOf, readEnded]

/-! Seals (R119). -/

/-- The state in which a die block carries the next seal number and the present time. -/
def sealNumbered (bk : Nat) (s : State) : State :=
  setBlk bk { getBlk s bk with sealedAt := s.med.epoch + s.td17, sealOrder := s.med.sealCount + 1 }
    { s with med := { s.med with sealCount := s.med.sealCount + 1 } }

theorem execDieBlockSeal_decoded {port block : Fin 1024} (hb : blockFull s (blkKey port block) (getBlk s (blkKey port block)) = true) :
    let bk := blkKey port block
    execDieBlockSeal port block true s = .next (settleAll (blkState bk .sealed (sealNote bk (sealNumbered bk s)))) := by
  simp [execDieBlockSeal, hm, hb, sealNumbered]

/-! The journal and checkpoints (R73, R84). -/

/-- What the next durable record sets off: its effect on the map, what waits on it, and an audit that waited. -/
def recordTaken (x : JRec) (s : State) : State :=
  auditNow (retireForward (recordKind x (recordAct x (applyBody x { s with med := { s.med with durSeq := x.seq } }))))

theorem execJournalRecordDurable_of_next {x : JRec} (hx : s.med.journal.find? (fun r => s.med.durSeq < r.seq) = some x) :
    execJournalRecordDurable s =
      .next (if (recordTaken x s).med.flush.isSome then recordTaken x s else settleAll (retryRoom (recordTaken x s))) := by
  rw [execJournalRecordDurable, hx]
  exact congrArg _ (if_neg hm)

section
variable (hf : s.med.flush = none)
include hf

/-- Step 2 chooses what it writes and writes it. -/
theorem execCheckpointStepDone_chooses (h : s.med.ckptStep = 2) : execCheckpointStepDone s = .next (ckptWrite (ckptChoose s)) := by
  simp [execCheckpointStepDone, hm, hf, h]

/-- Code 6: what step 2 could not place is written. -/
theorem execCheckpointStepDone_writes (h : s.med.ckptStep = 6) : execCheckpointStepDone s = .next (ckptWrite s) := by
  simp [execCheckpointStepDone, hm, hf, h]

/-- Code 5: the mark is written once every page has passed. -/
theorem execCheckpointStepDone_marks (h : s.med.ckptStep = 5) (hp : ckptPending s = false) :
    execCheckpointStepDone s =
      .next (jrn 8 (.ckptMark s.med.ckptNum s.med.ckptBegin) .nothing { s with med := { s.med with ckptStep := 3 } }) := by
  simp [execCheckpointStepDone, hm, hf, h, hp]

/-- Step 4 frees. -/
theorem execCheckpointStepDone_frees (h : s.med.ckptStep = 4) : execCheckpointStepDone s = .next (settleAll (ckptFree s)) := by
  simp [execCheckpointStepDone, hm, hf, h]

/-! Timeouts (R90, R106, R153). -/

theorem execGatherUnitTimeout_of_open {port : Fin 1024} {u : ProgUnit}
    (hu : s.med.units.find? (fun u => u.port = port.val ∧ ¬ u.issued) = some u) :
    execGatherUnitTimeout port s = .next (fillUnit u.block 16 s) := by
  simp only [execGatherUnitTimeout, hu, hm, hf, Option.isSome_none, Bool.false_eq_true, or_self, if_false]

theorem execStripePadTimeout_of_lagging {port block : Fin 1024} (hset : (getBlk s (blkKey port block)).set ≠ 0)
    (hst : (getBlk s (blkKey port block)).state = .opened) (ha : setAhead s (getBlk s (blkKey port block)) = true)
    (hn : (getBlk s (blkKey port block)).next < slotsOf (getBlk s (blkKey port block)).role) :
    let bk := blkKey port block
    execStripePadTimeout port block s = .next (pushParity bk (pushSlot bk .pad (pushParity bk s))) :=
  congrArg _ (if_pos ⟨hm, by simp [hf], hset, hst, ha, hn⟩)

theorem execPackedPageTimeout_of_powered (w : Fin 8) : execPackedPageTimeout w s = .next (closePacked w s) := by
  simp [execPackedPageTimeout, hm, hf]

end

end

end

/-- Settles O39: each row of the media, in a module that has power and does not flush. -/
theorem mediaEventsTakeTheirPaths : Obligations.MediaEventsTakeTheirPaths := by
  refine fun s port block hm hf => ⟨?program, ?erase, ?read, ?notReady, ?full, ?journal, ?chooses, ?writes, ?marks, ?frees, ?gather, ?stripe,
    ?packed⟩
  case program =>
    intro u hu
    have hend := execProgramStatus_of_unit hm hf hu
    exact ⟨hend .pass, fun pl => hend (.fail pl), hend .fault⟩
  case erase => exact fun he => ⟨execEraseStatus_pass hm he, execEraseStatus_fail hm he⟩
  case read => exact fun n d hd hw hs => execFlashReadDone_hard hm hd hw hs
  case notReady => exact fun hp => ⟨execDieNotReadyTimeout_below hm hp, execDieNotReadyTimeout_third hm hf hp⟩
  case full => exact execDieBlockSeal_decoded hm
  case journal => exact fun x => execJournalRecordDurable_of_next hm
  case chooses => exact execCheckpointStepDone_chooses hm hf
  case writes => exact execCheckpointStepDone_writes hm hf
  case marks => exact execCheckpointStepDone_marks hm hf
  case frees => exact execCheckpointStepDone_frees hm hf
  case gather => exact fun u => execGatherUnitTimeout_of_open hm hf
  case stripe => exact execStripePadTimeout_of_lagging hm hf
  case packed => exact execPackedPageTimeout_of_powered hm hf

end Sys2Proof.Machine
end

section
/-! SUPPORT. Folds, reclaim, the forecourt, the audit, packed grains, windows and stalls in a Lit module that does not flush (R94 to R96, R105, R122,
R130, R176, R195, R198, R200), and the statement about them. -/

namespace Sys2Proof.Machine

section
variable {s : State}

/-! Folds and reclaim (R96, R130). -/

section
variable (hl : s.mode.mode = .lit) (hf : s.med.flush = none)
include hl hf

/-- A wing without a fold begins one with its source when the occupancy has reached its start, or when idle. -/
theorem execFoldStart_of_source {w : Fin 8} {bk : Nat} (idle : Bool) (hn : Tbl.find s.med.folds w = none) (hs : foldSource s w = some bk)
    (hr : s.med.foldStart ≤ occPct s ∨ (idle = true ∧ foldRuns s w = true)) :
    let u := takeSource bk s
    execFoldStart w idle s =
      .next (settleAll { u with med := { u.med with folds := Tbl.insert u.med.folds w { source := bk, why := .fold, todo := [] } } }) := by
  simp [execFoldStart, hl, hf, hn, hs, hr]

/-- A wing below its start level without a reclaim begins one with its source. -/
theorem execReclaimStart_of_source {w : Fin 8} {bk : Nat} (hn : Tbl.find s.med.reclaims w = none)
    (hb : belowLevel s w s.med.rclStart = true) (hs : reclaimSource s w = some bk) :
    let u := takeSource bk s
    execReclaimStart w s =
      .next (settleAll { u with med := { u.med with reclaims := Tbl.insert u.med.reclaims w { source := bk, why := .reclaim, todo := [] } } }) := by
  simp [execReclaimStart, hl, hf, hn, hs, hb]

end

/-! The forecourt (R94, R95). -/

/-- The average of native mode is over the forecourt's die blocks. -/
theorem avgErases_native (hc : s.med.compat = false) :
    avgErases s = ((s.med.blocks.filter (fun x => decide (x.1 % 1024 < nativeFc s))).map (·.2.erases)).sum / (1024 * nativeFc s) := by
  simp [avgErases, hc]

/-- In native mode the average and the wear allowance are recomputed, and the forecourt's blocks stay. -/
theorem execForecourtRecompute_native (hl : s.mode.mode = .lit) (hc : s.med.compat = false) :
    execForecourtRecompute s =
      .next { s with med := { s.med with
        avgErase := min 65535 (avgErases s)
        allowance := min 65535 (50000 * min s.cnt.opSeconds 157788000 / 157788000 + 2000 - avgErases s) } } := by
  simp [execForecourtRecompute, hl, hc]

/-! The audit (R122). -/

/-- The audit is due. -/
def auditAsked (s : State) : State := { s with med := { s.med with auditDue := true } }

section
variable (hl : s.mode.mode = .lit)
include hl

theorem execLedgerAudit_of_lit : execLedgerAudit s = .next (auditNow (auditAsked s)) := by
  simp [execLedgerAudit, hl, auditAsked]

/-- An audit that is due runs when every record is durable. -/
theorem auditNow_of_durable (hd : s.med.journal.all (fun r => decide (r.seq ≤ s.med.durSeq)) = true) :
    auditNow (auditAsked s) = auditAll { s with med := { s.med with auditDue := false } } := by
  have hnone : ∀ r ∈ s.med.journal, r.seq ≤ s.med.durSeq := by simpa using hd
  refine if_neg ?_
  simp only [auditAsked, hl, not_true_eq_false, reduceCtorEq, false_or, List.any_eq_true, not_exists, not_and, Bool.and_eq_true]
  exact fun r hr hlt => absurd (of_decide_eq_true hlt) (Nat.not_lt.2 (hnone r hr))

end

/-- An audit that is due waits for a block-state record that is issued and not durable. -/
theorem auditNow_of_issued
    (hr : ∃ r ∈ s.med.journal, s.med.durSeq < r.seq ∧ ∃ p b role old new n, r.body = .blockState p b role old new n) :
    auditNow (auditAsked s) = auditAsked s := by
  obtain ⟨r, hmem, hseq, p, b, role, old, new, n, hbody⟩ := hr
  exact if_pos (.inr (.inr (.inr (List.any_eq_true.2 ⟨r, hmem, by simp [auditAsked, hseq, hbody]⟩))))

/-! Packed grains (R105, R482 to R484, R487). -/

theorem not_dark_or_flush (hl : s.mode.mode = .lit) (hf : s.med.flush = none) : ¬ (s.mode.mode = .dark ∨ s.med.flush.isSome = true) := by
  simp [hl, hf]

/-- The state in which a grain has left the write cache. -/
def cacheLeft (c : CacheGrain) (s : State) : State := { s with med := { s.med with cache := s.med.cache.filter (fun x => x ≠ c) } }

/-- A compressor counts a grain that it packed. -/
def countPacked (v : Nat) (s : State) : State := setCmp v { getCmp s v with packed := satAdd (2 ^ 32 - 1) (getCmp s v).packed 1 } s

/-- A compressor counts a grain that stays raw. -/
def countRaw (v : Nat) (s : State) : State := setCmp v { getCmp s v with raw := satAdd (2 ^ 32 - 1) (getCmp s v).raw 1 } s

/-- A grain that its compressor did not make smaller is placed raw. -/
def keptRaw (c : CacheGrain) (v input : Nat) (s : State) : State := placeGrain c.wing c.item (countRaw v (cmpCount v input 0 s))

section
variable {nsid bale grain : Nat} {c : CacheGrain} (hl : s.mode.mode = .lit) (hf : s.med.flush = none)
  (hc : s.med.cache.find? (fun c => c.wait = .frame ∧ c.item.id = { nsid := nsid, bale := bale, grain := grain }) = some c)
include hl hf hc

/-- A frame of 1 byte to 15 KiB that is small enough packs the grain. -/
theorem execPackedGrainFrame_packs {n : Nat} (h0 : 0 < n) (hn : n ≤ 15360)
    (hsmall : notSmaller n (inputBytes s nsid) (getCmp s (frameWing s c)).threshPct = false) :
    let v := frameWing s c
    execPackedGrainFrame nsid bale grain (.frame n) s =
      .next (packGrain c.wing c.item ((n + 1023) / 1024) (countPacked v (cmpCount v (inputBytes s nsid) n (cacheLeft c s)))) := by
  have hkib : (n + 1023) / 1024 ≤ 15 := by omega
  rw [execPackedGrainFrame, hc]
  exact congrArg Host.Outcome.next ((if_neg (not_dark_or_flush hl hf)).trans (if_pos ⟨hkib, h0, by simp [hsmall]⟩))

/-- A larger frame, or one that is not small enough, keeps the grain raw. -/
theorem execPackedGrainFrame_staysRaw {n : Nat}
    (h : 15360 < n ∨ notSmaller n (inputBytes s nsid) (getCmp s (frameWing s c)).threshPct = true) :
    execPackedGrainFrame nsid bale grain (.frame n) s = .next (keptRaw c (frameWing s c) (inputBytes s nsid) (cacheLeft c s)) := by
  have hkeeps : ¬ ((n + 1023) / 1024 ≤ 15 ∧ 0 < n ∧ ¬ notSmaller n (inputBytes s nsid) (getCmp s (frameWing s c)).threshPct = true) := by
    rintro ⟨hkib, _, hsmall⟩
    obtain hbig | hns := h
    · omega
    · exact hsmall hns
  rw [execPackedGrainFrame, hc]
  exact congrArg Host.Outcome.next ((if_neg (not_dark_or_flush hl hf)).trans (if_neg hkeeps))

theorem execPackedGrainFrame_notSmaller :
    execPackedGrainFrame nsid bale grain .notSmaller s = .next (keptRaw c (frameWing s c) (inputBytes s nsid) (cacheLeft c s)) := by
  rw [execPackedGrainFrame, hc]
  exact congrArg Host.Outcome.next (if_neg (not_dark_or_flush hl hf))

/-- A grain whose frame fails its check counts a failure and stays raw (R482). -/
theorem execPackedGrainFrame_verifyFail :
    execPackedGrainFrame nsid bale grain .verifyFail s =
      .next (keptRaw c (frameWing s c) (inputBytes s nsid) (verifyFailed (frameWing s c) 0 (cacheLeft c s))) := by
  rw [execPackedGrainFrame, hc]
  exact congrArg Host.Outcome.next (if_neg (not_dark_or_flush hl hf))

end

/-! Windows (R176, R195). -/

/-- A lone station leads no caravan. -/
theorem leads_of_lone (h : inCaravan s = false) : leads s = false := by simp [leads, h]

/-- The end of a window rolls it over, and a lone station that may not migrate does no more. -/
theorem execPlacementWindowEnd_of_lone (hs : serving s = true) (load : List Nat) (hc : inCaravan (resumeMoves (rollWindow load s)) = false)
    (hm : (resumeMoves (rollWindow load s)).plc.migrEn = false) :
    execPlacementWindowEnd load s = .next (settleAll (leaveReady (resumeMoves (rollWindow load s)))) := by
  simp [execPlacementWindowEnd, hs, hc, hm, leads_of_lone hc]

/-! Stalled moves (R198, R200). -/

section
variable {nsid bale : Nat} {m : Move} (hs : serving s = true) (hm : findMove s nsid bale = some m) (hst : m.stalled = true)
  (hlegs : legHolds s nsid bale = false) (hrun : baleRunning s nsid bale = false)
include hs hm hst hlegs hrun

/-- A move within the station whose source wing holds nothing of the bale commits its directory entry (R198). -/
theorem execMoveStallDone_commits (hw : m.srcStation = m.dstStation) (h3 : m.step = 3) (hin : inWing s nsid bale m.srcWing = false) :
    execMoveStallDone nsid bale s =
      .next (setDir nsid bale { station := ownStation s, wing := m.dstWing, state := 1, blockIx := freeMapBlock s m.dstWing }
        (.placed nsid bale) (setMove { m with step := 4 } s)) := by
  simp [execMoveStallDone, hs, hm, hst, hlegs, hrun, hw, h3, hin]

/-- A move to another station is drained: the grains written since go next (R200). -/
theorem execMoveStallDone_drains (hsrc : m.srcStation = ownStation s) (hdst : m.dstStation ≠ ownStation s) (h6 : m.step = 6)
    (hd : m.drained = false) :
    execMoveStallDone nsid bale s =
      .next (settleAll (setMove { m with drained := true, todo := m.marked, marked := [] } s)) := by
  simp [execMoveStallDone, hs, hm, hst, hlegs, hrun, hsrc, hdst, h6, hd]

end

end

/-- Settles O40: folds, reclaim, the forecourt, the audit, packed grains, windows and stalled moves in a Lit module that does not flush. -/
theorem maintenanceAndWindows : Obligations.MaintenanceAndWindows := by
  intro s w hl hf
  have hserving : serving s = true := serving_iff.2 ⟨hl, hf⟩
  refine ⟨?fold, ?reclaim, ?forecourt, ?audit, ?auditWaits, ?packed, ?window, ?stall⟩
  case fold =>
    exact fun bk hn hs => ⟨fun hr => execFoldStart_of_source hl hf true hn hs (.inr ⟨rfl, hr⟩),
      fun ho => execFoldStart_of_source hl hf false hn hs (.inl ho)⟩
  case reclaim => exact fun bk => execReclaimStart_of_source hl hf
  case forecourt =>
    intro hc
    rw [← avgErases_native hc]
    exact execForecourtRecompute_native hl hc
  case audit => exact fun hd => (execLedgerAudit_of_lit hl).trans (congrArg _ (auditNow_of_durable hl hd))
  case auditWaits => exact fun hr => (execLedgerAudit_of_lit hl).trans (congrArg _ (auditNow_of_issued hr))
  case packed =>
    exact fun nsid bale grain c hc => ⟨fun n h0 hn hsmall => execPackedGrainFrame_packs hl hf hc h0 hn hsmall,
      fun n h => execPackedGrainFrame_staysRaw hl hf hc h, execPackedGrainFrame_notSmaller hl hf hc, execPackedGrainFrame_verifyFail hl hf hc⟩
  case window => exact execPlacementWindowEnd_of_lone hserving
  case stall =>
    exact fun nsid bale m hm hst hlegs hrun =>
      ⟨execMoveStallDone_commits hserving hm hst hlegs hrun, execMoveStallDone_drains hserving hm hst hlegs hrun⟩

end Sys2Proof.Machine
end

section
/-! SUPPORT. Control registers of the PF (R117, R227, R424, R444, R445, R501, R610, R890, R905): which values each takes, and the statement about
them. -/

namespace Sys2Proof.Machine

section
variable {s : State}

/-! LOCATE (R890, R905). -/

theorem execLocate_of_reach (hr : pfReach s = true) (v : BitVec 1) :
    execLocate v s = .next { s with mode := { s.mode with locate := v.toNat % 2 } } :=
  congrArg _ (if_pos hr)

section
variable (hw : pfWrites s = true)
include hw

/-! A wing's dispatcher (R424, R444, R445). -/

theorem execClrMax_of_writes (w : Fin 8) : execClrMax w s = .next (setWing w { getWing s w with wakeMax := 0, pqHigh := 0 } s) :=
  congrArg _ (if_pos hw)

/-- A quantum of up to 10,000 us is kept (R424). -/
theorem execQuantumWrite_within (w : Fin 8) (q : BitVec 16) (hq : q.toNat ≤ 10000) :
    execQuantumWrite w q s = .next (setWing w { getWing s w with quantum := q.toNat } s) := by
  simp only [execQuantumWrite, hw, setQuantum, hq, if_true]

theorem execQuantumWrite_beyond (w : Fin 8) (q : BitVec 16) (hq : 10000 < q.toNat) : execQuantumWrite w q s = .next s := by
  simp only [execQuantumWrite, hw, setQuantum, Nat.not_le.2 hq, if_true, if_false]

/-- A query below 2,048 names a slot of the wing's own table (R445). -/
theorem execWngDspQuery_own (w : Fin 8) (n : Fin 2048) :
    execWngDspQuery w (BitVec.ofNat 32 n.val) s =
      let x := taskWords s (2048 * w.val + n.val)
      .next (setWing w { getWing s w with query := n.val, taskA := x.1, taskB := x.2.1, taskC := x.2.2 } s) := by
  have hv : (BitVec.ofNat 32 n.val).toNat = n.val := by rw [BitVec.toNat_ofNat]; omega
  have htable : n.val / 2048 = 0 := Nat.div_eq_of_lt n.isLt
  have hquery : n.val % 4096 = n.val := Nat.mod_eq_of_lt (by omega)
  simp [execWngDspQuery, hw, hv, queryWrite, htable, hquery, Nat.mod_eq_of_lt n.isLt]

/-! Pace, compressor and link (R501, R610). -/

theorem execClrMin_of_writes (w : Fin 8) :
    execClrMin w s =
      .next (setWingPwr w { wingPwr s w with mons := (wingPwr s w).mons.map (fun m => { m with minPace := m.pace }) } s) :=
  congrArg _ (if_pos hw)

theorem execRetrain_of_used (l : Fin 4) (hl : (getLink s l).state ≠ .unused) :
    execRetrain l s = .next (retrainLink l (trainState s l (getLink s l)) (setLink l { getLink s l with downTimes := [] } s)) := by
  simp only [execRetrain, hw, retrainBit, hl, if_true, if_false]

theorem execCmpCtrlWrite_within (w : Fin 8) (v : Word) (hlo : 50 ≤ v.toNat % 128) (hhi : v.toNat % 128 ≤ 100) :
    execCmpCtrlWrite w v s =
      .next (setCmp w { getCmp s w with progShare := bitsOf v.toNat 10 8, threshPct := v.toNat % 128 } s) := by
  simp only [execCmpCtrlWrite, hw, cmpCtrlWrite, Nat.not_lt.2 hlo, Nat.not_lt.2 hhi, or_self, if_true, if_false]

theorem execCmpCtrlWrite_outside (w : Fin 8) (v : Word) (h : v.toNat % 128 < 50 ∨ 100 < v.toNat % 128) : execCmpCtrlWrite w v s = .next s := by
  simp only [execCmpCtrlWrite, hw, cmpCtrlWrite, h, if_true]

/-! The forecourt's control register (R117). -/

theorem execMedFcCtrlWrite_within (v : Word) (hf : bitsOf v.toNat 23 16 ≤ 50) (hlo : 50 ≤ bitsOf v.toNat 15 8)
    (hhi : bitsOf v.toNat 15 8 ≤ 98) :
    execMedFcCtrlWrite v s =
      .next { s with med := { s.med with foldStart := bitsOf v.toNat 23 16, highWater := bitsOf v.toNat 15 8 } } := by
  simp only [execMedFcCtrlWrite, hw, fcCtrlWrite, Nat.not_lt.2 hf, Nat.not_lt.2 hlo, Nat.not_lt.2 hhi, or_self, if_true, if_false]

theorem execMedFcCtrlWrite_outside (v : Word) (h : 50 < bitsOf v.toNat 23 16 ∨ bitsOf v.toNat 15 8 < 50 ∨ 98 < bitsOf v.toNat 15 8) :
    execMedFcCtrlWrite v s = .next s := by
  simp only [execMedFcCtrlWrite, hw, fcCtrlWrite, h, if_true]

/-! The placement's control register (R227). -/

theorem execMscPlcCtrlWrite_within (v : Word) (ha : 1 ≤ bitsOf v.toNat 31 24) (ha' : bitsOf v.toNat 31 24 ≤ 16)
    (hd : 1 ≤ bitsOf v.toNat 23 16) (hk : 5 ≤ bitsOf v.toNat 15 8) (hk' : bitsOf v.toNat 15 8 ≤ 100) :
    execMscPlcCtrlWrite v s =
      .next { s with plc := { s.plc with
        maxActive := bitsOf v.toNat 31 24, dwellMin := bitsOf v.toNat 23 16, skewPct := bitsOf v.toNat 15 8, migrEn := bitOf v.toNat 0 } } := by
  simp only [execMscPlcCtrlWrite, hw, plcCtrlWrite, Nat.not_lt.2 ha, Nat.not_lt.2 ha', Nat.not_lt.2 hd, Nat.not_lt.2 hk, Nat.not_lt.2 hk',
    or_self, if_true, if_false]

theorem execMscPlcCtrlWrite_outside (v : Word)
    (h : bitsOf v.toNat 31 24 = 0 ∨ 16 < bitsOf v.toNat 31 24 ∨ bitsOf v.toNat 23 16 = 0 ∨ bitsOf v.toNat 15 8 < 5 ∨
      100 < bitsOf v.toNat 15 8) :
    execMscPlcCtrlWrite v s = .next s := by
  simp only [execMscPlcCtrlWrite, hw, plcCtrlWrite, Nat.lt_one_iff, h, if_true]

end

/-- Bit 0 of a register word. -/
theorem bitOf_toNat_zero (v : Word) : bitOf v.toNat 0 = v.getLsbD 0 := by
  simp [bitOf, BitVec.getLsbD, Nat.testBit]

end

/-- Settles O58: each control register takes the values within its ranges and no others, and LOCATE its bit. -/
theorem controlRegistersTakeEffect : Obligations.ControlRegistersTakeEffect := by
  refine fun s => ⟨execLocate_of_reach,
    fun hw => ⟨fun w => ⟨?clrMax, ?quantum, ?query, ?clrMin, ?compressor⟩, ?retrain, ?forecourt, ?placement⟩⟩
  case clrMax => exact execClrMax_of_writes hw w
  case quantum => exact fun q => ⟨execQuantumWrite_within hw w q, execQuantumWrite_beyond hw w q⟩
  case query => exact execWngDspQuery_own hw w
  case clrMin => exact execClrMin_of_writes hw w
  case compressor => exact fun v => ⟨execCmpCtrlWrite_within hw w v, execCmpCtrlWrite_outside hw w v⟩
  case retrain => exact execRetrain_of_used hw
  case forecourt => exact fun v => ⟨execMedFcCtrlWrite_within hw v, execMedFcCtrlWrite_outside hw v⟩
  case placement =>
    refine fun v => ⟨fun ha ha' hd hk hk' => ?_, execMscPlcCtrlWrite_outside hw v⟩
    rw [← bitOf_toNat_zero]
    exact execMscPlcCtrlWrite_within hw v ha ha' hd hk hk'

end Sys2Proof.Machine
end

section
/-! SUPPORT. Settings of the PF that are kept within their ranges only (R171, R651): what a write with every field in range leaves, that any
other leaves nothing, and the statement about them. -/

namespace Sys2Proof.Machine

section
variable {s : State} (hw : pfWrites s = true) (v : Word)
include hw

/-! Recode percentage and rebuild rate (R651). -/

theorem execRteCfgWrite_within (hp : 10 ≤ bitsOf v.toNat 23 16) (hp' : bitsOf v.toNat 23 16 ≤ 90)
    (hg : 1 ≤ bitsOf v.toNat 15 12) (hg' : bitsOf v.toNat 15 12 ≤ 8) :
    execRteCfgWrite v s =
      .next { s with rte := { s.rte with recodePct := bitsOf v.toNat 23 16, rebuildGbps := bitsOf v.toNat 15 12 } } := by
  simp only [execRteCfgWrite, hw, rteCfgWrite, Nat.not_lt.2 hp, Nat.not_lt.2 hp', Nat.not_lt.2 hg, Nat.not_lt.2 hg', or_self, if_true, if_false]

theorem execRteCfgWrite_outside (h : bitsOf v.toNat 23 16 < 10 ∨ 90 < bitsOf v.toNat 23 16 ∨ bitsOf v.toNat 15 12 = 0 ∨
      8 < bitsOf v.toNat 15 12) :
    execRteCfgWrite v s = .next s := by
  simp only [execRteCfgWrite, hw, rteCfgWrite, Nat.lt_one_iff, h, if_true]

/-! Reclaim's weights: the age reference alone has a range (R171). -/

theorem execMscRclWeightWrite_within (ha : 1 ≤ bitsOf v.toNat 47 32) (ha' : bitsOf v.toNat 47 32 ≤ 3650) :
    execMscRclWeightWrite v s =
      .next { s with med := { s.med with
        rclAref := bitsOf v.toNat 47 32, rclWw := bitsOf v.toNat 23 16, rclWa := bitsOf v.toNat 15 8, rclWv := bitsOf v.toNat 7 0 } } := by
  simp only [execMscRclWeightWrite, hw, rclWeightWrite, Nat.not_lt.2 ha, Nat.not_lt.2 ha', or_self, if_true, if_false]

theorem execMscRclWeightWrite_outside (h : bitsOf v.toNat 47 32 = 0 ∨ 3650 < bitsOf v.toNat 47 32) :
    execMscRclWeightWrite v s = .next s := by
  simp only [execMscRclWeightWrite, hw, rclWeightWrite, Nat.lt_one_iff, h, if_true]

/-! Reclaim's levels: URGENT stays below START (R171). -/

theorem execMscRclCtrlWrite_within (hs : 2 ≤ bitsOf v.toNat 7 0) (hs' : bitsOf v.toNat 7 0 ≤ 64) (hu : 1 ≤ bitsOf v.toNat 15 8)
    (hu' : bitsOf v.toNat 15 8 < bitsOf v.toNat 7 0) :
    execMscRclCtrlWrite v s =
      .next { s with med := { s.med with rclUrgent := bitsOf v.toNat 15 8, rclStart := bitsOf v.toNat 7 0 } } := by
  simp only [execMscRclCtrlWrite, hw, rclCtrlWrite, Nat.not_lt.2 hs, Nat.not_lt.2 hs', Nat.not_lt.2 hu, Nat.not_le.2 hu', or_self,
    if_true, if_false]

theorem execMscRclCtrlWrite_outside (h : bitsOf v.toNat 7 0 < 2 ∨ 64 < bitsOf v.toNat 7 0 ∨ bitsOf v.toNat 15 8 = 0 ∨
      bitsOf v.toNat 7 0 ≤ bitsOf v.toNat 15 8) :
    execMscRclCtrlWrite v s = .next s := by
  simp only [execMscRclCtrlWrite, hw, rclCtrlWrite, Nat.lt_one_iff, h, if_true]

end

/-- The lowest byte of a register word. -/
theorem bitsOf_seven_zero (n : Nat) : bitsOf n 7 0 = n % 256 := by
  simp [bitsOf]

/-- Settles O57: RTE_CFG, MSC_RCL_WEIGHT and MSC_RCL_CTRL each take a value whose fields are all within their ranges, and no other. -/
theorem settingsKeepTheirRanges : Obligations.SettingsKeepTheirRanges := by
  intro s v hw p g a u b
  have hb : b = bitsOf v.toNat 7 0 := (bitsOf_seven_zero v.toNat).symm
  rw [hb]
  exact ⟨execRteCfgWrite_within hw v, execRteCfgWrite_outside hw v, execMscRclWeightWrite_within hw v, execMscRclWeightWrite_outside hw v,
    execMscRclCtrlWrite_within hw v, execMscRclCtrlWrite_outside hw v⟩

end Sys2Proof.Machine
end

section
/-! SUPPORT. Get Log Page (R224, R528, R534 to R536, R543 to R545, R649, R791, R807, R838): an admin command that can run does its work, what a page
is answered with, and the statement about them. -/

namespace Sys2Proof.Machine

section
variable {s : State} {r : CmdRef} {c : OutCmd} {opc : Nat}

/-! Admin commands. -/

/-- The outstanding command of a reference bears it. -/
theorem cmd_of_findCmd (h : findCmd s r = some c) : c.cmd = r := by
  simpa using List.find?_some h

/-- An admin command that can run is the outstanding one of its reference. -/
theorem findCmd_of_adminOf (h : adminOf s r opc = some c) : findCmd s r = some c := by
  unfold adminOf at h
  split at h
  next hfind => exact hfind.trans (Option.ite_none_right_eq_some.1 h).2
  next => simp at h

theorem cmd_of_adminOf (h : adminOf s r opc = some c) : c.cmd = r := cmd_of_findCmd (findCmd_of_adminOf h)

/-- An admin command that can run does its work. -/
theorem onAdmin_of_some (h : adminOf s r opc = some c) (f : OutCmd → State → State) : onAdmin r opc f s = f c s := by
  simp only [onAdmin, h]

/-- An admin command that ends with a status and no data. -/
theorem failCmd_of_adminOf (h : adminOf s r opc = some c) (st : Status) (u : State) : failCmd c st u = completeCmd r st 0 0 [] u := by
  rw [failCmd, cmd_of_adminOf h]

end

section
variable {s : State} {fn : Nat} {q : Sqe} {p : LogPage}

/-! The answer to a Get Log Page (R528, R534, R544). -/

/-- An identifier that names no page of the function is answered with Invalid Log Page. -/
theorem logAnswer_of_unknown (h : lidKnown fn (logLid q) = false) : logAnswer s fn q = (stLogPage, []) := by
  simp [logAnswer, findPage, h]

/-- An offset that is no multiple of 4, or beyond the page, is answered with Invalid Field. -/
theorem logAnswer_of_badOffset (hp : findPage s fn q = .ok p) (ho : logOff q % 4 ≠ 0 ∨ p.size ≤ logOff q) :
    logAnswer s fn q = (stField, []) := by
  simp only [logAnswer, hp, if_pos ho]

/-- Outside Kindling an offset within the page is answered with the page's bytes from there. -/
theorem logAnswer_of_within (hp : findPage s fn q = .ok p) (h4 : logOff q % 4 = 0) (hlt : logOff q < p.size)
    (hk : s.mode.mode ≠ .kindling) : logAnswer s fn q = (stOk, p.bytes (logOff q) (adminLen q)) := by
  simp [logAnswer, hp, h4, hlt, hk]

end

section
variable {s : State} {r : CmdRef} {c : OutCmd}

/-- A Get Log Page with a refusing answer ends with its status, and captures nothing. -/
theorem answerLog_refused {st : Status} {d : List Byte} (hc : c.cmd = r) (ha : logAnswer (logCapture r.fn c.sqe s) r.fn c.sqe = (st, d))
    (hst : st ≠ stOk) : answerLog c s = completeCmd r st 0 0 [] s := by
  subst hc
  simp [answerLog, ha, hst, failCmd]

/-- A Get Log Page with a good answer returns its data in the state with what is captured, and reports the events that the read unmasks. -/
theorem answerLog_good {d : List Byte} (hc : c.cmd = r) (ha : logAnswer (logCapture r.fn c.sqe s) r.fn c.sqe = (stOk, d)) :
    answerLog c s = deliverEvents r.fn 16 (logRead r.fn c.sqe (answerData r 0 d (logCapture r.fn c.sqe s))) := by
  subst hc
  simp [answerLog, ha]

/-- A row of Get Log Page answers the commands whose identifier is its own. -/
theorem onLog_of_mine {lids : Nat → Bool} (h : adminOf s r 0x02 = some c) (hl : lids (logLid c.sqe) = true) :
    onLog r lids s = answerLog c s := by
  rw [onLog, onAdmin_of_some h, if_pos hl]

/-- The rows of Get Log Page: those with an identifier of their own, and the row of all others. -/
def LogRowOf (r : CmdRef) (lid : Nat) (i : Instr) : Prop :=
  (lid, i) ∈ [(0x02, Instr.smartHealthLog r), (0x07, .telemetryHostInitiated r), (0xC8, .keepersLogPage r), (0xC9, .placementReport r),
      (0xCA, .counterSnapshot r), (0xCB, .caravanStatusPage r), (0xCC, .healthAndRetirement r), (0xCD, .thermalAndPace r)] ∨
    (ownRow lid = false ∧ i = .getLogPage r)

/-- The row of an identifier answers it. -/
theorem exec_logRow {i : Instr} (h : adminOf s r 0x02 = some c) (hi : LogRowOf r (logLid c.sqe) i) : exec i s = .next (answerLog c s) := by
  have answers : ∀ {lids : Nat → Bool}, lids (logLid c.sqe) = true →
      Host.Outcome.next (onLog r lids s) = (.next (answerLog c s) : Host.Outcome State Fault Refusal) :=
    fun hl => congrArg _ (onLog_of_mine h hl)
  obtain hown | ⟨hother, rfl⟩ := hi
  · simp only [List.mem_cons, Prod.mk.injEq, List.not_mem_nil, or_false] at hown
    rcases hown with ⟨hl, rfl⟩ | ⟨hl, rfl⟩ | ⟨hl, rfl⟩ | ⟨hl, rfl⟩ | ⟨hl, rfl⟩ | ⟨hl, rfl⟩ | ⟨hl, rfl⟩ | ⟨hl, rfl⟩ <;>
      exact answers (beq_iff_eq.2 hl)
  · exact answers (by simp [hother])

end

/-- Settles O27: a page's row returns its bytes from an offset within it, and refuses an identifier without a page and an offset that is not
within it. -/
theorem logPagesAreAnswered : Obligations.LogPagesAreAnswered := by
  intro s r c i hadm hc hi u
  rw [exec_logRow hadm hi]
  refine ⟨fun hunknown => congrArg _ ?unknown, fun p hp => ⟨fun ho => congrArg _ ?badOffset, fun h4 hlt hk => congrArg _ ?within⟩⟩
  case unknown => exact answerLog_refused hc (logAnswer_of_unknown hunknown) (by decide)
  case badOffset => exact answerLog_refused hc (logAnswer_of_badOffset hp ho) (by decide)
  case within => exact answerLog_good hc (logAnswer_of_within hp h4 hlt hk)

end Sys2Proof.Machine
end

section
/-! SUPPORT. Identify, features, the timestamp, the placement hint and event requests (R220, R221, R518, R521, R531, R533, R537, R657): what each
admin command does, and the statement about them. -/

namespace Sys2Proof.Machine

section
variable {s : State} {r : CmdRef} {c : OutCmd}

/-! Identify (R521). -/

section
variable (h : adminOf s r 0x06 = some c)
include h

theorem execIdentify_of_data {d : List Byte} (hd : idData s r.fn c.sqe = .ok d) : execIdentify r s = .next (answerData r 0 d s) := by
  rw [execIdentify, onAdmin_of_some h, hd]

theorem execIdentify_of_refusal {st : Status} (hd : idData s r.fn c.sqe = .error st) : execIdentify r s = .next (failCmd c st s) := by
  rw [execIdentify, onAdmin_of_some h, hd]

end

/-! Set Features (R219 to R221, R518, R531, R533, R537, R657). -/

section
variable (h : adminOf s r 0x09 = some c) (hsave : bitOf c.sqe.cdw10 31 = false)
include h hsave

/-- A feature without a row of its own, but the Temperature Threshold, only stores what it takes. -/
theorem execSetFeatures_of_plain (hk : featureKnown (c.sqe.cdw10 % 256) = true) (hts : c.sqe.cdw10 % 256 ≠ 0x0E)
    (hhint : c.sqe.cdw10 % 256 ≠ 0xC0) (htemp : c.sqe.cdw10 % 256 ≠ 0x04) :
    let x := setFeature s r.fn (c.sqe.cdw10 % 256) (c.sqe.cdw11 % 2 ^ 32)
    execSetFeatures r s =
      .next (completeCmd r x.1 x.2.1 0 [] (x.2.2.foldl (fun s e => putFeature r.fn (c.sqe.cdw10 % 256) e.1 e.2 s) s)) := by
  rw [execSetFeatures, onAdmin_of_some h, if_neg (by simp [hk]), if_neg (by simp [hsave]), if_neg (by simp [hts, hhint]), if_neg htemp]

theorem execTimestamp_of_timestamp (hts : c.sqe.cdw10 % 256 = 0x0E) :
    execTimestamp r s = .next (failCmd c stOk (setHostTime (leNat (c.sqe.data.take 6)) s)) := by
  rw [execTimestamp, onAdmin_of_some h, if_neg (by simp [hts, hsave])]

/-- A good hint for a namespace that exists is kept, and completes at once where no other member is to be told (R220, R221). -/
theorem execPlacementHint_of_lone (hhint : c.sqe.cdw10 % 256 = 0xC0) (hw : awaits s r = false) (hright : chrFlag s r.fn 3 = true)
    (h0 : c.sqe.nsid ≠ 0) (hn : (nsInfo s c.sqe.nsid).isSome = true) (hclass : c.sqe.cdw11 % 2 ^ 32 % 4 ≤ 1)
    (hres : bitsOf (c.sqe.cdw11 % 2 ^ 32) 7 3 = 0) (htop : c.sqe.cdw11 % 2 ^ 32 < 2 ^ 14)
    (hst : bitOf (c.sqe.cdw11 % 2 ^ 32) 2 = true → (members s).contains (bitsOf (c.sqe.cdw11 % 2 ^ 32) 13 8) = true)
    (hlone : otherLit s = []) :
    execPlacementHint r s = .next (failCmd c stOk (putHint c.sqe.nsid (c.sqe.cdw11 % 2 ^ 32) s)) := by
  have hbegins : ¬ (c.sqe.cdw10 % 256 ≠ 0xC0 ∨ bitOf c.sqe.cdw10 31 ∨ awaits s r) := by simp [hhint, hsave, hw]
  have hexists : ¬ (c.sqe.nsid = 0 ∨ (nsInfo s c.sqe.nsid).isNone) := by simp [h0, Option.isSome_iff_ne_none.1 hn]
  have hgood : ¬ (1 < c.sqe.cdw11 % 2 ^ 32 % 4 ∨ bitsOf (c.sqe.cdw11 % 2 ^ 32) 7 3 ≠ 0 ∨ c.sqe.cdw11 % 2 ^ 32 / 2 ^ 14 ≠ 0 ∨
      (bitOf (c.sqe.cdw11 % 2 ^ 32) 2 ∧ ¬ (members s).contains (bitsOf (c.sqe.cdw11 % 2 ^ 32) 13 8))) := by
    rintro (hc | hc | hc | ⟨hb, hm⟩)
    · omega
    · exact hc hres
    · exact hc (Nat.div_eq_of_lt htop)
    · exact hm (hst hb)
  rw [execPlacementHint, onAdmin_of_some h]
  exact congrArg _ ((if_neg hbegins).trans ((if_neg (by simp [hright])).trans ((if_neg hexists).trans ((if_neg hgood).trans (if_pos hlone)))))

end

/-! Get Features (R531, R533). -/

section
variable (h : adminOf s r 0x0A = some c) (hk : featureKnown (c.sqe.cdw10 % 256) = true)
include h hk

/-- Select 3 is answered with the feature's capabilities: changeable, and for the placement hint of a namespace. -/
theorem execGetFeatures_capabilities (hsel : bitsOf c.sqe.cdw10 10 8 = 3) :
    execGetFeatures r s = .next (completeCmd r stOk (if c.sqe.cdw10 % 256 = 0xC0 then 6 else 4) 0 [] s) := by
  rw [execGetFeatures, onAdmin_of_some h, if_neg (by simp [hk, hsel]), if_pos hsel]
  by_cases hhint : c.sqe.cdw10 % 256 = 0xC0 <;> simp [hhint, b2n]

section
variable (hsel : bitsOf c.sqe.cdw10 10 8 < 3)
include hsel

theorem execGetFeatures_timestamp (hts : c.sqe.cdw10 % 256 = 0x0E) : execGetFeatures r s = .next (answerData r 0 (timestampBytes s) s) := by
  rw [execGetFeatures, onAdmin_of_some h, if_neg (by simp [hk, hsel.le]), if_neg hsel.ne, if_pos hts]

theorem execGetFeatures_of_plain (hts : c.sqe.cdw10 % 256 ≠ 0x0E) (hhint : c.sqe.cdw10 % 256 ≠ 0xC0) :
    let x := getFeature s r.fn (c.sqe.cdw10 % 256) (c.sqe.cdw11 % 2 ^ 32) (decide (bitsOf c.sqe.cdw10 10 8 ≠ 0))
    execGetFeatures r s = .next (completeCmd r x.1 x.2 0 [] s) := by
  rw [execGetFeatures, onAdmin_of_some h, if_neg (by simp [hk, hsel.le]), if_neg hsel.ne, if_neg hts, if_neg hhint]

end

end

/-! Event requests (R537). -/

section
variable (h : adminOf s r 0x0C = some c) (hnew : (getCtrl s r.fn).aers.contains r = false)
include h hnew

/-- A request that is one of at most 16 is held, and pending events are reported. -/
theorem execAsynchronousEventRequest_held (hroom : (getCtrl s r.fn).aers.length < 16) :
    execAsynchronousEventRequest r s =
      .next (deliverEvents r.fn 16 (setCtrl r.fn { getCtrl s r.fn with aers := (getCtrl s r.fn).aers ++ [r] } s)) := by
  rw [execAsynchronousEventRequest, onAdmin_of_some h, if_neg (ne_true_of_eq_false hnew), if_neg (Nat.not_le.2 hroom)]

theorem execAsynchronousEventRequest_limit (hfull : 16 ≤ (getCtrl s r.fn).aers.length) :
    execAsynchronousEventRequest r s = .next (failCmd c stAerLimit s) := by
  rw [execAsynchronousEventRequest, onAdmin_of_some h, if_neg (ne_true_of_eq_false hnew), if_pos hfull]

end

end

/-- Settles O28: each of these admin commands, where it passes its checks, and the refusals of Identify and of a 17th event request. -/
theorem identifyFeaturesAndEventRequests : Obligations.IdentifyFeaturesAndEventRequests := by
  refine fun s r c => ⟨?identify, ?set, ?get, ?request⟩
  case identify => exact fun h => ⟨fun _ => execIdentify_of_data h, fun _ => execIdentify_of_refusal h⟩
  case set =>
    exact fun h hk hsave => ⟨execSetFeatures_of_plain h hsave hk, execTimestamp_of_timestamp h hsave, execPlacementHint_of_lone h hsave⟩
  case get =>
    exact fun h hk => ⟨execGetFeatures_capabilities h hk, execGetFeatures_timestamp h hk, execGetFeatures_of_plain h hk⟩
  case request => exact fun h hnew => ⟨execAsynchronousEventRequest_held h hnew, execAsynchronousEventRequest_limit h hnew⟩

end Sys2Proof.Machine
end

section
/-! SUPPORT. Programs, memory range sets, threads and subsystem local memory (R218, R282 to R294, R417): what each command does where it passes its
checks, and the statement about them. -/

namespace Sys2Proof.Machine

/-! A store in the SLM namespace changes SLM and the record of its DRAM channels only (R291, R753, R754). -/

/-- From s to t the DRAM channels alone change. -/
def DrmOnly (s t : State) : Prop := ∃ d, t = { s with drm := d }

theorem DrmOnly.refl (s : State) : DrmOnly s s := ⟨s.drm, rfl⟩

theorem DrmOnly.trans {s t u : State} : DrmOnly s t → DrmOnly t u → DrmOnly s u := by
  rintro ⟨d, rfl⟩ ⟨e, rfl⟩
  exact ⟨e, rfl⟩

theorem writePage_drmOnly (w p : Nat) (s : State) : DrmOnly s (writePage w p s) := by
  unfold writePage
  dsimp only
  split
  · exact .refl s
  · exact ⟨_, rfl⟩

theorem slmBadLine_drmOnly (off : Nat) (s : State) (x : List Byte) (a : Nat) : DrmOnly s (slmBadLine off s x a).1 := by
  unfold slmBadLine
  split
  · exact ⟨_, rfl⟩
  · exact .refl s

theorem slmWrite_eq (off : Nat) (bs : List Byte) (s : State) :
    ∃ d m, slmWrite off bs s = { s with drm := d, prog := { s.prog with slm := m } } := by
  obtain ⟨d, hd⟩ : DrmOnly s ((slmBad s off bs.length).foldl (fun (a : State × List Byte) l => slmBadLine off a.1 a.2 l) (s, bs)).1 :=
    List.foldlRecOn _ _ (motive := fun a : State × List Byte => DrmOnly s a.1) (.refl s) fun a ha l _ =>
      ha.trans (slmBadLine_drmOnly off a.1 a.2 l)
  have hpages (u : State) : DrmOnly u ((runPages off bs.length).foldl (fun s p => writePage (p / 2 ^ 18) (p % 2 ^ 18) s) u) :=
    List.foldlRecOn _ _ (.refl u) fun v hv p _ => hv.trans (writePage_drmOnly _ _ v)
  unfold slmWrite
  dsimp only
  rw [hd]
  obtain ⟨e, he⟩ := hpages _
  exact ⟨e, _, he⟩

section
variable {s : State} {r : CmdRef} {c : OutCmd} {opc i : Nat}

/-! Programs (R282 to R285). -/

/-- The part of an image that has arrived before a piece: a piece at offset 0 starts the image afresh. -/
def arrivedBefore (x : ProgSlot) (q : Sqe) : List Byte := if q.cdw13 = 0 then [] else x.arriving

section
variable {all : List Byte} (h : adminOf s r opLoadProgram = some c) (hw : awaits s r = false) (hns : c.sqe.nsid = computeNsid)
  (hi : c.sqe.cdw10 % 2 ^ 16 = i) (h64 : i < 64) (hp : bitsOf c.sqe.cdw10 23 16 = 0xC0) (hx : (progSlot s i).activated = false)
  (ho : c.sqe.cdw13 = (arrivedBefore (progSlot s i) c.sqe).length)
  (hall : arrivedBefore (progSlot s i) c.sqe ++ fitBytes c.sqe.cdw12 c.sqe.data = all)
include h hw hns hi h64 hp hx ho hall

/-- A piece that leaves the image incomplete joins it. -/
theorem execLoadProgram_joins (hlen : all.length < 48 ∨ all.length < imgLen all) :
    execLoadProgram r s = .next (completeCmd r stOk 0 0 [] (setSlot i { arriving := all, image := none, activated := false } s)) := by
  subst hi hall
  rw [execLoadProgram, onAdmin_of_some h, if_neg (ne_true_of_eq_false hw), if_neg (not_not.2 hns), if_neg (by omega),
    if_neg (ne_true_of_eq_false hx)]
  exact congrArg _ ((if_neg (not_not.2 ho)).trans (if_pos hlen))

/-- The last piece of an image that passes its checks stores it and tells every other Lit station. -/
theorem execLoadProgram_stores (h48 : 48 ≤ all.length) (hwhole : imgLen all = all.length) (hgood : imgCheck all = 0) :
    execLoadProgram r s =
      .next (orderThen ordProgImage i 0 [i] all r (setSlot i { arriving := [], image := some all, activated := false } s)) := by
  have hcomplete : ¬ (all.length < 48 ∨ all.length < imgLen all) := by omega
  subst hi hall
  rw [execLoadProgram, onAdmin_of_some h, if_neg (ne_true_of_eq_false hw), if_neg (not_not.2 hns), if_neg (by omega),
    if_neg (ne_true_of_eq_false hx)]
  exact congrArg _ ((if_neg (not_not.2 ho)).trans
    ((if_neg hcomplete).trans ((if_neg hwhole.not_lt).trans (if_neg (not_not.2 hgood)))))

end

/-- Activation and deactivation set the slot's state and tell every other Lit station; an empty slot is not activated (R285). -/
theorem execProgramActivationManagement_of_slot {sel : Nat} (h : adminOf s r opProgAct = some c) (hw : awaits s r = false)
    (hns : c.sqe.nsid = computeNsid) (hi : c.sqe.cdw10 % 2 ^ 16 = i) (h64 : i < 64) (hs : bitsOf c.sqe.cdw10 19 16 = sel) (hsel : sel ≤ 1)
    (himg : sel = 1 → (progSlot s i).image ≠ none) :
    execProgramActivationManagement r s =
      .next (orderThen ordProgActive i sel [i, sel] [] r (setSlot i { progSlot s i with activated := decide (sel = 1) } s)) := by
  have hgood : ¬ (64 ≤ i ∨ 1 < sel ∨ (sel = 1 ∧ (progSlot s i).image = none)) := by
    rintro (hbig | hbig | ⟨hone, hnone⟩)
    · omega
    · omega
    · exact himg hone hnone
  subst hi hs
  rw [execProgramActivationManagement, onAdmin_of_some h, if_neg (ne_true_of_eq_false hw), if_neg (not_not.2 hns)]
  exact congrArg _ (if_neg hgood)

/-! Memory range sets (R288 to R290). -/

section
variable (h : adminOf s r opRangeSet = some c)
include h

/-- A set of 1 to 16 good ranges takes the lowest free number. -/
theorem execMemoryRangeSetManagement_creates {n : Nat} (hsel : bitsOf c.sqe.cdw10 17 16 = 0) (hne : rangeList c.sqe ≠ [])
    (hlen : (rangeList c.sqe).length ≤ 16) (hok : (rangeList c.sqe).all (rangeOk s) = true)
    (hn : (List.range 256).find? (fun i => (Tbl.find s.prog.rsets i).isNone) = some n) :
    execMemoryRangeSetManagement r s = .next (completeCmd r stOk n 0 [] { s with prog := { s.prog with
      rsets := Tbl.insert s.prog.rsets n ((rangeList c.sqe).map (fun x => (x.2.1, x.2.2))) } }) := by
  have hgood : ¬ ((rangeList c.sqe).length = 0 ∨ 16 < (rangeList c.sqe).length ∨ ¬ (rangeList c.sqe).all (rangeOk s)) := by
    rintro (hzero | hbig | hbad)
    · exact hne (List.length_eq_zero_iff.1 hzero)
    · omega
    · exact hbad hok
  rw [execMemoryRangeSetManagement, onAdmin_of_some h, if_pos hsel, if_neg hgood, hn]

/-- A set that no Execute Program uses is deleted. -/
theorem execMemoryRangeSetManagement_deletes (hsel : bitsOf c.sqe.cdw10 17 16 = 1)
    (hset : (Tbl.find s.prog.rsets (c.sqe.cdw10 % 2 ^ 16)).isSome = true) (hrun : setRunning s (c.sqe.cdw10 % 2 ^ 16) = false) :
    execMemoryRangeSetManagement r s =
      .next (completeCmd r stOk 0 0 [] { s with prog := { s.prog with rsets := Tbl.erase s.prog.rsets (c.sqe.cdw10 % 2 ^ 16) } }) := by
  rw [execMemoryRangeSetManagement, onAdmin_of_some h, if_neg (by simp [hsel]), if_pos hsel,
    if_neg (by rw [Option.isNone_eq_false_iff.2 hset]; decide), if_neg (ne_true_of_eq_false hrun)]

end

/-! Execute Program and threads (R286, R292 to R294, R417). -/

/-- An Execute Program of an activated slot and an existing set waits for a thread. -/
theorem execExecuteProgram_waits {img : List Byte} (h : freshExecute s r = some c) (hf : s.med.flush = none) (hl : s.mode.mode = .lit)
    (hi : c.sqe.cdw10 % 2 ^ 16 = i) (hx : (progSlot s i).activated = true) (himg : (progSlot s i).image = some img)
    (hset : (Tbl.find s.prog.rsets (bitsOf c.sqe.cdw10 31 16)).isSome = true) :
    execExecuteProgram r s = .next { s with prog := { s.prog with waiting := s.prog.waiting ++
      [{ cmd := r, prog := i, rset := bitsOf c.sqe.cdw10 31 16, param := fitBytes c.sqe.cdw11 c.sqe.data, image := img }] } } := by
  simp only [execExecuteProgram, h, hi, hf, hl, hx, himg, Option.isNone_eq_false_iff.2 hset, Option.isSome_none, Bool.false_eq_true, ne_eq,
    not_true_eq_false, or_self, if_false, if_true]

/-- The oldest waiting command that may have a thread gets one in the wing chosen. -/
theorem execThreadStart_starts {w : ThreadReq} {g n : Nat} (hfirst : s.prog.waiting.find? (fun w => mayThread s w.cmd.fn) = some w)
    (hw : w.cmd = r) (hg : threadWing s = some g) (hc : findCmd s r = some c) (hroom : threadCount s < 1024) (hl : s.mode.mode = .lit)
    (hf : s.med.flush = none) (hn : freeSlot s g = some n) :
    execThreadStart r s = .next (startThread w c.gen (2048 * g + n) s) := by
  simp [execThreadStart, hfirst, hg, hc, hw, Nat.not_le.2 hroom, hl, hf, hn]

/-! Subsystem local memory (R291, R761). -/

/-- An SLM command that can run is the outstanding one of its reference, of this station's namespace, in a Lit module that does not flush. -/
theorem slmCmd_eq_some : slmCmd s r opc = some c ↔
    findCmd s r = some c ∧ c.admin = false ∧ c.sqe.opc = opc ∧ c.sqe.nsid = 1026 + ownStation s ∧ s.mode.mode = .lit ∧
      s.med.flush = none := by
  unfold slmCmd
  split
  next x hfind =>
    simp only [hfind, Option.ite_none_right_eq_some, Option.some.injEq, Bool.not_eq_true', Option.isNone_iff_eq_none]
    exact ⟨by rintro ⟨hx, rfl⟩; exact ⟨rfl, hx⟩, by rintro ⟨rfl, hx⟩; exact ⟨hx, rfl⟩⟩
  next hfind => simp [hfind]

theorem failCmd_of_slmCmd (h : slmCmd s r opc = some c) (st : Status) (u : State) : failCmd c st u = completeCmd r st 0 0 [] u := by
  rw [failCmd, cmd_of_findCmd (slmCmd_eq_some.1 h).1]

section
variable (h : slmCmd s r opMemRead = some c)
include h

theorem execMemoryRead_good (hp : slmPoisoned s (sqeSlba c.sqe) c.sqe.cdw12 = false) :
    execMemoryRead r s =
      .next (completeCmd r stOk 0 0 (Memory.readBytes s.prog.slm (sqeSlba c.sqe) c.sqe.cdw12) (countOut r.fn c.sqe.cdw12 s)) := by
  simp [execMemoryRead, h, hp]

theorem execMemoryRead_poisoned (hp : slmPoisoned s (sqeSlba c.sqe) c.sqe.cdw12 = true) :
    execMemoryRead r s = .next (failCmd c stUnrecovered s) := by
  simp [execMemoryRead, h, hp]

end

theorem execMemoryWrite_of_slmCmd (h : slmCmd s r opMemWrite = some c) :
    execMemoryWrite r s = .next (completeCmd r stOk 0 0 [] (slmWrite (sqeSlba c.sqe) (fitBytes c.sqe.cdw12 c.sqe.data) s)) := by
  simp [execMemoryWrite, h]

end

/-! Memory Copy (R291, R565, R761). -/

/-- A Memory Copy without parts is outstanding under a reference, and can run. -/
def PartlessCopy (r : CmdRef) (s : State) : Prop := ∃ c, slmCmd s r opMemCopy = some c ∧ c.parts = []

section
variable {s : State} {r : CmdRef}

theorem findCmd_updCmd {c : OutCmd} {f : OutCmd → OutCmd} (hf : ∀ c, (f c).cmd = c.cmd) (h : findCmd s r = some c) :
    findCmd (updCmd r f s) r = some (f c) := by
  have hkeep : (fun x => decide (x.cmd = r)) ∘ (fun x => if x.cmd = r then f x else x) = fun x : OutCmd => decide (x.cmd = r) := by
    funext x
    by_cases hx : x.cmd = r <;> simp [hx, hf]
  have hcmd := cmd_of_findCmd h
  unfold findCmd at h
  simp only [findCmd, updCmd, List.find?_map, hkeep, h, Option.map_some, hcmd, if_true]

/-- A change of a command that keeps what it is and gives it no parts. -/
structure KeepsCopy (f : OutCmd → OutCmd) : Prop where
  cmd : ∀ c, (f c).cmd = c.cmd
  admin : ∀ c, (f c).admin = c.admin
  sqe : ∀ c, (f c).sqe = c.sqe
  parts : ∀ c, c.parts = [] → (f c).parts = []

theorem PartlessCopy.updCmd {f : OutCmd → OutCmd} (hf : KeepsCopy f) (h : PartlessCopy r s) : PartlessCopy r (updCmd r f s) := by
  obtain ⟨c, hc, hparts⟩ := h
  obtain ⟨hfind, hrest⟩ := slmCmd_eq_some.1 hc
  refine ⟨f c, slmCmd_eq_some.2 ⟨findCmd_updCmd hf.cmd hfind, ?_⟩, hf.parts c hparts⟩
  rw [hf.admin, hf.sqe]
  exact hrest

theorem PartlessCopy.slmWrite (off : Nat) (bs : List Byte) (h : PartlessCopy r s) : PartlessCopy r (slmWrite off bs s) := by
  obtain ⟨d, m, heq⟩ := slmWrite_eq off bs s
  rw [heq]
  exact h

/-- Copying the SLM sources leaves the command outstanding and without parts. -/
theorem PartlessCopy.copySlm (h : PartlessCopy r s) : PartlessCopy r (copySlm r s) := by
  unfold Machine.copySlm
  split
  · exact h
  · split
    · exact h
    · refine List.foldlRecOn _ _ (motive := fun a : State × Nat => PartlessCopy r a.1) (h.updCmd ⟨?_, ?_, ?_, ?_⟩) fun a ha x _ => ?step
      case step =>
        split
        · exact ha
        · split
          · exact ha.updCmd ⟨fun _ => rfl, fun _ => rfl, fun _ => rfl, fun c hc => by simp [hc]⟩
          · exact (ha.slmWrite _ _).updCmd ⟨fun _ => rfl, fun _ => rfl, fun _ => rfl, fun _ hc => hc⟩
      all_goals simp

/-- A Memory Copy without parts whose SLM sources are good copies them and completes. -/
theorem execMemoryCopy_of_partless (st : Fin 64) {c : OutCmd} (hst : st.val = ownStation s) (h : slmCmd s r opMemCopy = some c) (hp : c.parts = [])
    (hgood : (copySources c.sqe).all (fun x => !(decide (1024 < x.1) && slmPoisoned s x.2.1 x.2.2)) = true) :
    execMemoryCopy st r s = .next (completeCmd r stOk 0 0 [] (copySlm r s)) := by
  obtain ⟨c', hc', hp'⟩ := PartlessCopy.copySlm ⟨c, h, hp⟩
  have hbad : (copySources c.sqe).any (fun x => decide (1024 < x.1) && slmPoisoned s x.2.1 x.2.2) = false := by
    simpa [List.any_eq_not_all_not] using hgood
  simp only [execMemoryCopy, hst, h, Option.isSome_some, and_self, if_true, hc', hp', (slmCmd_eq_some.1 h).1, hbad, Bool.false_eq_true, if_false]

end

/-- Settles O36: each of these commands, where it passes its checks. -/
theorem programsAndLocalMemory : Obligations.ProgramsAndLocalMemory := by
  refine fun s r c => ⟨?load, ?activate, ?ranges, ?execute, ?thread, ?read, ?write, ?copy⟩
  case load =>
    exact fun h hw hns hi hp hx ho => ⟨execLoadProgram_joins h hw hns rfl hi hp hx ho rfl,
      execLoadProgram_stores h hw hns rfl hi hp hx ho rfl⟩
  case activate => exact fun h hw hns hi => execProgramActivationManagement_of_slot h hw hns rfl hi rfl
  case ranges => exact fun h => ⟨fun _ => execMemoryRangeSetManagement_creates h, execMemoryRangeSetManagement_deletes h⟩
  case execute => exact fun _ h hf hl => execExecuteProgram_waits h hf hl rfl
  case thread => exact fun _ _ _ => execThreadStart_starts
  case read => exact fun h => ⟨execMemoryRead_good h, execMemoryRead_poisoned h⟩
  case write => exact execMemoryWrite_of_slmCmd
  case copy => exact fun st => execMemoryCopy_of_partless st

end Sys2Proof.Machine
end

section
/-! SUPPORT. Placement and redundancy at a serving member of a caravan (R176, R177, R183, R190, R191, R200, R636, R637, R639, R643, R644): what each
message and event does, and the statement about them. -/

namespace Sys2Proof.Machine

section
variable {s : State} (hs : serving s = true)
include hs

/-! Placement (R183). -/

section
variable {nsid bale : Nat}

/-- The state in which a request of another station has joined the queue of the drover lead; the lead's own has joined already. -/
def requestQueued (asker : Fin 64) (nsid bale : Nat) (s : State) : State :=
  { s with plc := { s.plc with requests := s.plc.requests ++ (if asker.val = ownStation s then [] else [(asker.val, nsid, bale)]) } }

section
variable (asker : Fin 64) (hl : leads s = true)
include hl

theorem execPlacementRequest_served (hr : s.plc.reconcile = false) :
    execPlacementRequest asker nsid bale s = .next (settleAll (serveNext 4096 (requestQueued asker nsid bale s))) := by
  simp [execPlacementRequest, hs, hl, hr, requestQueued]

/-- Before the lead has reconciled its directory a request waits. -/
theorem execPlacementRequest_waits (hr : s.plc.reconcile = true) :
    execPlacementRequest asker nsid bale s = .next (requestQueued asker nsid bale s) := by
  simp [execPlacementRequest, hs, hl, hr, requestQueued]

end

section
variable (hc : inCaravan s = true) (st : Fin 64)
include hc

theorem execPlacementAnswer_of_member : execPlacementAnswer nsid bale st s = .next (answerPlacement nsid bale st s) :=
  congrArg _ (if_pos ⟨hs, hc⟩)

/-! The directory (R183, R200). -/

/-- Outside Kindling an announcement is recorded; then the lead announces it, and any other station acknowledges it. -/
theorem execDirectoryAnnouncement_of_serving (w : Fin 8) (d : Fin 4) :
    let u := noteDir nsid bale st w d s
    execDirectoryAnnouncement nsid bale st w d s =
      .next (if leads s then settleAll (announceDir nsid bale { station := st, wing := w, state := d, blockIx := 0 } u)
        else settleAll (ackTo (droverLead s) ordDir nsid bale 0 u)) := by
  have hlit := (serving_iff.1 hs).1
  simp [execDirectoryAnnouncement, hlit, hs, hc]

/-! Orders to move (R200). -/

theorem execMoveOrder_of_party (dst : Fin 64) (reason : Fin 8) (hl : leads s = false)
    (hparty : st.val = ownStation s ∨ dst.val = ownStation s) (hne : st ≠ dst) :
    execMoveOrder nsid bale st dst reason s =
      .next (ackTo (droverLead s) ordMove nsid bale (takeMove nsid bale st dst reason s).2 (takeMove nsid bale st dst reason s).1) := by
  have hmine : ¬ (st.val ≠ ownStation s ∧ dst.val ≠ ownStation s) := by tauto
  exact congrArg _ (if_neg (by simp [hs, hc, hl, hmine, hne]))

/-! Reports (R176, R177). -/

/-- A member's report as the drover lead notes it: with its time, and with the bytes of the bales that came before. -/
def notedReport (s : State) (st : Fin 64) (load wear heat owned debt held left moved : Nat) (excl : Fin 3) : StReport :=
  { load := load, wear := wear, heat := heat, owned := owned, debt := debt, held := held, left := left, moved := moved, stamp := s.td17,
    excl := excl, bales := ((Tbl.find s.plc.reports st.val).map (·.bales)).getD [] }

section
variable (hm : (members s).contains st.val = true)
include hm

theorem execStationReport_of_member (load wear heat owned debt held left moved : Nat) (excl : Fin 3) :
    execStationReport st load wear heat owned debt held left moved excl s =
      .next { s with plc := { s.plc with
        reports := Tbl.insert s.plc.reports st.val (notedReport s st load wear heat owned debt held left moved excl) } } :=
  congrArg _ (if_pos ⟨hs, hc, hm⟩)

/-! Mirrors (R190, R191). -/

/-- Mirrored grains that all have data are held; none is deallocated. -/
theorem execMirrorGrains_of_data (tag : Nat) {gs : List GrainMsg} (hne : st.val ≠ ownStation s) (hdata : ∀ g ∈ gs, g.data ≠ []) :
    execMirrorGrains st tag gs s = .next (settleAll (gs.foldl (mirrorGrain st tag) s)) := by
  have htrims : gs.filter (fun g => g.data = []) = [] := by simpa using hdata
  have hmay : ¬ (¬ serving s ∨ ¬ (members s).contains st.val ∨ st.val = ownStation s ∨ ¬ inCaravan s) := by tauto
  simp only [execMirrorGrains, if_neg hmay, htrims, List.zipIdx_nil, List.foldl_nil]

end

end

end

/-- The state in which a mirror is acknowledged; one that no part and no debt waits for is gone. -/
def mirrorAcked (tag : Nat) (s : State) : State :=
  let l := s.plc.mirrors.map (fun x => if x.tag = tag then { x with acked := true } else x)
  { s with plc := { s.plc with mirrors := l.filter (fun x => ¬ (x.parts = [] ∧ x.acked ∧ x.bytes = 0)) } }

/-- A mirror whose partner has it is done, and each of its parts goes on. -/
theorem execMirrorAcknowledgement_of_unacked {tag : Nat} {m : MirrorItem} (hm : s.plc.mirrors.find? (fun m => m.tag = tag ∧ ¬ m.acked) = some m) :
    execMirrorAcknowledgement tag s =
      .next (settleAll (debtCheck (m.parts.foldl (fun s r => settlePart r (updPart r (fun p => { p with mirrors := p.mirrors - 1 }) s))
        (mirrorAcked tag s)))) := by
  simp only [execMirrorAcknowledgement, hm, hs, not_true_eq_false, if_false, mirrorAcked]

theorem execMirrorDrop_of_other (st : Fin 64) (gs : List GrainMsg) (hne : st.val ≠ ownStation s) :
    execMirrorDrop st gs s = .next (settleAll (gs.foldl (fun u g =>
      let v := putHeld st (msgId g) GrainImg.zero u
      if ownsBale u g.nsid g.bale = true ∨ mapEntry u (idKey (msgId g)) = 0 then v
      else jrn 8 (.mapTrim g.nsid g.bale (4 * g.grain) 4) .nothing v) s)) := by
  rw [execMirrorDrop, if_neg (by simp [hs, hne])]

/-! Parity, pieces, segments (R636, R637, R639). -/

section
variable (hc : inCaravan s = true) (st : Fin 64) (hm : (members s).contains st.val = true) {p : ParityGrain} (hp : s.rte.parity = [p])
include hc hm hp

/-- A contribution as an image. -/
def parityImg (data md : List Byte) : GrainImg :=
  { GrainImg.zero with data := Memory.writeBytes [] 0 (fitBytes 16384 data), md := Memory.writeBytes [] 0 (fitBytes 256 md) }

/-- The contribution of a position not yet got is added to the sum. -/
theorem execParityContribution_new {pos : Nat} (hx : p.placed = false) (hg : p.got.contains pos = false) (data md : List Byte) :
    execParityContribution st p.seg pos p.idx p.q data md s =
      .next (settleAll { s with rte := { s.rte with parity := [{ p with got := p.got ++ [pos], sum := imgXor p.sum (parityImg data md) }] } }) := by
  have hmem : st.val ∈ members s := by simpa using hm
  have hnew : pos ∉ p.got := by simpa using hg
  simp [execParityContribution, hs, hc, hmem, hp, hx, hnew, parityImg]

/-- A second contribution of a position changes nothing. -/
theorem execParityContribution_again {pos : Nat} (hg : p.got.contains pos = true) (data md : List Byte) :
    execParityContribution st p.seg pos p.idx p.q data md s = .next (settleAll { s with rte := { s.rte with parity := [p] } }) := by
  have hmem : st.val ∈ members s := by simpa using hm
  have hgot : pos ∈ p.got := by simpa using hg
  simp [execParityContribution, hs, hc, hmem, hp, hgot]

end

theorem execPieceClose_of_open (g : Fin 8) {p : Piece} (hp : s.rte.pieces.find? (fun p => ¬ p.closed ∧ p.group = g.val) = some p) :
    execPieceClose g s =
      .next (settleAll (send (droverLead s) .pieceClosed [p.id, p.versions.length] [] [] (setPiece { p with closed := true } s))) := by
  rw [execPieceClose, hp]
  exact congrArg _ (if_pos hs)

theorem execSegmentClose_of_lead (seg : Nat) (hl : leads s = true) : execSegmentClose seg s = .next (settleAll (tellLens seg (closeSeg seg s))) := by
  rw [execSegmentClose, if_pos ⟨hs, hl⟩]

/-! Rebuilds and moves (R200, R643, R644). -/

/-- Rebuilt grains of the bale are taken at its new owner; others of the bale may follow. -/
theorem execBackgroundRebuild_goesOn {nsid bale : Nat} {gs : List GrainMsg} (hr : baleRebuilding s nsid bale = true)
    (ho : ownsBale s nsid bale = true) (hg : ∀ g ∈ gs, g.nsid = nsid ∧ g.bale = bale ∧ g.grain < 4096 ∧ g.bits < 16) :
    execBackgroundRebuild nsid bale gs false s = .next (settleAll (admitForeign (gs.foldl (rebuildGrain (dirEntry s nsid bale).wing) s))) := by
  have hall : gs.filter (fun g => g.nsid = nsid ∧ g.bale = bale ∧ g.grain < 4096 ∧ g.bits < 16) = gs :=
    List.filter_eq_self.2 fun g h => decide_eq_true (hg g h)
  simp only [execBackgroundRebuild, hs, hr, ho, hall, not_true_eq_false, or_self, Bool.false_eq_true, false_and, if_false]

/-- A version of a piece held here is read for the station that rebuilds. -/
theorem execRebuildRead_of_version (st : Fin 64) {seg i : Nat} (tag : Nat) {p : Piece} {v : GrainId × GrainImg × Nat}
    (hp : s.rte.pieces.find? (fun p => p.seg = seg + 1) = some p) (hv : p.versions[i]? = some v) :
    execRebuildRead st seg i tag s = .next (addRead v.1 v.2.2 v.2.2 (.rebuild st tag) s) := by
  simp only [execRebuildRead, hp, hv, Option.map_some, hs, not_true_eq_false, if_false]

/-- A grain of a bale that moves here comes in. -/
theorem execMoveGrains_of_move (st : Fin 64) {g : GrainMsg} {m : Move} (hm : findMove s g.nsid g.bale = some m) (hsrc : m.srcStation = st.val)
    (hdst : m.dstStation = ownStation s) (hw : m.dstWing < 8) (hg : g.grain < 4096) (hb : g.bits < 16) :
    execMoveGrains st [g] s = .next (settleAll (moveGrainIn st m.dstWing s g)) := by
  simp only [execMoveGrains, hs, List.foldl_cons, List.foldl_nil, hm, hsrc, hdst, hw, hg, hb, not_true_eq_false, and_self, if_true, if_false]

end

/-- Settles O41: each message and event of the caravan's placement and redundancy at a serving member. -/
theorem caravanPlacementAndRedundancy : Obligations.CaravanPlacementAndRedundancy := by
  refine fun s st nsid bale hs hc => ⟨?request, ?answer, ?announcement, ?order, ?report, ?mirror, ?acknowledgement, ?drop, ?parity, ?piece,
    ?segment, ?rebuild, ?read, ?grains⟩
  case request => exact fun hl => ⟨execPlacementRequest_served hs st hl, execPlacementRequest_waits hs st hl⟩
  case answer => exact execPlacementAnswer_of_member hs hc st
  case announcement =>
    intro w d u
    have hnoted := execDirectoryAnnouncement_of_serving hs hc st (nsid := nsid) (bale := bale) w d
    exact ⟨fun _ hl => hnoted.trans (congrArg _ (if_neg (ne_true_of_eq_false hl))), fun hl => hnoted.trans (congrArg _ (if_pos hl))⟩
  case order => exact execMoveOrder_of_party hs hc st
  case report => exact fun l w h o d k f m x hm => execStationReport_of_member hs hc st hm l w h o d k f m x
  case mirror => exact fun tag _ hm => execMirrorGrains_of_data hs hc st hm tag
  case acknowledgement => exact fun _ _ => execMirrorAcknowledgement_of_unacked hs
  case drop => exact fun hne gs => execMirrorDrop_of_other hs st gs hne
  case parity =>
    rintro _ pos _ _ data md p hm hp rfl rfl rfl hx
    exact ⟨fun hg => execParityContribution_new hs hc st hm hp hx hg data md, fun hg => execParityContribution_again hs hc st hm hp hg data md⟩
  case piece => exact fun g _ => execPieceClose_of_open hs g
  case segment => exact execSegmentClose_of_lead hs
  case rebuild => exact fun _ => execBackgroundRebuild_goesOn hs
  case read => exact fun _ _ tag _ _ => execRebuildRead_of_version hs st tag
  case grains => exact fun _ _ => execMoveGrains_of_move hs st

end Sys2Proof.Machine
end

section
/-! SUPPORT. The output of a leg of another station that comes without a record (R323): it takes the leg off its waybill and writes no completion
record, where the statement has a record written for it as for any other output. -/

namespace Sys2Proof.Machine

section
variable {s : State} {wb : Waybill} {handle leg attempt : Nat}

/-- A waybill that has legs left stays in flight. -/
theorem find_wbFinish_of_unfinished (h : wbDone wb = false) : Tbl.find (wbFinish wb s).prog.waybills wb.handle = some wb := by
  simp [wbFinish, h]

/-- A leg that is dropped is taken off its waybill. -/
theorem find_legDropped (hw : Tbl.find s.prog.waybills wb.handle = some wb)
    (hleft : wbDone { wb with legs := wb.legs.filter (fun l => l.leg ≠ leg) } = false) :
    Tbl.find (legDropped wb.handle leg s).prog.waybills wb.handle = some { wb with legs := wb.legs.filter (fun l => l.leg ≠ leg) } := by
  simp only [legDropped, hw]
  exact find_wbFinish_of_unfinished hleft

/-- The legs of a waybill once one of them is done with a status. -/
def markDone (leg st : Nat) (l : List LegEntry) : List LegEntry := l.map (fun x => if x.leg = leg then { x with done := some st } else x)

/-- A delivery ends with the waybill as it then stands, with the leg marked done. -/
theorem legDeliver_eq_wbFinish {e : LegEntry} (hw : Tbl.find s.prog.waybills handle = some wb)
    (he : wb.legs.find? (fun l => l.leg = leg ∧ l.attempt ≤ attempt ∧ l.done.isNone) = some e)
    (status stamp : Nat) (out : List Byte) (required : Nat) (m : LegSummary) :
    ∃ u w st, legDeliver handle leg attempt status stamp out required m s = wbFinish w u ∧ w.handle = wb.handle ∧
      w.legs = markDone leg st wb.legs := by
  rw [legDeliver, hw]
  dsimp only
  rw [he]
  exact ⟨_, _, _, rfl, rfl, rfl⟩

/-- A leg whose output is delivered stays on its waybill, as done. -/
theorem exists_find_legDeliver {e : LegEntry} (hw : Tbl.find s.prog.waybills wb.handle = some wb)
    (he : wb.legs.find? (fun l => l.leg = leg ∧ l.attempt ≤ attempt ∧ l.done.isNone) = some e)
    (hleft : ∃ l ∈ wb.legs, l.leg ≠ leg ∧ l.done = none) (status stamp : Nat) (out : List Byte) (required : Nat) (m : LegSummary) :
    ∃ w, Tbl.find (legDeliver wb.handle leg attempt status stamp out required m s).prog.waybills wb.handle = some w ∧
      w.legs.length = wb.legs.length := by
  obtain ⟨u, w, st, heq, hhandle, hlegs⟩ := legDeliver_eq_wbFinish hw he status stamp out required m
  obtain ⟨l, hl, hne, hnone⟩ := hleft
  have hunfinished : wbDone w = false := by
    simp only [wbDone, hlegs, markDone, List.all_map, List.all_eq_false]
    exact ⟨l, hl, by simp [hne, hnone]⟩
  refine ⟨w, ?_, by simp [hlegs, markDone]⟩
  rw [heq, ← hhandle]
  exact find_wbFinish_of_unfinished hunfinished

/-- An awaited leg whose output comes without a record is dropped. -/
theorem execLegOutputReceive_noRecord (st : Fin 64) (o : List Byte) (hm : s.mode.mode ≠ .dark)
    (ha : legAwaited s st handle leg attempt = true) :
    execLegOutputReceive st handle leg attempt [] o s = .next (legDropped handle leg s) := by
  simp [execLegOutputReceive, hm, ha]

end

/-- A waybill with two legs at station 1 that are not done. -/
def twoLegWaybill : Waybill :=
  { handle := 1, task := 0, incarn := 0, nsid := 1, flagLeg := 0, resBase := 0, resLen := 0, recBase := 0, recLen := 0, resPos := 0, recPos := 0,
    resFull := false, maxStatus := 0
    legs := [{ leg := 0, station := 1, wing := 0, bales := [0], attempt := 0, done := none },
             { leg := 1, station := 1, wing := 1, bales := [1], attempt := 0, done := none }]
    cancelled := false, totalOut := 0, totalReq := 0, summary := LegSummary.zero, launch := ([], []) }

/-- A Lit module with that waybill in flight. -/
def awaitingTwoLegs : State :=
  { State.reset with mode := { ModeState.reset with mode := .lit }, prog := { ProgState.reset with waybills := [(1, twoLegWaybill)] } }

/-- Refutes O45: the output of an awaited leg that comes without a record takes the leg off its waybill (R323) and delivers nothing. In
`awaitingTwoLegs` it leaves one leg of two, where a delivery leaves both. -/
theorem not_legsSievesAndTheDispatcher : ¬ Obligations.LegsSievesAndTheDispatcher := by
  intro h
  obtain ⟨-, -, -, output, -, -, -⟩ := h awaitingTwoLegs
  have hlit : awaitingTwoLegs.mode.mode ≠ .dark := by decide
  have hawaited : legAwaited awaitingTwoLegs (1 : Fin 64) 1 0 0 = true := by decide
  have hfind : Tbl.find awaitingTwoLegs.prog.waybills twoLegWaybill.handle = some twoLegWaybill := rfl
  have hdelivered := (output 1 1 0 0 [] [] hlit).1 hawaited
  have hdropped : exec (.legOutputReceive 1 1 0 0 [] []) awaitingTwoLegs = .next (legDropped 1 0 awaitingTwoLegs) :=
    execLegOutputReceive_noRecord 1 [] hlit hawaited
  have heq := Host.Outcome.next.inj (hdropped.symm.trans hdelivered)
  have hone := find_legDropped (leg := 0) hfind rfl
  have hleft : ∃ l ∈ twoLegWaybill.legs, l.leg ≠ 0 ∧ l.done = none := by decide
  obtain ⟨w, hw, hlegs⟩ := exists_find_legDeliver (leg := 0) (attempt := 0) hfind rfl hleft
    (imgField [] 10 1) (imgField [] 40 8) [] (imgField [] 32 8) (parseSummary (List.drop 64 []))
  rw [show twoLegWaybill.handle = 1 from rfl] at hone hw
  rw [heq, hw] at hone
  obtain rfl := Option.some.inj hone
  exact absurd hlegs (by decide)

end Sys2Proof.Machine
end

section
/-! SUPPORT. Door words of the running task (R270, R295, R300 to R323, R428, R438): what a write that nothing stands against does, word for word,
a read of BT_NEXT, and the statement about them. -/

namespace Sys2Proof.Machine

section
variable {s : State} {key : Nat} {t : Task}

/-! One access of a door word, with no instruction (R303, R380). -/

theorem DoorOpen.task {k n off v : Nat} (h : DoorOpen s k key t n off v) : getTask s key = some t := by
  obtain ⟨-, htask, -⟩ := h
  exact htask

/-- A door write that nothing stands against stores its word. -/
theorem doorWriteBy_of_open {k n off v : Nat} (h : DoorOpen s k key t n off v) : doorWriteBy k n off v s = doorStore key n off v s := by
  obtain ⟨hrun, htask, haccess, hvalue, hroom, hlines⟩ := h
  simp [doorWriteBy, doorOpBy, doorWrite, hrun, htask, haccess, hvalue, hroom, hlines]

/-- A door read that its access check lets through changes what the word's read changes. -/
theorem doorReadBy_of_access {k n off : Nat} (hrun : (getCore s k).run = some key) (htask : getTask s key = some t)
    (haccess : accessFault s t (0x100000 + 0x1000 * n + off) 8 false = 0) : doorReadBy k n off s = (doorRead s key n off).2 := by
  simp only [doorReadBy, hrun, htask, haccess, ne_eq, not_true_eq_false, if_false]

/-! What a task's operation does for a task that lives, in place of a lookup of the task or of the waybill. -/

/-- A waybill of the task is cancelled (R323). -/
theorem wbCancelBy_own {v : Nat} {w : Waybill} (hw : Tbl.find s.prog.waybills v = some w) (hown : w.task = key) :
    wbCancelBy key v s = wbCancel v false s := by
  simp only [wbCancelBy, hw, hown, if_true]

/-- A waybill of another task is left alone. -/
theorem wbCancelBy_other {v : Nat} {w : Waybill} (hw : Tbl.find s.prog.waybills v = some w) (hother : w.task ≠ key) :
    wbCancelBy key v s = s := by
  simp only [wbCancelBy, hw, hother, if_false]

/-- A thread whose output fits range 0 ends with Successful Completion (R295, R302). -/
theorem threadExit_of_fits (htask : getTask s key = some t) (hfits : t.outPos.toNat ≤ range0Len t) (status : Nat) :
    threadExit key status s = endThread key stOk (min t.outPos.toNat 0xFFFFFFFF) status s := by
  simp only [threadExit, htask, hfits, if_true]

/-- The copy engine reads the source whole before it writes, and notes the length (R308). -/
theorem copyRun_of_task (htask : getTask s key = some t) (n : Nat) :
    copyRun key n s = updTask key (fun t => { t with cpDone := BitVec.ofNat 64 n })
      (writeSpace key t.cpDst.toNat (readSpace s key t t.cpSrc.toNat n) s) := by
  simp only [copyRun, htask]

/-- A task takes the priority it writes as far as its function's floor lets it, and is ranked again (R418, R428). -/
theorem setOwnPrio_of_task (htask : getTask s key = some t) (v : Nat) :
    setOwnPrio key v s = reRank t.core (setTask key { t with prio := floorPrio s t.fn (v % 8) } s) := by
  simp only [setOwnPrio, htask]

theorem setOwnAffinity_zero {v : Nat} (h0 : v % 2 ^ 32 = 0) : setOwnAffinity key v s = s := if_pos h0

theorem setOwnAffinity_nonzero {v : Nat} (h0 : v % 2 ^ 32 ≠ 0) :
    setOwnAffinity key v s = updTask key (fun t => { t with affinity := BitVec.ofNat 32 v }) s := if_neg h0

/-- A read of BT_NEXT takes the next batch (R316). -/
theorem doorRead_btNext (htask : getTask s key = some t) : doorRead s key 2 0 = btNext key s := by
  simp only [doorRead, htask, if_true]

/-! The door rows: each is one access, and what it stores is the branch of `doorStore` at its door and offset. -/

variable {k : Fin 256} {v : Word}

/-- WB_GO (R310). -/
theorem execWbGo_of_open (h : DoorOpen s k key t 1 0x08 0) : execWbGo k s = .next (wbGo key s) :=
  congrArg _ (doorWriteBy_of_open h)

/-- WB_CANCEL (R311, R323). -/
theorem execWbCancel_of_open (h : DoorOpen s k key t 1 0x18 v.toNat) : execWbCancel k v s = .next (wbCancelBy key v.toNat s) :=
  congrArg _ (doorWriteBy_of_open h)

/-- BT_NEXT (R316). -/
theorem execBtNext_of_access (hrun : (getCore s k).run = some key) (htask : getTask s key = some t)
    (haccess : accessFault s t 0x102000 8 false = 0) : execBtNext k s = .next (btNext key s).2 := by
  rw [execBtNext, doorReadBy_of_access hrun htask haccess, doorRead_btNext htask]

/-- BT_DONE (R270). -/
theorem execBtDone_of_open (h : DoorOpen s k key t 2 0x08 v.toNat) : execBtDone k v s = .next (btDone key v.toNat s) :=
  congrArg _ (doorWriteBy_of_open h)

/-- BT_APP_LEN (R317). -/
theorem execBtAppLen_of_open (h : DoorOpen s k key t 2 0x18 v.toNat) : execBtAppLen k v s = .next (btAppend key v.toNat s) :=
  congrArg _ (doorWriteBy_of_open h)

/-- BT_END (R318). -/
theorem execBtEnd_of_open (h : DoorOpen s k key t 2 0x20 0) : execBtEnd k s = .next (btEnd key s) :=
  congrArg _ (doorWriteBy_of_open h)

/-- CTL_APP_LEN (R300). -/
theorem execCtlAppLen_of_open (h : DoorOpen s k key t 0 0x210 v.toNat) : execCtlAppLen k v s = .next (ctlAppend key v.toNat s) :=
  congrArg _ (doorWriteBy_of_open h)

/-- CTL_EXIT (R295, R302): the status is the low 16 bits. -/
theorem execCtlExit_of_open (h : DoorOpen s k key t 0 0x218 v.toNat) : execCtlExit k v s = .next (threadExit key (v.toNat % 65536) s) :=
  congrArg _ (doorWriteBy_of_open h)

/-- CP_LEN (R308). -/
theorem execCpLen_of_open (h : DoorOpen s k key t 9 0x10 v.toNat) : execCpLen k v s = .next (copyRun key v.toNat s) :=
  congrArg _ (doorWriteBy_of_open h)

/-- PST_MASK (R438). -/
theorem execDoorPost_of_open (h : DoorOpen s k key t 3 0x28 v.toNat) : execDoorPost k v s = .next (doorPost key v.toNat s) :=
  congrArg _ (doorWriteBy_of_open h)

/-- PST_PRIO (R428). -/
theorem execPstPrio_of_open (h : DoorOpen s k key t 3 0x10 v.toNat) : execPstPrio k v s = .next (setOwnPrio key v.toNat s) :=
  congrArg _ (doorWriteBy_of_open h)

/-- PST_AFFINITY (R428). -/
theorem execPstAffinity_of_open (h : DoorOpen s k key t 3 0x18 v.toNat) : execPstAffinity k v s = .next (setOwnAffinity key v.toNat s) :=
  congrArg _ (doorWriteBy_of_open h)

end

/-- Settles O44: each door word that the running task writes with nothing against it is stored, and has its effect for that task. -/
theorem doorWordsHaveTheirEffects : Obligations.DoorWordsHaveTheirEffects := by
  refine fun s k key t v => ⟨execWbGo_of_open, ?cancel, execBtNext_of_access, execBtDone_of_open, execBtAppLen_of_open, execBtEnd_of_open,
    execCtlAppLen_of_open, ?exit, ?copy, execDoorPost_of_open, ?prio, ?affinity⟩
  case cancel =>
    exact fun h w hw => ⟨fun hown => (execWbCancel_of_open h).trans (congrArg _ (wbCancelBy_own hw hown)),
      fun hother => (execWbCancel_of_open h).trans (congrArg _ (wbCancelBy_other hw hother))⟩
  case exit => exact fun h hfits => (execCtlExit_of_open h).trans (congrArg _ (threadExit_of_fits h.task hfits _))
  case copy => exact fun h => (execCpLen_of_open h).trans (congrArg _ (copyRun_of_task h.task _))
  case prio => exact fun h => (execPstPrio_of_open h).trans (congrArg _ (setOwnPrio_of_task h.task _))
  case affinity =>
    exact fun h => ⟨fun h0 => (execPstAffinity_of_open h).trans (congrArg _ (setOwnAffinity_zero h0)),
      fun h0 => (execPstAffinity_of_open h).trans (congrArg _ (setOwnAffinity_nonzero h0))⟩

end Sys2Proof.Machine
end

section
/-! SUPPORT. What is refused while a program is activated or a range set is used, and the bytes of a Memory Write (R278, R284, R290, R291, R758): each
refusal's branch, what a store in good lines of SLM leaves, and the statements about both. -/

namespace Sys2Proof.Machine

section
variable {s : State} {r : CmdRef} {c : OutCmd}

/-! Refusals (R284, R290). -/

/-- A piece for a slot whose program is activated is refused, and the slot stays as it is (R284). -/
theorem execLoadProgram_activated (h : adminOf s r opLoadProgram = some c) (hw : awaits s r = false) (hns : c.sqe.nsid = computeNsid)
    (h64 : c.sqe.cdw10 % 2 ^ 16 < 64) (hp : bitsOf c.sqe.cdw10 23 16 = 0xC0) (hx : (progSlot s (c.sqe.cdw10 % 2 ^ 16)).activated = true) :
    execLoadProgram r s = .next (failCmd c stSequence s) := by
  rw [execLoadProgram, onAdmin_of_some h, if_neg (ne_true_of_eq_false hw), if_neg (not_not.2 hns), if_neg (by omega), if_pos hx]

/-- A thread uses the range set that it was started with. -/
theorem setRunning_of_thread {id : Nat} (h : ∃ e ∈ s.disp.tasks, e.2.kind = .thread ∧ e.2.rset = id) : setRunning s id = true := by
  obtain ⟨e, he, huses⟩ := h
  exact Bool.or_eq_true_iff.2 (.inr (List.any_eq_true.2 ⟨e, he, decide_eq_true huses⟩))

/-- The deletion of a set that a running Execute Program uses is refused, and the set stays (R290). -/
theorem execMemoryRangeSetManagement_busy (h : adminOf s r opRangeSet = some c) (hsel : bitsOf c.sqe.cdw10 17 16 = 1)
    (hset : (Tbl.find s.prog.rsets (c.sqe.cdw10 % 2 ^ 16)).isSome = true) (hrun : setRunning s (c.sqe.cdw10 % 2 ^ 16) = true) :
    execMemoryRangeSetManagement r s = .next (failCmd c stBusy s) := by
  rw [execMemoryRangeSetManagement, onAdmin_of_some h, if_neg (by simp [hsel]), if_pos hsel,
    if_neg (by rw [Option.isNone_eq_false_iff.2 hset]; decide), if_pos hrun]

end

/-- Settles O35: both refusals. -/
theorem activatedSlotsAndUsedRangeSetsAreKept : Obligations.ActivatedSlotsAndUsedRangeSetsAreKept :=
  fun _ _ _ => ⟨execLoadProgram_activated, fun h hsel hset hthread =>
    execMemoryRangeSetManagement_busy h hsel hset (setRunning_of_thread hthread)⟩

/-! Bytes of a Memory Write (R278, R291, R758). -/

@[simp] theorem length_fitBytes (n : Nat) (l : List Byte) : (fitBytes n l).length = n := by
  induction n generalizing l with
  | zero => rfl
  | succ n ih => cases l <;> simp [fitBytes, ih]

/-- The first writes to pages are noted in the DRAM channels alone (R754). -/
theorem foldl_writePage_drmOnly (pages : List Nat) (s : State) :
    DrmOnly s (pages.foldl (fun s p => writePage (p / 2 ^ 18) (p % 2 ^ 18) s) s) :=
  List.foldlRecOn _ _ (.refl s) fun t ht _ _ => ht.trans (writePage_drmOnly _ _ t)

/-- A store that touches no poisoned line writes each of its bytes; beside SLM it changes the DRAM channels only. -/
theorem slmWrite_of_good {s : State} {off : Nat} {bs : List Byte} (h : slmPoisoned s off bs.length = false) :
    ∃ d, slmWrite off bs s = { s with drm := d, prog := { s.prog with slm := Memory.writeBytes s.prog.slm off bs } } := by
  have hbad : slmBad s off bs.length = [] := by simpa [slmPoisoned] using h
  obtain ⟨d, hd⟩ := foldl_writePage_drmOnly (runPages off bs.length)
    { s with prog := { s.prog with slm := Memory.writeBytes s.prog.slm off bs } }
  exact ⟨d, by rw [slmWrite, hbad]; exact hd⟩

/-- A completion, and what waited on it, leaves programs, SLM and the media as they are. -/
theorem completeCmd_prog_med (r : CmdRef) (st : Status) (dw0 dw1 : Nat) (data : List Byte) (s : State) :
    (completeCmd r st dw0 dw1 data s).prog = s.prog ∧ (completeCmd r st dw0 dw1 data s).med = s.med := by
  have hself : AnswersOnly s s := by simp [AnswersOnly]
  obtain ⟨-, -, -, -, -, hprog, -, -, hmed, -⟩ := completeCmd_answers r st dw0 dw1 data s hself
  exact ⟨hprog, hmed⟩

/-- Settles O37: with no poisoned line in its range the store is one `writeBytes`, and the completion leaves SLM alone. -/
theorem memoryWriteChangesItsRangeOnly : Obligations.MemoryWriteChangesItsRangeOnly := by
  intro s r c h hgood hwf
  obtain ⟨d, hd⟩ := slmWrite_of_good (bs := fitBytes c.sqe.cdw12 c.sqe.data) (by rwa [length_fitBytes])
  obtain ⟨hprog, hmed⟩ := completeCmd_prog_med r stOk 0 0 [] (slmWrite (sqeSlba c.sqe) (fitBytes c.sqe.cdw12 c.sqe.data) s)
  refine ⟨_, execMemoryWrite_of_slmCmd h, ?_⟩
  rw [hprog, hmed, hd]
  refine ⟨writeBytes_wf hwf, rfl, rfl, fun a => ?_⟩
  rw [read_writeBytes hwf, length_fitBytes]

end Sys2Proof.Machine
end

section
/-! SUPPORT. The beacon's commands (R303, R447 to R464, R904): a unit word that the PF or a running task writes has its effect for that requester's
context, each command does its work where none of its refusals applies, and the statement about them. -/

namespace Sys2Proof.Machine

/-! A word of a unit (R303, R904). -/

/-- A write that nothing stands against has the unit's effect for the context of its requester. -/
theorem unitWrite_of_open {s : State} {r : Requester} {n off v x : Nat} (op : Nat → State → State) (h : UnitOpen s r n off v x)
    (hdoor : ∀ key, doorStore key n off v s = op (key + 1) s) : unitWrite r n off v (op 0) s = op x s := by
  obtain ⟨rfl, hpf, rfl⟩ | ⟨k, key, t, rfl, hopen, rfl⟩ := h
  · exact if_pos hpf
  · exact (doorWriteBy_of_open hopen).trans (hdoor key)

/-! What a command does where none of its refusals applies (R451, R453 to R458). -/

section
variable {s : State} {t : Nat} {b : BcnTable} {c : BcnCtx}

/-- A search in an active table repairs the bad rows that match, and stores its outcome (R451, R452). -/
theorem bcnGo_of_active {x : Nat} (ha : (bcnTable s (bcnCtx s x).sTable).active = true) :
    let c := bcnCtx s x
    let v := bcnFix c.sTable (ctxKey c) s
    let h := bcnSearch v c.sTable (ctxKey c)
    let n := b2n h.multi * 2 ^ 62 + b2n h.hit * 2 ^ 61 + h.count * 2 ^ 53 + h.index * 2 ^ 32 + h.res
    bcnGo x s = setBcnCtx x { c with sResult := BitVec.ofNat 64 n } (bcnSlot 1 (bcnTable s c.sTable).banks v) :=
  if_neg (by simp [ha])

section
variable (ha : b.active = true) (hi : c.uIndex < bcnEntries b)
include ha hi

theorem bcnWrite_of_fits (hf : bcnFits b c = true) : bcnWrite b c s = bcnDone 0 c (bcnPut b c.uIndex (ctxEntry c) s) := by
  simp [bcnWrite, ha, Nat.not_le.2 hi, hf]

theorem bcnInvalidate_of_active :
    bcnInvalidate b c s = bcnDone 0 c (bcnPut b c.uIndex { bcnGet s b c.uIndex with valid := false } s) := by
  simp [bcnInvalidate, ha, Nat.not_le.2 hi]

/-- READ ends with code 0, and returns whether the entry is valid and its result. -/
theorem bcnRead_of_active : (bcnRead b c s).code = 0 ∧ (bcnRead b c s).valid = (bcnGet s b c.uIndex).valid ∧
    (bcnRead b c s).ctx.uRes = BitVec.ofNat 32 (bcnGet s b c.uIndex).res := by
  simp [bcnRead, ha, Nat.not_le.2 hi]

/-- INSERT ends with code 0 where the table has a hole, and with code 3 where it has none (R458). -/
theorem bcnInsert_code (hf : bcnFits b c = true) : (bcnInsert t b c s).code = 0 ∨ (bcnInsert t b c s).code = 3 := by
  unfold bcnInsert
  simp only [ha, hf, Nat.not_le.2 hi, Bool.not_true, Bool.false_eq_true, if_false]
  split
  next => exact .inl (by split <;> rfl)
  next => exact .inl rfl
  next => exact .inl rfl
  next => exact .inr rfl

end

/-- APPEND stores the entry past the holes, and moves the append position past the next ones (R457). -/
theorem bcnAppend_of_room (ha : b.active = true) (hf : bcnFits b c = true) (hp : skipHoles (holeN b.hole) b.append < bcnEntries b) :
    let p := skipHoles (holeN b.hole) b.append
    let v := setBcnTable t { b with append := skipHoles (holeN b.hole) (p + 1) } (bcnPut b p (ctxEntry c) s)
    bcnAppend t b c s = { code := 0, index := p, valid := false, ctx := c, st := v } := by
  simp [bcnAppend, ha, hf, Nat.not_le.2 hp]

theorem bcnClear_of_active (ha : b.active = true) :
    bcnClear t b c s = bcnDone 0 c (setBcnTable t { b with append := 0 } (clearBanks b.banks s)) := by
  simp [bcnClear, ha]

/-! Commands of the PF on whole tables. -/

/-- CREATE takes banks that no other table owns. -/
theorem bcnCreate_of_free (ha : b.active = false) (hw : b.cfgWidth ≠ 0) (hh : b.cfgHole ≠ 3) (hb : b.cfgBanks ≠ 0)
    (ho : otherBanks s t &&& b.cfgBanks = 0) :
    let d := { b with active := true, banks := b.cfgBanks, width := b.cfgWidth, hole := b.cfgHole, append := 0 }
    bcnCreate true t b c s = bcnDone 0 c (setBcnTable t d (clearBanks b.cfgBanks s)) := by
  have hgood : ¬ (b.cfgWidth = 0 ∨ b.cfgHole = 3 ∨ b.cfgBanks = 0) := by
    rintro (hzero | hthree | hnone)
    · exact hw hzero
    · exact hh hthree
    · exact hb hnone
  have hfree : ¬ (b.active = true ∨ otherBanks s t &&& b.cfgBanks ≠ 0) := by
    rw [ha, ho]
    simp
  rw [bcnCreate, if_neg (by decide), if_neg hgood, if_neg hfree]

/-- GROW adds banks that no other table owns and that lie above the table's own, while no leg uses the table. -/
theorem bcnGrow_of_free (ha : b.active = true) (hb : b.cfgBanks ≠ 0) (hl : legsNaming s t = 0)
    (ho : otherBanks s t &&& (b.cfgBanks &&& ~~~b.banks) = 0)
    (habove : (bankList (b.cfgBanks &&& ~~~b.banks)).any (fun x => (bankList b.banks).any (fun y => decide (x < y))) = false) :
    bcnGrow true t b c s = bcnDone 0 c (setBcnTable t { b with banks := b.banks ||| (b.cfgBanks &&& ~~~b.banks) }
      (clearBanks (b.cfgBanks &&& ~~~b.banks) s)) := by
  have hfree : ¬ (otherBanks s t &&& (b.cfgBanks &&& ~~~b.banks) ≠ 0 ∨
      (bankList (b.cfgBanks &&& ~~~b.banks)).any (fun x => (bankList b.banks).any (fun y => decide (x < y))) = true) := by
    rw [ho, habove]
    simp
  rw [bcnGrow, if_neg (by decide), if_neg (by simp [ha]), if_neg hb, if_neg (not_not.2 hl), if_neg hfree]

theorem bcnDelete_of_unused (ha : b.active = true) (hl : legsNaming s t = 0) :
    bcnDelete true t b c s = bcnDone 0 c (setBcnTable t { b with active := false, banks := 0, append := 0 } (clearBanks b.banks s)) := by
  simp [bcnDelete, ha, hl]

end

/-! The rows. -/

section
variable {s : State} {r : Requester} {x : Nat}

/-- BCN_S_GO searches for the requester. -/
theorem execBcnSGo_of_open (h : UnitOpen s r 4 0x20 0 x) : execBcnSGo r s = .next (bcnGo x s) :=
  congrArg _ (unitWrite_of_open bcnGo h fun _ => rfl)

/-- BCN_U_CMD runs its command for the requester, and ends with its outcome in the requester's context. -/
theorem next_bcnUCmd_of_open {cmd : Nat} {o : BcnOut} (hcmd : cmd < 16) (h : UnitOpen s r 5 0x140 cmd x)
    (ho : bcnCommand x cmd s = bcnFinish x o) :
    (.next (unitWrite r 5 0x140 cmd (bcnCommand 0 cmd) s) : Host.Outcome State Fault Refusal) = .next (bcnFinish x o) :=
  congrArg _ ((unitWrite_of_open (fun x => bcnCommand x cmd) h fun key =>
    congrArg (bcnCommand (key + 1) · s) (Nat.mod_eq_of_lt hcmd)).trans ho)

/-- A scrub pass that finds no row decayed or dead repairs the rows that differ from their shadow (R462). -/
theorem execBeaconScrubPass_sound (s : State) :
    execBeaconScrubPass [] [] s = .next ((bcnDiffer s).dedup.foldl (fun s k => bcnRepair (k / 32768) (k % 32768) s) s) := by
  simp [execBeaconScrubPass]

end

/-- Settles O46: each command has its effect for the context of the PF or of the running task. -/
theorem beaconCommandsComplete : Obligations.BeaconCommandsComplete := by
  refine fun s r x => ⟨?search, fun ha hi => ⟨?write, ?invalidate, ?read, ?insert⟩, ?append, ?clear, ?tables, execBeaconScrubPass_sound s⟩
  case search => exact fun h ha => (execBcnSGo_of_open h).trans (congrArg _ (bcnGo_of_active ha))
  case write => exact fun h hf => next_bcnUCmd_of_open (by decide) h (congrArg (bcnFinish x) (bcnWrite_of_fits ha hi hf))
  case invalidate => exact fun h => next_bcnUCmd_of_open (by decide) h (congrArg (bcnFinish x) (bcnInvalidate_of_active ha hi))
  case read => exact fun h => ⟨next_bcnUCmd_of_open (by decide) h rfl, bcnRead_of_active ha hi⟩
  case insert => exact fun h hf => ⟨next_bcnUCmd_of_open (by decide) h rfl, bcnInsert_code ha hi hf⟩
  case append => exact fun h ha hf hp => next_bcnUCmd_of_open (by decide) h (congrArg (bcnFinish x) (bcnAppend_of_room ha hf hp))
  case clear => exact fun h ha => next_bcnUCmd_of_open (by decide) h (congrArg (bcnFinish x) (bcnClear_of_active ha))
  case tables =>
    rintro hpf rfl
    have hopen (cmd : Nat) : UnitOpen s .pf 5 0x140 cmd 0 := .inl ⟨rfl, hpf, rfl⟩
    exact ⟨fun ha hw hh hb ho => next_bcnUCmd_of_open (by decide) (hopen 8) (congrArg (bcnFinish 0) (bcnCreate_of_free ha hw hh hb ho)),
      fun ha hb hl ho habove => next_bcnUCmd_of_open (by decide) (hopen 9) (congrArg (bcnFinish 0) (bcnGrow_of_free ha hb hl ho habove)),
      fun ha hl => next_bcnUCmd_of_open (by decide) (hopen 10) (congrArg (bcnFinish 0) (bcnDelete_of_unused ha hl))⟩

end Sys2Proof.Machine
end

section
/-! SUPPORT. Decoding and encoding Yusil instructions (R350 to R356, R393 to R398): specifiers and opcodes, the words of three operands, the words
with fields of their own, the brief words, the bytes of an instruction in the code hold, and the statements about them. -/

namespace Sys2Proof.Machine

/-! Specifiers (R355, R356). -/

theorem Spec.bits7_lt {x : Spec} (h : x.fits7 = true) : x.bits7 < 128 := by
  cases x <;> simp only [Spec.fits7, decide_eq_true_eq] at h <;> simp only [Spec.bits7] <;> omega

/-- A specifier's bits name it. -/
theorem spec7_bits7 {x : Spec} (h : x.fits7 = true) : spec7 x.bits7 = x := by
  cases x with
  | reg n | ind n | post n | pre n | frame n | loop n | lit n | imm n =>
    have hn : n < 16 := of_decide_eq_true h
    interval_cases n <;> rfl

theorem bits7_spec7 : ∀ x < 128, (spec7 x).bits7 = x := by decide

theorem fits7_spec7 : ∀ x < 128, (spec7 x).fits7 = true := by decide

/-- The register mode is mode 0 (R355). -/
theorem isReg_spec7 : ∀ x < 128, isReg (spec7 x) = decide (x / 16 = 0) := by decide

theorem Spec.bits5_lt {x : Spec} (h : x.fits5 = true) : x.bits5 < 32 := by
  cases x <;> simp [Spec.fits5] at h <;> simp only [Spec.bits5] <;> omega

theorem bits5_spec5 : ∀ x < 32, (spec5 x).bits5 = x := by decide

theorem fits5_spec5 : ∀ x < 32, (spec5 x).fits5 = true := by decide

/-- A brief specifier's bits name it. -/
theorem spec5_bits5 {x : Spec} (h : x.fits5 = true) : spec5 x.bits5 = x := by
  cases x with
  | reg n | ind n | post n | frame n =>
    have hn : n < 8 := of_decide_eq_true h
    interval_cases n <;> rfl
  | pre n | loop n | lit n | imm n => cases h

/-! Opcodes: the tables of R397 and R398 read both ways. -/

theorem fullOpcode_of_fullRow {c : Nat} (hc : c < 128) {op : YOp} {e} (h : fullRow c = some (op, e)) : fullOpcode op = some c := by
  have hall : ∀ c < 128, ∀ r, fullRow c = some r → fullOpcode r.1 = some c := by decide
  exact hall c hc _ h

/-- An operation of the full form has its row. -/
theorem fullRow_of_fullOpcode {op : YOp} {c : Nat} (h : fullOpcode op = some c) : c < 128 ∧ ∃ e, fullRow c = some (op, e) := by
  cases op <;> cases h <;> exact ⟨by decide, _, rfl⟩


/-- The bits hi to lo of a number, as a remainder. -/
theorem bitsOf_lt (v hi lo : Nat) : bitsOf v hi lo < 2 ^ (hi + 1 - lo) := Nat.mod_lt _ (by positivity)

/-- A full form that lays out three operands: every one but those with fields of their own (R397). -/
def threeSlots : YOp → Bool
  | .br => false
  | .call => false
  | .loop => false
  | .setc => false
  | _ => true

/-- An operand that a row uses, read from its bits. -/
def slotOf (use : Bool) (x : Nat) : Option Spec := if use then some (spec7 x) else none

theorem slotOf_optBits {use : Bool} {o : Option Spec} {p : Spec → Bool} (hp : ∀ x, p x = true → x.fits7 = true) (h : specOk use p o = true) :
    optBits Spec.bits7 o < 128 ∧ slotOf use (optBits Spec.bits7 o) = o ∧ (use = false → optBits Spec.bits7 o = 0) := by
  cases o with
  | none => cases use <;> simp_all [specOk, optBits, slotOf]
  | some x =>
    obtain ⟨rfl, hx⟩ := (Bool.and_eq_true_iff).1 h
    exact ⟨Spec.bits7_lt (hp x hx), congrArg some (spec7_bits7 (hp x hx)), by simp⟩

theorem optBits_slotOf {use : Bool} {x : Nat} (hx : x < 128) (h : use = false → x = 0) :
    optBits Spec.bits7 (slotOf use x) = x ∧ specOk use Spec.fits7 (slotOf use x) = true := by
  cases use with
  | false => exact ⟨(h rfl).symm, rfl⟩
  | true => exact ⟨bits7_spec7 x hx, fits7_spec7 x hx⟩

/-- What a word of three operands reads as. -/
def slotsInstr (op : YOp) (use : Bool × Bool × Bool) (w : Nat) : YInstr :=
  { op := op, len := 4, brief := false, size := 2 ^ bitsOf w 22 21, dsize := if op = .sext ∨ op = .zext then 8 else 2 ^ bitsOf w 22 21,
    d := slotOf use.1 (bitsOf w 20 14), s1 := slotOf use.2.1 (bitsOf w 13 7), s2 := slotOf use.2.2 (bitsOf w 6 0),
    n := 0, cond := 0, disp := 0, mask := 0, level := 0, body := 0 }

/-- The operands of a word are those its row uses: the others are 0, the destination may be one, and CAS has none in a register (R397, R403). -/
def SlotsOk (op : YOp) (use : Bool × Bool × Bool) (w : Nat) : Prop :=
  (use.1 = false → bitsOf w 20 14 = 0) ∧ (use.2.1 = false → bitsOf w 13 7 = 0) ∧ (use.2.2 = false → bitsOf w 6 0 = 0) ∧
    (use.1 = true → specDest (spec7 (bitsOf w 20 14)) = true) ∧ (op = .cas → bitsOf w 20 18 ≠ 0)

section
variable {i : YInstr} {w : Nat} {op : YOp} {sizes : List Nat} {use : Bool × Bool × Bool}

theorem encodeFull_of_threeSlots (h : threeSlots i.op = true) :
    encodeFull i = 3 * 2 ^ 30 + (fullOpcode i.op).getD 0 * 2 ^ 23 +
      (sizeCode i.size * 2 ^ 21 + optBits Spec.bits7 i.d * 2 ^ 14 + optBits Spec.bits7 i.s1 * 2 ^ 7 + optBits Spec.bits7 i.s2) := by
  unfold encodeFull
  split
  case h_5 => rfl
  all_goals next hop => simp [hop, threeSlots] at h

theorem decodeFull_threeSlots (hrow : fullRow (bitsOf w 29 23) = some (op, sizes, use)) (h : threeSlots op = true) :
    decodeFull w = some i ↔ bitsOf w 22 21 ∈ sizes ∧ SlotsOk op use w ∧ slotsInstr op use w = i := by
  unfold decodeFull
  simp only [hrow]
  split
  next => simp_all
  next hsz =>
    split
    case h_5 =>
      obtain ⟨u1, u2, u3⟩ := use
      simp only [SlotsOk, slotsInstr, slotOf]
      split
      next hb => simp_all; grind
      next hb =>
        split
        next hd => simp_all
        next hd =>
          split
          next hc => simp_all
          next hc => cases u1 <;> cases u2 <;> cases u3 <;> simp_all
    all_goals cases h

/-- What a well-formed instruction of three operands is (R393, R397). -/
def SlotsWf (i : YInstr) (sizes : List Nat) (use : Bool × Bool × Bool) : Prop :=
  i.len = 4 ∧ i.brief = false ∧ i.size ∈ [1, 2, 4, 8] ∧ sizeCode i.size ∈ sizes ∧
    i.dsize = (if i.op = .sext ∨ i.op = .zext then 8 else i.size) ∧ specOk use.1 destOk i.d = true ∧ specOk use.2.1 Spec.fits7 i.s1 = true ∧
    specOk use.2.2 Spec.fits7 i.s2 = true ∧ ¬ (i.op = .cas ∧ i.d.any isReg = true) ∧ i.rest false false false false false false = true

theorem fullOk_of_threeSlots (h : threeSlots i.op = true) {c : Nat} (hc : fullOpcode i.op = some c) (hrow : fullRow c = some (i.op, sizes, use)) :
    i.fullOk = true ↔ SlotsWf i sizes use := by
  obtain ⟨u1, u2, u3⟩ := use
  unfold YInstr.fullOk
  split
  case h_5 =>
    simp only [hc, Option.bind_some, hrow, SlotsWf, Bool.and_eq_true, beq_iff_eq, Bool.not_eq_true', List.contains_iff_mem, and_assoc,
      Bool.and_eq_false_iff, decide_eq_false_iff_not, not_and, Bool.not_eq_true, imp_iff_not_or]
  all_goals next hop => simp [hop, threeSlots] at h

/-- The fields of a word that lays out three operands (R393). -/
theorem fields_of_slots {c z d a b : Nat} (hc : c < 128) (hz : z < 4) (hd : d < 128) (ha : a < 128) (hb : b < 128)
    (hw : w = 3 * 2 ^ 30 + c * 2 ^ 23 + (z * 2 ^ 21 + d * 2 ^ 14 + a * 2 ^ 7 + b)) :
    w / 2 ^ 30 = 3 ∧ bitsOf w 29 23 = c ∧ bitsOf w 22 21 = z ∧ bitsOf w 20 14 = d ∧ bitsOf w 13 7 = a ∧ bitsOf w 6 0 = b ∧
      bitsOf w 20 18 = d / 16 := by
  simp only [bitsOf, Nat.reduceAdd, Nat.reduceSub]
  omega

/-- What a word decodes to is an operation of its row. -/
theorem fullRow_of_decodeFull (h : decodeFull w = some i) : ∃ e, fullRow (bitsOf w 29 23) = some (i.op, e) := by
  unfold decodeFull at h
  dsimp only at h
  split at h
  next => cases h
  next op sizes useD use1 use2 hrow =>
    refine ⟨(sizes, useD, use1, use2), ?_⟩
    rw [hrow]
    split at h
    next => cases h
    next =>
      split at h <;> grind

theorem pow_sizeCode {n : Nat} (h : n ∈ [1, 2, 4, 8]) : 2 ^ sizeCode n = n ∧ sizeCode n < 4 := by
  have hall : ∀ n ∈ [1, 2, 4, 8], 2 ^ sizeCode n = n ∧ sizeCode n < 4 := by decide
  exact hall n h

theorem sizeCode_pow : ∀ z < 4, 2 ^ z ∈ [1, 2, 4, 8] ∧ sizeCode (2 ^ z) = z := by decide

theorem destOk_fits7 (x : Spec) (h : destOk x = true) : x.fits7 = true := ((Bool.and_eq_true_iff).1 h).1

theorem rest_eq_zero (h : i.rest false false false false false false = true) :
    i.n = 0 ∧ i.cond = 0 ∧ i.disp = 0 ∧ i.mask = 0 ∧ i.level = 0 ∧ i.body = 0 := by
  simpa [YInstr.rest, and_assoc] using h

/-- A word of three operands that decodes is the encoding of what it decodes to. -/
theorem encodeFull_of_decodeFull_threeSlots (h : threeSlots i.op = true) (hw : w / 2 ^ 30 = 3) (hd : decodeFull w = some i) :
    i.fullOk = true ∧ encodeFull i = w := by
  obtain ⟨⟨sizes, use⟩, hrow⟩ := fullRow_of_decodeFull hd
  have hopc := fullOpcode_of_fullRow (bitsOf_lt w 29 23) hrow
  obtain ⟨hsz, ⟨h1, h2, h3, hdst, hcas⟩, hi⟩ := (decodeFull_threeSlots hrow h).1 hd
  obtain ⟨hpow, hcode⟩ := sizeCode_pow _ (bitsOf_lt w 22 21)
  obtain ⟨hd7, hdok⟩ := optBits_slotOf (bitsOf_lt w 20 14) h1
  obtain ⟨ha7, haok⟩ := optBits_slotOf (bitsOf_lt w 13 7) h2
  obtain ⟨hb7, hbok⟩ := optBits_slotOf (bitsOf_lt w 6 0) h3
  rw [fullOk_of_threeSlots h hopc hrow, encodeFull_of_threeSlots h, hopc]
  generalize i.op = op at hi hcas
  subst hi
  refine ⟨⟨rfl, rfl, hpow, by simpa only [slotsInstr, hcode], rfl, ?_, haok, hbok, ?_, rfl⟩, ?_⟩
  · cases hu : use.1 with
    | false => simp [slotsInstr, slotOf, hu, specOk]
    | true => simp [slotsInstr, slotOf, hu, specOk, destOk, fits7_spec7 _ (bitsOf_lt w 20 14), hdst hu]
  · rintro ⟨hop, hreg⟩
    refine hcas hop ?_
    cases hu : use.1 with
    | false => simp [slotsInstr, slotOf, hu] at hreg
    | true =>
      simp [slotsInstr, slotOf, hu, isReg_spec7 _ (bitsOf_lt w 20 14)] at hreg
      simp only [bitsOf, Nat.reduceAdd, Nat.reduceSub] at hreg ⊢
      omega
  · simp only [slotsInstr, hd7, ha7, hb7, hcode, Option.getD_some]
    simp only [bitsOf, Nat.reduceAdd, Nat.reduceSub]
    omega

/-- A well-formed instruction of the full form has a full-form opcode. -/
theorem fullOpcode_of_fullOk (h : i.fullOk = true) : ∃ c, fullOpcode i.op = some c := by
  cases hc : fullOpcode i.op with
  | some c => exact ⟨c, rfl⟩
  | none =>
    unfold YInstr.fullOk at h
    split at h <;> simp_all [fullOpcode]

/-- A well-formed instruction of three operands decodes from its encoding. -/
theorem decodeFull_encodeFull_threeSlots (h : threeSlots i.op = true) (hok : i.fullOk = true) :
    encodeFull i / 2 ^ 30 = 3 ∧ decodeFull (encodeFull i) = some i := by
  obtain ⟨c, hopc⟩ := fullOpcode_of_fullOk hok
  obtain ⟨hc, ⟨sizes, use⟩, hrow⟩ := fullRow_of_fullOpcode hopc
  obtain ⟨hlen, hbrief, hsz, hcode, hdsz, hd, ha, hb, hcas, hrest⟩ := (fullOk_of_threeSlots h hopc hrow).1 hok
  obtain ⟨hpow, hlt⟩ := pow_sizeCode hsz
  obtain ⟨hdlt, hdslot, hdzero⟩ := slotOf_optBits destOk_fits7 hd
  obtain ⟨halt, haslot, hazero⟩ := slotOf_optBits (fun _ hx => hx) ha
  obtain ⟨hblt, hbslot, hbzero⟩ := slotOf_optBits (fun _ hx => hx) hb
  obtain ⟨hw, hfc, hfz, hfd, hfa, hfb, hfm⟩ := fields_of_slots hc hlt hdlt halt hblt
    ((encodeFull_of_threeSlots h).trans (by rw [hopc, Option.getD_some]))
  refine ⟨hw, (decodeFull_threeSlots (hfc.symm ▸ hrow) h).2 ⟨hfz.symm ▸ hcode, ?_, ?_⟩⟩
  · refine ⟨fun hu => hfd.trans (hdzero hu), fun hu => hfa.trans (hazero hu), fun hu => hfb.trans (hbzero hu), fun hu => ?_,
      fun hop hm => hcas ⟨hop, ?_⟩⟩
    · rw [hu, ← hdslot, hu, ← hfd] at hd
      simp only [slotOf, specOk, destOk, if_true, Bool.true_and, Bool.and_eq_true] at hd
      exact hd.2
    · have hu : use.1 = true := by
        rw [hop] at hopc hrow
        cases hopc
        cases hrow
        rfl
      rw [← hdslot, hu, slotOf, if_pos rfl, Option.any_some, isReg_spec7 _ hdlt]
      exact decide_eq_true (hfm.symm.trans hm)
  · obtain ⟨hn, hcond, hdisp, hmask, hlevel, hbody⟩ := rest_eq_zero hrest
    simp only [slotsInstr, hfz, hfd, hfa, hfb, hpow, hdslot, haslot, hbslot, ← hdsz]
    cases i
    simp_all

end

/-! The forms with fields of their own (R397). -/

/-- An instruction of four bytes with no operand and no field. -/
def bareInstr (op : YOp) (size : Nat) : YInstr :=
  { op := op, len := 4, brief := false, size := size, dsize := size, d := none, s1 := none, s2 := none,
    n := 0, cond := 0, disp := 0, mask := 0, level := 0, body := 0 }

/-- A BR, a CALL, a LOOP and a SET by their own fields. -/
def brInstr (cond disp : Nat) : YInstr := { bareInstr .br 1 with cond := cond, disp := disp }

def callInstr (mask : Nat) (x : Spec) : YInstr := { bareInstr .call 8 with mask := mask, s1 := some x }

def loopInstr (size level : Nat) (x : Spec) (body : Nat) : YInstr := { bareInstr .loop size with level := level, s1 := some x, body := body }

def setInstr (size : Nat) (x : Spec) (cond : Nat) : YInstr := { bareInstr .setc size with d := some x, cond := cond }

section
variable {i : YInstr} {w : Nat}

/-- The row of a word that decodes to an operation. -/
theorem opcode_of_decodeFull (h : decodeFull w = some i) {c : Nat} (hc : fullOpcode i.op = some c) : bitsOf w 29 23 = c := by
  obtain ⟨e, hrow⟩ := fullRow_of_decodeFull h
  exact Option.some.inj ((fullOpcode_of_fullRow (bitsOf_lt w 29 23) hrow).symm.trans hc)

theorem encodeFull_brInstr (c d : Nat) : encodeFull (brInstr c d) = 3 * 2 ^ 30 + 0x30 * 2 ^ 23 + (c * 2 ^ 17 + d) := rfl

theorem encodeFull_callInstr (m : Nat) (x : Spec) : encodeFull (callInstr m x) = 3 * 2 ^ 30 + 0x32 * 2 ^ 23 + (m * 2 ^ 5 + x.bits5) := rfl

theorem encodeFull_loopInstr (z l : Nat) (x : Spec) (b : Nat) :
    encodeFull (loopInstr z l x b) = 3 * 2 ^ 30 + 0x33 * 2 ^ 23 + (sizeCode z * 2 ^ 21 + l * 2 ^ 19 + x.bits7 * 2 ^ 12 + b) := rfl

theorem encodeFull_setInstr (z : Nat) (x : Spec) (c : Nat) :
    encodeFull (setInstr z x c) = 3 * 2 ^ 30 + 0x23 * 2 ^ 23 + (sizeCode z * 2 ^ 21 + x.bits7 * 2 ^ 14 + c) := rfl

/-! BR. -/

theorem decodeFull_br (hc : bitsOf w 29 23 = 0x30) :
    decodeFull w = some i ↔ bitsOf w 22 21 = 0 ∧ bitsOf w 20 17 ≠ 15 ∧ brInstr (bitsOf w 20 17) (bitsOf w 16 0) = i := by
  constructor
  · intro h
    simp [decodeFull, hc, fullRow] at h
    obtain ⟨hz, hcond, rfl⟩ := h
    exact ⟨hz, hcond, by rw [hz]; rfl⟩
  · rintro ⟨hz, hcond, rfl⟩
    simp [decodeFull, hc, fullRow, hz, hcond, brInstr, bareInstr]

theorem fullOk_br (hop : i.op = .br) : i.fullOk = true ↔ ∃ c d, c < 15 ∧ d < 2 ^ 17 ∧ brInstr c d = i := by
  constructor
  · intro h
    simp [YInstr.fullOk, hop, YInstr.rest] at h
    obtain ⟨⟨hlen, hbrief⟩, ⟨⟨⟨⟨⟨⟨hsize, hdsize⟩, hd⟩, hs1⟩, hs2⟩, hcond⟩, hdisp⟩, ⟨⟨hn, hmask⟩, hlevel⟩, hbody⟩ := h
    refine ⟨i.cond, i.disp, hcond, hdisp, ?_⟩
    cases i
    simp_all [brInstr, bareInstr]
  · rintro ⟨c, d, hc, hd, rfl⟩
    simp [YInstr.fullOk, brInstr, bareInstr, YInstr.rest, hc]
    exact decide_eq_true hd

/-- A word decodes to a BR exactly where it is the encoding of a well-formed one. -/
theorem decodeFull_br_iff (hop : i.op = .br) (hw : w / 2 ^ 30 = 3) : decodeFull w = some i ↔ i.fullOk = true ∧ encodeFull i = w := by
  rw [fullOk_br hop]
  constructor
  · intro h
    have hc := opcode_of_decodeFull h (c := 0x30) (by rw [hop]; rfl)
    obtain ⟨hz, hcond, rfl⟩ := (decodeFull_br hc).1 h
    have hlt := bitsOf_lt w 20 17
    refine ⟨⟨_, _, by omega, bitsOf_lt w 16 0, rfl⟩, ?_⟩
    rw [encodeFull_brInstr]
    simp only [bitsOf, Nat.reduceAdd, Nat.reduceSub] at *
    omega
  · rintro ⟨⟨c, d, hc, hd, rfl⟩, henc⟩
    rw [encodeFull_brInstr] at henc
    have hf : bitsOf w 29 23 = 0x30 ∧ bitsOf w 22 21 = 0 ∧ bitsOf w 20 17 = c ∧ bitsOf w 16 0 = d := by
      simp only [bitsOf, Nat.reduceAdd, Nat.reduceSub]
      omega
    obtain ⟨hopc, hz, rfl, rfl⟩ := hf
    exact (decodeFull_br hopc).2 ⟨hz, by omega, rfl⟩

/-! CALL. -/

theorem decodeFull_call (hc : bitsOf w 29 23 = 0x32) :
    decodeFull w = some i ↔ bitsOf w 22 21 = 0 ∧ bitOf w 20 = false ∧ callInstr (bitsOf w 20 5) (spec5 (w % 32)) = i := by
  constructor
  · intro h
    simp [decodeFull, hc, fullRow] at h
    obtain ⟨hz, hbit, rfl⟩ := h
    exact ⟨hz, hbit, rfl⟩
  · rintro ⟨hz, hbit, rfl⟩
    simp [decodeFull, hc, fullRow, hz, hbit, callInstr, bareInstr]

theorem fullOk_call (hop : i.op = .call) : i.fullOk = true ↔ ∃ m x, m < 2 ^ 15 ∧ x.fits5 = true ∧ callInstr m x = i := by
  constructor
  · intro h
    simp [YInstr.fullOk, hop, YInstr.rest] at h
    obtain ⟨⟨hlen, hbrief⟩, ⟨⟨⟨⟨⟨hsize, hdsize⟩, hd⟩, hs1⟩, hs2⟩, hmask⟩, ⟨⟨⟨hn, hcond⟩, hdisp⟩, hlevel⟩, hbody⟩ := h
    cases hx : i.s1 with
    | none => simp [hx, specOk] at hs1
    | some x =>
      refine ⟨i.mask, x, hmask, by simpa [hx, specOk] using hs1, ?_⟩
      cases i
      simp_all [callInstr, bareInstr]
  · rintro ⟨m, x, hm, hx, rfl⟩
    simp [YInstr.fullOk, callInstr, bareInstr, YInstr.rest, specOk, hx]
    exact decide_eq_true hm

/-- A word decodes to a CALL exactly where it is the encoding of a well-formed one. -/
theorem decodeFull_call_iff (hop : i.op = .call) (hw : w / 2 ^ 30 = 3) : decodeFull w = some i ↔ i.fullOk = true ∧ encodeFull i = w := by
  rw [fullOk_call hop]
  constructor
  · intro h
    have hc := opcode_of_decodeFull h (c := 0x32) (by rw [hop]; rfl)
    obtain ⟨hz, hbit, rfl⟩ := (decodeFull_call hc).1 h
    have hx : w % 32 < 32 := Nat.mod_lt _ (by decide)
    refine ⟨⟨_, _, ?_, fits5_spec5 _ hx, rfl⟩, ?_⟩
    · simp [bitsOf, bitOf] at *
      omega
    · rw [encodeFull_callInstr, bits5_spec5 _ hx]
      simp [bitsOf, bitOf] at *
      omega
  · rintro ⟨⟨m, x, hm, hx, rfl⟩, henc⟩
    rw [encodeFull_callInstr] at henc
    have hlt := Spec.bits5_lt hx
    have hf : bitsOf w 29 23 = 0x32 ∧ bitsOf w 22 21 = 0 ∧ bitsOf w 20 5 = m ∧ w % 32 = x.bits5 ∧ w / 2 ^ 20 % 2 = 0 := by
      simp only [bitsOf, Nat.reduceAdd, Nat.reduceSub]
      omega
    obtain ⟨hopc, hz, rfl, hx5, hbit⟩ := hf
    exact (decodeFull_call hopc).2 ⟨hz, by rw [bitOf, hbit]; rfl, by rw [hx5, spec5_bits5 hx]⟩

/-! LOOP. -/

theorem decodeFull_loop (hc : bitsOf w 29 23 = 0x33) :
    decodeFull w = some i ↔ bitsOf w 11 0 ≠ 0 ∧
      loopInstr (2 ^ bitsOf w 22 21) (bitsOf w 20 19) (spec7 (bitsOf w 18 12)) (bitsOf w 11 0) = i := by
  have hlt := bitsOf_lt w 22 21
  constructor
  · intro h
    simp [decodeFull, hc, fullRow] at h
    obtain ⟨-, hbody, rfl⟩ := h
    exact ⟨hbody, rfl⟩
  · rintro ⟨hbody, rfl⟩
    simp [decodeFull, hc, fullRow, hbody, loopInstr, bareInstr]
    omega

theorem fullOk_loop (hop : i.op = .loop) :
    i.fullOk = true ↔ ∃ z l x b, z ∈ [1, 2, 4, 8] ∧ l < 4 ∧ x.fits7 = true ∧ (0 < b ∧ b < 2 ^ 12) ∧ loopInstr z l x b = i := by
  constructor
  · intro h
    simp [YInstr.fullOk, hop, YInstr.rest] at h
    obtain ⟨⟨hlen, hbrief⟩, ⟨⟨⟨⟨⟨⟨hsize, hdsize⟩, hd⟩, hs1⟩, hs2⟩, hlevel⟩, hbody⟩, ⟨⟨hn, hcond⟩, hdisp⟩, hmask⟩ := h
    cases hx : i.s1 with
    | none => simp [hx, specOk] at hs1
    | some x =>
      refine ⟨i.size, i.level, x, i.body, by simpa using hsize, hlevel, by simpa [hx, specOk] using hs1, hbody, ?_⟩
      cases i
      simp_all [loopInstr, bareInstr]
  · rintro ⟨z, l, x, b, hz, hl, hx, hb, rfl⟩
    simp [YInstr.fullOk, loopInstr, bareInstr, YInstr.rest, specOk, hx]
    exact ⟨⟨by simpa using hz, decide_eq_true hl⟩, decide_eq_true hb⟩

/-- A word decodes to a LOOP exactly where it is the encoding of a well-formed one. -/
theorem decodeFull_loop_iff (hop : i.op = .loop) (hw : w / 2 ^ 30 = 3) : decodeFull w = some i ↔ i.fullOk = true ∧ encodeFull i = w := by
  rw [fullOk_loop hop]
  constructor
  · intro h
    have hc := opcode_of_decodeFull h (c := 0x33) (by rw [hop]; rfl)
    obtain ⟨hbody, rfl⟩ := (decodeFull_loop hc).1 h
    obtain ⟨hpow, hcode⟩ := sizeCode_pow _ (bitsOf_lt w 22 21)
    refine ⟨⟨_, _, _, _, hpow, bitsOf_lt w 20 19, fits7_spec7 _ (bitsOf_lt w 18 12), ⟨by omega, bitsOf_lt w 11 0⟩, rfl⟩, ?_⟩
    rw [encodeFull_loopInstr, hcode, bits7_spec7 _ (bitsOf_lt w 18 12)]
    simp only [bitsOf, Nat.reduceAdd, Nat.reduceSub] at *
    omega
  · rintro ⟨⟨z, l, x, b, hz, hl, hx, hb, rfl⟩, henc⟩
    rw [encodeFull_loopInstr] at henc
    have hlt := Spec.bits7_lt hx
    obtain ⟨hpow, hcode⟩ := pow_sizeCode hz
    have hf : bitsOf w 29 23 = 0x33 ∧ bitsOf w 22 21 = sizeCode z ∧ bitsOf w 20 19 = l ∧ bitsOf w 18 12 = x.bits7 ∧ bitsOf w 11 0 = b := by
      simp only [bitsOf, Nat.reduceAdd, Nat.reduceSub]
      omega
    obtain ⟨hopc, hsz, rfl, hx7, rfl⟩ := hf
    exact (decodeFull_loop hopc).2 ⟨by omega, by rw [hsz, hpow, hx7, spec7_bits7 hx]⟩

/-! SET. -/

theorem decodeFull_set (hc : bitsOf w 29 23 = 0x23) :
    decodeFull w = some i ↔ bitsOf w 13 4 = 0 ∧ w % 16 ≠ 15 ∧ specDest (spec7 (bitsOf w 20 14)) = true ∧
      setInstr (2 ^ bitsOf w 22 21) (spec7 (bitsOf w 20 14)) (w % 16) = i := by
  have hlt := bitsOf_lt w 22 21
  constructor
  · intro h
    simp [decodeFull, hc, fullRow] at h
    obtain ⟨-, ⟨hgap, hcond, hdest⟩, rfl⟩ := h
    exact ⟨hgap, hcond, hdest, rfl⟩
  · rintro ⟨hgap, hcond, hdest, rfl⟩
    simp [decodeFull, hc, fullRow, hgap, hcond, hdest, setInstr, bareInstr]
    omega

theorem fullOk_set (hop : i.op = .setc) :
    i.fullOk = true ↔ ∃ z x c, z ∈ [1, 2, 4, 8] ∧ destOk x = true ∧ c < 15 ∧ setInstr z x c = i := by
  constructor
  · intro h
    simp [YInstr.fullOk, hop, YInstr.rest] at h
    obtain ⟨⟨hlen, hbrief⟩, ⟨⟨⟨⟨⟨hsize, hdsize⟩, hd⟩, hs1⟩, hs2⟩, hcond⟩, ⟨⟨⟨hn, hdisp⟩, hmask⟩, hlevel⟩, hbody⟩ := h
    cases hx : i.d with
    | none => simp [hx, specOk] at hd
    | some x =>
      refine ⟨i.size, x, i.cond, by simpa using hsize, by simpa [hx, specOk] using hd, hcond, ?_⟩
      cases i
      simp_all [setInstr, bareInstr]
  · rintro ⟨z, x, c, hz, hx, hc, rfl⟩
    simp [YInstr.fullOk, setInstr, bareInstr, YInstr.rest, specOk, hx, hc]
    simpa using hz

/-- A word decodes to a SET exactly where it is the encoding of a well-formed one. -/
theorem decodeFull_set_iff (hop : i.op = .setc) (hw : w / 2 ^ 30 = 3) : decodeFull w = some i ↔ i.fullOk = true ∧ encodeFull i = w := by
  rw [fullOk_set hop]
  constructor
  · intro h
    have hc := opcode_of_decodeFull h (c := 0x23) (by rw [hop]; rfl)
    obtain ⟨hgap, hcond, hdest, rfl⟩ := (decodeFull_set hc).1 h
    obtain ⟨hpow, hcode⟩ := sizeCode_pow _ (bitsOf_lt w 22 21)
    have hfits := fits7_spec7 _ (bitsOf_lt w 20 14)
    refine ⟨⟨_, _, _, hpow, by rw [destOk, hfits, hdest]; rfl, by omega, rfl⟩, ?_⟩
    rw [encodeFull_setInstr, hcode, bits7_spec7 _ (bitsOf_lt w 20 14)]
    simp only [bitsOf, Nat.reduceAdd, Nat.reduceSub] at *
    omega
  · rintro ⟨⟨z, x, c, hz, hx, hcond, rfl⟩, henc⟩
    rw [encodeFull_setInstr] at henc
    obtain ⟨hfits, hdest⟩ := Bool.and_eq_true_iff.1 hx
    have hlt := Spec.bits7_lt hfits
    obtain ⟨hpow, hcode⟩ := pow_sizeCode hz
    have hf : bitsOf w 29 23 = 0x23 ∧ bitsOf w 22 21 = sizeCode z ∧ bitsOf w 20 14 = x.bits7 ∧ bitsOf w 13 4 = 0 ∧ w % 16 = c := by
      simp only [bitsOf, Nat.reduceAdd, Nat.reduceSub]
      omega
    obtain ⟨hopc, hsz, hx7, hgap, rfl⟩ := hf
    have hspec : spec7 (bitsOf w 20 14) = x := by rw [hx7, spec7_bits7 hfits]
    exact (decodeFull_set hopc).2 ⟨hgap, by omega, hspec ▸ hdest, by rw [hsz, hpow, hspec]⟩

theorem eq_of_not_threeSlots {op : YOp} (h : threeSlots op = false) : op = .br ∨ op = .call ∨ op = .loop ∨ op = .setc := by
  revert h
  cases op <;> decide

/-- The two uppermost bits of a full form are 11 (R352). -/
theorem encodeFull_div (hok : i.fullOk = true) : encodeFull i / 2 ^ 30 = 3 := by
  cases h : threeSlots i.op with
  | true => exact (decodeFull_encodeFull_threeSlots h hok).1
  | false =>
    obtain hop | hop | hop | hop := eq_of_not_threeSlots h
    · obtain ⟨c, d, hc, hd, rfl⟩ := (fullOk_br hop).1 hok
      rw [encodeFull_brInstr]
      omega
    · obtain ⟨m, x, hm, hx, rfl⟩ := (fullOk_call hop).1 hok
      have hlt := Spec.bits5_lt hx
      rw [encodeFull_callInstr]
      omega
    · obtain ⟨z, l, x, b, hz, hl, hx, hb, rfl⟩ := (fullOk_loop hop).1 hok
      have hlt := Spec.bits7_lt hx
      have hcode := (pow_sizeCode hz).2
      rw [encodeFull_loopInstr]
      omega
    · obtain ⟨z, x, c, hz, hx, hc, rfl⟩ := (fullOk_set hop).1 hok
      have hlt := Spec.bits7_lt (destOk_fits7 x hx)
      have hcode := (pow_sizeCode hz).2
      rw [encodeFull_setInstr]
      omega

/-- A word of the full form decodes to the instruction whose encoding it is, and to no other (R393 to R397). -/
theorem decodeFull_iff (hw : w / 2 ^ 30 = 3) : decodeFull w = some i ↔ i.fullOk = true ∧ encodeFull i = w := by
  cases h : threeSlots i.op with
  | true =>
    refine ⟨encodeFull_of_decodeFull_threeSlots h hw, ?_⟩
    rintro ⟨hok, rfl⟩
    exact (decodeFull_encodeFull_threeSlots h hok).2
  | false =>
    obtain hop | hop | hop | hop := eq_of_not_threeSlots h
    · exact decodeFull_br_iff hop hw
    · exact decodeFull_call_iff hop hw
    · exact decodeFull_loop_iff hop hw
    · exact decodeFull_set_iff hop hw

end

/-! The brief form (R353, R398). -/

theorem briefOpcode_of_briefRow {c : Nat} (hc : c < 64) {op : YOp} {sz : Nat} {e} (h : briefRow c = some (op, sz, e)) :
    briefOpcode op sz = some c := by
  have hall : ∀ c < 64, ∀ r, briefRow c = some r → briefOpcode r.1 r.2.1 = some c := by decide
  exact hall c hc _ h

/-- An operation of the brief form has its row. -/
theorem briefRow_of_briefOpcode {op : YOp} {sz c : Nat} (h : briefOpcode op sz = some c) : c < 48 ∧ ∃ e, briefRow c = some (op, e) := by
  cases op <;> simp only [briefOpcode, Option.some.injEq, reduceCtorEq] at h <;> (repeat' split at h) <;> subst h <;> exact ⟨by decide, _, rfl⟩

/-- The row uses its destination field, its source field as a specifier, its source field as the number n (R398). -/
def BriefKind.usesD : BriefKind → Bool
  | .none => false
  | _ => true

def BriefKind.usesS : BriefKind → Bool
  | .two => true
  | .move => true
  | _ => false

def BriefKind.usesN : BriefKind → Bool
  | .imm => true
  | _ => false

/-- A brief operand that a row uses, read from its bits. -/
def briefSlot (use : Bool) (x : Nat) : Option Spec := if use then some (spec5 x) else none

/-- What a brief word of a row reads as. -/
def briefInstr (op : YOp) (sz dsz : Nat) (k : BriefKind) (df sf : Nat) : YInstr :=
  { op := op, len := 2, brief := true, size := sz, dsize := dsz, d := briefSlot k.usesD df, s1 := briefSlot k.usesS sf, s2 := none,
    n := if k.usesN then sf else 0, cond := 0, disp := 0, mask := 0, level := 0, body := 0 }

section
variable {i : YInstr} {h : Nat} {op : YOp} {sz dsz : Nat} {k : BriefKind}

theorem decodeBrief_of_row (hrow : briefRow (bitsOf h 15 10) = some (op, sz, dsz, k)) :
    decodeBrief h = some i ↔ (k.usesD = false → bitsOf h 9 5 = 0) ∧ (k.usesS = false → k.usesN = false → h % 32 = 0) ∧
      briefInstr op sz dsz k (bitsOf h 9 5) (h % 32) = i := by
  have hfields : h % 1024 = 0 ↔ bitsOf h 9 5 = 0 ∧ h % 32 = 0 := by
    simp only [bitsOf, Nat.reduceAdd, Nat.reduceSub]
    omega
  cases k <;> simp [decodeBrief, hrow, BriefKind.usesD, BriefKind.usesS, BriefKind.usesN, briefInstr, briefSlot, hfields, and_assoc]

/-- What a well-formed brief instruction of a row is (R398). -/
def BriefWf (i : YInstr) (sz dsz : Nat) (k : BriefKind) : Prop :=
  i.len = 2 ∧ i.brief = true ∧ i.s2 = none ∧ i.size = sz ∧ i.dsize = dsz ∧ specOk k.usesD Spec.fits5 i.d = true ∧
    specOk k.usesS Spec.fits5 i.s1 = true ∧ (if k.usesN then i.n < 32 else i.n = 0) ∧ i.cond = 0 ∧ i.disp = 0 ∧ i.mask = 0 ∧ i.level = 0 ∧ i.body = 0

theorem specOk_false (p : Spec → Bool) (o : Option Spec) : specOk false p o = o.isNone := by cases o <;> rfl

theorem briefOk_of_row {c : Nat} (hc : briefOpcode i.op i.size = some c) (hrow : briefRow c = some (i.op, sz, dsz, k)) :
    i.briefOk = true ↔ BriefWf i sz dsz k := by
  cases k <;> simp [YInstr.briefOk, YInstr.rest, BriefWf, hc, hrow, BriefKind.usesD, BriefKind.usesS, BriefKind.usesN, specOk_false, and_assoc]

theorem briefSlot_optBits {use : Bool} {o : Option Spec} (h : specOk use Spec.fits5 o = true) :
    optBits Spec.bits5 o < 32 ∧ briefSlot use (optBits Spec.bits5 o) = o ∧ (use = false → optBits Spec.bits5 o = 0) := by
  cases o with
  | none => cases use <;> simp_all [specOk, optBits, briefSlot]
  | some x =>
    obtain ⟨rfl, hx⟩ := (Bool.and_eq_true_iff).1 h
    exact ⟨Spec.bits5_lt hx, congrArg some (spec5_bits5 hx), by simp⟩

theorem optBits_briefSlot {use : Bool} {x : Nat} (hx : x < 32) :
    optBits Spec.bits5 (briefSlot use x) = (if use then x else 0) ∧ specOk use Spec.fits5 (briefSlot use x) = true := by
  cases use with
  | false => exact ⟨rfl, rfl⟩
  | true => exact ⟨bits5_spec5 x hx, fits5_spec5 x hx⟩

/-- A row that has a source operand has no number n (R398). -/
theorem BriefKind.usesN_of_usesS {k : BriefKind} (h : k.usesS = true) : k.usesN = false := by
  revert h
  cases k <;> decide

/-- The source field of a well-formed brief instruction holds its operand, or its number. -/
theorem briefSource (hs : specOk k.usesS Spec.fits5 i.s1 = true) (hn : if k.usesN then i.n < 32 else i.n = 0) :
    optBits Spec.bits5 i.s1 + i.n < 32 ∧ briefSlot k.usesS (optBits Spec.bits5 i.s1 + i.n) = i.s1 ∧
      (if k.usesN then optBits Spec.bits5 i.s1 + i.n else 0) = i.n ∧
      (k.usesS = false → k.usesN = false → optBits Spec.bits5 i.s1 + i.n = 0) := by
  obtain ⟨hlt, hslot, hzero⟩ := briefSlot_optBits hs
  cases hS : k.usesS with
  | true =>
    rw [hS] at hslot
    rw [BriefKind.usesN_of_usesS hS] at hn ⊢
    rw [if_neg (by decide)] at hn
    simp [hn, hlt, hslot]
  | false =>
    have h0 := hzero hS
    have hs1 : i.s1 = none := by simpa [hS, specOk_false] using hs
    cases hN : k.usesN <;> simp_all [optBits, briefSlot]

/-- A brief word that decodes is the encoding of what it decodes to. -/
theorem encodeBrief_of_decodeBrief (hh : h < 2 ^ 16) (hd : decodeBrief h = some i) : i.briefOk = true ∧ encodeBrief i = h := by
  cases hrow : briefRow (bitsOf h 15 10) with
  | none => simp [decodeBrief, hrow] at hd
  | some e =>
    obtain ⟨op, sz, dsz, k⟩ := e
    have hopc := briefOpcode_of_briefRow (bitsOf_lt h 15 10) hrow
    obtain ⟨hdz, hsz, rfl⟩ := (decodeBrief_of_row hrow).1 hd
    have hsf : h % 32 < 32 := Nat.mod_lt _ (by decide)
    obtain ⟨hdv, hdok⟩ := optBits_briefSlot (use := k.usesD) (bitsOf_lt h 9 5)
    obtain ⟨hsv, hsok⟩ := optBits_briefSlot (use := k.usesS) hsf
    refine ⟨(briefOk_of_row (i := briefInstr op sz dsz k (bitsOf h 9 5) (h % 32)) hopc hrow).2
      ⟨rfl, rfl, rfl, rfl, rfl, hdok, hsok, ?_, rfl, rfl, rfl, rfl, rfl⟩, ?_⟩
    · cases hN : k.usesN <;> simp [briefInstr, hN, hsf]
    · have hD : optBits Spec.bits5 (briefSlot k.usesD (bitsOf h 9 5)) = bitsOf h 9 5 := by
        rw [hdv]
        split
        next => rfl
        next hu => exact (hdz (by simpa using hu)).symm
      have hS : optBits Spec.bits5 (briefSlot k.usesS (h % 32)) + (if k.usesN then h % 32 else 0) = h % 32 := by
        rw [hsv]
        cases hu : k.usesS with
        | true => simp [BriefKind.usesN_of_usesS hu]
        | false => cases hN : k.usesN <;> simp [hsz, hu, hN]
      simp only [encodeBrief, briefInstr, hopc, Option.getD_some, hD, Nat.add_assoc, hS]
      simp only [bitsOf, Nat.reduceAdd, Nat.reduceSub]
      omega

/-- A well-formed brief instruction has a brief opcode. -/
theorem briefOpcode_of_briefOk (h : i.briefOk = true) : ∃ c, briefOpcode i.op i.size = some c := by
  cases hc : briefOpcode i.op i.size with
  | some c => exact ⟨c, rfl⟩
  | none => simp [YInstr.briefOk, hc] at h

/-- A well-formed brief instruction decodes from its encoding. -/
theorem decodeBrief_encodeBrief (hok : i.briefOk = true) :
    encodeBrief i < 48 * 2 ^ 10 ∧ decodeBrief (encodeBrief i) = some i := by
  obtain ⟨c, hopc⟩ := briefOpcode_of_briefOk hok
  obtain ⟨hc, ⟨sz, dsz, k⟩, hrow⟩ := briefRow_of_briefOpcode hopc
  obtain ⟨hlen, hbrief, hs2, hsize, hdsize, hd, hs, hn, hcond, hdisp, hmask, hlevel, hbody⟩ := (briefOk_of_row hopc hrow).1 hok
  obtain ⟨hDlt, hDslot, hDzero⟩ := briefSlot_optBits hd
  obtain ⟨hSlt, hSslot, hSn, hSzero⟩ := briefSource hs hn
  have henc : encodeBrief i = c * 2 ^ 10 + optBits Spec.bits5 i.d * 2 ^ 5 + (optBits Spec.bits5 i.s1 + i.n) := by
    rw [encodeBrief, hopc, Option.getD_some, Nat.add_assoc _ _ i.n]
  have hf : bitsOf (encodeBrief i) 15 10 = c ∧ bitsOf (encodeBrief i) 9 5 = optBits Spec.bits5 i.d ∧
      encodeBrief i % 32 = optBits Spec.bits5 i.s1 + i.n := by
    rw [henc]
    simp only [bitsOf, Nat.reduceAdd, Nat.reduceSub]
    omega
  obtain ⟨hfc, hfd, hfs⟩ := hf
  refine ⟨by omega, (decodeBrief_of_row (by rw [hfc]; exact hrow)).2 ⟨fun hu => hfd.trans (hDzero hu), fun hu hu' => hfs.trans (hSzero hu hu'), ?_⟩⟩
  rw [hfd, hfs, briefInstr, hDslot, hSslot, hSn]
  cases i
  simp_all

end

/-- Settles O6: in each form a word decodes to an instruction exactly when the instruction is well-formed and the word encodes it. -/
theorem yusilDecodeOfEncode : Obligations.YusilDecodeOfEncode := by
  refine ⟨fun i hok => ⟨encodeFull_div hok, (decodeFull_iff (encodeFull_div hok)).2 ⟨hok, rfl⟩⟩, fun i hok => ?_,
    fun w i hw => (decodeFull_iff hw).1, fun h i hh => encodeBrief_of_decodeBrief hh⟩
  obtain ⟨hlt, hdec⟩ := decodeBrief_encodeBrief hok
  exact ⟨by omega, hdec⟩

/-! The bytes of an instruction in the code hold (R350, R351). -/

theorem readBytes_add (m : Memory) (a n k : Nat) : Memory.readBytes m a (n + k) = Memory.readBytes m a n ++ Memory.readBytes m (a + n) k := by
  induction n generalizing a with
  | zero => simp [Memory.readBytes]
  | succ n ih => simp [Nat.succ_add, Memory.readBytes, ih, Nat.add_assoc]

theorem length_readBytes (m : Memory) (a n : Nat) : (Memory.readBytes m a n).length = n := by
  induction n generalizing a with
  | zero => rfl
  | succ n ih => simp [Memory.readBytes, ih]

/-- A number is read back from its bytes. -/
theorem leNat_leBytes (n v : Nat) : leNat (leBytes n v) = v % 256 ^ n := by
  induction n generalizing v with
  | zero => simp [leBytes, leNat, Nat.mod_one]
  | succ n ih =>
    rw [leBytes, leNat, ih, BitVec.toNat_ofNat, pow_succ' 256 n]
    exact Nat.mod_mul.symm

theorem codeHalf_of_bytes {code : Memory} {pc v : Nat} (hv : v < 2 ^ 16) (h : Memory.readBytes code (pc - 0x10000) 2 = leBytes 2 v) :
    codeHalf code pc = v := by
  rw [codeHalf, h, leNat_leBytes]
  exact Nat.mod_eq_of_lt hv

theorem len_of_fullOk {i : YInstr} (h : i.fullOk = true) : i.len = 4 := by
  simp only [YInstr.fullOk, Bool.and_eq_true, beq_iff_eq] at h
  exact h.1.1

theorem len_of_briefOk {i : YInstr} (h : i.briefOk = true) : i.len = 2 := by
  simp only [YInstr.briefOk, Bool.and_eq_true, beq_iff_eq] at h
  exact h.1.1.1

section
variable {code : Memory} {pc : Nat} {i : YInstr}

/-- The two halfwords of a full form within the code hold, the first one uppermost (R351, R352). -/
theorem fetchDecode_full (hlo : 0x10000 ≤ pc) (hhi : pc + 4 ≤ 0x20000) (heven : pc % 2 = 0) {w : Nat} (hw : w / 2 ^ 30 = 3)
    (h : Memory.readBytes code (pc - 0x10000) 4 = leBytes 2 (w / 2 ^ 16) ++ leBytes 2 (w % 2 ^ 16)) (hd : decodeFull w = some i) :
    fetchDecode code pc = .ok i := by
  rw [readBytes_add code _ 2 2] at h
  obtain ⟨h1, h2⟩ := List.append_inj h (by rw [length_readBytes, length_leBytes])
  have hhigh : codeHalf code pc = w / 2 ^ 16 := codeHalf_of_bytes (by omega) h1
  have hlow : codeHalf code (pc + 2) = w % 2 ^ 16 :=
    codeHalf_of_bytes (by omega) (by rw [show pc + 2 - 0x10000 = pc - 0x10000 + 2 by omega]; exact h2)
  have hjoin : w / 2 ^ 16 * 2 ^ 16 + w % 2 ^ 16 = w := by omega
  unfold fetchDecode
  rw [if_neg (by omega)]
  dsimp only
  rw [hhigh, hlow, hjoin, if_pos (by omega), if_neg (by omega), hd]

theorem fetchDecode_brief (hlo : 0x10000 ≤ pc) (hhi : pc + 2 ≤ 0x20000) (heven : pc % 2 = 0) {h : Nat} (hh : h < 48 * 2 ^ 10)
    (hb : Memory.readBytes code (pc - 0x10000) 2 = leBytes 2 h) (hd : decodeBrief h = some i) : fetchDecode code pc = .ok i := by
  unfold fetchDecode
  rw [if_neg (by omega)]
  dsimp only
  rw [codeHalf_of_bytes (by omega) hb, if_neg (by omega), hd]

end

/-- Settles O7: the halfwords are read back from their bytes, and decode to the instruction they encode. -/
theorem yusilFetchOfEncode : Obligations.YusilFetchOfEncode := by
  intro code pc i hok hlo hhi heven hbytes
  cases hb : i.brief with
  | true =>
    rw [hb, if_pos rfl] at hok
    rw [encodeYusil, if_pos hb, len_of_briefOk hok] at hbytes
    rw [len_of_briefOk hok] at hhi
    obtain ⟨hlt, hd⟩ := decodeBrief_encodeBrief hok
    exact fetchDecode_brief hlo hhi heven hlt hbytes hd
  | false =>
    rw [hb, if_neg (by decide)] at hok
    rw [encodeYusil, if_neg (by simp [hb]), len_of_fullOk hok] at hbytes
    rw [len_of_fullOk hok] at hhi
    have hw := encodeFull_div hok
    exact fetchDecode_full hlo hhi heven hw hbytes ((decodeFull_iff hw).2 ⟨hok, rfl⟩)

end Sys2Proof.Machine
end

section
/-! SUPPORT. Running Yusil instructions (R357 to R373, R379, R386 to R388, R394 to R411): what an instruction whose operands resolve with no fault
comes to, what completing it writes, and the statements about operations, divisions, CAS, transfers, frames, loops and tasks. -/

namespace Sys2Proof.Machine

/-! An instruction whose operands resolve (R359 to R361, R379). -/

theorem bitOf_eq_testBit (v i : Nat) : bitOf v i = v.testBit i := by
  rw [bitOf, Nat.testBit_eq_decide_div_mod_eq, Bool.beq_eq_decide_eq]

section
variable {k key : Nat} {miss : Bool} {s s2 : State} {t : Task} {i : YInstr} {r : YRegs} {a b : Nat} {la lb ld : Option Loc}

section
variable {op : YOp} {use : YInstr → DestUse} {f : State → Nat → Task → YInstr → YRegs → Nat → Nat → Option Loc → YOut}

/-- An instruction is carried out where its outcome's own reads meet no poisoned line either. -/
theorem yRun_of_clean (ho : i.op = op) (h : YReads s k key t i (use i) r a b la lb ld s2) {o : YOut} (hf : f s2 key t i r a b ld = o)
    (hclean : (outReads o).any (fun x => readPoisoned s x 1) = false) :
    yRun op use f k miss s = finishOut k key t i ld (operandAccesses la lb ld (use i) i.brief) miss s o := by
  obtain ⟨hat, hop, hread, hgood⟩ := h
  rw [yRun_of_reads ho ⟨hat, hop, hread, hgood⟩, hf, finish_of_clean]
  rw [List.any_append, hgood, hclean]
  rfl

/-- An instruction whose outcome reads nothing beside its operands is carried out. -/
theorem yRun_of_outcome (ho : i.op = op) (h : YReads s k key t i (use i) r a b la lb ld s2) {o : YOut} (hf : f s2 key t i r a b ld = o)
    (hn : outReads o = []) :
    yRun op use f k miss s = finishOut k key t i ld (operandAccesses la lb ld (use i) i.brief) miss s o :=
  yRun_of_clean ho h hf (by rw [hn]; rfl)

section
variable (ho : i.op = op) (h : YReads s k key t i (use i) r a b la lb ld s2) {u : State} {x : YRegs} {n : Nat}
include ho h

theorem yRun_of_done {v : Option Nat} (hf : f s2 key t i r a b ld = .done u x v n false) :
    yRun op use f k miss s = complete k key t i ld (operandAccesses la lb ld (use i) i.brief) miss u x v n false :=
  yRun_of_outcome ho h hf rfl

theorem yRun_of_retire (hf : f s2 key t i r a b ld = .done u x none n false) :
    yRun op use f k miss s = retires k key t i (operandAccesses la lb ld (use i) i.brief) miss x n u :=
  yRun_of_outcome ho h hf rfl

theorem yRun_of_transfer (hf : f s2 key t i r a b ld = .done u x none n true) :
    yRun op use f k miss s = transfers k key t i (operandAccesses la lb ld (use i) i.brief) miss x n u :=
  yRun_of_outcome ho h hf rfl

theorem yRun_of_fault {c : Nat} (hf : f s2 key t i r a b ld = .fault c) :
    yRun op use f k miss s =
      stopTask key t c t.regs.pc.toNat (denyKindOf (operandAccesses la lb ld (use i) i.brief) false) s :=
  yRun_of_outcome ho h hf rfl

end

end

/-! Operations of two sources and divisions (R397, R399, R400). -/

theorem yBin_of_reads {op : YOp} {g : Nat → Nat → Nat → YFlags → YResult} (ho : i.op = op)
    (h : YReads s k key t i { rd := i.brief, wr := true } r a b la lb ld s2) :
    yBin op g k miss s = complete k key t i ld (operandAccesses la lb ld { rd := i.brief, wr := true } i.brief) miss s2
      (withFlags r (g (8 * i.size) a b (flagsOf r)).f) (some (g (8 * i.size) a b (flagsOf r)).r) (YNext t i) false :=
  yRun_of_done (use := fun i => { rd := i.brief, wr := true }) ho h rfl

theorem yDiv_of_some {op : YOp} {g : Nat → Nat → Nat → Option YResult} {o : YResult} (ho : i.op = op)
    (h : YReads s k key t i { rd := i.brief, wr := true } r a b la lb ld s2) (hg : g (8 * i.size) a b = some o) :
    yDiv op g k miss s = complete k key t i ld (operandAccesses la lb ld { rd := i.brief, wr := true } i.brief) miss s2
      (withFlags r o.f) (some o.r) (YNext t i) false :=
  yRun_of_done (use := fun i => { rd := i.brief, wr := true }) ho h (by simp only [hg]; rfl)

/-- A division without a result stops the task on ARITH (R379, R400). -/
theorem yDiv_of_none {op : YOp} {g : Nat → Nat → Nat → Option YResult} (ho : i.op = op)
    (h : YReads s k key t i { rd := i.brief, wr := true } r a b la lb ld s2) (hg : g (8 * i.size) a b = none) :
    yDiv op g k miss s = stopTask key t 0x0D t.regs.pc.toNat
      (denyKindOf (operandAccesses la lb ld { rd := i.brief, wr := true } i.brief) false) s :=
  yRun_of_fault (use := fun i => { rd := i.brief, wr := true }) ho h (by simp only [hg])

end

/-- Settles O9: each of these rows runs its operation on two sources. -/
theorem twoSourceOperationsComplete : Obligations.TwoSourceOperationsComplete := by
  intro e he core miss s s2 key t i r a b la lb ld ho h
  have hexec : exec (e.1 core miss) s = .next (yBin e.2.1 e.2.2 core miss s) := by
    fin_cases he <;> rfl
  exact hexec.trans (congrArg _ (yBin_of_reads ho h))

/-- Settles O11: a division has a result exactly where its divisor is not 0. -/
theorem divisionsCompleteOrFault : Obligations.DivisionsCompleteOrFault := by
  intro e he core miss s s2 key t i r a b la lb ld ho h
  have hexec : exec (e.1 core miss) s = .next (yDiv e.2.1 e.2.2 core miss s) := by
    fin_cases he <;> rfl
  have hsome (hb : b ≠ 0) : ∃ o, e.2.2 (8 * i.size) a b = some o := by
    fin_cases he <;> exact ⟨_, if_neg hb⟩
  have hnone : e.2.2 (8 * i.size) a 0 = none := by
    fin_cases he <;> rfl
  rw [hexec]
  refine ⟨fun hb => ?_, fun hb => ?_⟩
  · obtain ⟨o, ho'⟩ := hsome hb
    exact ⟨o, ho', congrArg _ (yDiv_of_some ho h ho')⟩
  · subst hb
    exact congrArg _ (yDiv_of_none ho h hnone)

/-! What completing an instruction writes (R357 to R359, R364, R379). -/

section
variable {k key : Nat} {miss : Bool} {s s2 : State} {t : Task} {i : YInstr} {r : YRegs} {a b x next : Nat} {d la lb ld : Option Loc} {acc : Accesses}

/-- A result that brings no fault and meets no full post queue is written once the instruction has retired. -/
theorem complete_some (hfault : valueFault s key t d x = 0) (hstall : doorStall s t d = none) :
    complete k key t i d acc miss s r (some x) next false = writeLoc key d i.dsize x (retires k key t i acc miss r next s) := by
  simp only [complete, hfault, hstall, ne_eq, not_true_eq_false, if_false, Bool.false_eq_true, retires, regsAt]

/-- A result for an address outside the doors is written there. -/
theorem complete_mem {p : Nat} (h : ∀ n off, regionOf p ≠ .door n off) :
    complete k key t i (some (.mem p)) acc miss s r (some x) next false =
      writeSpace key p (leBytes i.dsize x) (retires k key t i acc miss r next s) := by
  cases hp : regionOf p with
  | door n off => exact absurd hp (h n off)
  | _ => rw [complete_some] <;> simp only [writeLoc, valueFault, doorStall, hp]

/-- CAS may read and write an aligned address outside the doors that its task may write (R403). -/
theorem casFault_of_mayAccess {p sz : Nat} (hp : p % sz = 0) (h : ∀ n off, regionOf p ≠ .door n off) (hm : mayAccess t p sz true = true) :
    casFault s t (some (.mem p)) sz = 0 := by
  cases hreg : regionOf p with
  | door n off => exact absurd hreg (h n off)
  | _ => simp [casFault, hp, hreg, hm]

/-- CAS stores its second source where its destination holds its first (R403). -/
theorem execCas_of_reads {core : Fin 256} {p : Nat} (ho : i.op = .cas)
    (hr : YReads s core key t i { rd := false, wr := false } r a b la lb (some (.mem p)) s2)
    (hp : p % i.size = 0) (h : ∀ n off, regionOf p ≠ .door n off) (hm : mayAccess t p i.size true = true) (hgood : readPoisoned s p 1 = false) :
    let old := (readLoc s2 key (some (.mem p)) i.size).1
    execCas core miss s = .next (retires core key t i
      { reads := (operandAccesses la lb (some (.mem p)) { rd := false, wr := false } i.brief).reads ++ [p], writes := if old = a then [p] else [] }
      miss { r with z := decide (old = a) } (YNext t i) (if old = a then writeLoc key (some (.mem p)) i.size b s2 else s2)) := by
  intro old
  refine congrArg _ ((yRun_of_clean (use := fun _ => { rd := false, wr := false }) (o := .atomic
    (if old = a then writeLoc key (some (.mem p)) i.size b s2 else s2) [p] (decide (old = a)) { r with z := decide (old = a) } (YNext t i))
    ho hr ?_ ?_).trans ?_)
  · rw [casFault_of_mayAccess hp h hm]
    rfl
  · simp [outReads, hgood]
  · simp only [finishOut, complete_none, decide_eq_true_eq]

end

/-- Settles O13: a result goes to its destination after the instruction retires, and CAS stores before it does. -/
theorem completedInstructionWritesItsDestination : Obligations.CompletedInstructionWritesItsDestination := by
  intro core miss s s2 key t i r a b la lb ld acc next x
  refine ⟨rfl, fun n v => complete_some rfl rfl, fun p off h => ?_, fun p off h => ?_, fun p off h => ?_,
    fun p ho hr hp hdoor hm hgood => execCas_of_reads ho hr hp hdoor hm hgood⟩
  all_goals
    rw [complete_mem (by simp [h])]
    simp only [writeSpace, h]

/-! Transfers (R365, R395, R402). -/

theorem targetOk_iff (x : Nat) : targetOk x = true ↔ 0x10000 ≤ x ∧ x < 0x20000 ∧ x % 2 = 0 := by
  simp [targetOk, and_assoc]

/-- Settles O14: a transfer goes to a target in the code hold, and stops on FETCH elsewhere (R402). -/
theorem branchesTransferOrFallThrough : Obligations.BranchesTransferOrFallThrough := by
  intro core miss s s2 key t i r a b la lb ld even
  constructor
  · intro ho hr acc dest
    refine ⟨fun hc he => ?taken, fun hc he => ?outside, fun hc => ?falls⟩
    case taken =>
      have hok : targetOk (brTarget t.regs.pc.toNat i.disp) = true := (targetOk_iff _).2 he
      exact congrArg _ (yRun_of_transfer ho hr (by dsimp only; rw [if_pos hc, if_pos hok]; rfl))
    case outside =>
      have hbad : ¬ targetOk (brTarget t.regs.pc.toNat i.disp) = true := fun h => he ((targetOk_iff _).1 h)
      exact congrArg _ (yRun_of_fault ho hr (by dsimp only; rw [if_pos hc, if_neg hbad]))
    case falls => exact congrArg _ (yRun_of_retire ho hr (if_neg (ne_true_of_eq_false hc)))
  · intro ho hr acc
    refine ⟨fun he => ?jumps, fun he => ?stops⟩
    case jumps => exact congrArg _ (yRun_of_transfer ho hr (if_pos ((targetOk_iff a).2 he)))
    case stops => exact congrArg _ (yRun_of_fault ho hr (if_neg fun h => he ((targetOk_iff a).1 h)))

/-! Frames (R369 to R373). -/

/-- Stores that meet no full post queue are not held up. -/
theorem find_doorStall {s : State} {t : Task} {addrs : List Nat} (h : ∀ x ∈ addrs, doorStall s t (some (.mem x)) = none) :
    (addrs.map (fun x => doorStall s t (some (.mem x)))).find? (·.isSome) = none := by
  simpa using h

section
variable {core : Fin 256} {key : Nat} {miss : Bool} {s s2 : State} {t : Task} {i : YInstr} {r : YRegs} {a b : Nat} {la lb ld : Option Loc}

/-- CALL pushes its registers and its header, and transfers (R369, R371). -/
theorem execCall_of_good (ho : i.op = .call) (hr : YReads s core key t i { rd := false, wr := false } r a b la lb ld s2) (ha : targetOk a = true) :
    let acc := operandAccesses la lb ld { rd := false, wr := false } i.brief
    let vals := (maskDown i.mask).map (fun n => (getReg t.regs n).toNat) ++ [callFrame i.mask t.regs.ld (YNext t i)]
    let addrs := (List.range vals.length).map (fun k => (getReg r 15 - BitVec.ofNat 64 (8 * (k + 1))).toNat)
    storesFault s2 key t (addrs.zip vals) = 0 → (∀ x ∈ addrs, doorStall s2 t (some (.mem x)) = none) →
    execCall core miss s = .next (transfers core key t i { acc with writes := acc.writes ++ addrs } miss
      (setReg r 15 (getReg r 15 - BitVec.ofNat 64 (8 * vals.length))) a (storeWords key (addrs.zip vals) s2)) := by
  intro acc vals addrs hfault hstall
  refine congrArg _ ((yRun_of_outcome ho hr (o := .frame (storeWords key (addrs.zip vals) s2) [] addrs
    (setReg r 15 (getReg r 15 - BitVec.ofNat 64 (8 * vals.length))) a) ?_ rfl).trans ?_)
  · refine (if_neg (by simp [ha])).trans ((if_neg (not_not.2 hfault)).trans ?_)
    split
    next w hw => exact absurd (hw.symm.trans (find_doorStall hstall)) (by simp)
    next => rfl
  · simp only [finishOut, complete_transfer, List.append_nil]
    rfl

/-- A register of a frame header's mask is a bit of its uppermost halfword (R371). -/
theorem bitOf_frameMask {h n : Nat} (hn : n < 16) : bitOf (bitsOf h 63 48) n = h.testBit (48 + n) := by
  rw [bitOf_eq_testBit, bitsOf, Nat.testBit_mod_two_pow, Nat.testBit_div_two_pow, decide_eq_true (by omega), Bool.true_and, Nat.add_comm]

/-- The registers that a header names, as RET takes them. -/
theorem filter_frameMask (h : Nat) :
    (List.range 16).filter (fun n => bitOf (bitsOf h 63 48) n) = (List.range 16).filter (fun n => h.testBit (48 + n)) :=
  List.filter_congr fun _ hn => bitOf_frameMask (List.mem_range.1 hn)

section
variable {h : Nat} {s3 : State} (ho : i.op = .ret) (hr : YReads s core key t i { rd := false, wr := false } r a b la lb ld s2)
  (hfault : accessFault s2 t (getReg r 15).toNat 8 false = 0) (hgood : readPoisoned s (getReg r 15).toNat 1 = false)
  (hread : readLoc s2 key (some (.mem (getReg r 15).toNat)) 8 = (h, s3)) (hld : bitsOf h 47 45 = r.ld)
include ho hr hfault hgood hread hld

/-- RET takes its registers back and transfers to the header's return address (R372). -/
theorem execRet_of_frame (hentry : h.testBit 0 = false) :
    let acc := operandAccesses la lb ld { rd := false, wr := false } i.brief
    let sp := getReg r 15
    let ns := (List.range 16).filter (fun n => h.testBit (48 + n))
    let addrs := (List.range ns.length).map (fun k => (sp + BitVec.ofNat 64 (8 * (k + 1))).toNat)
    readsFault s3 t addrs = 0 → addrs.any (fun x => readPoisoned s x 1) = false → targetOk (2 * bitsOf h 44 1) = true →
    execRet core miss s = .next (transfers core key t i { acc with reads := acc.reads ++ (sp.toNat :: addrs) } miss
      (setRegs (setReg r 15 (sp + BitVec.ofNat 64 (8 * (ns.length + 1)))) (ns.zip (readWords key addrs s3).1)) (2 * bitsOf h 44 1)
      (readWords key addrs s3).2) := by
  intro acc sp ns addrs hreads hclean htarget
  refine congrArg _ ((yRun_of_clean ho hr (o := .frame (readWords key addrs s3).2 (sp.toNat :: addrs) []
    (setRegs (setReg r 15 (sp + BitVec.ofNat 64 (8 * (ns.length + 1)))) (ns.zip (readWords key addrs s3).1)) (2 * bitsOf h 44 1)) ?_ ?_).trans ?_)
  · refine (if_neg (not_not.2 hfault)).trans ?_
    dsimp only
    rw [hread]
    dsimp only
    rw [if_neg (not_not.2 hld), if_neg (by simp [bitOf_eq_testBit, hentry]), filter_frameMask, Nat.mul_comm (bitsOf h 44 1) 2]
    exact (if_neg (not_not.2 hreads)).trans (if_neg (by simp [htarget]))
  · exact List.any_cons.trans (by rw [hclean, Bool.or_false]; exact hgood)
  · simp only [finishOut, complete_transfer, List.append_nil]
    rfl

/-- RET at an entry frame ends the task (R373). -/
theorem execRet_of_entry (hentry : h.testBit 0 = true) :
    let u := retire core key (handleOf key t) t.regs.pc.toNat i.len
      { operandAccesses la lb ld { rd := false, wr := false } i.brief with
        reads := (operandAccesses la lb ld { rd := false, wr := false } i.brief).reads ++ [(getReg r 15).toNat] } 0 miss
      (updTask key (fun t => { t with regs := setReg r 15 (getReg r 15 + 8#64) }) s)
    execRet core miss s = .next (match t.kind with | .thread => threadExit key 0 u | .reduce => btEnd key u) := by
  intro u
  refine congrArg _ ((yRun_of_clean ho hr (o := .entryReturn (setReg r 15 (getReg r 15 + 8#64)) [(getReg r 15).toNat]) ?_ ?_).trans ?_)
  · refine (if_neg (not_not.2 hfault)).trans ?_
    dsimp only
    rw [hread]
    dsimp only
    rw [if_neg (not_not.2 hld), if_pos (by rw [bitOf_eq_testBit, hentry])]
  · simpa [outReads] using hgood
  · rfl

end

end

/-- Settles O15: every store and read of a frame passes its checks before the frame is pushed or popped (R379). -/
theorem callPushesAndRetPops : Obligations.CallPushesAndRetPops := by
  intro core miss s s2 key t i r a b la lb ld
  refine ⟨fun ho hr ha => execCall_of_good ho hr ha, fun ho hr => ?_⟩
  intro acc sp hfault hgood h s3 hread hld
  exact ⟨execRet_of_frame ho hr hfault hgood hread hld, execRet_of_entry ho hr hfault hgood hread hld⟩

/-! Loops (R363, R366). -/

/-- Settles O16: LOOP's checks in their order, then the loop it opens or skips; LEAVE closes the innermost one. -/
theorem loopsOpenAndClose : Obligations.LoopsOpenAndClose := by
  intro core miss s s2 key t i r a b la lb ld hr acc stop fault
  constructor
  · intro ho
    refine ⟨fun hd => ?_, fun hd hl => ?_, fun hd hl he => ?_, fun hd hl he ha => ?_, fun hd hl he ha => ?_, fun hd hl he hpos hlt => ?_⟩
    · exact congrArg _ (yRun_of_fault ho hr (if_pos hd))
    · exact congrArg _ (yRun_of_fault ho hr ((if_neg (Nat.not_le.2 hd)).trans (if_pos hl)))
    · exact congrArg _ (yRun_of_fault ho hr ((if_neg (Nat.not_le.2 hd)).trans ((if_neg (not_not.2 hl)).trans (if_pos he))))
    all_goals
      have hopens {x y z w : YOut} : (if 4 ≤ r.ld then x else if i.level ≠ r.ld then y else if 0x20000 < stop then z else w) = w := by
        rw [if_neg (Nat.not_le.2 hd), if_neg (not_not.2 hl), if_neg (Nat.not_lt.2 he)]
    · exact congrArg _ (yRun_of_fault ho hr (hopens.trans (if_pos ha)))
    · exact congrArg _ (yRun_of_retire ho hr (hopens.trans ((if_neg (by omega)).trans (if_pos ha))))
    · exact congrArg _ (yRun_of_transfer ho hr (hopens.trans ((if_neg (Nat.not_le.2 hlt)).trans (if_neg hpos.ne'))))
  · intro ho
    exact ⟨fun hd => congrArg _ (yRun_of_fault ho hr (if_pos hd)), fun hd => congrArg _ (yRun_of_retire ho hr (if_neg hd.ne'))⟩

/-! Counters, waits, posts (R386 to R388, R404 to R410). -/

/-- A post to a task whose wing's queue is full is not taken (R435). -/
theorem postTo_of_full {s : State} {handle key : Nat} {cls : Nat} (mask : BitVec 32) (h : liveTask s handle = some key)
    (hq : 64 ≤ (getWing s (key / 2048)).postQ.length) : ∃ u, postTo handle mask cls s = (u, .full, false) := by
  simp [postTo, h, hq]

section
variable {core : Fin 256} {key : Nat} {miss : Bool} {s s2 : State} {t v : Task} {i : YInstr} {r : YRegs} {a b k : Nat} {la lb ld : Option Loc}
  (ho : i.op = .post) (hr : YReads s core key t i { rd := false, wr := false } r a b la lb ld s2)
include ho hr

/-- POST to a handle that names no live task (R406, R407). -/
theorem execPost_of_dead (hl : liveTask s2 a = none) :
    execPost core miss s = .next (retires core key t i (operandAccesses la lb ld { rd := false, wr := false } i.brief) miss { r with z := true }
      (YNext t i) s2) := by
  refine congrArg _ (yRun_of_retire ho hr ?_)
  dsimp only
  rw [hl]
  rfl

section
variable (hl : liveTask s2 a = some k) (hv : getTask s2 k = some v)
include hl hv

/-- POST to a task of another wing or function (R406, R407). -/
theorem execPost_of_foreign (h : k / 2048 ≠ key / 2048 ∨ v.fn ≠ t.fn) :
    execPost core miss s = .next (retires core key t i (operandAccesses la lb ld { rd := false, wr := false } i.brief) miss { r with z := true }
      (YNext t i) s2) := by
  refine congrArg _ (yRun_of_retire ho hr ?_)
  have hbad : (!(decide (k / 2048 = key / 2048) && decide ((getTask s2 k).elim 0 (·.fn) = t.fn))) = true := by
    rw [hv]
    obtain h | h := h <;> simp [h]
  dsimp only
  rw [hl]
  exact if_pos hbad

/-- What POST to a task of the poster's wing and function comes to (R407, R408). -/
theorem execPost_of_own (hk : k / 2048 = key / 2048) (hfn : v.fn = t.fn) {o : YOut}
    (ho' : (if b = 0 then .done s2 { r with z := false } none (YNext t i) false
      else match postTo a (BitVec.ofNat 32 b) 3 s2 with
        | (_, .full, _) => .stall (key / 2048) 3
        | (s3, _, ev) => .done (if ev then raise (1048 + key / 2048) s3 else s3) { r with z := false } none (YNext t i) false) = o)
    (hn : outReads o = []) :
    execPost core miss s = .next (finishOut core key t i ld (operandAccesses la lb ld { rd := false, wr := false } i.brief) miss s o) := by
  refine congrArg _ (yRun_of_outcome ho hr ?_ hn)
  have hgood : ¬ (!(decide (k / 2048 = key / 2048) && decide ((getTask s2 k).elim 0 (·.fn) = t.fn))) = true := by
    rw [hv]
    simp [hk, hfn]
  dsimp only
  rw [hl]
  exact (if_neg hgood).trans ho'

end

end

/-- Settles O17: RDCNT checks its right before its slot, WAIT and POST complete, block or stall as their flags and the queue are found, and YIELD gives
way to a rival only after it retires. -/
theorem taskInstructionsComplete : Obligations.TaskInstructionsComplete := by
  intro core miss s s2 key t i r a b la lb ld acc0 acc1
  refine ⟨?rdcnt, ?wait, ?post, ?nop, ?yield⟩
  case rdcnt =>
    intro ho hr fault gives
    refine ⟨fun hc => ?_, fun hc ha => ?_, fun hc ha hs => ?_, fun hc ha hs => ?_⟩
    · exact congrArg _ (yRun_of_fault ho hr (if_pos (by simp [hc])))
    all_goals have hright {x y : YOut} : (if (!chrCounter s2 t.fn a) = true then x else y) = y := if_neg (by simp [hc])
    · exact congrArg _ (yRun_of_done ho hr (hright.trans (if_pos (by omega))))
    · exact congrArg _ (yRun_of_done ho hr (hright.trans ((if_neg (by omega)).trans (if_pos hs))))
    · exact congrArg _ (yRun_of_fault ho hr (hright.trans ((if_neg (by omega)).trans (if_neg (ne_true_of_eq_false hs)))))
  case wait =>
    intro ho hr u hu mask hmask
    have hflags : (getTask s2 key).elim t.flags (·.flags) = u.flags := by rw [hu]; rfl
    refine ⟨fun hm => ?_, fun hm => ?_⟩
    · refine congrArg _ (yRun_of_done ho hr ?_)
      dsimp only
      rw [hflags, bitOf_eq_testBit]
      exact (if_neg hmask).trans (if_pos hm)
    · refine congrArg _ (yRun_of_outcome ho hr (o := .block mask (b.testBit 0)) ?_ rfl)
      dsimp only
      rw [hflags, bitOf_eq_testBit]
      exact (if_neg hmask).trans (if_neg (ne_true_of_eq_false hm))
  case post =>
    refine fun ho hr => ⟨execPost_of_dead ho hr, fun k v hl hv => ⟨execPost_of_foreign ho hr hl hv, fun hk hfn hb => ?_,
      fun hk hfn hb s3 ev hpost => ?_, fun hk hfn hb hq => ?_⟩⟩
    · exact execPost_of_own ho hr hl hv hk hfn (o := .done s2 { r with z := false } none (YNext t i) false) (if_pos hb) rfl
    · exact execPost_of_own ho hr hl hv hk hfn (o := .done (if ev then raise (1048 + key / 2048) s3 else s3) { r with z := false } none (YNext t i) false)
        ((if_neg hb).trans (by rw [hpost])) rfl
    · obtain ⟨u, hu⟩ := postTo_of_full (cls := 3) (BitVec.ofNat 32 b) hl hq
      exact execPost_of_own ho hr hl hv hk hfn (o := .stall (key / 2048) 3) ((if_neg hb).trans (by rw [hu])) rfl
  case nop => exact fun ho hr => congrArg _ (yRun_of_retire ho hr rfl)
  case yield => exact fun ho hr => congrArg _ (yRun_of_outcome ho hr (o := .yields s2 r none) rfl rfl)

end Sys2Proof.Machine
end

section
/-! SUPPORT. Yusil results (R394, R397 to R401, R411): the operations on numbers as those of `BitVec`, and the statements about arithmetic, operations
of one source, moves, immediates, comparisons and bits. -/

namespace Sys2Proof.Machine

/-! Numbers of w bits as bit vectors. -/

/-- The signed value is that of two's complement; at a width of 0 both are 0. -/
theorem signed_toNat {w : Nat} (a : BitVec w) : signed w a.toNat = a.toInt := by
  cases w with
  | zero => simp [signed, BitVec.of_length_zero]
  | succ n =>
    have hhalf : 2 * a.toNat < 2 ^ (n + 1) ↔ a.toNat < 2 ^ n := by
      rw [Nat.pow_succ']
      exact Nat.mul_lt_mul_left Nat.two_pos
    simp only [signed, BitVec.toInt_eq_toNat_cond, Nat.add_sub_cancel, hhalf, Nat.cast_pow, Nat.cast_ofNat]

/-- Truncating an integer is taking its bit vector. -/
theorem truncInt_eq_toNat_ofInt (w : Nat) (x : Int) : truncInt w x = (BitVec.ofInt w x).toNat := by
  simp [truncInt]

theorem yLog_toNat {w : Nat} (x : BitVec w) : (yLog w x.toNat).r = x.toNat := Nat.mod_eq_of_lt x.isLt

theorem yShf_toNat {w : Nat} (x : BitVec w) (out : Bool) : (yShf w x.toNat out).r = x.toNat := Nat.mod_eq_of_lt x.isLt

section
variable {w : Nat} (a b : BitVec w)

/-! Sums, differences and products (R394, R397). -/

theorem yAdd_r : (yAdd w a.toNat b.toNat 0).r = (a + b).toNat := (BitVec.toNat_add a b).symm

theorem yAdd_c : (yAdd w a.toNat b.toNat 0).f.c = a.uaddOverflow b := rfl

theorem ySub_r : (ySub w a.toNat b.toNat 0).r = (a - b).toNat := by
  have h : BitVec.ofInt w ((a.toNat : Int) - b.toNat - 0) = a - b := by
    rw [sub_zero, sub_eq_add_neg, BitVec.ofInt_add, BitVec.ofInt_neg, ← BitVec.sub_eq_add_neg]
    simp only [BitVec.ofInt_natCast, BitVec.ofNat_toNat, BitVec.setWidth_eq]
  rw [← h, ← truncInt_eq_toNat_ofInt]
  rfl

theorem ySub_c : (ySub w a.toNat b.toNat 0).f.c = a.usubOverflow b := rfl

/-- V is signed overflow of a sum or a difference. -/
theorem overflows_eq (x : Int) : overflows w x = (decide (x ≥ 2 ^ (w - 1)) || decide (x < -2 ^ (w - 1))) := by
  rw [overflows, ← Bool.decide_or]
  exact decide_eq_decide.2 (by omega)

theorem yAdd_v : (yAdd w a.toNat b.toNat 0).f.v = a.saddOverflow b := by
  simp only [yAdd, signed_toNat, overflows_eq, Nat.cast_zero, add_zero, BitVec.saddOverflow]

theorem ySub_v : (ySub w a.toNat b.toNat 0).f.v = a.ssubOverflow b := by
  simp only [ySub, signed_toNat, overflows_eq, Nat.cast_zero, sub_zero, BitVec.ssubOverflow]

theorem yMul_r : (yMul w a.toNat b.toNat).r = (a * b).toNat := (BitVec.toNat_mul a b).symm

/-- The product of two w-bit numbers fits 2w bits, whose upper half MULHU gives. -/
theorem yMulhu_r : (yMulhu w a.toNat b.toNat).r = ((a.setWidth (2 * w) * b.setWidth (2 * w)) >>> w).toNat % 2 ^ w := by
  have hfits : a.toNat * b.toNat < 2 ^ (2 * w) := by
    rw [two_mul, pow_add]
    exact Nat.mul_lt_mul'' a.isLt b.isLt
  rw [BitVec.toNat_ushiftRight, BitVec.toNat_mul, BitVec.toNat_setWidth_of_le (by omega), BitVec.toNat_setWidth_of_le (by omega),
    Nat.mod_eq_of_lt hfits, Nat.shiftRight_eq_div_pow]
  rfl

/-- The upper half of an integer's 2w bits is the lower half of its quotient by 2^w. -/
theorem upperHalf_ofInt (x : Int) : (BitVec.ofInt (2 * w) x >>> w).toNat % 2 ^ w = (BitVec.ofInt w (x / 2 ^ w)).toNat := by
  have hm : (2 ^ w : Int) ≠ 0 := by positivity
  have hcut : x % (2 ^ w * 2 ^ w) / 2 ^ w % 2 ^ w = x / 2 ^ w % (2 ^ w : Int) := by
    rw [Int.emod_def x, mul_assoc, sub_eq_add_neg, ← mul_neg, Int.add_mul_ediv_left _ _ hm, ← mul_neg, Int.add_mul_emod_self_left]
  have hnonneg {y m : Int} (h : 0 < m) : 0 ≤ y % m := Int.emod_nonneg y h.ne'
  rw [← Int.natCast_inj, BitVec.toNat_ushiftRight, Nat.shiftRight_eq_div_pow, BitVec.toNat_ofInt, BitVec.toNat_ofInt, two_mul, pow_add]
  push_cast
  rw [Int.toNat_of_nonneg (hnonneg (by positivity)), Int.toNat_of_nonneg (hnonneg (by positivity)), hcut]

theorem yMulhs_r : (yMulhs w a.toNat b.toNat).r = ((a.signExtend (2 * w) * b.signExtend (2 * w)) >>> w).toNat % 2 ^ w := by
  have hprod : a.signExtend (2 * w) * b.signExtend (2 * w) = BitVec.ofInt (2 * w) (a.toInt * b.toInt) := (BitVec.ofInt_mul _ _).symm
  rw [hprod, upperHalf_ofInt, yMulhs, signed_toNat, signed_toNat, truncInt_eq_toNat_ofInt, yLog_toNat,
    Int.fdiv_eq_ediv_of_nonneg _ (by positivity)]

/-! Bitwise operations, minima and maxima (R397). -/

theorem yAnd_r : (yAnd w a.toNat b.toNat).r = (a &&& b).toNat := by
  rw [yAnd, ← BitVec.toNat_and, yLog_toNat]

theorem yOr_r : (yOr w a.toNat b.toNat).r = (a ||| b).toNat := by
  rw [yOr, ← BitVec.toNat_or, yLog_toNat]

theorem yXor_r : (yXor w a.toNat b.toNat).r = (a ^^^ b).toNat := by
  rw [yXor, ← BitVec.toNat_xor, yLog_toNat]

/-- The complement within w bits. -/
theorem complement_toNat : 2 ^ w - 1 - a.toNat % 2 ^ w = (~~~a).toNat := by
  rw [Nat.mod_eq_of_lt a.isLt, BitVec.toNat_not]

theorem yAndn_r : (yAndn w a.toNat b.toNat).r = (a &&& ~~~b).toNat := by
  rw [yAndn, complement_toNat, ← BitVec.toNat_and, yLog_toNat]

theorem yNot_r : (yNot w a.toNat).r = (~~~a).toNat := by
  rw [yNot, complement_toNat, yLog_toNat]

theorem yMinu_r : (yMinu w a.toNat b.toNat).r = (if a ≤ b then a else b).toNat := by
  simp only [yMinu, min_def, ← BitVec.le_def, ← apply_ite BitVec.toNat, yLog_toNat]

theorem yMaxu_r : (yMaxu w a.toNat b.toNat).r = (if a ≤ b then b else a).toNat := by
  simp only [yMaxu, max_def, ← BitVec.le_def, ← apply_ite BitVec.toNat, yLog_toNat]

theorem yMins_r : (yMins w a.toNat b.toNat).r = (if a.sle b then a else b).toNat := by
  rw [yMins, signed_toNat, signed_toNat, ← apply_ite BitVec.toNat, yLog_toNat]
  simp only [BitVec.sle_iff_toInt_le]

theorem yMaxs_r : (yMaxs w a.toNat b.toNat).r = (if a.sle b then b else a).toNat := by
  rw [yMaxs, signed_toNat, signed_toNat, ← apply_ite BitVec.toNat, yLog_toNat]
  simp only [BitVec.sle_iff_toInt_le]

/-! Divisions (R397, R400). -/

section
variable {b} (hb : b ≠ 0)
include hb

theorem yDivu_r : (yDivu w a.toNat b.toNat).map (·.r) = some (a / b).toNat := by
  rw [yDivu, if_neg (BitVec.toNat_pos_of_ne_zero hb).ne']
  rfl

theorem yRemu_r : (yRemu w a.toNat b.toNat).map (·.r) = some (a % b).toNat := by
  rw [yRemu, if_neg (BitVec.toNat_pos_of_ne_zero hb).ne']
  rfl

/-- The quotient towards zero; the most negative number divided by -1 wraps to itself. -/
theorem yDivs_r : (yDivs w a.toNat b.toNat).map (·.r) = some (a.sdiv b).toNat := by
  have h : BitVec.ofInt w (a.toInt.tdiv b.toInt) = a.sdiv b :=
    BitVec.eq_of_toInt_eq (by rw [BitVec.toInt_ofInt, BitVec.toInt_sdiv])
  rw [yDivs, if_neg (BitVec.toNat_pos_of_ne_zero hb).ne', signed_toNat, signed_toNat, truncInt_eq_toNat_ofInt, h]
  rfl

theorem yRems_r : (yRems w a.toNat b.toNat).map (·.r) = some (a.srem b).toNat := by
  rw [yRems, if_neg (BitVec.toNat_pos_of_ne_zero hb).ne', signed_toNat, signed_toNat, truncInt_eq_toNat_ofInt, ← BitVec.toInt_srem,
    BitVec.ofInt_toInt]
  rfl

end

/-! Shifts, rotates and sign extension (R397, R399). -/

theorem yShl_r (n : Nat) : (yShl w a.toNat n).r = (a <<< n).toNat := by
  rw [BitVec.toNat_shiftLeft, Nat.shiftLeft_eq]
  rfl

theorem yShr_r (n : Nat) : (yShr w a.toNat n).r = (a >>> n).toNat := by
  rw [yShr, ← Nat.shiftRight_eq_div_pow, ← BitVec.toNat_ushiftRight, yShf_toNat]

theorem ySar_r (n : Nat) : (ySar w a.toNat n).r = (a.sshiftRight n).toNat := by
  have h : (a.toInt).fdiv (2 ^ n) = a.toInt >>> n := by
    rw [Int.fdiv_eq_ediv_of_nonneg _ (by positivity), Int.shiftRight_eq_div_pow]
    norm_cast
  rw [ySar, signed_toNat, h, truncInt_eq_toNat_ofInt, yShf_toNat]
  rfl

/-- The halves of a number rotated left by n have no bit in common: their sum is their union. -/
theorem rotated_add_eq_or {n : Nat} (hn : n ≤ w) :
    a.toNat * 2 ^ n % 2 ^ w + a.toNat / 2 ^ (w - n) = a.toNat <<< n % 2 ^ w ||| a.toNat >>> (w - n) := by
  have hw : 2 ^ w = 2 ^ n * 2 ^ (w - n) := by rw [← pow_add, Nat.add_sub_cancel' hn]
  have hlow : a.toNat / 2 ^ (w - n) < 2 ^ n := Nat.div_lt_of_lt_mul (by rw [mul_comm, ← hw]; exact a.isLt)
  rw [Nat.shiftLeft_eq, Nat.shiftRight_eq_div_pow, hw, mul_comm a.toNat, Nat.mul_mod_mul_left, Nat.two_pow_add_eq_or_of_lt hlow]

section
variable {n : Nat} (hn : n < w)
include hn

theorem yRol_r : (yRol w a.toNat n).r = (a.rotateLeft n).toNat := by
  have h : a.toNat * 2 ^ n % 2 ^ w + a.toNat / 2 ^ (w - n) = (a.rotateLeft n).toNat := by
    rw [rotated_add_eq_or a hn.le, BitVec.toNat_rotateLeft, Nat.mod_eq_of_lt hn]
  simp only [yRol, h, yShf_toNat]

/-- A rotate right by n is one left by w - n. -/
theorem yRor_r : (yRor w a.toNat n).r = (a.rotateRight n).toNat := by
  have h : a.toNat / 2 ^ n + a.toNat * 2 ^ (w - n) % 2 ^ w = (a.rotateRight n).toNat := by
    have hleft := rotated_add_eq_or a (Nat.sub_le w n)
    rw [Nat.sub_sub_self hn.le] at hleft
    rw [add_comm, hleft, BitVec.toNat_rotateRight, Nat.mod_eq_of_lt hn, Nat.or_comm]
  simp only [yRor, h, yShf_toNat]

end

theorem signExt_eq : signExt w a.toNat = (a.signExtend 64).toNat := by
  rw [signExt, signed_toNat, truncInt_eq_toNat_ofInt]
  rfl

end

/-- Settles O8: every operation on numbers is the one on bit vectors, at any width. -/
theorem yusilArithmeticIsTwosComplement : Obligations.YusilArithmeticIsTwosComplement := by
  intro w _ a b
  exact ⟨⟨yAdd_r a b, yAdd_c a b, yAdd_v a b⟩, ⟨ySub_r a b, ySub_c a b, ySub_v a b⟩,
    yMul_r a b, yMulhu_r a b, yMulhs_r a b,
    ⟨yAnd_r a b, yOr_r a b, yXor_r a b, yAndn_r a b, yNot_r a⟩,
    ⟨yMinu_r a b, yMaxu_r a b, yMins_r a b, yMaxs_r a b⟩,
    fun hb => ⟨yDivu_r a hb, yRemu_r a hb, yDivs_r a hb, yRems_r a hb⟩,
    fun n hn => ⟨yShl_r a n, yShr_r a n, ySar_r a n, yRol_r a hn, yRor_r a hn⟩,
    signExt_eq a⟩

/-! Operations of one source, moves and immediates (R397, R398). -/

section
variable {k key : Nat} {miss : Bool} {s s2 : State} {t : Task} {i : YInstr} {r : YRegs} {a b : Nat} {la lb ld : Option Loc} {op : YOp}

theorem yUn_of_reads {g : Nat → Nat → YResult} (ho : i.op = op) (h : YReads s k key t i { rd := false, wr := true } r a b la lb ld s2) :
    yUn op g k miss s = complete k key t i ld (operandAccesses la lb ld { rd := false, wr := true } i.brief) miss s2
      (withFlags r (g (8 * i.size) a).f) (some (g (8 * i.size) a).r) (YNext t i) false :=
  yRun_of_done (use := fun _ => { rd := false, wr := true }) ho h rfl

theorem yUnNf_of_reads {g : Nat → Nat → Nat} (ho : i.op = op) (h : YReads s k key t i { rd := false, wr := true } r a b la lb ld s2) :
    yUnNf op g k miss s = complete k key t i ld (operandAccesses la lb ld { rd := false, wr := true } i.brief) miss s2
      r (some (g i.size a)) (YNext t i) false :=
  yRun_of_done (use := fun _ => { rd := false, wr := true }) ho h rfl

theorem yImm_of_reads {wr : Bool} {g : Nat → Nat → YResult} (ho : i.op = op) (h : YReads s k key t i { rd := true, wr := wr } r a b la lb ld s2) :
    yImm op wr g k miss s = complete k key t i ld (operandAccesses la lb ld { rd := true, wr := wr } i.brief) miss s2
      (withFlags r (g a i.n).f) (if wr then some (g a i.n).r else none) (YNext t i) false :=
  yRun_of_done (use := fun _ => { rd := true, wr := wr }) ho h rfl

theorem yCmp_of_reads {g : Nat → Nat → Nat → YResult} (ho : i.op = op) (h : YReads s k key t i { rd := i.brief, wr := false } r a b la lb ld s2) :
    yCmp op g k miss s = complete k key t i ld (operandAccesses la lb ld { rd := i.brief, wr := false } i.brief) miss s2
      (withFlags r (g (8 * i.size) a b).f) none (YNext t i) false :=
  yRun_of_done (use := fun i => { rd := i.brief, wr := false }) ho h rfl

end

/-- Settles O10: each row runs its operation on one source, on its destination and n, or on the instruction and its registers alone. -/
theorem oneSourceOperationsComplete : Obligations.OneSourceOperationsComplete := by
  intro core miss s s2 key t i r a b la lb ld
  refine ⟨fun e he ho h => ?flags, fun e he ho h => ?keepsFlags, fun e he ho h => ?immediate, fun e he ho h => ?noSource⟩
  case flags =>
    have hexec : exec (e.1 core miss) s = .next (yUn e.2.1 e.2.2 core miss s) := by
      fin_cases he <;> rfl
    exact hexec.trans (congrArg _ (yUn_of_reads ho h))
  case keepsFlags =>
    have hexec : exec (e.1 core miss) s = .next (yUnNf e.2.1 e.2.2 core miss s) := by
      fin_cases he <;> rfl
    exact hexec.trans (congrArg _ (yUnNf_of_reads ho h))
  case immediate =>
    have hexec : exec (e.1 core miss) s = .next (yImm e.2.1 e.2.2.1 e.2.2.2 core miss s) := by
      fin_cases he <;> rfl
    exact hexec.trans (congrArg _ (yImm_of_reads ho h))
  case noSource =>
    have hexec : exec (e.1 core miss) s = .next (yRun e.2.1 (fun _ => { rd := false, wr := true })
        (fun s1 _ t i r _ _ _ => .done s1 r (some (e.2.2 i r)) (YNext t i) false) core miss s) := by
      fin_cases he <;> rfl
    exact hexec.trans (congrArg _ (yRun_of_done (use := fun _ => { rd := false, wr := true }) ho h rfl))

/-! Single bits (R397, R398). -/

/-- BCLR's result differs from its first source in one bit, which is clear. -/
theorem testBit_bitsSet_zero (a m n : Nat) : (bitsSet a m m 0).testBit n = (a.testBit n && decide (n ≠ m)) := by
  have hlow : a % 2 ^ m < 2 ^ (m + 1) := (Nat.mod_lt _ (Nat.two_pow_pos m)).trans (Nat.pow_lt_pow_right Nat.one_lt_two (Nat.lt_succ_self m))
  rw [bitsSet, Nat.zero_mod, Nat.zero_mul, Nat.add_zero, Nat.mul_comm, Nat.testBit_two_pow_mul_add _ hlow]
  obtain hlt | rfl | hgt := Nat.lt_trichotomy n m
  · simp [hlt, hlt.ne, Nat.lt_succ_of_lt hlt]
  · simp
  · rw [if_neg (by omega), Nat.testBit_div_two_pow, Nat.sub_add_cancel hgt, decide_eq_true hgt.ne', Bool.and_true]

/-- Settles O12: CMP and TST run a comparison; BTST, BSET, BCLR and SETST have rows of their own. -/
theorem comparisonsAndBitsComplete : Obligations.ComparisonsAndBitsComplete := by
  intro core miss s s2 key t i r a b la lb ld
  refine ⟨fun e he ho h => ?compare, fun ho h => ?btst, fun ho h => ?bset,
    fun ho h => ⟨_, ?bclr, testBit_bitsSet_zero a _⟩, fun ho h => ?setst⟩
  case compare =>
    have hexec : exec (e.1 core miss) s = .next (yCmp e.2.1 e.2.2 core miss s) := by
      fin_cases he <;> rfl
    exact hexec.trans (congrArg _ (yCmp_of_reads ho h))
  case btst =>
    refine congrArg _ (yRun_of_done (use := fun i => { rd := i.brief, wr := false }) ho h ?_)
    rw [bitOf_eq_testBit]
    rfl
  case bset => exact congrArg _ (yRun_of_done (use := fun i => { rd := i.brief, wr := true }) ho h rfl)
  case bclr => exact congrArg _ (yRun_of_done (use := fun i => { rd := i.brief, wr := true }) ho h rfl)
  case setst =>
    refine congrArg _ (yRun_of_done (use := fun _ => { rd := false, wr := false }) ho h ?_)
    simp only [bitOf_eq_testBit]
    rfl

end Sys2Proof.Machine
end

section
/-! SUPPORT. Compression jobs and the key store (R488 to R494, R690 to R706): a field that a row sets reads back as set, a word of a requester's
job has its effect on the compressor the requester has, each KEY_CMD loads or empties its slot where none of its refusals applies, and the
statement about them. -/

namespace Sys2Proof.Machine

/-! Fields that a row sets in the word of its operand. -/

/-- The field that was set holds what was put there, cut to its width. -/
theorem bitsOf_bitsSet_self {hi lo : Nat} (h : lo ≤ hi + 1) (v x : Nat) : bitsOf (bitsSet v hi lo x) hi lo = x % 2 ^ (hi + 1 - lo) := by
  obtain ⟨n, hn⟩ := Nat.exists_eq_add_of_le' h
  have hshape : bitsSet v hi lo x = 2 ^ lo * (v / 2 ^ (n + lo) * 2 ^ n + x % 2 ^ n) + v % 2 ^ lo := by
    rw [bitsSet, hn, Nat.add_sub_cancel, pow_add]
    ring
  rw [bitsOf, hshape, hn, Nat.add_sub_cancel, Nat.mul_add_div (Nat.two_pow_pos lo), Nat.div_eq_of_lt (Nat.mod_lt v (Nat.two_pow_pos lo)),
    Nat.add_zero, Nat.mul_add_mod_self_right, Nat.mod_mod]

@[simp] theorem bitOf_bitsSet_one (v i : Nat) : bitOf (bitsSet v i i 1) i = true := by
  rw [bitOf_eq_testBit, Nat.testBit_eq_decide_div_mod_eq]
  simpa [bitsOf] using bitsOf_bitsSet_self (Nat.le_succ i) v 1

@[simp] theorem bitOf_bitsSet_zero (v i : Nat) : bitOf (bitsSet v i i 0) i = false := by
  simp [bitOf_eq_testBit, testBit_bitsSet_zero]

/-! Jobs (R488 to R494). -/

section
variable {s : State} {r : Requester} {w : Fin 8} {x : Nat}

/-- The wing whose compressor a requester's job has: the one the PF names, or the one where the task runs (R488). -/
def jobWing (s : State) (w : Fin 8) (x : Nat) : Nat := if x = 0 then w.val else runWing s (x - 1)

/-- A write of a job word acts on the job of its requester. -/
theorem unitWrite_jobWrite_of_open {off v : Nat} (h : UnitOpen s r 8 off v x) :
    unitWrite r 8 off v (jobWrite 0 w off v false) s = jobWrite x (jobWing s w x) off v false s :=
  unitWrite_of_open (fun x s => jobWrite x (jobWing s w x) off v false s) h fun _ => rfl

/-- A CMP_J_LEN whose blocks compare as equal is a write of a job word like any other. -/
theorem jobLenBy_eq_unitWrite (v : Nat) : jobLenBy r w v false s = unitWrite r 8 0x20 v (jobWrite 0 w 0x20 v false) s := by
  cases r <;> rfl

/-- A setup with OPEN alone opens the job with the fields of the word (R488, R490, R493). -/
theorem jobWrite_open {v : Nat} (ho : bitOf v 63 = true) (hc : bitOf v 62 = false) (y : Nat) :
    jobWrite x y 0x00 v false s = jobOpen x y (bitOf v 40) (bitsOf v 38 32) (v % 2 ^ 24) s := by
  simp [jobWrite, jobSetupWrite, ho, hc]

/-- A setup with CANCEL alone stores the fields of the word and cancels the job (R494). -/
theorem jobWrite_cancel {v : Nat} (ho : bitOf v 63 = false) (hc : bitOf v 62 = true) (y : Nat) : let k := jobKey x y
    jobWrite x y 0x00 v false s =
      jobCancel x y (setJob k { getJob s k with checksum := bitOf v 40, thresh := bitsOf v 38 32, total := v % 2 ^ 24 } s) := by
  simp [jobWrite, jobSetupWrite, ho, hc]

/-- A length gives the job a piece, flushed or last as its bits say (R489 to R493). -/
theorem jobLenBy_of_open {v : Nat} {last : Bool} (hl : bitOf v 63 = last) (h : UnitOpen s r 8 0x20 v x) :
    jobLenBy r w v false s = jobPiece x (jobWing s w x) (v % 2 ^ 24) (bitOf v 62) last false s := by
  rw [jobLenBy_eq_unitWrite, unitWrite_jobWrite_of_open h, ← hl]
  rfl

end

/-! Keys (R690 to R706). -/

section
variable {s : State} {n fixed : Nat}

/-- DERIVE loads the key of the root key and the label (R690, R700, R701). -/
theorem keyDerive_of_root {root : List Byte} (hlabel : ((keyDataBytes s).take 32).headD 0 ≠ 0) (hroot : s.sec.root = some root)
    (hload : loadRefusal s n = none) :
    let label := (keyDataBytes s).take 32
    let gen := listGet 0 s.sec.data 4
    keyDerive n fixed s = keyDone 0 (slotLoad n (kdf root label gen 256) .derive fixed label gen s) := by
  simp only [keyDerive, hlabel, hroot, hload, if_false]

/-- UNWRAP loads the 256-bit key that the slot's key-encryption key unwraps (R700). -/
theorem keyUnwrapCmd_of_key {kek : Nat} {k : KeySlot} {key : List Byte} (hkek : keySlot s kek = some k) (hload : loadRefusal s n = none)
    (hkey : keyUnwrap k.key (keyDataBytes s) = some key) (hlen : key.length = 32) :
    keyUnwrapCmd n kek fixed s = keyDone 0 (slotLoad n key .unwrap fixed [] 0 s) := by
  simp only [keyUnwrapCmd, hkek, hload, hkey, hlen, if_true]

/-- CLEAR loads the key that KEY_DATA holds (R700). -/
theorem keyClear_of_free (hload : loadRefusal s n = none) :
    keyClear n fixed s = keyDone 0 (slotLoad n ((keyDataBytes s).take 32) .clear fixed [] 0 s) := by
  simp only [keyClear, hload]

/-- UNLOAD empties a loaded slot that nothing uses, and the ledger moves with it (R702, R706). -/
theorem keyUnload_of_loaded {k : KeySlot} (hslot : keySlot s n = some k) (huse : slotInUse s n = false) :
    keyUnload n s = keyDone 0 (raise 1067 { s with sec := { s.sec with
      slots := Tbl.erase s.sec.slots n, free := s.sec.free + 1, loaded := s.sec.loaded - 1 } }) := by
  simp [keyUnload, hslot, huse]

end

section
variable {s : State} (hpf : pfWrites s = true) (hmgr : s.chr.mgrHeld = true) (v : Word)
include hpf hmgr

/-! The rows of KEY_CMD: each names the OP that the write of the manager carries (R699, R700). -/

theorem execKeyDerive_of_manager : let d := bitsSet v.toNat 63 60 1
    execKeyDerive v s = .next (keyDerive (bitsOf d 45 40) (d % 2 ^ 32) s) := by
  simp [execKeyDerive, keyCmd, hpf, hmgr, bitsOf_bitsSet_self]

theorem execKeyUnwrap_of_manager : let d := bitsSet v.toNat 63 60 2
    execKeyUnwrap v s = .next (keyUnwrapCmd (bitsOf d 45 40) (bitsOf d 53 48) (d % 2 ^ 32) s) := by
  simp [execKeyUnwrap, keyCmd, hpf, hmgr, bitsOf_bitsSet_self]

theorem execKeyClearLoad_of_manager : let d := bitsSet v.toNat 63 60 3
    execKeyClearLoad v s = .next (keyClear (bitsOf d 45 40) (d % 2 ^ 32) s) := by
  simp [execKeyClearLoad, keyCmd, hpf, hmgr, bitsOf_bitsSet_self]

theorem execKeyUnload_of_manager : execKeyUnload v s = .next (keyUnload (bitsOf (bitsSet v.toNat 63 60 4) 45 40) s) := by
  simp [execKeyUnload, keyCmd, hpf, hmgr, bitsOf_bitsSet_self]

end

/-- Settles O47: a job word acts on its requester's job, and KEY_CMD runs the command of its OP, none of whose refusals applies. -/
theorem jobsAndKeysComplete : Obligations.JobsAndKeysComplete := by
  refine fun s r x w v => ⟨?opens, ?cancels, ?piece, ?lastPiece, fun hpf hmgr => ⟨?derive, ?unwrap, ?clear, ?unload⟩⟩
  case opens =>
    exact fun h hc => congrArg _ ((unitWrite_jobWrite_of_open h).trans (jobWrite_open (bitOf_bitsSet_one _ 63) hc _))
  case cancels =>
    exact fun h ho => congrArg _ ((unitWrite_jobWrite_of_open h).trans (jobWrite_cancel ho (bitOf_bitsSet_one _ 62) _))
  case piece => exact fun h => congrArg _ (jobLenBy_of_open (bitOf_bitsSet_zero _ 63) h)
  case lastPiece => exact fun h => congrArg _ (jobLenBy_of_open (bitOf_bitsSet_one _ 63) h)
  case derive =>
    exact fun root hlabel hroot hload => (execKeyDerive_of_manager hpf hmgr v).trans (congrArg _ (keyDerive_of_root hlabel hroot hload))
  case unwrap =>
    exact fun k key hkek hload hkey hlen =>
      (execKeyUnwrap_of_manager hpf hmgr v).trans (congrArg _ (keyUnwrapCmd_of_key hkek hload hkey hlen))
  case clear => exact fun hload => (execKeyClearLoad_of_manager hpf hmgr v).trans (congrArg _ (keyClear_of_free hload))
  case unload => exact fun k hslot huse => (execKeyUnload_of_manager hpf hmgr v).trans (congrArg _ (keyUnload_of_loaded hslot huse))

end Sys2Proof.Machine
end

section
/-! SUPPORT. Commands that only read (R521, R531, R678): answering a host command changes the counters, the events, the log, the dispatcher, the
waits on functions and the host's queues alone, and the statement about it. -/

namespace Sys2Proof.Machine

theorem NotesOnly.refl (s : State) : NotesOnly s s := by simp [NotesOnly]

theorem AnswersOnly.refl (s : State) : AnswersOnly s s := by simp [AnswersOnly]

section
variable {z0 s : State} {r : CmdRef} {opc : Nat}

/-! The ways to answer. -/

theorem failCmd_answers (c : OutCmd) (st : Status) (h : AnswersOnly z0 s) : AnswersOnly z0 (failCmd c st s) :=
  completeCmd_answers _ _ _ _ _ _ h

theorem countOut_answers (fn n : Nat) (h : AnswersOnly z0 s) : AnswersOnly z0 (countOut fn n s) :=
  cntFnAdd_answers _ _ _ _ (cntMod_answers _ _ _ h)

theorem answerData_answers (r : CmdRef) (dw0 : Nat) (data : List Byte) (h : AnswersOnly z0 s) : AnswersOnly z0 (answerData r dw0 data s) :=
  completeCmd_answers _ _ _ _ _ _ (countOut_answers _ _ h)

/-- A command that is not there, or cannot run, leaves the state as it is. -/
theorem onAdmin_answers {f : OutCmd → State → State} (h : AnswersOnly z0 s) (hf : ∀ c, AnswersOnly z0 (f c s)) :
    AnswersOnly z0 (onAdmin r opc f s) := by
  unfold onAdmin
  split
  · exact hf _
  · exact h

theorem onFn_answers {p : Sqe → Bool} {f : OutCmd → Nat → State → State} (h : AnswersOnly z0 s) (hf : ∀ c n, AnswersOnly z0 (f c n s)) :
    AnswersOnly z0 (onFn r opc p f s) :=
  onAdmin_answers h fun c => answers_ite h (answers_ite (failCmd_answers c _ h) (hf c _))

end

/-! The commands that only read. -/

theorem execIdentify_answers (r : CmdRef) (s : State) : ∃ t, execIdentify r s = .next t ∧ AnswersOnly s t := by
  have h := AnswersOnly.refl s
  refine ⟨_, rfl, onAdmin_answers h fun c => ?_⟩
  split
  · exact failCmd_answers c _ h
  · exact answerData_answers r 0 _ h

theorem execGetFeatures_answers (r : CmdRef) (s : State) : ∃ t, execGetFeatures r s = .next t ∧ AnswersOnly s t := by
  have h := AnswersOnly.refl s
  have completes (st : Status) (dw0 : Nat) : AnswersOnly s (completeCmd r st dw0 0 [] s) := completeCmd_answers _ _ _ _ _ _ h
  exact ⟨_, rfl, onAdmin_answers h fun c => answers_ite (failCmd_answers c _ h) <| answers_ite (completes _ _) <|
    answers_ite (answerData_answers r 0 _ h) <| answers_ite (answers_ite (failCmd_answers c _ h) (completes _ _)) (completes _ _)⟩

theorem execSaveFunctionState_answers (r : CmdRef) (s : State) : ∃ t, execSaveFunctionState r s = .next t ∧ AnswersOnly s t := by
  have h := AnswersOnly.refl s
  exact ⟨_, rfl, onFn_answers h fun c _ => answers_ite (failCmd_answers c _ h) <| answers_ite (failCmd_answers c _ h) (answerData_answers r 0 _ h)⟩

/-- Settles O29: each of the three commands ends in one of the ways to answer, and a note runs on what notes may change. -/
theorem readingCommandsChangeOnlyTheHostSide : Obligations.ReadingCommandsChangeOnlyTheHostSide := by
  refine fun s => ⟨fun r i hi => ?commands, fun i => raise_notes i s (.refl s), fun typ src d => logOcc_notes typ src d s (.refl s)⟩
  case commands =>
    simp only [List.mem_cons, List.not_mem_nil, or_false] at hi
    obtain rfl | rfl | rfl := hi
    · exact execIdentify_answers r s
    · exact execGetFeatures_answers r s
    · exact execSaveFunctionState_answers r s

end Sys2Proof.Machine
end

section
/-! SUPPORT. Controllers and doorbells (R36 to R39, R49, R505, R509, R510, R588, R671, R913): each register write of a reached controller, and the
statement about them. -/

namespace Sys2Proof.Machine

section
variable {s : State} {f : Fin 1024}

/-! Enable, reset and shutdown (R36 to R39, R588, R913). -/

section
variable (hr : fnReach s f = true)
include hr

theorem execControllerEnable_of_disabled (cc aqa : BitVec 32) (asq acq : Word) (hen : (getCtrl s f).en = false) :
    execControllerEnable f cc aqa asq acq s = .next (ctrlEnable f cc.toNat aqa.toNat asq.toNat acq.toNat s) := by
  simp [execControllerEnable, hr, hen]

theorem execControllerReset_of_enabled (hen : (getCtrl s f).en = true) : execControllerReset f s = .next (controllerReset f s) := by
  simp [execControllerReset, hr, hen]

/-- A first notification of type 1 or 2 is processed in a Lit module, and is complete at once in any other. -/
theorem execShutdownNotification_first (n : BitVec 2) (hn : n = 1 ∨ n = 2) (hst : (getCtrl s f).shst = 0) :
    execShutdownNotification f n s = .next (setCtrl f { getCtrl s f with
      shn := n.toNat, shst := if s.mode.mode = .lit then 1 else 2, shut := decide (s.mode.mode = .lit) } s) := by
  have htype : n.toNat = 1 ∨ n.toNat = 2 := hn.imp (congrArg BitVec.toNat) (congrArg BitVec.toNat)
  simp [execShutdownNotification, ctrlNotify, hr, htype, hst]

end

/-! The end of shutdown processing (R39, R913). -/

/-- The end of closing begins the reset that waits for it. -/
theorem execShutdownProcessingDone_of_reset (hreset : s.kin.resetPending = true) (hperst : s.host.perst = false) :
    execShutdownProcessingDone f s = .next (releaseReset s) := by
  simp [execShutdownProcessingDone, hreset, hperst]

section
variable (hst : (getCtrl s f).shst = 1) (hlit : s.mode.mode = .lit) (hreset : s.kin.resetPending = true → s.host.perst = true)
include hst hlit hreset

/-- A VF whose only outstanding commands are event requests has shut down. -/
theorem execShutdownProcessingDone_of_vf (hf : f.val ≠ 0) (hidle : (cmdsOf s f).all isEventRequest = true) :
    execShutdownProcessingDone f s = .next (setCtrl f { getCtrl s f with shst := 2 } s) := by
  exact congrArg _ ((if_neg fun h => h.2 (hreset h.1)).trans ((if_neg (by simp [hst, hlit])).trans ((if_neg hf).trans (if_pos hidle))))

/-- The PF has shut down once the module has closed, which leaves the media clean. -/
theorem execShutdownProcessingDone_of_pf (hf : f.val = 0) (hclosed : isClosed s = true) :
    execShutdownProcessingDone f s =
      .next (setCtrl 0 { getCtrl s f with shst := 2 } { s with med := { s.med with clean := true } }) := by
  exact congrArg _ ((if_neg fun h => h.2 (hreset h.1)).trans ((if_neg (by simp [hst, hlit])).trans ((if_pos hf).trans (if_pos hclosed))))

end

/-! Doorbells (R509, R510, R671). -/

section
variable {y v : BitVec 16} (hr : fnReach s f = true) (hy : y.toNat ≤ doorbellLimit f)
include hr hy

theorem execSqTailDoorbell_of_reached : execSqTailDoorbell f y v s = .next (sqDoorbell f y.toNat v.toNat s) := by
  simp [execSqTailDoorbell, hr, hy]

theorem execCqHeadDoorbell_of_reached : execCqHeadDoorbell f y v s = .next (cqDoorbell f y.toNat v.toNat s) := by
  simp [execCqHeadDoorbell, hr, hy]

end

section
variable {fn y v : Nat}

theorem sqDoorbell_within {q : SubQ} (hq : Tbl.find (getCtrl s fn).sqs y = some q) (hv : v < q.size) :
    sqDoorbell fn y v s = setCtrl fn { getCtrl s fn with sqs := Tbl.insert (getCtrl s fn).sqs y { q with tail := v } } s := by
  simp [sqDoorbell, hq, hv]

theorem sqDoorbell_beyond {q : SubQ} (hq : Tbl.find (getCtrl s fn).sqs y = some q) (hv : q.size ≤ v) : sqDoorbell fn y v s = s := by
  simp [sqDoorbell, hq, hv.not_gt]

theorem sqDoorbell_of_none (hq : Tbl.find (getCtrl s fn).sqs y = none) : sqDoorbell fn y v s = addError fn y 0xFFFF stQid 0xFFFF 0 0 s := by
  simp [sqDoorbell, hq]

theorem cqDoorbell_within {q : ComplQ} (hq : Tbl.find (getCtrl s fn).cqs y = some q) (hv : v < q.size) :
    cqDoorbell fn y v s = setCtrl fn { getCtrl s fn with cqs := Tbl.insert (getCtrl s fn).cqs y { q with head := v } } s := by
  simp [cqDoorbell, hq, hv]

theorem cqDoorbell_beyond {q : ComplQ} (hq : Tbl.find (getCtrl s fn).cqs y = some q) (hv : q.size ≤ v) : cqDoorbell fn y v s = s := by
  simp [cqDoorbell, hq, hv.not_gt]

theorem cqDoorbell_of_none (hq : Tbl.find (getCtrl s fn).cqs y = none) : cqDoorbell fn y v s = addError fn y 0xFFFF stQid 0xFFFF 0 0 s := by
  simp [cqDoorbell, hq]

end

end

/-- Settles O24: each write of a reached controller's registers and each doorbell, in the branch that its hypotheses leave. -/
theorem controllersAndDoorbells : Obligations.ControllersAndDoorbells := by
  refine fun s f hr => ⟨?enable, ?reset, ?notification, ?vfDone, ?pfDone, ?resetBegins, fun y v hy => ⟨?sqWrite, ?sqNone, ?cqWrite, ?cqNone⟩⟩
  case enable => exact execControllerEnable_of_disabled hr
  case reset => exact execControllerReset_of_enabled hr
  case notification => exact execShutdownNotification_first hr
  case vfDone => exact execShutdownProcessingDone_of_vf
  case pfDone => exact execShutdownProcessingDone_of_pf
  case resetBegins => exact execShutdownProcessingDone_of_reset
  case sqWrite =>
    exact fun q hq => ⟨fun hv => (execSqTailDoorbell_of_reached hr hy).trans (congrArg _ (sqDoorbell_within hq hv)),
      fun hv => (execSqTailDoorbell_of_reached hr hy).trans (congrArg _ (sqDoorbell_beyond hq hv))⟩
  case sqNone => exact fun hq => (execSqTailDoorbell_of_reached hr hy).trans (congrArg _ (sqDoorbell_of_none hq))
  case cqWrite =>
    exact fun q hq => ⟨fun hv => (execCqHeadDoorbell_of_reached hr hy).trans (congrArg _ (cqDoorbell_within hq hv)),
      fun hv => (execCqHeadDoorbell_of_reached hr hy).trans (congrArg _ (cqDoorbell_beyond hq hv))⟩
  case cqNone => exact fun hq => (execCqHeadDoorbell_of_reached hr hy).trans (congrArg _ (cqDoorbell_of_none hq))

end Sys2Proof.Machine
end

section
/-! SUPPORT. I/O queues and Abort (R518, R520, R528, R581 to R585, R915): what each command does where nothing refuses it, how an Abort is answered,
and the statement about them. -/

namespace Sys2Proof.Machine

section
variable {s : State} {r : CmdRef} {c : OutCmd}

/-! Creation (R518, R520). -/

/-- A submission queue goes to a completion queue that exists. -/
theorem execCreateIoSq_creates (h : adminOf s r 0x01 = some c)
    (hgood : queueRefusal s c (Tbl.find (getCtrl s r.fn).sqs (c.sqe.cdw10 % 2 ^ 16)).isSome = none) (h0 : bitsOf c.sqe.cdw11 31 16 ≠ 0)
    (hle : bitsOf c.sqe.cdw11 31 16 ≤ (getCtrl s r.fn).vqNow)
    (hcq : (Tbl.find (getCtrl s r.fn).cqs (bitsOf c.sqe.cdw11 31 16)).isSome = true) :
    let x : SubQ := { size := bitsOf c.sqe.cdw10 31 16 + 1, cq := bitsOf c.sqe.cdw11 31 16, prio := bitsOf c.sqe.cdw11 2 1, base := c.sqe.prp1,
                      tail := 0, head := 0, deleting := none }
    execCreateIoSq r s = .next (failCmd c stOk
      (setCtrl r.fn { getCtrl s r.fn with sqs := Tbl.insert (getCtrl s r.fn).sqs (c.sqe.cdw10 % 2 ^ 16) x } s)) := by
  have hexists : (Tbl.find (getCtrl s r.fn).cqs (bitsOf c.sqe.cdw11 31 16)).isNone = false := Option.isNone_eq_false_iff.2 hcq
  simp only [execCreateIoSq, onAdmin_of_some h, hgood, h0, hle.not_gt, hexists, or_self, Bool.false_eq_true, if_false]

/-- A completion queue that interrupts has a vector of the function. -/
theorem execCreateIoCq_creates (h : adminOf s r 0x05 = some c)
    (hgood : queueRefusal s c (Tbl.find (getCtrl s r.fn).cqs (c.sqe.cdw10 % 2 ^ 16)).isSome = none)
    (hiv : bitOf c.sqe.cdw11 1 = true → bitsOf c.sqe.cdw11 31 16 < vectorsOf s r.fn) :
    let x : ComplQ := { size := bitsOf c.sqe.cdw10 31 16 + 1, base := c.sqe.prp1, vector := bitsOf c.sqe.cdw11 31 16,
                        ien := bitOf c.sqe.cdw11 1, head := 0, tail := 0, phase := true }
    execCreateIoCq r s = .next (failCmd c stOk
      (setCtrl r.fn { getCtrl s r.fn with cqs := Tbl.insert (getCtrl s r.fn).cqs (c.sqe.cdw10 % 2 ^ 16) x } s)) := by
  have hvector : ¬ (bitOf c.sqe.cdw11 1 ∧ vectorsOf s r.fn ≤ bitsOf c.sqe.cdw11 31 16) := fun hv => (hiv hv.1).not_ge hv.2
  simp only [execCreateIoCq, onAdmin_of_some h, hgood, if_neg hvector]

/-! Deletion (R528, R915). -/

theorem execDeleteIoCq_deletes (h : adminOf s r 0x04 = some c) (h0 : c.sqe.cdw10 % 2 ^ 16 ≠ 0)
    (hcq : (Tbl.find (getCtrl s r.fn).cqs (c.sqe.cdw10 % 2 ^ 16)).isSome = true)
    (huse : (getCtrl s r.fn).sqs.any (fun e => decide (e.1 ≠ 0 ∧ e.2.cq = c.sqe.cdw10 % 2 ^ 16)) = false) :
    execDeleteIoCq r s = .next (failCmd c stOk
      (setCtrl r.fn { getCtrl s r.fn with cqs := Tbl.erase (getCtrl s r.fn).cqs (c.sqe.cdw10 % 2 ^ 16) } s)) := by
  have hexists : (Tbl.find (getCtrl s r.fn).cqs (c.sqe.cdw10 % 2 ^ 16)).isNone = false := Option.isNone_eq_false_iff.2 hcq
  simp only [execDeleteIoCq, onAdmin_of_some h, h0, hexists, huse, or_self, Bool.false_eq_true, if_false]

/-- The deletion of a queue that has no outstanding command is noted, ends nothing and is settled. -/
theorem execDeleteIoSq_idle {x : SubQ} (h : adminOf s r 0x00 = some c) (h0 : c.sqe.cdw10 % 2 ^ 16 ≠ 0)
    (hsq : Tbl.find (getCtrl s r.fn).sqs (c.sqe.cdw10 % 2 ^ 16) = some x) (hdel : x.deleting = none)
    (hidle : ∀ o ∈ cmdsOf s r.fn, o.cmd.sq ≠ c.sqe.cdw10 % 2 ^ 16) :
    execDeleteIoSq r s = .next (settleSq r.fn (c.sqe.cdw10 % 2 ^ 16) (setCtrl r.fn { getCtrl s r.fn with
      sqs := Tbl.insert (getCtrl s r.fn).sqs (c.sqe.cdw10 % 2 ^ 16) { x with deleting := some r } } s)) := by
  have hnone (k : Ctrl) :
      (cmdsOf (setCtrl r.fn k s) r.fn).filter (fun o => o.cmd.sq = c.sqe.cdw10 % 2 ^ 16 ∧ ¬ o.committed) = [] :=
    List.filter_eq_nil_iff.2 fun o ho hsq => hidle o ho (of_decide_eq_true hsq).1
  simp only [execDeleteIoSq, onAdmin_of_some h, if_neg h0, hsq, hdel, Option.isSome_none, Bool.false_eq_true, if_false, hnone, List.foldl_nil]

/-! Abort (R581 to R585). -/

/-- Aborts outstanding before a command. -/
def abortsBefore (s : State) (r : CmdRef) : Nat :=
  ((s.host.out.takeWhile (fun x => x.cmd ≠ r)).filter (fun x => x.admin ∧ x.sqe.opc = 0x08)).length

/-- The command that an Abort names. -/
def abortTarget (r : CmdRef) (q : Sqe) : CmdRef := { fn := r.fn, sq := q.cdw10 % 2 ^ 16, cid := bitsOf q.cdw10 31 16 }

/-- What an Abort does about the command that it names. -/
def abortNamed (r : CmdRef) (s : State) : Option OutCmd → State
  | none => abortAnswer r false s
  | some x => if x.admin ∨ x.committed then abortAnswer r false s else endUncommitted x 0 stAborted (some r) s

section
variable (h : adminOf s r 0x08 = some c)
include h

theorem execAbort_limit (hfull : 16 ≤ abortsBefore s r) : execAbort r s = .next (failCmd c stAbortLimit s) := by
  rw [execAbort, onAdmin_of_some h]
  exact congrArg _ (if_pos hfull)

section
variable (hroom : abortsBefore s r < 16)
include hroom

theorem execAbort_of_room : execAbort r s = .next (abortNamed r s (findCmd s (abortTarget r c.sqe))) := by
  rw [execAbort, onAdmin_of_some h]
  exact congrArg _ (if_neg hroom.not_ge)

theorem execAbort_of_none (ht : findCmd s (abortTarget r c.sqe) = none) : execAbort r s = .next (completeCmd r stOk 1 0 [] s) := by
  rw [execAbort_of_room h hroom, ht]
  rfl

section
variable {x : OutCmd} (ht : findCmd s (abortTarget r c.sqe) = some x)
include ht

/-- An admin command, and one that is committed, is not aborted. -/
theorem execAbort_of_kept (hx : x.admin = true ∨ x.committed = true) : execAbort r s = .next (completeCmd r stOk 1 0 [] s) := by
  rw [execAbort_of_room h hroom, ht]
  exact congrArg _ (if_pos hx)

theorem execAbort_ends (hadmin : x.admin = false) (hcommitted : x.committed = false) :
    execAbort r s = .next (endUncommitted x 0 stAborted (some r) s) := by
  rw [execAbort_of_room h hroom, ht]
  exact congrArg _ (if_neg (by simp [hadmin, hcommitted]))

end

end

end

end

/-- Settles O26: each command on an I/O queue that nothing refuses, and each of the answers to an Abort. -/
theorem queuesAndAbort : Obligations.QueuesAndAbort := by
  refine fun s r c => ⟨?createSq, ?createCq, ?deleteCq, ?deleteSq, fun h => ⟨?limit, ?none, fun x hroom ht => ⟨?kept, ?ends⟩⟩⟩
  case createSq => exact execCreateIoSq_creates
  case createCq => exact execCreateIoCq_creates
  case deleteCq => exact execDeleteIoCq_deletes
  case deleteSq => exact fun x => execDeleteIoSq_idle
  case limit => exact execAbort_limit h
  case none => exact execAbort_of_none h
  case kept => exact execAbort_of_kept h hroom ht
  case ends => exact execAbort_ends h hroom ht

end Sys2Proof.Machine
end

section
/-! SUPPORT. Namespaces and virtualization (R516, R517, R523, R524, R527, R674): what each command does where nothing refuses it, Quiesce Required for
a function that runs, and the statement about them. -/

namespace Sys2Proof.Machine

section
variable {s : State} {r : CmdRef} {c : OutCmd}

/-! Namespace Management (R523, R527). -/

section
variable (h : adminOf s r 0x0D = some c) (hw : awaits s r = false)
include h hw

/-- A create that nothing refuses takes the lowest free identifier. -/
theorem execNamespaceManagement_creates {nsid : Nat} (hsel : c.sqe.cdw10 % 16 = 0)
    (hgood : createRefusal s c.sqe.data (bitsOf c.sqe.cdw11 31 24) = none) (hfree : lowestNs s = some nsid) :
    execNamespaceManagement r s =
      .next (nsOrder r 0 nsid (nsNums (createInfo c.sqe.data)) (addNs nsid (createInfo c.sqe.data) s)) := by
  rw [execNamespaceManagement, onAdmin_of_some h, hgood, hfree]
  exact congrArg _ ((if_neg (ne_true_of_eq_false hw)).trans ((if_neg (by omega)).trans (if_neg (not_not.2 hsel))))

theorem execNamespaceManagement_deletes (hsel : c.sqe.cdw10 % 16 = 1) (hstall : s.med.jrnStall = false) :
    execNamespaceManagement r s = .next (nsDelete c s) := by
  rw [execNamespaceManagement, onAdmin_of_some h]
  exact congrArg _ ((if_neg (ne_true_of_eq_false hw)).trans ((if_pos hsel).trans (if_neg (ne_true_of_eq_false hstall))))

end

/-- A namespace that exists and is not being formatted is deleted alone. -/
theorem nsDelete_one (h0 : c.sqe.nsid ≠ 0) (hle : c.sqe.nsid ≤ 1024) (hns : (nsInfo s c.sqe.nsid).isSome = true)
    (hrun : s.host.stoppedNs.contains c.sqe.nsid = false) :
    nsDelete c s = nsOrder c.cmd 1 c.sqe.nsid [c.sqe.nsid] (deleteNs c.sqe.nsid s) := by
  have hone : c.sqe.nsid ≠ 0xFFFFFFFF := by omega
  have hexists : (nsInfo s c.sqe.nsid).isNone = false := Option.isNone_eq_false_iff.2 hns
  have hfree : c.sqe.nsid ∉ s.host.stoppedNs := by simpa using hrun
  simp [nsDelete, hone, h0, hle.not_gt, hexists, hfree]

/-! Namespace Attachment (R524). -/

section
variable {l : List Nat} (h : adminOf s r 0x15 = some c) (hw : awaits s r = false) (hns : nsExists s c.sqe.nsid = true)
  (hl : ctrlList c.sqe.data = some l) (hctrls : l.all (ctrlExists s) = true)
  (hown : 1026 ≤ c.sqe.nsid → l.all (fun x => decide (x / 1024 = c.sqe.nsid - 1026)) = true)
include h hw hns hl hctrls hown

/-- Controllers that exist are attached where none of them is attached yet, and a namespace that is not shared takes no second one. -/
theorem execNamespaceAttachment_attaches (hsel : c.sqe.cdw10 % 16 = 0)
    (hnew : l.any (fun x => (Tbl.get [] s.host.attached c.sqe.nsid).contains x) = false)
    (hroom : isPrivate s c.sqe.nsid = true → (Tbl.get [] s.host.attached c.sqe.nsid).length + l.length ≤ 1) :
    execNamespaceAttachment r s = .next (nsOrder r 2 c.sqe.nsid l (attachNs c.sqe.nsid true l s)) := by
  rw [execNamespaceAttachment, onAdmin_of_some h, hl, hsel]
  exact congrArg _ <| (if_neg (ne_true_of_eq_false hw)).trans <| (if_neg (by decide)).trans <| (if_neg (not_not.2 hns)).trans <|
    (if_neg (not_not.2 hctrls)).trans <| (if_neg fun hx => hx.2 (hown hx.1)).trans <| (if_neg fun hx => ne_true_of_eq_false hnew hx.2).trans <|
    (if_neg fun hx => absurd hx.1 (by decide)).trans <| if_neg fun hx => (hroom hx.2.1).not_gt hx.2.2

/-- Controllers are detached where each of them is attached. -/
theorem execNamespaceAttachment_detaches (hsel : c.sqe.cdw10 % 16 = 1)
    (hold : l.all (fun x => (Tbl.get [] s.host.attached c.sqe.nsid).contains x) = true) :
    execNamespaceAttachment r s = .next (nsOrder r 3 c.sqe.nsid l (attachNs c.sqe.nsid false l s)) := by
  rw [execNamespaceAttachment, onAdmin_of_some h, hl, hsel]
  exact congrArg _ <| (if_neg (ne_true_of_eq_false hw)).trans <| (if_neg (by decide)).trans <| (if_neg (not_not.2 hns)).trans <|
    (if_neg (not_not.2 hctrls)).trans <| (if_neg fun hx => hx.2 (hown hx.1)).trans <| (if_neg fun hx => absurd hx.1 (by decide)).trans <|
    (if_neg fun hx => hx.2 hold).trans <| if_neg fun hx => absurd hx.1 (by decide)

end

/-! Virtualization Management (R516, R517, R674). -/

section
variable (h : adminOf s r 0x1C = some c) (hpf : r.fn = 0)
include h hpf

theorem execVirtualizationManagement_primary (hact : c.sqe.cdw10 % 16 = 1) (hid : bitsOf c.sqe.cdw10 31 16 = cntlid s 0) :
    execVirtualizationManagement r s = .next (assignRes c 0 (bitsOf c.sqe.cdw10 10 8) (c.sqe.cdw11 % 2 ^ 16) s) := by
  rw [execVirtualizationManagement, onAdmin_of_some h]
  exact congrArg _ <| (if_neg (by omega)).trans <| (if_neg (by omega)).trans <| (if_pos hact).trans (if_pos hid)

section
variable {f : Nat} (hf : secondaryOf s (bitsOf c.sqe.cdw10 31 16) = some f)
include hf

section
variable (hoff : Tbl.get false s.host.online f = false)
include hoff

/-- An Offline secondary controller is assigned resources. -/
theorem execVirtualizationManagement_assigns (hact : c.sqe.cdw10 % 16 = 8) :
    execVirtualizationManagement r s = .next (assignRes c f (bitsOf c.sqe.cdw10 10 8) (c.sqe.cdw11 % 2 ^ 16) s) := by
  simp [execVirtualizationManagement, onAdmin_of_some h, hf, hpf, hact, hoff]

/-- An Offline secondary controller of an enabled VF with a resource of each kind goes Online. -/
theorem execVirtualizationManagement_online (hact : c.sqe.cdw10 % 16 = 9) (hvf : vfEnabled s f = true) (hvq : 1 ≤ Tbl.get 0 s.host.vq f)
    (hvi : 1 ≤ Tbl.get 0 s.host.vi f) :
    execVirtualizationManagement r s =
      .next (failCmd c stOk { s with host := { s.host with online := Tbl.put false s.host.online f true } }) := by
  simp [execVirtualizationManagement, onAdmin_of_some h, hf, hpf, hact, hoff, hvf, hvq, hvi]

end

section
variable (hact : c.sqe.cdw10 % 16 = 7) (hon : Tbl.get false s.host.online f = true)
include hact hon

/-- An Online secondary controller of a function that is Quiesced or Frozen goes Offline, as at its reset. -/
theorem execSecondaryOffline_offline (hq : fnMode s f = .quiesced ∨ fnMode s f = .frozen) :
    let u := controllerReset f s
    execSecondaryOffline r s = .next (failCmd c stOk { u with host := { u.host with online := Tbl.put false u.host.online f false } }) := by
  simp [execSecondaryOffline, onAdmin_of_some h, hf, hpf, hact, hon, hq]

/-- An Online secondary controller of a function that runs stays Online. -/
theorem execSecondaryOffline_running (hm : fnMode s f = .running) : execSecondaryOffline r s = .next (failCmd c stQuiesce s) := by
  simp [execSecondaryOffline, onAdmin_of_some h, hf, hpf, hact, hon, hm]

end

end

end

end

/-- Settles O30: each command on namespaces and functions that its checks pass, and Quiesce Required. -/
theorem namespacesAndVirtualization : Obligations.NamespacesAndVirtualization := by
  refine fun s r c => ⟨fun h hw => ⟨?creates, ?deletes⟩, fun l h hw hns hl hctrls hown => ⟨?attaches, ?detaches⟩,
    fun h hpf => ⟨?primary, fun f hf => ⟨?assigns, ?online, ?offline, ?running⟩⟩⟩
  case creates => exact fun nsid => execNamespaceManagement_creates h hw
  case deletes =>
    exact fun hsel hstall h0 hle hns hrun =>
      (execNamespaceManagement_deletes h hw hsel hstall).trans (congrArg _ (nsDelete_one h0 hle hns hrun))
  case attaches => exact execNamespaceAttachment_attaches h hw hns hl hctrls hown
  case detaches => exact execNamespaceAttachment_detaches h hw hns hl hctrls hown
  case primary => exact execVirtualizationManagement_primary h hpf
  case assigns => exact fun hact hoff => execVirtualizationManagement_assigns h hpf hf hoff hact
  case online => exact fun hact hoff => execVirtualizationManagement_online h hpf hf hoff hact
  case offline => exact execSecondaryOffline_offline h hpf hf
  case running => exact execSecondaryOffline_running h hpf hf

end Sys2Proof.Machine
end

section
/-! SUPPORT. Firmware (R521, R845, R848, R860 to R865): a piece joins the download, a commit that its checks pass begins, what becomes of the slot that
was written, the steps of a roll, and the statement about them. -/

namespace Sys2Proof.Machine

section
variable {s : State} {r : CmdRef} {c : OutCmd}

/-! Download (R521, R845). -/

theorem execFirmwareImageDownload_joins (h : adminOf s r 0x11 = some c) (hal : 4 * (c.sqe.cdw11 % 2 ^ 32) % 4096 = 0)
    (hfits : 4 * (c.sqe.cdw11 % 2 ^ 32) + 4 * (c.sqe.cdw10 % 2 ^ 32 + 1) ≤ 33554432) :
    let off := 4 * (c.sqe.cdw11 % 2 ^ 32)
    let len := 4 * (c.sqe.cdw10 % 2 ^ 32 + 1)
    execFirmwareImageDownload r s = .next (failCmd c stOk { s with kin := { s.kin with
      download := Memory.writeBytes s.kin.download off (fitBytes len c.sqe.data), pieces := s.kin.pieces ++ [(off, len)] } }) := by
  rw [execFirmwareImageDownload, onAdmin_of_some h]
  exact congrArg _ (if_neg (by omega))

/-! Commit (R860 to R863). -/

/-- A commit that has not begun its work: the slot and the image that it has so far, none while it waits. -/
def commitOf (r : CmdRef) (n a : Nat) (img : List Byte) : CommitOp := { cmd := r, slot := n, action := a, image := img, phase := 5, wing := 0 }

@[simp] theorem findCmd_kin (k : KinState) (s : State) (r : CmdRef) : findCmd { s with kin := k } r = findCmd s r := rfl

/-- While no commit runs, the first that waits begins. -/
theorem commitKick_waiting (o : CommitOp) (rest : List CommitOp) (hidle : s.kin.commit = none) (hfind : findCmd s o.cmd = some c) :
    commitKick { s with kin := { s.kin with commitWait := o :: rest } } =
      commitBegin o.cmd c.sqe { s with kin := { s.kin with commitWait := rest } } := by
  simp only [commitKick, hidle, findCmd_kin, hfind]

/-- A commit that is the only one begins at its admission. -/
theorem onCommit_alone {a : Nat} (h : adminOf s r 0x10 = some c) (hidle : s.kin.commit = none) (hwait : s.kin.commitWait = [])
    (ha : bitsOf c.sqe.cdw10 5 3 = a) :
    onCommit r (fun x => x == a) s = commitBegin r c.sqe { s with kin := { s.kin with commitWait := [] } } := by
  have hadmit : onCommit r (fun x => x == a) s = commitKick { s with kin := { s.kin with commitWait := [commitOf r 0 a []] } } := by
    simp [onCommit, onAdmin_of_some h, ha, hidle, hwait, commitOf]
  exact hadmit.trans (commitKick_waiting (commitOf r 0 _ []) [] hidle (findCmd_of_adminOf h))

/-- Where its slot and image pass checks 1 to 3, a lone module's commit goes on to its work. -/
theorem commitBegin_lone {q : Sqe} {n : Nat} {img : List Byte} (hlone : inCaravan s = false)
    (hslot : commitSlot s (bitsOf q.cdw10 5 3) (q.cdw10 % 8) = some n) (hrun : bitsOf q.cdw10 5 3 ≤ 1 → n ≠ s.kin.running)
    (himg : (if bitsOf q.cdw10 5 3 ≤ 1 then downloaded s else Tbl.find s.kin.images n) = some img)
    (hcheck : causeStatus s (bitsOf q.cdw10 5 3) (imgCause s (some img) false) = none) :
    commitBegin r q s = commitGo (commitOf r n (bitsOf q.cdw10 5 3) img) s := by
  have hfree : ¬ (bitsOf q.cdw10 5 3 ≤ 1 ∧ n = s.kin.running) := fun hx => hrun hx.1 hx.2
  simp only [commitBegin, hslot, if_neg hfree, himg, hcheck, hlone, Bool.false_eq_true, not_false_eq_true, or_true, if_true, Option.getD_some]
  rfl

theorem commitGo_writes {o : CommitOp} (ha : o.action ≠ 3) :
    commitGo o s = { s with kin := { s.kin with commit := some { o with phase := 0 } } } :=
  if_pos ha

/-- A roll whose image may run beside the running one withdraws wing 0 (R863). -/
theorem commitGo_rolls {o : CommitOp} (ha : o.action = 3) (hbeside : (imgCohabs o.image).contains (imgVersion s.kin.image) = true)
    (hwings : s.mode.wingOut = 0) (hlit : s.mode.mode = .lit) :
    commitGo o s = rollWing 0 (putBoot (fun b => { b with rollPhase := 1, rollWing := 0 })
      { s with kin := { s.kin with commit := some { o with phase := 2, wing := 0 } } }) := by
  rw [commitGo, if_neg (not_not.2 ha), if_neg (not_not.2 hbeside), if_neg (not_not.2 hwings), if_neg (by simp [hlit]), if_neg (not_not.2 hlit)]

/-- The row of action 000b, which also answers the actions that do not exist, adds nothing to the commit that it admits. -/
theorem execFirmwareCommitReplace_of_replace {k : KinState} (h : adminOf s r 0x10 = some c) (ha : bitsOf c.sqe.cdw10 5 3 = 0)
    (hadmit : onCommit r (fun a => a == 0) s = { s with kin := k }) : execFirmwareCommitReplace r s = .next { s with kin := k } := by
  have hk : adminOf { s with kin := k } r 0x10 = some c := h
  rw [execFirmwareCommitReplace, hadmit, onAdmin_of_some hk, if_neg (by omega)]

/-- The rows of Firmware Commit: one for each action. -/
def CommitRowOf (r : CmdRef) (a : Nat) (i : Instr) : Prop :=
  (a, i) ∈ [(0, Instr.firmwareCommitReplace r), (1, .firmwareCommitNextReset r), (2, .firmwareCommitActivate r), (3, .firmwareCommitRoll r)]

section
variable {n : Nat} {img : List Byte} {i : Instr} (h : adminOf s r 0x10 = some c) (hidle : s.kin.commit = none) (hwait : s.kin.commitWait = [])
  (hlone : inCaravan s = false) (hslot : commitSlot s (bitsOf c.sqe.cdw10 5 3) (c.sqe.cdw10 % 8) = some n)
  (hi : CommitRowOf r (bitsOf c.sqe.cdw10 5 3) i) (hrun : bitsOf c.sqe.cdw10 5 3 ≤ 1 → n ≠ s.kin.running)
  (himg : (if bitsOf c.sqe.cdw10 5 3 ≤ 1 then downloaded s else Tbl.find s.kin.images n) = some img)
  (hcheck : causeStatus s (bitsOf c.sqe.cdw10 5 3) (imgCause s (some img) false) = none)
include h hidle hwait hlone hslot hrun himg hcheck

/-- A commit of a lone module that is the only one and passes its checks goes on to its work at its admission. -/
theorem onCommit_lone {a : Nat} (ha : bitsOf c.sqe.cdw10 5 3 = a) :
    onCommit r (fun x => x == a) s = commitGo (commitOf r n (bitsOf c.sqe.cdw10 5 3) img) { s with kin := { s.kin with commitWait := [] } } :=
  (onCommit_alone h hidle hwait ha).trans (commitBegin_lone hlone hslot hrun himg hcheck)

include hi

/-- Every action but the roll waits for the slot to be written. -/
theorem exec_commitRow_writes (ha : bitsOf c.sqe.cdw10 5 3 ≠ 3) :
    exec i s = .next { s with kin := { s.kin with
      commitWait := [], commit := some { commitOf r n (bitsOf c.sqe.cdw10 5 3) img with phase := 0 } } } := by
  have admits {a : Nat} (h1 : bitsOf c.sqe.cdw10 5 3 = a) :=
    (onCommit_lone h hidle hwait hlone hslot hrun himg hcheck h1).trans (commitGo_writes ha)
  simp only [CommitRowOf, List.mem_cons, Prod.mk.injEq, List.not_mem_nil, or_false] at hi
  obtain ⟨ha0, rfl⟩ | ⟨ha1, rfl⟩ | ⟨ha2, rfl⟩ | ⟨ha3, rfl⟩ := hi
  · exact execFirmwareCommitReplace_of_replace h ha0 (admits ha0)
  · exact congrArg _ (admits ha1)
  · exact congrArg _ (admits ha2)
  · exact absurd ha3 ha

/-- A roll withdraws wing 0. -/
theorem exec_commitRow_rolls (ha : bitsOf c.sqe.cdw10 5 3 = 3) (hbeside : (imgCohabs img).contains (imgVersion s.kin.image) = true)
    (hwings : s.mode.wingOut = 0) (hlit : s.mode.mode = .lit) :
    exec i s = .next (rollWing 0 (putBoot (fun b => { b with rollPhase := 1, rollWing := 0 })
      { s with kin := { s.kin with
        commitWait := [], commit := some { commitOf r n (bitsOf c.sqe.cdw10 5 3) img with phase := 2, wing := 0 } } })) := by
  obtain rfl : i = .firmwareCommitRoll r := by simpa [CommitRowOf, ha] using hi
  show execFirmwareCommitRoll r s = _
  rw [execFirmwareCommitRoll, onCommit_lone h hidle hwait hlone hslot hrun himg hcheck ha]
  exact congrArg Host.Outcome.next (commitGo_rolls (o := commitOf r n (bitsOf c.sqe.cdw10 5 3) img) ha hbeside hwings hlit)

end

end

/-! The slot written and read back (R848, R862). -/

section
variable {s : State} {o : CommitOp} (ho : s.kin.commit = some o) (hm : s.mode.mode ≠ .dark) (hp : o.phase = 0)
include ho hm hp

/-- The slot of a commit holds its image, as it was read back. -/
def slotWritten (o : CommitOp) (bad : Bool) (s : State) : State :=
  { s with kin := { s.kin with
    images := Tbl.insert s.kin.images o.slot o.image, slots := Tbl.put SlotView.empty s.kin.slots o.slot (slotView s (some o.image) bad) } }

theorem execFirmwareSlotWritten_replaced (ha : o.action = 0) :
    execFirmwareSlotWritten true s = .next (commitKick (commitEnd o stOk (slotWritten o false s))) := by
  simp [execFirmwareSlotWritten, ho, hm, hp, ha, slotWritten]

theorem execFirmwareSlotWritten_next (ha : o.action = 1) :
    execFirmwareSlotWritten true s =
      .next (commitKick (commitEnd o stOk (putBoot (fun b => { b with next := o.slot }) (slotWritten o false s)))) := by
  simp [execFirmwareSlotWritten, ho, hm, hp, ha, slotWritten]

/-- Activation writes no slot. -/
theorem execFirmwareSlotWritten_activated (ha : o.action = 2) :
    execFirmwareSlotWritten true s = .next (commitKick (commitEnd o stOk (putBoot (fun b => { b with next := o.slot }) s))) := by
  simp [execFirmwareSlotWritten, ho, hm, hp, ha]

theorem execFirmwareSlotWritten_failed (ha : o.action ≤ 1) :
    execFirmwareSlotWritten false s = .next (commitKick (commitEnd o stFwImage (slotWritten o true s))) := by
  have h2 : o.action ≠ 2 := by omega
  have h3 : o.action ≠ 3 := by omega
  simp [execFirmwareSlotWritten, ho, hm, hp, h2, h3, slotWritten]

end

/-! The roll (R863 to R865). -/

section
variable {s : State} {o : CommitOp} (ho : s.kin.commit = some o) (hlit : s.mode.mode = .lit) (ha : o.action = 3) (hf : s.med.flush = none)
include ho hlit ha hf

theorem execRollWingDone_hub (hp : o.phase = 3) : execRollWingDone s = .next (rollDone o s) := by
  simp [execRollWingDone, ho, hlit, ha, hf, hp]

/-- The wing that is out has returned on the new image. -/
def wingRolled (o : CommitOp) (s : State) : State :=
  putBoot (fun b => { b with rollPhase := 1, rollWing := o.wing }) (returnWing o.wing { s with kin := { s.kin with
    returning := none, wingVersion := Tbl.insert s.kin.wingVersion o.wing (imgVersion o.image) } })

section
variable {x : ReturnOp} (hp : o.phase = 2) (hx : s.kin.returning = some x) (hw : x.wing = o.wing)
include hp hx hw

/-- The next wing is withdrawn. -/
theorem execRollWingDone_wing (h7 : o.wing ≠ 7) :
    let t := wingRolled o s
    execRollWingDone s = .next (rollWing (o.wing + 1) { t with kin := { t.kin with commit := some { o with wing := o.wing + 1 } } }) := by
  simp [execRollWingDone, ho, hlit, ha, hf, hp, hx, hw, h7, wingRolled]

/-- After wing 7 the hub switches. -/
theorem execRollWingDone_lastWing (h7 : o.wing = 7) :
    let t := wingRolled o s
    execRollWingDone s = .next { t with kin := { t.kin with commit := some { o with phase := 3 } } } := by
  simp [execRollWingDone, ho, hlit, ha, hf, hp, hx, hw, h7, wingRolled]

end

end

/-- Settles O31: a piece of the download, a commit that passes its checks, a written slot, and the steps of a roll. -/
theorem firmwareIsDownloadedCommittedAndRolled : Obligations.FirmwareIsDownloadedCommittedAndRolled := by
  refine fun s r c => ⟨?download, fun n img i h hidle hwait hlone hslot hi hrun himg hcheck => ⟨?begins, ?rolls⟩,
    fun o ho hm hp => ⟨?replaced, ?next, ?activated, ?failed⟩, fun o ho hlit ha hf => ⟨?hub, fun x hp hx hw => ⟨?wing, ?lastWing⟩⟩⟩
  case download => exact execFirmwareImageDownload_joins
  case begins => exact exec_commitRow_writes h hidle hwait hlone hslot hi hrun himg hcheck
  case rolls => exact exec_commitRow_rolls h hidle hwait hlone hslot hi hrun himg hcheck
  case replaced => exact execFirmwareSlotWritten_replaced ho hm hp
  case next => exact execFirmwareSlotWritten_next ho hm hp
  case activated => exact execFirmwareSlotWritten_activated ho hm hp
  case failed => exact execFirmwareSlotWritten_failed ho hm hp
  case hub => exact execRollWingDone_hub ho hlit ha hf
  case wing => exact execRollWingDone_wing ho hlit ha hf hp hx hw
  case lastWing => exact execRollWingDone_lastWing ho hlit ha hf hp hx hw

end Sys2Proof.Machine
end

section
/-! SUPPORT. The other Lit members are read from the caravan's part of the state. Ending tasks, threads and commands leaves that part alone but for
the messages that leave, so that a sanitize begins (R595) with the same members Lit as before it. -/

namespace Sys2Proof.Machine

/-- The other Lit members, from the caravan's part of the state. -/
def otherLitOf (t : RteState) : List Nat := otherLit { State.reset with rte := t }

theorem otherLit_eq_otherLitOf (s : State) : otherLit s = otherLitOf s.rte := rfl

section
variable (s : State)

/-! Notes, counters and answers. -/

@[simp] theorem raise_rte (i : Nat) : (raise i s).rte = s.rte := by
  obtain ⟨-, -, -, -, -, -, -, -, -, -, -, hrte, -⟩ := raise_notes i s (.refl s)
  exact hrte

@[simp] theorem count_rte (slot n : Nat) : (count slot n s).rte = s.rte := by
  obtain ⟨-, -, -, -, -, -, -, -, -, -, hrte, -⟩ := count_answers slot n s (.refl s)
  exact hrte

@[simp] theorem completeCmd_rte (r : CmdRef) (st : Status) (dw0 dw1 : Nat) (data : List Byte) :
    (completeCmd r st dw0 dw1 data s).rte = s.rte := by
  obtain ⟨-, -, -, -, -, -, -, -, -, -, hrte, -⟩ := completeCmd_answers r st dw0 dw1 data s (.refl s)
  exact hrte

theorem foldl_rte {α : Type} {f : State → α → State} (hf : ∀ s x, (f s x).rte = s.rte) (l : List α) : (l.foldl f s).rte = s.rte :=
  List.foldlRecOn l f (motive := fun t => t.rte = s.rte) rfl fun t ht x _ => (hf t x).trans ht

/-! Tasks leave their cores. -/

@[simp] theorem cntFnAdd_rte (f j n : Nat) : (cntFnAdd f j n s).rte = s.rte := rfl
@[simp] theorem unready_rte (w key : Nat) : (unready w key s).rte = s.rte := rfl
@[simp] theorem dropPages_rte (key : Nat) : (dropPages key s).rte = s.rte := rfl

@[simp] theorem switchSamples_rte (k : Nat) : (switchSamples k s).rte = s.rte := by
  unfold switchSamples
  dsimp only
  split <;> rfl

@[simp] theorem switchOut_rte (k : Nat) : (switchOut k s).rte = s.rte := by
  unfold switchOut
  dsimp only
  split
  · rfl
  · split <;> simp

@[simp] theorem updTask_rte (key : Nat) (f : Task → Task) : (updTask key f s).rte = s.rte := by
  unfold updTask
  split <;> rfl

@[simp] theorem stage_rte (k key : Nat) : (stage k key s).rte = s.rte := by
  unfold stage
  dsimp only
  split <;> simp

@[simp] theorem refill_rte (w i : Nat) : (refill w i s).rte = s.rte := by
  unfold refill
  split
  · rfl
  · split <;> simp

@[simp] theorem putSample_rte (k j handle pc : Nat) : (putSample k j handle pc s).rte = s.rte := by
  unfold putSample
  dsimp only
  split <;> simp

@[simp] theorem cntCoreAt_rte (k j n handle pc : Nat) : (cntCoreAt k j n handle pc s).rte = s.rte := by
  unfold cntCoreAt
  dsimp only
  split <;> simp [cntCore]

@[simp] theorem switchIn_rte (k : Nat) : (switchIn k s).rte = s.rte := by
  unfold switchIn
  dsimp only
  split
  · split
    · rfl
    · simp only [refill_rte, cntCoreAt_rte, setWing_rte, unready_rte, setCore_rte, setTask_rte]
      split
      · split <;> rfl
      · rfl
  · rfl

@[simp] theorem runNext_rte (k : Nat) : (runNext k s).rte = s.rte := by
  unfold runNext
  dsimp only
  split <;> simp

@[simp] theorem endTask_rte (key : Nat) : (endTask key s).rte = s.rte := by
  unfold endTask
  split
  · rfl
  · simp [apply_ite State.rte]

/-! Memory, and the engines that a task held. -/

@[simp] theorem writePage_rte (w p : Nat) : (writePage w p s).rte = s.rte := by
  obtain ⟨d, hd⟩ := writePage_drmOnly w p s
  rw [hd]

@[simp] theorem slmWrite_rte (off : Nat) (bs : List Byte) : (slmWrite off bs s).rte = s.rte := by
  obtain ⟨d, m, heq⟩ := slmWrite_eq off bs s
  rw [heq]

@[simp] theorem stagingWrite_rte (pool off : Nat) (b : List Byte) : (stagingWrite pool off b s).rte = s.rte :=
  foldl_rte _ (fun _ _ => writePage_rte _ _ _) _

@[simp] theorem writeSpace_rte (key a : Nat) (bs : List Byte) : (writeSpace key a bs s).rte = s.rte := by
  unfold writeSpace
  split <;> simp

@[simp] theorem ctxWrite_rte (ctx a : Nat) (bs : List Byte) : (ctxWrite ctx a bs s).rte = s.rte := by
  unfold ctxWrite
  split <;> simp

@[simp] theorem sealAbortOp_rte : (sealAbortOp s).rte = s.rte := by
  unfold sealAbortOp
  split
  · simp [apply_ite State.rte, zeroOut]
  · rfl

@[simp] theorem sealRelease_rte : (sealRelease s).rte = s.rte := sealAbortOp_rte s

@[simp] theorem engineTaskEnd_rte (key : Nat) : (engineTaskEnd key s).rte = s.rte := by
  simp [engineTaskEnd, apply_ite State.rte, digFree]

@[simp] theorem retireTask_rte (key : Nat) : (retireTask key s).rte = s.rte := by
  simp [retireTask, jobTaskEnd]

/-! Legs and threads end. -/

@[simp] theorem clearPages_rte (w : Nat) (gone : Nat → Bool) : (clearPages w gone s).rte = s.rte := by
  unfold clearPages
  dsimp only
  split <;> rfl

@[simp] theorem freeStaging_rte (rest : List RunLeg) (l : RunLeg) : (freeStaging rest l s).rte = s.rte := clearPages_rte _ _ _

@[simp] theorem legRemove_rte (l : RunLeg) : (legRemove l s).rte = s.rte := by
  have htasks := foldl_rte s (fun s k => retireTask_rte s k) (legTasks s l)
  simp [legRemove, apply_ite State.rte, htasks]

@[simp] theorem wbCancel_discard_rte (handle : Nat) : (wbCancel handle true s).rte = s.rte := by
  unfold wbCancel
  split
  · rfl
  · exact foldl_rte _ (fun s l => legRemove_rte s l) _

@[simp] theorem endThread_rte (key : Nat) (st : Status) (dw0 dw1 : Nat) : (endThread key st dw0 dw1 s).rte = s.rte := by
  have hcancel := foldl_rte s (fun s (w : Waybill) => wbCancel_discard_rte s w.handle) (wbOf s key)
  unfold endThread
  split
  · rfl
  · split <;> simp [hcancel]

/-! Messages leave. -/

@[simp] theorem otherLitOf_send (dest : Nat) (kind : MsgKind) (nums : List Nat) (bytes : List Byte) (gs : List (GrainId × GrainImg)) :
    otherLitOf (send dest kind nums bytes gs s).rte = otherLitOf s.rte := rfl

@[simp] theorem otherLitOf_sendParts (dest : Nat) (kind : MsgKind) (nums : List Nat) (bytes : List Byte) :
    otherLitOf (sendParts dest kind nums bytes s).rte = otherLitOf s.rte := by
  unfold sendParts
  split <;> rfl

@[simp] theorem otherLitOf_releaseRouted : otherLitOf (releaseRouted s).rte = otherLitOf s.rte := by
  unfold releaseRouted
  split <;> rfl

theorem otherLitOf_foldl {α : Type} {f : State → α → State} (hf : ∀ s x, otherLitOf (f s x).rte = otherLitOf s.rte) (l : List α) :
    otherLitOf (l.foldl f s).rte = otherLitOf s.rte :=
  List.foldlRecOn l f (motive := fun t => otherLitOf t.rte = otherLitOf s.rte) rfl fun t ht x _ => (hf t x).trans ht

/-! Parts are dropped, admitted and passed on. -/

@[simp] theorem dropLock_rte (r : PartRef) : (dropLock r s).rte = s.rte := by
  unfold dropLock
  split <;> rfl

@[simp] theorem otherLitOf_dropMirrors (gs : List GrainId) : otherLitOf (dropMirrors gs s).rte = otherLitOf s.rte := by
  unfold dropMirrors
  split <;> simp

@[simp] theorem otherLitOf_mirrorsBack (r : PartRef) : otherLitOf (mirrorsBack r s).rte = otherLitOf s.rte := by
  unfold mirrorsBack
  dsimp only
  split
  · rfl
  · split <;> simp

@[simp] theorem otherLitOf_dropPart (r : PartRef) : otherLitOf (dropPart r s).rte = otherLitOf s.rte := otherLitOf_mirrorsBack s r

@[simp] theorem updPart_rte (r : PartRef) (f : Part → Part) : (updPart r f s).rte = s.rte := by
  unfold updPart
  split <;> rfl

@[simp] theorem admitPart_rte (r : PartRef) (write : Bool) : (admitPart r write s).rte = s.rte := by
  unfold admitPart
  split
  · rfl
  · simp [takeLock]

@[simp] theorem otherLitOf_askPlacement (nsid bale : Nat) : otherLitOf (askPlacement nsid bale s).rte = otherLitOf s.rte := by
  unfold askPlacement
  split <;> rfl

@[simp] theorem otherLitOf_passOn (f : ForeignPart) (owner : Nat) : otherLitOf (passOn f owner s).rte = otherLitOf s.rte := by
  unfold passOn
  dsimp only
  split
  · rfl
  · split <;> simp

@[simp] theorem otherLitOf_admitForeign1 (f : ForeignPart) : otherLitOf (admitForeign1 s f).rte = otherLitOf s.rte := by
  unfold admitForeign1
  dsimp only
  split
  · split <;> simp
  · split <;> simp [updForeign]

@[simp] theorem otherLitOf_admitForeign : otherLitOf (admitForeign s).rte = otherLitOf s.rte := by
  refine otherLitOf_foldl s (fun t f => ?_) _
  split <;> simp

@[simp] theorem otherLitOf_endCmd (r : CmdRef) (st : Status) : otherLitOf (endCmd r st s).rte = otherLitOf s.rte := by
  unfold endCmd
  split
  · rfl
  next c _ =>
    have hparts := otherLitOf_foldl s (f := fun s (p : Part) =>
      dropLock { station := ownStation s, cmd := r, index := p.index } (dropPart { station := ownStation s, cmd := r, index := p.index } s))
      (fun t p => by simp) c.parts
    simp [hparts]

/-! A sanitize begins (R595). -/

@[simp] theorem progWrite_rte (kind action phase nsid start blocks : Nat) : (progWrite kind action phase nsid start blocks s).rte = s.rte := by
  unfold progWrite
  dsimp only
  split <;> rfl

theorem otherLitOf_sanitizeStop : otherLitOf (sanitizeStop s).rte = otherLitOf s.rte := by
  refine (otherLitOf_foldl _ (fun t f => ?_) _).trans (otherLitOf_foldl s (fun t c => ?_) _)
  · split
    · rfl
    · simp [returnPart]
  · split <;> simp

/-- The same members are Lit once a sanitize has begun. -/
theorem otherLit_sanitizeBegin (action seq : Nat) : otherLit (sanitizeBegin action seq s) = otherLit s := by
  rw [otherLit_eq_otherLitOf, sanitizeBegin, otherLitOf_sanitizeStop, progWrite_rte, otherLit_eq_otherLitOf]

end

end Sys2Proof.Machine
end

section
/-! SUPPORT. NVMe-MI in band (R552), Format NVM (R589, R590) and Sanitize (R593 to R599): what each command does where nothing refuses it, the steps of
a Format, the end of a sanitize's work, and the statement about them. -/

namespace Sys2Proof.Machine

section
variable {s : State} {r : CmdRef} {c : OutCmd}

/-! NVMe-MI Send and Receive (R552). -/

/-- An NVMe-MI Send has run its request, kept the response and completed. -/
def miSent (r : CmdRef) (q : Sqe) (s : State) : State :=
  let a := miRun (fitBytes 12 q.data) s
  completeCmd r stOk 0 0 [] { a.2 with host := { a.2.host with miPending := Tbl.insert a.2.host.miPending r.fn a.1 } }

section
variable (h : adminOf s r 0x1D = some c)
include h

theorem execNvmeMiSend_plain (hop : imgField c.sqe.data 0 1 ≠ 0x07) : execNvmeMiSend r s = .next (miSent r c.sqe s) := by
  rw [execNvmeMiSend, onAdmin_of_some h]
  exact congrArg Host.Outcome.next (if_neg hop)

/-- A Reset acts when its command has completed. -/
theorem execNvmeMiSend_reset (hop : imgField c.sqe.data 0 1 = 0x07) : execNvmeMiSend r s = .next (subsystemReset (miSent r c.sqe s)) := by
  rw [execNvmeMiSend, onAdmin_of_some h]
  exact congrArg Host.Outcome.next (if_pos hop)

end

section
variable (h : adminOf s r 0x1E = some c)
include h

theorem execNvmeMiReceive_kept {b : List Byte} (hb : Tbl.find s.host.miPending r.fn = some b) :
    execNvmeMiReceive r s = .next (answerData r 0 (fitBytes (adminLen c.sqe) b)
      { s with host := { s.host with miPending := Tbl.erase s.host.miPending r.fn } }) := by
  rw [execNvmeMiReceive, onAdmin_of_some h, hb]

theorem execNvmeMiReceive_none (hb : Tbl.find s.host.miPending r.fn = none) : execNvmeMiReceive r s = .next (failCmd c stSequence s) := by
  rw [execNvmeMiReceive, onAdmin_of_some h, hb]

end

/-! Format NVM (R589, R590). -/

/-- The Format that a command asks for, at its first step. -/
def formatOf (r : CmdRef) (q : Sqe) (s : State) : FormatOp :=
  { cmd := r, nsid := q.nsid, ses := bitsOf q.cdw10 11 9, lbaf := bitsOf q.cdw10 3 0, extended := bitOf q.cdw10 4, pit := bitsOf q.cdw10 7 5,
    pil := bitOf q.cdw10 8, step := 1, acks := otherLit s }

/-- The fields of a Format are ones that the module has (R589). -/
structure FormatFieldsOk (q : Sqe) : Prop where
  ses : bitsOf q.cdw10 11 9 ≤ 2
  pit : bitsOf q.cdw10 7 5 ≤ 3
  lbaf : bitsOf q.cdw10 3 0 ≤ 2
  lbafUpper : bitsOf q.cdw10 13 12 = 0
  noPi : bitsOf q.cdw10 3 0 = 0 → bitsOf q.cdw10 7 5 = 0

/-- A Format that nothing refuses stops its namespace here and tells the other Lit members. -/
theorem execFormatNvm_begins (h : adminOf s r 0x80 = some c) (hstall : s.med.jrnStall = false) (hidle : s.host.format = none)
    (hrun : s.host.stoppedNs.contains c.sqe.nsid = false) (h0 : c.sqe.nsid ≠ 0) (hle : c.sqe.nsid ≤ 1024)
    (hns : (nsInfo s c.sqe.nsid).isSome = true) (hq : FormatFieldsOk c.sqe) :
    execFormatNvm r s = .next (sendAll .order [ordFormatStop, c.sqe.nsid] []
      (formatStop c.sqe.nsid { s with host := { s.host with format := some (formatOf r c.sqe s) } })) := by
  obtain ⟨hses, hpit, hlbaf, hupper, hnoPi⟩ := hq
  have hexists : ¬ (c.sqe.nsid = 0 ∨ 1024 < c.sqe.nsid ∨ (nsInfo s c.sqe.nsid).isNone) := by
    rintro (hx | hx | hx)
    · exact h0 hx
    · omega
    · simp [Option.isNone_eq_false_iff.2 hns] at hx
  have hformat : ¬ (2 < bitsOf c.sqe.cdw10 3 0 ∨ bitsOf c.sqe.cdw10 13 12 ≠ 0 ∨ (bitsOf c.sqe.cdw10 3 0 = 0 ∧ bitsOf c.sqe.cdw10 7 5 ≠ 0)) := by
    rintro (hx | hx | hx)
    · omega
    · exact hx hupper
    · exact hx.2 (hnoPi hx.1)
  obtain rfl := cmd_of_adminOf h
  rw [execFormatNvm, onAdmin_of_some h, if_neg (by simp [hidle, hstall]), formatBegin]
  exact congrArg Host.Outcome.next <| (if_neg hexists).trans <| (if_neg (by omega)).trans <| (if_neg hformat).trans <|
    if_neg (by rw [hidle, hrun]; decide)

section
variable {o : FormatOp} (ho : s.host.format = some o) (hlit : s.mode.mode = .lit) (hf : s.med.flush = none)
include ho hlit hf

/-- In a Lit module that does not flush the next step of a Format begins. -/
theorem execFormatStepDone_of_lit : execFormatStepDone s = .next (formatNext o s) := by
  simp [execFormatStepDone, ho, hlit, hf]

end

section
variable {o : FormatOp} (hacks : o.acks = [])
include hacks

theorem formatNext_stopped (h : o.step = 1) :
    formatNext o s = { s with host := { s.host with format := some { o with step := 2, acks := [] } } } := by
  simp [formatNext, hacks, h]

/-- Once the namespace is idle the Format is recorded as begun. -/
theorem formatNext_idle (h : o.step = 2) (hidle : formatBusy s o.nsid = false) :
    let u := progWrite 1 o.ses 1 o.nsid s.cnt.opSeconds 0 s
    formatNext o s = sendAll .order (ordFormatRecord :: formatNums o) []
      { u with host := { u.host with format := some { o with step := 3, acks := otherLit s } } } := by
  simp [formatNext, hacks, h, hidle]

theorem formatNext_recorded (h : o.step = 3) :
    let u := { s with host := { s.host with format := some { o with step := 4, acks := otherLit s } } }
    formatNext o s =
      sendAll .order (ordFormatApply :: formatNums o) [] (formatApply o.nsid o.ses o.lbaf o.extended o.pit o.pil u) := by
  simp [formatNext, hacks, h]

/-- The Format is recorded as ended, admission goes on everywhere, and the command completes. -/
theorem formatNext_applied (h : o.step = 4) :
    let u := progWrite 1 o.ses 2 o.nsid s.cnt.opSeconds 0 { s with host := { s.host with format := none } }
    formatNext o s =
      settleAll (completeCmd o.cmd stOk 0 0 [] (formatResume o.nsid (sendAll .order [ordFormatDone, o.nsid] [] u))) := by
  simp [formatNext, hacks, h]

end

/-! Sanitize (R593 to R599). -/

/-- A sanitize that is none under way begins with the next sequence number, and completes at once where no other member is Lit. -/
theorem sanitizeStart_lone {a : Nat} (hc : c.cmd = r) (hidle : s.host.sanitize = none)
    (hlone : otherLit (sanitizeBegin a (s.host.sanSeq + 1) s) = []) :
    sanitizeStart c a s = completeCmd r stOk 0 0 [] (sanitizeBegin a (s.host.sanSeq + 1) s) := by
  rw [otherLit_sanitizeBegin] at hlone
  simp [sanitizeStart, hidle, hlone, hc]

section
variable (h : adminOf s r 0x84 = some c)
include h

theorem execSanitizeBlockErase_starts (ha : c.sqe.cdw10 % 8 = 2) : execSanitizeBlockErase r s = .next (sanitizeStart c 2 s) := by
  rw [execSanitizeBlockErase, onAdmin_of_some h]
  exact congrArg Host.Outcome.next (if_pos ha)

theorem execSanitizeBlockErase_refuses (ha : c.sqe.cdw10 % 8 = 0 ∨ c.sqe.cdw10 % 8 = 3 ∨ 4 < c.sqe.cdw10 % 8) :
    execSanitizeBlockErase r s = .next (completeCmd r stField 0 0 [] s) := by
  rw [execSanitizeBlockErase, onAdmin_of_some h]
  exact congrArg Host.Outcome.next ((if_neg (by omega)).trans (if_neg (by omega)))

theorem execSanitizeCryptoErase_starts (ha : c.sqe.cdw10 % 8 = 4) : execSanitizeCryptoErase r s = .next (sanitizeStart c 4 s) := by
  rw [execSanitizeCryptoErase, onAdmin_of_some h, if_pos ha]

theorem execSanitizeExitFailureMode_failed (ha : c.sqe.cdw10 % 8 = 1) (hst : s.host.sanStatus = 3) :
    execSanitizeExitFailureMode r s = .next (completeCmd r stOk 0 0 [] { s with host := { s.host with sanStatus := 0 } }) := by
  rw [execSanitizeExitFailureMode, onAdmin_of_some h, if_pos ha, if_pos hst]

theorem execSanitizeExitFailureMode_plain (ha : c.sqe.cdw10 % 8 = 1) (hst : s.host.sanStatus ≠ 3) :
    execSanitizeExitFailureMode r s = .next (completeCmd r stOk 0 0 [] s) := by
  rw [execSanitizeExitFailureMode, onAdmin_of_some h, if_pos ha, if_neg hst]

end

/-- A sanitize whose commands have finished does its work here and tells the other Lit members. -/
theorem execSanitizeOperationEnd_works {o : SanitizeOp} (ho : s.host.sanitize = some o) (hlit : s.mode.mode = .lit) (hf : s.med.flush = none)
    (hlocal : o.localDone = false) (hlocks : s.host.locks = []) (hout : ∀ x ∈ s.host.out, x.admin = true) :
    let u := (otherLit s).foldl (fun s m => send m .ack [ordSanEnd, s.host.sanSeq, 0, 0] [] [] s) (sanitizeWork o.action s)
    execSanitizeOperationEnd s =
      .next (sanitizeCheck { u with host := { u.host with sanitize := some { o with localDone := true } } }) := by
  have hdone : s.host.out.any (fun x => !x.admin) = false := by simpa using hout
  simp [execSanitizeOperationEnd, ho, hlit, hf, hlocal, hlocks, hdone]

end

/-- Settles O32: each of the commands that nothing refuses, each step of a Format, and the end of a sanitize's work. -/
theorem managementFormatAndSanitize : Obligations.ManagementFormatAndSanitize := by
  refine fun s r c => ⟨fun h => ⟨?send, ?reset⟩, fun h => ⟨fun b => ?kept, ?none⟩, ?format, fun o ho hlit hf hacks => ?steps,
    fun h hc hidle hlone => ?sanitize, fun h => ⟨?failed, ?plain, ?refuses⟩, fun o => ?ends⟩
  case send => exact execNvmeMiSend_plain h
  case reset => exact execNvmeMiSend_reset h
  case kept => exact execNvmeMiReceive_kept h
  case none => exact execNvmeMiReceive_none h
  case format =>
    exact fun h _ hstall hidle hrun h0 hle hns hses hpit hlbaf hupper hnoPi =>
      execFormatNvm_begins h hstall hidle hrun h0 hle hns ⟨hses, hpit, hlbaf, hupper, hnoPi⟩
  case steps =>
    have next {t : State} (hnext : formatNext o s = t) : exec .formatStepDone s = .next t :=
      (execFormatStepDone_of_lit ho hlit hf).trans (congrArg Host.Outcome.next hnext)
    exact ⟨fun h1 => next (formatNext_stopped hacks h1), fun h2 hidle => next (formatNext_idle hacks h2 hidle),
      fun h3 => next (formatNext_recorded hacks h3), fun h4 => next (formatNext_applied hacks h4)⟩
  case sanitize =>
    exact ⟨fun ha => (execSanitizeBlockErase_starts h ha).trans (congrArg Host.Outcome.next (sanitizeStart_lone hc hidle (ha ▸ hlone))),
      fun ha => (execSanitizeCryptoErase_starts h ha).trans (congrArg Host.Outcome.next (sanitizeStart_lone hc hidle (ha ▸ hlone)))⟩
  case failed => exact execSanitizeExitFailureMode_failed h
  case plain => exact execSanitizeExitFailureMode_plain h
  case refuses => exact execSanitizeBlockErase_refuses h
  case ends => exact execSanitizeOperationEnd_works

end Sys2Proof.Machine
end

section
/-! SUPPORT. Vendor commands (R145, R146, R541, R542, R662, R707, R708, R767 to R769, R835, R857, R868, R869, R872): Charter Commit, the kinds of Retire,
Wing Withdraw and Return, Light List Write and Key Generation Advance where their checks pass, and the statement about them. -/

namespace Sys2Proof.Machine

section
variable {s : State} {r : CmdRef} {c : OutCmd}

/-! Charter Commit (R662). -/

/-- A commit that is new waits with the staging copy of the moment, and the first that waits is taken. -/
theorem execCharterCommit_joins (h : adminOf s r 0xC0 = some c) (hrun : s.chr.commit.map (·.cmd) ≠ some r)
    (hnew : s.chr.commitWait.any (fun q => decide (q.cmd = r)) = false) :
    execCharterCommit r s = .next (commitTurn (s.chr.commitWait.length + 1)
      { s with chr := { s.chr with commitWait := s.chr.commitWait ++ [{ cmd := r, copy := s.chr.staging }] } }) := by
  have hfresh : ¬ (s.chr.commit.map (·.cmd) = some r ∨ s.chr.commitWait.any (fun q => decide (q.cmd = r))) := by simp [hrun, hnew]
  simp only [execCharterCommit, onAdmin_of_some h, if_neg hfresh, List.length_append, List.length_singleton]

/-! Retire (R145, R146, R541, R542, R767 to R769). -/

/-- The data of a Retire. -/
def retireData (q : Sqe) : List Byte := fitBytes 64 q.data

theorem retireData_eq (q : Sqe) : retireData q = fitBytes 64 q.data := rfl

/-- The data of a Retire has its length, and its reserved bytes are 0 (R541). -/
structure RetireFormOk (q : Sqe) : Prop where
  length : 64 ≤ adminLen q
  reserved : zeros (retireData q) 1 7 = true
  tail : zeros (retireData q) 24 40 = true

section
variable (h : adminOf s r 0xC1 = some c) (hform : RetireFormOk c.sqe)
include h

/-! Retire of a plane block. -/

/-- A Retire waits while the journal is stalled (R86). -/
theorem execRetireFlashBlock_stalled (hstall : s.med.jrnStall = true) : execRetireFlashBlock r s = .next s := by
  rw [execRetireFlashBlock, onAdmin_of_some h]
  exact congrArg Host.Outcome.next (if_pos (.inr (.inr hstall)))

/-- The block that a Retire names is one of the module's, in a port that is in service (R541). -/
structure FlashTargetOk (s : State) (q : Sqe) : Prop where
  kind : imgField (retireData q) 0 1 = 1
  port : imgField (retireData q) 8 2 < 1024
  plane : imgField (retireData q) 10 1 < 4
  block : imgField (retireData q) 12 2 < dieBlocks s
  reserved : zeros (retireData q) 11 1 = true
  serves : portOk s (imgField (retireData q) 8 2) = true

/-- The block that a Retire names. -/
def retireTarget (q : Sqe) : Nat := blkKey (imgField (retireData q) 8 2) (imgField (retireData q) 12 2)

section
variable (ht : FlashTargetOk s c.sqe) (hidle : s.med.retires = []) (hstall : s.med.jrnStall = false)
include hform ht hidle hstall

/-- A Retire that passes its checks is answered by the state of its block and by the spares that nothing has claimed. -/
theorem execRetireFlashBlock_checked :
    execRetireFlashBlock r s = .next (
      if (getBlk s (retireTarget c.sqe)).state = .retired then
        completeCmd r stOk (sparesLeft s (imgField (retireData c.sqe) 8 2) (imgField (retireData c.sqe) 10 1)) 0 [] s
      else if sparesFree s (imgField (retireData c.sqe) 8 2) (imgField (retireData c.sqe) 10 1) ≤ 2 then failCmd c stField s
      else retireStart r (retireTarget c.sqe) (imgField (retireData c.sqe) 10 1) s) := by
  have hkind : ¬ (imgField (retireData c.sqe) 0 1 = 2 ∨ imgField (retireData c.sqe) 0 1 = 3 ∨ s.med.jrnStall) := by simp [ht.kind, hstall]
  have hgood : ¬ (adminLen c.sqe < 64 ∨ imgField (retireData c.sqe) 0 1 ≠ 1 ∨ 1024 ≤ imgField (retireData c.sqe) 8 2 ∨
      4 ≤ imgField (retireData c.sqe) 10 1 ∨ dieBlocks s ≤ imgField (retireData c.sqe) 12 2 ∨ ¬ zeros (retireData c.sqe) 1 7 ∨
      ¬ zeros (retireData c.sqe) 11 1 ∨ ¬ zeros (retireData c.sqe) 24 40) := by
    simp [hform.length, hform.reserved, hform.tail, ht.kind, ht.port, ht.plane, ht.block, ht.reserved]
  rw [execRetireFlashBlock, onAdmin_of_some h]
  exact congrArg Host.Outcome.next <| (if_neg hkind).trans <| (if_neg (by simp [hidle])).trans <| (if_neg hgood).trans <|
    (if_neg (by simp [hidle])).trans <| if_congr (or_iff_right (not_not.2 ht.serves)) rfl rfl

end

/-! Retire of a page or a bank of DRAM. -/

/-- What a Retire of a DRAM page that is not retired yet comes to, by its channel without the page: without a reserve page the module is
Extinguished. -/
def pageRetireOutcome (r : CmdRef) (w a : Nat) (s : State) : Option DramCh → State
  | none => extinguish 0x02 s
  | some ch => completeCmd r stOk ch.left 0 [] (retireRecord w 2 a
      (setDram w ch { s with med := { s.med with dramPagesRet := satAdd max64 s.med.dramPagesRet 1 } }))

/-- What a Retire of a DRAM bank that is not retired yet comes to, by its channel without the bank. -/
def bankRetireOutcome (r : CmdRef) (w off : Nat) (s : State) : Option DramCh → State
  | none => extinguish 0x02 s
  | some ch => completeCmd r stOk ch.left 0 [] (retireRecord w 3 off
      (setDram w ch { s with med := { s.med with dramBanksRet := satAdd max64 s.med.dramBanksRet 1 } }))

include hform

theorem execRetireDramPage_checked (hkind : imgField (retireData c.sqe) 0 1 = 2) (hw : imgField (retireData c.sqe) 8 1 < 8)
    (hal : imgField (retireData c.sqe) 16 8 % 4096 = 0) (hlt : imgField (retireData c.sqe) 16 8 < 2 ^ 34) :
    let w := imgField (retireData c.sqe) 8 1
    let a := imgField (retireData c.sqe) 16 8
    execRetireDramPage r s = .next (
      if pageRetired (getDram s w) (a / 4096) then completeCmd r stOk (getDram s w).left 0 [] s
      else pageRetireOutcome r w a s (retirePage (getDram s w) (a / 4096))) := by
  have hgood : ¬ (adminLen c.sqe < 64 ∨ 8 ≤ imgField (retireData c.sqe) 8 1 ∨ imgField (retireData c.sqe) 16 8 % 4096 ≠ 0 ∨
      2 ^ 34 ≤ imgField (retireData c.sqe) 16 8 ∨ ¬ zeros (retireData c.sqe) 1 7 ∨ ¬ zeros (retireData c.sqe) 24 40) := by
    obtain ⟨hlen, hreserved, htail⟩ := hform
    simpa [hlen, hreserved, htail, hw, hal] using hlt
  rw [execRetireDramPage, onAdmin_of_some h]
  exact congrArg Host.Outcome.next <| (if_neg (not_not.2 hkind)).trans (if_neg hgood)

theorem execRetireDramBank_checked (hkind : imgField (retireData c.sqe) 0 1 = 3) (hw : imgField (retireData c.sqe) 8 1 < 8)
    (hsub : imgField (retireData c.sqe) 9 1 < 2) (hgroup : imgField (retireData c.sqe) 10 1 < 8) (hbank : imgField (retireData c.sqe) 11 1 < 4) :
    let w := imgField (retireData c.sqe) 8 1
    let b := 4 * imgField (retireData c.sqe) 10 1 + imgField (retireData c.sqe) 11 1
    execRetireDramBank r s = .next (
      if (getDram s w).bankRetired.getLsbD b then completeCmd r stOk (getDram s w).left 0 [] s
      else bankRetireOutcome r w
        (32768 * imgField (retireData c.sqe) 10 1 + 8192 * imgField (retireData c.sqe) 11 1 + 64 * imgField (retireData c.sqe) 9 1) s
        (retireBank (getDram s w) b)) := by
  have hgood : ¬ (adminLen c.sqe < 64 ∨ 8 ≤ imgField (retireData c.sqe) 8 1 ∨ 2 ≤ imgField (retireData c.sqe) 9 1 ∨
      8 ≤ imgField (retireData c.sqe) 10 1 ∨ 4 ≤ imgField (retireData c.sqe) 11 1 ∨ ¬ zeros (retireData c.sqe) 1 7 ∨
      ¬ zeros (retireData c.sqe) 24 40) := by
    obtain ⟨hlen, hreserved, htail⟩ := hform
    simp [hlen, hreserved, htail, hw, hsub, hgroup, hbank]
  rw [execRetireDramBank, onAdmin_of_some h]
  simp only [← retireData_eq, hkind, ne_eq, not_true_eq_false, hgood, if_false]
  cases retireBank (getDram s (imgField (retireData c.sqe) 8 1)) (4 * imgField (retireData c.sqe) 10 1 + imgField (retireData c.sqe) 11 1) with
  | none => rfl
  | some ch => rfl

end

/-! Wing Withdraw and Return (R835, R868, R869, R872). -/

section
variable (h : adminOf s r 0xC7 = some c) (hlt : c.sqe.cdw11 < 2 ^ 32) (hmid : bitsOf c.sqe.cdw11 3 1 = 0) (htop : c.sqe.cdw11 / 2 ^ 7 = 0)
  (hroll : rollActive s = false)
include h hlt hmid htop

/-- A command whose CDW11 is in order acts on its wing. -/
theorem onWing_of_ordered {action : Nat} (ha : c.sqe.cdw11 % 2 = action) (f : OutCmd → Nat → State → State) :
    onWing r action f s = f c (bitsOf c.sqe.cdw11 6 4) s := by
  rw [onWing, onAdmin_of_some h, Nat.mod_eq_of_lt hlt]
  exact (if_neg (not_not.2 ha)).trans (if_neg (by simp only [hmid, htop, ne_eq, not_true_eq_false, or_self, not_false_eq_true]))

include hroll

theorem execWingWithdraw_withdraws (ha : c.sqe.cdw11 % 2 = 0) (hall : s.mode.wingOut = 0) :
    execWingWithdraw r s = .next (failCmd c stOk (withdrawWing (bitsOf c.sqe.cdw11 6 4) s)) := by
  rw [execWingWithdraw, onWing_of_ordered h hlt hmid htop ha, if_neg (by simp [hall, hroll])]

/-- The core voltage of a wing that returns rises from 0.62 V. -/
theorem execWingReturn_returns (ha : c.sqe.cdw11 % 2 = 1) (hout : s.mode.wingOut.getLsbD (bitsOf c.sqe.cdw11 6 4) = true)
    (hidle : s.kin.returning = none) :
    let n := bitsOf c.sqe.cdw11 6 4
    execWingReturn r s = .next (setWingPwr n { wingPwr s n with vcore := 620, goodRun := 0, holdRun := 0 }
      { s with kin := { s.kin with returning := some { wing := n, cmd := some r } } }) := by
  rw [execWingReturn, onWing_of_ordered h hlt hmid htop ha]
  exact congrArg Host.Outcome.next ((if_neg (by simp [hidle])).trans (if_neg (by simp [hout, hroll, hidle])))

end

/-! Light List Write (R857). -/

/-- The data of a Light List Write. -/
def listData (q : Sqe) : List Byte := fitBytes (adminLen q) q.data

/-- The Light List of a write as its copy holds it. -/
def sealedList (q : Sqe) (s : State) : List Byte := llSealed (listData q) (llTarget s).2 s.td17

/-- The checks of a Light List Write pass (R857 step 1). -/
structure ListOk (s : State) (q : Sqe) : Prop where
  length : 64 ≤ (listData q).length
  whole : 64 ≤ llLength (listData q) → llLength (listData q) ≤ 4096 → llLength (listData q) ≤ (listData q).length
  valid : llCause s (some (listData q)) false = 0

section
variable (h : adminOf s r opLightList = some c) (hfirst : firstLlWrite s r = true) (hok : ListOk s c.sqe)
include h hfirst hok

/-- A write that its checks pass replaces the copy that is not in use, and completes with its sequence number. -/
theorem execLightListWrite_checked :
    execLightListWrite r true s = .next (completeCmd r stOk ((llTarget s).2 % 2 ^ 32) ((llTarget s).2 / 2 ^ 32) []
      { s with kin := { s.kin with
        copyA := if (llTarget s).1 = 0 then some (sealedList c.sqe s) else s.kin.copyA
        copyB := if (llTarget s).1 = 1 then some (sealedList c.sqe s) else s.kin.copyB
        causeA := if (llTarget s).1 = 0 then 0 else s.kin.causeA
        causeB := if (llTarget s).1 = 1 then 0 else s.kin.causeB
        llDone := true, llCopy := (llTarget s).1, llPending := true } }) := by
  have hgood : ¬ ((listData c.sqe).length < 64 ∨
      (64 ≤ llLength (listData c.sqe) ∧ llLength (listData c.sqe) ≤ 4096 ∧ (listData c.sqe).length < llLength (listData c.sqe))) := by
    rintro (hshort | ⟨hmin, hmax, hcut⟩)
    · exact hok.length.not_gt hshort
    · exact (hok.whole hmin hmax).not_gt hcut
  rw [execLightListWrite, onAdmin_of_some h]
  exact congrArg Host.Outcome.next <| (if_neg (not_not.2 hfirst)).trans <| (if_neg hgood).trans (if_neg (not_not.2 hok.valid))

theorem execLightListWrite_copyA (ht : (llTarget s).1 = 0) :
    let u := { s with kin := { s.kin with copyA := some (sealedList c.sqe s), causeA := 0, llDone := true, llCopy := 0, llPending := true } }
    execLightListWrite r true s = .next (completeCmd r stOk ((llTarget s).2 % 2 ^ 32) ((llTarget s).2 / 2 ^ 32) [] u) := by
  simp only [execLightListWrite_checked h hfirst hok, ht, if_true, zero_ne_one, if_false]

theorem execLightListWrite_copyB (ht : (llTarget s).1 = 1) :
    let u := { s with kin := { s.kin with copyB := some (sealedList c.sqe s), causeB := 0, llDone := true, llCopy := 1, llPending := true } }
    execLightListWrite r true s = .next (completeCmd r stOk ((llTarget s).2 % 2 ^ 32) ((llTarget s).2 / 2 ^ 32) [] u) := by
  simp only [execLightListWrite_checked h hfirst hok, ht, if_true, one_ne_zero, if_false]

end

/-! Key Generation Advance (R707, R708). -/

section
variable (h : adminOf s r 0xC9 = some c)
include h

/-- A slot that DERIVE loaded and that nothing uses takes the key of the next generation. -/
theorem execKeyGenAdvanceSlot_derives {k : KeySlot} {root : List Byte} (ht : c.sqe.cdw11 % 4 = 0)
    (hk : keySlot s (c.sqe.cdw12 % 64) = some k) (hroot : s.sec.root = some root) (hkind : k.kind = .derive) (hgen : k.gen < max64)
    (huse : slotInUse s (c.sqe.cdw12 % 64) = false) (hepoch : s.sec.epoch < 2 ^ 32 - 1) :
    execKeyGenAdvanceSlot r s = .next (genDone c (k.gen + 1)
      (slotLoad (c.sqe.cdw12 % 64) (kdf root k.label (k.gen + 1) 256) .derive k.fixed k.label (k.gen + 1) s)) := by
  rw [execKeyGenAdvanceSlot, onAdmin_of_some h]
  dsimp only
  rw [hk, hroot]
  exact congrArg Host.Outcome.next <| (if_neg (by omega)).trans <| (if_neg (not_not.2 ht)).trans <|
    (if_neg (by simp [hkind, hgen])).trans <| (if_neg (ne_true_of_eq_false huse)).trans (if_neg hepoch.not_ge)

theorem execKeyGenAdvanceFunction_advances (ht : c.sqe.cdw11 % 4 = 1) (hgen : Tbl.get 1 s.sec.fnGen (c.sqe.cdw12 % 2 ^ 10) < max64) :
    let f := c.sqe.cdw12 % 2 ^ 10
    let g := Tbl.get 1 s.sec.fnGen f
    execKeyGenAdvanceFunction r s = .next (genDone c (g + 1) { s with sec := { s.sec with fnGen := Tbl.insert s.sec.fnGen f (g + 1) } }) := by
  rw [execKeyGenAdvanceFunction, onAdmin_of_some h]
  exact congrArg Host.Outcome.next ((if_neg (not_not.2 ht)).trans (if_neg hgen.not_ge))

end

end

/-- Settles O33: with the checks passed, each command is the state change that its `_checked` equation names, and the branch that remains is the
one whose condition the clause assumes. -/
theorem vendorCommandsTakeEffect : Obligations.VendorCommandsTakeEffect := by
  refine fun s r c => ⟨fun h => execCharterCommit_joins h, fun h hlen hreserved htail => ?retire, fun h hlt hmid htop hroll => ?wing,
    fun h hfirst hlen hwhole hcause => ?list, fun h => ?keys⟩
  case retire =>
    have hform : RetireFormOk c.sqe := ⟨hlen, hreserved, htail⟩
    refine ⟨fun hkind hport hplane hblock hres hidle hserves => ⟨fun hstall => execRetireFlashBlock_stalled h hstall, fun hstall => ?flash⟩,
      fun hkind hw hal hlt => ?page, fun hkind hw hsub hgroup hbank => ?bank⟩
    case flash =>
      have hblk := execRetireFlashBlock_checked h hform ⟨hkind, hport, hplane, hblock, hres, hserves⟩ hidle hstall
      exact ⟨fun hret => hblk.trans (congrArg Host.Outcome.next (if_pos hret)),
        fun hret hspare => hblk.trans (congrArg Host.Outcome.next ((if_neg hret).trans (if_neg hspare.not_ge))),
        fun hret hspare => hblk.trans (congrArg Host.Outcome.next ((if_neg hret).trans (if_pos hspare)))⟩
    case page =>
      have hpage := execRetireDramPage_checked h hform hkind hw hal hlt
      exact ⟨fun hret => hpage.trans (congrArg Host.Outcome.next (if_pos hret)),
        fun ch hret hch => hpage.trans (congrArg Host.Outcome.next ((if_neg (ne_true_of_eq_false hret)).trans
          (congrArg (pageRetireOutcome _ _ _ _) hch))),
        fun hret hch => hpage.trans (congrArg Host.Outcome.next ((if_neg (ne_true_of_eq_false hret)).trans
          (congrArg (pageRetireOutcome _ _ _ _) hch)))⟩
    case bank =>
      have hbk := execRetireDramBank_checked h hform hkind hw hsub hgroup hbank
      exact ⟨fun hret => hbk.trans (congrArg Host.Outcome.next (if_pos hret)),
        fun ch hret hch => hbk.trans (congrArg Host.Outcome.next ((if_neg (ne_true_of_eq_false hret)).trans
          (congrArg (bankRetireOutcome _ _ _ _) hch)))⟩
  case wing =>
    exact ⟨fun ha hall => execWingWithdraw_withdraws h hlt hmid htop hroll ha hall,
      fun ha hout hidle => execWingReturn_returns h hlt hmid htop hroll ha hout hidle⟩
  case list =>
    have hok : ListOk s c.sqe := ⟨hlen, hwhole, hcause⟩
    exact ⟨fun ht => execLightListWrite_copyA h hfirst hok ht, fun ht => execLightListWrite_copyB h hfirst hok ht⟩
  case keys =>
    exact ⟨fun k root ht hk hroot hkind hgen huse hepoch => execKeyGenAdvanceSlot_derives h ht hk hroot hkind hgen huse hepoch,
      fun ht hgen => execKeyGenAdvanceFunction_advances h ht hgen⟩

end Sys2Proof.Machine
end

section
/-! SUPPORT. Every command has a next state and keeps what every step keeps (`Keeps`): the queue, what the module was made as, the fuses, the
charter's canonical copies, the free values and the count of power cycles (R652, R663, R665, R738, R786); the statements about all steps, about the
command at the front of the queue and about the module at reset (R31). -/

namespace Sys2Proof.Machine

/-- Every command has a next state that keeps what every step keeps: command by command, as exec dispatches them. -/
theorem exec_keeps {z0 : State} (c : Instr) (s : State) (h : Keeps z0 s) : ∃ t, exec c s = .next t ∧ Keeps z0 t :=
  match c with
  | .pwrEnAsserted => execPwrEnAsserted_keeps s h
  | .pwrEnDeasserted => execPwrEnDeasserted_keeps s h
  | .inputUndervoltage => execInputUndervoltage_keeps s h
  | .inputOvervoltage => execInputOvervoltage_keeps s h
  | .inputRestored => execInputRestored_keeps s h
  | .emberFlushStepDone => execEmberFlushStepDone_keeps s h
  | .emberFlushEnd => execEmberFlushEnd_keeps s h
  | .alarm _ => execAlarm_keeps _ s h
  | .sensorRead _ _ _ => execSensorRead_keeps _ _ _ s h
  | .supplyMeasurement _ _ _ _ => execSupplyMeasurement_keeps _ _ _ _ s h
  | .holdupCheckDue => execHoldupCheckDue_keeps s h
  | .checkNow => execCheckNow_keeps s h
  | .holdupCheckDone _ _ => execHoldupCheckDone_keeps _ _ s h
  | .holdupStoreLow => execHoldupStoreLow_keeps s h
  | .holdupCharged => execHoldupCharged_keeps s h
  | .paceWindow _ _ _ _ _ => execPaceWindow_keeps _ _ _ _ _ s h
  | .keeperCoreFault _ _ _ _ => execKeeperCoreFault_keeps _ _ _ _ s h
  | .wingReturnHoldDone _ => execWingReturnHoldDone_keeps _ s h
  | .kindlingStepDone _ _ _ => execKindlingStepDone_keeps _ _ _ s h
  | .configRequest => execConfigRequest_keeps s h
  | .perstAsserted => execPerstAsserted_keeps s h
  | .perstDeasserted => execPerstDeasserted_keeps s h
  | .nvmSubsystemReset => execNvmSubsystemReset_keeps s h
  | .hotReset => execHotReset_keeps s h
  | .controllerReset _ => execControllerReset_keeps _ s h
  | .controllerEnable _ _ _ _ _ => execControllerEnable_keeps _ _ _ _ _ s h
  | .shutdownNotification _ _ => execShutdownNotification_keeps _ _ s h
  | .shutdownProcessingDone _ => execShutdownProcessingDone_keeps _ s h
  | .functionLevelReset _ => execFunctionLevelReset_keeps _ s h
  | .vfEnable _ => execVfEnable_keeps _ s h
  | .vfEnableCleared => execVfEnableCleared_keeps s h
  | .devicePowerStateChange _ _ => execDevicePowerStateChange_keeps _ _ s h
  | .sqTailDoorbell _ _ _ => execSqTailDoorbell_keeps _ _ _ s h
  | .cqHeadDoorbell _ _ _ => execCqHeadDoorbell_keeps _ _ _ s h
  | .commandFetch _ _ _ => execCommandFetch_keeps _ _ _ s h
  | .partBegin _ _ _ => execPartBegin_keeps _ _ _ s h
  | .deleteIoSq _ => execDeleteIoSq_keeps _ s h
  | .deleteIoCq _ => execDeleteIoCq_keeps _ s h
  | .createIoSq _ => execCreateIoSq_keeps _ s h
  | .createIoCq _ => execCreateIoCq_keeps _ s h
  | .getLogPage _ => execGetLogPage_keeps _ s h
  | .smartHealthLog _ => execSmartHealthLog_keeps _ s h
  | .telemetryHostInitiated _ => execTelemetryHostInitiated_keeps _ s h
  | .keepersLogPage _ => execKeepersLogPage_keeps _ s h
  | .placementReport _ => execPlacementReport_keeps _ s h
  | .counterSnapshot _ => execCounterSnapshot_keeps _ s h
  | .caravanStatusPage _ => execCaravanStatusPage_keeps _ s h
  | .healthAndRetirement _ => execHealthAndRetirement_keeps _ s h
  | .thermalAndPace _ => execThermalAndPace_keeps _ s h
  | .identify _ => execIdentify_keeps _ s h
  | .abort _ => execAbort_keeps _ s h
  | .setFeatures _ => execSetFeatures_keeps _ s h
  | .getFeatures _ => execGetFeatures_keeps _ s h
  | .timestamp _ => execTimestamp_keeps _ s h
  | .placementHint _ => execPlacementHint_keeps _ s h
  | .asynchronousEventRequest _ => execAsynchronousEventRequest_keeps _ s h
  | .namespaceManagement _ => execNamespaceManagement_keeps _ s h
  | .namespaceAttachment _ => execNamespaceAttachment_keeps _ s h
  | .firmwareImageDownload _ => execFirmwareImageDownload_keeps _ s h
  | .firmwareCommitReplace _ => execFirmwareCommitReplace_keeps _ s h
  | .firmwareCommitNextReset _ => execFirmwareCommitNextReset_keeps _ s h
  | .firmwareCommitActivate _ => execFirmwareCommitActivate_keeps _ s h
  | .firmwareCommitRoll _ => execFirmwareCommitRoll_keeps _ s h
  | .rollWingDone => execRollWingDone_keeps s h
  | .virtualizationManagement _ => execVirtualizationManagement_keeps _ s h
  | .secondaryOffline _ => execSecondaryOffline_keeps _ s h
  | .nvmeMiSend _ => execNvmeMiSend_keeps _ s h
  | .nvmeMiReceive _ => execNvmeMiReceive_keeps _ s h
  | .formatNvm _ => execFormatNvm_keeps _ s h
  | .formatStepDone => execFormatStepDone_keeps s h
  | .sanitizeBlockErase _ => execSanitizeBlockErase_keeps _ s h
  | .sanitizeCryptoErase _ => execSanitizeCryptoErase_keeps _ s h
  | .sanitizeExitFailureMode _ => execSanitizeExitFailureMode_keeps _ s h
  | .sanitizeOperationEnd => execSanitizeOperationEnd_keeps s h
  | .charterCommit _ => execCharterCommit_keeps _ s h
  | .retireFlashBlock _ => execRetireFlashBlock_keeps _ s h
  | .retireDramPage _ => execRetireDramPage_keeps _ s h
  | .retireDramBank _ => execRetireDramBank_keeps _ s h
  | .caravanForm _ _ => execCaravanForm_keeps _ _ s h
  | .caravanJoin _ => execCaravanJoin_keeps _ s h
  | .caravanLeave _ => execCaravanLeave_keeps _ s h
  | .caravanDissolve _ => execCaravanDissolve_keeps _ s h
  | .quiesceFunction _ => execQuiesceFunction_keeps _ s h
  | .quiesceEndingThreads _ => execQuiesceEndingThreads_keeps _ s h
  | .quiesceResume _ => execQuiesceResume_keeps _ s h
  | .freezeFunction _ => execFreezeFunction_keeps _ s h
  | .saveFunctionState _ => execSaveFunctionState_keeps _ s h
  | .restoreFunctionState _ => execRestoreFunctionState_keeps _ s h
  | .wingWithdraw _ => execWingWithdraw_keeps _ s h
  | .wingReturn _ => execWingReturn_keeps _ s h
  | .lightListWrite _ _ => execLightListWrite_keeps _ _ s h
  | .keyGenAdvanceSlot _ => execKeyGenAdvanceSlot_keeps _ s h
  | .keyGenAdvanceFunction _ => execKeyGenAdvanceFunction_keeps _ s h
  | .loadProgram _ => execLoadProgram_keeps _ s h
  | .programActivationManagement _ => execProgramActivationManagement_keeps _ s h
  | .memoryRangeSetManagement _ => execMemoryRangeSetManagement_keeps _ s h
  | .executeProgram _ => execExecuteProgram_keeps _ s h
  | .threadStart _ => execThreadStart_keeps _ s h
  | .memoryRead _ => execMemoryRead_keeps _ s h
  | .memoryWrite _ => execMemoryWrite_keeps _ s h
  | .memoryCopy _ _ => execMemoryCopy_keeps _ _ s h
  | .flush _ => execFlush_keeps _ s h
  | .write _ _ => execWrite_keeps _ _ s h
  | .read _ _ => execRead_keeps _ _ s h
  | .compare _ _ => execCompare_keeps _ _ s h
  | .writeZeroes _ _ => execWriteZeroes_keeps _ _ s h
  | .datasetManagement _ _ => execDatasetManagement_keeps _ _ s h
  | .verify _ _ => execVerify_keeps _ _ s h
  | .programStatus _ _ => execProgramStatus_keeps _ _ s h
  | .eraseStatus _ _ _ => execEraseStatus_keeps _ _ _ s h
  | .flashReadDone _ _ => execFlashReadDone_keeps _ _ s h
  | .dieNotReadyTimeout _ => execDieNotReadyTimeout_keeps _ s h
  | .dieBlockSeal _ _ _ => execDieBlockSeal_keeps _ _ _ s h
  | .journalRecordDurable => execJournalRecordDurable_keeps s h
  | .checkpointStepDone => execCheckpointStepDone_keeps s h
  | .gatherUnitTimeout _ => execGatherUnitTimeout_keeps _ s h
  | .stripePadTimeout _ _ => execStripePadTimeout_keeps _ _ s h
  | .packedPageTimeout _ => execPackedPageTimeout_keeps _ s h
  | .foldStart _ _ => execFoldStart_keeps _ _ s h
  | .reclaimStart _ => execReclaimStart_keeps _ s h
  | .forecourtRecompute => execForecourtRecompute_keeps s h
  | .ledgerAudit => execLedgerAudit_keeps s h
  | .packedGrainFrame _ _ _ _ => execPackedGrainFrame_keeps _ _ _ _ s h
  | .placementWindowEnd _ => execPlacementWindowEnd_keeps _ s h
  | .moveStallDone _ _ => execMoveStallDone_keeps _ _ s h
  | .placementRequest _ _ _ => execPlacementRequest_keeps _ _ _ s h
  | .placementAnswer _ _ _ => execPlacementAnswer_keeps _ _ _ s h
  | .directoryAnnouncement _ _ _ _ _ => execDirectoryAnnouncement_keeps _ _ _ _ _ s h
  | .moveOrder _ _ _ _ _ => execMoveOrder_keeps _ _ _ _ _ s h
  | .stationReport _ _ _ _ _ _ _ _ _ _ => execStationReport_keeps _ _ _ _ _ _ _ _ _ _ s h
  | .mirrorGrains _ _ _ => execMirrorGrains_keeps _ _ _ s h
  | .mirrorAcknowledgement _ => execMirrorAcknowledgement_keeps _ s h
  | .mirrorDrop _ _ => execMirrorDrop_keeps _ _ s h
  | .parityContribution _ _ _ _ _ _ _ => execParityContribution_keeps _ _ _ _ _ _ _ s h
  | .pieceClose _ => execPieceClose_keeps _ s h
  | .segmentClose _ => execSegmentClose_keeps _ s h
  | .backgroundRebuild _ _ _ _ => execBackgroundRebuild_keeps _ _ _ _ s h
  | .flitReceive _ _ => execFlitReceive_keeps _ _ s h
  | .nak _ _ => execNak_keeps _ _ s h
  | .ackTimer _ => execAckTimer_keeps _ s h
  | .linkDown _ => execLinkDown_keeps _ s h
  | .hello _ _ => execHello_keeps _ _ s h
  | .linkSbChange _ _ => execLinkSbChange_keeps _ _ s h
  | .creditCensus _ => execCreditCensus_keeps _ s h
  | .censusReceive _ _ _ _ => execCensusReceive_keeps _ _ _ _ s h
  | .heartbeatSend => execHeartbeatSend_keeps s h
  | .heartbeat _ => execHeartbeat_keeps _ s h
  | .absenceDeclared _ _ => execAbsenceDeclared_keeps _ _ s h
  | .caravanResumption => execCaravanResumption_keeps s h
  | .forwardedPart _ _ _ _ _ _ _ => execForwardedPart_keeps _ _ _ _ _ _ _ s h
  | .partStatus _ _ _ _ => execPartStatus_keeps _ _ _ _ s h
  | .charterPropagation _ _ _ => execCharterPropagation_keeps _ _ _ s h
  | .hintPropagation _ _ _ => execHintPropagation_keeps _ _ _ s h
  | .wbGo _ => execWbGo_keeps _ s h
  | .wbCancel _ _ => execWbCancel_keeps _ _ s h
  | .legStart _ => execLegStart_keeps _ s h
  | .scanReadIssue _ => execScanReadIssue_keeps _ s h
  | .sieveGrainEvaluation _ => execSieveGrainEvaluation_keeps _ s h
  | .sieveBeaconResult _ => execSieveBeaconResult_keeps _ s h
  | .btNext _ => execBtNext_keeps _ s h
  | .btDone _ _ => execBtDone_keeps _ _ s h
  | .btAppLen _ _ => execBtAppLen_keeps _ _ s h
  | .btEnd _ => execBtEnd_keeps _ s h
  | .legOutputReceive _ _ _ _ _ _ => execLegOutputReceive_keeps _ _ _ _ _ _ s h
  | .ctlAppLen _ _ => execCtlAppLen_keeps _ _ s h
  | .ctlExit _ _ => execCtlExit_keeps _ _ s h
  | .cpLen _ _ => execCpLen_keeps _ _ s h
  | .postEntryApply _ => execPostEntryApply_keeps _ s h
  | .nextSlotLoaded _ => execNextSlotLoaded_keeps _ s h
  | .quantumExpiry _ => execQuantumExpiry_keeps _ s h
  | .holdPageFill _ _ => execHoldPageFill_keeps _ _ s h
  | .doorPost _ _ => execDoorPost_keeps _ _ s h
  | .pstPrio _ _ => execPstPrio_keeps _ _ s h
  | .pstAffinity _ _ => execPstAffinity_keeps _ _ s h
  | .mov _ _ => execMov_keeps _ _ s h
  | .add _ _ => execAdd_keeps _ _ s h
  | .adc _ _ => execAdc_keeps _ _ s h
  | .sub _ _ => execSub_keeps _ _ s h
  | .sbc _ _ => execSbc_keeps _ _ s h
  | .neg _ _ => execNeg_keeps _ _ s h
  | .mul _ _ => execMul_keeps _ _ s h
  | .mulhu _ _ => execMulhu_keeps _ _ s h
  | .mulhs _ _ => execMulhs_keeps _ _ s h
  | .divu _ _ => execDivu_keeps _ _ s h
  | .divs _ _ => execDivs_keeps _ _ s h
  | .remu _ _ => execRemu_keeps _ _ s h
  | .rems _ _ => execRems_keeps _ _ s h
  | .minu _ _ => execMinu_keeps _ _ s h
  | .maxu _ _ => execMaxu_keeps _ _ s h
  | .mins _ _ => execMins_keeps _ _ s h
  | .maxs _ _ => execMaxs_keeps _ _ s h
  | .and _ _ => execAnd_keeps _ _ s h
  | .or _ _ => execOr_keeps _ _ s h
  | .xor _ _ => execXor_keeps _ _ s h
  | .andn _ _ => execAndn_keeps _ _ s h
  | .not _ _ => execNot_keeps _ _ s h
  | .shl _ _ => execShl_keeps _ _ s h
  | .shr _ _ => execShr_keeps _ _ s h
  | .sar _ _ => execSar_keeps _ _ s h
  | .rol _ _ => execRol_keeps _ _ s h
  | .ror _ _ => execRor_keeps _ _ s h
  | .popc _ _ => execPopc_keeps _ _ s h
  | .clz _ _ => execClz_keeps _ _ s h
  | .ctz _ _ => execCtz_keeps _ _ s h
  | .bswap _ _ => execBswap_keeps _ _ s h
  | .sext _ _ => execSext_keeps _ _ s h
  | .zext _ _ => execZext_keeps _ _ s h
  | .cmp _ _ => execCmp_keeps _ _ s h
  | .tst _ _ => execTst_keeps _ _ s h
  | .set _ _ => execSet_keeps _ _ s h
  | .cas _ _ => execCas_keeps _ _ s h
  | .movst _ _ => execMovst_keeps _ _ s h
  | .setst _ _ => execSetst_keeps _ _ s h
  | .btst _ _ => execBtst_keeps _ _ s h
  | .bset _ _ => execBset_keeps _ _ s h
  | .bclr _ _ => execBclr_keeps _ _ s h
  | .br _ _ => execBr_keeps _ _ s h
  | .jmp _ _ => execJmp_keeps _ _ s h
  | .call _ _ => execCall_keeps _ _ s h
  | .ret _ _ => execRet_keeps _ _ s h
  | .loop _ _ => execLoop_keeps _ _ s h
  | .leave _ _ => execLeave_keeps _ _ s h
  | .rdcnt _ _ => execRdcnt_keeps _ _ s h
  | .wait _ _ => execWait_keeps _ _ s h
  | .post _ _ => execPost_keeps _ _ s h
  | .yield _ _ => execYield_keeps _ _ s h
  | .nop _ _ => execNop_keeps _ _ s h
  | .movi _ _ => execMovi_keeps _ _ s h
  | .addi _ _ => execAddi_keeps _ _ s h
  | .subi _ _ => execSubi_keeps _ _ s h
  | .cmpi _ _ => execCmpi_keeps _ _ s h
  | .shli _ _ => execShli_keeps _ _ s h
  | .shri _ _ => execShri_keeps _ _ s h
  | .sari _ _ => execSari_keeps _ _ s h
  | .bcnSGo _ => execBcnSGo_keeps _ s h
  | .bcnWrite _ => execBcnWrite_keeps _ s h
  | .bcnInvalidate _ => execBcnInvalidate_keeps _ s h
  | .bcnRead _ => execBcnRead_keeps _ s h
  | .bcnInsert _ => execBcnInsert_keeps _ s h
  | .bcnAppend _ => execBcnAppend_keeps _ s h
  | .bcnClear _ => execBcnClear_keeps _ s h
  | .bcnCreate _ => execBcnCreate_keeps _ s h
  | .bcnGrow _ => execBcnGrow_keeps _ s h
  | .bcnDelete _ => execBcnDelete_keeps _ s h
  | .beaconScrubPass _ _ => execBeaconScrubPass_keeps _ _ s h
  | .jobOpen _ _ _ => execJobOpen_keeps _ _ _ s h
  | .jobCancel _ _ _ => execJobCancel_keeps _ _ _ s h
  | .cmpJLen _ _ _ _ => execCmpJLen_keeps _ _ _ _ s h
  | .cmpJLenLast _ _ _ _ => execCmpJLenLast_keeps _ _ _ _ s h
  | .sealAcquire _ => execSealAcquire_keeps _ s h
  | .sealRelease _ => execSealRelease_keeps _ s h
  | .sealGo _ _ => execSealGo_keeps _ _ s h
  | .sealAbort _ _ => execSealAbort_keeps _ _ s h
  | .sealPiece _ _ => execSealPiece_keeps _ _ s h
  | .sealPieceLast _ _ => execSealPieceLast_keeps _ _ s h
  | .sealBreak => execSealBreak_keeps s h
  | .digOpen _ _ => execDigOpen_keeps _ _ s h
  | .digRelease _ => execDigRelease_keeps _ s h
  | .digData _ _ => execDigData_keeps _ _ s h
  | .digLast _ _ => execDigLast_keeps _ _ s h
  | .digCtxExport _ => execDigCtxExport_keeps _ s h
  | .digCtxImport _ => execDigCtxImport_keeps _ s h
  | .digBreak => execDigBreak_keeps s h
  | .keyDerive _ => execKeyDerive_keeps _ s h
  | .keyUnwrap _ => execKeyUnwrap_keeps _ s h
  | .keyClearLoad _ => execKeyClearLoad_keeps _ s h
  | .keyUnload _ => execKeyUnload_keeps _ s h
  | .patrolScrub _ _ _ _ => execPatrolScrub_keeps _ _ _ _ s h
  | .scrubNow _ => execScrubNow_keeps _ s h
  | .deviceMark _ _ => execDeviceMark_keeps _ _ s h
  | .dramCalibration w => execDramCalibration_keeps w s h
  | .refreshWindow _ _ _ _ => execRefreshWindow_keeps _ _ _ _ s h
  | .dramTestWrite _ _ => execDramTestWrite_keeps _ _ s h
  | .dramTestRead _ _ => execDramTestRead_keeps _ _ s h
  | .drmHashNextWrite _ _ _ => execDrmHashNextWrite_keeps _ _ _ s h
  | .drmLayoutNextWrite _ _ => execDrmLayoutNextWrite_keeps _ _ s h
  | .evtSrcWrite _ _ => execEvtSrcWrite_keeps _ _ s h
  | .maskAll _ => execMaskAll_keeps _ s h
  | .clrAll => execClrAll_keeps s h
  | .evtInject _ => execEvtInject_keeps _ s h
  | .evtBulkRange _ => execEvtBulkRange_keeps _ s h
  | .windowEnd => execWindowEnd_keeps s h
  | .cntWinCtrlWrite _ => execCntWinCtrlWrite_keeps _ s h
  | .cntSmpCtrlWrite _ => execCntSmpCtrlWrite_keeps _ s h
  | .cntSmpPeriodWrite _ => execCntSmpPeriodWrite_keeps _ s h
  | .tailWrite _ => execTailWrite_keeps _ s h
  | .clrWrap => execClrWrap_keeps s h
  | .opSecondsTick => execOpSecondsTick_keeps s h
  | .logRecordWrite => execLogRecordWrite_keeps s h
  | .logMark _ => execLogMark_keeps _ s h
  | .basicManagementCommand => execBasicManagementCommand_keeps s h
  | .readNvmeMiDataStructure _ _ => execReadNvmeMiDataStructure_keeps _ _ s h
  | .healthStatusPoll _ => execHealthStatusPoll_keeps _ s h
  | .configurationSet _ _ => execConfigurationSet_keeps _ _ s h
  | .configurationGet _ => execConfigurationGet_keeps _ s h
  | .vpdRead _ _ => execVpdRead_keeps _ _ s h
  | .miReset => execMiReset_keeps s h
  | .tunnelledAdmin _ => execTunnelledAdmin_keeps _ s h
  | .spdmRequest _ _ => execSpdmRequest_keeps _ _ s h
  | .ideKm _ _ _ => execIdeKm_keeps _ _ _ s h
  | .debugUnlock _ _ => execDebugUnlock_keeps _ _ s h
  | .spdmSessionEnd _ => execSpdmSessionEnd_keeps _ s h
  | .claim => execClaim_keeps s h
  | .release => execRelease_keeps s h
  | .stageClear => execStageClear_keeps s h
  | .stageCopy => execStageCopy_keeps s h
  | .charterStagingWrite _ _ => execCharterStagingWrite_keeps _ _ s h
  | .restoreAbort => execRestoreAbort_keeps s h
  | .clrUnq => execClrUnq_keeps s h
  | .clrMax _ => execClrMax_keeps _ s h
  | .quantumWrite _ _ => execQuantumWrite_keeps _ _ s h
  | .wngDspQuery _ _ => execWngDspQuery_keeps _ _ s h
  | .retrain _ => execRetrain_keeps _ s h
  | .clrMin _ => execClrMin_keeps _ s h
  | .locate _ => execLocate_keeps _ s h
  | .medFcCtrlWrite _ => execMedFcCtrlWrite_keeps _ s h
  | .mscRclWeightWrite _ => execMscRclWeightWrite_keeps _ s h
  | .mscRclCtrlWrite _ => execMscRclCtrlWrite_keeps _ s h
  | .mscPlcCtrlWrite _ => execMscPlcCtrlWrite_keeps _ s h
  | .cmpCtrlWrite _ _ => execCmpCtrlWrite_keeps _ _ s h
  | .rteCfgWrite _ => execRteCfgWrite_keeps _ s h
  | .lowHalfRead _ => execLowHalfRead_keeps _ s h
  | .lowHalfWrite _ _ => execLowHalfWrite_keeps _ _ s h
  | .highHalfWrite _ _ => execHighHalfWrite_keeps _ _ s h
  | .registerWrite _ _ _ => execRegisterWrite_keeps _ _ _ s h
  | .hostTransferDone _ _ _ _ => execHostTransferDone_keeps _ _ _ _ s h
  | .dlUp => execDlUp_keeps s h
  | .linkPowerStateChange _ _ => execLinkPowerStateChange_keeps _ _ s h
  | .linkTrained _ => execLinkTrained_keeps _ s h
  | .linkStateNews _ _ => execLinkStateNews_keeps _ _ s h
  | .moveGrains _ _ => execMoveGrains_keeps _ _ s h
  | .rebuildRead _ _ _ _ => execRebuildRead_keeps _ _ _ _ s h
  | .joinRequest _ _ _ _ _ => execJoinRequest_keeps _ _ _ _ _ s h
  | .forwardedData _ _ _ _ _ _ => execForwardedData_keeps _ _ _ _ _ _ s h
  | .memberAcknowledgement _ _ _ _ _ => execMemberAcknowledgement_keeps _ _ _ _ _ s h
  | .stationOperationRequest _ _ _ _ => execStationOperationRequest_keeps _ _ _ _ s h
  | .firmwareSlotWritten _ => execFirmwareSlotWritten_keeps _ s h

/-- A state keeps what it holds itself. -/
theorem keeps_self (s : State) : Keeps s s :=
  ⟨rfl, rfl, Nat.min_le_right _ _, lor_refl _, id, Nat.le_refl _, Nat.min_le_right _ _⟩

/-- Settles O3: every command has a next state that keeps the queue and what the module was made as. -/
theorem noCommandStops : Obligations.NoCommandStops := by
  intro c s
  obtain ⟨t, hnext, hpending, hcfg, -⟩ := exec_keeps c s (keeps_self s)
  exact ⟨t, hnext, hpending, hcfg⟩

theorem step_of_cons {c : Instr} {rest : List Instr} {s : State} (h : s.pending = c :: rest) : step s = exec c { s with pending := rest } := by
  simp only [step, h]

/-- Settles O1: a step runs the command at the front of the queue on the state with the queue's rest. -/
theorem stepRunsTheFrontCommand : Obligations.StepRunsTheFrontCommand :=
  fun _ _ _ => step_of_cons

/-- Settles O4: a step is a tick or a command with the queue's rest behind it, and both keep it. -/
theorem everyStepKeeps : Obligations.EveryStepKeeps := by
  intro s t h
  cases hq : s.pending with
  | nil =>
    obtain rfl : tick s = t := by simpa [step_of_empty hq] using h
    obtain ⟨-, hkept⟩ := tick_keeps s (keeps_self s)
    exact hkept
  | cons c rest =>
    rw [step_of_cons hq] at h
    obtain ⟨u, hnext, -, hkept⟩ := exec_keeps c _ (keeps_self { s with pending := rest })
    obtain rfl : u = t := by simpa [hnext] using h
    exact hkept

/-- The charter at Kindling is in canonical form: both copies are the empty memory with the PF's entry written (R661). -/
theorem kindle_charterWf (spdm : Bool) :
    CharterWf (ChrState.kindle spdm).staging (ChrState.kindle spdm).active (ChrState.kindle spdm).commitWait := by
  have hentry : Memory.wf (Memory.writeBytes [] 0 pfEntry) = true := writeBytes_wf rfl
  simp [CharterWf, ChrState.kindle, hentry]

/-- Settles O5: the module as it left manufacture is Dark and nothing waits, and its charter is the one at Kindling. -/
theorem resetIsDarkAndCanonical : Obligations.ResetIsDarkAndCanonical :=
  ⟨rfl, rfl, rfl, rfl, rfl, kindle_charterWf false⟩

end Sys2Proof.Machine
end

section
/-! SUPPORT. Hold-up checks, alarms, sensors, the supply, keeper cores, pace windows, the return of a wing and Kindling's steps (R385, R731 to R733,
R815 to R820, R824 to R835, R842, R872): what each command does where its precondition holds, and the statements about them. -/

namespace Sys2Proof.Machine

section
variable {s : State}

/-! Hold-up checks (R816 to R820). -/

theorem execCheckNow_begins (hw : pfWrites s = true) (hc : s.pwr.checking = false) : execCheckNow s = .next (startCheck s) :=
  congrArg _ ((if_pos hw).trans (if_neg (ne_true_of_eq_false hc)))

/-- A check is due a day of operation after the last one. -/
theorem execHoldupCheckDue_begins (hl : s.mode.mode = .lit) (hc : s.pwr.checking = false) (hday : s.pwr.checkedAt + 86400 ≤ s.cnt.opSeconds) :
    execHoldupCheckDue s = .next (startCheck s) :=
  congrArg _ (if_pos ⟨hl, ne_true_of_eq_false hc, hday⟩)

theorem execHoldupCharged_begins (hk : s.mode.mode = .kindling) (h3 : s.kin.done.contains 3 = true) (hc : s.pwr.charged = false) :
    execHoldupCharged s = .next (startCheck { s with pwr := { s.pwr with charged := true } }) :=
  congrArg _ (if_pos ⟨hk, h3, ne_true_of_eq_false hc⟩)

theorem execHoldupStoreLow_fails (hl : s.mode.mode = .lit) (hc : s.pwr.checking = false) : execHoldupStoreLow s = .next (holdupFailed s) :=
  congrArg _ (if_pos ⟨hl, ne_true_of_eq_false hc⟩)

/-- The margin of a check that ends is its result, logged and raised (R817). -/
def marginNoted (margin : Nat) (s : State) : State :=
  raise 1078 (logOcc 0x3002 1078 (leBytes 4 margin) { s with pwr := { s.pwr with
    margin := margin, checkedAt := s.cnt.opSeconds, marginKept := margin, checkedKept := s.cnt.opSeconds } })

/-- What becomes of a check, by its margin and by whether it is the second one (R818, R819). -/
def checkJudged (margin : Nat) (second : Bool) (s : State) : State :=
  if 2000 ≤ margin then { s with pwr := { s.pwr with checking := false, second := false, passed := true } }
  else if second then holdupFailed s else { s with pwr := { s.pwr with second := true } }

theorem checkJudged_passes {margin : Nat} (hm : 2000 ≤ margin) (second : Bool) :
    checkJudged margin second s = { s with pwr := { s.pwr with checking := false, second := false, passed := true } } :=
  if_pos hm

theorem checkJudged_again {margin : Nat} {second : Bool} (hm : margin < 2000) (hfirst : second = false) :
    checkJudged margin second s = { s with pwr := { s.pwr with second := true } } :=
  (if_neg hm.not_ge).trans (if_neg (ne_true_of_eq_false hfirst))

theorem checkJudged_fails {margin : Nat} {second : Bool} (hm : margin < 2000) (hsecond : second = true) :
    checkJudged margin second s = holdupFailed s :=
  (if_neg hm.not_ge).trans (if_pos hsecond)

theorem execHoldupCheckDone_judges (nf nj : Nat) (hd : s.mode.mode ≠ .dark) (hc : s.pwr.checking = true) :
    execHoldupCheckDone nf nj s =
      .next (checkJudged ((2240 * nf - nj) / 5400000) s.pwr.second (marginNoted ((2240 * nf - nj) / 5400000) s)) := by
  simp only [execHoldupCheckDone, hd, hc, not_true_eq_false, or_self, if_false, marginNoted, checkJudged]

/-! Alarms (R731 to R733). -/

/-- Erasing the keys leaves the charter's part of the state. -/
theorem eraseKeys_chr : (eraseKeys s).chr = s.chr := rfl

/-- Locking debug access again leaves the charter's part of the state: it is a note of the host's part. -/
theorem relockDebug_chr : (relockDebug s).chr = s.chr := by
  unfold relockDebug
  split
  · next id _ =>
    obtain ⟨-, -, -, -, -, -, -, -, hchr, -⟩ :=
      logOcc_notes 0x5003 1067 (leBytes 4 id) _ (.refl { s with host := { s.host with debugBy := none } })
    exact hchr
  · rfl

/-- An alarm of a Lit module that keeps its root blobs, with no manager bound to a session. -/
theorem alarm_of_lit (causes : Nat) (hl : s.mode.mode = .lit) (hs : s.chr.spdmReq = false) (hkeep : llByte s 6 0 0 % 2 = 0) :
    let u := relockDebug (eraseKeys s)
    alarm causes s =
      extinguish 0x05 (logOcc 0x5001 1067 (leBytes 1 causes) { u with sec := { u.sec with alarm := Nat.lor u.sec.alarm causes } }) := by
  have hspdm : (relockDebug (eraseKeys s)).chr.spdmReq = false := by rw [relockDebug_chr, eraseKeys_chr, hs]
  simp [alarm, hl, hkeep, hspdm]

theorem execAlarm_extinguishes (causes : BitVec 8) (hl : s.mode.mode = .lit) (hc : causes.toNat % 16 ≠ 0) :
    execAlarm causes s = .next (alarm (causes.toNat % 16) s) :=
  congrArg _ (if_neg (by simp [hl, hc]))

/-! Sensors, the supply and keeper cores (R385, R815, R824 to R829). -/

/-- A reading of a sensor that is not broken. -/
theorem execSensorRead_takes (n : Fin 94) (x : Int) (selfTest : Bool) (hd : s.mode.mode ≠ .dark) (hb : (getSensor s n).cause = 0) :
    let u := clampVcore (if brokenCause s n x selfTest = 0 then readSensor n x s else breakSensor n x (brokenCause s n x selfTest) s)
    execSensorRead n x selfTest s = .next (setCritWarn 1 (tempCrossed u) u) := by
  simp [execSensorRead, hd, hb]

theorem execSupplyMeasurement_takes (vin iin dw store : Nat) (hd : s.mode.mode ≠ .dark) :
    execSupplyMeasurement vin iin dw store s = .next { s with pwr := { s.pwr with
      vin := vin, iin := iin, underSeen := s.pwr.underSeen || decide (vin < 9000), overSeen := s.pwr.overSeen || decide (60000 < vin),
      avg10 := avgStep 100 dw s.pwr.avg10, avg1 := avgStep 10000 dw s.pwr.avg1, vstore := store } } :=
  congrArg _ (if_neg hd)

/-- The first fault of a wing's keeper cores is logged and raised; a second one within a second faults the wing. -/
theorem execKeeperCoreFault_takes (w : Fin 8) (kcore code : BitVec 8) (pc : Word) (hd : s.mode.mode ≠ .dark)
    (hin : s.mode.wingOut.getLsbD w = false) (hk : kcore.toNat / 4 = w.val) :
    let l := logOcc 0x6002 (1056 + w) (leBytes 1 code.toNat ++ leBytes 1 kcore.toNat ++ List.replicate 6 0 ++ leBytes 8 pc.toNat) s
    let u := raise (1056 + w) { l with disp := { l.disp with keeperFault := Tbl.insert l.disp.keeperFault w s.td17 } }
    (Tbl.find s.disp.keeperFault w = none → execKeeperCoreFault w kcore code pc s = .next u) ∧
    (∀ x, Tbl.find s.disp.keeperFault w = some x → s.td17 < x + 1000000000 →
      execKeeperCoreFault w kcore code pc s = .next (wingFault w 4 u)) := by
  have hopen : ¬ (s.mode.mode = .dark ∨ s.mode.wingOut.getLsbD w ∨ kcore.toNat / 4 ≠ w.val) := by
    rintro (h | h | h)
    exacts [hd h, ne_true_of_eq_false hin h, h hk]
  refine ⟨fun hfirst => ?_, fun x hx hwithin => ?_⟩
  · rw [execKeeperCoreFault, if_neg hopen, hfirst]
  · rw [execKeeperCoreFault, if_neg hopen, hx]
    exact congrArg _ (if_pos hwithin)

/-! The return of a wing and Kindling's steps (R842, R872). -/

/-- A wing whose return is under way returns in a Lit module with no roll, and the command that began it completes. -/
theorem execWingReturnHoldDone_returns (w : Fin 8) {x : ReturnOp} (hx : s.kin.returning = some x) (hw : x.wing = w) (hl : s.mode.mode = .lit)
    (hr : rollActive s = false) :
    let u := returnWing w { s with kin := { s.kin with returning := none } }
    (x.cmd = none → execWingReturnHoldDone w s = .next u) ∧
    (∀ c, x.cmd = some c → execWingReturnHoldDone w s = .next (completeCmd c stOk 0 0 [] u)) := by
  refine ⟨fun hnone => ?_, fun c hcmd => ?_⟩
  · simp [execWingReturnHoldDone, hx, hw, hl, hr, hnone]
  · simp [execWingReturnHoldDone, hx, hw, hl, hr, hcmd]

/-- A step of Kindling that is ready is taken, and counts as done unless it ends Kindling. -/
theorem execKindlingStepDone_takes (n : Fin 10) (bits : BitVec 8) (dev : List (Nat × Nat)) (hk : s.mode.mode = .kindling)
    (hf : s.med.flush = none) (hp : s.kin.resetPending = false) (hnew : s.kin.done.contains n.val = false)
    (hafter : (stepAfter n).all (fun m => s.kin.done.contains m) = true) (hready : stepReady s n = true) :
    let u := kindlingStep n bits.toNat dev s
    execKindlingStepDone n bits dev s =
      .next (if u.mode.mode = .kindling then { u with kin := { u.kin with done := u.kin.done ++ [n.val] } } else u) := by
  have hopen : ¬ (s.mode.mode ≠ .kindling ∨ s.med.flush.isSome ∨ s.kin.resetPending ∨ s.kin.done.contains n.val ∨
      ¬ (stepAfter n).all (fun m => s.kin.done.contains m) ∨ ¬ stepReady s n) := by
    rw [hk, hf, hp, hnew, hafter, hready]
    decide
  exact congrArg _ (if_neg hopen)

end

/-! Pace windows (R832, R833, R835). -/

section
variable (w : Nat) (paces : List Nat) (s : State)

/-- Each monitor's record after a window. -/
def monsAfter : List PaceMon :=
  ((wingPwr s w).mons.zip paces).zipIdx.map (fun e => paceStep (wingPwr s w).vcore (ceilingOf s w) e.2 e.1.2 e.1.1)

/-- The monitors below their target with the voltage at its ceiling. -/
def lowMons : List Nat :=
  (paces.zipIdx.filter (fun e => e.1 < paceTarget e.2 ∧ (wingPwr s w).vcore = ceilingOf s w)).map (·.2)

/-- Every monitor is at 102 % of its target or more. -/
def paceGood : Bool := paces.zipIdx.all (fun e => decide (102 * paceTarget e.2 ≤ 100 * e.1))

/-- A wing's power record after a window: what its voltage, its runs and its shortfalls become. -/
def pwrAfter : WingPwr :=
  let p := wingPwr s w
  { p with
    vcore := if paceGood paces then (if 100 ≤ p.goodRun + 1 then max 620 (p.vcore - 5) else p.vcore) else min (ceilingOf s w) (p.vcore + 5)
    mons := monsAfter w paces s
    goodRun := if paceGood paces then p.goodRun + 1 else 0
    holdRun := if paces.zipIdx.all (fun e => decide (paceTarget e.2 ≤ e.1)) then p.holdRun + 1 else 0
    shortSeen := p.shortSeen || !(lowMons w paces s).isEmpty
    shortMon := (lowMons w paces s).getLastD p.shortMon
    shortEvents := min 65535 (p.shortEvents + if lowMons w paces s = [] then 0 else 1) }

/-- The first monitor that has been low, or deeply low, for too long. -/
def lateMon : Option (PaceMon × Nat) :=
  (monsAfter w paces s).zipIdx.find? (fun e => decide (1000 ≤ e.1.lowRun) || decide (5 ≤ e.1.deepRun))

end

/-- A monitor that is late faults the wing (R835). -/
def paceOutcome (w vcore : Nat) (s : State) : Option (PaceMon × Nat) → State
  | some e => paceFault w e.2 e.1.pace vcore s
  | none => s

/-- The voltage after a window, decided by whether it is good rather than by its run. -/
theorem voltage_of_good (good : Bool) (run up down same : Nat) :
    (if !good then up else if 100 ≤ (if good then run + 1 else 0) then down else same) =
      if good then (if 100 ≤ run + 1 then down else same) else up := by
  cases good <;> rfl

/-- A shortfall counts once. -/
theorem satAdd_shortfall (events : Nat) (lows : List Nat) :
    satAdd 65535 events (b2n (!lows.isEmpty)) = min 65535 (events + if lows = [] then 0 else 1) := by
  cases lows <;> rfl

/-- A window of a wing with core voltage changes the wing's power record, and a late monitor faults the wing. -/
theorem execPaceWindow_powered {s : State} (w : Fin 8) (m0 m1 m2 m3 : BitVec 16) (hd : s.mode.mode ≠ .dark) (hv : (wingPwr s w).vcore ≠ 0) :
    let paces := [m0.toNat, m1.toNat, m2.toNat, m3.toNat]
    execPaceWindow w m0 m1 m2 m3 s =
      .next (paceOutcome w (wingPwr s w).vcore (setWingPwr w (pwrAfter w paces s) s) (lateMon w paces s)) := by
  refine congrArg _ ((if_neg (not_or.2 ⟨hd, hv⟩)).trans ?_)
  rw [voltage_of_good, satAdd_shortfall]
  rfl

/-- Settles O22: a pace window steers its wing's voltage, a wing whose return is under way returns, and a ready step of Kindling is taken. -/
theorem paceReturnAndKindlingSteps : Obligations.PaceReturnAndKindlingSteps := by
  refine fun s => ⟨fun w m0 m1 m2 m3 hd hv => ⟨fun hlate => ?inTime, fun e hlate => ?late⟩,
    fun w x hx hw hl hr => execWingReturnHoldDone_returns w hx hw hl hr,
    fun n bits dev hk hf hp hnew hafter hready => execKindlingStepDone_takes n bits dev hk hf hp hnew hafter hready⟩
  case inTime => exact (execPaceWindow_powered w m0 m1 m2 m3 hd hv).trans (congrArg _ (congrArg (paceOutcome _ _ _) hlate))
  case late => exact (execPaceWindow_powered w m0 m1 m2 m3 hd hv).trans (congrArg _ (congrArg (paceOutcome _ _ _) hlate))

/-- Settles O21: a check begins, its end is judged by its margin, and a store that has failed extinguishes the module. -/
theorem holdupChecksRun : Obligations.HoldupChecksRun := by
  refine fun s => ⟨execCheckNow_begins, execHoldupCheckDue_begins, execHoldupCharged_begins, fun nf nj hd hc => ?ends, execHoldupStoreLow_fails⟩
  case ends =>
    intro u
    have hjudged : execHoldupCheckDone nf nj s = .next (checkJudged ((2240 * nf - nj) / 5400000) s.pwr.second u) :=
      execHoldupCheckDone_judges nf nj hd hc
    exact ⟨fun hm => hjudged.trans (congrArg Host.Outcome.next (checkJudged_passes hm _)),
      fun hm hfirst => hjudged.trans (congrArg Host.Outcome.next (checkJudged_again hm hfirst)),
      fun hm hsecond => hjudged.trans (congrArg Host.Outcome.next (checkJudged_fails hm hsecond))⟩

/-- Settles O20: an alarm extinguishes a Lit module with its keys erased, and readings, measurements and faults are taken as they come. -/
theorem alarmsSensorsAndSupply : Obligations.AlarmsSensorsAndSupply := by
  refine fun s => ⟨fun causes hl hc hs hkeep => ?alarm, fun n x selfTest hd hb => execSensorRead_takes n x selfTest hd hb,
    fun vin iin dw store hd => execSupplyMeasurement_takes vin iin dw store hd,
    fun w kcore code pc hd hin hk => execKeeperCoreFault_takes w kcore code pc hd hin hk⟩
  case alarm => exact (execAlarm_extinguishes causes hl hc).trans (congrArg _ (alarm_of_lit _ hl hs hkeep))

end Sys2Proof.Machine
end

section
/-! SUPPORT. Refused key loads, the seal engine and the digest engine (R705, R706, R709 to R729): a load whose slot is in use or whose epoch is
exhausted ends with its code, a word that nothing stands against has its effect for its requester, and the statements about them. -/

namespace Sys2Proof.Machine

/-! Fields below the one that a row sets in the word of its operand. -/

/-- A field of a number is that of its low bits. -/
theorem bitsOf_eq_mod_div {hi lo : Nat} (h : lo ≤ hi + 1) (v : Nat) : bitsOf v hi lo = v % 2 ^ (hi + 1) / 2 ^ lo := by
  obtain ⟨n, hn⟩ := Nat.exists_eq_add_of_le h
  rw [bitsOf, hn, Nat.add_sub_cancel_left, pow_add, Nat.mod_mul_right_div_self]

/-- Setting a field leaves the fields below it. -/
theorem bitsOf_bitsSet_below {hi lo h l : Nat} (hfield : l ≤ h + 1) (hbelow : h < lo) (hlo : lo ≤ hi + 1) (v x : Nat) :
    bitsOf (bitsSet v hi lo x) h l = bitsOf v h l := by
  have hdvd : 2 ^ (h + 1) ∣ 2 ^ lo := Nat.pow_dvd_pow 2 hbelow
  have hset : bitsSet v hi lo x % 2 ^ (h + 1) = v % 2 ^ (h + 1) := by
    have hhigh : v / 2 ^ (hi + 1) * 2 ^ (hi + 1) % 2 ^ (h + 1) = 0 :=
      Nat.mod_eq_zero_of_dvd (Dvd.dvd.mul_left (hdvd.trans (Nat.pow_dvd_pow 2 hlo)) _)
    have hfield : x % 2 ^ (hi + 1 - lo) * 2 ^ lo % 2 ^ (h + 1) = 0 := Nat.mod_eq_zero_of_dvd (Dvd.dvd.mul_left hdvd _)
    rw [bitsSet, Nat.add_mod, Nat.add_mod (_ * _), hhigh, hfield, Nat.zero_add, Nat.zero_mod, Nat.zero_add, Nat.mod_mod, Nat.mod_mod_of_dvd v hdvd]
  rw [bitsOf_eq_mod_div hfield, bitsOf_eq_mod_div hfield, hset]

/-! Loads and unloads that are refused (R705, R706). -/

section
variable {s : State} {n : Nat}

theorem loadRefusal_of_inUse (huse : slotInUse s n = true) : loadRefusal s n = some 0xC3 :=
  if_pos huse

theorem loadRefusal_of_exhausted (huse : slotInUse s n = false) (hepoch : s.sec.epoch = 2 ^ 32 - 1) : loadRefusal s n = some 0xC4 :=
  (if_neg (ne_true_of_eq_false huse)).trans (if_pos hepoch.ge)

theorem keyDerive_refused {c : Nat} (hload : loadRefusal s n = some c) (fixed : Nat) (hlabel : ((keyDataBytes s).take 32).headD 0 ≠ 0) :
    keyDerive n fixed s = keyDone c s := by
  simp only [keyDerive, hlabel, hload, if_false]

theorem keyUnwrapCmd_refused {c kek : Nat} (hload : loadRefusal s n = some c) (fixed : Nat) (hkek : (keySlot s kek).isSome = true) :
    keyUnwrapCmd n kek fixed s = keyDone c s := by
  obtain ⟨k, hk⟩ := Option.isSome_iff_exists.1 hkek
  simp only [keyUnwrapCmd, hk, hload]

theorem keyClear_refused {c : Nat} (hload : loadRefusal s n = some c) (fixed : Nat) : keyClear n fixed s = keyDone c s := by
  simp only [keyClear, hload]

theorem keyUnload_of_inUse (huse : slotInUse s n = true) (hslot : (keySlot s n).isSome = true) : keyUnload n s = keyDone 0xC3 s := by
  obtain ⟨k, hk⟩ := Option.isSome_iff_exists.1 hslot
  simp only [keyUnload, hk, huse, if_true]

end

section
variable {s : State} (hpf : pfWrites s = true) (hmgr : s.chr.mgrHeld = true) (v : Word)
include hpf hmgr

/-- The three loads of a slot that takes none end with the refusal's code. -/
theorem loads_refused {c : Nat} (hload : loadRefusal s (bitsOf v.toNat 45 40) = some c) :
    (((keyDataBytes s).take 32).headD 0 ≠ 0 → execKeyDerive v s = .next (keyDone c s)) ∧
    ((keySlot s (bitsOf v.toNat 53 48)).isSome = true → execKeyUnwrap v s = .next (keyDone c s)) ∧
    execKeyClearLoad v s = .next (keyDone c s) := by
  have hslot (op : Nat) : bitsOf (bitsSet v.toNat 63 60 op) 45 40 = bitsOf v.toNat 45 40 :=
    bitsOf_bitsSet_below (by decide) (by decide) (by decide) _ _
  have hkek : bitsOf (bitsSet v.toNat 63 60 2) 53 48 = bitsOf v.toNat 53 48 := bitsOf_bitsSet_below (by decide) (by decide) (by decide) _ _
  refine ⟨fun hlabel => ?derive, fun hsome => ?unwrap, ?clear⟩
  case derive => rw [execKeyDerive_of_manager hpf hmgr, hslot, keyDerive_refused hload _ hlabel]
  case unwrap => rw [execKeyUnwrap_of_manager hpf hmgr, hslot, hkek, keyUnwrapCmd_refused hload _ hsome]
  case clear => rw [execKeyClearLoad_of_manager hpf hmgr, hslot, keyClear_refused hload]

theorem execKeyUnload_refused (huse : slotInUse s (bitsOf v.toNat 45 40) = true) (hslot : (keySlot s (bitsOf v.toNat 45 40)).isSome = true) :
    execKeyUnload v s = .next (keyDone 0xC3 s) := by
  rw [execKeyUnload_of_manager hpf hmgr, bitsOf_bitsSet_below (by decide) (by decide) (by decide), keyUnload_of_inUse huse hslot]

end

/-- Settles O48: a load of a slot in use or with the epoch exhausted ends with its refusal's code, and so does an unload of a slot in use. -/
theorem keyLoadsAreRefused : Obligations.KeyLoadsAreRefused := by
  refine fun s v hpf hmgr => ⟨fun huse => ?busy, fun huse hepoch => loads_refused hpf hmgr v (loadRefusal_of_exhausted huse hepoch)⟩
  case busy =>
    obtain ⟨hderive, hunwrap, hclear⟩ := loads_refused hpf hmgr v (loadRefusal_of_inUse huse)
    exact ⟨hderive, hunwrap, hclear, execKeyUnload_refused hpf hmgr v huse⟩

/-! The words of the seal engine (R709 to R720). -/

section
variable {s : State} {x : Nat}

/-- A write of a seal word acts for its requester. -/
theorem unitWrite_sealWrite_of_open {r : Requester} {off v : Nat} (h : UnitOpen s r 6 off v x) :
    unitWrite r 6 off v (sealWrite 0 off v) s = sealWrite x off v s :=
  unitWrite_of_open (fun x => sealWrite x off v) h fun _ => rfl

theorem sealWrite_acquire {v : Nat} (hacquire : bitOf v 62 = true) (hrelease : bitOf v 61 = false) : sealWrite x 0x00 v s = sealAcquire x s := by
  simp [sealWrite, sealLockWrite, hacquire, hrelease]

theorem sealWrite_release (ho : ownsSeal s x = true) {v : Nat} (hacquire : bitOf v 62 = false) (hrelease : bitOf v 61 = true) :
    sealWrite x 0x00 v s = sealRelease s := by
  simp [sealWrite, sealLockWrite, hacquire, hrelease, ho]

theorem sealWrite_go (ho : ownsSeal s x = true) {v : Nat} (hgo : bitOf v 63 = true) (habort : bitOf v 62 = false) :
    sealWrite x 0x08 v s = sealGo x (bitsOf v 10 8) (v % 2) (bitsOf v 21 16) s := by
  simp [sealWrite, sealModeWrite, ho, hgo, habort]

theorem sealWrite_abort (ho : ownsSeal s x = true) {v : Nat} (hgo : bitOf v 63 = false) (habort : bitOf v 62 = true) :
    sealWrite x 0x08 v s = sealAbort x (setSeal { s.sec.sealEng with slot := bitsOf v 21 16, mode := bitsOf v 10 8, dir := v % 2 } s) := by
  simp [sealWrite, sealModeWrite, ho, hgo, habort]

theorem sealWrite_piece (ho : ownsSeal s x = true) {v : Nat} {last : Bool} (hl : bitOf v 63 = last) :
    sealWrite x 0x48 v s = sealPiece x (v % 2 ^ 19) last s := by
  simp [sealWrite, ho, hl]

/-- ACQUIRE by its three cases: a free lock, one's own, another's (R709, R710). -/
theorem sealAcquire_cases : let e := s.sec.sealEng
    (e.owner = none → sealAcquire x s = setSeal { e with
      owner := some { fn := ctxFn s x, handle := ctxHandle s x, ctx := x, since := s.td17 }, views := Tbl.erase e.views x, code := 0x01 } s) ∧
    (∀ o, e.owner = some o → o.ctx = x → sealAcquire x s = s) ∧
    (∀ o, e.owner = some o → o.ctx ≠ x → sealAcquire x s = sealCount 6 (setSeal { e with views := Tbl.insert e.views x .busy } s)) := by
  refine ⟨fun hfree => ?_, fun o ho hx => ?_, fun o ho hx => ?_⟩
  · simp only [sealAcquire, hfree]
  · simp only [sealAcquire, ho, hx, if_true]
  · simp only [sealAcquire, ho, hx, if_false]

end

/-! The words of the digest engine (R722 to R729). -/

section
variable {s : State} {x : Nat}

theorem unitWrite_digWrite_of_open {r : Requester} {off v : Nat} (h : UnitOpen s r 7 off v x) :
    unitWrite r 7 off v (digWrite 0 off v) s = digWrite x off v s :=
  unitWrite_of_open (fun x => digWrite x off v) h fun _ => rfl

theorem digWrite_open {v : Nat} (hopen : bitOf v 63 = true) (hrelease : bitOf v 62 = false) :
    digWrite x 0x00 v s = digOpen x (bitsOf v 21 16) (bitOf v 9) (v % 4) s := by
  simp [digWrite, digCtrlWrite, hopen, hrelease]

theorem digWrite_data (ho : ownsDig s x = true) (v : Nat) : digWrite x 0x18 v s = digTake (leBytes 8 v) s := by
  simp [digWrite, digData, ho]

/-- The word of RELEASE carries the fields as they are. -/
theorem digReleaseWord_fields (hslot : s.sec.dig.slot < 64) (halg : s.sec.dig.alg < 4) : let w := digReleaseWord s
    bitOf w 63 = false ∧ bitOf w 62 = true ∧ bitsOf w 21 16 = s.sec.dig.slot ∧ bitOf w 9 = s.sec.dig.keyed ∧ w % 4 = s.sec.dig.alg := by
  generalize hk : s.sec.dig.keyed = k
  cases k <;> simp [digReleaseWord, bitOf, bitsOf, b2n, hk] <;> omega

theorem digWrite_release (ho : ownsDig s x = true) (hslot : s.sec.dig.slot < 64) (halg : s.sec.dig.alg < 4) :
    digWrite x 0x00 (digReleaseWord s) s = digFree 0 s := by
  obtain ⟨hopen, hrelease, hs, hk, ha⟩ := digReleaseWord_fields hslot halg
  simp [digWrite, digCtrlWrite, hopen, hrelease, hs, hk, ha, ho, digRelease, setDig]

end

/-- Settles O49: each word of an engine that nothing stands against is the operation it names, for the requester that writes it. -/
theorem sealAndDigestComplete : Obligations.SealAndDigestComplete := by
  refine fun s r x v => ⟨fun h => ?acquire,
    fun ho => ⟨fun h => ?release, fun h hb => ?go, fun h hb => ?abort, fun h => ?piece, fun h => ?last⟩,
    fun hpf hmgr => ⟨?sealBreaks, ?digBreaks⟩, fun h hb => ?opens,
    fun ho hslot halg => ⟨fun h => ?frees, fun h => ?data, fun h => ?lastWord, fun h => ?toMemory⟩, fun h => ?fromMemory⟩
  case acquire =>
    have hacquire : execSealAcquire r s = .next (sealAcquire x s) :=
      congrArg _ ((unitWrite_sealWrite_of_open h).trans (sealWrite_acquire (by decide) (by decide)))
    obtain ⟨hfree, hown, hother⟩ := sealAcquire_cases (s := s) (x := x)
    exact ⟨fun h => hacquire.trans (congrArg _ (hfree h)), fun o h hx => hacquire.trans (congrArg _ (hown o h hx)),
      fun o h hx => hacquire.trans (congrArg _ (hother o h hx))⟩
  case release => exact congrArg _ ((unitWrite_sealWrite_of_open h).trans (sealWrite_release ho (by decide) (by decide)))
  case go => exact congrArg _ ((unitWrite_sealWrite_of_open h).trans (sealWrite_go ho (bitOf_bitsSet_one _ 63) hb))
  case abort => exact congrArg _ ((unitWrite_sealWrite_of_open h).trans (sealWrite_abort ho hb (bitOf_bitsSet_one _ 62)))
  case piece => exact congrArg _ ((unitWrite_sealWrite_of_open h).trans (sealWrite_piece ho (bitOf_bitsSet_zero _ 63)))
  case last => exact congrArg _ ((unitWrite_sealWrite_of_open h).trans (sealWrite_piece ho (bitOf_bitsSet_one _ 63)))
  case sealBreaks => exact congrArg _ ((if_pos hpf).trans (if_pos ⟨hmgr, by decide⟩))
  case digBreaks => exact congrArg _ ((if_pos hpf).trans (if_pos ⟨hmgr, by decide⟩))
  case opens => exact congrArg _ ((unitWrite_digWrite_of_open h).trans (digWrite_open (bitOf_bitsSet_one _ 63) hb))
  case frees => exact congrArg _ ((unitWrite_digWrite_of_open h).trans (digWrite_release ho hslot halg))
  case data => exact congrArg _ ((unitWrite_digWrite_of_open h).trans (digWrite_data ho _))
  case lastWord => exact congrArg _ (unitWrite_digWrite_of_open h)
  case toMemory => exact congrArg _ (unitWrite_digWrite_of_open h)
  case fromMemory => exact congrArg _ (unitWrite_digWrite_of_open h)

end Sys2Proof.Machine
end

section
/-! SUPPORT. DRAM channels (R745, R750, R751, R759 to R766, R771, R772): the bits of a word that a row sets, what each command does to its channel,
which hash masks keep a page whole, and the statements about them. -/

namespace Sys2Proof.Machine

/-! The bits of a word, and of one in which a row sets another bit. -/

theorem bitOf_toNat (v : Word) (i : Nat) : bitOf v.toNat i = v.getLsbD i :=
  (bitOf_eq_testBit _ _).trans (BitVec.testBit_toNat v)

theorem testBit_bitsOf (v hi lo n : Nat) : (bitsOf v hi lo).testBit n = (decide (n < hi + 1 - lo) && v.testBit (n + lo)) := by
  rw [bitsOf, Nat.testBit_mod_two_pow, Nat.testBit_div_two_pow]

/-- Setting one bit leaves every other. -/
theorem bitOf_bitsSet_ne {m n : Nat} (h : n ≠ m) (v x : Nat) : bitOf (bitsSet v m m x) n = bitOf v n := by
  have hmod : v % 2 ^ m < 2 ^ m := Nat.mod_lt v (Nat.two_pow_pos m)
  have hlow : 2 ^ m * (x % 2) + v % 2 ^ m < 2 ^ (m + 1) := by
    have hbit : 2 ^ m * (x % 2) ≤ 2 ^ m * 1 := Nat.mul_le_mul_left _ (Nat.lt_succ_iff.1 (Nat.mod_lt x Nat.two_pos))
    rw [pow_succ]
    omega
  have hshape : bitsSet v m m x = 2 ^ (m + 1) * (v / 2 ^ (m + 1)) + (2 ^ m * (x % 2) + v % 2 ^ m) := by
    rw [bitsSet, Nat.add_sub_cancel_left, pow_one, Nat.mul_comm, Nat.mul_comm (x % 2), Nat.add_assoc]
  rw [bitOf_eq_testBit, bitOf_eq_testBit, hshape, Nat.testBit_two_pow_mul_add _ hlow]
  obtain hlt | hgt := Nat.lt_or_gt_of_ne h
  · rw [if_pos (Nat.lt_succ_of_lt hlt), Nat.testBit_two_pow_mul_add _ hmod, if_pos hlt, Nat.testBit_mod_two_pow, decide_eq_true hlt, Bool.true_and]
  · rw [if_neg (by omega), Nat.testBit_div_two_pow, Nat.sub_add_cancel hgt]

/-! Hash masks (R750). -/

/-- A mask that is refused: a bit of a page's offset is set, or the bank bits are not that of its own place alone. -/
def maskBad (k : Fin 5) (v : Word) : Prop :=
  v.getLsbD (13 + k.val) = false ∨ (∃ j : Fin 5, j ≠ k ∧ v.getLsbD (13 + j.val) = true) ∨ ∃ j : Fin 13, v.getLsbD j.val = true

/-- The bank bits of a mask are that of its own place alone. -/
theorem bankBits_eq_iff (k : Fin 5) (v : Word) :
    bitsOf (v.toNat % 2 ^ 34) 17 13 = 2 ^ k.val ↔ ∀ j : Fin 5, v.getLsbD (13 + j.val) = decide (k = j) := by
  have hbit (j : Nat) : (bitsOf (v.toNat % 2 ^ 34) 17 13).testBit j = (decide (j < 5) && v.getLsbD (13 + j)) := by
    by_cases hj : j < 5
    · rw [testBit_bitsOf, Nat.testBit_mod_two_pow, Nat.add_comm j, decide_eq_true (show 13 + j < 34 by omega), Bool.true_and, BitVec.testBit_toNat]
    · rw [testBit_bitsOf, decide_eq_false hj, Bool.false_and, Bool.false_and]
  constructor
  · intro heq j
    have hj := hbit j
    rw [heq, Nat.testBit_two_pow, decide_eq_true j.isLt, Bool.true_and] at hj
    rw [← hj, decide_eq_decide, Fin.ext_iff]
  · intro hall
    refine Nat.eq_of_testBit_eq fun j => ?_
    rw [hbit, Nat.testBit_two_pow]
    by_cases hj : j < 5
    · simpa [hj, Fin.ext_iff] using hall ⟨j, hj⟩
    · simp [hj, show k.val ≠ j by omega]

/-- No bit of a page's offset is set in a mask. -/
theorem offsetBits_eq_iff (v : Word) : v.toNat % 2 ^ 34 % 2 ^ 13 = 0 ↔ ∀ j : Fin 13, v.getLsbD j.val = false := by
  rw [Nat.mod_mod_of_dvd _ (Nat.pow_dvd_pow 2 (by decide))]
  constructor
  · intro heq j
    have hj := Nat.testBit_mod_two_pow v.toNat 13 j
    rwa [heq, Nat.zero_testBit, decide_eq_true j.isLt, Bool.true_and, BitVec.testBit_toNat, eq_comm] at hj
  · intro hall
    refine Nat.eq_of_testBit_eq fun j => ?_
    rw [Nat.testBit_mod_two_pow, Nat.zero_testBit, BitVec.testBit_toNat]
    by_cases hj : j < 13
    · rw [hall ⟨j, hj⟩, Bool.and_false]
    · rw [decide_eq_false hj, Bool.false_and]

theorem maskBad_iff (k : Fin 5) (v : Word) :
    maskBad k v ↔ bitsOf (v.toNat % 2 ^ 34) 17 13 ≠ 2 ^ k.val ∨ v.toNat % 2 ^ 34 % 2 ^ 13 ≠ 0 := by
  rw [maskBad, ne_eq, bankBits_eq_iff, ne_eq, offsetBits_eq_iff, ← or_assoc, not_forall, not_forall]
  refine or_congr ⟨?_, ?_⟩ (by simp)
  · rintro (hown | ⟨j, hj, hset⟩)
    · exact ⟨k, by simp [hown]⟩
    · exact ⟨j, by simp [hset, hj.symm]⟩
  · rintro ⟨j, hj⟩
    by_cases hk : k = j
    · subst hk
      exact .inl (by simpa using hj)
    · exact .inr ⟨j, Ne.symm hk, by simpa [hk] using hj⟩

section
variable {s : State} (hpf : pfWrites s = true)
include hpf

theorem execDrmHashNextWrite_refused (w : Fin 8) {k : Fin 5} {v : Word} (h : maskBad k v) : execDrmHashNextWrite w k v s = .next s :=
  congrArg _ ((if_pos hpf).trans (if_pos ((maskBad_iff k v).1 h)))

theorem execDrmHashNextWrite_kept (w : Fin 8) {k : Fin 5} {v : Word} (h : ¬ maskBad k v) : let g := dramCfg s w
    execDrmHashNextWrite w k v s = .next (setDramCfg w { g with hashNext := listSet g.hashNext k (v.toNat % 2 ^ 34) } s) :=
  congrArg _ ((if_pos hpf).trans (if_neg (mt (maskBad_iff k v).2 h)))

end

/-- Settles O51: a mask is refused exactly where it does not keep a page whole. -/
theorem hashMasksKeepAPageWhole : Obligations.HashMasksKeepAPageWhole :=
  fun _ w _ _ hpf => ⟨execDrmHashNextWrite_refused hpf w, execDrmHashNextWrite_kept hpf w⟩

/-! Scrub, refresh and calibration (R745, R759 to R766). -/

section
variable {s : State} (w : Fin 8)

theorem execScrubNow_starts (hpf : pfWrites s = true) : execScrubNow w s = .next (setDram w { getDram s w with scrubPos := some 0 } s) :=
  congrArg _ ((if_pos hpf).trans (if_pos (by decide)))

theorem execRefreshWindow_counts (acts : List (Nat × Nat)) (coins : List Nat) (n : Nat) (hd : s.mode.mode ≠ .dark)
    (ht : (getDram s w).trainDone = true) :
    let c := getDram s w
    let t := (acts.zipIdx).foldl (fun t x => activate c t (x.1.1 % 32) (x.1.2 % 65536) (coins.contains x.2)) { banks := [], targeted := 0, prob := 0 }
    execRefreshWindow w acts coins n s = .next (setDram w { c with
      targeted := satAdd (2 ^ 32 - 1) c.targeted t.targeted, probCount := satAdd 65535 c.probCount t.prob, rfm := c.rfm + n,
      timingBand := (getSensor s (80 + w.val)).band } s) :=
  congrArg _ (if_neg (not_or.2 ⟨hd, not_not.2 ht⟩))

/-- A report of the patrol scrub that is taken: in a trained channel of a module that has power and does not flush, of a pass, at its line or
beyond. -/
def ScrubTaken (s : State) (w line : Nat) : Prop :=
  s.mode.mode ≠ .dark ∧ (getDram s w).trainDone = true ∧ s.med.flush = none ∧
    ((getDram s w).scrubPos ≠ none ∨ (getDram s w).scrubHours ≠ 0) ∧ (getDram s w).scrubPos.getD 0 ≤ line

theorem execPatrolScrub_taken {line : Nat} (h : ScrubTaken s w line) (k : Option (Fin 8)) (o : DramOutcome) : let c := getDram s w
    execPatrolScrub w line k o s = .next (
      if 2 ^ 28 ≤ line then setDram w { c with scrubPos := none, scrubPasses := satAdd (2 ^ 32 - 1) c.scrubPasses 1 } s
      else scrubLine w line k o (setDram w { c with scrubPos := some (line + 1) } s)) := by
  obtain ⟨hd, ht, hf, hpass, hline⟩ := h
  refine congrArg _ (if_neg ?_)
  rintro (h | h | h | ⟨hnone, hzero⟩ | h)
  · exact hd h
  · exact h ht
  · simp [hf] at h
  · exact hpass.elim (· hnone) (· hzero)
  · exact absurd hline h.not_ge

/-! Marks (R751). -/

theorem markAndCheck_fresh {d : Nat} (hfresh : (Tbl.get DramDev.fresh (getDram s w).devs d).failed = false) : let t := markDevice w d true s
    markAndCheck w d true s = if 2 ≤ (failedDevs (getDram t w) (d / 5)).length then extinguish 0x02 t else t :=
  if_neg (ne_true_of_eq_false hfresh)

theorem execDeviceMark_marks (hpf : pfWrites s = true) (hmgr : s.chr.mgrHeld = true) (d : Fin 64) (hd : d.val ≤ 9) :
    execDeviceMark w d s = .next (markAndCheck w d true s) := by
  have hdev : (2 ^ 31 + d.val) % 16 = d.val := by omega
  have hmark : bitOf (2 ^ 31 + d.val) 31 = true := by
    rw [bitOf, beq_iff_eq]
    omega
  rw [execDeviceMark, if_pos ⟨hpf, by omega⟩, drmDevWrite, hdev, if_pos ⟨hmgr, hmark, hd⟩]

/-! The test page and the next layout (R745, R771, R772). -/

section
variable (hpf : pfWrites s = true)
include hpf

/-- The channel with the test page enabled and the RAW bit of a word. -/
def testOpened (c : DramCh) (v : Word) : DramCh := { c with testEnable := true, testRaw := v.getLsbD 28 }

theorem execDramTestWrite_writes (hmgr : s.chr.mgrHeld = true) {v : Word} (hon : v.getLsbD 31 = true) (hread : v.getLsbD 29 = false) :
    execDramTestWrite w v s = .next (setDram w (testWrite (testOpened (getDram s w) v)) s) := by
  simp only [execDramTestWrite, drmTestWrite, testOpened, hpf, hmgr, bitOf_bitsSet_one, bitOf_bitsSet_ne (m := 30), ne_eq, Nat.reduceEqDiff,
    not_false_eq_true, bitOf_toNat, hon, hread, Bool.and_true, Bool.and_false, Bool.false_eq_true, if_true, if_false]

theorem execDramTestRead_reads (hmgr : s.chr.mgrHeld = true) {v : Word} (hon : v.getLsbD 31 = true) (hwrite : v.getLsbD 30 = false) :
    execDramTestRead w v s = .next (setDram w (testRead (testOpened (getDram s w) v)) s) := by
  simp only [execDramTestRead, drmTestWrite, testOpened, hpf, hmgr, bitOf_bitsSet_one, bitOf_bitsSet_ne (m := 29), ne_eq, Nat.reduceEqDiff,
    not_false_eq_true, bitOf_toNat, hon, hwrite, Bool.and_true, Bool.and_false, Bool.false_eq_true, if_true, if_false]

theorem execDrmLayoutNextWrite_kept {v : Word} (hlo : 8 ≤ v.toNat % 32) (hhi : v.toNat % 32 ≤ 20) :
    execDrmLayoutNextWrite w v s = .next (setDramCfg w { dramCfg s w with grainNext := v.toNat % 32 } s) :=
  congrArg _ ((if_pos hpf).trans (if_neg (not_or.2 ⟨hlo.not_gt, hhi.not_gt⟩)))

theorem execDrmLayoutNextWrite_refused {v : Word} (h : v.toNat % 32 < 8 ∨ 20 < v.toNat % 32) : execDrmLayoutNextWrite w v s = .next s :=
  congrArg _ ((if_pos hpf).trans (if_pos h))

end

end

/-- Settles O50: each command changes its channel as its row says. -/
theorem dramChannelCommandsComplete : Obligations.DramChannelCommandsComplete := by
  refine fun s w => ⟨execScrubNow_starts w, fun d hpf hmgr hd hfresh => ?mark, rfl,
    fun acts coins n hd ht => execRefreshWindow_counts w acts coins n hd ht, fun line k o hd ht hf hpass hline => ?scrub,
    fun v hpf hmgr hon => ⟨execDramTestWrite_writes w hpf hmgr hon, execDramTestRead_reads w hpf hmgr hon⟩,
    fun v hpf => ⟨execDrmLayoutNextWrite_kept w hpf, execDrmLayoutNextWrite_refused w hpf⟩⟩
  case mark => exact (execDeviceMark_marks w hpf hmgr d hd).trans (congrArg _ (markAndCheck_fresh w hfresh))
  case scrub =>
    have htaken := execPatrolScrub_taken w ⟨hd, ht, hf, hpass, hline⟩ k o
    exact ⟨fun hlt => htaken.trans (congrArg _ (if_neg hlt.not_ge)), fun hge => htaken.trans (congrArg _ (if_pos hge))⟩

end Sys2Proof.Machine
end

section
/-! SUPPORT. Event sources, the log, windows, the sampler and the seconds of operation (R781 to R806, R810, R905): what each register write and each
event does, and the statements about them. -/

namespace Sys2Proof.Machine

section
variable {s : State}

/-! Event sources (R793 to R797). -/

/-- The fields that a write of EVT_SRC leaves are PENDING and OVERRUN. -/
theorem compl_evtFields_ones : ~~~(evtFields (~~~0#64)) = (1#64 <<< 63) ||| (1#64 <<< 60) := by decide

section
variable (hr : pfReach s = true)
include hr

/-- A write of EVT_SRC clears by its W1C bits, then takes its fields where R797 takes them. -/
theorem execEvtSrcWrite_takes (i : Fin 1088) (v : Word) :
    let w1c := v &&& ((1#64 <<< 63) ||| (1#64 <<< 60))
    let t := setEvtSrc i (evtSrc s i &&& ~~~w1c) s
    let keep := evtSrc t i &&& ((1#64 <<< 63) ||| (1#64 <<< 60))
    execEvtSrcWrite i v s = .next (if evtSrcOk v.toNat then setEvtSrc i (evtFields v ||| keep) t else t) := by
  simp only [execEvtSrcWrite, hr, evtSrcWrite, evtPut, compl_evtFields_ones, if_true]

theorem execMaskAll_sets : execMaskAll true s = .next { s with evt := { s.evt with maskAll := true } } := by
  simp only [execMaskAll, hr, maskAllSet, true_or, if_true]

/-- MASK_ALL that returns to 0 delivers every enabled pending source once (R796). -/
theorem execMaskAll_delivers (hm : s.evt.maskAll = true) : execMaskAll false s =
    .next ((s.evt.src.filter (fun e => e.2.getLsbD 63 && e.2.getLsbD 62)).foldl
      (fun u e => runNotes noteFuel (deliver e.1 u).2 (deliver e.1 u).1) { s with evt := { s.evt with maskAll := false } }) :=
  congrArg _ ((if_pos hr).trans (if_neg (by simp [hm])))

theorem execClrAll_clears : execClrAll s = .next (s.evt.src.foldl (fun t e => setEvtSrc e.1 (evtFields e.2) t) s) :=
  congrArg _ (if_pos hr)

theorem execEvtInject_raises (v : Word) : execEvtInject v s = .next (raise (v.toNat % 2048) s) :=
  congrArg _ (if_pos hr)

/-- A bulk write stores its range, and copies with GO and a range that ends within the sources. -/
theorem execEvtBulkRange_stores (v : Word) :
    let first := v.toNat % 2048
    let n := v.toNat / 2 ^ 32 % 2048
    let t := { s with evt := { s.evt with bulkFirst := first, bulkCount := n } }
    execEvtBulkRange v s = .next (
      if v.getLsbD 63 ∧ first + n ≤ 1088 then (List.range n).foldl (fun u i => evtPut (first + i) u.evt.bulkVal u) t else t) := by
  simp only [execEvtBulkRange, hr, evtBulkWrite, bitOf_toNat, if_true]
  rfl

theorem execLogMark_logs (v : Word) : execLogMark v s = .next (logOcc 0xB003 0xFFFF (leBytes 8 v.toNat) s) :=
  congrArg _ (if_pos hr)

end

/-! The log writer (R804, R806). -/

/-- The log writer takes the oldest occurrence, and records the losses when the queue has fallen to 128. -/
theorem execLogRecordWrite_takes {o : LogOcc} {r : List LogOcc} (hd : s.mode.mode ≠ .dark) (hq : s.log.queue = o :: r) :
    let t := logWriteOcc o { s with log := { s.log with queue := r } }
    execLogRecordWrite s = .next (
      if r.length = 128 ∧ 0 < s.log.lostUnlogged then
        logOcc 0xB002 1087 (leBytes 4 s.log.lostUnlogged) { t with log := { t.log with lostUnlogged := 0 } }
      else t) := by
  rw [execLogRecordWrite, if_neg hd, logWriteNext, hq]

end

/-- Settles O52: each write of the PF has its effect on the sources, and the log writer takes what waits. -/
theorem eventsAndLogComplete : Obligations.EventsAndLogComplete := by
  refine fun s => ⟨fun hr => ⟨fun i v => ?source, execMaskAll_sets hr, execMaskAll_delivers hr, execClrAll_clears hr, execEvtInject_raises hr,
    fun v => ?bulk, execLogMark_logs hr⟩, fun o r hd hq => ?log⟩
  case source =>
    have htakes := execEvtSrcWrite_takes hr i v
    exact ⟨fun hok => htakes.trans (congrArg _ (if_pos hok)), fun hbad => htakes.trans (congrArg _ (if_neg (ne_true_of_eq_false hbad)))⟩
  case bulk =>
    have hstores := execEvtBulkRange_stores hr v
    refine ⟨fun hgo hwithin => hstores.trans (congrArg _ (if_pos ⟨hgo, hwithin⟩)), fun hno => hstores.trans (congrArg _ (if_neg ?_))⟩
    rintro ⟨hgo, hwithin⟩
    exact hno.elim (ne_true_of_eq_false · hgo) (Nat.not_lt.2 hwithin)
  case log =>
    have htakes := execLogRecordWrite_takes hd hq
    refine ⟨fun hno => htakes.trans (congrArg _ (if_neg ?_)), fun h128 hlost => htakes.trans (congrArg _ (if_pos ⟨h128, hlost⟩))⟩
    rintro ⟨h128, hlost⟩
    exact hno.elim (· h128) hlost.ne'

/-! Windows and the seconds of operation (R781, R782, R785). -/

section
variable {s : State}

theorem execWindowEnd_latches (hd : s.mode.mode ≠ .dark) : let t := (List.range 1024).foldl latchPort s
    execWindowEnd s = .next { t with cnt := { t.cnt with
      winSeq := (s.cnt.winSeq + 1) % 2 ^ 32, winEndUs := s.td17 / 1000 % 2 ^ 32, winCurrent := s.cnt.winSteps } } := by
  simp only [execWindowEnd, hd, if_false]

/-- A count that stops at its largest value goes up by 1 below it. -/
theorem satAdd_one (cap n : Nat) : satAdd cap n 1 = if n < cap then n + 1 else cap := by
  rw [satAdd]
  split <;> omega

theorem execOpSecondsTick_counts (hd : s.mode.mode ≠ .dark) :
    let n := if s.cnt.opSeconds < 2 ^ 40 - 1 then s.cnt.opSeconds + 1 else 2 ^ 40 - 1
    let l := s.host.life
    execOpSecondsTick s = .next { s with
      cnt := { s.cnt with opSeconds := n, opSecondsMram := if n % 16 = 0 ∨ n = 2 ^ 40 - 1 then n else s.cnt.opSecondsMram }
      host := { s.host with life := { l with busySeconds := l.busySeconds + b2n (s.host.out.any (fun c => !c.admin)) } } } := by
  simp only [execOpSecondsTick, hd, satAdd_one, if_false]

/-- The high half of a word. -/
theorem bitsOf_high (v : Word) : bitsOf v.toNat 63 32 = v.toNat / 2 ^ 32 :=
  Nat.mod_eq_of_lt (by have := v.isLt; omega)

/-- Writes of the PF that take effect come from a PF that reaches BAR0. -/
theorem pfReach_of_pfWrites (hw : pfWrites s = true) : pfReach s = true :=
  (Bool.and_eq_true_iff.1 hw).1

section
variable (hw : pfWrites s = true)
include hw

theorem execCntWinCtrlWrite_within {v : Word} (hlo : 1 ≤ v.toNat % 2 ^ 17) (hhi : v.toNat % 2 ^ 17 ≤ 100000) :
    execCntWinCtrlWrite v s = .next { s with cnt := { s.cnt with winSteps := v.toNat % 2 ^ 17 } } := by
  simp only [execCntWinCtrlWrite, hw, winCtrlWrite, Nat.not_lt.2 hlo, Nat.not_lt.2 hhi, or_self, if_true, if_false]

theorem execCntWinCtrlWrite_outside {v : Word} (h : v.toNat % 2 ^ 17 = 0 ∨ 100000 < v.toNat % 2 ^ 17) : execCntWinCtrlWrite v s = .next s := by
  simp only [execCntWinCtrlWrite, hw, winCtrlWrite, Nat.lt_one_iff, h, if_true]

/-! The sampler (R788 to R790). -/

theorem execCntSmpCtrlWrite_within {v : Word} (h : v.toNat % 8 ≤ 5) :
    execCntSmpCtrlWrite v s = .next (smpRestart { s with cnt := { s.cnt with
      smpCores := BitVec.ofNat 32 (v.toNat / 2 ^ 32), smpEnable := v.getLsbD 31, smpWing := v.toNat / 256 % 8, smpCounter := v.toNat % 8 } }) := by
  simp only [execCntSmpCtrlWrite, hw, smpCtrlWrite, Nat.not_lt.2 h, bitsOf_high, bitOf_toNat, if_true, if_false]
  rfl

theorem execCntSmpCtrlWrite_outside {v : Word} (h : 5 < v.toNat % 8) : execCntSmpCtrlWrite v s = .next s := by
  simp only [execCntSmpCtrlWrite, hw, smpCtrlWrite, h, if_true]

theorem execCntSmpPeriodWrite_within {v : Word} (h : 1000 ≤ v.toNat % 2 ^ 40) :
    execCntSmpPeriodWrite v s = .next (smpRestart { s with cnt := { s.cnt with smpPeriod := v.toNat % 2 ^ 40 } }) := by
  simp only [execCntSmpPeriodWrite, hw, smpPeriodWrite, Nat.not_lt.2 h, if_true, if_false]

theorem execCntSmpPeriodWrite_outside {v : Word} (h : v.toNat % 2 ^ 40 < 1000) : execCntSmpPeriodWrite v s = .next s := by
  simp only [execCntSmpPeriodWrite, hw, smpPeriodWrite, h, if_true]

/-- A ring TAIL that does not pass HEAD is kept, and OVERFLOW is cleared by its bit. -/
theorem execTailWrite_keeps_tail {v : Word}
    (h : (s.cnt.smpHead + 8192 - v.toNat / 2 ^ 32 % 8192) % 8192 ≤ (s.cnt.smpHead + 8192 - s.cnt.smpTail) % 8192) :
    let o := if v.getLsbD 63 then false else s.cnt.smpOverflow
    execTailWrite v s = .next { s with cnt := { s.cnt with smpTail := v.toNat / 2 ^ 32 % 8192, smpOverflow := o } } := by
  have htail : bitsOf v.toNat 44 32 = v.toNat / 2 ^ 32 % 8192 := rfl
  cases hbit : v.getLsbD 63 <;>
    simp only [execTailWrite, pfReach_of_pfWrites hw, smpRingWrite, bitOf_toNat, hbit, hw, smpTailWrite, htail, h, if_true,
      Bool.false_eq_true, if_false]

theorem execClrWrap_clears : execClrWrap s = .next { s with cnt := { s.cnt with wrap := [] } } :=
  congrArg _ (if_pos hw)

end

end

/-- Settles O53: windows and seconds count outside Dark, and each register takes the values within its range. -/
theorem countersAndSamplerComplete : Obligations.CountersAndSamplerComplete :=
  fun _ => ⟨fun hd => ⟨execWindowEnd_latches hd, execOpSecondsTick_counts hd⟩,
    fun hw _ => ⟨execCntWinCtrlWrite_within hw, execCntWinCtrlWrite_outside hw, execCntSmpCtrlWrite_within hw, execCntSmpCtrlWrite_outside hw,
      execCntSmpPeriodWrite_within hw, execCntSmpPeriodWrite_outside hw, execTailWrite_keeps_tail hw, execClrWrap_clears hw⟩⟩

end Sys2Proof.Machine
end

section
/-! SUPPORT. The manager's role, the staging copy and register writes (R652 to R654, R686, R899 to R905, R911): what each register write does with
and without a manager, which accesses reach a unit register, and the statements about them. -/

namespace Sys2Proof.Machine

/-! The manager's role (R653, R686). -/

section
variable {s : State}

section
variable (hr : pfReach s = true)
include hr

theorem execClaim_grants (hfree : s.chr.mgrHeld = false) (hbound : s.chr.spdmReq = false ∨ s.host.sessions.any (fun e => e.2) = true) :
    execClaim s = .next { s with chr := { s.chr with mgrHeld := true } } := by
  have hgrant : ¬ (s.chr.mgrHeld ∨ (s.chr.spdmReq ∧ ¬ s.host.sessions.any (fun e => e.2))) := by
    rintro (h | ⟨hreq, hnone⟩)
    · exact ne_true_of_eq_false hfree h
    · exact hbound.elim (ne_true_of_eq_false · hreq) (hnone ·)
  exact congrArg _ ((if_pos hr).trans (if_neg hgrant))

theorem execClaim_refused (h : s.chr.mgrHeld = true ∨ (s.chr.spdmReq = true ∧ s.host.sessions.any (fun e => e.2) = false)) :
    execClaim s = .next s :=
  congrArg _ ((if_pos hr).trans (if_pos (h.imp id fun ⟨hreq, hnone⟩ => ⟨hreq, ne_true_of_eq_false hnone⟩)))

theorem execRelease_ends (hm : s.chr.mgrHeld = true) : execRelease s = .next (dropImage { s with chr := { s.chr with mgrHeld := false } }) :=
  congrArg _ ((if_pos hr).trans (if_pos hm))

end

/-! A partly received image (R686). -/

theorem dropImage_of_none (h : s.chr.restore = none) : dropImage s = s := by
  simp only [dropImage, h]

theorem dropImage_of_some {i : RestoreImage} (h : s.chr.restore = some i) :
    dropImage s = { s with chr := { s.chr with restore := none, fnMode := Tbl.put .running s.chr.fnMode i.fn i.prior } } := by
  simp only [dropImage, h]

/-! The staging copy (R652, R654). -/

theorem setStaging_of_manager (hm : s.chr.mgrHeld = true) (m : Memory) : setStaging m s = { s with chr := { s.chr with staging := m } } :=
  if_pos hm

/-- Without a manager the staging copy is not written. -/
theorem setStaging_of_free (hm : s.chr.mgrHeld = false) (m : Memory) : setStaging m s = s :=
  if_neg (ne_true_of_eq_false hm)

theorem stagingPut_of_free (hm : s.chr.mgrHeld = false) (o n v : Nat) : stagingPut o n v s = s :=
  setStaging_of_free hm _

/-- An offset of the staging copy reads the copy's word there. -/
theorem arrayRead_staging {o : Nat} (hlo : 0x240000 ≤ o) (hhi : o < 0x280000) :
    arrayRead s o = some (leNat (Memory.readBytes s.chr.staging (o - 0x240000) 8)) :=
  if_pos ⟨hlo, hhi⟩

theorem arrayRead_active {o : Nat} (hlo : 0x280000 ≤ o) (hhi : o < 0x2C0000) :
    arrayRead s o = some (leNat (Memory.readBytes s.chr.active (o - 0x280000) 8)) :=
  (if_neg (not_and_of_not_right _ hlo.not_gt)).trans (if_pos ⟨hlo, hhi⟩)

theorem execStageClear_of_free (hm : s.chr.mgrHeld = false) : execStageClear s = .next s := by
  rw [execStageClear, setStaging_of_free hm, ite_self]

theorem execStageCopy_of_free (hm : s.chr.mgrHeld = false) : execStageCopy s = .next s := by
  rw [execStageCopy, setStaging_of_free hm, ite_self]

theorem execCharterStagingWrite_of_free (hm : s.chr.mgrHeld = false) (o : Fin 32768) (v : Word) : execCharterStagingWrite o v s = .next s := by
  rw [execCharterStagingWrite, stagingPut_of_free hm, ite_self]

/-- Without a manager a write within the staging copy changes nothing. -/
theorem arrayWrite_of_free (hm : s.chr.mgrHeld = false) {o : Nat} (hlo : 0x240000 ≤ o) (hhi : o < 0x280000) (n v : Nat) :
    arrayWrite o n v s = s := by
  rw [arrayWrite, if_pos ⟨hlo, hhi⟩, stagingPut_of_free hm, ite_self]

/-- Byte i of the little-endian bytes of a number. -/
theorem getD_leBytes {n i : Nat} (h : i < n) (v : Nat) : (leBytes n v).getD i 0 = BitVec.ofNat 8 (v / 2 ^ (8 * i)) := by
  induction n generalizing i v with
  | zero => omega
  | succ n ih =>
    cases i with
    | zero => simp [leBytes]
    | succ i =>
      rw [leBytes, List.getD_cons_succ, ih (by omega), Nat.div_div_eq_div_mul, Nat.mul_succ, Nat.add_comm, pow_add, show 2 ^ 8 = 256 from rfl]

/-- A word that is written reads back byte by byte, and no other byte is touched. -/
theorem read_writeBytes_word {m : Memory} (h : Memory.wf m = true) (o v a : Nat) :
    Memory.read (Memory.writeBytes m o (leBytes 8 v)) a =
      if o ≤ a ∧ a < o + 8 then BitVec.ofNat 8 (v / 2 ^ (8 * (a - o))) else Memory.read m a := by
  rw [read_writeBytes h, length_leBytes]
  split
  · rw [getD_leBytes (by omega)]
  · rfl

end

/-- Settles O55: the role is granted, kept and ended, and its holder's writes change the staging copy. -/
theorem managerRoleAndStaging : Obligations.ManagerRoleAndStaging := by
  refine fun s => ⟨fun hr => ⟨execClaim_grants hr, execClaim_refused hr, execRelease_ends hr⟩,
    fun hw => ⟨fun hm => ⟨?clear, ?copy, fun hwf o v => ?word⟩, fun h => ?nothing, fun i h => ?aborts, ?unq⟩⟩
  case clear => exact congrArg _ ((if_pos hw).trans (setStaging_of_manager hm _))
  case copy => exact congrArg _ ((if_pos hw).trans (setStaging_of_manager hm _))
  case word => exact ⟨_, congrArg _ ((if_pos hw).trans (setStaging_of_manager hm _)), read_writeBytes_word hwf (8 * o.val) v.toNat⟩
  case nothing => exact congrArg _ ((if_pos hw).trans (dropImage_of_none h))
  case aborts => exact congrArg _ ((if_pos hw).trans (dropImage_of_some h))
  case unq => exact congrArg _ (if_pos hw)

/-! Writes by offset (R899 to R902, R911). -/

section
variable {s : State} {o : Nat}

/-- A write of the PF within an array, where the array takes none, changes nothing. -/
theorem execRegisterWrite_of_array (hlo : 0x100000 ≤ o) (ha : (arrayRead s o).isSome = true) {v : Word} (hkept : arrayWrite o 8 v.toNat s = s) :
    execRegisterWrite 0 o v s = .next s := by
  simp [execRegisterWrite, hlo.not_gt, ha, hkept]

theorem execLowHalfWrite_of_array (ha : (arrayRead s o).isSome = true) {v : BitVec 32} (hkept : arrayWrite o 4 v.toNat s = s) :
    execLowHalfWrite o v s = .next s := by
  simp [execLowHalfWrite, ha, hkept]

/-- The high half of a word lies in the same array. -/
theorem execHighHalfWrite_of_array (ha : (arrayRead s o).isSome = true) {v : BitVec 32} (hkept : o % 8 = 0 → arrayWrite (o + 4) 4 v.toNat s = s) :
    execHighHalfWrite o v s = .next s := by
  by_cases ho : o % 8 = 0
  · simp [execHighHalfWrite, ha, hkept ho]
  · simp [execHighHalfWrite, ho]

end

/-- Settles O56: every write to the staging copy goes through its manager, and both copies read at their offsets. -/
theorem stagingNeedsAManager : Obligations.StagingNeedsAManager := by
  refine fun s => ⟨fun hm => ⟨execStageClear_of_free hm, execStageCopy_of_free hm, execCharterStagingWrite_of_free hm,
    fun o v hlo hhi => ?register, fun o v hlo hhi => ⟨?low, ?high⟩⟩, fun o ho => ⟨?staging, ?active⟩⟩
  case register =>
    exact execRegisterWrite_of_array (by omega) (by rw [arrayRead_staging hlo hhi]; rfl) (arrayWrite_of_free hm hlo hhi _ _)
  case low => exact execLowHalfWrite_of_array (by rw [arrayRead_staging hlo hhi]; rfl) (arrayWrite_of_free hm hlo hhi _ _)
  case high =>
    exact execHighHalfWrite_of_array (by rw [arrayRead_staging hlo hhi]; rfl) fun _ => arrayWrite_of_free hm (by omega) (by omega) _ _
  case staging => rw [arrayRead_staging (by omega) (by omega), Nat.add_sub_cancel_left]
  case active => rw [arrayRead_active (by omega) (by omega), Nat.add_sub_cancel_left]

/-! Unit registers (R901, R902, R911). -/

/-- The unit registers, counted by unit. -/
theorem unitCount_total : ((List.range 18).map unitCount).sum = 8062 := by rfl

section
variable {s : State} {o : Nat} {v : BitVec 32}

theorem exec_lowHalfWrite_narrow (hr : pfReach s = true) (ho : o % 8 = 0) (ha : arrayRead s o = none) (hw : regWide o = some false) :
    exec (.lowHalfWrite o v) s = .next (regWrite o v.toNat s) := by
  change execLowHalfWrite o v s = _
  simp [execLowHalfWrite, hr, ho, ha, hw]

theorem exec_highHalfWrite_narrow (ha : arrayRead s o = none) (hw : regWide o = some false) : exec (.highHalfWrite o v) s = .next s := by
  change execHighHalfWrite o v s = _
  simp [execHighHalfWrite, ha, hw]

/-- A high half with no low half pending takes the low half as the register reads. -/
theorem exec_highHalfWrite_alone (hr : pfReach s = true) (ho : o % 8 = 0) (ha : arrayRead s o = none) (hw : regWide o = some true)
    (hp : Tbl.find s.regs.lowPending o = none) (hwo : lowWoOnly o v.toNat = false) :
    exec (.highHalfWrite o v) s = .next (regWrite o (v.toNat * 2 ^ 32 + regRead s o % 2 ^ 32) (dropLow o s)) := by
  change execHighHalfWrite o v s = _
  simp [execHighHalfWrite, lowHalf, dropLow, hr, ho, ha, hw, hp, hwo]

/-- It does nothing where all it would do is let a WO field of the low half act. -/
theorem exec_highHalfWrite_woOnly (ha : arrayRead s o = none) (hp : Tbl.find s.regs.lowPending o = none) (hwo : lowWoOnly o v.toNat = true) :
    exec (.highHalfWrite o v) s = .next s := by
  change execHighHalfWrite o v s = _
  simp [execHighHalfWrite, ha, hp, hwo]

end

/-- Settles O60: the accesses reach the register at their offset as its width has it. -/
theorem registerWritesReachTheirRegister : Obligations.RegisterWritesReachTheirRegister := by
  refine ⟨unitCount_total, fun s o hr ho ha hlo => ⟨exec_registerWrite_unit hr ho ha hlo,
    fun v hw => ⟨?low, ?high⟩, fun v hw hp => ⟨?alone, ?woOnly⟩⟩⟩
  case low => exact exec_lowHalfWrite_narrow hr ho ha hw
  case high => exact exec_highHalfWrite_narrow ha hw
  case alone =>
    rintro hwo t rfl
    exact exec_highHalfWrite_alone hr ho ha hw hp hwo
  case woOnly => exact exec_highHalfWrite_woOnly ha hp

end Sys2Proof.Machine
end

section
/-! SUPPORT. Fetching commands and beginning their parts (R555, R559, R564, R568, R572, R657, R915): what a fetched entry becomes by its checks, that
the first range-lock entry waits for none, and the statement about them. -/

namespace Sys2Proof.Machine

/-! Fetching a command (R559, R657). -/

/-- The command of an entry, with no part and no data. -/
def fetchedCmd (s : State) (f : Fin 1024) (q : BitVec 16) (e : Sqe) : OutCmd :=
  { cmd := { fn := f, sq := q.toNat, cid := e.cid }, sqe := e, gen := s.chr.generation, admin := decide (q.toNat = 0), write := (lockRanges e).2.2,
    parts := [], committed := false, silent := false, held := false, data := [], copied := false }

/-- The command of an I/O entry with its parts and its place for data. -/
def fetchedIo (s : State) (f : Fin 1024) (q : BitVec 16) (e : Sqe) : OutCmd :=
  { fetchedCmd s f q e with
    parts := mkParts s (placesBale e) (lockRanges e).2.1 (lockRanges e).1, data := List.replicate (resultLen s e) 0 }

/-- An entry may be fetched, its command is not outstanding, and its queue is not being deleted. -/
def Fetchable (s : State) (f : Fin 1024) (q : BitVec 16) (e : Sqe) : Prop :=
  mayFetch s f q.toNat = true ∧ findCmd s { fn := f, sq := q.toNat, cid := e.cid } = none ∧
    ∃ x, Tbl.find (getCtrl s f).sqs q.toNat = some x ∧ x.deleting = none

section
variable {s : State} {f : Fin 1024} {q : BitVec 16} {e : Sqe}

theorem execCommandFetch_adminRefused (h : Fetchable s f 0 e) {st : Status} (hcheck : adminCheck s f e = some st) (hst : st ≠ stDenied) :
    execCommandFetch f 0 e s =
      .next (completeCmd { fn := f, sq := 0, cid := e.cid } st 0 0 [] (addCmd (fetchedCmd s f 0 e) (takeEntry f 0 s))) := by
  obtain ⟨hmay, hnew, x, hx, hdel⟩ := h
  simp only [BitVec.ofNat_eq_ofNat, BitVec.toNat_ofNat, Nat.zero_mod] at hmay hnew hx
  simp [execCommandFetch, fetchedCmd, hmay, hnew, hx, hdel, hcheck, hst]

theorem execCommandFetch_adminJoins (h : Fetchable s f 0 e) (hsgl : e.sgl = none) (hcheck : adminCheck s f e = none)
    (hdata : toModule true e = false) : execCommandFetch f 0 e s = .next (addCmd (fetchedCmd s f 0 e) (takeEntry f 0 s)) := by
  obtain ⟨hmay, hnew, x, hx, hdel⟩ := h
  simp only [BitVec.ofNat_eq_ofNat, BitVec.toNat_ofNat, Nat.zero_mod] at hmay hnew hx
  simp [execCommandFetch, fetchedCmd, hmay, hnew, hx, hdel, hcheck, hdata, hsgl]

/-- An I/O command without data to the module joins as it is, or takes the fetch of range-lock entries where it locks. -/
theorem execCommandFetch_io (h : Fetchable s f q e) (hq : q ≠ 0) (hsgl : e.sgl = none) (hcheck : ioCheck s f e = none)
    (hdata : toModule false e = false) :
    execCommandFetch f q e s = .next (
      if (fetchedIo s f q e).parts = [] then addCmd (fetchedIo s f q e) (takeEntry f q.toNat s)
      else fetchLocking f q.toNat (fetchedIo s f q e) s) := by
  obtain ⟨hmay, hnew, x, hx, hdel⟩ := h
  have hadmin : q.toNat ≠ 0 := fun h0 => hq (BitVec.eq_of_toNat_eq h0)
  simp [execCommandFetch, fetchedIo, fetchedCmd, hmay, hnew, hx, hdel, hcheck, hdata, hsgl, hadmin]

end

/-! Beginning a part (R564, R568). -/

section
variable {s : State}

/-- The first range-lock entry waits for none. -/
theorem lockWaits_head {l : LockEntry} {ls : List LockEntry} (hlocks : s.host.locks = l :: ls) {pr : PartRef} (hl : lockIs pr l = true) :
    lockWaits s pr = false := by
  simp [lockWaits, hlocks, hl]

/-- The part of the first range-lock entry, when it waits and nothing stalls it, begins. -/
theorem execPartBegin_head {st : Fin 64} {r : CmdRef} {i : Nat} {l : LockEntry} {ls : List LockEntry} {p : Part} (hlocks : s.host.locks = l :: ls)
    (hl : lockIs { station := st, cmd := r, index := i } l = true) (hp : partOf s { station := st, cmd := r, index := i } = some p)
    (hw : p.state = .waiting) (hstall : partStalled s l.write l.nsid l.slba l.nlb = false) :
    execPartBegin st r i s = .next (updPart { station := st, cmd := r, index := i } (fun p => { p with state := .running }) s) := by
  have hwaits := lockWaits_head hlocks hl
  obtain ⟨hst, hr, hi⟩ := of_decide_eq_true hl
  simp [execPartBegin, hlocks, hst, hr, hi, hp, hw, hwaits, hstall, hl]

end

/-- Settles O25: an entry that may be fetched is refused, joins, or takes its range-lock entries, and the first entry's part begins. -/
theorem fetchTakesAnEntryAndPartsBegin : Obligations.FetchTakesAnEntryAndPartsBegin := by
  refine fun s f q e => ⟨fun hmay hnew hx hsgl => ?fetch, fun st i l ls p hlocks hst hr hi hp hw hstall => ?begins⟩
  case fetch =>
    have hfetch : Fetchable s f q e := ⟨hmay, hnew, hx⟩
    refine ⟨?refused, ?joins, fun hq hcheck hdata => ⟨fun hnone => ?whole, fun hsome => ?locks⟩⟩
    case refused =>
      rintro rfl st hcheck hst
      exact execCommandFetch_adminRefused hfetch hcheck hst
    case joins =>
      rintro rfl hcheck hdata
      exact execCommandFetch_adminJoins hfetch hsgl hcheck hdata
    case whole => exact (execCommandFetch_io hfetch hq hsgl hcheck hdata).trans (congrArg _ (if_pos hnone))
    case locks => exact (execCommandFetch_io hfetch hq hsgl hcheck hdata).trans (congrArg _ (if_neg hsome))
  case begins => exact execPartBegin_head hlocks (decide_eq_true ⟨hst, hr, hi⟩) hp hw hstall

end Sys2Proof.Machine
end

section
/-! SUPPORT. The outstanding commands (R566, R673, R677, R915): notes, counters and posted completions leave them, and a command that completes is no
longer one of them. -/

namespace Sys2Proof.Machine

section
variable (s : State)

/-! Notes and counters. -/

@[simp] theorem cntAdd_host (slot n : Nat) : (cntAdd slot n s).1.host = s.host := by
  unfold cntAdd
  dsimp only
  split <;> rfl

@[simp] theorem postTo_host (handle : Nat) (mask : BitVec 32) (cls : Nat) : (postTo handle mask cls s).1.host = s.host := by
  unfold postTo
  dsimp only
  repeat' split
  all_goals rfl

@[simp] theorem routeFailed_host (i : Nat) : (routeFailed i s).host = s.host := rfl

@[simp] theorem sendMsix_out (fn v : Nat) : (sendMsix fn v s).host.out = s.host.out := by
  unfold sendMsix
  dsimp only
  repeat' split
  all_goals rfl

@[simp] theorem ite_tallyAdd_host {p : Prop} [Decidable p] (i : Nat) : (if p then tallyAdd i s else s).host = s.host := by
  split <;> rfl

@[simp] theorem deliver_out (i : Nat) : (deliver i s).1.host.out = s.host.out := by
  unfold deliver
  dsimp only
  split
  case h_1 => simp
  case h_2 => split <;> simp
  case h_3 =>
    generalize hposted : postTo _ _ 2 s = x
    obtain ⟨s1, result, seen⟩ := x
    have hhost : s1.host = s.host := by rw [← postTo_host s _ _ 2, hposted]
    cases result <;> simp [hhost]
  case h_4 => simp

@[simp] theorem raiseOne_out (i : Nat) : (raiseOne i s).1.host.out = s.host.out := by
  unfold raiseOne
  split
  · rfl
  · dsimp only
    generalize hcounted : (if 1024 ≤ i then _ else _ : State × Bool) = x
    have hhost : x.1.host = s.host := by
      rw [← hcounted]
      split <;> simp
    split
    · simp [hhost]
    · split <;> simp [hhost]

@[simp] theorem occOne_out (typ src : Nat) (detail : List Byte) : (occOne typ src detail s).1.host.out = s.host.out := by
  unfold occOne
  dsimp only
  split <;> simp

@[simp] theorem noteOne_out (x : Note) : (noteOne x s).1.host.out = s.host.out := by
  cases x with
  | raise i => exact raiseOne_out s i
  | occ typ src detail => exact occOne_out s typ src detail

theorem runNotes_out (n : Nat) (l : List Note) : (runNotes n l s).host.out = s.host.out := by
  induction n generalizing l s with
  | zero => cases l <;> rfl
  | succ n ih =>
    cases l with
    | nil => rfl
    | cons x l => exact (ih _ _).trans (noteOne_out s x)

@[simp] theorem raise_out (i : Nat) : (raise i s).host.out = s.host.out := runNotes_out s _ _

@[simp] theorem cntMod_out (i n : Nat) : (cntMod i n s).host.out = s.host.out := by
  unfold cntMod count
  dsimp only
  split <;> simp

/-! Completions. -/

@[simp] theorem postCpl_out (c : Completion) : (postCpl c s).host.out = s.host.out := by
  unfold postCpl
  dsimp only
  split
  · rfl
  · split
    · rfl
    · split
      · rfl
      · split
        · exact sendMsix_out _ _ _
        · rfl

end

section
variable (r : CmdRef) (st : Status) (dw0 dw1 : Nat) (data : List Byte) (s : State)

/-- A command that completes leaves the outstanding ones. -/
theorem completeCore_out : (completeCore r st dw0 dw1 data s).host.out = s.host.out.filter (fun x => x.cmd ≠ r) := by
  unfold completeCore
  cases hfind : findCmd s r with
  | none => exact (List.filter_eq_self.2 fun x hx => by simpa using List.find?_eq_none.1 hfind x hx).symm
  | some c =>
    dsimp only
    split
    · rfl
    · split <;> simp [miSend, cntFnAdd]

theorem completeCore_out_subset : (completeCore r st dw0 dw1 data s).host.out ⊆ s.host.out := by
  rw [completeCore_out]
  exact List.filter_subset_self _

theorem settleSq_out_subset (fn sq : Nat) : (settleSq fn sq s).host.out ⊆ s.host.out := by
  unfold settleSq
  dsimp only
  split
  · exact List.Subset.refl _
  · split
    · exact List.Subset.refl _
    · split
      · exact List.Subset.refl _
      · exact completeCore_out_subset _ _ _ _ _ _

theorem settleFn_out_subset (fn : Nat) : (settleFn fn s).host.out ⊆ s.host.out := by
  unfold settleFn
  split
  · exact List.Subset.refl _
  · split
    · exact completeCore_out_subset _ _ _ _ _ _
    · exact List.Subset.refl _

/-- A command that has completed is not outstanding. -/
theorem findCmd_completeCmd : findCmd (completeCmd r st dw0 dw1 data s) r = none := by
  refine List.find?_eq_none.2 fun x hx => ?_
  have hcore := settleSq_out_subset _ _ _ (settleFn_out_subset _ _ hx)
  rw [completeCore_out] at hcore
  simpa using (List.mem_filter.1 hcore).2

end

end Sys2Proof.Machine
end

section
/-! SUPPORT. Caravan commands and function commands (R622 to R629, R672, R673, R677, R678, R682): what each does where nothing refuses it, and the
statement about them. -/

namespace Sys2Proof.Machine

section
variable {s : State} {r : CmdRef} {c : OutCmd}

/-! Admin commands of one opcode. -/

/-- The command that an opcode finds has that opcode. -/
theorem opc_of_adminOf {opc : Nat} (h : adminOf s r opc = some c) : c.sqe.opc = opc := by
  rw [adminOf, findCmd_of_adminOf h] at h
  obtain ⟨⟨-, hopc, -⟩, -⟩ := Option.ite_none_right_eq_some.1 h
  exact hopc

/-- A command has one opcode. -/
theorem adminOf_ne {opc opc' : Nat} (h : adminOf s r opc = some c) (hne : opc ≠ opc') : adminOf s r opc' = none := by
  rw [adminOf, findCmd_of_adminOf h]
  exact if_neg fun ⟨_, hopc, _⟩ => hne ((opc_of_adminOf h).symm.trans hopc)

theorem adminOf_of_findCmd_none {opc : Nat} (h : findCmd s r = none) : adminOf s r opc = none := by
  rw [adminOf, h]

theorem onAdmin_of_none {opc : Nat} (h : adminOf s r opc = none) (f : OutCmd → State → State) : onAdmin r opc f s = s := by
  rw [onAdmin, h]

/-- A command that names an enabled function runs for it. -/
theorem onFn_of_enabled {opc : Nat} {p : Sqe → Bool} (h : adminOf s r opc = some c) (hp : p c.sqe = true)
    (hf : vfEnabled s (c.sqe.cdw11 % 2 ^ 10) = true) (f : OutCmd → Nat → State → State) :
    onFn r opc p f s = f c (c.sqe.cdw11 % 2 ^ 10) s := by
  rw [onFn, onAdmin_of_some h]
  exact (if_neg (not_not.2 hp)).trans (if_neg (not_not.2 hf))

end

/-! Caravan Form, Join, Leave and Dissolve (R622 to R629). -/

/-- No membership change of this station is under way, and the command does not wait for one. -/
def CarIdle (s : State) (r : CmdRef) : Prop :=
  awaits s r = false ∧ s.rte.forming = none ∧ s.rte.joining = none ∧ s.rte.leaving = none

/-- The data of a caravan command has its version and its zeros; Join may carry the identity (R622). -/
def CarFormOk (d : List Byte) (action : Nat) : Prop :=
  imgField d 0 1 = 1 ∧ zeros d 3 5 = true ∧ zeros d 25 39 = true ∧ (action = 1 ∨ zeros d 8 8 = true)

section
variable {s : State} {r : CmdRef} {c : OutCmd} (h : adminOf s r 0xC2 = some c) (hidle : CarIdle s r)
include h hidle

theorem carCommand_runs {a : Nat} (hact : c.sqe.cdw11 % 16 = a) (hform : CarFormOk (fitBytes 128 c.sqe.data) a)
    (hcode : a = 0 → imgField (fitBytes 128 c.sqe.data) 1 1 ≤ 1 ∧ imgField (fitBytes 128 c.sqe.data) 2 1 ≤ 2)
    (f : OutCmd → List Byte → State → State) : carCommand r a f s = f c (fitBytes 128 c.sqe.data) s := by
  obtain ⟨hwait, hforming, hjoining, hleaving⟩ := hidle
  obtain ⟨hver, hz3, hz25, hz8⟩ := hform
  have hopen : ¬ (c.sqe.cdw11 % 16 ≠ a ∨ awaits s r ∨ s.rte.forming.isSome ∨ s.rte.joining.isSome ∨ s.rte.leaving.isSome) := by
    simp [hact, hwait, hforming, hjoining, hleaving]
  have hgood : ¬ (imgField (fitBytes 128 c.sqe.data) 0 1 ≠ 1 ∨ ¬ zeros (fitBytes 128 c.sqe.data) 3 5 ∨
      ¬ zeros (fitBytes 128 c.sqe.data) 25 39 ∨ (a ≠ 1 ∧ ¬ zeros (fitBytes 128 c.sqe.data) 8 8) ∨
      (a = 0 ∧ (1 < imgField (fitBytes 128 c.sqe.data) 1 1 ∨ 2 < imgField (fitBytes 128 c.sqe.data) 2 1))) := by
    rintro (h | h | h | ⟨hne, h⟩ | ⟨hz, h⟩)
    · exact h hver
    · exact h hz3
    · exact h hz25
    · exact hz8.elim hne h
    · have := hcode hz
      omega
  rw [carCommand, onAdmin_of_some h]
  exact (if_neg hopen).trans (if_neg hgood)

/-- The record of a Form. -/
def formRecord (s : State) (d : List Byte) (id : Word) : CarRecord :=
  let ms := BitVec.ofNat 64 (imgField d 16 8)
  { id := id.toNat, epoch := s.rte.record.epoch + 1, topo := imgField d 1 1, code := imgField d 2 1, members := ms,
    groups := (List.range 64).foldl (fun t i => Tbl.put 0 t i (if ms.getLsbD i then imgField d (64 + i) 1 else 0)) [], station := 0 }

/-- The operation of a Form: what is wrong with its record, and with this station as a member. -/
def formOp (s : State) (r : CmdRef) (x : CarRecord) : CarOp :=
  { cmd := some r, kind := 0, phase := 0, record := x, joiner := 0,
    found := recordCauses x ++ (if newMemberCause s (is200 s) x = 0 then [] else [(ownStation s, newMemberCause s (is200 s) x)]) }

theorem execCaravanForm_checks (hact : c.sqe.cdw11 % 16 = 0) (hform : CarFormOk (fitBytes 128 c.sqe.data) 0)
    (htopo : imgField (fitBytes 128 c.sqe.data) 1 1 ≤ 1) (hcode : imgField (fitBytes 128 c.sqe.data) 2 1 ≤ 2) {id : Word} (hid : id ≠ 0)
    (hown : (BitVec.ofNat 64 (imgField (fitBytes 128 c.sqe.data) 16 8)).getLsbD (ownStation s) = true) :
    execCaravanForm r id s = .next (settleWaits (formCheck (formOp s r (formRecord s (fitBytes 128 c.sqe.data) id)) s)) := by
  rw [execCaravanForm, carCommand_runs h hidle hact hform fun _ => ⟨htopo, hcode⟩]
  exact congrArg _ ((if_neg hid).trans (if_neg (not_not.2 hown)))

/-- Join of a lone Lit station asks over its lowest Up link. -/
theorem execCaravanJoin_asks (hact : c.sqe.cdw11 % 16 = 1) (hform : CarFormOk (fitBytes 128 c.sqe.data) 1) (hlone : inCaravan s = false)
    (hlit : s.mode.mode = .lit) {l : Nat} (hl : (List.range 4).find? (fun l => (getLink s l).state = .up) = some l)
    (hgroup : imgField (fitBytes 128 c.sqe.data) (64 + ownStation s) 1 ≤ 7) :
    execCaravanJoin r s = .next (send (getLink s l).peer .joinRequest
      [ownStation s, b2n (is200 s), ownSet s, imgField (fitBytes 128 c.sqe.data) (64 + ownStation s) 1, imgField (fitBytes 128 c.sqe.data) 8 8]
      [] [] { s with rte := { s.rte with joining := some r } }) := by
  have hmay : ¬ (inCaravan s ∨ s.mode.mode ≠ .lit) := by simp [hlone, hlit]
  rw [execCaravanJoin, carCommand_runs h hidle hact hform (by simp)]
  dsimp only
  rw [if_neg hmay, hl]
  exact congrArg _ (if_neg hgroup.not_gt)

/-- The caravan keeps enough members, and the leaving member's group enough, without it (R627). -/
def LeaveOk (s : State) (m : Nat) : Prop :=
  inCaravan s = true ∧ (members s).contains m = true ∧ 17 ≤ (members s).length ∧
    codeK s.rte.record.code + codeM s.rte.record.code + 2 ≤
      ((members s).filter (fun i => Tbl.get 0 s.rte.record.groups i = Tbl.get 0 s.rte.record.groups m)).length

theorem execCaravanLeave_leaves (hact : c.sqe.cdw11 % 16 = 2) (hform : CarFormOk (fitBytes 128 c.sqe.data) 2)
    (hleave : LeaveOk s (imgField (fitBytes 128 c.sqe.data) 24 1)) : let m := imgField (fitBytes 128 c.sqe.data) 24 1
    let u := { s with rte := { s.rte with leaving := some (r, m) } }
    execCaravanLeave r s = .next (
      if ¬ leads s then send (droverLead s) .order [ordLeave, m] [] [] u else settleAll (if leaveRuns s m then u else leaveBegin m u)) := by
  obtain ⟨hin, hmember, hcount, hgroup⟩ := hleave
  rw [execCaravanLeave, carCommand_runs h hidle hact hform (by simp)]
  refine congrArg _ ((if_neg ?_).trans (if_neg ?_))
  · simp only [hin, hmember, not_true_eq_false, or_self, not_false_eq_true]
  · exact not_or.2 ⟨hcount.not_gt, hgroup.not_gt⟩

/-- The operation of a Dissolve: a lone record under the next epoch. -/
def dissolveOp (s : State) (r : CmdRef) : CarOp :=
  { cmd := some r, kind := 3, phase := 1, record := { CarRecord.lone with epoch := s.rte.record.epoch + 1 }, joiner := 0, found := [] }

theorem execCaravanDissolve_asks (hact : c.sqe.cdw11 % 16 = 3) (hform : CarFormOk (fitBytes 128 c.sqe.data) 3) (hin : inCaravan s = true)
    (hempty : s.host.namespaces = []) : let o := dissolveOp s r
    execCaravanDissolve r s = .next (settleWaits (writeRecord 3 (ownStation s) o.record (askAll (otherLit s) 1 3
      ([1, 3, ownStation s] ++ recNums o.record) (some r) { s with rte := { s.rte with forming := some o } }))) := by
  rw [execCaravanDissolve, onAdmin_of_some h]
  refine congrArg _ ((if_neg (by omega)).trans ?_)
  rw [carCommand_runs h hidle hact hform (by simp)]
  exact if_neg (by simp [hin, hempty])

end

/-! Quiesce and Freeze (R672, R673, R677). -/

section
variable {s : State} {r : CmdRef} {c : OutCmd}

/-- The function of a command of functions. -/
def cmdFn (c : OutCmd) : Nat := c.sqe.cdw11 % 2 ^ 10

/-- A function that a Quiesce or a Freeze takes: it runs or is quiesced, and the command does not wait for it already. -/
def FnOpen (s : State) (r : CmdRef) (f : Nat) : Prop :=
  (Tbl.find s.chr.fnWait f).map (·.cmd) ≠ some r ∧ (fnMode s f = .running ∨ fnMode s f = .quiesced)

section
variable (h : adminOf s r 0xC3 = some c) (hf : vfEnabled s (cmdFn c) = true)
include h hf

theorem execQuiesceFunction_awaits (hopen : FnOpen s r (cmdFn c)) (ha : bitsOf c.sqe.cdw11 11 10 = 0) :
    execQuiesceFunction r s = .next (fnAwait c (cmdFn c) false s) := by
  obtain ⟨hwait, hmode⟩ := hopen
  rw [execQuiesceFunction, onFn_of_enabled h (by simp [ha]) hf]
  exact congrArg _ ((if_neg (by omega)).trans ((if_neg hwait).trans (if_pos hmode)))

theorem execQuiesceEndingThreads_ends (hopen : FnOpen s r (cmdFn c)) (ha : bitsOf c.sqe.cdw11 11 10 = 1) :
    execQuiesceEndingThreads r s =
      .next (quiesceFrom c (cmdFn c) ((threadsOf s (cmdFn c)).foldl (fun s e => endThread e.1 stAborted 0 0 s) s)) := by
  obtain ⟨hwait, hmode⟩ := hopen
  rw [execQuiesceEndingThreads, onFn_of_enabled h (by simp [ha]) hf]
  exact congrArg _ ((if_neg hwait).trans (if_neg (not_not.2 hmode)))

/-- Resume of a function that runs completes; the row's other form finds no command, for this one has completed. -/
theorem execQuiesceResume_running (ha : bitsOf c.sqe.cdw11 11 10 = 2) (hrun : fnMode s (cmdFn c) = .running) :
    execQuiesceResume r s = .next (failCmd c stOk s) := by
  have hresume : resumeFn c (cmdFn c) s = failCmd c stOk s := by
    rw [resumeFn, if_neg (by simp [hrun]), if_pos hrun]
  have hgone : adminOf (failCmd c stOk s) r 0xC4 = none := by
    rw [failCmd_of_adminOf h]
    exact adminOf_of_findCmd_none (findCmd_completeCmd _ _ _ _ _ _)
  rw [execQuiesceResume, onFn_of_enabled h (by simp [ha]) hf]
  exact congrArg _ ((congrArg _ hresume).trans (onAdmin_of_none hgone _))

end

section
variable (h : adminOf s r 0xC4 = some c) (hf : vfEnabled s (cmdFn c) = true)
include h hf

theorem execQuiesceResume_thaws (ha : bitOf c.sqe.cdw11 10 = true) : execQuiesceResume r s = .next (resumeFn c (cmdFn c) s) := by
  have hother : onFn r 0xC3 (fun q => bitsOf q.cdw11 11 10 == 2) resumeFn s = s := onAdmin_of_none (adminOf_ne h (by decide)) _
  rw [execQuiesceResume, hother, onFn_of_enabled h ha hf]
  rfl

theorem execFreezeFunction_awaits (hopen : FnOpen s r (cmdFn c)) (ha : bitOf c.sqe.cdw11 10 = false) :
    let u := (threadsOf s (cmdFn c)).foldl (fun s e => freezeThread e.1 s) (setFnMode (cmdFn c) .freezing s)
    execFreezeFunction r s = .next (fnAwait c (cmdFn c) true (engineFreeze (cmdFn c) u)) := by
  obtain ⟨hwait, hmode⟩ := hopen
  have hthawed : fnMode s (cmdFn c) ≠ .frozen := by
    intro hfrozen
    simp [hfrozen] at hmode
  rw [execFreezeFunction, onFn_of_enabled h (by simp [ha]) hf]
  exact congrArg _ ((if_neg hwait).trans ((if_neg hthawed).trans (if_neg (not_not.2 hmode))))

end

/-! Save and Restore (R678, R682). -/

section
variable (h : adminOf s r 0xC5 = some c) (hf : vfEnabled s (cmdFn c) = true)
include h hf

theorem execSaveFunctionState_thawed (hm : fnMode s (cmdFn c) ≠ .frozen) : execSaveFunctionState r s = .next (failCmd c stQuiesce s) := by
  rw [execSaveFunctionState, onFn_of_enabled h rfl hf]
  exact congrArg _ (if_pos hm)

theorem execSaveFunctionState_answers_image (hm : fnMode s (cmdFn c) = .frozen) (hal : imageOff c.sqe % 4 = 0)
    (hlt : imageOff c.sqe < imageLen s (cmdFn c)) :
    execSaveFunctionState r s =
      .next (answerData r 0 (fitBytes (adminLen c.sqe) ((stateImage s (cmdFn c)).drop (imageOff c.sqe))) s) := by
  rw [execSaveFunctionState, onFn_of_enabled h rfl hf]
  exact congrArg _ ((if_neg (not_not.2 hm)).trans (if_neg (not_or.2 ⟨not_not.2 hal, hlt.not_ge⟩)))

end

theorem execRestoreFunctionState_begins (h : adminOf s r 0xC6 = some c) (hf : vfEnabled s (cmdFn c) = true) (hnone : s.chr.restore = none)
    (ht : restoreTarget s (cmdFn c) = true) (hoff : imageOff c.sqe = 0) :
    execRestoreFunctionState r s = .next (restorePiece c (cmdFn c) { fn := cmdFn c, bytes := [], prior := fnMode s (cmdFn c) } s) := by
  rw [execRestoreFunctionState, onFn_of_enabled h rfl hf]
  dsimp only
  rw [hnone]
  exact congrArg _ ((if_neg (not_not.2 ht)).trans (if_neg (not_not.2 hoff)))

end

/-- Settles O34: each command begins, answers or completes as its row says where nothing refuses it. -/
theorem caravanAndFunctionCommandsTakeEffect : Obligations.CaravanAndFunctionCommandsTakeEffect := by
  refine fun s r c => ⟨fun h hwait hforming hjoining hleaving hver hz3 hz25 hz8 => ?caravan, fun h hf hwait hmode => ?quiesce,
    fun h hf => ?freeze, fun h hf => ?save, fun h hf hnone ht hoff => execRestoreFunctionState_begins h hf hnone ht hoff⟩
  case caravan =>
    have hidle : CarIdle s r := ⟨hwait, hforming, hjoining, hleaving⟩
    have hform {a : Nat} (ha : c.sqe.cdw11 % 16 = a) : CarFormOk (fitBytes 128 c.sqe.data) a := ⟨hver, hz3, hz25, hz8.imp_left ha.symm.trans⟩
    refine ⟨fun id ha htopo hcode hid hown => execCaravanForm_checks h hidle ha (hform ha) htopo hcode hid hown,
      fun l ha hlone hlit hl hgroup => execCaravanJoin_asks h hidle ha (hform ha) hlone hlit hl hgroup,
      fun ha hin hmember hcount hgroup => ?leave, fun ha hin hempty => execCaravanDissolve_asks h hidle ha (hform ha) hin hempty⟩
    case leave =>
      have hleaves := execCaravanLeave_leaves h hidle ha (hform ha) ⟨hin, hmember, hcount, hgroup⟩
      exact ⟨fun hlead => hleaves.trans (congrArg _ (if_pos (ne_true_of_eq_false hlead))),
        fun hlead hruns => hleaves.trans (congrArg _ ((if_neg (not_not.2 hlead)).trans
          (congrArg settleAll (if_neg (ne_true_of_eq_false hruns)))))⟩
  case quiesce =>
    exact ⟨execQuiesceFunction_awaits h hf ⟨hwait, hmode⟩, execQuiesceEndingThreads_ends h hf ⟨hwait, hmode⟩,
      execQuiesceResume_running h hf⟩
  case freeze =>
    exact ⟨execQuiesceResume_thaws h hf, fun ha hwait hmode => execFreezeFunction_awaits h hf ⟨hwait, hmode⟩ ha⟩
  case save => exact ⟨execSaveFunctionState_thawed h hf, execSaveFunctionState_answers_image h hf⟩

end Sys2Proof.Machine
end

section
/-! SUPPORT. Route links (R608 to R615, R617, R888): what a link does with a flit, a census, a HELLO and its sideband by the state it is in, and the
statement about them. -/

namespace Sys2Proof.Machine

section
variable {s : State} {l : Fin 4}

/-! An Up link (R609 to R614, R617). -/

section
variable (hup : (getLink s l).state = .up)
include hup

theorem execFlitReceive_up (bytes : List Byte) : let b := fitBytes 256 bytes
    let f := parseFlit b
    execFlitReceive l bytes s = .next (
      if crc32c (b.take 252) ≠ imgField b 252 4 then dropFlit l true f.kind s
      else if ¬ flitOk b f then dropFlit l false f.kind s else goodFlit l f s) :=
  congrArg _ (if_neg (not_not.2 hup))

theorem execNak_replays (q : BitVec 12) : execNak l q s = .next (startReplay l q.toNat s) :=
  congrArg _ (if_pos hup)

theorem execAckTimer_acknowledges (hu : 0 < (getLink s l).unacked) : let x := getLink s l
    execAckTimer l s = .next (setLink l { x with unacked := 0, flits := satAdd max64 x.flits 1 } s) :=
  congrArg _ (if_pos ⟨hup, hu⟩)

theorem execLinkDown_goes_down : execLinkDown l s = .next (linkDown l false s) :=
  congrArg _ (if_pos hup)

theorem execCreditCensus_sends : execCreditCensus l s = .next (sendFlit l (controlFlit s) s) :=
  congrArg _ (if_pos hup)

/-- Buffer i of a census adds up to its size (R617). -/
def censusHolds (a b c : List Nat) (i : Nat) : Prop := listGet 0 a i + listGet 0 b i + listGet 0 c i = vcBuffer (i / 2)

theorem execCensusReceive_good {a b c : List Nat} (hall : ∀ i < 8, censusHolds a b c i) : execCensusReceive l a b c s = .next s := by
  have hnone : (List.range 8).find? (fun i => decide (listGet 0 a i + listGet 0 b i + listGet 0 c i ≠ vcBuffer (i / 2))) = none :=
    List.find?_eq_none.2 fun i hi => by simpa [censusHolds] using hall i (List.mem_range.1 hi)
  rw [execCensusReceive, if_neg (not_not.2 hup), hnone]

/-- A census that fails at its first buffer is logged, and the link retrains. -/
theorem execCensusReceive_bad {a b c : List Nat} (hbad : ¬ censusHolds a b c 0) :
    execCensusReceive l a b c s = .next (raise (1068 + l) (logOcc 0x9001 (1068 + l)
      ([0, 0] ++ leBytes 2 (listGet 0 a 0) ++ leBytes 2 (listGet 0 b 0) ++ leBytes 2 (listGet 0 c 0))
      (retrainLink l (trainState s l (getLink s l)) s))) := by
  have hfirst : (List.range 8).find? (fun i => decide (listGet 0 a i + listGet 0 b i + listGet 0 c i ≠ vcBuffer (i / 2))) = some 0 :=
    List.find?_cons_of_pos (decide_eq_true hbad)
  rw [execCensusReceive, if_neg (not_not.2 hup), hfirst]
  rfl

end

/-! A link in Training (R608, R615). -/

section
variable (ht : (getLink s l).state = .training)
include ht

theorem execLinkTrained_sends_hello :
    execLinkTrained l s = .next (sendFlit l (controlFlit s) (setLink l { getLink s l with lock := 3 } s)) :=
  congrArg _ (if_pos ht)

theorem execHello_accepted (h : HelloMsg) (hlock : (getLink s l).lock = 3) (hcause : helloCause s l h = 0) :
    let u := setLink l { getLink s l with state := .up, version := 1, peer := h.station, peerLink := h.link } s
    execHello l h s = .next (linkChange { u with rte := { u.rte with
      fwSets := Tbl.put 0 u.rte.fwSets h.station h.fwSet, variants := Tbl.insert u.rte.variants h.station (b2n h.is200) } }) := by
  rw [execHello, if_neg (not_or.2 ⟨not_not.2 ht, not_not.2 hlock⟩), if_neg (not_not.2 hcause)]

theorem execHello_refused (h : HelloMsg) (hlock : (getLink s l).lock = 3) (hcause : helloCause s l h ≠ 0) :
    execHello l h s = .next (raise (1068 + l) (logOcc 0x9002 (1068 + l) (4 :: leBytes 1 (helloCause s l h))
      (setLink l { getLink s l with state := .refused, refuse := helloCause s l h, peer := h.station, peerLink := h.link } s))) :=
  congrArg Host.Outcome.next ((if_neg (not_or.2 ⟨not_not.2 ht, not_not.2 hlock⟩)).trans (if_pos hcause))

end

/-! The sideband and the news of a member's links (R610, R888). -/

/-- A line that goes high trains a link that is Down after Kindling step 4. -/
theorem execLinkSbChange_trains (hd : s.mode.mode ≠ .dark) (hlow : (getLink s l).sideband = true) (hdown : (getLink s l).state = .down)
    (h4 : s.kin.done.contains 4 = true) :
    execLinkSbChange l true s = .next (retrainLink l .training (setLink l { getLink s l with sideband := false } s)) := by
  have hchange : ¬ (s.mode.mode = .dark ∨ (getLink s l).sideband = !true) := not_or.2 ⟨hd, by rw [hlow]; decide⟩
  exact congrArg _ ((if_neg hchange).trans ((if_pos rfl).trans (if_pos ⟨hdown, h4⟩)))

/-- A line that goes low holds an Up link Down. -/
theorem execLinkSbChange_holds (hd : s.mode.mode ≠ .dark) (hhigh : (getLink s l).sideband = false) (hup : (getLink s l).state = .up) :
    execLinkSbChange l false s = .next (linkDown l true (setLink l { getLink s l with sideband := true } s)) := by
  have hchange : ¬ (s.mode.mode = .dark ∨ (getLink s l).sideband = !false) := not_or.2 ⟨hd, by rw [hhigh]; decide⟩
  exact congrArg _ ((if_neg hchange).trans ((if_neg Bool.false_ne_true).trans (if_pos hup)))

theorem execLinkStateNews_updates {st : Fin 64} (b : BitVec 4) (hd : s.mode.mode ≠ .dark) (hin : inCaravan s = true)
    (hother : st.val ≠ ownStation s) :
    execLinkStateNews st b s =
      .next (checkPartition (raise 1072 (updateRoutes { s with rte := { s.rte with linkMap := Tbl.put 0 s.rte.linkMap st b.toNat } }))) :=
  congrArg _ (if_neg (not_or.2 ⟨hd, not_or.2 ⟨not_not.2 hin, hother⟩⟩))

end

/-- Settles O42: each event of a link has the effect of the state the link is in. -/
theorem routeLinksTakeFlitsAndTrain : Obligations.RouteLinksTakeFlitsAndTrain := by
  refine fun s l => ⟨fun hup => ⟨fun bytes => ?flits, execNak_replays hup, execAckTimer_acknowledges hup, execLinkDown_goes_down hup,
      execCreditCensus_sends hup, fun a b c hall => execCensusReceive_good hup hall, fun a b c hbad => execCensusReceive_bad hup hbad⟩,
    fun ht => ⟨execLinkTrained_sends_hello ht, fun h hlock => ⟨execHello_accepted ht h hlock, execHello_refused ht h hlock⟩⟩,
    execLinkSbChange_trains, execLinkSbChange_holds, fun st b => execLinkStateNews_updates b⟩
  case flits =>
    have hflit := execFlitReceive_up hup bytes
    exact ⟨fun hcrc => hflit.trans (congrArg _ (if_pos hcrc)),
      fun hcrc hfields => hflit.trans (congrArg _ ((if_neg (not_not.2 hcrc)).trans (if_pos (ne_true_of_eq_false hfields)))),
      fun hcrc hfields => hflit.trans (congrArg _ ((if_neg (not_not.2 hcrc)).trans (if_neg (not_not.2 hfields))))⟩

end Sys2Proof.Machine
end
